-- ==== Sys2Proof/Word.lean ====
section
/-! DEFINITION. The word types of the YQ-9 and their plainest conversions (R3, R176). -/

namespace Sys2Proof

/-- One byte of memory (R223: a location is one byte). -/
abbrev Byte := BitVec 8
/-- A 32-bit word: a vector register in one lane, an instruction word. -/
abbrev Word := BitVec 32
/-- A 64-bit word: a scalar register, an address value. -/
abbrev DWord := BitVec 64
/-- A mask of the 32 lanes of a warp; bit l is lane l. -/
abbrev Mask := BitVec 32

/-- The 32 lanes in ascending order (R6). -/
def lanes : List Nat := List.range 32

/-- A Boolean as a bit. -/
def bit (b : Bool) : BitVec 1 := if b then 1 else 0

end Sys2Proof
end

