-- ==== Sys2Proof/Syntax.lean ====
section
/-! DEFINITION. The one inductive of everything the machine does in one step: every row of
spec/opcode_table.json, the Stolir instruction forms first, then the packets, mailbox operations
and events. -/

namespace Sys2Proof

/-- The guard of an extended form (R99): predicate number and its inversion. -/
structure Guard where
  neg : Bool
  p : BitVec 6
deriving DecidableEq, Repr

/-- The control fields that any extended form may carry: guard (R99) and wait mask (R101). -/
structure Ctl where
  guard : Option Guard
  waitk : BitVec 8
deriving DecidableEq, Repr

/-- The control fields of a short form: none (R97). -/
def Ctl.none : Ctl := ⟨.none, 0⟩

/-- Operand B of a vector instruction (R100, R104). -/
inductive OpB where
  | reg (r : BitVec 8)
  | sreg (s : BitVec 5)
  | imm (i : BitVec 16)
  | lit (l : BitVec 64)
deriving DecidableEq, Repr

/-- Operand B of a scalar-pipe instruction (R165). -/
inductive SOpB where
  | reg (s : BitVec 5)
  | imm (i : BitVec 16)
  | lit (l : BitVec 64)
deriving DecidableEq, Repr

/-- A signed offset: IMM16, or literal[31:0] under LEN 11 (R105, R240). -/
inductive Off where
  | imm (i : BitVec 16)
  | lit (l : BitVec 32)
deriving DecidableEq, Repr

/-- A length operand: IMM16 under LI, or a scalar register (R250, R262). -/
inductive LenOp where
  | imm (i : BitVec 16)
  | reg (s : BitVec 5)
deriving DecidableEq, Repr

/-- The count operand of xlane: a vector register, or IMM16 under BI (R197). -/
inductive XCount where
  | reg (r : BitVec 8)
  | imm (i : BitVec 16)
deriving DecidableEq, Repr

/-- The lane operand of lnrd and lnwr: a scalar register, or IMM16 under LI (R357). -/
inductive LaneOp where
  | reg (s : BitVec 5)
  | imm (l : BitVec 5)
deriving DecidableEq, Repr

/-- The type codes 000 to 011 of R143. -/
inductive Ty where
  | s32 | n32 | s64 | n64
deriving DecidableEq, Repr

/-- All eight type codes of R143 (cvt.i). -/
inductive Ty8 where
  | s32 | n32 | s64 | n64 | s16 | n16 | s8 | n8
deriving DecidableEq, Repr

/-- The comparison conditions of R158. -/
inductive Cond where
  | eq | ne | lt | le | gt | ge
deriving DecidableEq, Repr

/-- The conditions of fcmp (R190). -/
inductive FCond where
  | eq | ne | lt | le | gt | ge | un | num
deriving DecidableEq, Repr

/-- The condition codes of R24. -/
inductive WCond where
  | eq | ne | ltu | geu | andnz | andz
deriving DecidableEq, Repr

/-- The rounding modes of R177. -/
inductive Rm where
  | rn | rz | ru | rd
deriving DecidableEq, Repr

/-- The operations of fsgn (R187, R192). -/
inductive SgnOp where
  | cp | cpn | xs
deriving DecidableEq, Repr

/-- The operand types of cvt.f (R194). -/
inductive CvtTy where
  | f32 | f64 | f16 | bf16 | s8 | n8 | s16 | n16 | s32 | n32 | s64 | n64
deriving DecidableEq, Repr

/-- The SB formats of R171 as cvt.sb and cvt.xsb code them (R195). -/
inductive SbFmt where
  | sb4 | sb8 | sb16
deriving DecidableEq, Repr

/-- The source types of cvt.sb (R195). -/
inductive SbSrc where
  | f32 | f16 | bf16
deriving DecidableEq, Repr

/-- The destination types of cvt.xsb (R196). -/
inductive SbDst where
  | f32 | f16 | bf16 | f64
deriving DecidableEq, Repr

/-- What vote writes (R163). -/
inductive VoteDst where
  | any (p : BitVec 6)
  | all (p : BitVec 6)
  | ballot (s : BitVec 5)
  | vballot (v : BitVec 8)
deriving DecidableEq, Repr

/-- The modes of xlane (R197). -/
inductive XMode where
  | get | sft | fly | rot
deriving DecidableEq, Repr

/-- The combining operations of red and scan (R199). -/
inductive RedOp where
  | addS32 | addS64 | minS32 | minN32 | maxS32 | maxN32 | and | or | xor
  | fadd | fmin | fmax | dadd
deriving DecidableEq, Repr

/-- The value types of ckacc (R201). -/
inductive CkTy where
  | s32 | n32 | b64 | f32
deriving DecidableEq, Repr

/-- A destination that is a scalar or a vector register (sreg, R165). -/
inductive SVDst where
  | s (r : BitVec 5)
  | v (r : BitVec 8)
deriving DecidableEq, Repr

/-- A destination that is a predicate or a vector register (tstat, R255). -/
inductive PVDst where
  | p (r : BitVec 6)
  | v (r : BitVec 8)
deriving DecidableEq, Repr

/-- The sizes of sld (R166). -/
inductive SldSz where
  | b64 | n32 | s32 | n16 | s16 | n8 | s8
deriving DecidableEq, Repr

/-- The sizes of ld and ldq (R243). -/
inductive LdSz where
  | n8 | s8 | n16 | s16 | b32 | b64 | b128
deriving DecidableEq, Repr

/-- The sizes of st (R243). -/
inductive StSz where
  | b8 | b16 | b32 | b64 | b128
deriving DecidableEq, Repr

/-- The scopes an annotation may name (R241). -/
inductive Scope where
  | core | quad | die | pkg | pod
deriving DecidableEq, Repr

/-- The ordering annotation of an access (R223, R241). -/
inductive Ann where
  | relaxed
  | acq (s : Scope)
  | rel (s : Scope)
  | ar (s : Scope)
deriving DecidableEq, Repr

/-- The kinds of fence (R250). -/
inductive FenceKind where
  | acq | rel | ar | sc
deriving DecidableEq, Repr

/-- The paths of R220. -/
inductive Path where
  | ls | cp | mx | ga | co
deriving DecidableEq, Repr

/-- The atomic operations of R246. -/
inductive AtomOp where
  | add | min | max | and | or | xor | exch | cas | incwrap
deriving DecidableEq, Repr

/-- The address forms of R240. -/
inductive Addr where
  | vec (a : BitVec 8) (off : Off)
  | sca (s : BitVec 5) (b : BitVec 8) (sc : BitVec 2) (off : Off)
deriving DecidableEq, Repr

/-- The transposing forms of tload and tstore (R255). -/
inductive Tr where
  | none | tr8 | tr16
deriving DecidableEq, Repr

/-- The directions of cp (R262): source space, then destination space. -/
inductive CpDir where
  | gg | gs | sg | ss
deriving DecidableEq, Repr

/-- The operations of uimask (R315). -/
inductive MaskOp where
  | wr | set | clr
deriving DecidableEq, Repr

/-- The classes of lnrd and lnwr with their register (R357). -/
inductive LnReg where
  | v (r : BitVec 8) (w64 : Bool)
  | p (r : BitVec 6)
  | f (r : BitVec 5)
deriving DecidableEq, Repr

/-- The actions of tret (R361). -/
inductive TretAct where
  | resume | skip | kill | stop
deriving DecidableEq, Repr

/-- An event record of the traverse (R50). -/
structure EvRec where
  type : BitVec 8
  origin : BitVec 8
  flags : BitVec 16
  grid : BitVec 32
  paramA : BitVec 64
  paramB : BitVec 64
  pclose : BitVec 64
deriving DecidableEq, Repr

/-- What a request asks of its target package: a pod-window operation (R236), `readRgn` that of a load in a region, `get` and `put` those of the CP path, a barrier arrival (R301), or
the reading and release of park images at a physical address (R65). -/
inductive ROp where
  | read (n : Nat)
  | readRgn (n : Nat)
  | write (bytes : List Byte)
  | get (n : Nat)
  | put (bytes : List Byte)
  | atomic (op : AtomOp) (w64 sg : Bool) (b c : BitVec 64)
  | send (vec : BitVec 6) (payload : BitVec 64)
  | arrive (grid slot rank : Nat)
  | park (addr n : Nat)
  | unpark (grid list : Nat)
deriving DecidableEq, Repr

/-- A pod-window request (R209, R236). -/
structure RReq where
  id : Nat
  src : Nat
  dst : Nat
  pctx : BitVec 16
  off : Nat
  op : ROp
deriving DecidableEq, Repr

/-- The answer to a pod-window request (R236, R237): `poisoned` names the first byte that an uncorrectable
error hides (R365), `strong` says that a region's load met a strongly ordered page (R214), and `image` carries a part
of a park image with its poisoned granules (R65, R363). -/
inductive RResp where
  | data (bytes : List Byte)
  | done
  | refused
  | poisoned (k : Nat)
  | strong
  | image (bytes : List Byte) (bad : List Nat)
deriving DecidableEq, Repr

/-- Who sends a user-level interrupt (R307). -/
inductive Sender where
  | own
  | kernel (ctx : Nat)
  | peer (pkg : Nat) (pctx : BitVec 16)
  | host (fn : Nat)
deriving DecidableEq, Repr

/-- A user-level interrupt on its way to a context of this package (R308, R309). `ctx` is the
package context number of the receiver; under MODE 10 the receiver is found by the pod context. -/
structure SendMsg where
  sender : Sender
  ctx : Option Nat
  pctx : BitVec 16
  vec : BitVec 6
  payload : BitVec 64
deriving DecidableEq, Repr

/-- The requests a sponsor receives from a rejoining package (R70). -/
inductive JoinAsk where
  | openRow (row : BitVec 64)
  | allow
  | abandon
deriving DecidableEq, Repr

/-- What a write reaches: n bytes at an offset of BAR 0 or of a control window (R5, R341, R379, R396), or a BAR
as the target of a host's AtomicOp (R378). -/
inductive RegSel where
  | bar0 (fn off n : Nat)
  | control (core off n : Nat)
  | atomicOp (fn : Nat)
deriving DecidableEq, Repr

/-- What another member of a collective gives (R222, R270): its package, KIND, OP, COUNT, GGEN and buffer. -/
structure Contrib where
  pkg : Nat
  kind : BitVec 8
  op : BitVec 8
  count : Nat
  gen : Nat
  bytes : List Byte
deriving DecidableEq, Repr

/-- Where a chain of transfer records runs: the command that heads queue 0 of a block, or a copy channel of
a function (R273, R385). -/
inductive ChainAt where
  | queue (b : Nat)
  | channel (fn n : Nat)
deriving DecidableEq, Repr

/-- The memory tiers of the package (R205). -/
inductive Tier where
  | dram | lpddr
deriving DecidableEq, Repr

/-- The storage in which an error is found (R363, R364); an index beside it says where in it: a granule of memory
or L2, a lane of a vector or predicate register, a half of a scalar register, a scratchpad word, an accumulator word
or plane element of a core, a granule of a block's shadow image, the virtual address of a line of an instruction
cache. The plat, event and batch buffers are one. -/
inductive ErrSite where
  | mem (t : Tier)
  | vreg (b w r : Nat)
  | sreg (b w r : Nat)
  | preg (b w r : Nat)
  | spad (b : Nat)
  | acc (core : Nat)
  | plane (core : Nat)
  | shadow (b : Nat)
  | iline (core ctx : Nat)
  | plat
deriving DecidableEq, Repr

/-- A host's request to the memory aperture of a function: whether the root complex made it (R380). -/
structure HostReq where
  rc : Bool
  fn : Nat
deriving DecidableEq, Repr

/-- A retransmission on a link and whether the flit passed (R371). -/
structure FlitTry where
  link : Nat
  ok : Bool
deriving DecidableEq, Repr

/-- A failing lane of a link: outward or inward (R371). -/
structure LaneFail where
  link : Nat
  outward : Bool
deriving DecidableEq, Repr

/-- One constructor per row of spec/opcode_table.json. -/
inductive Instr where
  -- control flow (R145 to R153)
  | braShort (off : BitVec 24)
  | braLit (off : BitVec 32)
  | bra (c : Ctl) (off : Off) (prio : Option (BitVec 8))
  | callShort (off : BitVec 24)
  | callLit (off : BitVec 32)
  | call (c : Ctl) (off : Off) (prio : Option (BitVec 8))
  | jmp (c : Ctl) (a : BitVec 8) (prio : Option (BitVec 8))
  | brx (c : Ctl) (a : BitVec 8) (n : BitVec 8) (off : Off) (prio : Option (BitVec 8))
  | retShort
  | ret (c : Ctl)
  | callx (c : Ctl) (a : BitVec 8) (prio : Option (BitVec 8))
  | nopShort
  | nop (c : Ctl)
  | join (wk : BitVec 8) (prio : BitVec 8)
  | yield (c : Ctl)
  | exitShort
  | exit (c : Ctl)
  | trap (c : Ctl) (code : BitVec 16)
  | brk (c : Ctl) (code : BitVec 16)
  | spawn (c : Ctl) (pd : BitVec 6) (sa : BitVec 5) (entry : BitVec 16)
  -- vector integer and address (R154 to R161)
  | addShort (d a b : BitVec 8)
  | addLit (d a : BitVec 8) (l : BitVec 32)
  | add (c : Ctl) (d a : BitVec 8) (b : OpB) (ty : Ty) (sat : Bool)
  | sub (c : Ctl) (d a : BitVec 8) (b : OpB) (ty : Ty) (sat : Bool)
  | add3 (c : Ctl) (d a : BitVec 8) (b : OpB) (rc : BitVec 8) (ty : Ty) (sat : Bool)
  | mulLo (c : Ctl) (d a : BitVec 8) (b : OpB) (ty : Ty)
  | mulHi (c : Ctl) (d a : BitVec 8) (b : OpB) (ty : Ty)
  | mad (c : Ctl) (d a : BitVec 8) (b : OpB) (rc : BitVec 8) (ty : Ty)
  | madWide (c : Ctl) (d a : BitVec 8) (b : OpB) (rc : BitVec 8) (sgn : Bool)
  | min (c : Ctl) (d a : BitVec 8) (b : OpB) (ty : Ty)
  | max (c : Ctl) (d a : BitVec 8) (b : OpB) (ty : Ty)
  | abs (c : Ctl) (d a : BitVec 8) (w64 sat : Bool)
  | neg (c : Ctl) (d a : BitVec 8) (w64 sat : Bool)
  | andShort (d a b : BitVec 8)
  | andLit (d a : BitVec 8) (l : BitVec 32)
  | and (c : Ctl) (d a : BitVec 8) (b : OpB) (w64 : Bool)
  | or (c : Ctl) (d a : BitVec 8) (b : OpB) (w64 : Bool)
  | xor (c : Ctl) (d a : BitVec 8) (b : OpB) (w64 : Bool)
  | not (c : Ctl) (d a : BitVec 8) (w64 : Bool)
  | tern (c : Ctl) (d a : BitVec 8) (b : OpB) (rc : BitVec 8) (table : BitVec 8) (w64 : Bool)
  | shlShort (d a b : BitVec 8)
  | shlLit (d a : BitVec 8) (l : BitVec 32)
  | shl (c : Ctl) (d a : BitVec 8) (b : OpB) (w64 : Bool)
  | shr (c : Ctl) (d a : BitVec 8) (b : OpB) (w64 : Bool)
  | sar (c : Ctl) (d a : BitVec 8) (b : OpB) (w64 : Bool)
  | bfe (c : Ctl) (d a : BitVec 8) (b : OpB) (ty : Ty)
  | bfi (c : Ctl) (d a : BitVec 8) (b : OpB) (rc : BitVec 8) (w64 : Bool)
  | popc (c : Ctl) (d a : BitVec 8) (w64 : Bool)
  | clz (c : Ctl) (d a : BitVec 8) (w64 : Bool)
  | brev (c : Ctl) (d a : BitVec 8) (w64 : Bool)
  | sel (c : Ctl) (d a : BitVec 8) (b : OpB) (pc : BitVec 6) (w64 : Bool)
  | cmp (c : Ctl) (pd : BitVec 6) (a : BitVec 8) (b : OpB) (cond : Cond) (ty : Ty)
  | lea (c : Ctl) (d : BitVec 8) (base : SVDst) (b : OpB) (sh : BitVec 4) (sgn : Bool)
  | movShort (d b : BitVec 8)
  | movLit (d : BitVec 8) (l : BitVec 32)
  | mov (c : Ctl) (d : BitVec 8) (b : OpB) (w64 : Bool)
  | movk (c : Ctl) (d : BitVec 8) (v : BitVec 16) (h : BitVec 2) (w64 : Bool)
  | cvtI (c : Ctl) (d a : BitVec 8) (dt st : Ty8)
  -- predicates (R162 to R164)
  | pand (c : Ctl) (d a b : BitVec 6) (na nb : Bool)
  | por (c : Ctl) (d a b : BitVec 6) (na nb : Bool)
  | pxor (c : Ctl) (d a b : BitVec 6) (na nb : Bool)
  | pnot (c : Ctl) (d a : BitVec 6) (na : Bool)
  | pmov (c : Ctl) (d a : BitVec 6) (na : Bool)
  | vote (c : Ctl) (d : VoteDst) (a : BitVec 6) (na : Bool)
  | pcnt (c : Ctl) (d : BitVec 8) (a : BitVec 6) (na pre : Bool)
  -- scalar pipe (R165 to R169)
  | saddShort (d a b : BitVec 5)
  | saddLit (d a : BitVec 5) (l : BitVec 64)
  | sadd (wk : BitVec 8) (d a : BitVec 5) (b : SOpB)
  | ssub (wk : BitVec 8) (d a : BitVec 5) (b : SOpB)
  | smul (wk : BitVec 8) (d a : BitVec 5) (b : SOpB)
  | sand (wk : BitVec 8) (d a : BitVec 5) (b : SOpB)
  | sor (wk : BitVec 8) (d a : BitVec 5) (b : SOpB)
  | sxor (wk : BitVec 8) (d a : BitVec 5) (b : SOpB)
  | sshl (wk : BitVec 8) (d a : BitVec 5) (b : SOpB)
  | sshr (wk : BitVec 8) (d a : BitVec 5) (b : SOpB) (arith : Bool)
  | scmp (wk : BitVec 8) (d a : BitVec 5) (b : SOpB) (cond : Cond) (uns : Bool)
  | smov (wk : BitVec 8) (d : BitVec 5) (b : SOpB)
  | sld (wk : BitVec 8) (d a : BitVec 5) (b : SOpB) (sz : SldSz)
  | bcast (c : Ctl) (d : BitVec 8) (a : BitVec 5) (w64 : Bool)
  | lane (wk : BitVec 8) (d : BitVec 5) (a : BitVec 8) (b : SOpB) (w64 : Bool)
  | sreg (c : Ctl) (d : SVDst) (num : BitVec 16)
  | sbra (wk : BitVec 8) (a : BitVec 5) (off : Off) (z : Bool)
  -- floating point (R186 to R193)
  | faddShort (d a b : BitVec 8)
  | faddLit (d a : BitVec 8) (l : BitVec 32)
  | fadd (c : Ctl) (d a : BitVec 8) (b : OpB) (rm : Rm) (ftz : Bool)
  | fsub (c : Ctl) (d a : BitVec 8) (b : OpB) (rm : Rm) (ftz : Bool)
  | fmul (c : Ctl) (d a : BitVec 8) (b : OpB) (rm : Rm) (ftz : Bool)
  | fma (c : Ctl) (d a : BitVec 8) (b : OpB) (rc : BitVec 8) (rm : Rm) (ftz : Bool)
  | fmin (c : Ctl) (d a : BitVec 8) (b : OpB) (w64 ftz : Bool)
  | fmax (c : Ctl) (d a : BitVec 8) (b : OpB) (w64 ftz : Bool)
  | fcmp (c : Ctl) (pd : BitVec 6) (a : BitVec 8) (b : OpB) (cond : FCond) (w64 ftz : Bool)
  | frcp (c : Ctl) (d a : BitVec 8) (w64 : Bool) (rm : Rm) (ftz : Bool)
  | frsq (c : Ctl) (d a : BitVec 8) (rm : Rm) (ftz : Bool)
  | fsqrt (c : Ctl) (d a : BitVec 8) (w64 : Bool) (rm : Rm) (ftz : Bool)
  | fex2 (c : Ctl) (d a : BitVec 8) (rm : Rm) (ftz : Bool)
  | flg2 (c : Ctl) (d a : BitVec 8) (rm : Rm) (ftz : Bool)
  | fsin (c : Ctl) (d a : BitVec 8) (rm : Rm) (ftz : Bool)
  | fcos (c : Ctl) (d a : BitVec 8) (rm : Rm) (ftz : Bool)
  | frnd (c : Ctl) (d a : BitVec 8) (w64 : Bool) (rm : Rm) (ftz : Bool)
  | fcls (c : Ctl) (pd : BitVec 6) (a : BitVec 8) (w64 : Bool) (mask : BitVec 10)
  | fsgn (c : Ctl) (d a : BitVec 8) (b : OpB) (w64 : Bool) (op : SgnOp)
  | hfma2 (c : Ctl) (d a : BitVec 8) (b : OpB) (rc : BitVec 8) (bf : Bool) (rm : Rm) (ftz : Bool)
  | hadd2 (c : Ctl) (d a : BitVec 8) (b : OpB) (bf : Bool) (rm : Rm) (ftz : Bool)
  | hmul2 (c : Ctl) (d a : BitVec 8) (b : OpB) (bf : Bool) (rm : Rm) (ftz : Bool)
  | dfma (c : Ctl) (d a : BitVec 8) (b : OpB) (rc : BitVec 8) (rm : Rm)
  | dadd (c : Ctl) (d a : BitVec 8) (b : OpB) (rm : Rm)
  | dmul (c : Ctl) (d a : BitVec 8) (b : OpB) (rm : Rm)
  -- conversions (R194 to R196)
  | cvtF (c : Ctl) (d a : BitVec 8) (dt st : CvtTy) (rm : Rm) (ftz : Bool)
  | cvtSb (c : Ctl) (d a rc : BitVec 8) (fmt : SbFmt) (src : SbSrc) (gap : BitVec 4)
      (clamp : BitVec 14) (h : Bool) (xs : BitVec 2)
  | cvtXsb (c : Ctl) (d a rc : BitVec 8) (fmt : SbFmt) (dt : SbDst) (rm : Rm) (h : Bool)
      (xs : BitVec 2)
  -- cross-lane and checksums (R197 to R203)
  | xlane (c : Ctl) (d a : BitVec 8) (b : XCount) (mode : XMode) (w64 : Bool)
      (pv : Option (BitVec 6))
  | matchLanes (c : Ctl) (d a : BitVec 8) (all w64 : Bool)
  | red (c : Ctl) (d a : BitVec 8) (op : RedOp)
  | scan (c : Ctl) (d a : BitVec 8) (op : RedOp) (excl : Bool)
  | ckacc (c : Ctl) (ck : BitVec 2) (a : BitVec 8) (ty : CkTy) (neg : Bool)
  | ckchk (c : Ctl) (a b : BitVec 2) (e : BitVec 16)
  | ckclr (wk : BitVec 8) (ck : BitVec 2) (f64 : Bool)
  | ckrd (wk : BitVec 8) (sd : BitVec 5) (ck : BitVec 2) (md : Bool)
  -- loads, stores, atomics (R240 to R252)
  | ld (c : Ctl) (d : BitVec 8) (addr : Addr) (sp : Bool) (ann : Ann) (sz : LdSz)
  | ldq (c : Ctl) (d : BitVec 8) (addr : Addr) (m : BitVec 2) (sz : LdSz)
  | st (c : Ctl) (d : BitVec 8) (addr : Addr) (sp : Bool) (ann : Ann) (sz : StSz)
  | atom (c : Ctl) (d a : BitVec 8) (off : BitVec 16) (b rc : BitVec 8) (op : AtomOp) (ann : Ann)
      (w64 sg sp : Bool)
  | redM (c : Ctl) (a : BitVec 8) (off : BitVec 16) (b : BitVec 8) (op : AtomOp) (ann : Ann)
      (w64 sg sp : Bool)
  | waitv (c : Ctl) (a : BitVec 8) (off : Off) (b : BitVec 8) (cond : WCond) (ann : Ann)
      (w64 sp : Bool)
  | fence (c : Ctl) (kind : FenceKind) (scope : Scope) (x y : Path)
  | prf (c : Ctl) (l1 : Bool) (addr : Addr)
  | flushHost (c : Ctl) (a : BitVec 5) (len : LenOp)
  | invalHost (c : Ctl) (a : BitVec 5) (len : LenOp)
  -- tiles, copies, queues (R253 to R270)
  | tcfg (c : Ctl) (t : BitVec 4) (a b : BitVec 5) (fmt : BitVec 8) (rdy : Bool)
  | tstat (c : Ctl) (d : PVDst) (t : BitVec 4)
  | tfree (c : Ctl) (t : BitVec 4)
  | tload (c : Ctl) (t : BitVec 4) (tlr : BitVec 8) (a : BitVec 5) (tr : Tr)
      (tok : Option (BitVec 3))
  | tstore (c : Ctl) (t : BitVec 4) (tlr : BitVec 8) (a : BitVec 5) (tr : Tr)
      (tok : Option (BitVec 3))
  | cp (c : Ctl) (d a : BitVec 5) (len : LenOp) (dir : CpDir) (tok : BitVec 3)
  | waitk (c : Ctl) (n : BitVec 6)
  | qpush (c : Ctl) (q : BitVec 3) (a : BitVec 5)
  | qpop (c : Ctl) (d : BitVec 5) (q : BitVec 3)
  | rput (c : Ctl) (d a : BitVec 5) (len : LenOp) (sp : Bool) (tok : BitVec 3)
  | rget (c : Ctl) (d a : BitVec 5) (len : LenOp) (sp : Bool) (tok : BitVec 3)
  -- the matrix engine (R277 to R294)
  | mrsv (wk : BitVec 8) (pd : BitVec 6)
  | mrel (wk : BitVec 8)
  | mgang (wk : BitVec 8) (a : BitVec 5)
  | mstat (wk : BitVec 8) (d : BitVec 8)
  | mlds (wk : BitVec 8) (t : BitVec 4) (b : BitVec 8) (tr : Bool) (xs : BitVec 2)
  | mswp (wk : BitVec 8)
  | mstr (wk : BitVec 8) (acc : BitVec 2) (t : BitVec 4) (b : BitVec 8) (n1 a0 : BitVec 6)
      (xs : BitVec 2) (za : Bool)
  | mrd (wk : BitVec 8) (d : BitVec 8) (acc : BitVec 2) (row : BitVec 6) (cb : BitVec 2)
  | mwr (wk : BitVec 8) (acc : BitVec 2) (a : BitVec 8) (row : BitVec 6) (cb : BitVec 2)
  | mst (wk : BitVec 8) (acc : BitVec 2) (t : BitVec 4) (b : BitVec 8) (n1 a0 : BitVec 6)
      (xs : BitVec 2) (gap : BitVec 4)
  | mstM (wk : BitVec 8) (acc : BitVec 2) (tlr : BitVec 8) (sc : BitVec 5) (n1 a0 : BitVec 6)
      (gap : BitVec 4) (tok : BitVec 3)
  | mclr (wk : BitVec 8) (acc : Option (BitVec 2))
  -- barriers, pod, user-level interrupts (R299 to R321)
  | bar (wk : BitVec 8) (scope : Scope) (slot : BitVec 4) (count : BitVec 6)
      (pv : Option (BitVec 6))
  | barArr (wk : BitVec 8) (sd : BitVec 5) (scope : Scope) (slot : BitVec 4) (count : BitVec 6)
  | barWt (wk : BitVec 8) (scope : Scope) (slot : BitVec 4) (a : BitVec 5)
      (pv : Option (BitVec 6))
  | psub (c : Ctl) (a b : BitVec 5)
  | pyld (c : Ctl) (pd : BitVec 6) (a : BitVec 5)
  | uibind (wk : BitVec 8) (d a : BitVec 5) (u : Bool)
  | uisend (c : Ctl) (a b : BitVec 5)
  | uiwait (wk : BitVec 8)
  | uimask (wk : BitVec 8) (d a : BitVec 5) (op : MaskOp)
  | uiret (wk : BitVec 8) (pd : BitVec 6)
  -- regions, lanes, traps, CSRs (R357 to R362)
  | rgnShort
  | rgn (wk : BitVec 8)
  | rgnx (wk : BitVec 8)
  | npe (wk : BitVec 8)
  | pe (wk : BitVec 8)
  | lnrd (wk : BitVec 8) (sd : BitVec 5) (src : LnReg) (ln : LaneOp)
  | lnwr (wk : BitVec 8) (dst : LnReg) (sa : BitVec 5) (ln : LaneOp)
  | tret (wk : BitVec 8) (act : TretAct) (cmt exp : Bool) (m : Option (BitVec 5))
  | csrr (wk : BitVec 8) (d : BitVec 5) (csr : BitVec 16)
  | csrw (wk : BitVec 8) (csr : BitVec 16) (a : BitVec 5) (op : MaskOp)
  -- packets (R23, R25, R26); q is the package's number of the queue
  | launch (q : Nat)
  | copy (q : Nat)
  | wait (q : Nat)
  | signal (q : Nat)
  | branch (q : Nat)
  | barrier (q : Nat)
  | flush (q : Nat)
  | inval (q : Nat)
  | mark (q : Nat)
  | barrierSatisfied (q : Nat)
  | waitPoll (q : Nat)
  | launchComplete (g : Nat)
  | copyComplete (q : Nat) (cmd : Nat)
  -- wake cells and the slot scheduler (R32 to R40)
  | wtail (q : Nat) (v : BitVec 64)
  | wcqdone (q : Nat) (v : BitVec 64)
  | wctlRestart (q : Nat)
  | wctlRestartSkip (q : Nat)
  | wctlAbort (q : Nat)
  | latchedTailRangeEntry (q : Nat)
  | slotGrant (die : Nat)
  | slotLoaded (q : Nat)
  | unmapSave (q : Nat)
  -- traverse and plat (R46 to R75)
  | batchSend
  | stationClose
  | startOffer (g : Nat)
  | raiseFinish (g : Nat)
  -- dispatcher, pre-emption, test (R81, R305, R343 to R356, R370)
  | quartetPlace (g : Nat)
  | blockSwapOut (b : Nat)
  | contextAreaCopy (b : Nat)
  | blockResume (b : Nat)
  | waiterSwitch (core : Nat)
  | warpHalt (b w : Nat)
  | eccReentry (b w : Nat)
  -- translation, memory and engine events (R216 to R308)
  | shootdownComplete (id : Nat)
  | waitvRecheck (b w : Nat)
  | remoteAccess (r : RReq)
  | remoteAck (id : Nat) (r : RResp)
  | transferComplete (b x : Nat)
  | copyf (b x : Nat)
  | engineResult (b : Nat) (q : BitVec 3) (ext : List Contrib)
  | chainRecordDone (at_ : ChainAt)
  | matrixOpExecute (core : Nat)
  | barFitDetect (g : Nat) (slot : Nat)
  | uisendReceive (m : SendMsg)
  | hostInterruptSend (fn : Nat) (off : Nat) (v : BitVec 64)
  -- mailbox operations of a function (R381 to R383)
  | ctxNew (fn : Nat)
  | ctxFree (fn : Nat)
  | qReg (fn : Nat)
  | qDel (fn : Nat)
  | iblk (fn : Nat)
  | shoot (fn : Nat)
  | podbind (fn : Nat)
  | log (fn : Nat)
  | share (fn : Nat)
  | debug (fn : Nat)
  | podForm (fn : Nat)
  | podJoin (fn : Nat)
  | podRule (fn : Nat)
  | mailboxUnblock (fn : Nat)
  | sched (fn : Nat)
  | fwStage (fn : Nat)
  | fwActivate (fn : Nat)
  | fwStatus (fn : Nat)
  -- the supervisor core's control window (R341, R342)
  | sactResume (core : Nat) (mask : BitVec 32)
  | sactSkip (core : Nat) (mask : BitVec 32)
  | sactKill (core : Nat) (mask : BitVec 32)
  | sactEnd (core : Nat) (mask : BitVec 32) (code : BitVec 8)
  | sactUtrap (core : Nat) (mask : BitVec 32) (code : BitVec 8)
  | sactRelease (core : Nat) (mask : BitVec 32)
  | sactHalt (core : Nat)
  | sactReserved (core : Nat)
  -- management, boot, links, power (R363 to R398)
  | loadCompletion (b w id : Nat)
  -- what only the outside begins: timers, the host, the fabric, the supervisor core, power
  | waitTimeout (q : Nat)
  | sliceExpiry (q : Nat)
  | batchReceive (station : BitVec 64) (sender : Nat) (recs : List EvRec)
  | suspectTimeout
  | voteReceive (voter : Nat) (station : BitVec 64) (suspect : BitVec 256)
  | snapshotLoad (station : BitVec 64) (words : List (Nat × BitVec 64))
  | joinProgressCheck (p : Nat)
  | drainDeadline (die : Nat)
  | stopDeadline (b : Nat)
  | testDue (die quad : Nat)
  | testDeadline (die quad : Nat)
  | testComplete (die quad : Nat) (rows : List (Nat × Nat)) (other : Bool)
  | priResponse (page : Nat) (ok : Bool) (target : Nat)
  | atsInvalidation (page : Nat)
  | watchdogPet
  | watchdogExpiry
  | probationTimeout
  | apertureRead (req : HostReq) (off n : Nat)
  | apertureWrite (req : HostReq) (off : Nat) (bytes : List Byte)
  | monitorSample (m : Nat) (x : BitVec 32)
  | registerWrite (r : RegSel) (v : BitVec 64)
  | boot
  | getVersion
  | getCapabilities
  | negotiateAlgorithms (mlDsa87 sha3 other : Bool)
  | getDigests
  | getCertificate
  | challenge
  | getMeasurements (index : Nat)
  | spdmUnsupported (code : BitVec 8)
  | scrub (found : ErrSite) (at_ : Nat) (uncorrectable : Bool)
  | flitRetransmit (f : FlitTry)
  | laneRetrain (f : LaneFail)
  | linkDown (link : Nat)
  | unreachableReport (p : Nat)
  | thermalThrottle (die : Nat) (raise : Bool)
  | thermalShutdown
  | fenceI (core : Nat)
  | joinRequest (p : Nat) (ask : JoinAsk)
  | powerLoss
  | functionLevelReset (fn : Nat)
  | mctlClear (m : Nat)
  | chhead (fn n : Nat) (v : BitVec 64)
  | svecWrite (core off : Nat) (v : BitVec 64)
deriving DecidableEq, Repr

end Sys2Proof
end

