-- ==== Sys2Proof/WellFormed.lean ====
section
/-! DEFINITION. Which terms of Instr are instructions of the manual: the register ranges, pair rules
and field values that R98, R143 and the instruction chapters demand whatever the kernel declares.
Events and packets are always well formed. -/

namespace Sys2Proof

/-- A scalar register exists (R98: s0 to s23). -/
def sOk (s : BitVec 5) : Bool := decide (s.toNat < 24)

/-- A register pair starts at an even register (R143). -/
def evenReg (r : BitVec 8) : Bool := r.getLsbD 0 == false

/-- A register that must be a pair when `w` holds. -/
def pairIf (w : Bool) (r : BitVec 8) : Bool := !w || evenReg r

/-- Operand B of a vector instruction of width 64 (`w`) or 32 (R100, R104). -/
def OpB.wf (w : Bool) : OpB → Bool
  | .reg r => pairIf w r
  | .sreg s => sOk s
  | .imm _ => true
  | .lit l => w || decide (l.toNat < 2 ^ 32)

/-- Operand B of a scalar instruction (R165). -/
def SOpB.wf : SOpB → Bool
  | .reg s => sOk s
  | .imm _ => true
  | .lit _ => true

/-- A branch offset: a literal is a multiple of 4 (R105). -/
def Off.wfBranch : Off → Bool
  | .imm _ => true
  | .lit l => decide (l.toNat % 4 = 0)

/-- A length operand (R250, R262). -/
def LenOp.wf : LenOp → Bool
  | .imm _ => true
  | .reg s => sOk s

/-- A lane operand (R357). -/
def LaneOp.wf : LaneOp → Bool
  | .imm _ => true
  | .reg s => sOk s

/-- Whether a type code has 64 bits (R143). -/
def Ty.w64 : Ty → Bool
  | .s64 => true
  | .n64 => true
  | .s32 => false
  | .n32 => false

/-- Whether a type code of cvt.i has 64 bits. -/
def Ty8.w64 : Ty8 → Bool
  | .s64 => true
  | .n64 => true
  | _ => false

/-- Whether a type of cvt.f is a pair (R194). -/
def CvtTy.w64 : CvtTy → Bool
  | .f64 => true
  | .s64 => true
  | .n64 => true
  | _ => false

/-- Whether a type of cvt.f is an integer type. -/
def CvtTy.isInt : CvtTy → Bool
  | .f32 => false
  | .f64 => false
  | .f16 => false
  | .bf16 => false
  | _ => true

/-- Whether .ftz has a side to act on (R194). -/
def CvtTy.ftzOk : CvtTy → Bool
  | .f32 => true
  | .f16 => true
  | .bf16 => true
  | _ => false

/-- The largest magnitude of an SB format (R171), which bounds its clamp code (R14). -/
def SbFmt.maxM : SbFmt → Nat
  | .sb4 => 3
  | .sb8 => 63
  | .sb16 => 16383

/-- Whether a combining operation is 64 bits wide (R199). -/
def RedOp.w64 : RedOp → Bool
  | .addS64 => true
  | .dadd => true
  | _ => false

/-- The special register numbers of R168. -/
def sregListed (n : BitVec 16) : Bool :=
  decide (n.toNat ≤ 9) || (decide (16 ≤ n.toNat) && decide (n.toNat ≤ 20)) ||
    (decide (32 ≤ n.toNat) && decide (n.toNat ≤ 38))

/-- The special registers of 64 bits (R168). -/
def sregW64 (n : BitVec 16) : Bool :=
  n == 0x14 || (decide (34 ≤ n.toNat) && decide (n.toNat ≤ 37))

/-- The CSR numbers of R362. -/
def csrListed (n : BitVec 16) : Bool := decide (n.toNat ≤ 4) || n == 0x10

/-- The element format codes of R14. -/
def fmtListed (f : BitVec 8) : Bool :=
  (decide (1 ≤ f.toNat) && decide (f.toNat ≤ 3)) || (decide (16 ≤ f.toNat) && decide (f.toNat ≤ 19)) ||
    (decide (32 ≤ f.toNat) && decide (f.toNat ≤ 41))

/-- An LS address (R240): the base of a global AM 0 address is a pair. -/
def Addr.wf (sp : Bool) : Addr → Bool
  | .vec a _ => pairIf (!sp) a
  | .sca s _ _ _ => sOk s

/-- The annotations of a load or a wait (R243, R249). -/
def Ann.loadOk : Ann → Bool
  | .relaxed => true
  | .acq _ => true
  | _ => false

/-- The annotations of a store or a memory reduction (R243, R246). -/
def Ann.storeOk : Ann → Bool
  | .relaxed => true
  | .rel _ => true
  | _ => false

/-- The data register of a load or store of 64 or 128 bits (R243). -/
def LdSz.regOk (d : BitVec 8) : LdSz → Bool
  | .b64 => evenReg d
  | .b128 => decide (d.toNat % 4 = 0)
  | _ => true

/-- The data register of a store (R243). -/
def StSz.regOk (d : BitVec 8) : StSz → Bool
  | .b64 => evenReg d
  | .b128 => decide (d.toNat % 4 = 0)
  | _ => true

/-- SG goes only with min and max (R246). -/
def AtomOp.sgOk (sg : Bool) : AtomOp → Bool
  | .min => true
  | .max => true
  | _ => !sg

/-- A count of a barrier: at most 32, and nonzero only at .core (R303). -/
def barCountOk (sc : Scope) (count : BitVec 6) : Bool :=
  decide (count.toNat ≤ 32) && (count == 0 || sc == .core)

/-- Rows a0 to a0 + n - 1 lie in the accumulator (R283). -/
def rowsOk (n1 a0 : BitVec 6) : Bool := decide (a0.toNat + n1.toNat + 1 ≤ 64)

/-- The scale register set of `blocks` blocks from register b exists (R283). -/
def scaleOk (b : BitVec 8) (blocks : Nat) : Bool := decide (b.toNat + (blocks - 1) / 64 < 256)

/-- A lane register of lnrd or lnwr (R357). -/
def LnReg.wf : LnReg → Bool
  | .v r w64 => pairIf w64 r
  | .p _ => true
  | .f r => sOk r

/-- Destination of sreg: laneid needs a vector, a 64-bit register an even pair (R168). -/
def sregDstOk (c : Ctl) (num : BitVec 16) : SVDst → Bool
  | .s r => sOk r && num != 0 && c.guard.isNone
  | .v r => pairIf (sregW64 num) r

/-- An immediate lane index lies in 0 to 31 (R167). -/
def laneIdxOk : SOpB → Bool
  | .reg s => sOk s
  | .imm i => decide (i.toNat < 32)
  | .lit l => decide (l.toNat < 32)

/-- The base of lea (R159). -/
def leaBaseOk : SVDst → Bool
  | .s r => sOk r
  | .v r => evenReg r

/-- tern takes B from a register only (R154). -/
def ternOk (w : Bool) : OpB → Bool
  | .reg r => pairIf w r
  | .sreg s => sOk s
  | _ => false

/-- A scalar destination or a vector one (vote). -/
def VoteDst.wf : VoteDst → Bool
  | .ballot s => sOk s
  | _ => true

/-- Whether the term is an instruction of the manual. -/
def Instr.wf : Instr → Bool
  | .braShort off => off != 0
  | .braLit off => decide (off.toNat % 4 = 0)
  | .bra _ off _ => off.wfBranch
  | .callShort off => off != 0
  | .callLit off => decide (off.toNat % 4 = 0)
  | .call _ off _ => off.wfBranch
  | .brx _ _ _ off _ => off.wfBranch
  | .spawn _ _ sa e => sOk sa && decide (e.toNat < 256)
  | .add _ d a b ty _ => pairIf ty.w64 d && pairIf ty.w64 a && b.wf ty.w64
  | .sub _ d a b ty _ => pairIf ty.w64 d && pairIf ty.w64 a && b.wf ty.w64
  | .add3 _ d a b rc ty _ =>
    pairIf ty.w64 d && pairIf ty.w64 a && b.wf ty.w64 && pairIf ty.w64 rc
  | .mulLo _ d a b ty => pairIf ty.w64 d && pairIf ty.w64 a && b.wf ty.w64
  | .mulHi _ d a b ty => pairIf ty.w64 d && pairIf ty.w64 a && b.wf ty.w64
  | .mad _ d a b rc ty => pairIf ty.w64 d && pairIf ty.w64 a && b.wf ty.w64 && pairIf ty.w64 rc
  | .madWide _ d _ b rc _ => evenReg d && b.wf false && evenReg rc
  | .min _ d a b ty => pairIf ty.w64 d && pairIf ty.w64 a && b.wf ty.w64
  | .max _ d a b ty => pairIf ty.w64 d && pairIf ty.w64 a && b.wf ty.w64
  | .abs _ d a w _ => pairIf w d && pairIf w a
  | .neg _ d a w _ => pairIf w d && pairIf w a
  | .and _ d a b w => pairIf w d && pairIf w a && b.wf w
  | .or _ d a b w => pairIf w d && pairIf w a && b.wf w
  | .xor _ d a b w => pairIf w d && pairIf w a && b.wf w
  | .not _ d a w => pairIf w d && pairIf w a
  | .tern _ d a b rc _ w => pairIf w d && pairIf w a && ternOk w b && pairIf w rc
  | .shl _ d a b w => pairIf w d && pairIf w a && b.wf false
  | .shr _ d a b w => pairIf w d && pairIf w a && b.wf false
  | .sar _ d a b w => pairIf w d && pairIf w a && b.wf false
  | .bfe _ d a b ty => pairIf ty.w64 d && pairIf ty.w64 a && b.wf false
  | .bfi _ d a b rc w => pairIf w d && pairIf w a && b.wf false && pairIf w rc
  | .popc _ _ a w => pairIf w a
  | .clz _ _ a w => pairIf w a
  | .brev _ d a w => pairIf w d && pairIf w a
  | .sel _ d a b _ w => pairIf w d && pairIf w a && b.wf w
  | .cmp _ _ a b _ ty => pairIf ty.w64 a && b.wf ty.w64
  | .lea _ d base b _ _ => evenReg d && leaBaseOk base && b.wf false
  | .mov _ d b w => pairIf w d && b.wf w
  | .movk _ d _ h w => pairIf w d && (w || decide (h.toNat < 2))
  | .cvtI _ d a dty sty => pairIf dty.w64 d && pairIf sty.w64 a
  | .vote _ d _ _ => d.wf
  | .saddShort d a b => sOk d && sOk a && sOk b
  | .saddLit d a _ => sOk d && sOk a
  | .sadd _ d a b => sOk d && sOk a && b.wf
  | .ssub _ d a b => sOk d && sOk a && b.wf
  | .smul _ d a b => sOk d && sOk a && b.wf
  | .sand _ d a b => sOk d && sOk a && b.wf
  | .sor _ d a b => sOk d && sOk a && b.wf
  | .sxor _ d a b => sOk d && sOk a && b.wf
  | .sshl _ d a b => sOk d && sOk a && b.wf
  | .sshr _ d a b _ => sOk d && sOk a && b.wf
  | .scmp _ d a b _ _ => sOk d && sOk a && b.wf
  | .smov _ d b => sOk d && b.wf
  | .sld _ d a b _ => sOk d && sOk a && b.wf
  | .bcast _ d a w => pairIf w d && sOk a
  | .lane _ d a b w => sOk d && pairIf w a && laneIdxOk b
  | .sreg c d num => sregListed num && sregDstOk c num d
  | .sbra _ a off _ => sOk a && off.wfBranch
  | .fadd _ _ _ b _ _ => b.wf false
  | .fsub _ _ _ b _ _ => b.wf false
  | .fmul _ _ _ b _ _ => b.wf false
  | .fma _ _ _ b _ _ _ => b.wf false
  | .fmin _ d a b w ftz => pairIf w d && pairIf w a && b.wf w && !(w && ftz)
  | .fmax _ d a b w ftz => pairIf w d && pairIf w a && b.wf w && !(w && ftz)
  | .fcmp _ _ a b _ w ftz => pairIf w a && b.wf w && !(w && ftz)
  | .frcp _ d a w _ ftz => pairIf w d && pairIf w a && !(w && ftz)
  | .fsqrt _ d a w _ ftz => pairIf w d && pairIf w a && !(w && ftz)
  | .frnd _ d a w _ ftz => pairIf w d && pairIf w a && !(w && ftz)
  | .fcls _ _ a w _ => pairIf w a
  | .fsgn _ d a b w _ => pairIf w d && pairIf w a && b.wf w
  | .hfma2 _ _ _ b _ _ _ _ => b.wf false
  | .hadd2 _ _ _ b _ _ _ => b.wf false
  | .hmul2 _ _ _ b _ _ _ => b.wf false
  | .dfma _ d a b rc _ => evenReg d && evenReg a && b.wf true && evenReg rc
  | .dadd _ d a b _ => evenReg d && evenReg a && b.wf true
  | .dmul _ d a b _ => evenReg d && evenReg a && b.wf true
  | .cvtF _ d a dty sty _ ftz =>
    pairIf dty.w64 d && pairIf sty.w64 a && dty != sty && !(dty.isInt && sty.isInt) &&
      (!ftz || dty.ftzOk || sty.ftzOk)
  | .cvtSb _ d _ rc fmt _ gap clamp _ _ =>
    gap != 0 && decide (clamp.toNat ≤ fmt.maxM) && d != rc
  | .cvtXsb _ d _ _ _ dt rm _ _ =>
    pairIf (dt == .f64) d && (rm == .rn || dt == .f16 || dt == .bf16)
  | .xlane _ d a _ _ w _ => pairIf w d && pairIf w a
  | .matchLanes _ _ a _ w => pairIf w a
  | .red _ d a op => pairIf op.w64 d && pairIf op.w64 a
  | .scan _ d a op _ => pairIf op.w64 d && pairIf op.w64 a
  | .ckacc _ _ a ty _ => pairIf (ty == .b64) a
  | .ckchk _ _ _ e => decide (-1074 ≤ e.toInt) && decide (e.toInt ≤ 0)
  | .ckrd _ sd _ _ => sOk sd
  | .ld _ d addr sp ann sz => addr.wf sp && ann.loadOk && sz.regOk d
  | .ldq _ d addr _ sz => addr.wf true && sz.regOk d
  | .st _ d addr sp ann sz => addr.wf sp && ann.storeOk && sz.regOk d
  | .atom _ d a _ b rc op _ w sg sp =>
    pairIf w d && pairIf (!sp) a && pairIf w b && (pairIf w rc) && op.sgOk sg &&
      (op == .cas || rc == 0)
  | .redM _ a _ b op ann w sg sp =>
    pairIf (!sp) a && pairIf w b && op.sgOk sg && op != .exch && op != .cas && ann.storeOk
  | .waitv _ a _ b _ ann w sp => pairIf (!sp) a && pairIf w b && ann.loadOk
  | .prf _ _ addr => addr.wf false
  | .flushHost _ a len => sOk a && len.wf
  | .invalHost _ a len => sOk a && len.wf
  | .tcfg _ _ a b fmt _ => sOk a && sOk b && fmtListed fmt
  | .tload _ _ _ a _ _ => decide (a.toNat + 2 < 24)
  | .tstore _ _ _ a _ _ => decide (a.toNat + 2 < 24)
  | .cp _ d a len _ _ => sOk d && sOk a && len.wf
  | .waitk c _ => c.waitk != 0
  | .qpush _ q a => q.getLsbD 0 == false && decide (a.toNat + 7 < 24)
  | .qpop _ d q => q.getLsbD 0 && decide (d.toNat + 7 < 24)
  | .rput _ d a len _ _ => sOk d && sOk a && len.wf
  | .rget _ d a len _ _ => sOk d && sOk a && len.wf
  | .mgang _ a => sOk a
  | .mlds _ _ b _ _ => scaleOk b 256
  | .mstr _ _ _ b n1 a0 _ _ => rowsOk n1 a0 && scaleOk b (2 * (n1.toNat + 1))
  | .mst _ _ _ b n1 a0 _ _ => rowsOk n1 a0 && scaleOk b (4 * (n1.toNat + 1))
  | .mstM _ _ _ sc n1 a0 _ _ => rowsOk n1 a0 && decide (sc.toNat + 2 < 24)
  | .bar _ sc _ count _ => barCountOk sc count
  | .barArr _ sd sc _ count => sOk sd && barCountOk sc count
  | .barWt _ _ _ a _ => sOk a
  | .psub _ a b => sOk a && sOk b
  | .pyld _ _ a => sOk a
  | .uibind _ d a _ => sOk d && sOk a
  | .uisend _ a b => sOk a && sOk b
  | .uimask _ d a _ => sOk d && sOk a
  | .lnrd _ sd src ln => sOk sd && src.wf && ln.wf
  | .lnwr _ dst sa ln => dst.wf && sOk sa && ln.wf
  | .tret _ act cmt exp m =>
    (!exp || cmt) && (!cmt || act == .resume || act == .skip) && (m.isNone || act != .stop) &&
      (match m with | some s => sOk s | none => true)
  | .csrr _ d csr => sOk d && csrListed csr
  | .csrw _ csr a _ => sOk a && csr == 0
  | _ => true

end Sys2Proof
end

