-- ==== Sys2Proof/Decode.lean ====
section
/-! DEFINITION. Instruction words: the fields of R96, the decoder from words to instructions and the
encoder from instructions to words. The decoder accepts a word sequence only if the instruction it
reads encodes to exactly those fields, so that every stray bit is an illegal encoding (R102, R107). -/

namespace Sys2Proof

/-- The fields of R95 and R96; fields that the length does not carry are zero. -/
structure Fields where
  len : BitVec 2
  opc : BitVec 6
  d : BitVec 8
  a : BitVec 8
  b : BitVec 8
  c : BitVec 8
  gp : BitVec 6
  ge : BitVec 1
  gn : BitVec 1
  fn : BitVec 8
  mod : BitVec 8
  waitk : BitVec 8
  tok : BitVec 3
  tokv : BitVec 1
  xs : BitVec 4
  imm : BitVec 16
  lit : BitVec 64
deriving DecidableEq, Repr

/-- Word w0 (R96). -/
def Fields.w0 (f : Fields) : Word := f.b ++ f.a ++ f.d ++ f.opc ++ f.len
/-- Word w1 (R96). -/
def Fields.w1 (f : Fields) : Word := f.mod ++ f.fn ++ f.gn ++ f.ge ++ f.gp ++ f.c
/-- Word w2 (R96). -/
def Fields.w2 (f : Fields) : Word := f.imm ++ f.xs ++ f.tokv ++ f.tok ++ f.waitk

/-- The words of an instruction in address order (R95). -/
def Fields.words (f : Fields) : List Word :=
  if f.len = 0 then [f.w0]
  else if f.len = 1 then [f.w0, f.w1, f.w2]
  else if f.len = 2 then [f.w0, f.lit.extractLsb' 0 32, f.lit.extractLsb' 32 32]
  else [f.w0, f.w1, f.w2, f.lit.extractLsb' 0 32, f.lit.extractLsb' 32 32]

/-- The number of words that a first word announces (R95). -/
def wordCount (w0 : Word) : Nat :=
  match (w0.extractLsb' 0 2).toNat with
  | 0 => 1
  | 1 => 3
  | 2 => 3
  | _ => 5

/-- The fields read from the words w0, w1, w2 and a literal. -/
def Fields.read (w0 w1 w2 : Word) (lit : BitVec 64) : Fields :=
  { len := w0.extractLsb' 0 2, opc := w0.extractLsb' 2 6, d := w0.extractLsb' 8 8,
    a := w0.extractLsb' 16 8, b := w0.extractLsb' 24 8,
    c := w1.extractLsb' 0 8, gp := w1.extractLsb' 8 6, ge := w1.extractLsb' 14 1,
    gn := w1.extractLsb' 15 1, fn := w1.extractLsb' 16 8, mod := w1.extractLsb' 24 8,
    waitk := w2.extractLsb' 0 8, tok := w2.extractLsb' 8 3, tokv := w2.extractLsb' 11 1,
    xs := w2.extractLsb' 12 4, imm := w2.extractLsb' 16 16, lit := lit }

/-- The fields of exactly the words of one instruction. -/
def Fields.ofWords : List Word → Option Fields
  | [w0] => if w0.extractLsb' 0 2 = 0#2 then some (Fields.read w0 0 0 0) else none
  | [w0, x, y] =>
    if w0.extractLsb' 0 2 = 1#2 then some (Fields.read w0 x y 0)
    else if w0.extractLsb' 0 2 = 2#2 then some (Fields.read w0 0 0 (y ++ x)) else none
  | [w0, w1, w2, x, y] =>
    if w0.extractLsb' 0 2 = 3#2 then some (Fields.read w0 w1 w2 (y ++ x)) else none
  | _ => none

/-- An instruction of the group and function, every other field zero. -/
def Fields.form (len : BitVec 2) (opc : BitVec 6) (fn : BitVec 8) : Fields :=
  { len := len, opc := opc, d := 0, a := 0, b := 0, c := 0, gp := 0, ge := 0, gn := 0, fn := fn,
    mod := 0, waitk := 0, tok := 0, tokv := 0, xs := 0, imm := 0, lit := 0 }

/-- An extended form. -/
def ext (opc : BitVec 6) (fn : BitVec 8) : Fields := Fields.form 1 opc fn

/-- The guard and the wait mask (R99, R101). -/
def Fields.ctl (f : Fields) (c : Ctl) : Fields :=
  match c.guard with
  | none => { f with waitk := c.waitk }
  | some g => { f with ge := 1, gn := bit g.neg, gp := g.p, waitk := c.waitk }

/-- The guard and the wait mask read back. -/
def Fields.getCtl (f : Fields) : Ctl :=
  if f.ge = 1 then ⟨some ⟨f.gn == 1, f.gp⟩, f.waitk⟩ else ⟨none, f.waitk⟩

/-- Operand B with the low six bits of MOD (R100). -/
def Fields.setB (f : Fields) (m : BitVec 6) : OpB → Fields
  | .reg r => { f with b := r, mod := 0#2 ++ m }
  | .sreg s => { f with b := 0#3 ++ s, mod := 1#2 ++ m }
  | .imm i => { f with imm := i, mod := 2#2 ++ m }
  | .lit l => { f with len := 3, lit := l, mod := 2#2 ++ m }

/-- Operand B read back (R100, R104). -/
def Fields.getB (f : Fields) : Option OpB :=
  if f.mod.extractLsb' 6 2 = 0#2 then some (.reg f.b)
  else if f.mod.extractLsb' 6 2 = 1#2 then some (.sreg (f.b.extractLsb' 0 5))
  else if f.mod.extractLsb' 6 2 = 2#2 then
    (if f.len = 3 then some (.lit f.lit) else some (.imm f.imm))
  else none

/-- Operand B of a scalar instruction (R165). -/
def Fields.setSB (f : Fields) (m : BitVec 6) : SOpB → Fields
  | .reg s => { f with b := 0#3 ++ s, mod := 0#2 ++ m }
  | .imm i => { f with imm := i, mod := 2#2 ++ m }
  | .lit l => { f with len := 3, lit := l, mod := 2#2 ++ m }

/-- Operand B of a scalar instruction read back. -/
def Fields.getSB (f : Fields) : Option SOpB :=
  if f.mod.extractLsb' 6 2 = 0#2 then some (.reg (f.b.extractLsb' 0 5))
  else if f.mod.extractLsb' 6 2 = 2#2 then
    (if f.len = 3 then some (.lit f.lit) else some (.imm f.imm))
  else none

/-- An offset (R105, R240). -/
def Fields.setOff (f : Fields) : Off → Fields
  | .imm i => { f with imm := i }
  | .lit l => { f with len := 3, lit := 0#32 ++ l }

/-- An offset read back. -/
def Fields.getOff (f : Fields) : Off :=
  if f.len = 3 then .lit (f.lit.extractLsb' 0 32) else .imm f.imm

/-- The priority fields of a control transfer (R105). -/
def Fields.setPrio (f : Fields) : Option (BitVec 8) → Fields
  | some p => { f with mod := p }
  | none => { f with xs := 1 }

/-- The priority read back. -/
def Fields.getPrio (f : Fields) : Option (BitVec 8) := if f.xs = 1 then none else some f.mod

/-- A token (R101). -/
def Fields.setTok (f : Fields) : Option (BitVec 3) → Fields
  | some t => { f with tokv := 1, tok := t }
  | none => f

/-- The token read back. -/
def Fields.getTok (f : Fields) : Option (BitVec 3) := if f.tokv = 1 then some f.tok else none

/-- The address fields of R240. -/
def Fields.setAddr (f : Fields) (sp : Bool) : Addr → Fields
  | .vec a off => { f.setOff off with a := a, xs := bit sp ++ 0#3 }
  | .sca s b sc off => { f.setOff off with a := 0#3 ++ s, b := b, xs := bit sp ++ 1#1 ++ sc }

/-- The address read back. -/
def Fields.getAddr (f : Fields) : Addr :=
  if f.xs.getLsbD 2 then .sca (f.a.extractLsb' 0 5) f.b (f.xs.extractLsb' 0 2) f.getOff
  else .vec f.a f.getOff

/-- A length operand under LI, the given bit of MOD (R250, R262). -/
def Fields.setLen (f : Fields) (li : BitVec 8) : LenOp → Fields
  | .imm i => { f with imm := i, mod := f.mod ||| li }
  | .reg s => { f with b := 0#3 ++ s }

/-- The length operand read back. -/
def Fields.getLen (f : Fields) (li : Nat) : LenOp :=
  if f.mod.getLsbD li then .imm f.imm else .reg (f.b.extractLsb' 0 5)

/-- A lane operand under LI (R357). -/
def Fields.setLane (f : Fields) : LaneOp → Fields
  | .imm l => { f with imm := 0#11 ++ l, mod := f.mod ||| 8 }
  | .reg s => { f with b := 0#3 ++ s }

/-- The lane operand read back. -/
def Fields.getLane (f : Fields) : LaneOp :=
  if f.mod.getLsbD 3 then .imm (f.imm.extractLsb' 0 5) else .reg (f.b.extractLsb' 0 5)

/-- A register of lnrd or lnwr: its class and W64 bits and its number. -/
def LnReg.bits : LnReg → BitVec 8 × BitVec 8
  | .v r w64 => (r, if w64 then 4 else 0)
  | .p r => (0#2 ++ r, 1)
  | .f r => (0#3 ++ r, 2)

/-- The register of lnrd or lnwr with number r and MOD m. -/
def LnReg.ofBits (r m : BitVec 8) : Option LnReg :=
  if m.extractLsb' 0 2 = 0#2 then some (.v r (m.getLsbD 2))
  else if m.extractLsb' 0 2 = 1#2 then some (.p (r.extractLsb' 0 6))
  else if m.extractLsb' 0 2 = 2#2 then some (.f (r.extractLsb' 0 5))
  else none

/-- A scalar register field (R98). -/
def s8 (s : BitVec 5) : BitVec 8 := 0#3 ++ s
/-- A predicate register field (R98). -/
def p8 (p : BitVec 6) : BitVec 8 := 0#2 ++ p
/-- The scalar register of a field. -/
def s5 (x : BitVec 8) : BitVec 5 := x.extractLsb' 0 5
/-- The predicate register of a field. -/
def p6 (x : BitVec 8) : BitVec 6 := x.extractLsb' 0 6

/-- The code of a Ty value (R143). -/
def Ty.bits : Ty → BitVec 3
  | .s32 => 0
  | .n32 => 1
  | .s64 => 2
  | .n64 => 3
/-- The Ty value of a code (R143). -/
def Ty.ofBits (x : BitVec 3) : Option Ty :=
  match x.toNat with
  | 0 => some .s32
  | 1 => some .n32
  | 2 => some .s64
  | 3 => some .n64
  | _ => none

/-- The code of a Ty8 value (R143). -/
def Ty8.bits : Ty8 → BitVec 3
  | .s32 => 0
  | .n32 => 1
  | .s64 => 2
  | .n64 => 3
  | .s16 => 4
  | .n16 => 5
  | .s8 => 6
  | .n8 => 7
/-- The Ty8 value of a code (R143). -/
def Ty8.ofBits (x : BitVec 3) : Option Ty8 :=
  match x.toNat with
  | 0 => some .s32
  | 1 => some .n32
  | 2 => some .s64
  | 3 => some .n64
  | 4 => some .s16
  | 5 => some .n16
  | 6 => some .s8
  | _ => some .n8

/-- The code of a Cond value (R158). -/
def Cond.bits : Cond → BitVec 3
  | .eq => 0
  | .ne => 1
  | .lt => 2
  | .le => 3
  | .gt => 4
  | .ge => 5
/-- The Cond value of a code (R158). -/
def Cond.ofBits (x : BitVec 3) : Option Cond :=
  match x.toNat with
  | 0 => some .eq
  | 1 => some .ne
  | 2 => some .lt
  | 3 => some .le
  | 4 => some .gt
  | 5 => some .ge
  | _ => none

/-- The code of a FCond value (R190). -/
def FCond.bits : FCond → BitVec 3
  | .eq => 0
  | .ne => 1
  | .lt => 2
  | .le => 3
  | .gt => 4
  | .ge => 5
  | .un => 6
  | .num => 7
/-- The FCond value of a code (R190). -/
def FCond.ofBits (x : BitVec 3) : Option FCond :=
  match x.toNat with
  | 0 => some .eq
  | 1 => some .ne
  | 2 => some .lt
  | 3 => some .le
  | 4 => some .gt
  | 5 => some .ge
  | 6 => some .un
  | _ => some .num

/-- The code of a WCond value (R24). -/
def WCond.bits : WCond → BitVec 3
  | .eq => 0
  | .ne => 1
  | .ltu => 2
  | .geu => 3
  | .andnz => 4
  | .andz => 5
/-- The WCond value of a code (R24). -/
def WCond.ofBits (x : BitVec 3) : Option WCond :=
  match x.toNat with
  | 0 => some .eq
  | 1 => some .ne
  | 2 => some .ltu
  | 3 => some .geu
  | 4 => some .andnz
  | 5 => some .andz
  | _ => none

/-- The code of a Rm value (R177). -/
def Rm.bits : Rm → BitVec 2
  | .rn => 0
  | .rz => 1
  | .ru => 2
  | .rd => 3
/-- The Rm value of a code (R177). -/
def Rm.ofBits (x : BitVec 2) : Option Rm :=
  match x.toNat with
  | 0 => some .rn
  | 1 => some .rz
  | 2 => some .ru
  | _ => some .rd

/-- The code of a SgnOp value (R187). -/
def SgnOp.bits : SgnOp → BitVec 2
  | .cp => 0
  | .cpn => 1
  | .xs => 2
/-- The SgnOp value of a code (R187). -/
def SgnOp.ofBits (x : BitVec 2) : Option SgnOp :=
  match x.toNat with
  | 0 => some .cp
  | 1 => some .cpn
  | 2 => some .xs
  | _ => none

/-- The code of a CvtTy value (R194). -/
def CvtTy.bits : CvtTy → BitVec 4
  | .f32 => 0
  | .f64 => 1
  | .f16 => 2
  | .bf16 => 3
  | .s8 => 8
  | .n8 => 9
  | .s16 => 10
  | .n16 => 11
  | .s32 => 12
  | .n32 => 13
  | .s64 => 14
  | .n64 => 15
/-- The CvtTy value of a code (R194). -/
def CvtTy.ofBits (x : BitVec 4) : Option CvtTy :=
  match x.toNat with
  | 0 => some .f32
  | 1 => some .f64
  | 2 => some .f16
  | 3 => some .bf16
  | 8 => some .s8
  | 9 => some .n8
  | 10 => some .s16
  | 11 => some .n16
  | 12 => some .s32
  | 13 => some .n32
  | 14 => some .s64
  | 15 => some .n64
  | _ => none

/-- The code of a SbFmt value (R195). -/
def SbFmt.bits : SbFmt → BitVec 2
  | .sb4 => 1
  | .sb8 => 2
  | .sb16 => 3
/-- The SbFmt value of a code (R195). -/
def SbFmt.ofBits (x : BitVec 2) : Option SbFmt :=
  match x.toNat with
  | 1 => some .sb4
  | 2 => some .sb8
  | 3 => some .sb16
  | _ => none

/-- The code of a SbSrc value (R195). -/
def SbSrc.bits : SbSrc → BitVec 2
  | .f32 => 0
  | .f16 => 1
  | .bf16 => 2
/-- The SbSrc value of a code (R195). -/
def SbSrc.ofBits (x : BitVec 2) : Option SbSrc :=
  match x.toNat with
  | 0 => some .f32
  | 1 => some .f16
  | 2 => some .bf16
  | _ => none

/-- The code of a SbDst value (R196). -/
def SbDst.bits : SbDst → BitVec 2
  | .f32 => 0
  | .f16 => 1
  | .bf16 => 2
  | .f64 => 3
/-- The SbDst value of a code (R196). -/
def SbDst.ofBits (x : BitVec 2) : Option SbDst :=
  match x.toNat with
  | 0 => some .f32
  | 1 => some .f16
  | 2 => some .bf16
  | _ => some .f64

/-- The code of a XMode value (R197). -/
def XMode.bits : XMode → BitVec 2
  | .get => 0
  | .sft => 1
  | .fly => 2
  | .rot => 3
/-- The XMode value of a code (R197). -/
def XMode.ofBits (x : BitVec 2) : Option XMode :=
  match x.toNat with
  | 0 => some .get
  | 1 => some .sft
  | 2 => some .fly
  | _ => some .rot

/-- The code of a RedOp value (R199). -/
def RedOp.bits : RedOp → BitVec 4
  | .addS32 => 0
  | .addS64 => 1
  | .minS32 => 2
  | .minN32 => 3
  | .maxS32 => 4
  | .maxN32 => 5
  | .and => 6
  | .or => 7
  | .xor => 8
  | .fadd => 9
  | .fmin => 10
  | .fmax => 11
  | .dadd => 12
/-- The RedOp value of a code (R199). -/
def RedOp.ofBits (x : BitVec 4) : Option RedOp :=
  match x.toNat with
  | 0 => some .addS32
  | 1 => some .addS64
  | 2 => some .minS32
  | 3 => some .minN32
  | 4 => some .maxS32
  | 5 => some .maxN32
  | 6 => some .and
  | 7 => some .or
  | 8 => some .xor
  | 9 => some .fadd
  | 10 => some .fmin
  | 11 => some .fmax
  | 12 => some .dadd
  | _ => none

/-- The code of a CkTy value (R201). -/
def CkTy.bits : CkTy → BitVec 2
  | .s32 => 0
  | .n32 => 1
  | .b64 => 2
  | .f32 => 3
/-- The CkTy value of a code (R201). -/
def CkTy.ofBits (x : BitVec 2) : Option CkTy :=
  match x.toNat with
  | 0 => some .s32
  | 1 => some .n32
  | 2 => some .b64
  | _ => some .f32

/-- The code of a SldSz value (R166). -/
def SldSz.bits : SldSz → BitVec 3
  | .b64 => 0
  | .n32 => 1
  | .n16 => 2
  | .n8 => 3
  | .s32 => 5
  | .s16 => 6
  | .s8 => 7
/-- The SldSz value of a code (R166). -/
def SldSz.ofBits (x : BitVec 3) : Option SldSz :=
  match x.toNat with
  | 0 => some .b64
  | 1 => some .n32
  | 2 => some .n16
  | 3 => some .n8
  | 5 => some .s32
  | 6 => some .s16
  | 7 => some .s8
  | _ => none

/-- The code of a LdSz value (R243). -/
def LdSz.bits : LdSz → BitVec 3
  | .n8 => 0
  | .s8 => 1
  | .n16 => 2
  | .s16 => 3
  | .b32 => 4
  | .b64 => 5
  | .b128 => 6
/-- The LdSz value of a code (R243). -/
def LdSz.ofBits (x : BitVec 3) : Option LdSz :=
  match x.toNat with
  | 0 => some .n8
  | 1 => some .s8
  | 2 => some .n16
  | 3 => some .s16
  | 4 => some .b32
  | 5 => some .b64
  | 6 => some .b128
  | _ => none

/-- The code of a StSz value (R243). -/
def StSz.bits : StSz → BitVec 3
  | .b8 => 0
  | .b16 => 2
  | .b32 => 4
  | .b64 => 5
  | .b128 => 6
/-- The StSz value of a code (R243). -/
def StSz.ofBits (x : BitVec 3) : Option StSz :=
  match x.toNat with
  | 0 => some .b8
  | 2 => some .b16
  | 4 => some .b32
  | 5 => some .b64
  | 6 => some .b128
  | _ => none

/-- The code of a Scope value (R241). -/
def Scope.bits : Scope → BitVec 3
  | .core => 1
  | .quad => 2
  | .die => 3
  | .pkg => 4
  | .pod => 5
/-- The Scope value of a code (R241). -/
def Scope.ofBits (x : BitVec 3) : Option Scope :=
  match x.toNat with
  | 1 => some .core
  | 2 => some .quad
  | 3 => some .die
  | 4 => some .pkg
  | 5 => some .pod
  | _ => none

/-- The code of a FenceKind value (R250). -/
def FenceKind.bits : FenceKind → BitVec 2
  | .acq => 0
  | .rel => 1
  | .ar => 2
  | .sc => 3
/-- The FenceKind value of a code (R250). -/
def FenceKind.ofBits (x : BitVec 2) : Option FenceKind :=
  match x.toNat with
  | 0 => some .acq
  | 1 => some .rel
  | 2 => some .ar
  | _ => some .sc

/-- The code of a Path value (R250). -/
def Path.bits : Path → BitVec 3
  | .ls => 0
  | .cp => 1
  | .mx => 2
  | .ga => 3
  | .co => 4
/-- The Path value of a code (R250). -/
def Path.ofBits (x : BitVec 3) : Option Path :=
  match x.toNat with
  | 0 => some .ls
  | 1 => some .cp
  | 2 => some .mx
  | 3 => some .ga
  | 4 => some .co
  | _ => none

/-- The code of a AtomOp value (R246). -/
def AtomOp.bits : AtomOp → BitVec 4
  | .add => 0
  | .min => 1
  | .max => 2
  | .and => 3
  | .or => 4
  | .xor => 5
  | .exch => 6
  | .cas => 7
  | .incwrap => 8
/-- The AtomOp value of a code (R246). -/
def AtomOp.ofBits (x : BitVec 4) : Option AtomOp :=
  match x.toNat with
  | 0 => some .add
  | 1 => some .min
  | 2 => some .max
  | 3 => some .and
  | 4 => some .or
  | 5 => some .xor
  | 6 => some .exch
  | 7 => some .cas
  | 8 => some .incwrap
  | _ => none

/-- The code of a Tr value (R255). -/
def Tr.bits : Tr → BitVec 2
  | .none => 0
  | .tr8 => 1
  | .tr16 => 2
/-- The Tr value of a code (R255). -/
def Tr.ofBits (x : BitVec 2) : Option Tr :=
  match x.toNat with
  | 0 => some .none
  | 1 => some .tr8
  | 2 => some .tr16
  | _ => none

/-- The code of a CpDir value (R262). -/
def CpDir.bits : CpDir → BitVec 2
  | .gg => 0
  | .gs => 1
  | .sg => 2
  | .ss => 3
/-- The CpDir value of a code (R262). -/
def CpDir.ofBits (x : BitVec 2) : Option CpDir :=
  match x.toNat with
  | 0 => some .gg
  | 1 => some .gs
  | 2 => some .sg
  | _ => some .ss

/-- The code of a MaskOp value (R315). -/
def MaskOp.bits : MaskOp → BitVec 2
  | .wr => 0
  | .set => 1
  | .clr => 2
/-- The MaskOp value of a code (R315). -/
def MaskOp.ofBits (x : BitVec 2) : Option MaskOp :=
  match x.toNat with
  | 0 => some .wr
  | 1 => some .set
  | 2 => some .clr
  | _ => none

/-- The code of a TretAct value (R361). -/
def TretAct.bits : TretAct → BitVec 2
  | .resume => 0
  | .skip => 1
  | .kill => 2
  | .stop => 3
/-- The TretAct value of a code (R361). -/
def TretAct.ofBits (x : BitVec 2) : Option TretAct :=
  match x.toNat with
  | 0 => some .resume
  | 1 => some .skip
  | 2 => some .kill
  | _ => some .stop

/-- KIND and SCOPE of an annotation (R241), MOD[7:3]. -/
def Ann.bits : Ann → BitVec 5
  | .relaxed => 0
  | .acq s => 1#2 ++ s.bits
  | .rel s => 2#2 ++ s.bits
  | .ar s => 3#2 ++ s.bits

/-- The annotation of MOD[7:3] (R241). -/
def Ann.ofBits (x : BitVec 5) : Option Ann :=
  match (x.extractLsb' 3 2).toNat with
  | 0 => some .relaxed
  | 1 => (Scope.ofBits (x.extractLsb' 0 3)).map .acq
  | 2 => (Scope.ofBits (x.extractLsb' 0 3)).map .rel
  | _ => (Scope.ofBits (x.extractLsb' 0 3)).map .ar

/-- W64 as the type codes .b32 and .b64 of MOD[5:3] (R143). -/
def w64Ty (w : Bool) : BitVec 3 := if w then 2 else 0
/-- W64 of a type code. -/
def tyW64 (x : BitVec 3) : Bool := x == 2

/-- MOD[5:3] of an extended vector form. -/
def Fields.ty3 (f : Fields) : BitVec 3 := f.mod.extractLsb' 3 3
/-- The rounding mode in MOD[3:2] (R187). -/
def Fields.rm (f : Fields) : Option Rm := Rm.ofBits (f.mod.extractLsb' 2 2)
/-- MOD[5:0] of the floating-point groups: W64 or BF, FTZ, RM, OP (R187). -/
def fpMod (w ftz : Bool) (rm : Rm) : BitVec 6 := bit w ++ bit ftz ++ rm.bits ++ 0#2

/-- The destination field and kind of vote (R163). -/
def VoteDst.bits : VoteDst → BitVec 8 × BitVec 2
  | .any p => (p8 p, 0)
  | .all p => (p8 p, 1)
  | .ballot s => (s8 s, 2)
  | .vballot v => (v, 3)

/-- The destination of vote from its field and kind. -/
def VoteDst.ofBits (d : BitVec 8) (k : BitVec 2) : VoteDst :=
  match k.toNat with
  | 0 => .any (p6 d)
  | 1 => .all (p6 d)
  | 2 => .ballot (s5 d)
  | _ => .vballot d

/-- The fields of an instruction (R95 to R106 and the tables of the instruction chapters); an event
or a packet has none. -/
def fieldsOf : Instr → Option Fields
  | .braShort off =>
    some { Fields.form 0 0x00 0 with
        d := off.extractLsb' 0 8, a := off.extractLsb' 8 8, b := off.extractLsb' 16 8 }
  | .callShort off =>
    some { Fields.form 0 0x01 0 with
        d := off.extractLsb' 0 8, a := off.extractLsb' 8 8, b := off.extractLsb' 16 8 }
  | .retShort => some (Fields.form 0 0x03 0)
  | .nopShort => some (Fields.form 0 0x04 0)
  | .exitShort => some (Fields.form 0 0x05 0)
  | .addShort d a b => some ({ Fields.form 0 0x08 0 with d := d, a := a, b := b })
  | .andShort d a b => some ({ Fields.form 0 0x0b 0 with d := d, a := a, b := b })
  | .shlShort d a b => some ({ Fields.form 0 0x0c 0 with d := d, a := a, b := b })
  | .movShort d b => some ({ Fields.form 0 0x12 0 with d := d, b := b })
  | .saddShort d a b => some ({ Fields.form 0 0x18 0 with d := s8 d, a := s8 a, b := s8 b })
  | .faddShort d a b => some ({ Fields.form 0 0x1c 0 with d := d, a := a, b := b })
  | .rgnShort => some (Fields.form 0 0x3e 0)
  | .braLit off => some ({ Fields.form 2 0x00 0 with lit := 0#32 ++ off })
  | .callLit off => some ({ Fields.form 2 0x01 0 with lit := 0#32 ++ off })
  | .addLit d a l => some ({ Fields.form 2 0x08 0 with d := d, a := a, lit := 0#32 ++ l })
  | .andLit d a l => some ({ Fields.form 2 0x0b 0 with d := d, a := a, lit := 0#32 ++ l })
  | .shlLit d a l => some ({ Fields.form 2 0x0c 0 with d := d, a := a, lit := 0#32 ++ l })
  | .movLit d l => some ({ Fields.form 2 0x12 0 with d := d, lit := 0#32 ++ l })
  | .saddLit d a l => some ({ Fields.form 2 0x18 0 with d := s8 d, a := s8 a, lit := l })
  | .faddLit d a l => some ({ Fields.form 2 0x1c 0 with d := d, a := a, lit := 0#32 ++ l })
  | .bra c off prio => some (((ext 0x00 0).ctl c).setPrio prio |>.setOff off)
  | .call c off prio => some (((ext 0x01 0).ctl c).setPrio prio |>.setOff off)
  | .jmp c a prio => some ({ ((ext 0x02 0).ctl c).setPrio prio with a := a })
  | .brx c a n off prio =>
    some { (((ext 0x02 1).ctl c).setPrio prio).setOff off with
        a := a, c := n }
  | .ret c => some ((ext 0x03 0).ctl c)
  | .callx c a prio => some ({ ((ext 0x03 1).ctl c).setPrio prio with a := a })
  | .nop c => some ((ext 0x04 0).ctl c)
  | .join wk prio => some ({ ext 0x04 1 with waitk := wk, mod := prio })
  | .yield c => some ((ext 0x04 2).ctl c)
  | .exit c => some ((ext 0x05 0).ctl c)
  | .trap c code => some ({ (ext 0x06 0).ctl c with imm := code })
  | .brk c code => some ({ (ext 0x06 1).ctl c with imm := code })
  | .spawn c pd sa e => some ({ (ext 0x07 0).ctl c with d := p8 pd, a := s8 sa, imm := e })
  | .add c d a b ty sat =>
    some { ((ext 0x08 0).ctl c).setB (ty.bits ++ 0#2 ++ bit sat) b with
        d := d, a := a }
  | .sub c d a b ty sat =>
    some { ((ext 0x08 1).ctl c).setB (ty.bits ++ 0#2 ++ bit sat) b with
        d := d, a := a }
  | .add3 c d a b rc ty sat =>
    some { ((ext 0x08 2).ctl c).setB (ty.bits ++ 0#2 ++ bit sat) b with
        d := d, a := a, c := rc }
  | .mulLo c d a b ty =>
    some { ((ext 0x09 0).ctl c).setB (ty.bits ++ 0#3) b with
        d := d, a := a }
  | .mulHi c d a b ty =>
    some { ((ext 0x09 1).ctl c).setB (ty.bits ++ 0#3) b with
        d := d, a := a }
  | .mad c d a b rc ty =>
    some { ((ext 0x09 2).ctl c).setB (ty.bits ++ 0#3) b with
        d := d, a := a, c := rc }
  | .madWide c d a b rc sgn =>
    some { ((ext 0x09 3).ctl c).setB (0#2 ++ bit (!sgn) ++ 0#3) b with
        d := d, a := a, c := rc }
  | .min c d a b ty => some ({ ((ext 0x0a 0).ctl c).setB (ty.bits ++ 0#3) b with d := d, a := a })
  | .max c d a b ty => some ({ ((ext 0x0a 1).ctl c).setB (ty.bits ++ 0#3) b with d := d, a := a })
  | .abs c d a w sat =>
    some { ((ext 0x0a 2).ctl c) with
        d := d, a := a, mod := 0#2 ++ w64Ty w ++ 0#2 ++ bit sat }
  | .neg c d a w sat =>
    some { ((ext 0x0a 3).ctl c) with
        d := d, a := a, mod := 0#2 ++ w64Ty w ++ 0#2 ++ bit sat }
  | .and c d a b w => some ({ ((ext 0x0b 0).ctl c).setB (w64Ty w ++ 0#3) b with d := d, a := a })
  | .or c d a b w => some ({ ((ext 0x0b 1).ctl c).setB (w64Ty w ++ 0#3) b with d := d, a := a })
  | .xor c d a b w => some ({ ((ext 0x0b 2).ctl c).setB (w64Ty w ++ 0#3) b with d := d, a := a })
  | .not c d a w =>
    some { ((ext 0x0b 3).ctl c) with
        d := d, a := a, mod := 0#2 ++ w64Ty w ++ 0#3 }
  | .tern c d a b rc table w =>
    some { ((ext 0x0b 4).ctl c).setB (w64Ty w ++ 0#3) b with
        d := d, a := a, c := rc, imm := 0#8 ++ table }
  | .shl c d a b w => some ({ ((ext 0x0c 0).ctl c).setB (w64Ty w ++ 0#3) b with d := d, a := a })
  | .shr c d a b w => some ({ ((ext 0x0c 1).ctl c).setB (w64Ty w ++ 0#3) b with d := d, a := a })
  | .sar c d a b w => some ({ ((ext 0x0c 2).ctl c).setB (w64Ty w ++ 0#3) b with d := d, a := a })
  | .bfe c d a b ty => some ({ ((ext 0x0d 0).ctl c).setB (ty.bits ++ 0#3) b with d := d, a := a })
  | .bfi c d a b rc w =>
    some { ((ext 0x0d 1).ctl c).setB (w64Ty w ++ 0#3) b with
        d := d, a := a, c := rc }
  | .popc c d a w =>
    some { ((ext 0x0e 0).ctl c) with
        d := d, a := a, mod := 0#2 ++ w64Ty w ++ 0#3 }
  | .clz c d a w =>
    some { ((ext 0x0e 1).ctl c) with
        d := d, a := a, mod := 0#2 ++ w64Ty w ++ 0#3 }
  | .brev c d a w =>
    some { ((ext 0x0e 2).ctl c) with
        d := d, a := a, mod := 0#2 ++ w64Ty w ++ 0#3 }
  | .sel c d a b pc w =>
    some { ((ext 0x0f 0).ctl c).setB (w64Ty w ++ 0#3) b with
        d := d, a := a, c := p8 pc }
  | .cmp c pd a b cond ty =>
    some { ((ext 0x10 0).ctl c).setB (ty.bits ++ cond.bits) b with
        d := p8 pd, a := a }
  | .lea c d base b sh sgn =>
    some (
    match base with
    | .v a => { ((ext 0x11 0).ctl c).setB (0#2 ++ bit (!sgn) ++ 0#3) b with d := d, a := a, xs := sh }
    | .s a =>
      { ((ext 0x11 0).ctl c).setB (0#2 ++ bit (!sgn) ++ 1#3) b with d := d, a := s8 a, xs := sh })
  | .mov c d b w => some ({ ((ext 0x12 0).ctl c).setB (w64Ty w ++ 0#3) b with d := d })
  | .movk c d v h w =>
    some { (ext 0x12 1).ctl c with
        d := d, imm := v, xs := 0#2 ++ h, mod := 0#2 ++ w64Ty w ++ 0#3 }
  | .cvtI c d a dt st =>
    some { (ext 0x13 0).ctl c with
        d := d, a := a, mod := 0#2 ++ dt.bits ++ st.bits }
  | .pand c d a b na nb =>
    some { (ext 0x14 0).ctl c with
        d := p8 d, a := p8 a, b := p8 b, mod := 0#6 ++ bit nb ++ bit na }
  | .por c d a b na nb =>
    some { (ext 0x14 1).ctl c with
        d := p8 d, a := p8 a, b := p8 b, mod := 0#6 ++ bit nb ++ bit na }
  | .pxor c d a b na nb =>
    some { (ext 0x14 2).ctl c with
        d := p8 d, a := p8 a, b := p8 b, mod := 0#6 ++ bit nb ++ bit na }
  | .pnot c d a na =>
    some { (ext 0x14 3).ctl c with
        d := p8 d, a := p8 a, mod := 0#7 ++ bit na }
  | .pmov c d a na =>
    some { (ext 0x14 4).ctl c with
        d := p8 d, a := p8 a, mod := 0#7 ++ bit na }
  | .vote c d a na =>
    some { (ext 0x15 0).ctl c with
        a := p8 a, d := d.bits.1, mod := 0#5 ++ bit na ++ d.bits.2 }
  | .pcnt c d a na pre =>
    some { (ext 0x16 0).ctl c with
        d := d, a := p8 a, mod := 0#6 ++ bit na ++ bit pre }
  | .sadd wk d a b => some ({ ((ext 0x18 0).setSB 0 b) with d := s8 d, a := s8 a, waitk := wk })
  | .ssub wk d a b => some ({ ((ext 0x18 1).setSB 0 b) with d := s8 d, a := s8 a, waitk := wk })
  | .smul wk d a b => some ({ ((ext 0x18 2).setSB 0 b) with d := s8 d, a := s8 a, waitk := wk })
  | .sand wk d a b => some ({ ((ext 0x18 3).setSB 0 b) with d := s8 d, a := s8 a, waitk := wk })
  | .sor wk d a b => some ({ ((ext 0x18 4).setSB 0 b) with d := s8 d, a := s8 a, waitk := wk })
  | .sxor wk d a b => some ({ ((ext 0x18 5).setSB 0 b) with d := s8 d, a := s8 a, waitk := wk })
  | .sshl wk d a b => some ({ ((ext 0x18 6).setSB 0 b) with d := s8 d, a := s8 a, waitk := wk })
  | .sshr wk d a b arith =>
    some { ((ext 0x18 7).setSB (0#5 ++ bit arith) b) with
        d := s8 d, a := s8 a, waitk := wk }
  | .scmp wk d a b cond uns =>
    some { ((ext 0x19 0).setSB (0#2 ++ bit uns ++ cond.bits) b) with
        d := s8 d, a := s8 a, waitk := wk }
  | .smov wk d b => some ({ ((ext 0x19 1).setSB 0 b) with d := s8 d, waitk := wk })
  | .sld wk d a b sz =>
    some { ((ext 0x1a 0).setSB (0#3 ++ sz.bits) b) with
        d := s8 d, a := s8 a, waitk := wk }
  | .bcast c d a w => some ({ (ext 0x1a 1).ctl c with d := d, a := s8 a, mod := 0#7 ++ bit w })
  | .lane wk d a b w =>
    some { ((ext 0x1a 2).setSB (0#5 ++ bit w) b) with
        d := s8 d, a := a, waitk := wk }
  | .sreg c d num =>
    some (
    match d with
    | .s r => { (ext 0x1a 3).ctl c with d := s8 r, imm := num }
    | .v r => { (ext 0x1a 3).ctl c with d := r, imm := num, mod := 1 })
  | .sbra wk a off z =>
    some { (ext 0x1b 0).setOff off with
        a := s8 a, mod := 0#7 ++ bit z, waitk := wk }
  | .fadd c d a b rm ftz =>
    some { ((ext 0x1c 0).ctl c).setB (fpMod false ftz rm) b with
        d := d, a := a }
  | .fsub c d a b rm ftz =>
    some { ((ext 0x1c 1).ctl c).setB (fpMod false ftz rm) b with
        d := d, a := a }
  | .fmul c d a b rm ftz =>
    some { ((ext 0x1c 2).ctl c).setB (fpMod false ftz rm) b with
        d := d, a := a }
  | .fma c d a b rc rm ftz =>
    some { ((ext 0x1c 3).ctl c).setB (fpMod false ftz rm) b with
        d := d, a := a, c := rc }
  | .fmin c d a b w ftz =>
    some { ((ext 0x1d 0).ctl c).setB (fpMod w ftz .rn) b with
        d := d, a := a }
  | .fmax c d a b w ftz =>
    some { ((ext 0x1d 1).ctl c).setB (fpMod w ftz .rn) b with
        d := d, a := a }
  | .fcmp c pd a b cond w ftz =>
    some { ((ext 0x1e 0).ctl c).setB (bit w ++ bit ftz ++ 0#1 ++ cond.bits) b with
        d := p8 pd, a := a }
  | .frcp c d a w rm ftz =>
    some { (ext 0x1f 0).ctl c with
        d := d, a := a, mod := 0#2 ++ fpMod w ftz rm }
  | .frsq c d a rm ftz =>
    some { (ext 0x1f 1).ctl c with
        d := d, a := a, mod := 0#2 ++ fpMod false ftz rm }
  | .fsqrt c d a w rm ftz =>
    some { (ext 0x1f 2).ctl c with
        d := d, a := a, mod := 0#2 ++ fpMod w ftz rm }
  | .fex2 c d a rm ftz =>
    some { (ext 0x20 0).ctl c with
        d := d, a := a, mod := 0#2 ++ fpMod false ftz rm }
  | .flg2 c d a rm ftz =>
    some { (ext 0x20 1).ctl c with
        d := d, a := a, mod := 0#2 ++ fpMod false ftz rm }
  | .fsin c d a rm ftz =>
    some { (ext 0x20 2).ctl c with
        d := d, a := a, mod := 0#2 ++ fpMod false ftz rm }
  | .fcos c d a rm ftz =>
    some { (ext 0x20 3).ctl c with
        d := d, a := a, mod := 0#2 ++ fpMod false ftz rm }
  | .frnd c d a w rm ftz =>
    some { (ext 0x21 0).ctl c with
        d := d, a := a, mod := 0#2 ++ fpMod w ftz rm }
  | .fcls c pd a w mask =>
    some { (ext 0x21 1).ctl c with
        d := p8 pd, a := a, imm := 0#6 ++ mask, mod := 0#2 ++ fpMod w false .rn }
  | .fsgn c d a b w op =>
    some { ((ext 0x21 2).ctl c).setB (bit w ++ 0#3 ++ op.bits) b with
        d := d, a := a }
  | .hfma2 c d a b rc bf rm ftz =>
    some { ((ext 0x22 0).ctl c).setB (fpMod bf ftz rm) b with
        d := d, a := a, c := rc }
  | .hadd2 c d a b bf rm ftz =>
    some { ((ext 0x22 1).ctl c).setB (fpMod bf ftz rm) b with
        d := d, a := a }
  | .hmul2 c d a b bf rm ftz =>
    some { ((ext 0x22 2).ctl c).setB (fpMod bf ftz rm) b with
        d := d, a := a }
  | .dfma c d a b rc rm =>
    some { ((ext 0x23 0).ctl c).setB (fpMod false false rm) b with
        d := d, a := a, c := rc }
  | .dadd c d a b rm =>
    some { ((ext 0x23 1).ctl c).setB (fpMod false false rm) b with
        d := d, a := a }
  | .dmul c d a b rm =>
    some { ((ext 0x23 2).ctl c).setB (fpMod false false rm) b with
        d := d, a := a }
  | .cvtF c d a dt st rm ftz =>
    some { (ext 0x24 0).ctl c with
        d := d, a := a, mod := 0#2 ++ fpMod false ftz rm, imm := 0#8 ++ st.bits ++ dt.bits }
  | .cvtSb c d a rc fmt src gap clamp h xs =>
    some { (ext 0x25 0).ctl c with
        d := d, a := a, c := rc, mod := 0#2 ++ fmt.bits ++ gap, imm := src.bits ++ clamp,
        xs := 0#1 ++ bit h ++ xs }
  | .cvtXsb c d a rc fmt dt rm h xs =>
    some { (ext 0x26 0).ctl c with
        d := d, a := a, c := rc, mod := 0#2 ++ fmt.bits ++ rm.bits ++ 0#2,
        imm := dt.bits ++ 0#14, xs := 0#1 ++ bit h ++ xs }
  | .xlane c d a b mode w pv =>
    some (
    match b with
    | .reg r =>
      { (ext 0x28 0).ctl c with d := d, a := a, b := r, c := (pv.map p8).getD 0, mod := 0#4 ++ bit w ++ bit pv.isSome ++ mode.bits }
    | .imm i =>
      { (ext 0x28 0).ctl c with d := d, a := a, imm := i, c := (pv.map p8).getD 0, mod := 8#4 ++ bit w ++ bit pv.isSome ++ mode.bits })
  | .matchLanes c d a all w =>
    some { (ext 0x28 1).ctl c with
        d := d, a := a, mod := 0#4 ++ bit w ++ 0#2 ++ bit all }
  | .red c d a op => some ({ (ext 0x29 0).ctl c with d := d, a := a, mod := 0#4 ++ op.bits })
  | .scan c d a op excl =>
    some { (ext 0x29 1).ctl c with
        d := d, a := a, mod := 0#3 ++ bit excl ++ op.bits }
  | .ckacc c ck a ty neg =>
    some { (ext 0x2a 0).ctl c with
        d := 0#6 ++ ck, a := a, mod := 0#5 ++ bit neg ++ ty.bits }
  | .ckchk c a b e => some ({ (ext 0x2a 1).ctl c with a := 0#6 ++ a, b := 0#6 ++ b, imm := e })
  | .ckclr wk ck f64 =>
    some { ext 0x2a 2 with
        waitk := wk, d := 0#6 ++ ck, mod := 0#7 ++ bit f64 }
  | .ckrd wk sd ck md =>
    some { ext 0x2a 3 with
        waitk := wk, d := s8 sd, a := 0#6 ++ ck, mod := 0#7 ++ bit md }
  | .ld c d addr sp ann sz =>
    some { ((ext 0x2c 0).ctl c).setAddr sp addr with
        d := d, mod := ann.bits ++ sz.bits }
  | .ldq c d addr m sz =>
    some { ((ext 0x2c 1).ctl c).setAddr false addr with
        d := d, c := 0#6 ++ m, mod := 0#5 ++ sz.bits }
  | .st c d addr sp ann sz =>
    some { ((ext 0x2d 0).ctl c).setAddr sp addr with
        d := d, mod := ann.bits ++ sz.bits }
  | .atom c d a off b rc op ann w sg sp =>
    some { (ext 0x2e 0).ctl c with
        d := d, a := a, b := b, c := rc, imm := off, xs := op.bits,
        mod := ann.bits ++ bit w ++ bit sg ++ bit sp }
  | .redM c a off b op ann w sg sp =>
    some { (ext 0x2e 1).ctl c with
        a := a, b := b, imm := off, xs := op.bits,
        mod := ann.bits ++ bit w ++ bit sg ++ bit sp }
  | .waitv c a off b cond ann w sp =>
    some { ((ext 0x2f 0).ctl c).setOff off with
        a := a, b := b, c := 0#5 ++ cond.bits, xs := bit sp ++ 0#3,
        mod := ann.bits ++ 2#2 ++ bit w }
  | .fence c kind scope x y =>
    some { (ext 0x30 0).ctl c with
        mod := kind.bits ++ scope.bits ++ 0#3, imm := 0#10 ++ y.bits ++ x.bits }
  | .prf c l1 addr => some ({ ((ext 0x30 1).ctl c).setAddr false addr with mod := 0#7 ++ bit l1 })
  | .flushHost c a len => some ({ ((ext 0x30 2).ctl c).setLen 1 len with a := s8 a })
  | .invalHost c a len => some ({ ((ext 0x30 3).ctl c).setLen 1 len with a := s8 a })
  | .tcfg c t a b fmt rdy =>
    some { (ext 0x31 0).ctl c with
        d := 0#4 ++ t, a := s8 a, b := s8 b, imm := 0#8 ++ fmt, mod := 0#7 ++ bit rdy }
  | .tstat c d t =>
    some (
    match d with
    | .p r => { (ext 0x31 1).ctl c with d := p8 r, a := 0#4 ++ t }
    | .v r => { (ext 0x31 1).ctl c with d := r, a := 0#4 ++ t, mod := 1 })
  | .tfree c t => some ({ (ext 0x31 2).ctl c with d := 0#4 ++ t })
  | .tload c t tlr a tr tok =>
    some { ((ext 0x32 0).ctl c).setTok tok with
        d := 0#4 ++ t, b := tlr, a := s8 a, mod := 0#6 ++ tr.bits }
  | .tstore c t tlr a tr tok =>
    some { ((ext 0x32 1).ctl c).setTok tok with
        d := 0#4 ++ t, b := tlr, a := s8 a, mod := 0#6 ++ tr.bits }
  | .cp c d a len dir tok =>
    some { ({ (ext 0x33 0).ctl c with mod := 0#6 ++ dir.bits } : Fields).setLen 4 len with
        d := s8 d, a := s8 a, tokv := 1, tok := tok }
  | .waitk c n => some ({ (ext 0x33 1).ctl c with imm := 0#10 ++ n })
  | .qpush c q a => some ({ (ext 0x34 0).ctl c with d := 0#5 ++ q, a := s8 a })
  | .qpop c d q => some ({ (ext 0x34 1).ctl c with d := s8 d, a := 0#5 ++ q })
  | .rput c d a len sp tok =>
    some { ({ (ext 0x35 0).ctl c with mod := 0#7 ++ bit sp } : Fields).setLen 4 len with
        d := s8 d, a := s8 a, tokv := 1, tok := tok }
  | .rget c d a len sp tok =>
    some { ({ (ext 0x35 1).ctl c with mod := 0#7 ++ bit sp } : Fields).setLen 4 len with
        d := s8 d, a := s8 a, tokv := 1, tok := tok }
  | .mrsv wk pd => some ({ ext 0x38 0 with waitk := wk, d := p8 pd })
  | .mrel wk => some ({ ext 0x38 1 with waitk := wk })
  | .mgang wk a => some ({ ext 0x38 2 with waitk := wk, a := s8 a })
  | .mstat wk d => some ({ ext 0x38 3 with waitk := wk, d := d })
  | .mlds wk t b tr xs =>
    some { ext 0x39 0 with
        waitk := wk, a := 0#4 ++ t, b := b, mod := 0#7 ++ bit tr, xs := 0#2 ++ xs }
  | .mswp wk => some ({ ext 0x39 1 with waitk := wk })
  | .mstr wk acc t b n1 a0 xs za =>
    some { ext 0x39 2 with
        waitk := wk, d := 0#6 ++ acc, a := 0#4 ++ t, b := b, imm := 0#2 ++ a0 ++ 0#2 ++ n1,
        xs := 0#2 ++ xs, mod := 0#7 ++ bit za }
  | .mrd wk d acc row cb =>
    some { ext 0x3a 0 with
        waitk := wk, d := d, a := 0#6 ++ acc, imm := 0#6 ++ cb ++ 0#2 ++ row }
  | .mwr wk acc a row cb =>
    some { ext 0x3a 1 with
        waitk := wk, d := 0#6 ++ acc, a := a, imm := 0#6 ++ cb ++ 0#2 ++ row }
  | .mst wk acc t b n1 a0 xs gap =>
    some { ext 0x3a 2 with
        waitk := wk, a := 0#6 ++ acc, d := 0#4 ++ t, b := b, imm := 0#2 ++ a0 ++ 0#2 ++ n1,
        xs := 0#2 ++ xs, mod := 0#4 ++ gap }
  | .mstM wk acc tlr sc n1 a0 gap tok =>
    some { ext 0x3a 2 with
        waitk := wk, a := 0#6 ++ acc, b := tlr, c := s8 sc, imm := 0#2 ++ a0 ++ 0#2 ++ n1,
        mod := 8#4 ++ gap, tokv := 1, tok := tok }
  | .mclr wk acc =>
    some (
    match acc with
    | some x => { ext 0x3a 3 with waitk := wk, d := 0#6 ++ x }
    | none => { ext 0x3a 3 with waitk := wk, mod := 1 })
  | .bar wk scope slot count pv =>
    some { ext 0x3c 0 with
        waitk := wk, d := (pv.map p8).getD 0, c := 0#4 ++ slot, imm := 0#10 ++ count,
        mod := 0#2 ++ scope.bits ++ 0#2 ++ bit pv.isSome }
  | .barArr wk sd scope slot count =>
    some { ext 0x3c 1 with
        waitk := wk, d := s8 sd, c := 0#4 ++ slot, imm := 0#10 ++ count,
        mod := 0#2 ++ scope.bits ++ 0#3 }
  | .barWt wk scope slot a pv =>
    some { ext 0x3c 2 with
        waitk := wk, d := (pv.map p8).getD 0, a := s8 a, c := 0#4 ++ slot,
        mod := 0#2 ++ scope.bits ++ 0#2 ++ bit pv.isSome }
  | .psub c a b => some ({ (ext 0x3c 3).ctl c with a := s8 a, b := s8 b })
  | .pyld c pd a => some ({ (ext 0x3c 4).ctl c with d := p8 pd, a := s8 a })
  | .uibind wk d a u =>
    some { ext 0x3d 0 with
        waitk := wk, d := s8 d, a := s8 a, mod := 0#7 ++ bit u }
  | .uisend c a b => some ({ (ext 0x3d 1).ctl c with a := s8 a, b := s8 b })
  | .uiwait wk => some ({ ext 0x3d 2 with waitk := wk })
  | .uimask wk d a op =>
    some { ext 0x3d 3 with
        waitk := wk, d := s8 d, a := s8 a, mod := 0#6 ++ op.bits }
  | .uiret wk pd => some ({ ext 0x3d 4 with waitk := wk, d := p8 pd })
  | .rgn wk => some ({ ext 0x3e 0 with waitk := wk })
  | .rgnx wk => some ({ ext 0x3e 1 with waitk := wk })
  | .npe wk => some ({ ext 0x3e 2 with waitk := wk })
  | .pe wk => some ({ ext 0x3e 3 with waitk := wk })
  | .lnrd wk sd src ln =>
    some { ({ ext 0x3e 4 with waitk := wk, mod := src.bits.2 } : Fields).setLane ln with
        d := s8 sd, a := src.bits.1 }
  | .lnwr wk dst sa ln =>
    some { ({ ext 0x3e 5 with waitk := wk, mod := dst.bits.2 } : Fields).setLane ln with
        d := dst.bits.1, a := s8 sa }
  | .tret wk act cmt exp m =>
    some { ext 0x3e 6 with
        waitk := wk, a := (m.map s8).getD 0,
        mod := 0#3 ++ bit exp ++ bit cmt ++ bit m.isSome ++ act.bits }
  | .csrr wk d csr => some ({ ext 0x3e 7 with waitk := wk, d := s8 d, imm := csr })
  | .csrw wk csr a op =>
    some { ext 0x3e 8 with
        waitk := wk, a := s8 a, imm := csr, mod := 0#6 ++ op.bits }
  | _ => none

/-- The extended forms of group 0x00 (R106). -/
def parse00 (f : Fields) : Option Instr :=
  match f.fn.toNat with
  | 0 => some (.bra f.getCtl f.getOff f.getPrio)
  | _ => none

/-- The extended forms of group 0x01 (R106). -/
def parse01 (f : Fields) : Option Instr :=
  match f.fn.toNat with
  | 0 => some (.call f.getCtl f.getOff f.getPrio)
  | _ => none

/-- The extended forms of group 0x02 (R106). -/
def parse02 (f : Fields) : Option Instr :=
  match f.fn.toNat with
  | 0 => some (.jmp f.getCtl f.a f.getPrio)
  | 1 => some (.brx f.getCtl f.a f.c f.getOff f.getPrio)
  | _ => none

/-- The extended forms of group 0x03 (R106). -/
def parse03 (f : Fields) : Option Instr :=
  match f.fn.toNat with
  | 0 => some (.ret f.getCtl)
  | 1 => some (.callx f.getCtl f.a f.getPrio)
  | _ => none

/-- The extended forms of group 0x04 (R106). -/
def parse04 (f : Fields) : Option Instr :=
  match f.fn.toNat with
  | 0 => some (.nop f.getCtl)
  | 1 => some (.join f.waitk f.mod)
  | 2 => some (.yield f.getCtl)
  | _ => none

/-- The extended forms of group 0x05 (R106). -/
def parse05 (f : Fields) : Option Instr :=
  match f.fn.toNat with
  | 0 => some (.exit f.getCtl)
  | _ => none

/-- The extended forms of group 0x06 (R106). -/
def parse06 (f : Fields) : Option Instr :=
  match f.fn.toNat with
  | 0 => some (.trap f.getCtl f.imm)
  | 1 => some (.brk f.getCtl f.imm)
  | _ => none

/-- The extended forms of group 0x07 (R106). -/
def parse07 (f : Fields) : Option Instr :=
  match f.fn.toNat with
  | 0 => some (.spawn f.getCtl (p6 f.d) (s5 f.a) f.imm)
  | _ => none

/-- The extended forms of group 0x08 (R106). -/
def parse08 (f : Fields) : Option Instr :=
  match f.fn.toNat with
  | 0 => do some (.add f.getCtl f.d f.a (← f.getB) (← Ty.ofBits f.ty3) (f.mod.getLsbD 0))
  | 1 => do some (.sub f.getCtl f.d f.a (← f.getB) (← Ty.ofBits f.ty3) (f.mod.getLsbD 0))
  | 2 => do some (.add3 f.getCtl f.d f.a (← f.getB) f.c (← Ty.ofBits f.ty3) (f.mod.getLsbD 0))
  | _ => none

/-- The extended forms of group 0x09 (R106). -/
def parse09 (f : Fields) : Option Instr :=
  match f.fn.toNat with
  | 0 => do some (.mulLo f.getCtl f.d f.a (← f.getB) (← Ty.ofBits f.ty3))
  | 1 => do some (.mulHi f.getCtl f.d f.a (← f.getB) (← Ty.ofBits f.ty3))
  | 2 => do some (.mad f.getCtl f.d f.a (← f.getB) f.c (← Ty.ofBits f.ty3))
  | 3 => do some (.madWide f.getCtl f.d f.a (← f.getB) f.c (!f.mod.getLsbD 3))
  | _ => none

/-- The extended forms of group 0x0a (R106). -/
def parse0a (f : Fields) : Option Instr :=
  match f.fn.toNat with
  | 0 => do some (.min f.getCtl f.d f.a (← f.getB) (← Ty.ofBits f.ty3))
  | 1 => do some (.max f.getCtl f.d f.a (← f.getB) (← Ty.ofBits f.ty3))
  | 2 => some (.abs f.getCtl f.d f.a (tyW64 f.ty3) (f.mod.getLsbD 0))
  | 3 => some (.neg f.getCtl f.d f.a (tyW64 f.ty3) (f.mod.getLsbD 0))
  | _ => none

/-- The extended forms of group 0x0b (R106). -/
def parse0b (f : Fields) : Option Instr :=
  match f.fn.toNat with
  | 0 => do some (.and f.getCtl f.d f.a (← f.getB) (tyW64 f.ty3))
  | 1 => do some (.or f.getCtl f.d f.a (← f.getB) (tyW64 f.ty3))
  | 2 => do some (.xor f.getCtl f.d f.a (← f.getB) (tyW64 f.ty3))
  | 3 => some (.not f.getCtl f.d f.a (tyW64 f.ty3))
  | 4 => do some (.tern f.getCtl f.d f.a (← f.getB) f.c (f.imm.extractLsb' 0 8) (tyW64 f.ty3))
  | _ => none

/-- The extended forms of group 0x0c (R106). -/
def parse0c (f : Fields) : Option Instr :=
  match f.fn.toNat with
  | 0 => do some (.shl f.getCtl f.d f.a (← f.getB) (tyW64 f.ty3))
  | 1 => do some (.shr f.getCtl f.d f.a (← f.getB) (tyW64 f.ty3))
  | 2 => do some (.sar f.getCtl f.d f.a (← f.getB) (tyW64 f.ty3))
  | _ => none

/-- The extended forms of group 0x0d (R106). -/
def parse0d (f : Fields) : Option Instr :=
  match f.fn.toNat with
  | 0 => do some (.bfe f.getCtl f.d f.a (← f.getB) (← Ty.ofBits f.ty3))
  | 1 => do some (.bfi f.getCtl f.d f.a (← f.getB) f.c (tyW64 f.ty3))
  | _ => none

/-- The extended forms of group 0x0e (R106). -/
def parse0e (f : Fields) : Option Instr :=
  match f.fn.toNat with
  | 0 => some (.popc f.getCtl f.d f.a (tyW64 f.ty3))
  | 1 => some (.clz f.getCtl f.d f.a (tyW64 f.ty3))
  | 2 => some (.brev f.getCtl f.d f.a (tyW64 f.ty3))
  | _ => none

/-- The extended forms of group 0x0f (R106). -/
def parse0f (f : Fields) : Option Instr :=
  match f.fn.toNat with
  | 0 => do some (.sel f.getCtl f.d f.a (← f.getB) (p6 f.c) (tyW64 f.ty3))
  | _ => none

/-- The extended forms of group 0x10 (R106). -/
def parse10 (f : Fields) : Option Instr :=
  match f.fn.toNat with
  | 0 => do some (.cmp f.getCtl (p6 f.d) f.a (← f.getB) (← Cond.ofBits (f.mod.extractLsb' 0 3))
      (← Ty.ofBits f.ty3))
  | _ => none

/-- The extended forms of group 0x11 (R106). -/
def parse11 (f : Fields) : Option Instr :=
  match f.fn.toNat with
  | 0 => do some (.lea f.getCtl f.d (if f.mod.getLsbD 0 then .s (s5 f.a) else .v f.a) (← f.getB)
      f.xs
      (!f.mod.getLsbD 3))
  | _ => none

/-- The extended forms of group 0x12 (R106). -/
def parse12 (f : Fields) : Option Instr :=
  match f.fn.toNat with
  | 0 => do some (.mov f.getCtl f.d (← f.getB) (tyW64 f.ty3))
  | 1 => some (.movk f.getCtl f.d f.imm (f.xs.extractLsb' 0 2) (tyW64 f.ty3))
  | _ => none

/-- The extended forms of group 0x13 (R106). -/
def parse13 (f : Fields) : Option Instr :=
  match f.fn.toNat with
  | 0 => do some (.cvtI f.getCtl f.d f.a (← Ty8.ofBits f.ty3) (← Ty8.ofBits (f.mod.extractLsb' 0
      3)))
  | _ => none

/-- The extended forms of group 0x14 (R106). -/
def parse14 (f : Fields) : Option Instr :=
  match f.fn.toNat with
  | 0 => some (.pand f.getCtl (p6 f.d) (p6 f.a) (p6 f.b) (f.mod.getLsbD 0) (f.mod.getLsbD 1))
  | 1 => some (.por f.getCtl (p6 f.d) (p6 f.a) (p6 f.b) (f.mod.getLsbD 0) (f.mod.getLsbD 1))
  | 2 => some (.pxor f.getCtl (p6 f.d) (p6 f.a) (p6 f.b) (f.mod.getLsbD 0) (f.mod.getLsbD 1))
  | 3 => some (.pnot f.getCtl (p6 f.d) (p6 f.a) (f.mod.getLsbD 0))
  | 4 => some (.pmov f.getCtl (p6 f.d) (p6 f.a) (f.mod.getLsbD 0))
  | _ => none

/-- The extended forms of group 0x15 (R106). -/
def parse15 (f : Fields) : Option Instr :=
  match f.fn.toNat with
  | 0 => some (.vote f.getCtl (VoteDst.ofBits f.d (f.mod.extractLsb' 0 2)) (p6 f.a)
      (f.mod.getLsbD 2))
  | _ => none

/-- The extended forms of group 0x16 (R106). -/
def parse16 (f : Fields) : Option Instr :=
  match f.fn.toNat with
  | 0 => some (.pcnt f.getCtl f.d (p6 f.a) (f.mod.getLsbD 1) (f.mod.getLsbD 0))
  | _ => none

/-- The extended forms of group 0x18 (R106). -/
def parse18 (f : Fields) : Option Instr :=
  match f.fn.toNat with
  | 0 => do some (.sadd f.waitk (s5 f.d) (s5 f.a) (← f.getSB))
  | 1 => do some (.ssub f.waitk (s5 f.d) (s5 f.a) (← f.getSB))
  | 2 => do some (.smul f.waitk (s5 f.d) (s5 f.a) (← f.getSB))
  | 3 => do some (.sand f.waitk (s5 f.d) (s5 f.a) (← f.getSB))
  | 4 => do some (.sor f.waitk (s5 f.d) (s5 f.a) (← f.getSB))
  | 5 => do some (.sxor f.waitk (s5 f.d) (s5 f.a) (← f.getSB))
  | 6 => do some (.sshl f.waitk (s5 f.d) (s5 f.a) (← f.getSB))
  | 7 => do some (.sshr f.waitk (s5 f.d) (s5 f.a) (← f.getSB) (f.mod.getLsbD 0))
  | _ => none

/-- The extended forms of group 0x19 (R106). -/
def parse19 (f : Fields) : Option Instr :=
  match f.fn.toNat with
  | 0 => do some (.scmp f.waitk (s5 f.d) (s5 f.a) (← f.getSB) (← Cond.ofBits (f.mod.extractLsb' 0
      3)) (f.mod.getLsbD 3))
  | 1 => do some (.smov f.waitk (s5 f.d) (← f.getSB))
  | _ => none

/-- The extended forms of group 0x1a (R106). -/
def parse1a (f : Fields) : Option Instr :=
  match f.fn.toNat with
  | 0 => do some (.sld f.waitk (s5 f.d) (s5 f.a) (← f.getSB) (← SldSz.ofBits (f.mod.extractLsb' 0
      3)))
  | 1 => some (.bcast f.getCtl f.d (s5 f.a) (f.mod.getLsbD 0))
  | 2 => do some (.lane f.waitk (s5 f.d) f.a (← f.getSB) (f.mod.getLsbD 0))
  | 3 => some (.sreg f.getCtl (if f.mod.getLsbD 0 then .v f.d else .s (s5 f.d)) f.imm)
  | _ => none

/-- The extended forms of group 0x1b (R106). -/
def parse1b (f : Fields) : Option Instr :=
  match f.fn.toNat with
  | 0 => some (.sbra f.waitk (s5 f.a) f.getOff (f.mod.getLsbD 0))
  | _ => none

/-- The extended forms of group 0x1c (R106). -/
def parse1c (f : Fields) : Option Instr :=
  match f.fn.toNat with
  | 0 => do some (.fadd f.getCtl f.d f.a (← f.getB) (← f.rm) (f.mod.getLsbD 4))
  | 1 => do some (.fsub f.getCtl f.d f.a (← f.getB) (← f.rm) (f.mod.getLsbD 4))
  | 2 => do some (.fmul f.getCtl f.d f.a (← f.getB) (← f.rm) (f.mod.getLsbD 4))
  | 3 => do some (.fma f.getCtl f.d f.a (← f.getB) f.c (← f.rm) (f.mod.getLsbD 4))
  | _ => none

/-- The extended forms of group 0x1d (R106). -/
def parse1d (f : Fields) : Option Instr :=
  match f.fn.toNat with
  | 0 => do some (.fmin f.getCtl f.d f.a (← f.getB) (f.mod.getLsbD 5) (f.mod.getLsbD 4))
  | 1 => do some (.fmax f.getCtl f.d f.a (← f.getB) (f.mod.getLsbD 5) (f.mod.getLsbD 4))
  | _ => none

/-- The extended forms of group 0x1e (R106). -/
def parse1e (f : Fields) : Option Instr :=
  match f.fn.toNat with
  | 0 => do some (.fcmp f.getCtl (p6 f.d) f.a (← f.getB) (← FCond.ofBits (f.mod.extractLsb' 0 3))
      (f.mod.getLsbD 5) (f.mod.getLsbD 4))
  | _ => none

/-- The extended forms of group 0x1f (R106). -/
def parse1f (f : Fields) : Option Instr :=
  match f.fn.toNat with
  | 0 => do some (.frcp f.getCtl f.d f.a (f.mod.getLsbD 5) (← f.rm) (f.mod.getLsbD 4))
  | 1 => do some (.frsq f.getCtl f.d f.a (← f.rm) (f.mod.getLsbD 4))
  | 2 => do some (.fsqrt f.getCtl f.d f.a (f.mod.getLsbD 5) (← f.rm) (f.mod.getLsbD 4))
  | _ => none

/-- The extended forms of group 0x20 (R106). -/
def parse20 (f : Fields) : Option Instr :=
  match f.fn.toNat with
  | 0 => do some (.fex2 f.getCtl f.d f.a (← f.rm) (f.mod.getLsbD 4))
  | 1 => do some (.flg2 f.getCtl f.d f.a (← f.rm) (f.mod.getLsbD 4))
  | 2 => do some (.fsin f.getCtl f.d f.a (← f.rm) (f.mod.getLsbD 4))
  | 3 => do some (.fcos f.getCtl f.d f.a (← f.rm) (f.mod.getLsbD 4))
  | _ => none

/-- The extended forms of group 0x21 (R106). -/
def parse21 (f : Fields) : Option Instr :=
  match f.fn.toNat with
  | 0 => do some (.frnd f.getCtl f.d f.a (f.mod.getLsbD 5) (← f.rm) (f.mod.getLsbD 4))
  | 1 => some (.fcls f.getCtl (p6 f.d) f.a (f.mod.getLsbD 5) (f.imm.extractLsb' 0 10))
  | 2 => do some (.fsgn f.getCtl f.d f.a (← f.getB) (f.mod.getLsbD 5) (← SgnOp.ofBits
      (f.mod.extractLsb' 0 2)))
  | _ => none

/-- The extended forms of group 0x22 (R106). -/
def parse22 (f : Fields) : Option Instr :=
  match f.fn.toNat with
  | 0 => do some (.hfma2 f.getCtl f.d f.a (← f.getB) f.c (f.mod.getLsbD 5) (← f.rm)
      (f.mod.getLsbD 4))
  | 1 => do some (.hadd2 f.getCtl f.d f.a (← f.getB) (f.mod.getLsbD 5) (← f.rm) (f.mod.getLsbD 4))
  | 2 => do some (.hmul2 f.getCtl f.d f.a (← f.getB) (f.mod.getLsbD 5) (← f.rm) (f.mod.getLsbD 4))
  | _ => none

/-- The extended forms of group 0x23 (R106). -/
def parse23 (f : Fields) : Option Instr :=
  match f.fn.toNat with
  | 0 => do some (.dfma f.getCtl f.d f.a (← f.getB) f.c (← f.rm))
  | 1 => do some (.dadd f.getCtl f.d f.a (← f.getB) (← f.rm))
  | 2 => do some (.dmul f.getCtl f.d f.a (← f.getB) (← f.rm))
  | _ => none

/-- The extended forms of group 0x24 (R106). -/
def parse24 (f : Fields) : Option Instr :=
  match f.fn.toNat with
  | 0 => do some (.cvtF f.getCtl f.d f.a (← CvtTy.ofBits (f.imm.extractLsb' 0 4)) (← CvtTy.ofBits
      (f.imm.extractLsb' 4 4)) (← f.rm) (f.mod.getLsbD 4))
  | _ => none

/-- The extended forms of group 0x25 (R106). -/
def parse25 (f : Fields) : Option Instr :=
  match f.fn.toNat with
  | 0 => do some (.cvtSb f.getCtl f.d f.a f.c (← SbFmt.ofBits (f.mod.extractLsb' 4 2)) (←
      SbSrc.ofBits (f.imm.extractLsb' 14 2)) (f.mod.extractLsb' 0 4) (f.imm.extractLsb' 0 14)
      (f.xs.getLsbD 2) (f.xs.extractLsb' 0 2))
  | _ => none

/-- The extended forms of group 0x26 (R106). -/
def parse26 (f : Fields) : Option Instr :=
  match f.fn.toNat with
  | 0 => do some (.cvtXsb f.getCtl f.d f.a f.c (← SbFmt.ofBits (f.mod.extractLsb' 4 2)) (←
      SbDst.ofBits (f.imm.extractLsb' 14 2)) (← f.rm) (f.xs.getLsbD 2) (f.xs.extractLsb' 0 2))
  | _ => none

/-- The extended forms of group 0x28 (R106). -/
def parse28 (f : Fields) : Option Instr :=
  match f.fn.toNat with
  | 0 => do some (.xlane f.getCtl f.d f.a (if f.mod.getLsbD 7 then .imm f.imm else .reg f.b)
      (← XMode.ofBits (f.mod.extractLsb' 0 2)) (f.mod.getLsbD 3)
      (if f.mod.getLsbD 2 then some (p6 f.c) else none))
  | 1 => some (.matchLanes f.getCtl f.d f.a (f.mod.getLsbD 0) (f.mod.getLsbD 3))
  | _ => none

/-- The extended forms of group 0x29 (R106). -/
def parse29 (f : Fields) : Option Instr :=
  match f.fn.toNat with
  | 0 => do some (.red f.getCtl f.d f.a (← RedOp.ofBits (f.mod.extractLsb' 0 4)))
  | 1 => do some (.scan f.getCtl f.d f.a (← RedOp.ofBits (f.mod.extractLsb' 0 4)) (f.mod.getLsbD
      4))
  | _ => none

/-- The extended forms of group 0x2a (R106). -/
def parse2a (f : Fields) : Option Instr :=
  match f.fn.toNat with
  | 0 => do some (.ckacc f.getCtl (f.d.extractLsb' 0 2) f.a (← CkTy.ofBits (f.mod.extractLsb' 0
      2)) (f.mod.getLsbD 2))
  | 1 => some (.ckchk f.getCtl (f.a.extractLsb' 0 2) (f.b.extractLsb' 0 2) f.imm)
  | 2 => some (.ckclr f.waitk (f.d.extractLsb' 0 2) (f.mod.getLsbD 0))
  | 3 => some (.ckrd f.waitk (s5 f.d) (f.a.extractLsb' 0 2) (f.mod.getLsbD 0))
  | _ => none

/-- The extended forms of group 0x2c (R106). -/
def parse2c (f : Fields) : Option Instr :=
  match f.fn.toNat with
  | 0 => do some (.ld f.getCtl f.d f.getAddr (f.xs.getLsbD 3) (← Ann.ofBits (f.mod.extractLsb' 3
      5)) (← LdSz.ofBits (f.mod.extractLsb' 0 3)))
  | 1 => do some (.ldq f.getCtl f.d f.getAddr (f.c.extractLsb' 0 2) (← LdSz.ofBits
      (f.mod.extractLsb' 0 3)))
  | _ => none

/-- The extended forms of group 0x2d (R106). -/
def parse2d (f : Fields) : Option Instr :=
  match f.fn.toNat with
  | 0 => do some (.st f.getCtl f.d f.getAddr (f.xs.getLsbD 3) (← Ann.ofBits (f.mod.extractLsb' 3
      5)) (← StSz.ofBits (f.mod.extractLsb' 0 3)))
  | _ => none

/-- The extended forms of group 0x2e (R106). -/
def parse2e (f : Fields) : Option Instr :=
  match f.fn.toNat with
  | 0 => do some (.atom f.getCtl f.d f.a f.imm f.b f.c (← AtomOp.ofBits f.xs) (← Ann.ofBits
      (f.mod.extractLsb' 3 5)) (f.mod.getLsbD 2) (f.mod.getLsbD 1) (f.mod.getLsbD 0))
  | 1 => do some (.redM f.getCtl f.a f.imm f.b (← AtomOp.ofBits f.xs) (← Ann.ofBits
      (f.mod.extractLsb' 3 5)) (f.mod.getLsbD 2) (f.mod.getLsbD 1) (f.mod.getLsbD 0))
  | _ => none

/-- The extended forms of group 0x2f (R106). -/
def parse2f (f : Fields) : Option Instr :=
  match f.fn.toNat with
  | 0 => do some (.waitv f.getCtl f.a f.getOff f.b (← WCond.ofBits (f.c.extractLsb' 0 3)) (←
      Ann.ofBits (f.mod.extractLsb' 3 5)) (f.mod.getLsbD 0) (f.xs.getLsbD 3))
  | _ => none

/-- The extended forms of group 0x30 (R106). -/
def parse30 (f : Fields) : Option Instr :=
  match f.fn.toNat with
  | 0 => do some (.fence f.getCtl (← FenceKind.ofBits (f.mod.extractLsb' 6 2)) (← Scope.ofBits
      (f.mod.extractLsb' 3 3)) (← Path.ofBits (f.imm.extractLsb' 0 3)) (← Path.ofBits
      (f.imm.extractLsb' 3 3)))
  | 1 => some (.prf f.getCtl (f.mod.getLsbD 0) f.getAddr)
  | 2 => some (.flushHost f.getCtl (s5 f.a) (f.getLen 0))
  | 3 => some (.invalHost f.getCtl (s5 f.a) (f.getLen 0))
  | _ => none

/-- The extended forms of group 0x31 (R106). -/
def parse31 (f : Fields) : Option Instr :=
  match f.fn.toNat with
  | 0 => some (.tcfg f.getCtl (f.d.extractLsb' 0 4) (s5 f.a) (s5 f.b) (f.imm.extractLsb' 0 8)
      (f.mod.getLsbD 0))
  | 1 => some (.tstat f.getCtl (if f.mod.getLsbD 0 then .v f.d else .p (p6 f.d)) (f.a.extractLsb'
      0 4))
  | 2 => some (.tfree f.getCtl (f.d.extractLsb' 0 4))
  | _ => none

/-- The extended forms of group 0x32 (R106). -/
def parse32 (f : Fields) : Option Instr :=
  match f.fn.toNat with
  | 0 => do some (.tload f.getCtl (f.d.extractLsb' 0 4) f.b (s5 f.a) (← Tr.ofBits
      (f.mod.extractLsb' 0 2)) f.getTok)
  | 1 => do some (.tstore f.getCtl (f.d.extractLsb' 0 4) f.b (s5 f.a) (← Tr.ofBits
      (f.mod.extractLsb' 0 2)) f.getTok)
  | _ => none

/-- The extended forms of group 0x33 (R106). -/
def parse33 (f : Fields) : Option Instr :=
  match f.fn.toNat with
  | 0 => do some (.cp f.getCtl (s5 f.d) (s5 f.a) (f.getLen 2) (← CpDir.ofBits (f.mod.extractLsb'
      0 2)) f.tok)
  | 1 => some (.waitk f.getCtl (f.imm.extractLsb' 0 6))
  | _ => none

/-- The extended forms of group 0x34 (R106). -/
def parse34 (f : Fields) : Option Instr :=
  match f.fn.toNat with
  | 0 => some (.qpush f.getCtl (f.d.extractLsb' 0 3) (s5 f.a))
  | 1 => some (.qpop f.getCtl (s5 f.d) (f.a.extractLsb' 0 3))
  | _ => none

/-- The extended forms of group 0x35 (R106). -/
def parse35 (f : Fields) : Option Instr :=
  match f.fn.toNat with
  | 0 => some (.rput f.getCtl (s5 f.d) (s5 f.a) (f.getLen 2) (f.mod.getLsbD 0) f.tok)
  | 1 => some (.rget f.getCtl (s5 f.d) (s5 f.a) (f.getLen 2) (f.mod.getLsbD 0) f.tok)
  | _ => none

/-- The extended forms of group 0x38 (R106). -/
def parse38 (f : Fields) : Option Instr :=
  match f.fn.toNat with
  | 0 => some (.mrsv f.waitk (p6 f.d))
  | 1 => some (.mrel f.waitk)
  | 2 => some (.mgang f.waitk (s5 f.a))
  | 3 => some (.mstat f.waitk f.d)
  | _ => none

/-- The extended forms of group 0x39 (R106). -/
def parse39 (f : Fields) : Option Instr :=
  match f.fn.toNat with
  | 0 => some (.mlds f.waitk (f.a.extractLsb' 0 4) f.b (f.mod.getLsbD 0) (f.xs.extractLsb' 0 2))
  | 1 => some (.mswp f.waitk)
  | 2 => some (.mstr f.waitk (f.d.extractLsb' 0 2) (f.a.extractLsb' 0 4) f.b (f.imm.extractLsb' 0
      6) (f.imm.extractLsb' 8 6) (f.xs.extractLsb' 0 2) (f.mod.getLsbD 0))
  | _ => none

/-- The extended forms of group 0x3a (R106). -/
def parse3a (f : Fields) : Option Instr :=
  match f.fn.toNat with
  | 0 => some (.mrd f.waitk f.d (f.a.extractLsb' 0 2) (f.imm.extractLsb' 0 6) (f.imm.extractLsb'
      8 2))
  | 1 => some (.mwr f.waitk (f.d.extractLsb' 0 2) f.a (f.imm.extractLsb' 0 6) (f.imm.extractLsb'
      8 2))
  | 2 => if f.mod.getLsbD 7 then
        some (.mstM f.waitk (f.a.extractLsb' 0 2) f.b (s5 f.c) (f.imm.extractLsb' 0 6)
          (f.imm.extractLsb' 8 6) (f.mod.extractLsb' 0 4) f.tok)
      else
        some (.mst f.waitk (f.a.extractLsb' 0 2) (f.d.extractLsb' 0 4) f.b (f.imm.extractLsb' 0 6)
          (f.imm.extractLsb' 8 6) (f.xs.extractLsb' 0 2) (f.mod.extractLsb' 0 4))
  | 3 => some (.mclr f.waitk (if f.mod.getLsbD 0 then none else some (f.d.extractLsb' 0 2)))
  | _ => none

/-- The extended forms of group 0x3c (R106). -/
def parse3c (f : Fields) : Option Instr :=
  match f.fn.toNat with
  | 0 => do some (.bar f.waitk (← Scope.ofBits f.ty3) (f.c.extractLsb' 0 4) (f.imm.extractLsb' 0
      6) (if f.mod.getLsbD 0 then some (p6 f.d) else none))
  | 1 => do some (.barArr f.waitk (s5 f.d) (← Scope.ofBits f.ty3) (f.c.extractLsb' 0 4)
      (f.imm.extractLsb' 0 6))
  | 2 => do some (.barWt f.waitk (← Scope.ofBits f.ty3) (f.c.extractLsb' 0 4) (s5 f.a) (if
      f.mod.getLsbD 0 then some (p6 f.d) else none))
  | 3 => some (.psub f.getCtl (s5 f.a) (s5 f.b))
  | 4 => some (.pyld f.getCtl (p6 f.d) (s5 f.a))
  | _ => none

/-- The extended forms of group 0x3d (R106). -/
def parse3d (f : Fields) : Option Instr :=
  match f.fn.toNat with
  | 0 => some (.uibind f.waitk (s5 f.d) (s5 f.a) (f.mod.getLsbD 0))
  | 1 => some (.uisend f.getCtl (s5 f.a) (s5 f.b))
  | 2 => some (.uiwait f.waitk)
  | 3 => do some (.uimask f.waitk (s5 f.d) (s5 f.a) (← MaskOp.ofBits (f.mod.extractLsb' 0 2)))
  | 4 => some (.uiret f.waitk (p6 f.d))
  | _ => none

/-- The extended forms of group 0x3e (R106). -/
def parse3e (f : Fields) : Option Instr :=
  match f.fn.toNat with
  | 0 => some (.rgn f.waitk)
  | 1 => some (.rgnx f.waitk)
  | 2 => some (.npe f.waitk)
  | 3 => some (.pe f.waitk)
  | 4 => do some (.lnrd f.waitk (s5 f.d) (← LnReg.ofBits f.a f.mod) f.getLane)
  | 5 => do some (.lnwr f.waitk (← LnReg.ofBits f.d f.mod) (s5 f.a) f.getLane)
  | 6 => do some (.tret f.waitk (← TretAct.ofBits (f.mod.extractLsb' 0 2)) (f.mod.getLsbD 3)
      (f.mod.getLsbD 4) (if f.mod.getLsbD 2 then some (s5 f.a) else none))
  | 7 => some (.csrr f.waitk (s5 f.d) f.imm)
  | 8 => do some (.csrw f.waitk f.imm (s5 f.a) (← MaskOp.ofBits (f.mod.extractLsb' 0 2)))
  | _ => none

/-- The short forms (R103). -/
def parseShort (f : Fields) : Option Instr :=
  match f.opc.toNat with
  | 0x00 => some (.braShort (f.b ++ f.a ++ f.d))
  | 0x01 => some (.callShort (f.b ++ f.a ++ f.d))
  | 0x03 => some .retShort
  | 0x04 => some .nopShort
  | 0x05 => some .exitShort
  | 0x08 => some (.addShort f.d f.a f.b)
  | 0x0b => some (.andShort f.d f.a f.b)
  | 0x0c => some (.shlShort f.d f.a f.b)
  | 0x12 => some (.movShort f.d f.b)
  | 0x18 => some (.saddShort (s5 f.d) (s5 f.a) (s5 f.b))
  | 0x1c => some (.faddShort f.d f.a f.b)
  | 0x3e => some .rgnShort
  | _ => none

/-- The short forms with a literal (R103). -/
def parseLit (f : Fields) : Option Instr :=
  match f.opc.toNat with
  | 0x00 => some (.braLit (f.lit.extractLsb' 0 32))
  | 0x01 => some (.callLit (f.lit.extractLsb' 0 32))
  | 0x08 => some (.addLit f.d f.a (f.lit.extractLsb' 0 32))
  | 0x0b => some (.andLit f.d f.a (f.lit.extractLsb' 0 32))
  | 0x0c => some (.shlLit f.d f.a (f.lit.extractLsb' 0 32))
  | 0x12 => some (.movLit f.d (f.lit.extractLsb' 0 32))
  | 0x18 => some (.saddLit (s5 f.d) (s5 f.a) f.lit)
  | 0x1c => some (.faddLit f.d f.a (f.lit.extractLsb' 0 32))
  | _ => none

/-- The extended forms, by group (R106); the groups not listed are unassigned (R107). -/
def parseExt (f : Fields) : Option Instr :=
  match f.opc.toNat with
  | 0x00 => parse00 f
  | 0x01 => parse01 f
  | 0x02 => parse02 f
  | 0x03 => parse03 f
  | 0x04 => parse04 f
  | 0x05 => parse05 f
  | 0x06 => parse06 f
  | 0x07 => parse07 f
  | 0x08 => parse08 f
  | 0x09 => parse09 f
  | 0x0a => parse0a f
  | 0x0b => parse0b f
  | 0x0c => parse0c f
  | 0x0d => parse0d f
  | 0x0e => parse0e f
  | 0x0f => parse0f f
  | 0x10 => parse10 f
  | 0x11 => parse11 f
  | 0x12 => parse12 f
  | 0x13 => parse13 f
  | 0x14 => parse14 f
  | 0x15 => parse15 f
  | 0x16 => parse16 f
  | 0x18 => parse18 f
  | 0x19 => parse19 f
  | 0x1a => parse1a f
  | 0x1b => parse1b f
  | 0x1c => parse1c f
  | 0x1d => parse1d f
  | 0x1e => parse1e f
  | 0x1f => parse1f f
  | 0x20 => parse20 f
  | 0x21 => parse21 f
  | 0x22 => parse22 f
  | 0x23 => parse23 f
  | 0x24 => parse24 f
  | 0x25 => parse25 f
  | 0x26 => parse26 f
  | 0x28 => parse28 f
  | 0x29 => parse29 f
  | 0x2a => parse2a f
  | 0x2c => parse2c f
  | 0x2d => parse2d f
  | 0x2e => parse2e f
  | 0x2f => parse2f f
  | 0x30 => parse30 f
  | 0x31 => parse31 f
  | 0x32 => parse32 f
  | 0x33 => parse33 f
  | 0x34 => parse34 f
  | 0x35 => parse35 f
  | 0x38 => parse38 f
  | 0x39 => parse39 f
  | 0x3a => parse3a f
  | 0x3c => parse3c f
  | 0x3d => parse3d f
  | 0x3e => parse3e f
  | _ => none

/-- The instruction that the fields name, before the checks of R102. -/
def parse (f : Fields) : Option Instr :=
  if f.len = 0 then parseShort f
  else if f.len = 2 then parseLit f
  else parseExt f

/-- Why a word sequence is not an instruction; each raises ILLOP (R107). -/
inductive Reject where
  /-- The words are not those of one instruction: R95's length does not match. -/
  | length
  /-- No instruction has this group, function, short form or enumerated modifier (R103, R106). -/
  | unassigned
  /-- A register is outside its class, a pair is odd, or a field value is not assigned (R98). -/
  | illFormed
  /-- A bit that R102 requires to be zero is set. -/
  | strayBit
deriving DecidableEq, Repr

/-- The instruction of a word sequence, or the reason why it is none (R107, R108). -/
def decode (ws : List Word) : Except Reject Instr :=
  match Fields.ofWords ws with
  | none => .error .length
  | some f =>
    match parse f with
    | none => .error .unassigned
    | some i =>
      if i.wf then (if fieldsOf i = some f then .ok i else .error .strayBit)
      else .error .illFormed

/-- The words of an instruction; none for an event or a packet. -/
def encode (i : Instr) : Option (List Word) := (fieldsOf i).map Fields.words

/-- The length of an instruction in bytes (R95). -/
def Instr.bytes (i : Instr) : Nat :=
  match encode i with
  | some ws => 4 * ws.length
  | none => 0

/-- The first n words of a number whose bits are the instruction's, first word lowest. -/
def wordsOfNat : Nat → Nat → List Word
  | 0, _ => []
  | n + 1, w => BitVec.ofNat 32 w :: wordsOfNat n (w / 2 ^ 32)

/-- The instruction read from the bits w numbered as spec/opcode_table.json numbers them; every bit
at or above nbits is zero. -/
def decodeTableWord (nbits w : Nat) : Option Instr :=
  let x := w % 2 ^ nbits
  match decode (wordsOfNat (wordCount (BitVec.ofNat 32 x)) x) with
  | .ok i => some i
  | .error _ => none

end Sys2Proof
end

