-- ==== Sys2Proof/Config.lean ====
section
/-! DEFINITION. What the package fixes (R1) and the values the manual leaves open: opaque constants
with no body, so that nothing can be proved of their values (log entry 6: DESIGN CHOICE). -/

namespace Sys2Proof.Config

/-- Dies per package (R1). -/
def dies : Nat := 4
/-- Enabled quads per die (R1). -/
def quads : Nat := 48
/-- Physical quads per die (R1). -/
def physQuads : Nat := 50
/-- Cores per quad (R76). -/
def coresPerQuad : Nat := 4
/-- Queue slots per die (R1). -/
def slotsPerDie : Nat := 64
/-- The core's register file in bytes (R12). -/
def regFile : Nat := 393216
/-- Bytes of bonded DRAM per package (R212). -/
def dramSize : Nat := 2 ^ 37
/-- Bytes of LPDDR6 per package (R212). -/
def lpddrSize : Nat := 2 ^ 40
/-- The save layout this model's firmware writes (R354). -/
def layout : Nat := 1

/-- The n-th value of 64 bits that the manual leaves open: a cycle count (R168), a TIME stamp of an
error log (R368). -/
opaque freeWord : Nat → BitVec 64

/-- The home die that the policy core's firmware chooses for the n-th registration (R28). -/
opaque homeDie : Nat → BitVec 2

/-- Whether a code line that FENCE.I, INVAL or replacement has not dropped is dropped by the n-th
replacement (R92). -/
opaque dropLine : Nat → Bool

/-- SHA3-512 (R8, R388, R394, R395), which the manual names and does not define. -/
opaque sha3 : List (BitVec 8) → BitVec 512

/-- Whether an ML-DSA-87 signature verifies against the boot ROM's key (R388, R394). -/
opaque mlDsaVerifies : BitVec 512 → List (BitVec 8) → Bool

/-- The PASID that CTX_NEW assigns to a context number (R382). -/
opaque pasid : Nat → BitVec 20

/-- The manifest of an image (R388): its id, security version, accepted save layouts, own layout and
signature. The manual does not lay the manifest out. -/
opaque fwId : List (BitVec 8) → BitVec 64
/-- The security version of an image (R388). -/
opaque fwSecver : List (BitVec 8) → BitVec 32
/-- The save layouts that an image accepts (R388). -/
opaque fwAccepts : List (BitVec 8) → List Nat
/-- The save layout that an image writes (R388). -/
opaque fwWrites : List (BitVec 8) → Nat
/-- The signature in an image's manifest (R388). -/
opaque fwSignature : List (BitVec 8) → List (BitVec 8)

/-- The digest of boot stage k of the bank with a digest (R394, R395): 0 is the boot ROM's configuration
and fuses, 1 to 3 the policy core, packet core and supervisor images. -/
opaque stageDigest : Nat → BitVec 512 → BitVec 512
/-- Whether the signature of boot stage k of the bank with a digest verifies (R394). -/
opaque stageVerifies : Nat → BitVec 512 → Bool

/-- Where the hand-over record lies in package-reserved bonded DRAM (R391). -/
opaque handOver : Nat

/-- The KIND under which a clock change is logged, which R368 does not list (R398). -/
opaque clockKind : Nat

/-- The bytes of the SPDM responder's n-th answer that the manual does not give (R395). -/
opaque spdmReply : Nat → List (BitVec 8)

end Sys2Proof.Config
end

