-- ==== Sys2Proof/Machine/Map.lean ====
section
/-! DEFINITION. Sparse maps in one canonical form: keys strictly rising, no entry equal to the
default. Memory, scratchpad and every register class are held this way. -/

namespace Sys2Proof.Machine

/-- The value at key k, or the default. -/
def smGet {α : Type} (d : α) : List (Nat × α) → Nat → α
  | [], _ => d
  | (k', v) :: t, k => if k' = k then v else smGet d t k

/-- The map without key k. -/
def smErase {α : Type} : List (Nat × α) → Nat → List (Nat × α)
  | [], _ => []
  | (k', v) :: t, k => if k' = k then smErase t k else (k', v) :: smErase t k

/-- The entry (k, v) put before the first larger key. -/
def smInsert {α : Type} : List (Nat × α) → Nat → α → List (Nat × α)
  | [], k, v => [(k, v)]
  | (k', v') :: t, k, v => if k < k' then (k, v) :: (k', v') :: t else (k', v') :: smInsert t k v

/-- The map with value v at key k; writing the default removes the entry. -/
def smSet {α : Type} [DecidableEq α] (d : α) (m : List (Nat × α)) (k : Nat) (v : α) :
    List (Nat × α) :=
  if v = d then smErase m k else smInsert (smErase m k) k v

/-- The map with the keys lo, lo + 1, ... holding the values listed. -/
def smSplice {α : Type} [DecidableEq α] (d : α) (m : List (Nat × α)) (lo : Nat) (vs : List α) :
    List (Nat × α) :=
  m.filter (fun e => decide (e.1 < lo)) ++
    ((List.range vs.length).zip vs).filterMap (fun p => if p.2 = d then none else some (lo + p.1, p.2)) ++
    m.filter (fun e => decide (lo + vs.length ≤ e.1))

/-- Keys strictly rising. -/
def smSorted {α : Type} : List (Nat × α) → Bool
  | [] => true
  | [_] => true
  | (k, _) :: (k', v') :: t => decide (k < k') && smSorted ((k', v') :: t)

/-- No entry holds the default. -/
def smNoDefault {α : Type} [DecidableEq α] (d : α) (m : List (Nat × α)) : Bool :=
  m.all fun e => decide (e.2 ≠ d)

/-- Byte memory as cells (address, byte). -/
abbrev Memory := List Host.Cell

/-- What a byte of memory that nothing has written reads as (log entry 1: DESIGN CHOICE). -/
def Memory.unlisted : Byte := 0

/-- One byte of memory. -/
def Memory.byte (m : Memory) (a : Nat) : Byte := smGet Memory.unlisted m a

/-- Memory with one byte written. -/
def Memory.setByte (m : Memory) (a : Nat) (v : Byte) : Memory := smSet Memory.unlisted m a v

/-- The canonical form of a memory. -/
def Memory.wf (m : Memory) : Bool := smSorted m && smNoDefault Memory.unlisted m

/-- n bytes from address a upward. -/
def Memory.bytes (m : Memory) (a : Nat) : Nat → List Byte
  | 0 => []
  | n + 1 => m.byte a :: Memory.bytes m (a + 1) n

/-- Memory with bytes written from address a upward. -/
def Memory.setBytes (m : Memory) (a : Nat) : List Byte → Memory
  | [] => m
  | b :: t => Memory.setBytes (m.setByte a b) (a + 1) t

/-- Little-endian value of bytes (R3). -/
def leNat : List Byte → Nat
  | [] => 0
  | b :: t => b.toNat + 256 * leNat t

/-- The n low bytes of a value, little-endian (R3). -/
def leBytes : Nat → Nat → List Byte
  | 0, _ => []
  | n + 1, x => BitVec.ofNat 8 x :: leBytes n (x / 256)

/-- A 64-bit word of memory. -/
def Memory.word64 (m : Memory) (a : Nat) : DWord := BitVec.ofNat 64 (leNat (m.bytes a 8))

/-- Memory with a 64-bit word written. -/
def Memory.setWord64 (m : Memory) (a : Nat) (v : DWord) : Memory :=
  m.setBytes a (leBytes 8 v.toNat)

end Sys2Proof.Machine
end

