-- ==== Sys2Proof/Machine/Types.lean ====
section
/-! DEFINITION. The pieces that State is made of: warps, blocks, cores, grids, queues, contexts,
functions, the traverse and the management state, each field with the rule that names it. -/

namespace Sys2Proof.Machine

/-- A frontier entry (R118). -/
structure Entry where
  pc : DWord
  prio : BitVec 8
  mask : Mask
  park : BitVec 4
deriving DecidableEq, Repr

/-- A call-stack entry (R129); `retoff` holds the return offsets of the lanes in PEND. -/
structure CallEntry where
  pend : Mask
  prio : BitVec 8
  retoff : List (Nat × Word)
deriving DecidableEq, Repr

/-- The four words of a trap record (R337). -/
structure TrapRec where
  w0 : DWord
  w1 : DWord
  w2 : DWord
  w3 : DWord
deriving DecidableEq, Repr

/-- A trap raised and not yet disposed of: its record, the lanes it parked, the PC they stand at,
the length of the trapped instruction, and the transfer of a COPYF (R265, R339, R341). -/
structure Trap where
  words : TrapRec
  lanes : Mask
  pc : DWord
  len : Nat
  xfer : Option Nat
deriving DecidableEq, Repr

/-- The trap frame (R353): record, handler PC as an offset, trapped lanes, saved scalars; `len` is
the trapped instruction's length and `xfer` its transfer, for the disposition of R361. -/
structure Frame where
  trap : Trap
  hoff : Word
  tmask : Mask
  saved : List (Nat × DWord)
deriving DecidableEq, Repr

/-- What a parked lane waits for (R122, R249, R299, R304, R318); `barIn` once the warp's arrival has
been counted. -/
inductive WaitKind where
  | bar (slot : Nat) (scope : Scope) (count : Nat) (pv : Option (BitVec 6))
  | barIn (slot : Nat) (pv : Option (BitVec 6))
  | barWt (slot : Nat) (gen : Word) (scope : Scope) (pv : Option (BitVec 6))
  | waitv (sp : Bool) (addr : DWord) (w64 : Bool) (cond : WCond) (y : DWord) (ann : Ann)
  | uiwait
deriving DecidableEq, Repr

/-- One parked lane's wait and the PC it goes on from. -/
structure Wait where
  lane : Nat
  next : DWord
  kind : WaitKind
deriving DecidableEq, Repr

/-- One lane's part of a store (R244). -/
structure StoreLane where
  lane : Nat
  sp : Bool
  addr : DWord
  bytes : List Byte
deriving DecidableEq, Repr

/-- The engine transfers of R263, R259 and R292. -/
inductive XferKind where
  | cp | rput | rget | tload | tstore | mstM
deriving DecidableEq, Repr

/-- A transfer as issued: spaces, addresses, length, tile, TLR handle, coordinates, token, and the
issuing instruction (R259, R263, R265, R354). A tile transfer holds the tile's BASE in `dst` (tload)
or `src` (tstore), its ROWBYTES in `len`; `mst.m` holds its output elements and scale pairs in
`buf`, and in `flags` what its completion ORs into the members' FLAGS (R292). -/
structure XferReq where
  kind : XferKind
  warp : Nat
  lane : Nat
  srcSp : Bool
  dstSp : Bool
  src : DWord
  dst : DWord
  len : Nat
  tile : Option Nat
  tlr : Option Nat
  tr : Tr
  coords : List Word
  tok : Option (BitVec 3)
  ioff : Word
  opc : Nat
  fn : Nat
  rows : Nat
  gap : Nat
  buf : List Word
  flags : BitVec 5
  members : Mask
deriving DecidableEq, Repr

/-- A transfer outstanding or stopped: progress (bytes or elements landed), the cause and address it
stopped with, whether its COPYF has been delivered, and the fabric request it waits for. -/
structure Xfer where
  id : Nat
  req : XferReq
  pos : Nat
  stop : Option (BitVec 8 × DWord)
  undelivered : Bool
  remote : Option Nat
  pri : Option Nat
deriving DecidableEq, Repr

/-- An engine command held in a region (R326). -/
inductive Cmd where
  | xfer (r : XferReq)
  | qpush (q : BitVec 3) (words : List DWord)
  | uisend (t p : DWord)
deriving DecidableEq, Repr

/-- Where an outstanding load writes (R244, R166, R247). -/
inductive LoadDst where
  | vec (d : BitVec 8) (sz : LdSz)
  | sca (d : BitVec 5) (sz : SldSz)
  | old (d : BitVec 8) (w64 : Bool)
deriving DecidableEq, Repr

/-- One lane's outstanding load (R331, R334): the load's PC, the bytes once they are read, the pod-window
request that fetches them, and the bytes that the region store buffer held for it (R235). -/
structure OutLoad where
  id : Nat
  lane : Nat
  pc : DWord
  sp : Bool
  addr : DWord
  n : Nat
  dst : LoadDst
  rgn : Bool
  val : Option (List Byte)
  remote : Option Nat
  held : List (Option Byte)
deriving DecidableEq, Repr

/-- A set of registers read or written, by class (R328). -/
structure RegSet where
  v : BitVec 256
  s : BitVec 24
  p : BitVec 64
deriving DecidableEq, Repr

/-- The empty register set. -/
def RegSet.empty : RegSet := ⟨0, 0, 0⟩

/-- The region state record and RCTL (R329, R330). NST and NCMD are the lengths of the buffers. -/
structure Region where
  image : List Entry
  ck : List (Nat × DWord)
  ckm : BitVec 4
  rf : RegSet
  wr : RegSet
  rgnoff : Word
  reent : BitVec 8
  hflags : BitVec 5
  iss : Bool
  inrgn : Bool
deriving DecidableEq, Repr

/-- The warp status word's fields but CKMODE and FLAGS (R351); HMODE is that the trap frame is in
use. -/
structure Status where
  npeleft : BitVec 17
  halt : Bool
  hold : Bool
  pdbg : Bool
  ppre : Bool
  npe : Bool
deriving DecidableEq, Repr

/-- A commit that has performed the held stores and not yet its last step (R261, R325): a commit point that
still releases commands or waits for its own effect, or the commit of lanes released from a parking commit
point, with the RGNOFF of the region that follows. -/
inductive Pending where
  | point (i : Instr)
  | lanes (off : Word)
deriving DecidableEq, Repr

/-- A warp (R116 to R137, R351 to R353). `pendCommit` is set while a commit is under way (R325). `hasEnded`
says that the warp has ended (R116). -/
structure Warp where
  num : Nat
  slot : Nat
  frontier : List Entry
  exited : Mask
  v : List (Nat × Word)
  s : List (Nat × DWord)
  p : List (Nat × Mask)
  ck : List (Nat × DWord)
  ckmode : BitVec 4
  flags : BitVec 5
  tokens : List (Nat × BitVec 6)
  cs : List CallEntry
  csM : Nat
  rgn : Region
  stores : List (List StoreLane)
  cmds : List Cmd
  st : Status
  frame : Option Frame
  utraps : List Trap
  straps : List Trap
  waits : List Wait
  loads : List OutLoad
  consumed : List Nat
  poison : List Nat
  sPoison : List Nat
  pPoison : List Nat
  acks : Nat
  parkedAt : Nat
  hasEnded : Bool
  pendCommit : Option Pending
deriving DecidableEq, Repr

/-- A barrier counter (R88) with the target count and scope that the first arrival of the generation
carried (R300, R302), the scope at which the block's arrival waits in its network (R301), how many generations
the network completed while the block was away, and whether it broke one (R302, R323). -/
structure BarCtr where
  gen : Word
  arrived : Nat
  first : Option (Nat × Scope)
  passed : Option Scope
  done : Nat
  broken : Bool
deriving DecidableEq, Repr

/-- The states of a tile (R253). -/
inductive TileState where
  | empty | filling | ready | draining
deriving DecidableEq, Repr

/-- A tile table entry (R253). -/
structure Tile where
  fmt : BitVec 8
  pend : Nat
  cfg : Bool
  fault : Bool
  st : TileState
  rowbytes : Nat
  rows : Nat
  base : Nat
deriving DecidableEq, Repr

/-- A block's interrupt binding (R313). -/
structure Binding where
  vecs : BitVec 64
  warp : Nat
  valid : Bool
deriving DecidableEq, Repr

/-- A chain walk in progress (R273): the engine queue's command or a host's channel or packet; `last` is the
record done last. -/
structure Chain where
  tag : Word
  addr : DWord
  count : Nat
  last : DWord
deriving DecidableEq, Repr

/-- The collective that heads a block's `q4` once it has started (R222): the GGEN recorded at the start, the own
buffer where it came from the pod window, and the result on its way there. -/
structure Coll where
  gen : Nat
  got : Option (List Byte)
  out : Bool
  bad : Option (BitVec 8)
deriving DecidableEq, Repr

/-- Where a block is (R349, R350). -/
inductive Res where
  | resident
  | swapped
  | parkedRemote
deriving DecidableEq, Repr

/-- A block (R87 and the chapters it names). Its key is the physical address of its header in bonded
DRAM, which is its context area (R89). -/
structure Block where
  key : Nat
  grid : Nat
  bx : Word
  by_ : Word
  bz : Word
  rank : Nat
  lin : Nat
  quartet : Nat
  member : Nat
  spawned : Bool
  parent : Nat
  det : Bool
  brken : Bool
  res : Res
  die : Nat
  quad : Nat
  core : Nat
  spadOff : Nat
  valid : Bool
  layout : Nat
  stop : Option (Nat × Nat)
  ended : Bool
  begun : Bool
  warps : List Warp
  bars : List (Nat × BarCtr)
  tiles : List (Nat × Tile)
  gang : Mask
  rsv : Bool
  mxSaved : Bool
  ib : Binding
  spad : Memory
  spadPoison : List Nat
  queues : List (Nat × List (List DWord))
  xfers : List Xfer
  chain : Option Chain
  results : List (Nat × List DWord)
  coll : Option Coll
  dead : List Word
deriving DecidableEq, Repr

/-- One line of an instruction cache (R92). -/
structure ILine where
  ctx : Nat
  va : Nat
  bytes : List Byte
deriving DecidableEq, Repr

/-- A member's arrival at the rendezvous latch: its warp and where it stands (R281). -/
structure Arrival where
  warp : Nat
  pc : DWord
  handler : Bool
deriving DecidableEq, Repr

/-- The record at the rendezvous latch (R281). -/
structure Latch where
  instr : Instr
  scalars : List DWord
  arrived : List Arrival
  off : Word
deriving DecidableEq, Repr

/-- A released matrix instruction (R281, R284, R285): the leader, each member's lanes at the release,
the tile entry it was checked against, and the leader's vector registers that it reads, lane by
lane. -/
structure MOp where
  instr : Instr
  scalars : List DWord
  leader : Nat
  members : List (Nat × Mask)
  off : Word
  tile : Option Tile
  data : List (List Word)
deriving DecidableEq, Repr

/-- A core's matrix engine (R275, R277, R281, R292). An element of a plane is held as its image
word (R296): M in [29:16], S in bit 8, E in [7:0]; a format is coded 0 to 3 (R293). -/
structure Engine where
  holder : Option Nat
  plane0 : List (Nat × Word)
  plane1 : List (Nat × Word)
  fmt0 : Nat
  fmt1 : Nat
  act : Bool
  acc : List (Nat × Word)
  latch : Option Latch
  ops : List MOp
  accPoison : List Nat
  planePoison : List Nat
deriving DecidableEq, Repr

/-- A core (R1, R82, R83, R92, R126, R341, R350); die × 192 + quad × 4 + core is its number. `shadow` lists the
blocks whose images its shadow context store holds, with their sizes, oldest first. -/
structure Core where
  icache : List ILine
  mx : Engine
  split : Nat
  swsel : Nat
  shadow : List (Nat × Nat)
deriving DecidableEq, Repr

/-- An entry-table record (R9). -/
structure KEntry where
  code : Word
  prio : BitVec 8
  launchable : Bool
  spawnable : Bool
  rsv : Bool
deriving DecidableEq, Repr

/-- A tensor layout record (R13). -/
structure Tlr where
  base : Nat
  dims : List Nat
  strides : List Nat
  fmt : Nat
  ndim : Nat
  trows : Nat
  tcols : Nat
  clamp : Nat
  scale : Nat
  scl : Nat
  xs : Nat
deriving DecidableEq, Repr

/-- The kernel descriptor (R10). -/
structure Desc where
  vregs : Nat
  sregs : Nat
  pregs : Nat
  warps : Nat
  bars : Nat
  spad : Nat
  cstack : Nat
  trapent : Word
  rlimit : Nat
  det : Bool
  quota : Nat
  tlrcnt : Nat
  tlroff : Nat
deriving DecidableEq, Repr

/-- What acceptance reads of a kernel image (R8, R17). -/
structure Image where
  addr : DWord
  codeOff : Nat
  codeLen : Nat
  check : DWord
  entOff : Nat
  descOff : Nat
  entries : List KEntry
  desc : Desc
  tlrs : List Tlr
deriving DecidableEq, Repr

/-- How a grid or command ended (R34): STATUS, class, unit and address. -/
structure Ending where
  status : BitVec 8
  cls : BitVec 8
  unit : BitVec 16
  addr : DWord
deriving DecidableEq, Repr

/-- Who gets a grid's completion (R34, R320): a command of a queue, a psub record, or nobody. -/
inductive Owner where
  | cmd (q : Nat) (idx : DWord) (seq : Word) (irq : Bool)
  | psub (addr : DWord) (seq : Word)
  | nobody
deriving DecidableEq, Repr

/-- A grid that this package runs (R17, R19, R64, R79); `podArrived` holds the barrier arrivals of
other ranks by slot and rank, `podSent` the slots whose own arrival has been sent (R301). `nextQuartet` is
the lowest quartet not placed, `ahead` the later ones that are (R81). `park` is the park list of a rank that
a STOP row has parked here (R65). A package that holds two ranks of a pod grid has a record of each, whose
identifiers agree modulo 2^32 (log entry 59: DESIGN CHOICE). -/
structure Grid where
  id : Nat
  pod : Bool
  ctx : Nat
  queue : Option Nat
  owner : Owner
  img : Image
  entry : Nat
  args : DWord
  argPhys : Nat
  argLen : Nat
  gx : Nat
  gy : Nat
  gz : Nat
  rank : Nat
  nrank : Nat
  parcels : BitVec 8
  nextQuartet : Nat
  ahead : List Nat
  takeover : DWord
  offered : Bool
  stopped : Bool
  ending : Option Ending
  complete : Bool
  podArrived : List (Nat × Nat)
  podSent : List Nat
  park : Nat
deriving DecidableEq, Repr

/-- A command consumed and not yet completed (R25, R34). -/
structure Flight where
  idx : DWord
  seq : Word
  irq : Bool
  grid : Option Nat
deriving DecidableEq, Repr

/-- A command that holds its queue (R25, R408): a WAIT with its word and time, a BARRIER with the
commands it names, or a SIGNAL or BRANCH whose word lies in another package. -/
inductive Holding where
  | wait (addr value : DWord) (cond : WCond) (time : Word)
  | barrier (qs : List (Nat × DWord))
  | signal (addr : DWord) (ui : Option (BitVec 6 × DWord))
  | branch (addr : DWord) (cases : List (WCond × Word × DWord)) (dflt : Word)
deriving DecidableEq, Repr

/-- A completion entry whose write faulted (R36, CQ_FAULT), or that awaits a host page (R218). -/
structure KeptCqe where
  idx : DWord
  bytes : List Byte
  irq : Bool
deriving DecidableEq, Repr

/-- A copy command in progress (R273): the chain address left to walk, or one transfer. -/
structure CopyJob where
  idx : DWord
  seq : Word
  irq : Bool
  chain : Bool
  src : DWord
  dst : DWord
  len : Nat
deriving DecidableEq, Repr

/-- A user queue (R29 to R40). State codes are those of R29. -/
structure Queue where
  key : Nat
  ctx : Nat
  fn : Nat
  index : Nat
  header : DWord
  home : Nat
  qnum : Nat
  msixv : Nat
  ringBase : DWord
  cqBase : DWord
  prio : Nat
  ringLog2 : Nat
  cqLog2 : Nat
  state : Nat
  slot : Option Nat
  head : DWord
  cmdidx : DWord
  cqdone : DWord
  tail : DWord
  wakelatch : DWord
  uilatch : Bool
  saveptr : DWord
  stopclass : BitVec 8
  sliceExpired : Bool
  toStopped : Bool
  unmapStep : Nat
  swapped : List Nat
  flights : List Flight
  holding : Option (Flight × Holding)
  copies : List CopyJob
  skipTo : Option Word
  kept : List KeptCqe
  saveKept : Bool
  cqPend : List KeptCqe
  abortDue : Bool
  rangeLatched : Option DWord
deriving DecidableEq, Repr

/-- One 32-byte error log record's varying fields (R368); TIME is a free value. -/
structure LogRec where
  kind : Nat
  cls : BitVec 8
  unit : BitVec 16
  addr : DWord
  ctx : Nat
  count : Nat
deriving DecidableEq, Repr

/-- An error log (R384): its ring once placed, the count written, and the held records. -/
structure ErrLog where
  ring : Option (Nat × Nat)
  count : Nat
  held : List LogRec
deriving DecidableEq, Repr

/-- A context (R89, R211, R306, R343, R382). -/
structure Ctx where
  num : Nat
  fn : Nat
  c : Nat
  rootTier : BitVec 2
  rootOff : Nat
  poolOff : Nat
  poolSize : Nat
  allocs : List (Nat × Nat)
  pctx : Option (BitVec 16)
  iblk : Option DWord
  brken : Bool
  halt : Bool
  log : ErrLog
deriving DecidableEq, Repr

/-- A copy channel (R385); `run` is CHCTX as it stood when the chain started. -/
structure Channel where
  ctx : DWord
  run : DWord
  busy : Bool
  addr : DWord
  status : BitVec 8
  cause : BitVec 8
  done : Word
  last : DWord
deriving DecidableEq, Repr

/-- What a function's mailbox waits for before it answers (R382, R383): the processing of an event that
this package raised, of JOIN ADMIT or ABANDON, a shootdown, or a host page. -/
inductive MbAwait where
  | rule (rec : EvRec)
  | unblock (grid : Nat)
  | join
  | shoot (id : Nat)
  | page (key : Nat)
deriving DecidableEq, Repr

/-- A PCIe function (R379 to R387). `ends` names the pod grids whose ends a reset of the function has ordered
(R387). -/
structure Func where
  num : Nat
  mbreq : List (Nat × DWord)
  mbrsp : List (Nat × DWord)
  busy : Bool
  await : Option MbAwait
  apctl : DWord
  apbase : DWord
  chans : List (Nat × Channel)
  msixTable : List (Nat × DWord)
  msixPend : List Nat
  share : BitVec 8
  maxprio : Nat
  errCount : Nat
  ends : List Nat
deriving DecidableEq, Repr

/-- What a ready queue found when it looked for a slot and none was free: its priority then, and the victim, none
where no rule yielded one (R38). -/
structure Seek where
  queue : Nat
  prio : Nat
  victim : Option Nat
deriving DecidableEq, Repr

/-- A die's limits and clock (R37, R38, R347, R356, R398). `lastVictim` and `lastNew` are the slots of the
last victim and of the last new-block request forwarded (R38). -/
structure Die where
  slice : Nat
  drain : Nat
  stop : Nat
  testdl : Nat
  clock : Nat
  lastVictim : Nat
  lastNew : Nat
  ready : List Nat
  seeks : List Seek
deriving DecidableEq, Repr

/-- A physical quad of a die (R76, R276, R356, R370): the logical number it carries, and its test
state; `passed` says that a spare has passed its test. Only quads that differ from their reset state are
listed. -/
structure Quad where
  logical : Option Nat
  passed : Bool
  retired : Bool
  testing : Bool
  due : Bool
  deferrals : Nat
  rowsOff : List (Nat × Nat)
deriving DecidableEq, Repr

/-- A vote (R66). -/
structure Vote where
  voter : Nat
  suspect : BitVec 256
deriving DecidableEq, Repr

/-- A batch held for the open station (R47). -/
structure Batch where
  sender : Nat
  recs : List EvRec
deriving DecidableEq, Repr

/-- What this package is in the pod (R46, R70, R383). -/
inductive PodRole where
  | none
  | member
  | fenced
  | replaying
deriving DecidableEq, Repr

/-- The traverse of this package (R46 to R49, R66, R67, R70). -/
structure Traverse where
  role : PodRole
  sent : Bool
  batches : List Batch
  later : List (BitVec 64 × Batch)
  closed : List Batch
  pend : List EvRec
  votes : List Vote
  laterVotes : List (BitVec 64 × Vote)
  suspects : List Nat
  matched : Bool
  sponsor : Option Nat
  joins : List Nat
deriving DecidableEq, Repr

/-- The kinds of enactment row (R63). -/
inductive RowKind where
  | start | stop | resume | finish | takeover | notice
deriving DecidableEq, Repr

/-- An enactment row (R63) with the loss it stems from (R373, R374). -/
structure Row where
  station : DWord
  kind : RowKind
  rank : Nat
  mask : BitVec 8
  pkg : Nat
  grid : Nat
  lost : Nat
  spare : Nat
deriving DecidableEq, Repr

/-- A RESUME that reads park images from another package (R65): the grid's record, the package and its park list, the
areas still to read, the own areas already filled, the stopped-transfer list that is being read, and the words of the
traps that parked lanes. -/
structure Parked where
  grid : Nat
  pkg : Nat
  list : Nat
  areas : List Nat
  got : List Nat
  xfers : Option Nat
  traps : List Nat
deriving DecidableEq, Repr

/-- A pod command this package submitted and has not yet completed (R65, R320). -/
structure PodCmd where
  handle : Nat
  ctx : Nat
  owner : Owner
  grid : Option Nat
  station : DWord
  record : Nat
deriving DecidableEq, Repr

/-- A `psub` whose packet or image waits for a host page (R218, R320): its context, packet and record. -/
structure PSub where
  ctx : Nat
  pkt : DWord
  record : DWord
deriving DecidableEq, Repr

/-- An accepted image in an acceptance cache (R42): context and image. -/
structure Cached where
  ctx : Nat
  img : Image
deriving DecidableEq, Repr

/-- What a fabric request of this package is for (R236, R237). -/
inductive ROwner where
  | load (b w l id : Nat)
  | store (b w : Nat) (va : DWord)
  | waitv (b w l : Nat)
  | xfer (b x : Nat)
  | send (b : Nat) (tag : Word)
  | note (ctx : Nat)
  | row (g : Nat)
  | packet (q : Nat) (idx : DWord)
  | coll (b : Nat)
deriving DecidableEq, Repr

/-- A fabric request sent and not acknowledged; `grid` is the grid that a write or an atomic belongs to
(R34). -/
structure ROut where
  req : RReq
  owner : ROwner
  grid : Option Nat
deriving DecidableEq, Repr

/-- A shootdown in progress (R216): the context, the range, and the function whose mailbox waits. -/
structure Shootdown where
  id : Nat
  ctx : Nat
  addr : DWord
  len : Nat
  fn : Option Nat
deriving DecidableEq, Repr

/-- The update states of R388. -/
inductive FwState where
  | idle | staging | verified | verifyFail | deferred | switching | probation | active | rolledBack
deriving DecidableEq, Repr

/-- A firmware image's manifest values (R388). -/
structure FwImage where
  id : DWord
  secver : Word
  accepts : List Nat
  writes : Nat
  digest : BitVec 512
deriving DecidableEq, Repr

/-- The firmware banks and the update (R388 to R394). While a switch goes on, `held` names the functions whose reset
waits, `port` the wakes, sends and requests that the hardware holds, and `records` the completion records of `psub` that
wait (R390, R393). -/
structure Firmware where
  state : FwState
  bank : Bool
  image0 : FwImage
  image1 : FwImage
  proven0 : Bool
  proven1 : Bool
  minSecver : Word
  prior : DWord
  station : DWord
  record : Option Nat
  held : List Nat
  port : List Instr
  records : List (Nat × DWord × List Byte)
  onlyMailbox : Bool
deriving DecidableEq, Repr

/-- A monitor (R396). -/
structure Monitor where
  source : Nat
  en : Bool
  min : Word
  max : Word
  cnt : DWord
  edges : List (Nat × Word)
  bins : List (Nat × Word)
deriving DecidableEq, Repr

/-- A Zenpeug link (R371): the spare lanes left in each direction, whether it runs at half width there, and how
often the flit under way has been retransmitted without success. -/
structure Link where
  sparesOut : Nat
  sparesIn : Nat
  halfOut : Bool
  halfIn : Bool
  down : Bool
  retries : Nat
deriving DecidableEq, Repr

/-- The answers of the SPDM responder (R395); `body` holds what the manual does not give of them. -/
inductive SpdmReply where
  | version (body : List Byte)
  | capabilities (body : List Byte)
  | algorithms (body : List Byte)
  | digests (body : List Byte)
  | certificate (body : List Byte)
  | challengeAuth (body : List Byte)
  | measurements (register : Nat) (value : BitVec 512)
  | unsupportedRequest
deriving DecidableEq, Repr

/-- What this package has handed to the fabric or to the host, beyond its pod-window requests: the
answer to a request, a batch, a vote, a forwarded batch, a snapshot, a request to a sponsor, a
rank's arrival at a pod barrier, the completion of a host's read, an unsupported request, the completion of an ATS invalidation (R47,
R66, R70, R218, R236, R301, R380). -/
inductive Msg where
  | answer (dst id : Nat) (r : RResp)
  | batch (station : DWord) (recs : List EvRec)
  | forward (dst : Nat) (station : DWord) (sender : Nat) (recs : List EvRec)
  | vote (station : DWord) (suspect : BitVec 256)
  | snapshot (dst : Nat) (station : DWord) (plat : List (Nat × DWord))
  | join (dst : Nat) (ask : JoinAsk)
  | arrive (grid slot rank : Nat)
  | hostData (fn : Nat) (bytes : List Byte)
  | unsupported (fn : Nat)
  | atsDone (page : Nat)
deriving DecidableEq, Repr

/-- A page request sent to the host and not answered (R218), for a context whose PASID it carries (R378); whether an
engine, a packet core or another package waits for it. -/
structure PriReq where
  page : Nat
  ctx : Nat
  agent : Bool
deriving DecidableEq, Repr

end Sys2Proof.Machine
end

