-- ==== Sys2Proof/Machine/State.lean ====
section
/-! DEFINITION. The state of one YQ-9 package: everything the manual gives it, with the model's own
bookkeeping at the end (log entry 2: DESIGN CHOICE), and the state right after reset. -/

namespace Sys2Proof.Machine

/-- The whole state of a package, plain data. -/
structure State where
  /-- Bonded DRAM, by physical address (R205, R212). -/
  dram : Memory
  /-- LPDDR6, by physical address (R205, R212). -/
  lpddr : Memory
  /-- Host memory, by the host's own physical address (R205, R218). -/
  hostMem : Memory
  /-- Poisoned 8-byte granules (R363), by tier code of R212 (0 DRAM, 1 LPDDR6, 2 host) and granule. -/
  poison : List (Nat × Nat)
  /-- Contexts (R211, R382). -/
  ctxs : List Ctx
  /-- PCIe functions (R379). -/
  funcs : List Func
  /-- User queues (R29). -/
  queues : List Queue
  /-- Grids running on this package (R17, R64). -/
  grids : List Grid
  /-- Blocks with their warps (R87). -/
  blocks : List Block
  /-- Cores that differ from their reset state, by number (R1). -/
  cores : List (Nat × Core)
  /-- The dies (R37, R347, R398). -/
  dies : List (Nat × Die)
  /-- Physical quads that differ from their reset state, by die × 50 + quad (R76, R370). -/
  quads : List (Nat × Quad)
  /-- This package's number in the pod (R46, R383). -/
  pkg : Nat
  /-- plat: words that differ from their reset value, by word index (R52 to R58). -/
  plat : List (Nat × DWord)
  /-- The traverse (R46 to R50, R66, R70). -/
  trav : Traverse
  /-- Enactment rows not yet enacted, oldest first (R63, R64). -/
  rows : List Row
  /-- Pod commands submitted and not completed, with their launch record handles (R65). -/
  podCmds : List PodCmd
  /-- `psub` submissions that wait for a host page (R218, R320). -/
  psubs : List PSub
  /-- Launch records that this package read and keeps until the grid ends, by grid id (R373). -/
  launches : List (Nat × List Byte)
  /-- Park images being read from other packages (R65). -/
  parked : List Parked
  /-- Acceptance caches of the four packet cores, most recent first (R42). -/
  acache : List (Nat × List Cached)
  /-- Shootdowns in progress (R216). -/
  shoots : List Shootdown
  /-- Host page translations held: context and virtual page to host page (R218). -/
  ats : List (Nat × Nat)
  /-- Page requests sent and not answered (R218). -/
  priReqs : List PriReq
  /-- Host pages whose request failed and whose waiting engine or packet core has not reported it
  (R213, R218). -/
  priFailed : List Nat
  /-- Messages handed to the fabric, oldest first (R47, R66, R70, R236). -/
  outbox : List Msg
  /-- Pod-window requests sent and not acknowledged (R236). -/
  fabricOut : List ROut
  /-- Pod-window requests of other packages that wait for a host page (R218, R236). -/
  heldRemote : List RReq
  /-- Vectors raised to the host, oldest first: function and vector (R34, R379). -/
  msix : List (Nat × Nat)
  /-- The package's error log (R368, R384). -/
  plog : ErrLog
  /-- Firmware banks and update (R388). -/
  fw : Firmware
  /-- Measurement registers (R395). -/
  mr : List (Nat × BitVec 512)
  /-- What the SPDM responder has answered, oldest first (R395). -/
  spdm : List SpdmReply
  /-- Monitors that differ from their reset state (R396). -/
  mons : List (Nat × Monitor)
  /-- Zenpeug links that differ from their reset state (R371). -/
  links : List (Nat × Link)
  /-- The package is powered off (R393, R398). -/
  off : Bool
  /-- Words of a frontier image written through SFRONT and not yet taken, by core and word number (R341). -/
  svec : List ((Nat × Nat) × DWord)
  /-- Model's own: inputs not yet taken, oldest first (log entry 2: DESIGN CHOICE). -/
  agenda : List Instr
  /-- Model's own: the warp that the instruction under execution belongs to: block key, index. -/
  cur : Nat × Nat
  /-- The slot that each issue partition served last, by core × 4 + partition, counted from 1 (R126). -/
  turns : List (Nat × Nat)
  /-- Model's own: the issue partition served last, counted from 1. -/
  part : Nat
  /-- Model's own: whether the engines go before the warps in the next step. -/
  engineTurn : Bool
  /-- Model's own: where among the package's own work the next step looks first. -/
  rotor : Nat
  /-- Model's own: counter of free values (log entry 4: DESIGN CHOICE). -/
  free : Nat
  /-- Model's own: next unused identifier of a transfer, load, request, shootdown or grid. -/
  fresh : Nat
  /-- Model's own: loads land in a later step (R331) instead of at issue. -/
  slowLoads : Bool
deriving DecidableEq, Repr

/-- Why the machine stops. -/
inductive Fault where
  /-- Raised by `step` when no warp can issue, no engine has work and no input waits: the hardware
  waits for its host. Safe: nothing that the hardware would do is passed over. -/
  | idle
deriving DecidableEq, Repr

/-- Why an instruction has no meaning here. -/
inductive Refusal where
  /-- Raised by `exec` for an instruction without a meaning. Safe: nothing is claimed of it. -/
  | notModelled (mnemonic : String)
deriving DecidableEq, Repr

/-- A die at reset (R1, R37, R347, R356). Times in microseconds, clock in MHz. -/
def Die.reset : Die :=
  { slice := 1000, drain := 500, stop := 200, testdl := 10000, clock := 1100, lastVictim := 0, lastNew := 0,
    ready := [], seeks := [] }

/-- A matrix engine at reset (R275): unreserved, cleared. -/
def Engine.reset : Engine :=
  { holder := none, plane0 := [], plane1 := [], fmt0 := 0, fmt1 := 0, act := false, acc := [],
    latch := none, ops := [], accPoison := [], planePoison := [] }

/-- A core at reset (R83, R92, R341; log entry 3: DESIGN CHOICE). -/
def Core.reset : Core :=
  { icache := [], mx := Engine.reset, split := 0, swsel := 0, shadow := [] }

/-- A function at reset (R380, R381, R385, R386; log entry 3: DESIGN CHOICE). -/
def Func.reset (n : Nat) : Func :=
  { num := n, mbreq := [], mbrsp := [], busy := false, await := none, apctl := 0, apbase := 0, chans := [],
    msixTable := [], msixPend := [], share := 0xff, maxprio := 7, errCount := 0, ends := [] }

/-- A firmware image of the shipped bank (log entry 3: DESIGN CHOICE). -/
def FwImage.reset : FwImage := { id := 0, secver := 0, accepts := [1], writes := 1, digest := 0 }

/-- The firmware state at reset (R388; log entry 3: DESIGN CHOICE). -/
def Firmware.reset : Firmware :=
  { state := .idle, bank := false, image0 := FwImage.reset, image1 := FwImage.reset,
    proven0 := true, proven1 := false, minSecver := 0, prior := 0, station := 0,
    record := none, held := [], port := [], records := [], onlyMailbox := false }

/-- The traverse before POD_FORM or POD_JOIN (R383). -/
def Traverse.reset : Traverse :=
  { role := .none, sent := false, batches := [], later := [], closed := [], pend := [], votes := [],
    laterVotes := [], suspects := [], matched := false, sponsor := none, joins := [] }

/-- The package right after reset. -/
def State.reset : State :=
  { dram := [], lpddr := [], hostMem := [], poison := [], ctxs := [],
    funcs := (List.range 128).map Func.reset, queues := [], grids := [], blocks := [], cores := [],
    dies := [(0, Die.reset), (1, Die.reset), (2, Die.reset), (3, Die.reset)], quads := [],
    pkg := 0, plat := [], trav := Traverse.reset, rows := [], podCmds := [], psubs := [], launches := [], parked := [], acache := [],
    shoots := [], ats := [], priReqs := [], priFailed := [], outbox := [], fabricOut := [], heldRemote := [], msix := [],
    plog := { ring := none, count := 0, held := [] }, fw := Firmware.reset, mr := [],
    spdm := [], mons := [],
    links := [], off := false, svec := [], agenda := [], cur := (0, 0), turns := [], part := 0,
    engineTurn := false, rotor := 0, free := 0, fresh := 0, slowLoads := false }

end Sys2Proof.Machine
end

