-- ==== Sys2Proof/Machine/Ops.lean ====
section
/-! DEFINITION. The named operations over registers, the frontier and the trap state of a warp, and
the one operation that takes an exception (R335, R337 to R341) with the return beside it (R361). -/

namespace Sys2Proof.Machine

/-- The state after a meaning, or why it stops. -/
abbrev Out := Host.Outcome State Fault Refusal

/- ### Finding and replacing -/

/-- The block with this key. -/
def State.block? (s : State) (k : Nat) : Option Block := s.blocks.find? fun b => b.key == k
/-- The state with the block of b's key replaced by b. -/
def State.setBlock (s : State) (b : Block) : State :=
  { s with blocks := s.blocks.map fun x => if x.key = b.key then b else x }
/-- The warp with this number. -/
def Block.warp? (b : Block) (n : Nat) : Option Warp := b.warps.find? fun w => w.num == n
/-- The block with the warp of w's number replaced by w. -/
def Block.setWarp (b : Block) (w : Warp) : Block :=
  { b with warps := b.warps.map fun x => if x.num = w.num then w else x }
/-- The grid with this identifier. -/
def State.grid? (s : State) (g : Nat) : Option Grid := s.grids.find? fun x => x.id == g
/-- The state with the grid of g's identifier replaced by g. -/
def State.setGrid (s : State) (g : Grid) : State :=
  { s with grids := s.grids.map fun x => if x.id = g.id then g else x }
/-- The context with this package number. -/
def State.ctx? (s : State) (n : Nat) : Option Ctx := s.ctxs.find? fun c => c.num == n
/-- The state with the context of c's number replaced by c. -/
def State.setCtx (s : State) (c : Ctx) : State :=
  { s with ctxs := s.ctxs.map fun x => if x.num = c.num then c else x }
/-- The allocation at an address given back. -/
def Ctx.free (c : Ctx) (a : Nat) : Ctx := { c with allocs := c.allocs.filter fun p => p.1 != a }

/-- The state with an allocation of a context given back. -/
def State.poolFree (s : State) (ctx a : Nat) : State :=
  match s.ctx? ctx with
  | some c => s.setCtx (c.free a)
  | none => s
/-- The queue with this package number. -/
def State.queue? (s : State) (q : Nat) : Option Queue := s.queues.find? fun x => x.key == q
/-- The state with the queue of q's number replaced by q. -/
def State.setQueue (s : State) (q : Queue) : State :=
  { s with queues := s.queues.map fun x => if x.key = q.key then q else x }
/-- The function with this number. -/
def State.func? (s : State) (n : Nat) : Option Func := s.funcs.find? fun f => f.num == n
/-- The state with the function of f's number replaced by f. -/
def State.setFunc (s : State) (f : Func) : State :=
  { s with funcs := s.funcs.map fun x => if x.num = f.num then f else x }
/-- A core's state. -/
def State.core (s : State) (n : Nat) : Core := smGet Core.reset s.cores n
/-- The state with a core's state written. -/
def State.setCore (s : State) (n : Nat) (c : Core) : State :=
  { s with cores := smSet Core.reset s.cores n c }
/-- A die's state. -/
def State.die (s : State) (n : Nat) : Die := smGet Die.reset s.dies n
/-- The state with a die's state written. -/
def State.setDie (s : State) (n : Nat) (d : Die) : State :=
  { s with dies := smSet Die.reset s.dies n d }
/-- The number of the core where a block is (R1). -/
def Block.coreNum (b : Block) : Nat := b.die * 192 + b.quad * 4 + b.core
/-- The grid number that the pod gives a grid; a second record of the grid on this package bears it too (R64; log
entry 59: DESIGN CHOICE). -/
def Grid.pid (g : Grid) : Nat := g.id % 2 ^ 32
/-- The code base (R117). -/
def Grid.cb (g : Grid) : DWord := g.img.addr + BitVec.ofNat 64 g.img.codeOff
/-- The first address after the code (R117). -/
def Grid.codeEnd (g : Grid) : DWord := g.cb + BitVec.ofNat 64 g.img.codeLen
/-- RLIMIT, 15 when the descriptor holds 0 (R10, R362). -/
def Desc.limit (d : Desc) : Nat := if d.rlimit = 0 then 15 else d.rlimit

/- ### Registers (R136) -/

/-- The key of vector register n in lane l. -/
def vkey (n l : Nat) : Nat := 32 * n + l
/-- Vector register n in lane l. -/
def Warp.vget (w : Warp) (n l : Nat) : Word := smGet 0 w.v (vkey n l)
/-- The warp with vector register n written in lane l; the write clears its poison (R363). -/
def Warp.vset (w : Warp) (n l : Nat) (x : Word) : Warp :=
  { w with v := smSet 0 w.v (vkey n l) x, poison := w.poison.erase (vkey n l) }
/-- The register pair n, n + 1 in lane l (R143). -/
def Warp.vget64 (w : Warp) (n l : Nat) : DWord := w.vget (n + 1) l ++ w.vget n l
/-- The warp with the pair n, n + 1 written in lane l (R142). -/
def Warp.vset64 (w : Warp) (n l : Nat) (x : DWord) : Warp :=
  (w.vset n l (x.extractLsb' 0 32)).vset (n + 1) l (x.extractLsb' 32 32)
/-- Scalar register n (R128). -/
def Warp.sget (w : Warp) (n : Nat) : DWord := smGet 0 w.s n
/-- The warp with scalar register n written. -/
def Warp.sset (w : Warp) (n : Nat) (x : DWord) : Warp :=
  { w with s := smSet 0 w.s n x, sPoison := w.sPoison.erase n }
/-- Predicate register n in all lanes. -/
def Warp.pget (w : Warp) (n : Nat) : Mask := smGet 0 w.p n
/-- Predicate register n in lane l. -/
def Warp.pbit (w : Warp) (n l : Nat) : Bool := (w.pget n).getLsbD l
/-- The warp with predicate register n written in the lanes of m; the write clears their poison (R363). -/
def Warp.pset (w : Warp) (n : Nat) (m x : Mask) : Warp :=
  { w with
    p := smSet 0 w.p n ((w.pget n &&& ~~~m) ||| (x &&& m))
    pPoison := w.pPoison.filter fun k => !(k / 32 == n && m.getLsbD (k % 32)) }
/-- Checksum register n (R200). -/
def Warp.ckget (w : Warp) (n : Nat) : DWord := smGet 0 w.ck n
/-- The warp with checksum register n written. -/
def Warp.ckset (w : Warp) (n : Nat) (x : DWord) : Warp := { w with ck := smSet 0 w.ck n x }
/-- Token n's count (R261). -/
def Warp.token (w : Warp) (n : Nat) : BitVec 6 := smGet 0 w.tokens n
/-- The warp with token n's count written. -/
def Warp.setToken (w : Warp) (n : Nat) (x : BitVec 6) : Warp :=
  { w with tokens := smSet 0 w.tokens n x }

/-- The mask of one lane. -/
def laneBit (l : Nat) : Mask := 1#32 <<< l
/-- The lanes for which f holds. -/
def maskOf (f : Nat → Bool) : Mask :=
  lanes.foldl (fun m l => if f l then m ||| laneBit l else m) 0
/-- The lowest lane of a mask; 0 of an empty one. -/
def lowestLane (m : Mask) : Nat := (lanes.find? fun l => m.getLsbD l).getD 0
/-- The number of lanes in a mask. -/
def countLanes (m : Mask) : Nat := (lanes.filter fun l => m.getLsbD l).length
/-- The warp after f in each lane of m, in ascending lane order (R6). -/
def Warp.eachLane (w : Warp) (m : Mask) (f : Warp → Nat → Warp) : Warp :=
  lanes.foldl (fun w l => if m.getLsbD l then f w l else w) w

/- ### The frontier (R118 to R124) -/

/-- Whether entry e wins selection over f (R119). -/
def Entry.before (e f : Entry) : Bool :=
  decide (e.prio.toNat > f.prio.toNat) || (e.prio == f.prio && decide (e.pc.toNat < f.pc.toNat))

/-- The selected entry of a frontier (R119). -/
def select : List Entry → Option Entry
  | [] => none
  | e :: t =>
    match select t with
    | none => if e.park = 0 then some e else none
    | some f => if e.park = 0 && e.before f then some e else some f

/-- The frontier with e merged into the entry of the same PC and park code, or added (R121). -/
def mergeEntry (e : Entry) : List Entry → List Entry
  | [] => [e]
  | f :: t =>
    if f.pc = e.pc && f.park = e.park then
      { f with mask := f.mask ||| e.mask, prio := if f.prio.toNat < e.prio.toNat then e.prio else f.prio }
        :: t
    else f :: mergeEntry e t

/-- The frontier with e added unless it holds no lane. -/
def addEntry (fr : List Entry) (e : Entry) : List Entry :=
  if e.mask = 0 then fr else mergeEntry e fr

/-- The frontier without the lanes of m; emptied entries go. -/
def dropLanes (fr : List Entry) (m : Mask) : List Entry :=
  (fr.map fun e => { e with mask := e.mask &&& ~~~m }).filter fun e => e.mask != 0

/-- The live lanes (R118). -/
def liveLanes (fr : List Entry) : Mask := fr.foldl (fun m e => m ||| e.mask) 0

/-- The lanes of m taken out of parked entries and made issuable where they stand (R123). -/
def unpark (fr : List Entry) (m : Mask) (code : BitVec 4) (pc : DWord → DWord) : List Entry :=
  let moving := fr.filter fun e => e.park == code && e.mask &&& m != 0
  moving.foldl
    (fun acc e => addEntry acc { e with pc := pc e.pc, mask := e.mask &&& m, park := 0 })
    ((fr.map fun e => if e.park = code then { e with mask := e.mask &&& ~~~m } else e).filter
      fun e => e.mask != 0)

/-- A warp is converged when its frontier is one issuable entry (R124). -/
def converged (fr : List Entry) : Bool :=
  match fr with
  | [e] => e.park == 0
  | _ => false

/- ### How a grid fails -/

/-- STATUS DONE (R34). -/
def stDone : BitVec 8 := 1
/-- STATUS REJECTED (R34). -/
def stRejected : BitVec 8 := 2
/-- STATUS SKIPPED (R34). -/
def stSkipped : BitVec 8 := 3
/-- STATUS FAILED (R34). -/
def stFailed : BitVec 8 := 4
/-- STATUS ABORTED (R34). -/
def stAborted : BitVec 8 := 5

/-- A grid that ends with a class, unit and address; the first such end stands (R27, R340). Its
warps issue no more. A pod grid's end is ordered: FAULT is handed to the traverse (R61, R340). -/
def State.endGrid (s : State) (gid : Nat) (e : Ending) : State :=
  match s.grid? gid with
  | none => s
  | some g =>
    match g.ending with
    | some _ => s
    | none =>
      let s := s.setGrid { g with ending := some e }
      if g.pod then
        { s with trav := { s.trav with pend := s.trav.pend ++
            [⟨5, BitVec.ofNat 8 s.pkg, 0, BitVec.ofNat 32 gid,
              0#32 ++ e.unit ++ 0#7 ++ bit (e.status == stAborted) ++ e.cls, e.addr, 0⟩] } }
      else s

/-- Whether a firmware switch holds the packet cores, the slot scheduler and the wake port (R390). -/
def State.fwHeld (s : State) : Bool := s.fw.state == .switching

/-- A wake, a send or a request held by the hardware while the firmware switches: of a queue's tails the greatest is
kept (R390). -/
def State.holdAtPort (s : State) (i : Instr) : State :=
  let port := match i with
    | .wtail q v =>
      let old (j : Instr) : Option (BitVec 64) := match j with
        | .wtail p u => if p = q then some u else none
        | _ => none
      let top := (s.fw.port.filterMap old).foldl (fun m u => if m.toNat < u.toNat then u else m) v
      (s.fw.port.filter fun j => (old j).isNone) ++ [.wtail q top]
    | j => s.fw.port ++ [j]
  { s with fw := { s.fw with port := port } }

/- ### The site of an instruction -/

/-- Where an instruction issues: the state, the block, the warp, its grid, the PC, the lanes of the
selected entry, their priority, the instruction's length, and whether handler code runs. -/
structure Site where
  s : State
  b : Block
  w : Warp
  g : Grid
  pc : DWord
  mask : Mask
  prio : BitVec 8
  len : Nat
  handler : Bool
deriving DecidableEq, Repr

/-- The elected lane of a trap (R337). -/
def Trap.elected (t : Trap) : Nat := (t.words.w0.extractLsb' 8 5).toNat

/-- Whether a pre-emption lets a warp issue: step 1 does, step 2 only an npe section (R347, R348). -/
def Block.runs (b : Block) (w : Warp) : Bool :=
  match b.stop with
  | none => true
  | some (_, step) => step == 1 || w.st.npe

/-- A warp may issue: its grid goes on, its block is resident and not stopping, and nothing holds
or halts it (R331, R343, R348). A commit begun is finished first (R344). -/
def mayIssue (b : Block) (w : Warp) (g : Grid) : Bool :=
  b.res == .resident && g.ending.isNone && !b.ended &&
    (w.pendCommit.isSome || (b.runs w && !w.st.hold && !w.st.halt && !w.st.pdbg))

/-- Where the current warp's next instruction issues (R119, R335); nowhere while the package is off. -/
def State.site (s : State) (len : Nat) : Option Site :=
  if s.off then none
  else
  match s.block? s.cur.1 with
  | none => none
  | some b =>
    match b.warp? s.cur.2, s.grid? b.grid with
    | some w, some g =>
      if mayIssue b w g then
        match w.frame with
        | some f =>
          some ⟨s, b, w, g, g.cb + (0#32 ++ f.hoff), laneBit f.trap.elected, 0, len, true⟩
        | none =>
          match select w.frontier with
          | some e => some ⟨s, b, w, g, e.pc, e.mask, e.prio, len, false⟩
          | none => none
      else none
    | _, _ => none

/-- The state with the site's warp and block written back. -/
def Site.commit (x : Site) : State := x.s.setBlock (x.b.setWarp x.w)

/-- Whether the instruction stands in a region (R324); handler code is exposed code (R336). -/
def Site.inRegion (x : Site) : Bool := x.w.rgn.inrgn && !x.handler

/-- Whether the warp counts as converged (R124, R335). -/
def Site.conv (x : Site) : Bool := x.handler || converged x.w.frontier

/-- The lanes whose guard is true (R99, R142). -/
def Site.acting (x : Site) (c : Ctl) : Mask :=
  match c.guard with
  | none => x.mask
  | some g => x.mask &&& (if g.neg then ~~~(x.w.pget g.p.toNat) else x.w.pget g.p.toNat)

/- ### Taking an exception -/

/-- The trap codes of R338. -/
inductive TrapCode where
  | illop | divscalar | spad | align | regwar | regovf | regside | reentry | check | detread
  | detcomm | copyf | gang | quota | trapi | page | eccu | preempt | debug | stack | npelim
deriving DecidableEq, Repr

/-- The number of a trap code (R338). -/
def TrapCode.num : TrapCode → BitVec 8
  | .illop => 0x01
  | .divscalar => 0x02
  | .spad => 0x03
  | .align => 0x04
  | .regwar => 0x05
  | .regovf => 0x06
  | .regside => 0x07
  | .reentry => 0x08
  | .check => 0x09
  | .detread => 0x0a
  | .detcomm => 0x0b
  | .copyf => 0x0c
  | .gang => 0x0d
  | .quota => 0x0e
  | .trapi => 0x0f
  | .page => 0x10
  | .eccu => 0x11
  | .preempt => 0x12
  | .debug => 0x13
  | .stack => 0x14
  | .npelim => 0x15

/-- The park code of a trap: 1 for the user's, 2 for the supervisor core's, 7 for DEBUG (R122,
R338, R341). -/
def TrapCode.park : TrapCode → BitVec 4
  | .illop => 2
  | .page => 2
  | .eccu => 2
  | .preempt => 2
  | .debug => 7
  | _ => 1

/-- Everything that a raised trap says: code, PAGE cause, words 1 to 3, asynchronous, transfer. -/
structure Cause where
  code : TrapCode
  sub : BitVec 8
  w1 : DWord
  w2 : DWord
  w3 : DWord
  async : Bool
  xfer : Option Nat
deriving DecidableEq, Repr

/-- A trap with one operand word. -/
def Cause.one (c : TrapCode) (w1 : DWord) : Cause := ⟨c, 0, w1, 0, 0, false, none⟩

/-- Word 0 of a trap record (R337). -/
def trapWord0 (poff : Word) (sub : BitVec 8) (inrgn async : Bool) (elane : Nat) (code : BitVec 8) :
    DWord :=
  poff ++ 0#8 ++ sub ++ 0#1 ++ bit inrgn ++ bit async ++ BitVec.ofNat 5 elane ++ code

/-- The trap of lanes m standing at pc (R337). -/
def mkTrap (cb pc : DWord) (m : Mask) (len : Nat) (inrgn : Bool) (c : Cause) : Trap :=
  { words := ⟨trapWord0 ((pc - cb).extractLsb' 0 32) c.sub inrgn c.async (lowestLane m) c.code.num,
      c.w1, c.w2, c.w3⟩, lanes := m, pc := pc, len := len, xfer := c.xfer }

/-- The warp takes its oldest pending user trap unless a handler runs or a commit is under way (R325, R335, R339): the frame takes
the record, the handler PC, the lanes and s0 to s23. Without a trap entry the warp is unchanged. -/
def Warp.takeTrap (w : Warp) (trapent : Word) : Warp :=
  match w.frame, w.utraps with
  | none, t :: rest =>
    if trapent = 0xffffffff ∨ w.pendCommit.isSome then w
    else { w with
      frame := some { trap := t, hoff := trapent, tmask := t.lanes, saved := w.s },
      utraps := rest }
  | _, _ => w

/-- Whether a user trap waits that no handler will take (R335). -/
def Warp.trapEnds (w : Warp) (trapent : Word) : Bool :=
  w.frame.isNone && !w.utraps.isEmpty && trapent == 0xffffffff

/-- The end of a grid by a user trap: USER_TRAP, the code, CB + POFF (R340). -/
def userTrapEnd (cb : DWord) (t : Trap) : Ending :=
  { status := stFailed, cls := 0x80, unit := 0#8 ++ t.words.w0.extractLsb' 0 8,
    addr := cb + (0#32 ++ t.words.w0.extractLsb' 32 32) }

/-- The state with block b's warp w written back, its next user trap taken, or its grid ended where
no handler exists (R335, R339, R340). -/
def State.putWarp (s : State) (b : Block) (w : Warp) (g : Grid) : State :=
  let w' := w.takeTrap g.img.desc.trapent
  let s' := s.setBlock (b.setWarp w')
  if w'.trapEnds g.img.desc.trapent then
    match w'.utraps with
    | t :: _ => s'.endGrid g.id (userTrapEnd g.cb t)
    | [] => s'
  else s'

/-- TAKING AN EXCEPTION: the lanes of m stand parked at pc with the trap's park code, and the trap
joins the warp's pending user or supervisor traps (R122, R335, R339, R341). -/
def Warp.raise (w : Warp) (cb pc : DWord) (prio : BitVec 8) (m : Mask) (len : Nat) (c : Cause) :
    Warp :=
  let t := mkTrap cb pc m len w.rgn.inrgn c
  let w := { w with frontier := addEntry w.frontier ⟨pc, prio, m, c.code.park⟩ }
  if c.code.park = 1 then { w with utraps := w.utraps ++ [t] }
  else { w with straps := w.straps ++ [t] }

/- ### Leaving an instruction -/

/-- Where the lanes of a part of the entry go (R120). -/
inductive Move where
  /-- To the next instruction. -/
  | next
  /-- To a target, with a new priority where one is given. -/
  | goto (pc : DWord) (prio : Option (BitVec 8))
  /-- They stay at the instruction, issuable, with a priority (a held join, R150). -/
  | stay (prio : BitVec 8)
  /-- They park at the instruction (R122). -/
  | park (code : BitVec 4)
  /-- They exit (R116). -/
  | exit
  /-- They trap (R122). -/
  | trap (c : Cause)
  /-- They fault in a load of exposed code and wait for its replay (PARK 6, R122, R217). -/
  | replay (c : Cause)
deriving DecidableEq, Repr

/-- Whether a PC lies in the code at a multiple of 4 (R117). -/
def Grid.legalPc (g : Grid) (pc : DWord) : Bool :=
  decide (pc.toNat % 4 = 0) && decide (g.cb.toNat ≤ pc.toNat) && decide (pc.toNat < g.codeEnd.toNat)

/-- w0 of an instruction, as ILLOP, REGSIDE and DETCOMM records carry it (R338). -/
def instrW0 (i : Instr) : DWord :=
  match fieldsOf i with
  | some f => 0#32 ++ f.w0
  | none => 0

/-- Call-stack upkeep after lanes of m leave (R131, R132): their bits are cleared and emptied
entries held in the core go. -/
def csClear (cs : List CallEntry) (m : Mask) : List CallEntry :=
  (cs.map fun e => { e with pend := e.pend &&& ~~~m }).filter fun e => e.pend != 0

/-- The lanes of m of the warp exit (R116, R132). -/
def Warp.exitLanes (w : Warp) (m : Mask) : Warp :=
  { w with exited := w.exited ||| m, cs := csClear w.cs m }

/-- One part of the entry moved (R120, R117, R122): lanes m of a site. `w0` is the instruction's
first word for an ILLOP of an illegal target. -/
def Warp.move (w : Warp) (g : Grid) (pc : DWord) (prio : BitVec 8) (len : Nat) (w0 : DWord)
    (m : Mask) (mv : Move) : Warp :=
  if m = 0 then w
  else
    match mv with
    | .next =>
      if g.codeEnd.toNat ≤ (pc + BitVec.ofNat 64 len).toNat then
        w.raise g.cb g.codeEnd prio m 0 (Cause.one .illop 0)
      else
        { w with frontier := addEntry w.frontier ⟨pc + BitVec.ofNat 64 len, prio, m, 0⟩ }
    | .goto t p =>
      if g.legalPc t then { w with frontier := addEntry w.frontier ⟨t, p.getD prio, m, 0⟩ }
      else w.raise g.cb pc prio m len (Cause.one .illop w0)
    | .stay p =>
      { w with frontier := addEntry w.frontier ⟨pc, p, m, 0⟩ }
    | .park code =>
      { w with frontier := addEntry w.frontier ⟨pc, prio, m, code⟩ }
    | .exit => w.exitLanes m
    | .trap c => w.raise g.cb pc prio m len c
    | .replay c =>
      { w with
        frontier := addEntry w.frontier ⟨pc, prio, m, 6⟩
        straps := w.straps ++ [mkTrap g.cb pc m len w.rgn.inrgn c] }

/-- The site with another warp. -/
def Site.withW (x : Site) (w : Warp) : Site := { x with w := w }

/-- A supervisor trap of a handler instruction: the warp is held for the supervisor core with the
handler PC unmoved (log entry 7: DEDUCED). -/
def Site.handlerStop (x : Site) (c : Cause) : State :=
  (x.withW { x.w with
    straps := x.w.straps ++ [mkTrap x.g.cb x.pc x.mask x.len false c],
    st := { x.w.st with hold := true } }).commit

/-- The handler's next step (R335, R336): the handler PC moves, a supervisor trap of a handler
instruction parks its trapped lanes anew, a user trap ends the grid. A handler that falls through the end of the
code stands there (R117). -/
def Site.leaveHandler (x : Site) (w0 : DWord) (mv : Move) : State :=
  match x.w.frame with
  | none => x.commit
  | some f =>
    let at_ (t : DWord) : Site :=
      { x with pc := t, w := { x.w with frame := some { f with hoff := (t - x.g.cb).extractLsb' 0 32 } } }
    match mv with
    | .next =>
      if x.g.codeEnd.toNat ≤ (x.pc + BitVec.ofNat 64 x.len).toNat then
        ({ at_ x.g.codeEnd with len := 0 }).handlerStop (Cause.one .illop 0)
      else (at_ (x.pc + BitVec.ofNat 64 x.len)).commit
    | .goto t _ => if x.g.legalPc t then (at_ t).commit else x.handlerStop (Cause.one .illop w0)
    | .trap c =>
      if c.code.park = 1 then
        x.commit.endGrid x.g.id
          { status := stFailed, cls := 0x82, unit := 0#8 ++ c.code.num, addr := x.pc }
      else x.handlerStop c
    | .replay c => x.handlerStop c
    | _ => x.commit

/-- The state when the instruction's lanes have moved: each part of the entry goes its way, and a
pending user trap is taken (R120, R335). -/
def Site.leave (x : Site) (w0 : DWord) (parts : List (Mask × Move)) : State :=
  if x.handler then
    match parts.find? fun p => p.1 != 0 with
    | some p => x.leaveHandler w0 p.2
    | none => x.leaveHandler w0 .next
  else
    let w := { x.w with frontier := dropLanes x.w.frontier x.mask }
    let w := parts.foldl (fun w p => w.move x.g x.pc x.prio x.len w0 p.1 p.2) w
    x.s.putWarp x.b w x.g

/-- Every lane moves to the next instruction. -/
def Site.done (x : Site) : State := x.leave 0 [(x.mask, .next)]

end Sys2Proof.Machine
end

