-- ==== Sys2Proof/Machine/Operands.lean ====
section
/-! DEFINITION. Operands: which registers an instruction reads and writes, every operand form, the
checks that come before an instruction's own (R108, R144, R186, R242, R284) and the one way in which
an instruction issues. -/

namespace Sys2Proof

/-- A register named by class and number (R98). -/
inductive RegRef where
  | v (n : Nat)
  | s (n : Nat)
  | p (n : Nat)
deriving DecidableEq, Repr

/-- A vector register, or the pair that starts there (R143). -/
def vr (w : Bool) (r : BitVec 8) : List RegRef :=
  if w then [.v r.toNat, .v (r.toNat + 1)] else [.v r.toNat]
/-- n vector registers from r. -/
def vrs (r : BitVec 8) (n : Nat) : List RegRef := (List.range n).map fun k => .v (r.toNat + k)
/-- A scalar register. -/
def sr (s : BitVec 5) : List RegRef := [.s s.toNat]
/-- n scalar registers from s. -/
def srs (s : BitVec 5) (n : Nat) : List RegRef := (List.range n).map fun k => .s (s.toNat + k)
/-- A predicate register. -/
def pr (p : BitVec 6) : List RegRef := [.p p.toNat]
/-- The registers that operand B reads. -/
def OpB.regs (w : Bool) : OpB → List RegRef
  | .reg r => vr w r
  | .sreg s => sr s
  | _ => []
/-- The registers that a scalar operand B reads. -/
def SOpB.regs : SOpB → List RegRef
  | .reg s => sr s
  | _ => []
/-- The registers that a length operand reads. -/
def LenOp.regs : LenOp → List RegRef
  | .reg s => sr s
  | _ => []
/-- The registers that a lane operand reads. -/
def LaneOp.regs : LaneOp → List RegRef
  | .reg s => sr s
  | _ => []
/-- The register that a guard reads. -/
def Ctl.regs (c : Ctl) : List RegRef :=
  match c.guard with
  | some g => pr g.p
  | _ => []
/-- The registers that an address reads (R240); a scratchpad base is one register. -/
def Addr.regs (sp : Bool) : Addr → List RegRef
  | .vec a _ => vr (!sp) a
  | .sca s b _ _ => sr s ++ vr false b
/-- A predicate that PV may name. -/
def pvRegs : Option (BitVec 6) → List RegRef
  | some p => pr p
  | none => []
/-- The number of registers of a load. -/
def LdSz.regs : LdSz → Nat
  | .b64 => 2
  | .b128 => 4
  | _ => 1
/-- The number of registers of a store. -/
def StSz.regs : StSz → Nat
  | .b64 => 2
  | .b128 => 4
  | _ => 1
/-- The registers of a vector or scalar operand. -/
def SVDst.regs (w : Bool) : SVDst → List RegRef
  | .s r => sr r
  | .v r => vr w r
/-- The register of tstat. -/
def PVDst.regs : PVDst → List RegRef
  | .p r => pr r
  | .v r => vr false r
/-- The register of vote. -/
def VoteDst.regs : VoteDst → List RegRef
  | .any p => pr p
  | .all p => pr p
  | .ballot s => sr s
  | .vballot v => vr false v
/-- The register of lnrd or lnwr in the warp; the frame copies are none of its registers. -/
def LnReg.regs : LnReg → List RegRef
  | .v r w => vr w r
  | .p r => pr r
  | .f _ => []

/-- Whether a register is a scalar. -/
def RegRef.isS : RegRef → Bool
  | .s _ => true
  | _ => false

/-- A register that the kernel declares (R11). -/
def RegRef.declared (d : Machine.Desc) : RegRef → Bool
  | .v n => decide (n < d.vregs)
  | .s n => decide (n < d.sregs)
  | .p n => decide (n < d.pregs)

end Sys2Proof

namespace Sys2Proof.Machine

/-- The registers an instruction reads and those it writes (R142 to R169, R186 to R203, R240 to
R270, R283, R303, R315, R357). -/
def instrRegs : Instr → List RegRef × List RegRef
  | .bra c _ _ => (Ctl.regs c, [])
  | .call c _ _ => (Ctl.regs c, [])
  | .jmp c a _ => (Ctl.regs c ++ vr false a, [])
  | .brx c a _ _ _ => (Ctl.regs c ++ vr false a, [])
  | .ret c => (Ctl.regs c, [])
  | .nop c => (Ctl.regs c, [])
  | .yield c => (Ctl.regs c, [])
  | .exit c => (Ctl.regs c, [])
  | .callx c a _ => (Ctl.regs c ++ vr false a, [])
  | .trap c _ => (Ctl.regs c, [])
  | .brk c _ => (Ctl.regs c, [])
  | .spawn c pd sa _ => (Ctl.regs c ++ sr sa, pr pd)
  | .addShort d a b => (vr false a ++ vr false b, vr false d)
  | .andShort d a b => (vr false a ++ vr false b, vr false d)
  | .shlShort d a b => (vr false a ++ vr false b, vr false d)
  | .faddShort d a b => (vr false a ++ vr false b, vr false d)
  | .addLit d a _ => (vr false a, vr false d)
  | .andLit d a _ => (vr false a, vr false d)
  | .shlLit d a _ => (vr false a, vr false d)
  | .faddLit d a _ => (vr false a, vr false d)
  | .add c d a b ty _ => (Ctl.regs c ++ vr ty.w64 a ++ OpB.regs ty.w64 b, vr ty.w64 d)
  | .sub c d a b ty _ => (Ctl.regs c ++ vr ty.w64 a ++ OpB.regs ty.w64 b, vr ty.w64 d)
  | .add3 c d a b rc ty _ => (Ctl.regs c ++ vr ty.w64 a ++ OpB.regs ty.w64 b ++ vr ty.w64 rc, vr ty.w64 d)
  | .mulLo c d a b ty => (Ctl.regs c ++ vr ty.w64 a ++ OpB.regs ty.w64 b, vr ty.w64 d)
  | .mulHi c d a b ty => (Ctl.regs c ++ vr ty.w64 a ++ OpB.regs ty.w64 b, vr ty.w64 d)
  | .min c d a b ty => (Ctl.regs c ++ vr ty.w64 a ++ OpB.regs ty.w64 b, vr ty.w64 d)
  | .max c d a b ty => (Ctl.regs c ++ vr ty.w64 a ++ OpB.regs ty.w64 b, vr ty.w64 d)
  | .mad c d a b rc ty => (Ctl.regs c ++ vr ty.w64 a ++ OpB.regs ty.w64 b ++ vr ty.w64 rc, vr ty.w64 d)
  | .madWide c d a b rc _ => (Ctl.regs c ++ vr false a ++ OpB.regs false b ++ vr true rc, vr true d)
  | .abs c d a w _ => (Ctl.regs c ++ vr w a, vr w d)
  | .neg c d a w _ => (Ctl.regs c ++ vr w a, vr w d)
  | .and c d a b w => (Ctl.regs c ++ vr w a ++ OpB.regs w b, vr w d)
  | .or c d a b w => (Ctl.regs c ++ vr w a ++ OpB.regs w b, vr w d)
  | .xor c d a b w => (Ctl.regs c ++ vr w a ++ OpB.regs w b, vr w d)
  | .not c d a w => (Ctl.regs c ++ vr w a, vr w d)
  | .tern c d a b rc _ w => (Ctl.regs c ++ vr w a ++ OpB.regs w b ++ vr w rc, vr w d)
  | .shl c d a b w => (Ctl.regs c ++ vr w a ++ OpB.regs false b, vr w d)
  | .shr c d a b w => (Ctl.regs c ++ vr w a ++ OpB.regs false b, vr w d)
  | .sar c d a b w => (Ctl.regs c ++ vr w a ++ OpB.regs false b, vr w d)
  | .bfe c d a b ty => (Ctl.regs c ++ vr ty.w64 a ++ OpB.regs false b, vr ty.w64 d)
  | .bfi c d a b rc w => (Ctl.regs c ++ vr w a ++ OpB.regs false b ++ vr w rc, vr w d)
  | .popc c d a w => (Ctl.regs c ++ vr w a, vr false d)
  | .clz c d a w => (Ctl.regs c ++ vr w a, vr false d)
  | .brev c d a w => (Ctl.regs c ++ vr w a, vr w d)
  | .sel c d a b pc w => (Ctl.regs c ++ vr w a ++ OpB.regs w b ++ pr pc, vr w d)
  | .cmp c pd a b _ ty => (Ctl.regs c ++ vr ty.w64 a ++ OpB.regs ty.w64 b, pr pd)
  | .lea c d base b _ _ => (Ctl.regs c ++ SVDst.regs true base ++ OpB.regs false b, vr true d)
  | .movShort d b => (vr false b, vr false d)
  | .movLit d _ => ([], vr false d)
  | .mov c d b w => (Ctl.regs c ++ OpB.regs w b, vr w d)
  | .movk c d _ _ w => (Ctl.regs c ++ vr w d, vr w d)
  | .cvtI c d a dt st => (Ctl.regs c ++ vr st.w64 a, vr dt.w64 d)
  | .pand c d a b _ _ => (Ctl.regs c ++ pr a ++ pr b, pr d)
  | .por c d a b _ _ => (Ctl.regs c ++ pr a ++ pr b, pr d)
  | .pxor c d a b _ _ => (Ctl.regs c ++ pr a ++ pr b, pr d)
  | .pnot c d a _ => (Ctl.regs c ++ pr a, pr d)
  | .pmov c d a _ => (Ctl.regs c ++ pr a, pr d)
  | .vote c d a _ => (Ctl.regs c ++ pr a, d.regs)
  | .pcnt c d a _ _ => (Ctl.regs c ++ pr a, vr false d)
  | .saddShort d a b => (sr a ++ sr b, sr d)
  | .saddLit d a _ => (sr a, sr d)
  | .sadd _ d a b => (sr a ++ SOpB.regs b, sr d)
  | .ssub _ d a b => (sr a ++ SOpB.regs b, sr d)
  | .smul _ d a b => (sr a ++ SOpB.regs b, sr d)
  | .sand _ d a b => (sr a ++ SOpB.regs b, sr d)
  | .sor _ d a b => (sr a ++ SOpB.regs b, sr d)
  | .sxor _ d a b => (sr a ++ SOpB.regs b, sr d)
  | .sshl _ d a b => (sr a ++ SOpB.regs b, sr d)
  | .sshr _ d a b _ => (sr a ++ SOpB.regs b, sr d)
  | .scmp _ d a b _ _ => (sr a ++ SOpB.regs b, sr d)
  | .smov _ d b => (SOpB.regs b, sr d)
  | .sld _ d a b _ => (sr a ++ SOpB.regs b, sr d)
  | .bcast c d a w => (Ctl.regs c ++ sr a, vr w d)
  | .lane _ d a b w => (vr w a ++ SOpB.regs b, sr d)
  | .sreg c d num => (Ctl.regs c, d.regs (sregW64 num))
  | .sbra _ a _ _ => (sr a, [])
  | .fadd c d a b _ _ => (Ctl.regs c ++ vr false a ++ OpB.regs false b, vr false d)
  | .fsub c d a b _ _ => (Ctl.regs c ++ vr false a ++ OpB.regs false b, vr false d)
  | .fmul c d a b _ _ => (Ctl.regs c ++ vr false a ++ OpB.regs false b, vr false d)
  | .fma c d a b rc _ _ => (Ctl.regs c ++ vr false a ++ OpB.regs false b ++ vr false rc, vr false d)
  | .fmin c d a b w _ => (Ctl.regs c ++ vr w a ++ OpB.regs w b, vr w d)
  | .fmax c d a b w _ => (Ctl.regs c ++ vr w a ++ OpB.regs w b, vr w d)
  | .fcmp c pd a b _ w _ => (Ctl.regs c ++ vr w a ++ OpB.regs w b, pr pd)
  | .frcp c d a w _ _ => (Ctl.regs c ++ vr w a, vr w d)
  | .fsqrt c d a w _ _ => (Ctl.regs c ++ vr w a, vr w d)
  | .frnd c d a w _ _ => (Ctl.regs c ++ vr w a, vr w d)
  | .frsq c d a _ _ => (Ctl.regs c ++ vr false a, vr false d)
  | .fex2 c d a _ _ => (Ctl.regs c ++ vr false a, vr false d)
  | .flg2 c d a _ _ => (Ctl.regs c ++ vr false a, vr false d)
  | .fsin c d a _ _ => (Ctl.regs c ++ vr false a, vr false d)
  | .fcos c d a _ _ => (Ctl.regs c ++ vr false a, vr false d)
  | .fcls c pd a w _ => (Ctl.regs c ++ vr w a, pr pd)
  | .fsgn c d a b w _ => (Ctl.regs c ++ vr w a ++ OpB.regs w b, vr w d)
  | .hfma2 c d a b rc _ _ _ => (Ctl.regs c ++ vr false a ++ OpB.regs false b ++ vr false rc, vr false d)
  | .hadd2 c d a b _ _ _ => (Ctl.regs c ++ vr false a ++ OpB.regs false b, vr false d)
  | .hmul2 c d a b _ _ _ => (Ctl.regs c ++ vr false a ++ OpB.regs false b, vr false d)
  | .dfma c d a b rc _ => (Ctl.regs c ++ vr true a ++ OpB.regs true b ++ vr true rc, vr true d)
  | .dadd c d a b _ => (Ctl.regs c ++ vr true a ++ OpB.regs true b, vr true d)
  | .dmul c d a b _ => (Ctl.regs c ++ vr true a ++ OpB.regs true b, vr true d)
  | .cvtF c d a dt st _ _ => (Ctl.regs c ++ vr st.w64 a, vr dt.w64 d)
  | .cvtSb c d a rc _ _ _ _ _ _ => (Ctl.regs c ++ vr false a ++ vr false rc, vr false d ++ vr false rc)
  | .cvtXsb c d a rc _ dt _ _ _ => (Ctl.regs c ++ vr false a ++ vr false rc, vr (dt == .f64) d)
  | .xlane c d a b _ w pv => (Ctl.regs c ++ vr w a ++ (match b with | .reg r => vr false r | .imm _ => []), vr w d ++ pvRegs pv)
  | .matchLanes c d a _ w => (Ctl.regs c ++ vr w a, vr false d)
  | .red c d a op => (Ctl.regs c ++ vr op.w64 a, vr op.w64 d)
  | .scan c d a op _ => (Ctl.regs c ++ vr op.w64 a, vr op.w64 d)
  | .ckacc c _ a ty _ => (Ctl.regs c ++ vr (ty == .b64) a, [])
  | .ckchk c _ _ _ => (Ctl.regs c, [])
  | .ckrd _ sd _ _ => ([], sr sd)
  | .ld c d addr sp _ sz => (Ctl.regs c ++ addr.regs sp, vrs d sz.regs)
  | .ldq c d addr _ sz => (Ctl.regs c ++ addr.regs true, vrs d sz.regs)
  | .st c d addr sp _ sz => (Ctl.regs c ++ addr.regs sp ++ vrs d sz.regs, [])
  | .atom c d a _ b rc op _ w _ sp => (Ctl.regs c ++ vr (!sp) a ++ vr w b ++ (if op = .cas then vr w rc else []), vr w d)
  | .redM c a _ b _ _ w _ sp => (Ctl.regs c ++ vr (!sp) a ++ vr w b, [])
  | .waitv c a _ b _ _ w sp => (Ctl.regs c ++ vr (!sp) a ++ vr w b, [])
  | .fence c _ _ _ _ => (Ctl.regs c, [])
  | .prf c _ addr => (Ctl.regs c ++ addr.regs false, [])
  | .flushHost c a len => (Ctl.regs c ++ sr a ++ LenOp.regs len, [])
  | .invalHost c a len => (Ctl.regs c ++ sr a ++ LenOp.regs len, [])
  | .tcfg c _ a b _ _ => (Ctl.regs c ++ sr a ++ sr b, [])
  | .tstat c d _ => (Ctl.regs c, d.regs)
  | .tfree c _ => (Ctl.regs c, [])
  | .tload c _ _ a _ _ => (Ctl.regs c ++ srs a 3, [])
  | .tstore c _ _ a _ _ => (Ctl.regs c ++ srs a 3, [])
  | .cp c d a len _ _ => (Ctl.regs c ++ sr d ++ sr a ++ LenOp.regs len, [])
  | .waitk c _ => (Ctl.regs c, [])
  | .qpush c _ a => (Ctl.regs c ++ srs a 8, [])
  | .qpop c d _ => (Ctl.regs c, srs d 8)
  | .rput c d a len _ _ => (Ctl.regs c ++ sr d ++ sr a ++ LenOp.regs len, [])
  | .rget c d a len _ _ => (Ctl.regs c ++ sr d ++ sr a ++ LenOp.regs len, [])
  | .mrsv _ pd => ([], pr pd)
  | .mgang _ a => (sr a, [])
  | .mstat _ d => ([], vr false d)
  | .mlds _ _ b _ _ => (vrs b 4, [])
  | .mstr _ _ _ b n1 _ _ _ => (vrs b ((2 * (n1.toNat + 1) - 1) / 64 + 1), [])
  | .mrd _ d _ _ _ => ([], vr false d)
  | .mwr _ _ a _ _ => (vr false a, [])
  | .mst _ _ _ b n1 _ _ _ => (vrs b ((4 * (n1.toNat + 1) - 1) / 64 + 1), vrs b ((4 * (n1.toNat + 1) - 1) / 64 + 1))
  | .mstM _ _ _ sc _ _ _ _ => (srs sc 3, [])
  | .bar _ _ _ _ pv => ([], pvRegs pv)
  | .barArr _ sd _ _ _ => ([], sr sd)
  | .barWt _ _ _ a pv => (sr a, pvRegs pv)
  | .psub c a b => (Ctl.regs c ++ sr a ++ sr b, [])
  | .pyld c pd a => (Ctl.regs c ++ sr a, pr pd)
  | .uibind _ d a _ => (sr a, sr d)
  | .uisend c a b => (Ctl.regs c ++ sr a ++ sr b, [])
  | .uimask _ d a _ => (sr a, sr d)
  | .uiret _ pd => ([], pr pd)
  | .lnrd _ sd src ln => (src.regs ++ LaneOp.regs ln, sr sd)
  | .lnwr _ dst sa ln => (sr sa ++ LaneOp.regs ln, dst.regs)
  | .tret _ _ _ _ m => ((match m with | some s => sr s | none => []), [])
  | .csrr _ d _ => ([], sr d)
  | .csrw _ _ a _ => (sr a, [])
  | _ => ([], [])

/-- The guard and wait mask of an instruction (R99, R101). -/
def instrCtl : Instr → Ctl
  | .bra c _ _ => c
  | .call c _ _ => c
  | .jmp c _ _ => c
  | .brx c _ _ _ _ => c
  | .ret c => c
  | .callx c _ _ => c
  | .nop c => c
  | .join wk _ => ⟨none, wk⟩
  | .yield c => c
  | .exit c => c
  | .trap c _ => c
  | .brk c _ => c
  | .spawn c _ _ _ => c
  | .add c _ _ _ _ _ => c
  | .sub c _ _ _ _ _ => c
  | .add3 c _ _ _ _ _ _ => c
  | .mulLo c _ _ _ _ => c
  | .mulHi c _ _ _ _ => c
  | .mad c _ _ _ _ _ => c
  | .madWide c _ _ _ _ _ => c
  | .min c _ _ _ _ => c
  | .max c _ _ _ _ => c
  | .abs c _ _ _ _ => c
  | .neg c _ _ _ _ => c
  | .and c _ _ _ _ => c
  | .or c _ _ _ _ => c
  | .xor c _ _ _ _ => c
  | .not c _ _ _ => c
  | .tern c _ _ _ _ _ _ => c
  | .shl c _ _ _ _ => c
  | .shr c _ _ _ _ => c
  | .sar c _ _ _ _ => c
  | .bfe c _ _ _ _ => c
  | .bfi c _ _ _ _ _ => c
  | .popc c _ _ _ => c
  | .clz c _ _ _ => c
  | .brev c _ _ _ => c
  | .sel c _ _ _ _ _ => c
  | .cmp c _ _ _ _ _ => c
  | .lea c _ _ _ _ _ => c
  | .mov c _ _ _ => c
  | .movk c _ _ _ _ => c
  | .cvtI c _ _ _ _ => c
  | .pand c _ _ _ _ _ => c
  | .por c _ _ _ _ _ => c
  | .pxor c _ _ _ _ _ => c
  | .pnot c _ _ _ => c
  | .pmov c _ _ _ => c
  | .vote c _ _ _ => c
  | .pcnt c _ _ _ _ => c
  | .sadd wk _ _ _ => ⟨none, wk⟩
  | .ssub wk _ _ _ => ⟨none, wk⟩
  | .smul wk _ _ _ => ⟨none, wk⟩
  | .sand wk _ _ _ => ⟨none, wk⟩
  | .sor wk _ _ _ => ⟨none, wk⟩
  | .sxor wk _ _ _ => ⟨none, wk⟩
  | .sshl wk _ _ _ => ⟨none, wk⟩
  | .sshr wk _ _ _ _ => ⟨none, wk⟩
  | .scmp wk _ _ _ _ _ => ⟨none, wk⟩
  | .smov wk _ _ => ⟨none, wk⟩
  | .sld wk _ _ _ _ => ⟨none, wk⟩
  | .bcast c _ _ _ => c
  | .lane wk _ _ _ _ => ⟨none, wk⟩
  | .sreg c _ _ => c
  | .sbra wk _ _ _ => ⟨none, wk⟩
  | .fadd c _ _ _ _ _ => c
  | .fsub c _ _ _ _ _ => c
  | .fmul c _ _ _ _ _ => c
  | .fma c _ _ _ _ _ _ => c
  | .fmin c _ _ _ _ _ => c
  | .fmax c _ _ _ _ _ => c
  | .fcmp c _ _ _ _ _ _ => c
  | .frcp c _ _ _ _ _ => c
  | .frsq c _ _ _ _ => c
  | .fsqrt c _ _ _ _ _ => c
  | .fex2 c _ _ _ _ => c
  | .flg2 c _ _ _ _ => c
  | .fsin c _ _ _ _ => c
  | .fcos c _ _ _ _ => c
  | .frnd c _ _ _ _ _ => c
  | .fcls c _ _ _ _ => c
  | .fsgn c _ _ _ _ _ => c
  | .hfma2 c _ _ _ _ _ _ _ => c
  | .hadd2 c _ _ _ _ _ _ => c
  | .hmul2 c _ _ _ _ _ _ => c
  | .dfma c _ _ _ _ _ => c
  | .dadd c _ _ _ _ => c
  | .dmul c _ _ _ _ => c
  | .cvtF c _ _ _ _ _ _ => c
  | .cvtSb c _ _ _ _ _ _ _ _ _ => c
  | .cvtXsb c _ _ _ _ _ _ _ _ => c
  | .xlane c _ _ _ _ _ _ => c
  | .matchLanes c _ _ _ _ => c
  | .red c _ _ _ => c
  | .scan c _ _ _ _ => c
  | .ckacc c _ _ _ _ => c
  | .ckchk c _ _ _ => c
  | .ckclr wk _ _ => ⟨none, wk⟩
  | .ckrd wk _ _ _ => ⟨none, wk⟩
  | .ld c _ _ _ _ _ => c
  | .ldq c _ _ _ _ => c
  | .st c _ _ _ _ _ => c
  | .atom c _ _ _ _ _ _ _ _ _ _ => c
  | .redM c _ _ _ _ _ _ _ _ => c
  | .waitv c _ _ _ _ _ _ _ => c
  | .fence c _ _ _ _ => c
  | .prf c _ _ => c
  | .flushHost c _ _ => c
  | .invalHost c _ _ => c
  | .tcfg c _ _ _ _ _ => c
  | .tstat c _ _ => c
  | .tfree c _ => c
  | .tload c _ _ _ _ _ => c
  | .tstore c _ _ _ _ _ => c
  | .cp c _ _ _ _ _ => c
  | .waitk c _ => c
  | .qpush c _ _ => c
  | .qpop c _ _ => c
  | .rput c _ _ _ _ _ => c
  | .rget c _ _ _ _ _ => c
  | .mrsv wk _ => ⟨none, wk⟩
  | .mrel wk => ⟨none, wk⟩
  | .mgang wk _ => ⟨none, wk⟩
  | .mstat wk _ => ⟨none, wk⟩
  | .mlds wk _ _ _ _ => ⟨none, wk⟩
  | .mswp wk => ⟨none, wk⟩
  | .mstr wk _ _ _ _ _ _ _ => ⟨none, wk⟩
  | .mrd wk _ _ _ _ => ⟨none, wk⟩
  | .mwr wk _ _ _ _ => ⟨none, wk⟩
  | .mst wk _ _ _ _ _ _ _ => ⟨none, wk⟩
  | .mstM wk _ _ _ _ _ _ _ => ⟨none, wk⟩
  | .mclr wk _ => ⟨none, wk⟩
  | .bar wk _ _ _ _ => ⟨none, wk⟩
  | .barArr wk _ _ _ _ => ⟨none, wk⟩
  | .barWt wk _ _ _ _ => ⟨none, wk⟩
  | .psub c _ _ => c
  | .pyld c _ _ => c
  | .uibind wk _ _ _ => ⟨none, wk⟩
  | .uisend c _ _ => c
  | .uiwait wk => ⟨none, wk⟩
  | .uimask wk _ _ _ => ⟨none, wk⟩
  | .uiret wk _ => ⟨none, wk⟩
  | .rgn wk => ⟨none, wk⟩
  | .rgnx wk => ⟨none, wk⟩
  | .npe wk => ⟨none, wk⟩
  | .pe wk => ⟨none, wk⟩
  | .lnrd wk _ _ _ => ⟨none, wk⟩
  | .lnwr wk _ _ _ => ⟨none, wk⟩
  | .tret wk _ _ _ _ => ⟨none, wk⟩
  | .csrr wk _ _ => ⟨none, wk⟩
  | .csrw wk _ _ _ => ⟨none, wk⟩
  | _ => Ctl.none

/-- Whether the instruction is a scalar-pipe one or of the interrupt group, which issue only in a
converged warp whatever registers they name (R128, R315). -/
def convGroup : Instr → Bool
  | .bcast _ _ _ _ => true
  | .sreg _ _ _ => true
  | .sbra _ _ _ _ => true
  | .smov _ _ _ => true
  | .uiwait _ => true
  | .uiret _ _ => true
  | _ => false

/-- Whether the instruction issues only in a converged warp (R128). -/
def needsConv (i : Instr) : Bool :=
  convGroup i || (instrRegs i).1.any RegRef.isS || (instrRegs i).2.any RegRef.isS

/-- The commit points of R324, `tret` and the strongly ordered access apart. -/
def isCommit : Instr → Bool
  | .rgnShort => true
  | .rgn _ => true
  | .rgnx _ => true
  | .bar _ _ _ _ _ => true
  | .barArr _ _ _ _ _ => true
  | .barWt _ _ _ _ _ => true
  | .atom _ _ _ _ _ _ _ _ _ _ _ => true
  | .redM _ _ _ _ _ _ _ _ _ => true
  | .st _ _ _ _ (.rel _) _ => true
  | .fence _ .rel _ _ _ => true
  | .fence _ .ar _ _ _ => true
  | .fence _ .sc _ _ _ => true
  | .waitk _ _ => true
  | .waitv _ _ _ _ _ _ _ _ => true
  | .uiwait _ => true
  | .callShort _ => true
  | .callLit _ => true
  | .call _ _ _ => true
  | .callx _ _ _ => true
  | .retShort => true
  | .ret _ => true
  | .flushHost _ _ _ => true
  | .invalHost _ _ _ => true
  | .exitShort => true
  | .exit _ => true
  | _ => false

/-- The matrix instructions, groups 0x38 to 0x3a (R283). -/
def isMatrix : Instr → Bool
  | .mrsv _ _ => true
  | .mrel _ => true
  | .mgang _ _ => true
  | .mstat _ _ => true
  | .mlds _ _ _ _ _ => true
  | .mswp _ => true
  | .mstr _ _ _ _ _ _ _ _ => true
  | .mrd _ _ _ _ _ => true
  | .mwr _ _ _ _ _ => true
  | .mst _ _ _ _ _ _ _ _ => true
  | .mstM _ _ _ _ _ _ _ _ => true
  | .mclr _ _ => true
  | _ => false

/-- The instructions that raise REGSIDE inside a region (R327); a strongly ordered access is found
when it translates. -/
def isSide : Instr → Bool
  | .tcfg _ _ _ _ _ _ => true
  | .tfree _ _ => true
  | .qpop _ _ _ => true
  | .spawn _ _ _ _ => true
  | .uibind _ _ _ _ => true
  | .uimask _ _ _ _ => true
  | .uiret _ _ => true
  | .psub _ _ _ => true
  | .pyld _ _ _ => true
  | .csrw _ _ _ _ => true
  | i => isMatrix i

/-- The instructions that are illegal in handler mode (R336). -/
def handlerIllegal : Instr → Bool
  | .rgnShort => true
  | .rgn _ => true
  | .rgnx _ => true
  | .npe _ => true
  | .pe _ => true
  | .exitShort => true
  | .exit _ => true
  | .callShort _ => true
  | .callLit _ => true
  | .call _ _ _ => true
  | .callx _ _ _ => true
  | .retShort => true
  | .ret _ => true
  | .spawn _ _ _ _ => true
  | .bar _ _ _ _ _ => true
  | .barArr _ _ _ _ _ => true
  | .barWt _ _ _ _ _ => true
  | .waitv _ _ _ _ _ _ _ _ => true
  | .uiwait _ => true
  | i => isMatrix i

/-- The instructions that are legal in handler mode only (R336). -/
def handlerOnly : Instr → Bool
  | .lnrd _ _ _ _ => true
  | .lnwr _ _ _ _ => true
  | .tret _ _ _ _ _ => true
  | _ => false

/-- The number that a DETREAD record carries: the `sreg` or CSR number (R168, R338, R362). -/
def detRead : Instr → Option (BitVec 16)
  | .sreg _ _ num => if 0x10 ≤ num.toNat ∧ num.toNat ≤ 0x14 then some num else none
  | .csrr _ _ csr => if csr = 2 then some csr else none
  | _ => none

/-- The instructions that raise DETCOMM in deterministic mode (R91, R304, R315, R321). -/
def detComm : Instr → Bool
  | .atom _ _ _ _ _ _ _ ann _ _ sp => !sp || annWide ann
  | .redM _ _ _ _ _ ann _ _ sp => !sp || annWide ann
  | .bar _ sc _ _ _ => sc != .core
  | .barArr _ _ sc _ _ => sc != .core
  | .barWt _ sc _ _ _ => sc != .core
  | .ldq _ _ _ _ _ => true
  | .waitv _ _ _ _ _ _ _ _ => true
  | .spawn _ _ _ _ => true
  | .uibind _ _ _ _ => true
  | .uisend _ _ _ => true
  | .uiwait _ => true
  | .uimask _ _ _ _ => true
  | .uiret _ _ => true
  | .psub _ _ _ => true
  | .pyld _ _ _ => true
  | _ => false
where
  /-- A scope wider than .core. -/
  annWide : Ann → Bool
    | .relaxed => false
    | .acq s => s != .core
    | .rel s => s != .core
    | .ar s => s != .core

/-- Whether a TLR of an mst.m has a legal format and gap (R283). -/
def mstTlrOk (t : Tlr) (gap : BitVec 4) : Bool :=
  (decide (1 ≤ t.fmt) && decide (t.fmt ≤ 3)) ||
    (decide (16 ≤ t.fmt) && decide (t.fmt ≤ 18) && gap == 0)

/-- The element size of a format code in half bytes (R14). -/
def fmtHalfBytes (f : Nat) : Nat :=
  match f with
  | 0x01 => 1
  | 0x02 => 2
  | 0x03 => 4
  | 0x10 => 4
  | 0x11 => 4
  | 0x12 => 8
  | 0x13 => 16
  | 0x20 => 2
  | 0x21 => 2
  | 0x22 => 4
  | 0x23 => 4
  | 0x24 => 8
  | 0x25 => 8
  | 0x26 => 16
  | 0x27 => 16
  | 0x28 => 8
  | 0x29 => 16
  | _ => 0

/-- Whether the TLR exists and its format suits the transposing form (R16, R255). -/
def tlrOk (g : Grid) (h : BitVec 8) (tr : Tr) : Bool :=
  match g.img.tlrs[h.toNat]? with
  | none => false
  | some t =>
    match tr with
    | .none => true
    | .tr8 => fmtHalfBytes t.fmt == 2
    | .tr16 => fmtHalfBytes t.fmt == 4

/-- The scalars of the trap frame that an instruction names (R357, R360). -/
def frameRegs : Instr → List RegRef
  | .lnrd _ _ (.f r) _ => sr r
  | .lnwr _ (.f r) _ _ => sr r
  | _ => []

/-- The encodings that are illegal in this kernel or in this mode (R11, R98, R107, R153, R255, R283, R303,
R315, R336). -/
def illegalHere (x : Site) (i : Instr) : Bool :=
  !((instrRegs i).1.all (RegRef.declared x.g.img.desc)) ||
  !((instrRegs i).2.all (RegRef.declared x.g.img.desc)) ||
  (if x.handler then handlerIllegal i else handlerOnly i) ||
  !(frameRegs i).all (RegRef.declared x.g.img.desc) ||
  (match i with
  | .spawn _ _ _ e =>
    match x.g.img.entries[e.toNat]? with
    | none => true
    | some k => !k.spawnable || k.rsv || decide (k.code.toNat % 4 ≠ 0) ||
        decide (x.g.img.codeLen ≤ k.code.toNat)
  | .tload _ _ h _ tr _ => !tlrOk x.g h tr
  | .tstore _ _ h _ tr _ => !tlrOk x.g h tr
  | .mstM _ _ h _ _ _ gap _ =>
    match x.g.img.tlrs[h.toNat]? with
    | none => true
    | some t => !mstTlrOk t gap
  | .bar _ _ slot _ _ => decide (x.g.img.desc.bars ≤ slot.toNat)
  | .barArr _ _ _ slot _ => decide (x.g.img.desc.bars ≤ slot.toNat)
  | .barWt _ _ slot _ _ => decide (x.g.img.desc.bars ≤ slot.toNat)
  | .uibind _ _ _ _ => decide (x.g.img.desc.sregs < 3)
  | .uiwait _ => decide (x.g.img.desc.sregs < 3)
  | .uiret _ _ => decide (x.g.img.desc.sregs < 3)
  | _ => false)

/- ### Region bookkeeping (R328) -/

/-- Whether a register's bit is set. -/
def RegSet.has (r : RegSet) : RegRef → Bool
  | .v n => r.v.getLsbD n
  | .s n => r.s.getLsbD n
  | .p n => r.p.getLsbD n

/-- The set with a register's bit set. -/
def RegSet.add (r : RegSet) : RegRef → RegSet
  | .v n => { r with v := r.v ||| (1#256 <<< n) }
  | .s n => { r with s := r.s ||| (1#24 <<< n) }
  | .p n => { r with p := r.p ||| (1#64 <<< n) }

/-- RF after an instruction's reads: a read of a register whose WR is clear (R328). -/
def rfAfter (rf wr : RegSet) (reads : List RegRef) : RegSet :=
  reads.foldl (fun f r => if wr.has r then f else f.add r) rf

/-- The first register written whose RF is set: REGWAR (R144, R328). -/
def warReg (rf : RegSet) (writes : List RegRef) : Option RegRef := writes.find? fun r => rf.has r

/-- Word 1 of a REGWAR record (R338). -/
def regWord : RegRef → DWord
  | .v n => BitVec.ofNat 64 n
  | .s n => BitVec.ofNat 64 (n + 0x100)
  | .p n => BitVec.ofNat 64 (n + 0x200)

/-- The region record after an instruction issues: ISS, RF and WR (R328, R330). -/
def Warp.noteIssue (w : Warp) (i : Instr) : Warp :=
  { w with rgn := { w.rgn with
      iss := true
      rf := rfAfter w.rgn.rf w.rgn.wr (instrRegs i).1
      wr := (instrRegs i).2.foldl RegSet.add w.rgn.wr } }

/- ### Consumption of poisoned registers (R365, R366) -/

/-- Word 1 of an ECCU record of a register word: lane, class and register (R367). -/
def eccuReg (cls n l : Nat) : DWord := BitVec.ofNat 64 (0xff * 2 ^ 56 + l * 2 ^ 16 + cls * 2 ^ 8 + n)

/-- The poisoned register word that lane l reads, if any (R365). -/
def poisonRead (w : Warp) (reads : List RegRef) (l : Nat) : Option DWord :=
  reads.findSome? fun r =>
    match r with
    | .v n => if w.poison.contains (vkey n l) then some (eccuReg 0 n l) else none
    | .s n => if w.sPoison.contains n then some (eccuReg 1 n l) else none
    | .p n => if w.pPoison.contains (vkey n l) then some (eccuReg 2 n l) else none

/- ### Issue -/

/-- Whether an outstanding load is to write the register (R119). -/
def loadPending (w : Warp) (r : RegRef) : Bool :=
  w.loads.any fun o =>
    match r, o.dst with
    | .v n, .vec d sz => decide (d.toNat ≤ n) && decide (n < d.toNat + sz.regs)
    | .v n, .old d w64 => decide (d.toNat ≤ n) && decide (n < d.toNat + (if w64 then 2 else 1))
    | .s n, .sca d _ => decide (d.toNat = n)
    | _, _ => false

/-- Whether the warp waits for a pod-window load: nothing of it issues before the answer, so that an acquire is
kept and a refusal is precise (R166, R237, R244, R251; log entry 14: DEDUCED). -/
def remotePending (w : Warp) : Bool := w.loads.any fun o => o.remote.isSome

/-- Whether the warp stalls before the instruction: a token it waits for, an operand not yet
ready (R101, R119), or a pod-window load. waitk tests its own condition (R264). -/
def Site.stalled (x : Site) (i : Instr) : Bool :=
  (match i with
  | .waitk _ _ => false
  | _ => (List.range 8).any fun k => (instrCtl i).waitk.getLsbD k && x.w.token k != 0) ||
  (instrRegs i).1.any (loadPending x.w) || (instrRegs i).2.any (loadPending x.w) ||
  remotePending x.w

/-- Whether the instruction is `pe`. -/
def isPe : Instr → Bool
  | .pe _ => true
  | _ => false

/-- The trap of the checks that come before an instruction's own, if one applies (R108, R144, R344,
R355): ILLOP, NPELIM, DIVSCALAR, DETREAD, DETCOMM, REGSIDE, REGWAR. -/
def Site.check (x : Site) (i : Instr) : Option Cause :=
  if illegalHere x i then some (Cause.one .illop (instrW0 i))
  else if x.w.st.npe && x.w.st.npeleft == 0 && !isPe i then some (Cause.one .npelim 0)
  else if needsConv i && !x.conv then some (Cause.one .divscalar 0)
  else if x.g.img.desc.det && (detRead i).isSome then
    some (Cause.one .detread (0#48 ++ (detRead i).getD 0))
  else if x.g.img.desc.det && detComm i then some (Cause.one .detcomm (instrW0 i))
  else if x.inRegion && isSide i then some (Cause.one .regside (instrW0 i))
  else if x.inRegion then
    (warReg (rfAfter x.w.rgn.rf x.w.rgn.wr (instrRegs i).1) (instrRegs i).2).map
      fun r => Cause.one .regwar (regWord r)
  else none

/-- An npe section counts an instruction that issues (R355). -/
def Warp.npeTick (w : Warp) : Warp :=
  if w.st.npe then { w with st := { w.st with npeleft := w.st.npeleft - 1 } } else w

/-- The site once the instruction has issued: the section counts it, the region notes it, and the
flags field is untouched (R328, R355). -/
def Site.issued (x : Site) (i : Instr) : Site :=
  x.withW (if x.inRegion then x.w.npeTick.noteIssue i else x.w.npeTick)

/-- The end of an npe section (R355). -/
def Warp.endNpe (w : Warp) : Warp := { w with st := { w.st with npe := false, npeleft := 0 } }

/-- What a trap of the checks leaves of the instruction's issue: NPELIM ends the section (R355), and an
instruction that raises REGWAR has issued, its reads noted and its writes not (R328, R330). -/
def Warp.trapIssue (w : Warp) (i : Instr) (code : TrapCode) : Warp :=
  match code with
  | .npelim => w.endNpe
  | .regwar =>
    { w.npeTick with
      rgn := { w.rgn with iss := true, rf := rfAfter w.rgn.rf w.rgn.wr (instrRegs i).1 } }
  | _ => w

/-- The whole entry traps (R120, R144). -/
def Site.trapAll (x : Site) (i : Instr) (c : Cause) : State :=
  (x.withW (x.w.trapIssue i c.code)).leave (instrW0 i) [(x.mask, .trap c)]

/- ### Operand values -/

/-- Operand B of a 32-bit operation in lane l (R100, R104, R142). -/
def Warp.opb32 (w : Warp) (b : OpB) (l : Nat) : Word :=
  match b with
  | .reg r => w.vget r.toNat l
  | .sreg s => (w.sget s.toNat).extractLsb' 0 32
  | .imm i => i.signExtend 32
  | .lit x => x.extractLsb' 0 32

/-- Operand B of a 64-bit operation in lane l (R100, R104, R142). -/
def Warp.opb64 (w : Warp) (b : OpB) (l : Nat) : DWord :=
  match b with
  | .reg r => w.vget64 r.toNat l
  | .sreg s => w.sget s.toNat
  | .imm i => i.signExtend 64
  | .lit x => x

/-- Operand B of a scalar operation (R165). -/
def Warp.sopb (w : Warp) (b : SOpB) : DWord :=
  match b with
  | .reg s => w.sget s.toNat
  | .imm i => i.signExtend 64
  | .lit x => x

/-- A length operand: IMM16 unsigned, or bits [39:0] of a scalar (R250, R263). -/
def Warp.lenOp (w : Warp) (b : LenOp) : Nat :=
  match b with
  | .imm i => i.toNat
  | .reg s => (w.sget s.toNat).toNat % 2 ^ 40

/-- An offset sign-extended to 64 bits (R240). -/
def offVal : Off → DWord
  | .imm i => i.signExtend 64
  | .lit l => l.signExtend 64

/-- A branch offset in bytes (R105). -/
def branchOff : Off → DWord
  | .imm i => i.signExtend 64 <<< 2
  | .lit l => l.signExtend 64

/-- The source lane of xlane, none where a shift leaves 0 to 31 (R198). -/
def xlaneSrc (mode : XMode) (l : Nat) (c : Word) : Option Nat :=
  match mode with
  | .get => some (c.toNat % 32)
  | .fly => some (l ^^^ (c.toNat % 32))
  | .rot => some ((l + c.toNat) % 32)
  | .sft =>
    let t := (l : Int) - c.toInt
    if 0 ≤ t ∧ t ≤ 31 then some t.toNat else none

/-- The count of xlane in lane l (R197, R198). -/
def xlaneCount (w : Warp) (b : XCount) (mode : XMode) (l : Nat) : Word :=
  match b with
  | .reg r => w.vget r.toNat l
  | .imm i => if mode = .sft then i.signExtend 32 else i.setWidth 32

/-- A lane operand (R357, R360). -/
def Warp.laneOp (w : Warp) (b : LaneOp) : Nat :=
  match b with
  | .imm l => l.toNat
  | .reg s => (w.sget s.toNat).toNat % 32

/-- The poisoned register word that an instruction consumes in lane l: its own words, and for `xlane`,
`lane` and `lnrd` the word of the lane that they read (R204, R360, R365). -/
def Site.poisonOf (x : Site) (i : Instr) (l : Nat) : Option DWord :=
  match i with
  | .xlane c _ a b mode w64 _ =>
    (poisonRead x.w (Ctl.regs c ++ (match b with
      | .reg r => vr false r
      | .imm _ => [])) l).orElse fun _ =>
      poisonRead x.w (vr w64 a) ((xlaneSrc mode l (xlaneCount x.w b mode l)).getD l)
  | .lane _ _ a b w64 =>
    (poisonRead x.w (SOpB.regs b) l).orElse fun _ =>
      poisonRead x.w (vr w64 a) ((x.w.sopb b).toNat % 32)
  | .lnrd _ _ src ln =>
    (poisonRead x.w (LaneOp.regs ln) l).orElse fun _ => poisonRead x.w (LnReg.regs src) (x.w.laneOp ln)
  | _ => poisonRead x.w (if isMatrix i then (instrRegs i).1.filter RegRef.isS else (instrRegs i).1) l

/-- The acting lanes that consume poison (R365). Of a matrix instruction the issuing warp reads the scalars alone; the
leader's vector registers are read at its release (R281). -/
def Site.poisonMask (x : Site) (i : Instr) : Mask :=
  if x.w.poison.isEmpty && x.w.sPoison.isEmpty && x.w.pPoison.isEmpty then 0
  else x.acting (instrCtl i) &&& maskOf fun l => (x.poisonOf i l).isSome

end Sys2Proof.Machine
end

