-- ==== Sys2Proof/Machine/Flags.lean ====
section
/-! DEFINITION. The sticky flags of a warp and every computation of them (R181, R182). -/

namespace Sys2Proof.Machine

/-- INV (R181). -/
def fINV : BitVec 5 := 1
/-- OVF (R181). -/
def fOVF : BitVec 5 := 2
/-- UNF (R181). -/
def fUNF : BitVec 5 := 4
/-- INX (R181). -/
def fINX : BitVec 5 := 8
/-- DZ (R181). -/
def fDZ : BitVec 5 := 16

/-- Flags raised by an instruction: into FLAGS in exposed code, held with the region inside one
(R182). -/
def Warp.raiseFlags (w : Warp) (inRegion : Bool) (f : BitVec 5) : Warp :=
  if inRegion then { w with rgn := { w.rgn with hflags := w.rgn.hflags ||| f } }
  else { w with flags := w.flags ||| f }

/-- The held flags of a region ORed into FLAGS at its commit (R182, R325). -/
def Warp.commitFlags (w : Warp) : Warp :=
  { w with flags := w.flags ||| w.rgn.hflags, rgn := { w.rgn with hflags := 0 } }

end Sys2Proof.Machine
end

