-- ==== Sys2Proof/Machine/Translate.lean ====
section
/-! DEFINITION. Address spaces and translation (R205 to R218): where the bytes of an access lie,
reading and writing them, poison (R363) and the device range (R210). -/

namespace Sys2Proof.Machine

/-- Where one byte lies: scratchpad, a memory tier (0 bonded DRAM, 1 LPDDR6, 2 host), a wake cell of
a queue, or the pod window at a virtual address. -/
inductive Loc where
  | sp (off : Nat)
  | mem (tier : Nat) (off : Nat)
  | wake (q : Nat) (off : Nat)
  | win (va : Nat)
deriving DecidableEq, Repr

/-- The kind of an access (R213). -/
inductive Access where
  | load | store | atomic | fetch
deriving DecidableEq, Repr

/-- Why a translation fails: a cause of R213 with the failing address, or a host page that ATS has
not resident (R218). -/
inductive Bad where
  | cause (code : BitVec 8) (addr : Nat)
  | pri (page : Nat) (addr : Nat)
deriving DecidableEq, Repr

/- Causes of R213. -/
/-- NOTMAPPED. -/
def cNOTMAPPED : BitVec 8 := 1
/-- PERM. -/
def cPERM : BitVec 8 := 2
/-- ORDRES. -/
def cORDRES : BitVec 8 := 3
/-- LOCRES. -/
def cLOCRES : BitVec 8 := 4
/-- TABLE. -/
def cTABLE : BitVec 8 := 5
/-- NONCANON. -/
def cNONCANON : BitVec 8 := 6
/-- WINDOW. -/
def cWINDOW : BitVec 8 := 7
/-- REMOTE. -/
def cREMOTE : BitVec 8 := 8
/-- HOSTOP. -/
def cHOSTOP : BitVec 8 := 9
/-- PRIFAIL. -/
def cPRIFAIL : BitVec 8 := 10
/-- MEMERR (R266). -/
def cMEMERR : BitVec 8 := 0x10

/-- A tier's memory. -/
def State.tier (s : State) (t : Nat) : Memory :=
  match t with
  | 0 => s.dram
  | 1 => s.lpddr
  | _ => s.hostMem

/-- The state with a tier's memory written. -/
def State.setTier (s : State) (t : Nat) (m : Memory) : State :=
  match t with
  | 0 => { s with dram := m }
  | 1 => { s with lpddr := m }
  | _ => { s with hostMem := m }

/-- A page: its kind and where it starts. -/
structure Page where
  ord : BitVec 2
  tier : Nat
  base : Nat
deriving DecidableEq, Repr

/-- The lowest cause whose condition holds (R213). -/
def lowestCause (cs : List (BitVec 8 × Bool)) : Option (BitVec 8) := (cs.find? fun p => p.2).map (·.1)

/-- Whether RD, WR and EX allow an access (R213). -/
def permits (e : DWord) (acc : Access) : Bool :=
  match acc with
  | .load => e.getLsbD 1
  | .store => e.getLsbD 2
  | .atomic => e.getLsbD 1 && e.getLsbD 2
  | .fetch => e.getLsbD 3

/-- The key of a host page in the translations that ATS has answered: context and untranslated page
(R212, R218). -/
def atsKey (ctx : Nat) (page : Nat) : Nat := ctx * 2 ^ 48 + page

/-- The 64 KiB page of va under a leaf whose page has `bits` address bits; `legal` says that a leaf may
stand at its level (R211 to R213, R218). -/
def leafPage (s : State) (ctx : Nat) (e : DWord) (va bits : Nat) (acc : Access) (legal : Bool) :
    Except Bad Page :=
  let ord := e.extractLsb' 60 2
  let loc := (e.extractLsb' 58 2).toNat
  let ppn := (e.extractLsb' 16 40).toNat * 2 ^ 16
  let within := va % 2 ^ bits / 2 ^ 16 * 2 ^ 16
  let limit := if loc = 0 then Config.dramSize else if loc = 1 then Config.lpddrSize else 2 ^ 56
  let fetchBad := acc == .fetch && (loc == 2 || ord == 1)
  match lowestCause
    [(cPERM, !permits e acc || fetchBad), (cORDRES, ord == 3),
     (cLOCRES, loc == 3 || (loc != 2 && decide (limit ≤ ppn))),
     (cTABLE, !legal || e.extractLsb' 62 2 != 0 || e.extractLsb' 56 2 != 0 || e.extractLsb' 8 8 != 0 ||
        e.extractLsb' 4 2 != 0 || (e.getLsbD 2 && !e.getLsbD 1) || decide (ppn % 2 ^ bits ≠ 0))] with
  | some c => .error (.cause c va)
  | none =>
    if loc = 2 then
      let key := atsKey ctx ((ppn + within) / 2 ^ 16)
      match s.ats.find? fun p => p.1 == key with
      | some p => .ok ⟨ord, 2, p.2 * 2 ^ 16⟩
      | none => .error (if s.priFailed.contains key then .cause cPRIFAIL va else .pri key va)
    else .ok ⟨ord, loc, ppn + within⟩

/-- The levels of a walk (R211): index position, index bits, and whether a leaf may stand here. -/
def walkLevels : List (Nat × Nat × Bool) :=
  [(48, 8, false), (39, 9, false), (30, 9, true), (21, 9, true), (16, 5, true)]

/-- The walk of R211 from a table at (tier, off) down the remaining levels. -/
def walk (s : State) (ctx va : Nat) (acc : Access) :
    List (Nat × Nat × Bool) → Nat → Nat → Except Bad Page
  | [], _, _ => .error (.cause cTABLE va)
  | (pos, n, leaf) :: rest, tier, off =>
    let limit := if tier = 0 then Config.dramSize else Config.lpddrSize
    if 2 ≤ tier then .error (.cause cTABLE va)
    else if limit ≤ off then .error (.cause cLOCRES va)
    else if off % 2 ^ (n + 3) ≠ 0 then .error (.cause cTABLE va)
    else
      let e := (s.tier tier).word64 (off + 8 * (va / 2 ^ pos % 2 ^ n))
      if !e.getLsbD 0 then .error (.cause cNOTMAPPED va)
      else if e.extractLsb' 1 3 = 0#3 then
        (let t := (e.extractLsb' 58 2).toNat
        let next := (e.extractLsb' 8 48).toNat * 2 ^ 8
        if t < 2 ∧ (if t = 0 then Config.dramSize else Config.lpddrSize) ≤ next then .error (.cause cLOCRES va)
        else if e.extractLsb' 60 4 != 0#4 || e.extractLsb' 56 2 != 0#2 || e.extractLsb' 4 4 != 0#4 then
          .error (.cause cTABLE va)
        else walk s ctx va acc rest t next)
      else leafPage s ctx e va pos acc leaf

/-- The page of a local virtual address (R211). -/
def State.page (s : State) (c : Ctx) (va : Nat) (acc : Access) : Except Bad Page :=
  walk s c.num va acc walkLevels c.rootTier.toNat c.rootOff

/- ### The device range (R210) -/

/-- First address of the device range. -/
def devBase : Nat := 0x7f0000000000
/-- First address after the device range. -/
def devEnd : Nat := 0x800000000000
/-- Whether a local address lies in the device range. -/
def inDevice (va : Nat) : Bool := decide (devBase ≤ va) && decide (va < devEnd)

/-- The bytes of an access in the device range by an LS instruction (R210). -/
def deviceLocs (s : State) (c : Ctx) (va n : Nat) (acc : Access) : Except Bad (List Loc × BitVec 2) :=
  if va + n ≤ devBase + 0x20000000 then .error (.cause cPERM va)
  else if 0x7f4000000000 ≤ va ∧ va < 0x7f4100000000 then
    (if acc = .load then
      match s.grids.find? fun g => g.ctx == c.num && decide (g.args.toNat ≤ va) &&
          decide (va + n ≤ g.args.toNat + g.argLen) with
      | some g =>
        .ok ((List.range n).map fun k => .mem 0 (g.argPhys + (va - g.args.toNat) + k), 0)
      | none => .error (.cause cNOTMAPPED va)
    else .error (.cause cPERM va))
  else if 0x7f8000000000 ≤ va ∧ va < 0x7f8000008000 then
    (match s.queues.find? fun q => q.ctx == c.num && q.index == (va - 0x7f8000000000) / 64 with
    | some q =>
      if va % 8 = 0 ∧ n = 8 ∧ (acc = .load ∨ acc = .store) then
        .ok ((List.range n).map fun k => .wake q.key (va % 64 + k), 1)
      else .error (.cause cPERM va)
    | none => .error (.cause cPERM va))
  else .error (.cause cNOTMAPPED va)

/-- First address of the wake cells (R210). -/
def wakeBase : Nat := 0x7f8000000000
/-- Whether a local address lies among the wake cells. -/
def inWake (va : Nat) : Bool := decide (wakeBase ≤ va) && decide (va < wakeBase + 0x8000)

/-- The stronger of two page kinds (R215). -/
def strongest (a b : BitVec 2) : BitVec 2 :=
  if a = 1 ∨ b = 1 then 1 else if a = 0 ∨ b = 0 then 0 else 2

/-- Whether a context may use the pod window at address va for n bytes (R209). -/
def windowOk (s : State) (c : Ctx) (npod va n : Nat) : Bool :=
  c.pctx.isSome && s.trav.role != .none && decide (va % 2 ^ 56 / 2 ^ 47 < npod) &&
    decide (va / 2 ^ 47 = (va + n - 1) / 2 ^ 47) && !inDevice (va % 2 ^ 47)

/-- What a plat word holds at forming: the empty wait list and the empty links of a grid row; every
other word is zero (R57, R71). -/
def platReset (k : Nat) : DWord :=
  if k = 3 then 0xffffffff
  else if 2344 ≤ k ∧ k < 18728 ∧ (k - 2344) % 4 = 1 then 0xffffffffffffffff
  else 0

/-- A plat word (R52). -/
def platGet (p : List (Nat × DWord)) (k : Nat) : DWord := smGet (platReset k) p k

/-- The plat with one word written. -/
def platSet (p : List (Nat × DWord)) (k : Nat) (v : DWord) : List (Nat × DWord) :=
  smSet (platReset k) p k v

/-- NPOD, the packages of the pod: RULEW[24:16] (R52). -/
def State.npod (s : State) : Nat := ((platGet s.plat 2).extractLsb' 16 9).toNat

/-- The failure reported of two that one access meets: the lower code, the first of equals; a page that is not
resident is no cause yet (R213, R218). -/
def Bad.worse (a b : Bad) : Bad :=
  match a, b with
  | .cause k _, .cause m _ => if m.toNat < k.toNat then b else a
  | .pri _ _, .cause _ _ => b
  | _, _ => a

/-- The bytes of an LS access in the global space (R208 to R215): at most one page boundary is
crossed, every part is translated before any is performed, and the lowest cause is reported. -/
def State.resolve (s : State) (c : Ctx) (va : DWord) (n : Nat) (acc : Access) :
    Except Bad (List Loc × BitVec 2) :=
  let a := va.toNat
  if 2 ^ 57 ≤ a then .error (.cause cNONCANON a)
  else if 2 ^ 56 ≤ a then
    (if windowOk s c s.npod a n then .ok ((List.range n).map fun k => .win (a + k), 0)
    else .error (.cause cWINDOW a))
  else if 2 ^ 56 < a + n then
    (match s.page c a acc with
    | .error b => .error (b.worse (.cause cWINDOW a))
    | .ok _ => .error (.cause cWINDOW a))
  else if inDevice a then deviceLocs s c a n acc
  else
    let room := 2 ^ 16 - a % 2 ^ 16
    match s.page c a acc with
    | .error b =>
      if n ≤ room then .error b
      else if inDevice (a + room) then .error (b.worse (.cause cPERM (a + room)))
      else
        (match s.page c (a + room) acc with
        | .error d => .error (b.worse d)
        | .ok _ => .error b)
    | .ok p =>
      let first := (List.range (Nat.min n room)).map fun k => Loc.mem p.tier (p.base + a % 2 ^ 16 + k)
      if n ≤ room then .ok (first, p.ord)
      else if inDevice (a + room) then .error (.cause cPERM (a + room))
      else
        match s.page c (a + room) acc with
        | .error b => .error b
        | .ok q =>
          .ok (first ++ (List.range (n - room)).map (fun k => Loc.mem q.tier (q.base + k)),
            strongest p.ord q.ord)

/- ### Bytes -/

/-- What a load of a wake cell's register reads (R31). -/
def wakeRead (q : Queue) (off : Nat) : DWord :=
  if off = 0x18 then
    0#48 ++ q.stopclass ++ BitVec.ofNat 2 q.home ++ 0#3 ++ BitVec.ofNat 3 q.state
  else if off = 0x20 then q.head
  else 0

/-- One byte of a location, with the block's scratchpad. -/
def readLoc (s : State) (b : Block) : Loc → Byte
  | .sp o => b.spad.byte o
  | .mem t o => (s.tier t).byte o
  | .wake q o =>
    match s.queue? q with
    | some qu => BitVec.ofNat 8 ((wakeRead qu (o / 8 * 8)).toNat / 2 ^ (8 * (o % 8)))
    | none => 0
  | .win _ => 0

/-- The granules that n bytes written at these locations cover whole (R363). -/
def wholeGranules (locs : List Loc) : List (Nat × Nat) :=
  locs.filterMap fun l =>
    match l with
    | .mem t o =>
      if o % 8 = 0 ∧ (List.range 8).all (fun k => locs.contains (.mem t (o + k))) then some (t, o / 8)
      else none
    | _ => none

/-- The scratchpad words that these locations cover whole. -/
def wholeSpWords (locs : List Loc) : List Nat :=
  locs.filterMap fun l =>
    match l with
    | .sp o =>
      if o % 4 = 0 ∧ (List.range 4).all (fun k => locs.contains (.sp (o + k))) then some (o / 4)
      else none
    | _ => none

/-- One byte written to the global space. -/
def writeMem (s : State) (l : Loc) (v : Byte) : State :=
  match l with
  | .mem t o => s.setTier t ((s.tier t).setByte o v)
  | _ => s

/-- Bytes written to the global space, in ascending order; whole granules lose their poison. -/
def State.writeLocs (s : State) (locs : List Loc) (bytes : List Byte) : State :=
  let s' := (locs.zip bytes).foldl (fun s p => writeMem s p.1 p.2) s
  if s.poison.isEmpty then s'
  else { s' with poison := s'.poison.filter fun g => !(wholeGranules locs).contains g }

/-- Bytes written to the block's scratchpad. -/
def Block.writeLocs (b : Block) (locs : List Loc) (bytes : List Byte) : Block :=
  { b with
    spad := (locs.zip bytes).foldl (fun m p =>
      match p.1 with
      | .sp o => m.setByte o p.2
      | _ => m) b.spad
    spadPoison :=
      if b.spadPoison.isEmpty then [] else b.spadPoison.filter fun w => !(wholeSpWords locs).contains w }

/-- The wake-cell stores among these locations become events of the queue (R31, R32, R210). A WCTL write with both ABORT
and RESTART acts as ABORT (log entry 60: DESIGN CHOICE). -/
def State.wakeStore (s : State) (locs : List Loc) (bytes : List Byte) : State :=
  match locs with
  | .wake q o :: _ =>
    let v : DWord := BitVec.ofNat 64 (leNat bytes)
    let ev : List Instr :=
      if o = 0 then [.wtail q v]
      else if o = 8 then [.wcqdone q v]
      else if o = 0x10 then
        (if v.getLsbD 2 then [.wctlAbort q]
        else if v.getLsbD 0 then (if v.getLsbD 1 then [.wctlRestartSkip q] else [.wctlRestart q])
        else [])
      else []
    { s with agenda := s.agenda ++ ev }
  | _ => s

/-- Whether a byte lies in a poisoned granule or word. -/
def locPoisoned (s : State) (b : Block) : Loc → Bool
  | .sp o => b.spadPoison.contains (o / 4)
  | .mem t o => s.poison.contains (t, o / 8)
  | _ => false

/-- A page to fetch instruction bytes from (R93, R109). -/
def State.fetchPage (s : State) (c : Ctx) (pc : Nat) : Except Bad Page :=
  if 2 ^ 57 ≤ pc then .error (.cause cNONCANON pc)
  else if 2 ^ 56 ≤ pc then .error (.cause cWINDOW pc)
  else if inDevice pc then .error (.cause cPERM pc)
  else s.page c pc .fetch

/- ### Long ranges (engine transfers, packets) -/

/-- Where a contiguous run of bytes lies. -/
structure Piece where
  tier : Nat
  off : Nat
  len : Nat
  ord : BitVec 2
deriving DecidableEq, Repr

/-- Who reads or writes a long range: a packet or policy core, or an engine on the CP, GA or CO path (R205). -/
inductive Via where
  | core | cp | ga | co
deriving DecidableEq, Repr

/-- Whether a path may reach a page: engines no strongly ordered one (R214), GA and CO no host memory (R205; log
entry 61: DESIGN CHOICE for the cause). -/
def Via.reaches (p : Via) (pg : Page) : Bool :=
  p == .core || (pg.ord != 1 && (p == .cp || pg.tier != 2))

/-- The runs of [va, va + n) page by page until the first page that fails, with that failure; `fuel`
bounds the pages. A page that the path does not reach and the device range fail with PERM (R205, R210, R214). -/
def State.pieces (s : State) (c : Ctx) (via : Via) (acc : Access) :
    Nat → Nat → Nat → List Piece × Option Bad
  | 0, _, _ => ([], none)
  | fuel + 1, va, n =>
    if n = 0 then ([], none)
    else if 2 ^ 57 ≤ va then ([], some (.cause cNONCANON va))
    else if 2 ^ 56 ≤ va then ([], some (.cause cWINDOW va))
    else if inDevice va then ([], some (.cause cPERM va))
    else
      match s.page c va acc with
      | .error b => ([], some b)
      | .ok p =>
        if !via.reaches p then ([], some (.cause cPERM va))
        else
          let room := Nat.min n (2 ^ 16 - va % 2 ^ 16)
          let r := State.pieces s c via acc fuel (va + room) (n - room)
          (⟨p.tier, p.base + va % 2 ^ 16, room, p.ord⟩ :: r.1, r.2)

/-- The bytes of pieces. -/
def State.readPieces (s : State) (ps : List Piece) : List Byte :=
  (ps.map fun p => (s.tier p.tier).bytes p.off p.len).flatten

/-- The locations of pieces. -/
def pieceLocs (ps : List Piece) : List Loc :=
  (ps.map fun p => (List.range p.len).map fun k => Loc.mem p.tier (p.off + k)).flatten

/-- Pages that a range of n bytes may touch. -/
def pageFuel (n : Nat) : Nat := n / 2 ^ 16 + 2

/-- Bytes read from a context's memory on a path; none at a failure, whose address is the first byte's that
fails. -/
def State.readOn (s : State) (c : Ctx) (via : Via) (va n : Nat) : Except Bad (List Byte) :=
  let r := s.pieces c via .load (pageFuel n) va n
  match r.2 with
  | some b => .error b
  | none =>
    match (pieceLocs r.1).findIdx? fun l => match l with
        | .mem t o => s.poison.contains (t, o / 8)
        | _ => false with
    | some k => .error (.cause cMEMERR (va + k))
    | none => .ok (s.readPieces r.1)

/-- Bytes written to a context's memory on a path; the failure leaves nothing written. -/
def State.writeOn (s : State) (c : Ctx) (via : Via) (va : Nat) (bytes : List Byte) : Except Bad State :=
  let r := s.pieces c via .store (pageFuel bytes.length) va bytes.length
  match r.2 with
  | some b => .error b
  | none => .ok (s.writeLocs (pieceLocs r.1) bytes)

/-- Bytes read from a context's memory by a packet or policy core. -/
def State.readVa (s : State) (c : Ctx) (va n : Nat) : Except Bad (List Byte) := s.readOn c .core va n

/-- Bytes written to a context's memory by a packet or policy core. -/
def State.writeVa (s : State) (c : Ctx) (va : Nat) (bytes : List Byte) : Except Bad State :=
  s.writeOn c .core va bytes

/-- A failed page request that an agent has reported stands no longer, so that a later access asks again
(R218). -/
def State.priReported (s : State) (c : Ctx) (va : Nat) : State :=
  if s.priFailed.isEmpty then s
  else
    match ({ s with priFailed := [] } : State).page c va .load with
    | .error (.pri key _) => { s with priFailed := s.priFailed.filter fun x => x != key }
    | _ => s

/-- The same for an address of context n. -/
def State.priTold (s : State) (n : Nat) (a : DWord) : State :=
  match s.ctx? n with
  | some c => s.priReported c a.toNat
  | none => s

/-- The same where the cause says that a page request failed (R213, R218). -/
def State.told (s : State) (n : Nat) (cause : BitVec 8) (a : DWord) : State :=
  if cause = cPRIFAIL then s.priTold n a else s

end Sys2Proof.Machine
end

