-- ==== Sys2Proof/Machine/Log.lean ====
section
/-! DEFINITION. The error logs (R368, R384): one held record per kind until a ring is placed, then
records in the ring. A context's ring lies at a local address of the context, the package's at an
offset of bonded DRAM (log entry 11: DESIGN CHOICE). -/

namespace Sys2Proof.Machine

/-- KIND 0x01 of R368: corrected. -/
def kCorrected : Nat := 1
/-- KIND 0x02: poisoned by scrub. -/
def kScrub : Nat := 2
/-- KIND 0x03: consumed. -/
def kConsumed : Nat := 3
/-- KIND 0x04: denied or refused. -/
def kDenied : Nat := 4
/-- KIND 0x05: spare used. -/
def kSpare : Nat := 5
/-- KIND 0x06: test deferred. -/
def kDeferred : Nat := 6
/-- KIND 0x07: link lane event. -/
def kLink : Nat := 7

/-- The 32 bytes of a record (R368). -/
def LogRec.bytes (r : LogRec) (time : DWord) : List Byte :=
  leBytes 32 (r.addr ++ time ++ r.unit ++ r.cls ++ BitVec.ofNat 8 r.kind ++
    BitVec.ofNat 32 r.count ++ 0#48 ++ BitVec.ofNat 16 r.ctx : BitVec 256).toNat

/-- A record merged into the held ones: COUNT of the record of its KIND rises and saturates (R368,
R384). -/
def mergeRec (r : LogRec) : List LogRec → List LogRec
  | [] => [r]
  | h :: t =>
    if h.kind = r.kind then { h with count := Nat.min (h.count + r.count) 0xffffffff } :: t
    else h :: mergeRec r t

/-- The ring offset of record i, then the bytes of the count of records (R384). -/
def ringSlot (log2 i : Nat) : Nat := 64 + 32 * (i % 2 ^ log2)

/-- A record into the package log (R368, R384). -/
def State.logPkgRec (s : State) (r : LogRec) : State :=
  match s.plog.ring with
  | none => { s with plog := { s.plog with held := mergeRec r s.plog.held } }
  | some (a, l) =>
    let n := s.plog.count + 1
    let s' := s.writeLocs
      ((List.range 32).map fun k => .mem 0 (a + ringSlot l s.plog.count + k))
      (r.bytes (Config.freeWord s.free))
    let s'' := s'.writeLocs ((List.range 8).map fun k => .mem 0 (a + k)) (leBytes 8 n)
    { s'' with free := s.free + 1, plog := { s.plog with count := n } }

/-- An event into the package log. -/
def State.logPkg (s : State) (kind : Nat) (cls : BitVec 8) (unit : Nat) (addr : DWord) : State :=
  s.logPkgRec ⟨kind, cls, BitVec.ofNat 16 unit, addr, 0xffff, 1⟩

/-- A record into a context's log; a ring that does not translate holds the record (log entry 11: DESIGN CHOICE). -/
def State.logCtxRec (s : State) (n : Nat) (r : LogRec) : State :=
  match s.ctx? n with
  | none => s
  | some c =>
    let hold := s.setCtx { c with log := { c.log with held := mergeRec r c.log.held } }
    match c.log.ring with
    | none => hold
    | some (a, l) =>
      match s.writeVa c (a + ringSlot l c.log.count) (r.bytes (Config.freeWord s.free)) with
      | .error _ => hold
      | .ok s' =>
        match s'.writeVa c a (leBytes 8 (c.log.count + 1)) with
        | .error _ => hold
        | .ok s'' =>
          { s''.setCtx { c with log := { c.log with count := c.log.count + 1 } } with
            free := s.free + 1 }

/-- An event into a context's log. -/
def State.logCtx (s : State) (n : Nat) (kind : Nat) (cls : BitVec 8) (unit : Nat) (addr : DWord) :
    State :=
  s.logCtxRec n ⟨kind, cls, BitVec.ofNat 16 unit, addr, n, 1⟩

/-- A consumption by a device agent or an engine, at the granule of address a: into the context's log, with class
MEM_UNCORR (R366 to R368; log entry 7: DESIGN CHOICE). -/
def State.logUse (s : State) (n unit a : Nat) : State :=
  s.logCtx n kConsumed 0x90 unit (BitVec.ofNat 64 (a / 8 * 8))

/-- An agent's failed access told: a page request that failed stands no longer (R218), and a consumption is logged
(R368). -/
def State.blame (s : State) (n unit : Nat) (k : BitVec 8) (a : DWord) : State :=
  if k = cMEMERR then s.logUse n unit a.toNat else s.told n k a

/-- A log ring placed (R382): the held records go into it. -/
def State.placeLog (s : State) (n : Option Nat) (a log2 : Nat) : State :=
  match n with
  | none =>
    let held := s.plog.held
    held.foldl (fun s r => s.logPkgRec r)
      { s with plog := { ring := some (a, log2), count := 0, held := [] } }
  | some k =>
    match s.ctx? k with
    | none => s
    | some c =>
      let held := c.log.held
      held.foldl (fun s r => s.logCtxRec k r)
        (s.setCtx { c with log := { ring := some (a, log2), count := 0, held := [] } })

end Sys2Proof.Machine
end

