-- ==== Sys2Proof/Machine/Region.lean ====
section
/-! DEFINITION. Regions as the warp alone sees them: beginning one, leaving for exposed code, and
discarding one (R325 step 5, R329 to R333). -/

namespace Sys2Proof.Machine

/-- A record of lanes that fell through the end of the code (R117, R338). -/
def Trap.pastEnd (t : Trap) : Bool :=
  t.words.w0.extractLsb' 0 8 == TrapCode.illop.num && t.words.w1 == 0 && t.len == 0

/-- The frontier image of a region's start: every PARK cleared (R135, R329), but for the lanes that fell through the
end of the code, which no word awaits (R117). -/
def clearParks (straps : List Trap) (fr : List Entry) : List Entry :=
  fr.foldl (fun acc e =>
    addEntry acc (if straps.any fun t => t.pastEnd && t.pc == e.pc then e else { e with park := 0 })) []

/-- A region begins after the instruction at offset `off` minus its length (R329, R330). -/
def Warp.beginRegion (w : Warp) (off : Word) : Warp :=
  { w with
    stores := [], cmds := [], consumed := [], pendCommit := none
    loads := w.loads.map fun o => { o with rgn := false }
    rgn := { image := clearParks w.straps w.frontier, ck := w.ck, ckm := w.ckmode, rf := RegSet.empty,
             wr := RegSet.empty, rgnoff := off, reent := 0, hflags := 0, iss := false,
             inrgn := true } }

/-- The region record of exposed code (R330). -/
def Region.exposed : Region :=
  { image := [], ck := [], ckm := 0, rf := RegSet.empty, wr := RegSet.empty, rgnoff := 0xffffffff,
    reent := 0, hflags := 0, iss := false, inrgn := false }

/-- The warp enters exposed code (R324, R330). -/
def Warp.enterExposed (w : Warp) : Warp :=
  { w with
    stores := [], cmds := [], consumed := [], pendCommit := none
    loads := w.loads.map fun o => { o with rgn := false }
    rgn := Region.exposed }

/-- An asynchronous trap that survives a discard parks its lane where the lane then stands (R265,
R345; log entry 8: DEDUCED). -/
def Warp.repark (w : Warp) (cb : DWord) (t : Trap) : Warp :=
  match w.frontier.find? fun e => e.mask &&& t.lanes != 0 with
  | none => w
  | some e =>
    { w with
      frontier := addEntry (dropLanes w.frontier t.lanes) ⟨e.pc, e.prio, t.lanes, 1⟩
      utraps := w.utraps ++ [{ t with
        pc := e.pc
        words := { t.words with
          w0 := (e.pc - cb).extractLsb' 0 32 ++ t.words.w0.extractLsb' 0 32 } }] }

/-- The discard of the open region, without the hold (R331 steps 1 to 5, R345). A region in which
nothing has issued is left as it stands (R332), but for a handler in it, which is abandoned. -/
def Warp.discard (w : Warp) (cb : DWord) : Warp :=
  if !w.rgn.inrgn || (!w.rgn.iss && w.frame.isNone) then w
  else
    let keep := w.utraps.filter fun t => t.xfer.isSome
    let w' := { w with
      stores := [], cmds := [], loads := w.loads.filter fun o => !o.rgn
      s := (match w.frame with | some f => f.saved | none => w.s)
      frame := none, ck := w.rgn.ck, ckmode := w.rgn.ckm, frontier := dropLanes w.rgn.image w.exited
      waits := [], utraps := [], straps := w.straps.filter Trap.pastEnd
      rgn := { w.rgn with rf := RegSet.empty, wr := RegSet.empty, hflags := 0, iss := false } }
    keep.foldl (fun w t => w.repark cb t) w'

/-- A discard for a fault or an error: REENT counts it and the warp is held, or REENTRY is raised at
the limit (R331 step 6, R333). -/
def Warp.discardFault (w : Warp) (g : Grid) : Warp :=
  let w := w.discard g.cb
  let n := w.rgn.reent + 1
  let w := { w with rgn := { w.rgn with reent := n } }
  if n.toNat = g.img.desc.limit then
    match select w.frontier with
    | none => w
    | some e =>
      { w with frontier := dropLanes w.frontier e.mask }.raise g.cb e.pc e.prio e.mask 0
        ⟨.reentry, 0, BitVec.ofNat 64 n.toNat, 0#32 ++ w.rgn.rgnoff, 0, false, none⟩
  else { w with st := { w.st with hold := true } }

/-- A supervisor record without lanes: the cause of a discard, for the supervisor core (R331, R342). -/
def Warp.note (w : Warp) (cb pc : DWord) (lane : Nat) (inrgn : Bool) (c : Cause) : Warp :=
  { w with straps := w.straps ++ [{ (mkTrap cb pc (laneBit lane) 0 inrgn c) with lanes := 0 }] }

/-- The state with a consumption in the context's log (R368); UNIT is the core. -/
def Site.logConsumed (x : Site) (word : DWord) : Site :=
  { x with s := x.s.logCtx x.g.ctx kConsumed 0x11 x.b.coreNum word }

/-- A lane that consumes an error: the key of the physical granule or of the register word (R366), and word 1 of
R367. -/
structure Consumed where
  lane : Nat
  key : Nat
  word : DWord
deriving DecidableEq, Repr

/-- A consumed error in a region (R366): the region is discarded and the warp held, and a location consumed again
before the commit escalates to ECCU. -/
def Site.consumeInRegion (x0 : Site) (cs : List Consumed) : State :=
  let x := (cs.map (·.word)).eraseDups.foldl Site.logConsumed x0
  let old := x.w.consumed
  match cs.find? fun c => old.contains c.key with
  | some c =>
    let w := (x.w.discard x.g.cb).note x.g.cb x.pc c.lane true (Cause.one .eccu c.word)
    x.s.putWarp x.b { w with st := { w.st with hold := true } } x.g
  | none =>
    x.s.putWarp x.b { (x.w.discardFault x.g) with consumed := (cs.map (·.key)).eraseDups ++ old } x.g

/-- A translation fault of an instruction in a region (R217, R331): the region is discarded, the
warp held, and the supervisor core told. -/
def Site.faultInRegion (x : Site) (m : Mask) (c : Cause) : State :=
  x.s.putWarp x.b
    ((x.w.discardFault x.g).note x.g.cb x.pc (lowestLane m) true c) x.g

/-- The site with the lanes of m parked by a trap at the instruction (R122). -/
def Site.split (x : Site) (m : Mask) (c : Cause) : Site :=
  { x with
    w := { x.w with frontier := dropLanes x.w.frontier m }.raise x.g.cb x.pc x.prio m x.len c
    mask := x.mask &&& ~~~m }

/-- The effect with the consumption of poison before it (R365, R366): in a region nothing is
performed; in exposed code the consuming lanes park with ECCU and the other lanes go on. -/
def Site.consume (x : Site) (i : Instr) (body : Site → State) : State :=
  let m := x.poisonMask i
  if m = 0 then body x
  else
    let loc := (x.poisonOf i (lowestLane m)).getD 0
    if x.inRegion then
      x.consumeInRegion ((lanes.filter fun l => m.getLsbD l).map fun l =>
        ⟨l, ((x.poisonOf i l).getD 0).toNat, (x.poisonOf i l).getD 0⟩)
    else if x.handler || m = x.mask then (x.logConsumed loc).leave 0 [(x.mask, .trap (Cause.one .eccu loc))]
    else body ((x.logConsumed loc).split m (Cause.one .eccu loc))

end Sys2Proof.Machine
end

