-- ==== Sys2Proof/Machine/Memory.lean ====
section
/-! DEFINITION. The accesses of a warp's lanes: scratchpad and global space (R206, R208), and the
bytes that a warp's region store buffer holds (R235). -/

namespace Sys2Proof.Machine

/-- The bytes of a scratchpad access (R206): all of them in the block's range, or none. -/
def spLocs (spad : Nat) (addr : DWord) (n : Nat) : Option (List Loc) :=
  if 0 ≤ addr.toInt ∧ addr.toNat + n ≤ spad then
    some ((List.range n).map fun k => .sp (addr.toNat + k))
  else none

/-- The bytes of an access in either space; none where SPAD is raised. -/
def Site.locs (x : Site) (c : Ctx) (sp : Bool) (addr : DWord) (n : Nat) (acc : Access) :
    Option (Except Bad (List Loc × BitVec 2)) :=
  if sp then (spLocs x.g.img.desc.spad addr n).map fun l => .ok (l, 0)
  else some (x.s.resolve c addr n acc)

/-- The byte that the warp's region store buffer holds for a location, newest first (R235). -/
def heldByte (s : State) (c : Ctx) (spad : Nat) (stores : List (List StoreLane)) (l : Loc) :
    Option Byte :=
  (stores.flatten.reverse).findSome? fun st =>
    let ls := if st.sp then (spLocs spad st.addr st.bytes.length).getD []
      else
        match s.resolve c st.addr st.bytes.length .store with
        | .ok r => r.1
        | .error _ => []
    ((ls.zip st.bytes).find? fun p => p.1 == l).map (·.2)

/-- The bytes that a load of these locations reads; a handler reads the bytes that its suspended region
holds too (R235, R244, R335). -/
def Site.readLocs (x : Site) (c : Ctx) (ls : List Loc) : List Byte :=
  if !x.w.stores.isEmpty then
    ls.map fun l => (heldByte x.s c x.g.img.desc.spad x.w.stores l).getD (readLoc x.s x.b l)
  else ls.map (readLoc x.s x.b)

/-- The bytes that the region store buffer holds of these locations (R235). -/
def Site.heldBytes (x : Site) (c : Ctx) (ls : List Loc) : List (Option Byte) :=
  if x.w.stores.isEmpty then [] else ls.map (heldByte x.s c x.g.img.desc.spad x.w.stores)

/-- The site after bytes are written to these locations. -/
def Site.writeLocs (x : Site) (ls : List Loc) (bytes : List Byte) : Site :=
  match ls with
  | .sp _ :: _ => { x with b := x.b.writeLocs ls bytes }
  | .wake _ _ :: _ => { x with s := x.s.wakeStore ls bytes }
  | _ => { x with s := x.s.writeLocs ls bytes }

/-- The context of a site. -/
def Site.ctx? (x : Site) : Option Ctx := x.s.ctx? x.g.ctx

/-- The PAGE cause of a failed translation: word 1 is the fault address, SUB the cause; SUB 0 marks
a host page that a page request awaits (R213, R218, R337, R338; log entry 10: DEDUCED). -/
def Bad.toCause : Bad → Cause
  | .cause c a => ⟨.page, c, BitVec.ofNat 64 a, 0, 0, false, none⟩
  | .pri _ a => ⟨.page, 0, BitVec.ofNat 64 a, 0, 0, false, none⟩

/-- The PASID that a page request carries: the one that CTX_NEW gave its context (R378). -/
def PriReq.pasid (r : PriReq) : BitVec 20 := Config.pasid r.ctx

/-- The page request that a non-resident host page calls for (R218); `agent` says that an engine or a
packet core waits for it. -/
def State.request (s : State) (ctx : Nat) (agent : Bool) (b : Bad) : State :=
  match b with
  | .pri k _ =>
    if s.priReqs.any fun r => r.page == k then
      { s with priReqs := s.priReqs.map fun r =>
          if r.page = k then { r with agent := r.agent || agent } else r }
    else { s with priReqs := s.priReqs ++ [⟨k, ctx, agent⟩] }
  | .cause _ _ => s

/-- Whether a pod-window operation writes. -/
def opWrites : ROp → Bool
  | .write _ => true
  | .put _ => true
  | .atomic _ _ _ _ _ => true
  | _ => false

/-- The block that a fabric request belongs to. -/
def ROwner.block? : ROwner → Option Nat
  | .load b _ _ _ => some b
  | .store b _ _ => some b
  | .xfer b _ => some b
  | .waitv b _ _ => some b
  | .send b _ => some b
  | .coll b => some b
  | _ => none

/-- A pod-window request sent to the package that the address names (R209, R236); one to this package itself is
served here next. -/
def State.remote (s : State) (c : Ctx) (va : Nat) (op : ROp) (owner : ROwner) : State :=
  let r : RReq := ⟨s.fresh, s.pkg, va % 2 ^ 56 / 2 ^ 47, c.pctx.getD 0, va % 2 ^ 47, op⟩
  let g := if opWrites op then (owner.block?.bind s.block?).map (fun b : Block => b.grid) else none
  { s with
    fabricOut := s.fabricOut ++ [⟨r, owner, g⟩]
    agenda := if r.dst = s.pkg then s.agenda ++ [.remoteAccess r] else s.agenda
    fresh := s.fresh + 1 }

/-- A warp whose live lanes are all parked in `waitv` notes when (R305). -/
def State.notePark (s : State) (k n : Nat) : State :=
  match s.block? k with
  | none => s
  | some b =>
    match b.warp? n with
    | none => s
    | some w =>
      if w.frontier.all fun e => e.park == 3 then
        { s.setBlock (b.setWarp { w with parkedAt := s.fresh }) with fresh := s.fresh + 1 }
      else s

/- ### Queue headers (R29) -/

/-- n bytes of a queue's header in its context's memory written; a write that does not translate is
lost. -/
def State.hdrPut (s : State) (q : Queue) (off n v : Nat) : State :=
  match s.ctx? q.ctx with
  | none => s
  | some c =>
    match s.writeVa c (q.header.toNat + off) (leBytes n v) with
    | .ok s' => s'
    | .error _ => s

/-- The state with a queue's record replaced, and STATE, UILATCH, WAKELATCH and STOPCLASS written to
its header (R29). -/
def State.putQueue (s : State) (q : Queue) : State :=
  let s := (s.setQueue q).hdrPut q 32 1 (q.state + if q.uilatch then 8 else 0)
  (s.hdrPut q 80 8 q.wakelatch.toNat).hdrPut q 96 1 q.stopclass.toNat

end Sys2Proof.Machine
end

