-- ==== Sys2Proof/Machine/Release.lean ====
section
/-! DEFINITION. Releasing an engine command: a transfer (R254, R261), a queue entry (R268, R269) or a
user-level interrupt (R309, R317), at once in exposed code or at a commit (R326). -/

namespace Sys2Proof.Machine

/-- A tile table entry (R253). -/
def Tile.zero : Tile :=
  { fmt := 0, pend := 0, cfg := false, fault := false, st := .empty, rowbytes := 0, rows := 0,
    base := 0 }

/-- Tile t's entry. -/
def Block.tile (b : Block) (t : Nat) : Tile := smGet Tile.zero b.tiles t
/-- The block with tile t's entry written. -/
def Block.setTile (b : Block) (t : Nat) (x : Tile) : Block :=
  { b with tiles := smSet Tile.zero b.tiles t x }
/-- The entries of queue q, oldest first. -/
def Block.queue (b : Block) (q : Nat) : List (List DWord) := smGet [] b.queues q
/-- The block with queue q's entries written. -/
def Block.setQueue (b : Block) (q : Nat) (x : List (List DWord)) : Block :=
  { b with queues := smSet [] b.queues q x }

/-- The spill ring entries in use (R269). -/
def Block.spilled (b : Block) : Nat :=
  ((List.range 8).map fun q => (b.queue q).length - 8).sum

/-- Whether queue q takes one more entry within QUOTA (R269). -/
def Block.roomFor (b : Block) (quota q : Nat) : Bool :=
  decide ((b.queue q).length < 8) || decide (b.spilled < quota)

/-- The block with a result posted in queue q, or held by its engine until an entry frees (R269). -/
def Block.post (b : Block) (quota q : Nat) (r : List DWord) : Block :=
  if b.roomFor quota q then b.setQueue q (b.queue q ++ [r]) else { b with results := b.results ++ [(q, r)] }

/-- The tile that a matrix instruction names (R283). -/
def mxTile : Instr → Option Nat
  | .mlds _ t _ _ _ => some t.toNat
  | .mstr _ _ t _ _ _ _ _ => some t.toNat
  | .mst _ _ t _ _ _ _ _ => some t.toNat
  | _ => none

/-- Whether a released matrix instruction holds tile t of block b (R286). An empty tile is not held: the
instruction waits for a `tload` to make it ready (R254, R284; log entry 56: DEDUCED). -/
def State.mxHolds (s : State) (b : Block) (t : Nat) : Bool :=
  (b.tile t).st != .empty && (s.core b.coreNum).mx.holder == some b.key &&
    (s.core b.coreNum).mx.ops.any fun o => mxTile o.instr == some t

/-- Whether a register waits for a released matrix instruction to write it (R119). -/
def mxPending (e : Engine) (b : Block) (n : Nat) (r : RegRef) : Bool :=
  e.holder == some b.key && e.ops.any fun o =>
    o.members.any (fun m => m.1 == n) && (instrRegs o.instr).2.contains r

/-- Whether a register of the instruction waits for a released matrix instruction (R119). -/
def Site.mxStalled (x : Site) (i : Instr) : Bool :=
  let e := (x.s.core x.b.coreNum).mx
  ((instrRegs i).1 ++ (instrRegs i).2).any (mxPending e x.b x.w.num)

/-- Whether a tile lets a transfer of this kind be released (R254, R286). -/
def State.tileFree (s : State) (b : Block) (r : XferReq) : Bool :=
  match r.tile with
  | none => true
  | some t =>
    !s.mxHolds b t &&
      (match r.kind with
      | .tload => (b.tile t).st != .draining
      | .tstore => (b.tile t).st == .ready || (b.tile t).st == .draining
      | _ => true)

/-- Whether a token's count can rise (R261). -/
def Warp.tokenFree (w : Warp) (tok : Option (BitVec 3)) : Bool :=
  match tok with
  | none => true
  | some k => w.token k.toNat != 63

/-- Whether a send of target word T goes to a peer package (R309), which it reaches as a release at `.pod` (R312). -/
def sendsToPeer (t : DWord) : Bool := t.extractLsb' 6 2 == 2#2

/-- Whether a command can be released now (R254, R261, R269); a send to a peer waits for the warp's pod-window
stores (R236, R312). -/
def State.canRelease (s : State) (b : Block) (w : Warp) (g : Grid) : Cmd → Bool
  | .xfer r => s.tileFree b r && w.tokenFree r.tok
  | .qpush q _ => b.roomFor g.img.desc.quota q.toNat
  | .uisend t _ => !sendsToPeer t || w.acks == 0

/-- The tile's entry after a transfer on it is released (R254, R255). -/
def Tile.released (t : Tile) (r : XferReq) (fmt : Nat) : Tile :=
  match r.kind with
  | .tload => { t with st := .filling, pend := t.pend + 1, fmt := BitVec.ofNat 8 fmt }
  | .tstore => { t with st := .draining, pend := t.pend + 1 }
  | _ => t

/-- Where a target word T sends (R309). -/
inductive UiTarget where
  | invalid
  | noContext
  | here (m : SendMsg)
  | there (pkg : Nat)
deriving DecidableEq, Repr

/-- The target of T for a kernel of context c (R309). -/
def State.uiTarget (s : State) (c : Ctx) (t p : DWord) : UiTarget :=
  let vec := t.extractLsb' 0 6
  let pkg := (t.extractLsb' 16 8).toNat
  let num := (t.extractLsb' 32 16).toNat
  if t.extractLsb' 8 8 != 0 || t.extractLsb' 24 8 != 0 || t.extractLsb' 48 16 != 0 then .invalid
  else
    match (t.extractLsb' 6 2).toNat with
    | 0 => if pkg ≠ 0 ∨ num ≠ 0 then .invalid else .here ⟨.own, some c.num, 0, vec, p⟩
    | 1 =>
      if pkg ≠ 0 then .invalid
      else if (s.ctx? num).isNone then .noContext
      else .here ⟨.kernel c.num, some num, 0, vec, p⟩
    | 2 =>
      if num ≠ 0 || decide (s.npod ≤ pkg) || s.trav.role == .none || c.pctx.isNone then .invalid
      else if pkg = s.pkg then .here ⟨.peer s.pkg (c.pctx.getD 0), none, c.pctx.getD 0, vec, p⟩
      else .there pkg
    | _ => .invalid

/-- The state after a `uisend` of context c leaves the core (R317): the send travels to the interrupt
unit of its package, and what cannot be sent is logged. -/
def State.releaseSend (s : State) (c : Ctx) (t p : DWord) : State :=
  match s.uiTarget c t p with
  | .invalid => s.logCtx c.num kDenied cWINDOW 0 t
  | .noContext => s.logCtx c.num kDenied cPERM 0 t
  | .here m => { s with agenda := s.agenda ++ [.uisendReceive m] }
  | .there pkg => s.remote c (2 ^ 56 + pkg * 2 ^ 47) (.send (t.extractLsb' 0 6) p) (.note c.num)

/-- A command released (R254, R261, R268, R317). -/
def State.release1 (s : State) (b : Block) (w : Warp) (g : Grid) (cmd : Cmd) :
    State × Block × Warp :=
  match cmd with
  | .xfer r =>
    let w' := match r.tok with
      | some k => w.setToken k.toNat (w.token k.toNat + 1)
      | none => w
    let b' := match r.tile with
      | some t =>
        b.setTile t ((b.tile t).released r
          (match r.tlr.bind fun h => g.img.tlrs[h]? with
          | some (l : Tlr) => l.fmt
          | none => 0))
      | none => b
    ({ s with fresh := s.fresh + 1 },
      { b' with xfers := b'.xfers ++ [⟨s.fresh, r, 0, none, false, none, none⟩] }, w')
  | .qpush q ws => (s, b.setQueue q.toNat (b.queue q.toNat ++ [ws]), w)
  | .uisend t p =>
    match s.ctx? g.ctx with
    | some c => (s.releaseSend c t p, b, w)
    | none => (s, b, w)

/-- The held commands released in issue order until one stalls (R261, R325 step 3). -/
def State.releaseAll (s : State) (b : Block) (w : Warp) (g : Grid) :
    List Cmd → State × Block × Warp
  | [] => (s, b, { w with cmds := [] })
  | c :: rest =>
    if s.canRelease b w g c then
      let r := s.release1 b w g c
      State.releaseAll r.1 r.2.1 r.2.2 g rest
    else (s, b, { w with cmds := c :: rest })

end Sys2Proof.Machine
end

