-- ==== Sys2Proof/Machine/Commit.lean ====
section
/-! DEFINITION. Commit points (R324, R325): the held stores performed, the held commands released,
the commit point's own effect and the next region; and the commit that completes a parking commit
point when its lanes are released. -/

namespace Sys2Proof.Machine

/-- The first held store that no longer translates, with its lane (R325 step 1). -/
def storeFault (s : State) (c : Ctx) (stores : List (List StoreLane)) : Option (Nat × Bad) :=
  stores.flatten.findSome? fun st =>
    if st.sp then none
    else
      match s.resolve c st.addr st.bytes.length .store with
      | .ok _ => none
      | .error b => some (st.lane, b)

/-- The bytes that a lane's store touches; none where it does not translate. -/
def Site.storeLocs (x : Site) (c : Ctx) (st : StoreLane) : List Loc :=
  if st.sp then (spLocs x.g.img.desc.spad st.addr st.bytes.length).getD []
  else
    match x.s.resolve c st.addr st.bytes.length .store with
    | .error _ => []
    | .ok (ls, _) => ls

/-- One lane's store performed at its places (R225, R244): in scratchpad, in memory, or sent to another
package, in which case its acknowledgement is awaited (R236). -/
def Site.storeLane (x : Site) (c : Ctx) (st : StoreLane) (ls : List Loc) : Site :=
  match ls with
  | .win va :: _ =>
    { x with
      s := x.s.remote c va (.write st.bytes) (.store x.b.key x.w.num st.addr)
      w := { x.w with acks := x.w.acks + 1 } }
  | _ => x.writeLocs ls st.bytes

/-- The held stores performed in issue order at the places that step 1 gave them, then the held flags
(R325 step 2). -/
def Site.performStores (x : Site) (c : Ctx) : Site :=
  let y := (x.w.stores.flatten.map fun st => (st, x.storeLocs c st)).foldl
    (fun y p => y.storeLane c p.1 p.2) x
  y.withW ({ y.w with stores := [] }).commitFlags

/-- The held commands released as far as they go (R325 step 3). -/
def Site.releaseCmds (x : Site) : Site :=
  let r := x.s.releaseAll x.b x.w x.g x.w.cmds
  { x with s := r.1, b := r.2.1, w := r.2.2 }

/-- The offset of an address in the code. -/
def Site.off (x : Site) (pc : DWord) : Word := (pc - x.g.cb).extractLsb' 0 32

/-- The commit of a commit point under way (R325): its region is over, `cmds` are left to release or its own
effect waits, and no pre-emption, halt or fault acts on the warp. -/
def Site.holdAt (x : Site) (i : Instr) : State :=
  x.s.putWarp x.b { x.w.enterExposed with cmds := x.w.cmds, pendCommit := some (.point i) } x.g

/-- What steps 1 to 3 of R325 come to: the commit point goes on to its own effect, or the state in
which it does not: discarded by a fault, or with commands still to release. -/
inductive Committed where
  | go (x : Site)
  | stop (s : State)
deriving DecidableEq, Repr

/-- Steps 1 to 3 of R325. What follows acts as exposed code until the next region begins. Outside a
region, and in handler mode (R336), nothing happens. -/
def Site.commitHeld (x : Site) (i : Instr) : Committed :=
  if !x.inRegion then .go x
  else
    match x.ctx? with
    | none => .go x
    | some c =>
      match storeFault x.s c x.w.stores with
      | some (lane, b) =>
        .stop ({ x with s := x.s.request c.num false b }.faultInRegion (laneBit lane) b.toCause)
      | none =>
        let y := (x.performStores c).releaseCmds
        if y.w.cmds.isEmpty then .go (y.withW y.w.enterExposed)
        else .stop (y.holdAt i)

/-- What follows a commit whose region ends: the next region, or exposed code where `off` is the
RGNOFF of exposed code (R330). -/
def Warp.afterCommit (w : Warp) (off : Word) : Warp :=
  if off = 0xffffffff then w.enterExposed else w.beginRegion off

/-- The commit of released lanes goes on (R261, R325): their region begins only when the last command is
released. -/
def Site.continueCommit (x : Site) (off : Word) : State :=
  let y := x.releaseCmds
  if y.w.cmds.isEmpty then y.s.putWarp y.b (y.w.afterCommit off) y.g
  else y.s.putWarp y.b y.w y.g

/-- The commit under way of the warp that issues. -/
def Site.pending (x : Site) : Option Pending := if x.handler then none else x.w.pendCommit

/-- The commit under way of the current warp. -/
def State.commitPending (s : State) : Option Pending := (s.site 0).bind Site.pending

/-- How a commit point leaves (R325 steps 4 and 5): its lanes move, then a region begins, or exposed
code for `rgnx`. In handler mode it leaves as any instruction does. -/
def Site.leaveCommit (x : Site) (exposed : Bool) (w0 : DWord) (parts : List (Mask × Move)) : State :=
  if x.handler then x.leave w0 parts
  else
    let w := { x.w with frontier := dropLanes x.w.frontier x.mask }
    let w := parts.foldl (fun w p => w.move x.g x.pc x.prio x.len w0 p.1 p.2) w
    let w := if exposed then w.enterExposed
      else w.beginRegion (x.off (x.pc + BitVec.ofNat 64 x.len))
    x.s.putWarp x.b w x.g

/-- How an instruction issues: it stalls, traps in the checks that come before its own, consumes a
poisoned operand, or has its effect (R108, R119, R144, R365). Without a warp to issue it, nothing
happens. -/
def issue (i : Instr) (s : State) (body : Site → State) : Out :=
  .next (match s.site i.bytes with
  | none => s
  | some x =>
    match x.pending with
    | some (.lanes off) => x.continueCommit off
    | some (.point _) => s
    | none =>
    if x.stalled i || x.mxStalled i then s
    else
      match x.check i with
      | some c => x.trapAll i c
      | none => (x.issued i).consume i body)

/-- The commit that precedes a commit point is done and its own effect still waits (R251, R264, R325 step 4).
Where nothing committed, nothing changes. One that waits for transfers has not issued (R264, R265): it stands in
exposed code, and their COPYF, a halt or a pre-emption acts meanwhile (log entry 15: DEDUCED). -/
def Site.commitWait (x y : Site) (i : Instr) (yields : Bool) : State :=
  if x.inRegion || x.pending.isSome then (if yields then y.s.putWarp y.b y.w y.g else y.holdAt i) else x.s

/-- A commit point whose steps 1 to 3 are done: while `wait` holds it stalls, then the body acts (R325). -/
def Site.effect (x z : Site) (i : Instr) (wait : Site → Bool) (body : Site → State) (yields : Bool) : State :=
  if wait z then x.commitWait z i yields else body (z.withW z.w.npeTick)

/-- How a commit point issues: after its checks the open region commits; while `wait` holds the
instruction stalls; then the body acts on the committed site. One under way goes on from where it was. `yields`
says that it waits for transfers. -/
def issueCommitWhen (i : Instr) (s : State) (wait : Site → Bool) (body : Site → State)
    (yields : Bool := false) : Out :=
  .next (match s.site i.bytes with
  | none => s
  | some x =>
    match x.pending with
    | some (.lanes off) => x.continueCommit off
    | some (.point _) =>
      let y := x.releaseCmds
      if y.w.cmds.isEmpty then x.effect (y.withW { y.w with pendCommit := none }) i wait body yields
      else y.s.putWarp y.b y.w y.g
    | none =>
    if x.stalled i || x.mxStalled i then s
    else
      match x.check i with
      | some c => x.trapAll i c
      | none => x.consume i fun y =>
        match y.commitHeld i with
        | .stop s' => s'
        | .go z => x.effect z i wait body yields)

/-- How a commit point that never waits issues. -/
def issueCommit (i : Instr) (s : State) (body : Site → State) : Out :=
  issueCommitWhen i s (fun _ => false) body

/-- An instruction that raises a trap of R144 only now: its whole entry traps and nothing of the
instruction takes effect. -/
def Site.precise (x : Site) (i : Instr) (c : Cause) : State :=
  match x.s.site x.len with
  | some y => y.trapAll i c
  | none => x.s

/- ### Lanes released from a parking commit point -/

/-- The lanes of m that wait leave their parked entries of this code for their next instructions
(R123, R299, R313, R318). -/
def Warp.moveOn (w : Warp) (g : Grid) (m : Mask) (code : BitVec 4) : Warp :=
  let moving := w.frontier.filter fun e => e.park == code && e.mask &&& m != 0
  let fr := (w.frontier.map fun e =>
    if e.park = code then { e with mask := e.mask &&& ~~~m } else e).filter fun e => e.mask != 0
  moving.foldl (fun w e =>
    let k := e.mask &&& m
    let next := ((w.waits.find? fun v => k.getLsbD v.lane).map (·.next)).getD e.pc
    w.move g e.pc e.prio (next - e.pc).toNat 0 k .next) { w with frontier := fr }

/-- A parking commit point completes for the lanes of m of warp w: the warp commits again, the lanes
stand at the next instruction and a region begins there (R325). A fault in the commit discards the
region instead. -/
def State.releaseLanes (s : State) (b : Block) (w : Warp) (g : Grid) (m : Mask) (code : BitVec 4) :
    State :=
  let next := ((w.waits.find? fun v => m.getLsbD v.lane).map (·.next)).getD g.cb
  let x : Site := ⟨s, b, w, g, next, m, 0, 0, false⟩
  let finish (y : Site) : State :=
    let w1 := y.w.moveOn g m code
    let w2 := { w1 with waits := w1.waits.filter fun v => !m.getLsbD v.lane }
    if w2.cmds.isEmpty then y.s.putWarp y.b (w2.beginRegion (y.off next)) g
    else y.s.putWarp y.b { w2 with pendCommit := some (.lanes (y.off next)) } g
  if !w.rgn.inrgn then finish x
  else
    match s.ctx? g.ctx with
    | none => finish x
    | some c =>
      match storeFault s c w.stores with
      | some (lane, bad) =>
        { x with s := s.request c.num false bad }.faultInRegion (laneBit lane) bad.toCause
      | none => finish (x.performStores c).releaseCmds

end Sys2Proof.Machine
end

