-- ==== Sys2Proof/Machine/Interrupts.lean ====
section
/-! DEFINITION. User-level interrupts: the interrupt block (R306), permissions (R307), receiving a send
(R308 to R311), delivery (R313, R314), the instructions of group 0x3d (R315 to R319), and the events
UISEND_RECEIVE and HOST_INTERRUPT_SEND. -/

namespace Sys2Proof.Machine

/- ### The interrupt block -/

/-- n bytes of a context's interrupt block at an offset, as a number; none without a block that the
device can read. -/
def State.ibGet (s : State) (c : Ctx) (off n : Nat) : Option Nat :=
  match c.iblk with
  | none => none
  | some a =>
    match s.readVa c (a.toNat + off) n with
    | .ok bytes => some (leNat bytes)
    | .error _ => none

/-- n bytes of the interrupt block written; a failure of translation is logged (log entry 16: DESIGN CHOICE). -/
def State.ibPut (s : State) (c : Ctx) (off n v : Nat) : State :=
  match c.iblk with
  | none => s
  | some a =>
    match s.writeVa c (a.toNat + off) (leBytes n v) with
    | .ok s' => s'
    | .error _ => s.logCtx c.num kDenied cPERM 0 (a + BitVec.ofNat 64 off)

/-- MASK (R306). -/
def State.ibMask (s : State) (c : Ctx) : BitVec 64 := BitVec.ofNat 64 ((s.ibGet c 0 8).getD 0)
/-- PEND (R306). -/
def State.ibPend (s : State) (c : Ctx) : BitVec 64 := BitVec.ofNat 64 ((s.ibGet c 8 8).getD 0)
/-- BOUND (R306). -/
def State.ibBound (s : State) (c : Ctx) : BitVec 64 := BitVec.ofNat 64 ((s.ibGet c 16 8).getD 0)
/-- The mask of one vector. -/
def vecBit (v : Nat) : BitVec 64 := 1#64 <<< v

/-- Whether a permission entry matches a sender (R307). -/
def permMatches (e : BitVec 128) (m : Sender) : Bool :=
  let ctx := e.extractLsb' 48 16
  let pkg := e.extractLsb' 40 8
  let kind := (e.extractLsb' 0 2).toNat
  match m with
  | .own => true
  | .kernel c => kind == 1 && (e.getLsbD 7 || ctx.toNat == c)
  | .peer p x => kind == 2 && (e.getLsbD 6 || pkg.toNat == p) && (e.getLsbD 7 || ctx == x)
  | .host f => kind == 3 && (e.getLsbD 7 || ctx.toNat == f)

/-- Whether a send of vector v to context c is allowed (R307). -/
def State.uiAllowed (s : State) (c : Ctx) (m : Sender) (v : Nat) : Bool :=
  m == .own || m == .kernel c.num ||
    (List.range (Nat.min ((s.ibGet c 48 2).getD 0) 256)).any fun k =>
      let e : BitVec 128 := BitVec.ofNat 128 ((s.ibGet c (0x500 + 16 * k) 16).getD 0)
      permMatches e m && e.getLsbD (64 + v)

/- ### Delivery -/

/-- Whether a warp is parked with PARK 4 in `uiwait` (R313). -/
def Warp.inUiwait (w : Warp) : Bool :=
  !w.frontier.isEmpty && w.frontier.all fun e => e.park == 4

/-- The block and warp bound to a pending, unmasked vector, where they are resident (R313). -/
def State.uiHandler (s : State) (c : Ctx) (v : Nat) : Option (Block × Warp) :=
  if !(s.ibPend c &&& ~~~(s.ibMask c) &&& s.ibBound c).getLsbD v then none
  else
    match s.block? ((s.ibGet c (0x2c0 + 8 * v) 8).getD 0) with
    | none => none
    | some b =>
      if b.res == .resident && b.ib.valid && b.ib.vecs.getLsbD v then
        (b.warp? b.ib.warp).map fun w => (b, w)
      else none

/-- The state after the interrupt block gives up vector v, with its payload and count (R313). -/
def State.uiTake (s : State) (c : Ctx) (v : Nat) : State × DWord × DWord :=
  let p := (s.ibGet c (0xc0 + 8 * v) 8).getD 0
  let n := (s.ibGet c (0x40 + 2 * v) 2).getD 0
  let s := s.ibPut c 8 8 (s.ibPend c &&& ~~~(vecBit v)).toNat
  let s := s.ibPut c (0xc0 + 8 * v) 8 0
  (s.ibPut c (0x40 + 2 * v) 2 0, BitVec.ofNat 64 p, BitVec.ofNat 64 n)

/-- A delivery written to `s0` to `s2` (R313). -/
def Warp.uiWrite (w : Warp) (v : Nat) (p n : DWord) : Warp :=
  ((w.sset 0 (BitVec.ofNat 64 v)).sset 1 p).sset 2 n

/-- Vector v delivered where it is deliverable, after a halt or a pre-emption that is due (R313, R344). -/
def State.uiDeliver1 (s : State) (c : Ctx) (v : Nat) : State :=
  match s.uiHandler c v with
  | none => s
  | some (b, w) =>
    match s.grid? b.grid with
    | none => s
    | some g =>
      if !w.inUiwait || w.st.pdbg || w.st.ppre || b.stop.isSome && (b.stop.map (·.2)) == some 2 then s
      else
        let r := s.uiTake c v
        r.1.releaseLanes b (w.uiWrite v r.2.1 r.2.2) g (liveLanes w.frontier) 4

/-- A queue whose swapped-out blocks hold a handler gets UILATCH (R314). -/
def State.uiLatch (s : State) (c : Ctx) (v : Nat) : State :=
  if !(s.ibPend c &&& ~~~(s.ibMask c) &&& s.ibBound c).getLsbD v then s
  else
    let key := (s.ibGet c (0x2c0 + 8 * v) 8).getD 0
    let intq := (s.ibGet c 50 2).getD 0
    match s.block? key, s.queues.find? fun q => q.ctx == c.num && q.qnum == intq with
    | some b, some q =>
      if b.res == .resident || s.queues.any (fun p => p.ctx == c.num && p.slot.isSome &&
          p.swapped.contains key) then s
      else if q.swapped.contains key then s.putQueue { q with uilatch := true } else s
    | _, _ => s

/-- Delivery examined for every vector of a context, lowest first (R313, R314). -/
def State.uiExamine (s : State) (n : Nat) : State :=
  match s.ctx? n with
  | none => s
  | some c =>
    if c.iblk.isNone then s
    else
      let s := (List.range 64).foldl (fun s v => s.uiDeliver1 c v) s
      (List.range 64).foldl (fun s v => s.uiLatch c v) s

/-- What a receiving package makes of a send (R308, R311). -/
inductive UiResult where
  | recorded
  | denied
  | refused
deriving DecidableEq, Repr

/-- The sender's context log gets a record of what became of its send (R317). -/
def State.uiTell (s : State) (m : Sender) (cause : BitVec 8) (v : Nat) : State :=
  match m with
  | .kernel n => s.logCtx n kDenied cause 0 (BitVec.ofNat 64 v)
  | .peer p x =>
    if p = s.pkg then
      match s.ctxs.find? fun c => c.pctx == some x with
      | some c => s.logCtx c.num kDenied cause 0 (BitVec.ofNat 64 v)
      | none => s
    else s
  | _ => s

/-- A send processed at its receiver (R308). -/
def State.uiReceive (s : State) (m : SendMsg) : State × UiResult :=
  let target := match m.ctx with
    | some n => s.ctx? n
    | none => s.ctxs.find? fun c => c.pctx == some m.pctx
  let v := m.vec.toNat
  match target with
  | none => (s, .refused)
  | some c =>
    match s.ibGet c 8 8 with
    | none => (s.logCtx c.num kDenied cPERM 0 (BitVec.ofNat 64 v), .denied)
    | some pend =>
      if !s.uiAllowed c m.sender v then
        let d := (s.ibGet c 44 4).getD 0
        ((s.ibPut c 44 4 (Nat.min (d + 1) 0xffffffff)).logCtx c.num kDenied cPERM 0
          (BitVec.ofNat 64 v), .denied)
      else
        let p : DWord := BitVec.ofNat 64 ((s.ibGet c (0xc0 + 8 * v) 8).getD 0)
        let n := (s.ibGet c (0x40 + 2 * v) 2).getD 0
        let s := s.ibPut c (0xc0 + 8 * v) 8 (p ||| m.payload).toNat
        let s := s.ibPut c (0x40 + 2 * v) 2 (Nat.min (n + 1) 0xffff)
        let s := s.ibPut c 8 8 (BitVec.ofNat 64 pend ||| vecBit v).toNat
        (s.uiExamine c.num, .recorded)

/-- UISEND_RECEIVE: a send that reaches its receiver within the package (R308). -/
def execUisendReceive (m : SendMsg) (s : State) : Out :=
  .next (
    if s.fwHeld then s.holdAtPort (.uisendReceive m)
    else
    let r := s.uiReceive m
    match r.2 with
    | .recorded => r.1
    | .denied => r.1.uiTell m.sender cPERM m.vec.toNat
    | .refused => r.1.uiTell m.sender cREMOTE m.vec.toNat)

/-- HOST_INTERRUPT_SEND: an 8-byte write to a function's interrupt send window (R310). -/
def execHostInterruptSend (fn off : Nat) (v : BitVec 64) (s : State) : Out :=
  .next (match s.func? fn with
  | none => s
  | some f =>
    if off % 8 ≠ 0 ∨ 0x20000 ≤ off then s.setFunc { f with errCount := f.errCount + 1 }
    else if s.fwHeld then s.holdAtPort (.hostInterruptSend fn off v)
    else
      match s.ctxs.find? fun c => c.fn == fn && c.c == off / 0x200 with
      | none => s.logPkg kDenied cPERM fn (BitVec.ofNat 64 off)
      | some c =>
        (s.uiReceive ⟨.host fn, some c.num, 0, BitVec.ofNat 6 (off % 0x200 / 8), v⟩).1)

/- ### The instructions of group 0x3d -/

/-- The vectors a warp unbinds or loses: BOUND and HANDLER cleared (R314, R316). -/
def State.uiClear (s : State) (c : Ctx) (vs : BitVec 64) : State :=
  let s := s.ibPut c 16 8 (s.ibBound c &&& ~~~vs).toNat
  (List.range 64).foldl (fun s v =>
    if vs.getLsbD v then s.ibPut c (0x2c0 + 8 * v) 8 0 else s) s

/-- The vectors of a handler warp that ends, or whose block ends, are unbound (R314). -/
def State.uiUnbind (s : State) (k n : Nat) : State :=
  match s.block? k with
  | none => s
  | some b =>
    if !b.ib.valid || b.ib.warp != n then s
    else
      match (s.grid? b.grid).bind fun g => s.ctx? g.ctx with
      | none => s
      | some c => (s.uiClear c b.ib.vecs).setBlock { b with ib := ⟨0, 0, false⟩ }

/-- uibind (R316). -/
def execUibind (wk : BitVec 8) (d a : BitVec 5) (u : Bool) (s : State) : Out :=
  issue (.uibind wk d a u) s fun x =>
    let want := x.w.sget a.toNat
    let answer (x : Site) (v : DWord) : State := (x.withW (x.w.sset d.toNat v)).done
    match x.ctx? with
    | none => answer x want
    | some c =>
      if (x.s.ibGet c 16 8).isNone then answer x want
      else
        let bound := x.s.ibBound c
        let mine := x.b.ib.valid && x.b.ib.warp == x.w.num
        if u then
          let vs := if mine then want &&& x.b.ib.vecs &&& bound else 0
          let left := x.b.ib.vecs &&& ~~~vs
          answer { x with
            s := if vs = 0 then x.s else x.s.uiClear c vs
            b := if mine then { x.b with ib := ⟨left, if left = 0 then 0 else x.w.num, left != 0⟩ }
              else x.b } (want &&& ~~~vs)
        else
          let vs := if mine || !x.b.ib.valid then want &&& ~~~bound else 0
          let all := x.b.ib.vecs ||| vs
          let s1 := x.s.ibPut c 16 8 (bound ||| vs).toNat
          let s2 := (List.range 64).foldl (fun s v =>
            if vs.getLsbD v then s.ibPut c (0x2c0 + 8 * v) 8 x.b.key else s) s1
          answer { x with
            s := if vs = 0 then x.s else s2
            b := if vs = 0 then x.b else { x.b with ib := ⟨all, x.w.num, true⟩ } } (want &&& ~~~vs)

/-- uisend (R309, R317): held in a region, released at once in exposed code. -/
def execUisend (c : Ctl) (a b : BitVec 5) (s : State) : Out :=
  issue (.uisend c a b) s fun x =>
    if x.acting c = 0 then x.done
    else if x.inRegion then
      (if 16 ≤ x.w.cmds.length then x.precise (.uisend c a b) (Cause.one .regovf 1)
      else (x.withW { x.w with
        cmds := x.w.cmds ++ [.uisend (x.w.sget a.toNat) (x.w.sget b.toNat)] }).done)
    else
      match x.ctx? with
      | none => x.done
      | some k =>
        if sendsToPeer (x.w.sget a.toNat) && x.w.acks != 0 then x.s
        else
        ({ x with s := x.s.releaseSend k (x.w.sget a.toNat) (x.w.sget b.toNat) }).done

/-- uiwait (R318): a commit point that parks the warp; without a bound vector it moves on. -/
def execUiwait (wk : BitVec 8) (s : State) : Out :=
  issueCommit (.uiwait wk) s fun x =>
    let bound := x.b.ib.valid && x.b.ib.warp == x.w.num &&
      ((x.ctx?.bind fun c => x.s.ibGet c 16 8).isSome)
    if !bound then
      (x.withW (x.w.sset 0 0xffffffffffffffff)).leaveCommit false 0 [(x.mask, .next)]
    else
      let waits := (lanes.filter fun l => x.mask.getLsbD l).map fun l =>
        (⟨l, x.pc + BitVec.ofNat 64 x.len, .uiwait⟩ : Wait)
      let s1 := (x.withW { x.w.endNpe with waits := x.w.waits ++ waits }).leaveCommit false 0
        [(x.mask, .park 4)]
      s1.uiExamine x.g.ctx

/-- uimask (R319). -/
def execUimask (wk : BitVec 8) (d a : BitVec 5) (op : MaskOp) (s : State) : Out :=
  issue (.uimask wk d a op) s fun x =>
    match x.ctx?.bind fun c => (x.s.ibGet c 0 8).map fun m => (c, m) with
    | none => (x.withW (x.w.sset d.toNat 0)).done
    | some (c, m) =>
      let old := BitVec.ofNat 64 m
      let v := x.w.sget a.toNat
      let new := match op with
        | .wr => v
        | .set => old ||| v
        | .clr => old &&& ~~~v
      let s1 := ({ x with s := x.s.ibPut c 0 8 new.toNat }.withW (x.w.sset d.toNat old)).done
      s1.uiExamine c.num

/-- The lowest vector that `uiret` may take for a warp (R318). -/
def Site.uiPending (x : Site) (c : Ctx) : Option Nat :=
  if x.b.ib.valid && x.b.ib.warp == x.w.num then
    (List.range 64).find? fun v => (x.s.uiHandler c v).any fun p => p.1.key == x.b.key
  else none

/-- uiret (R318). -/
def execUiret (wk : BitVec 8) (pd : BitVec 6) (s : State) : Out :=
  issue (.uiret wk pd) s fun x =>
    match x.ctx?.bind fun c => (x.uiPending c).map fun v => (c, v) with
    | none => (x.withW (x.w.pset pd.toNat x.mask 0)).done
    | some (c, v) =>
      let r := x.s.uiTake c v
      ({ x with s := r.1 }.withW ((x.w.uiWrite v r.2.1 r.2.2).pset pd.toNat x.mask x.mask)).done

end Sys2Proof.Machine
end

