-- ==== Sys2Proof/Machine/Float.lean ====
section
/-! DEFINITION. Floating-point values and rounding (R175 to R180), the transcendental functions of
R191 with one rounding, and the packing of selector blocks (R171 to R173). An exact magnitude is a
natural number times a power of two, with a sticky bit for a remainder below it. -/

namespace Sys2Proof.Machine

/-- An IEEE format: exponent bits and stored significand bits (R175). -/
structure Fmt where
  eb : Nat
  mb : Nat
deriving DecidableEq, Repr

/-- binary64 (R175). -/
def F64 : Fmt := ⟨11, 52⟩
/-- binary32 (R175). -/
def F32 : Fmt := ⟨8, 23⟩
/-- binary16 (R175). -/
def F16 : Fmt := ⟨5, 10⟩
/-- BF16 (R175). -/
def BF16 : Fmt := ⟨8, 7⟩

/-- The exponent bias. -/
def Fmt.bias (f : Fmt) : Nat := 2 ^ (f.eb - 1) - 1
/-- The exponent of the unit of the subnormals. -/
def Fmt.unit (f : Fmt) : Int := 1 - (f.bias : Int) - f.mb
/-- The weight of the sign bit. -/
def Fmt.signW (f : Fmt) : Nat := 2 ^ (f.eb + f.mb)
/-- The pattern of +Inf. -/
def Fmt.infBits (f : Fmt) : Nat := (2 ^ f.eb - 1) * 2 ^ f.mb
/-- The default NaN (R175). -/
def Fmt.nanBits (f : Fmt) : Nat := f.infBits + 2 ^ (f.mb - 1)
/-- The pattern with a sign. -/
def Fmt.withSign (f : Fmt) (neg : Bool) (x : Nat) : Nat := if neg then f.signW + x else x

/-- What a pattern means: a NaN, an infinity, or (-1)^neg × m × 2^e. -/
inductive FP where
  | nan (signalling : Bool)
  | inf (neg : Bool)
  | fin (neg : Bool) (m : Nat) (e : Int)
deriving DecidableEq, Repr

/-- The value of a pattern (R175). -/
def Fmt.decode (f : Fmt) (x : Nat) : FP :=
  let neg := x / f.signW % 2 == 1
  let ex := x / 2 ^ f.mb % 2 ^ f.eb
  let fr := x % 2 ^ f.mb
  if ex = 2 ^ f.eb - 1 then
    (if fr = 0 then .inf neg else .nan (fr / 2 ^ (f.mb - 1) == 0))
  else if ex = 0 then .fin neg fr f.unit
  else .fin neg (fr + 2 ^ f.mb) (f.unit + (ex - 1 : Int))

/-- A subnormal pattern. -/
def Fmt.isSub (f : Fmt) (x : Nat) : Bool := x / 2 ^ f.mb % 2 ^ f.eb == 0 && x % 2 ^ f.mb != 0

/-- A subnormal operand read as a zero of its sign under .ftz (R179). -/
def Fmt.flushIn (f : Fmt) (ftz : Bool) (x : Nat) : Nat :=
  if ftz && f.isSub x then f.withSign (x / f.signW % 2 == 1) 0 else x

/-- Whether rounding goes up from q with remainder class: above half, a tie, inexact (R177). -/
def roundUp (rm : Rm) (neg odd gt tie inexact : Bool) : Bool :=
  match rm with
  | .rn => gt || (tie && odd)
  | .rz => false
  | .ru => !neg && inexact
  | .rd => neg && inexact

/-- m × 2^e (more if sticky) in units of 2^u: the rounded count and whether it is inexact. -/
def roundTo (rm : Rm) (neg : Bool) (m : Nat) (e : Int) (sticky : Bool) (u : Int) : Nat × Bool :=
  if u ≤ e then
    let q := m * 2 ^ (e - u).toNat
    (if roundUp rm neg (q % 2 == 1) false false sticky then q + 1 else q, sticky)
  else
    let k := (u - e).toNat
    let q := m / 2 ^ k
    let r := m % 2 ^ k
    let half := 2 ^ (k - 1)
    let gt := decide (r > half) || (r == half && sticky)
    let tie := r == half && !sticky
    let ix := r != 0 || sticky
    (if roundUp rm neg (q % 2 == 1) gt tie ix then q + 1 else q, ix)

/-- The result of an overflow (R177). -/
def Fmt.overflow (f : Fmt) (rm : Rm) (neg : Bool) : Nat :=
  let toInf := match rm with
    | .rn => true
    | .rz => false
    | .ru => !neg
    | .rd => neg
  f.withSign neg (if toInf then f.infBits else f.infBits - 1)

/-- An exact nonzero magnitude m × 2^e (and more below it if sticky) rounded once (R178): the pattern
and the flags. Tininess is judged after rounding with an unbounded exponent. -/
def Fmt.round (f : Fmt) (rm : Rm) (neg : Bool) (m : Nat) (e : Int) (sticky : Bool) :
    Nat × BitVec 5 :=
  let len : Int := (if m = 0 then 0 else Nat.log2 m + 1 : Nat)
  let free : Int := e + len - (f.mb + 1)
  let u := if free < f.unit then f.unit else free
  let (q, ix) := roundTo rm neg m e sticky u
  let big := (u - f.unit).toNat * 2 ^ f.mb + q
  if f.infBits ≤ big then (f.overflow rm neg, fOVF ||| fINX)
  else
    let (q2, _) := roundTo rm neg m e sticky free
    let tiny := decide (free < f.unit) &&
      !(free + 1 == f.unit && q2 == 2 ^ (f.mb + 1))
    (f.withSign neg big, (if ix then fINX else 0) ||| (if ix && tiny then fUNF else 0))

/-- A rounded result under .ftz: a subnormal, or a zero of a nonzero value, is flushed (R179). -/
def Fmt.flushOut (f : Fmt) (ftz nonzero : Bool) (r : Nat × BitVec 5) : Nat × BitVec 5 :=
  let mag := r.1 % f.signW
  if ftz && (f.isSub r.1 || (mag == 0 && nonzero)) then
    (f.withSign (r.1 / f.signW % 2 == 1) 0, r.2 ||| fUNF ||| fINX)
  else r

/-- The default NaN, with INV if the condition holds (R175). -/
def Fmt.nan (f : Fmt) (inv : Bool) : Nat × BitVec 5 := (f.nanBits, if inv then fINV else 0)

/-- Whether a value is a signalling NaN. -/
def FP.isSnan : FP → Bool
  | .nan s => s
  | _ => false
/-- Whether a value is a NaN. -/
def FP.isNan : FP → Bool
  | .nan _ => true
  | _ => false

/-- A signed integer magnitude times 2^e, as an exact value. -/
def signedVal (neg : Bool) (m : Nat) : Int := if neg then -(m : Int) else m

/-- An exact sum n × 2^e rounded; an exact zero takes `zneg` (R178). -/
def Fmt.roundInt (f : Fmt) (rm : Rm) (ftz : Bool) (n : Int) (e : Int) (zneg : Bool) :
    Nat × BitVec 5 :=
  if n = 0 then (f.withSign zneg 0, 0)
  else f.flushOut ftz true (f.round rm (decide (n < 0)) n.natAbs e false)

/-- The sign of an exact zero sum of addends with these signs (R178). -/
def zeroSign (rm : Rm) (na nb : Bool) : Bool := if na == nb then na else rm == .rd

/-- a + b (R188). -/
def Fmt.add (f : Fmt) (rm : Rm) (ftz : Bool) (a b : Nat) : Nat × BitVec 5 :=
  let x := f.decode (f.flushIn ftz a)
  let y := f.decode (f.flushIn ftz b)
  if x.isNan || y.isNan then f.nan (x.isSnan || y.isSnan)
  else
    match x, y with
    | .inf s, .inf t => if s = t then (f.withSign s f.infBits, 0) else f.nan true
    | .inf s, _ => (f.withSign s f.infBits, 0)
    | _, .inf t => (f.withSign t f.infBits, 0)
    | .fin s m e, .fin t n g =>
      let k := if e ≤ g then e else g
      f.roundInt rm ftz
        (signedVal s m * 2 ^ (e - k).toNat + signedVal t n * 2 ^ (g - k).toNat) k (zeroSign rm s t)
    | _, _ => f.nan false

/-- The pattern with its sign inverted, a NaN unchanged in class. -/
def Fmt.negate (f : Fmt) (x : Nat) : Nat :=
  if x / f.signW % 2 = 1 then x - f.signW else x + f.signW

/-- a - b (R188). -/
def Fmt.sub (f : Fmt) (rm : Rm) (ftz : Bool) (a b : Nat) : Nat × BitVec 5 :=
  f.add rm ftz a (f.negate b)

/-- a × b (R188). -/
def Fmt.mul (f : Fmt) (rm : Rm) (ftz : Bool) (a b : Nat) : Nat × BitVec 5 :=
  let x := f.decode (f.flushIn ftz a)
  let y := f.decode (f.flushIn ftz b)
  if x.isNan || y.isNan then f.nan (x.isSnan || y.isSnan)
  else
    match x, y with
    | .inf s, .inf t => (f.withSign (s != t) f.infBits, 0)
    | .inf s, .fin t n _ => if n = 0 then f.nan true else (f.withSign (s != t) f.infBits, 0)
    | .fin s m _, .inf t => if m = 0 then f.nan true else (f.withSign (s != t) f.infBits, 0)
    | .fin s m e, .fin t n g =>
      f.roundInt rm ftz (signedVal (s != t) (m * n)) (e + g) (s != t)
    | _, _ => f.nan false

/-- a × b + c with one rounding (R188). -/
def Fmt.fma (f : Fmt) (rm : Rm) (ftz : Bool) (a b c : Nat) : Nat × BitVec 5 :=
  let x := f.decode (f.flushIn ftz a)
  let y := f.decode (f.flushIn ftz b)
  let z := f.decode (f.flushIn ftz c)
  let zeroInf :=
    match x, y with
    | .inf _, .fin _ n _ => n == 0
    | .fin _ m _, .inf _ => m == 0
    | _, _ => false
  if x.isSnan || y.isSnan || z.isSnan || zeroInf then f.nan true
  else if x.isNan || y.isNan || z.isNan then f.nan false
  else
    let neg := (match x with | .inf s => s | .fin s _ _ => s | .nan _ => false) !=
      (match y with | .inf s => s | .fin s _ _ => s | .nan _ => false)
    match x, y, z with
    | .fin _ m e, .fin _ n g, .fin t c h =>
      let eg := e + g
      let k := if eg ≤ h then eg else h
      f.roundInt rm ftz
        (signedVal neg (m * n) * 2 ^ (eg - k).toNat + signedVal t c * 2 ^ (h - k).toNat) k
        (zeroSign rm neg t)
    | .fin _ _ _, .fin _ _ _, .inf t => (f.withSign t f.infBits, 0)
    | _, _, .inf t => if neg = t then (f.withSign t f.infBits, 0) else f.nan true
    | _, _, _ => (f.withSign neg f.infBits, 0)

/-- Comparison of two values that are no NaN, -0 equal to +0: -1, 0 or 1. -/
def FP.cmp (x y : FP) : Int :=
  match x, y with
  | .inf s, .inf t => if s = t then 0 else if s then -1 else 1
  | .inf s, _ => if s then -1 else 1
  | _, .inf t => if t then 1 else -1
  | .fin s m e, .fin t n g =>
    let k := if e ≤ g then e else g
    let d := signedVal s m * 2 ^ (e - k).toNat - signedVal t n * 2 ^ (g - k).toNat
    if d < 0 then -1 else if d = 0 then 0 else 1
  | _, _ => 0

/-- The sign of a value that is no NaN. -/
def FP.neg : FP → Bool
  | .inf s => s
  | .fin s _ _ => s
  | .nan _ => false

/-- fmin and fmax, -0 below +0 (R189). -/
def Fmt.minmax (f : Fmt) (isMax ftz : Bool) (a b : Nat) : Nat × BitVec 5 :=
  let a := f.flushIn ftz a
  let b := f.flushIn ftz b
  let x := f.decode a
  let y := f.decode b
  let fl := if x.isSnan || y.isSnan then fINV else 0
  if x.isNan && y.isNan then (f.nanBits, fl)
  else if x.isNan then (b, fl)
  else if y.isNan then (a, fl)
  else
    let c := x.cmp y
    let less := decide (c < 0) || (c == 0 && x.neg && !y.neg)
    (if less == isMax then (if c == 0 && x.neg == y.neg then a else b) else a, fl)

/-- fcmp: the condition and the flags (R190). -/
def Fmt.compare (f : Fmt) (cond : FCond) (ftz : Bool) (a b : Nat) : Bool × BitVec 5 :=
  let x := f.decode (f.flushIn ftz a)
  let y := f.decode (f.flushIn ftz b)
  let un := x.isNan || y.isNan
  let sn := x.isSnan || y.isSnan
  let c := x.cmp y
  let quiet := if sn then fINV else 0
  let loud := if un then fINV else 0
  match cond with
  | .eq => (!un && c == 0, quiet)
  | .ne => (un || c != 0, quiet)
  | .lt => (!un && decide (c < 0), loud)
  | .le => (!un && decide (c ≤ 0), loud)
  | .gt => (!un && decide (0 < c), loud)
  | .ge => (!un && decide (0 ≤ c), loud)
  | .un => (un, quiet)
  | .num => (!un, quiet)

/- ### Division, roots, and the transcendental functions (R191) -/

/-- The integer square root by digits: k more bits to try. -/
def isqrtGo (n : Nat) : Nat → Nat → Nat
  | 0, r => r
  | k + 1, r =>
    let t := r + 2 ^ k
    isqrtGo n k (if t * t ≤ n then t else r)

/-- The integer square root. -/
def isqrt (n : Nat) : Nat := isqrtGo n (Nat.log2 n / 2 + 1) 0

/-- The value and flags of a one-operand function on finite nonzero operands, with the special cases
given (R191). -/
def Fmt.unary (f : Fmt) (ftz : Bool) (a : Nat) (onInf onZero : Bool → Nat × BitVec 5)
    (onFin : Bool → Nat → Int → Nat × BitVec 5) : Nat × BitVec 5 :=
  match f.decode (f.flushIn ftz a) with
  | .nan s => f.nan s
  | .inf s => onInf s
  | .fin s m e =>
    if m = 0 then onZero s
    else f.flushOut ftz ((onFin s m e).2 &&& fINX != 0) (onFin s m e)

/-- frcp (R191). -/
def Fmt.rcp (f : Fmt) (rm : Rm) (ftz : Bool) (a : Nat) : Nat × BitVec 5 :=
  f.unary ftz a (fun s => (f.withSign s 0, 0)) (fun s => (f.withSign s f.infBits, fDZ))
    fun s m e =>
      let k := 128 + Nat.log2 m
      f.round rm s (2 ^ k / m) (-e - k) (2 ^ k % m != 0)

/-- fsqrt (R191). -/
def Fmt.sqrt (f : Fmt) (rm : Rm) (ftz : Bool) (a : Nat) : Nat × BitVec 5 :=
  f.unary ftz a (fun s => if s then f.nan true else (f.infBits, 0))
    (fun s => (f.withSign s 0, 0))
    fun s m e =>
      if s then f.nan true
      else
        let e' := if e % 2 = 0 then e else e - 1
        let n := (if e % 2 = 0 then m else 2 * m) * 2 ^ 256
        f.round rm false (isqrt n) (e' / 2 - 128) (isqrt n * isqrt n != n)

/-- frsq (R191). -/
def Fmt.rsq (f : Fmt) (rm : Rm) (ftz : Bool) (a : Nat) : Nat × BitVec 5 :=
  f.unary ftz a (fun s => if s then f.nan true else (0, 0))
    (fun s => (f.withSign s f.infBits, fDZ))
    fun s m e =>
      if s then f.nan true
      else
        let e' := if e % 2 = 0 then e else e - 1
        let d := if e % 2 = 0 then m else 2 * m
        let q := isqrt (2 ^ 512 / d)
        f.round rm false q (-(e' / 2) - 256) (q * q * d != 2 ^ 512)

/-- Fraction bits of the fixed-point series (log entry 9: DEDUCED). -/
def fixBits : Nat := 448
/-- One in fixed point. -/
def fixOne : Nat := 2 ^ fixBits

/-- The odd series z + z^3/3 + ... (alternating for the arctangent): n more terms, power p. -/
def oddSeries (alt : Bool) (z2 : Nat) : Nat → Nat → Nat → Int → Int
  | 0, _, _, acc => acc
  | n + 1, k, p, acc =>
    oddSeries alt z2 n (k + 1) (p * z2 / fixOne)
      (if alt && k % 2 = 1 then acc - (p / (2 * k + 1) : Nat) else acc + (p / (2 * k + 1) : Nat))

/-- artanh z in fixed point for z of at most 1/3. -/
def fixArtanh (z : Nat) : Nat := (oddSeries false (z * z / fixOne) 150 0 z 0).toNat
/-- The natural logarithm of 2 in fixed point. -/
def fixLn2 : Nat := 2 * fixArtanh (fixOne / 3)
/-- Pi in fixed point (Machin). -/
def fixPi : Nat :=
  (16 * oddSeries true (fixOne / 25) 100 0 (fixOne / 5) 0 -
    4 * oddSeries true (fixOne / 57121) 40 0 (fixOne / 239) 0).toNat

/-- The exponential series of y: n more terms, the k-th term t. -/
def expSeries (y : Nat) : Nat → Nat → Nat → Nat → Nat
  | 0, _, _, acc => acc
  | n + 1, k, t, acc => expSeries y n (k + 1) (t * y / fixOne / (k + 1)) (acc + t)

/-- The sine series of y: n more terms. -/
def sinSeries (y2 : Nat) : Nat → Nat → Nat → Int → Int
  | 0, _, _, acc => acc
  | n + 1, k, t, acc =>
    sinSeries y2 n (k + 1) (t * y2 / fixOne / ((2 * k + 2) * (2 * k + 3)))
      (if k % 2 = 1 then acc - (t : Int) else acc + (t : Int))

/-- fex2 (R191). An argument that is no integer has an irrational result. -/
def Fmt.ex2 (f : Fmt) (rm : Rm) (ftz : Bool) (a : Nat) : Nat × BitVec 5 :=
  f.unary ftz a (fun s => if s then (0, 0) else (f.infBits, 0))
    (fun _ => (f.bias * 2 ^ f.mb, 0))
    fun s m e =>
      if 16 ≤ (Nat.log2 m : Int) + e then
        (if s then f.round rm false 1 (-65536) false else f.round rm false 1 65536 false)
      else
        let num : Int := signedVal s m
        let d : Nat := 2 ^ (-e).toNat
        let num : Int := if 0 ≤ e then num * 2 ^ e.toNat else num
        let n : Int := Int.fdiv num d
        let frac : Nat := (Int.fmod num d).toNat
        if frac = 0 then f.round rm false 1 n false
        else
          f.round rm false (expSeries (frac * fixLn2 / d) 110 0 fixOne 0) (n - fixBits) true

/-- flg2 (R191). Only a power of two has a rational result. -/
def Fmt.lg2 (f : Fmt) (rm : Rm) (ftz : Bool) (a : Nat) : Nat × BitVec 5 :=
  f.unary ftz a (fun s => if s then f.nan true else (f.infBits, 0))
    (fun _ => (f.withSign true f.infBits, fDZ))
    fun s m e =>
      if s then f.nan true
      else
        let k := Nat.log2 m
        let n : Int := e + k
        if m = 2 ^ k then
          (if n = 0 then (0, 0) else f.round rm (decide (n < 0)) n.natAbs 0 false)
        else
          let z := (m - 2 ^ k) * fixOne / (m + 2 ^ k)
          let v : Int := n * fixOne + (2 * fixArtanh z * fixOne / fixLn2 : Nat)
          f.round rm (decide (v < 0)) v.natAbs (-(fixBits : Int)) true

/-- sin of pi times num / 2^k (R191): exact where twice the argument is an integer, irrational
elsewhere; `zneg` is the sign of a zero result. -/
def Fmt.sinPi (f : Fmt) (rm : Rm) (num : Int) (k : Nat) (zneg : Bool) : Nat × BitVec 5 :=
  let d : Nat := 2 ^ k
  let r : Nat := (Int.fmod num (2 * d)).toNat
  let neg := decide (d ≤ r)
  let r := if neg then r - d else r
  if r = 0 then (f.withSign zneg 0, 0)
  else if 2 * r = d then (f.withSign neg (f.bias * 2 ^ f.mb), 0)
  else
    let x := if d < 2 * r then d - r else r
    let y := x * fixPi / d
    f.round rm neg (sinSeries (y * y / fixOne) 70 0 y 0).toNat (-(fixBits : Int)) true

/-- fsin: the angle in half-turns (R191). -/
def Fmt.sin (f : Fmt) (rm : Rm) (ftz : Bool) (a : Nat) : Nat × BitVec 5 :=
  f.unary ftz a (fun _ => f.nan true) (fun s => (f.withSign s 0, 0))
    fun s m e =>
      if 0 ≤ e then (f.withSign s 0, 0)
      else
        f.sinPi rm (signedVal s m) (-e).toNat s

/-- fcos: the angle in half-turns (R191). -/
def Fmt.cos (f : Fmt) (rm : Rm) (ftz : Bool) (a : Nat) : Nat × BitVec 5 :=
  f.unary ftz a (fun _ => f.nan true) (fun _ => (f.bias * 2 ^ f.mb, 0))
    fun s m e =>
      if 1 ≤ e then (f.bias * 2 ^ f.mb, 0)
      else
        let k := (-e).toNat + 1
        f.sinPi rm (2 * signedVal s m + 2 ^ (k - 1)) k false

/-- The value rounded to an integer under RM: the magnitude and whether it is inexact (R180). -/
def roundIntegral (rm : Rm) (neg : Bool) (m : Nat) (e : Int) : Nat × Bool := roundTo rm neg m e false 0

/-- frnd (R192): no flag but INV. -/
def Fmt.rnd (f : Fmt) (rm : Rm) (ftz : Bool) (a : Nat) : Nat × BitVec 5 :=
  let a := f.flushIn ftz a
  match f.decode a with
  | .nan s => f.nan s
  | .inf _ => (a, 0)
  | .fin s m e =>
    let q := (roundIntegral rm s m e).1
    if q = 0 then (f.withSign s 0, 0) else ((f.round rm s q 0 false).1, 0)

/-- The class bit of fcls (R192). -/
def Fmt.cls (f : Fmt) (a : Nat) : Nat :=
  match f.decode a with
  | .nan true => 0
  | .nan false => 1
  | .inf true => 2
  | .inf false => 9
  | .fin s m _ =>
    if m = 0 then (if s then 5 else 6)
    else if f.isSub a then (if s then 4 else 7)
    else (if s then 3 else 8)

/-- fsgn (R192). -/
def Fmt.sgn (f : Fmt) (op : SgnOp) (a b : Nat) : Nat :=
  if (f.decode a).isNan then f.nanBits
  else
    let sa := a / f.signW % 2 == 1
    let sb := b / f.signW % 2 == 1
    f.withSign (match op with
      | .cp => sb
      | .cpn => !sb
      | .xs => sa != sb) (a % f.signW)

/- ### Conversions (R180, R194) -/

/-- A conversion between floating formats, one rounding, .ftz on both sides (R178, R179, R194). -/
def convFF (src dst : Fmt) (rm : Rm) (ftzIn ftzOut : Bool) (a : Nat) : Nat × BitVec 5 :=
  match src.decode (src.flushIn ftzIn a) with
  | .nan s => dst.nan s
  | .inf s => (dst.withSign s dst.infBits, 0)
  | .fin s m e =>
    if m = 0 then (dst.withSign s 0, 0) else dst.flushOut ftzOut true (dst.round rm s m e false)

/-- Floating point to integer: the integer in bounds and the flags (R180). -/
def convFI (src : Fmt) (rm : Rm) (ftz : Bool) (lo hi : Int) (a : Nat) : Int × BitVec 5 :=
  match src.decode (src.flushIn ftz a) with
  | .nan _ => (0, fINV)
  | .inf s => (if s then lo else hi, fINV)
  | .fin s m e =>
    let (q, ix) := roundIntegral rm s m e
    let v := signedVal s q
    if v < lo then (lo, fINV)
    else if hi < v then (hi, fINV)
    else (v, if ix then fINX else 0)

/-- Integer to floating point (R180). -/
def convIF (dst : Fmt) (rm : Rm) (ftz : Bool) (n : Int) : Nat × BitVec 5 := dst.roundInt rm ftz n 0 false

/- ### Selector blocks (R171 to R173) -/

/-- K of a format (R171). -/
def sbK : SbFmt → Nat
  | .sb4 => 128
  | .sb8 => 132
  | .sb16 => 140

/-- Bits of the magnitude field. -/
def sbMBits : SbFmt → Nat
  | .sb4 => 2
  | .sb8 => 6
  | .sb16 => 14

/-- The default gap of R173. -/
def sbGap : SbFmt → Nat
  | .sb4 => 2
  | .sb8 => 6
  | .sb16 => 14

/-- An element's selector, sign and magnitude (R171). -/
def sbSplit (f : SbFmt) (x : Nat) : Bool × Bool × Nat :=
  let mb := sbMBits f
  (x / 2 ^ (mb + 1) % 2 == 1, x / 2 ^ mb % 2 == 1, x % 2 ^ mb)

/-- The element of a selector, sign and magnitude. -/
def sbJoin (f : SbFmt) (sel s : Bool) (m : Nat) : Nat :=
  (if sel then 2 ^ (sbMBits f + 1) else 0) + (if s then 2 ^ sbMBits f else 0) + m

/-- An element as sign, magnitude and exponent, (0, 0, 0) where it reads as +0, and its flag
(R172). -/
def sbResolve (f : SbFmt) (x e0 e1 : Nat) : (Bool × Nat × Nat) × BitVec 5 :=
  let (sel, s, m) := sbSplit f x
  let e := if sel then e1 else e0
  if e = 0xff then ((false, 0, 0), fINV)
  else if e = 0 || m = 0 then ((false, 0, 0), 0)
  else ((s, m, e), 0)

/-- The nearest integer, ties to even, of m × 2^e, and whether it is inexact. -/
def rne (m : Nat) (e : Int) : Nat × Bool := roundTo .rn false m e false 0

/-- One element packed under R173: the element and its flags. -/
def packOne (f : SbFmt) (c e0 e1 : Nat) (x : FP) : Nat × BitVec 5 :=
  match x with
  | .nan _ => (0, fINV)
  | .inf s => (sbJoin f true (s && c != 0) c, fOVF)
  | .fin s m e =>
    let k := (sbK f : Int)
    let (m0, ix0) := rne m (e + (k - e0))
    let (sel, q, ix) :=
      if c < m0 then
        let (m1, ix1) := rne m (e + (k - e1))
        if c < m1 then (true, c, true) else (true, m1, ix1)
      else (false, m0, ix0)
    (sbJoin f sel (s && q != 0) q,
      (if ix then fINX else 0) ||| (if q == 0 && m != 0 then fUNF else 0))

/-- The exponent floor (log2 |x|) + 127 of a finite nonzero value, if it is one. -/
def fpExp : FP → Option Int
  | .fin _ m e => if m = 0 then none else some (e + Nat.log2 m + 127)
  | _ => none

/-- Whether a value is an infinity. -/
def FP.isInf : FP → Bool
  | .inf _ => true
  | _ => false

/-- packed_block of R173: E0, E1, the 32 elements and the flags. -/
def packBlock (f : SbFmt) (c d : Nat) (x : List FP) : Nat × Nat × List Nat × BitVec 5 :=
  let top : Option Int := x.foldl (fun t v =>
    match t, fpExp v with
    | none, r => r
    | some a, some b => some (if a < b then b else a)
    | t, none => t) none
  let nanFlag := if x.any FP.isNan then fINV else 0
  match top with
  | none =>
    if x.any FP.isInf then
      let els := x.map (packOne f c (Nat.max (254 - d) 1) 254)
      (Nat.max (254 - d) 1, 254, els.map (·.1), els.foldl (fun a p => a ||| p.2) nanFlag)
    else (0, 0, x.map fun _ => 0, nanFlag)
  | some t =>
    let e1 : Nat := (if t < 1 then 1 else if 254 < t then 254 else t).toNat
    let e0 := Nat.max (e1 - d) 1
    let els := x.map (packOne f c e0 e1)
    (e0, e1, els.map (·.1), els.foldl (fun a p => a ||| p.2) nanFlag)

end Sys2Proof.Machine
end

