-- ==== Sys2Proof/Machine/Integer.lean ====
section
/-! DEFINITION. Vector integer and address instructions, groups 0x08 to 0x13 (R154 to R161). -/

namespace Sys2Proof.Machine

/-- Writes f's value to the single register d in each acting lane and moves on (R120, R125). -/
def vec32 (i : Instr) (d : BitVec 8) (f : Warp → Nat → Word) (s : State) : Out :=
  issue i s fun x =>
    (x.withW (x.w.eachLane (x.acting (instrCtl i)) fun w l => w.vset d.toNat l (f x.w l))).done

/-- Writes f's value to the pair d in each acting lane and moves on. -/
def vec64 (i : Instr) (d : BitVec 8) (f : Warp → Nat → DWord) (s : State) : Out :=
  issue i s fun x =>
    (x.withW (x.w.eachLane (x.acting (instrCtl i)) fun w l => w.vset64 d.toNat l (f x.w l))).done

/-- Writes f's value to the predicate d in each acting lane and moves on. -/
def vecPred (i : Instr) (d : BitVec 6) (f : Warp → Nat → Bool) (s : State) : Out :=
  issue i s fun x =>
    (x.withW (x.w.pset d.toNat (x.acting (instrCtl i)) (maskOf (f x.w)))).done

/-- Whether a type is signed (R143). -/
def tySigned : Ty → Bool
  | .s32 => true
  | .s64 => true
  | .n32 => false
  | .n64 => false

/-- A w-bit pattern read as signed or unsigned (R155). -/
def intOf {w : Nat} (signed : Bool) (x : BitVec w) : Int := if signed then x.toInt else (x.toNat : Int)

/-- The lowest value of a w-bit type (R176). -/
def intLow (signed : Bool) (w : Nat) : Int := if signed then -(2 ^ (w - 1) : Int) else 0
/-- The highest value of a w-bit type (R176). -/
def intHigh (signed : Bool) (w : Nat) : Int :=
  if signed then (2 ^ (w - 1) : Int) - 1 else (2 ^ w : Int) - 1

/-- The value held within the bounds. -/
def clampInt (lo hi x : Int) : Int := if x < lo then lo else if hi < x then hi else x

/-- The result of exact arithmetic in w bits: clamped under SAT, else modulo 2^w (R155). -/
def narrow (w : Nat) (signed sat : Bool) (x : Int) : BitVec w :=
  BitVec.ofInt w (if sat then clampInt (intLow signed w) (intHigh signed w) x else x)

/-- Two-operand exact arithmetic (R155). -/
def arith2 (i : Instr) (d a : BitVec 8) (b : OpB) (ty : Ty) (sat : Bool) (f : Int → Int → Int)
    (s : State) : Out :=
  let sg := tySigned ty
  if ty.w64 then
    vec64 i d (fun w l =>
      narrow 64 sg sat (f (intOf sg (w.vget64 a.toNat l)) (intOf sg (w.opb64 b l)))) s
  else
    vec32 i d (fun w l =>
      narrow 32 sg sat (f (intOf sg (w.vget a.toNat l)) (intOf sg (w.opb32 b l)))) s

/-- Three-operand exact arithmetic (R155). -/
def arith3 (i : Instr) (d a : BitVec 8) (b : OpB) (c : BitVec 8) (ty : Ty) (sat : Bool)
    (f : Int → Int → Int → Int) (s : State) : Out :=
  let sg := tySigned ty
  if ty.w64 then
    vec64 i d (fun w l => narrow 64 sg sat
      (f (intOf sg (w.vget64 a.toNat l)) (intOf sg (w.opb64 b l)) (intOf sg (w.vget64 c.toNat l)))) s
  else
    vec32 i d (fun w l => narrow 32 sg sat
      (f (intOf sg (w.vget a.toNat l)) (intOf sg (w.opb32 b l)) (intOf sg (w.vget c.toNat l)))) s

/-- One-operand signed arithmetic (R155). -/
def arith1 (i : Instr) (d a : BitVec 8) (w64 sat : Bool) (f : Int → Int) (s : State) : Out :=
  if w64 then vec64 i d (fun w l => narrow 64 true sat (f (w.vget64 a.toNat l).toInt)) s
  else vec32 i d (fun w l => narrow 32 true sat (f (w.vget a.toNat l).toInt)) s

/-- Two-operand operations on patterns (R156). -/
def logic2 (i : Instr) (d a : BitVec 8) (b : OpB) (w64 : Bool) (f : Word → Word → Word)
    (g : DWord → DWord → DWord) (s : State) : Out :=
  if w64 then vec64 i d (fun w l => g (w.vget64 a.toNat l) (w.opb64 b l)) s
  else vec32 i d (fun w l => f (w.vget a.toNat l) (w.opb32 b l)) s

/-- One-operand operations on patterns. -/
def logic1 (i : Instr) (d a : BitVec 8) (w64 : Bool) (f : Word → Word) (g : DWord → DWord)
    (s : State) : Out :=
  if w64 then vec64 i d (fun w l => g (w.vget64 a.toNat l)) s
  else vec32 i d (fun w l => f (w.vget a.toNat l)) s

/-- Operations with a 32-bit control operand (R143, R156, R157). -/
def control2 (i : Instr) (d a : BitVec 8) (b : OpB) (w64 : Bool) (f : Word → Word → Word)
    (g : DWord → Word → DWord) (s : State) : Out :=
  if w64 then vec64 i d (fun w l => g (w.vget64 a.toNat l) (w.opb32 b l)) s
  else vec32 i d (fun w l => f (w.vget a.toNat l) (w.opb32 b l)) s

/-- A shift count: control bits [7:0] (R156). -/
def shiftCount (c : Word) : Nat := (c.extractLsb' 0 8).toNat

/-- tern: each bit of the result is the table's bit C B A (R156). -/
def ternBits {w : Nat} (table : BitVec 8) (a b c : BitVec w) : BitVec w :=
  let pick (k : Nat) : Bool :=
    table.getLsbD ((if c.getLsbD k then 4 else 0) + (if b.getLsbD k then 2 else 0) +
      (if a.getLsbD k then 1 else 0))
  BitVec.ofNat w ((List.range w).map fun k => if pick k then 2 ^ k else 0).sum

/-- The number of bits of a field: min (len, w - pos), 0 when pos is at or beyond w (R157). -/
def fieldLen (w : Nat) (c : Word) : Nat :=
  let pos := (c.extractLsb' 0 8).toNat
  let len := (c.extractLsb' 8 8).toNat
  if pos < w then Nat.min len (w - pos) else 0

/-- bfe (R157). -/
def bfeVal {w : Nat} (signed : Bool) (a : BitVec w) (c : Word) : BitVec w :=
  let pos := (c.extractLsb' 0 8).toNat
  let n := fieldLen w c
  let field := (a >>> pos).extractLsb' 0 n
  if signed then field.signExtend w else field.setWidth w

/-- bfi (R157). -/
def bfiVal {w : Nat} (a : BitVec w) (ctl : Word) (c : BitVec w) : BitVec w :=
  let pos := (ctl.extractLsb' 0 8).toNat
  let n := fieldLen w ctl
  let mask : BitVec w := BitVec.ofNat w (2 ^ n - 1) <<< pos
  (c &&& ~~~mask) ||| ((a <<< pos) &&& mask)

/-- The number of one bits (R157). -/
def popcVal {w : Nat} (a : BitVec w) : Nat := ((List.range w).filter fun k => a.getLsbD k).length

/-- The number of leading zero bits (R157). -/
def clzVal {w : Nat} (a : BitVec w) : Nat :=
  ((List.range w).takeWhile fun k => a.getLsbD (w - 1 - k) == false).length

/-- The bits in reverse order (R157). -/
def brevVal {w : Nat} (a : BitVec w) : BitVec w := a.reverse

/-- The comparisons of R158. -/
def condInt : Cond → Int → Int → Bool
  | .eq, a, b => a == b
  | .ne, a, b => a != b
  | .lt, a, b => decide (a < b)
  | .le, a, b => decide (a ≤ b)
  | .gt, a, b => decide (b < a)
  | .ge, a, b => decide (b ≤ a)

/-- add under LEN 00 (R97, R103, R155). -/
def execAddShort (d a b : BitVec 8) (s : State) : Out :=
  arith2 (.addShort d a b) d a (.reg b) .s32 false (· + ·) s
/-- add under LEN 10 (R97, R104, R155). -/
def execAddLit (d a : BitVec 8) (l : BitVec 32) (s : State) : Out :=
  arith2 (.addLit d a l) d a (.lit (0#32 ++ l)) .s32 false (· + ·) s
/-- add (R155). -/
def execAdd (c : Ctl) (d a : BitVec 8) (b : OpB) (ty : Ty) (sat : Bool) (s : State) : Out :=
  arith2 (.add c d a b ty sat) d a b ty sat (· + ·) s
/-- sub (R155). -/
def execSub (c : Ctl) (d a : BitVec 8) (b : OpB) (ty : Ty) (sat : Bool) (s : State) : Out :=
  arith2 (.sub c d a b ty sat) d a b ty sat (· - ·) s
/-- add3 (R155). -/
def execAdd3 (c : Ctl) (d a : BitVec 8) (b : OpB) (rc : BitVec 8) (ty : Ty) (sat : Bool)
    (s : State) : Out :=
  arith3 (.add3 c d a b rc ty sat) d a b rc ty sat (fun p q r => p + q + r) s
/-- mul.lo (R155). -/
def execMulLo (c : Ctl) (d a : BitVec 8) (b : OpB) (ty : Ty) (s : State) : Out :=
  arith2 (.mulLo c d a b ty) d a b ty false (· * ·) s
/-- mul.hi: the product's high half, rounded down (R155). -/
def execMulHi (c : Ctl) (d a : BitVec 8) (b : OpB) (ty : Ty) (s : State) : Out :=
  arith2 (.mulHi c d a b ty) d a b ty false
    (fun p q => Int.fdiv (p * q) (2 ^ (if ty.w64 then 64 else 32))) s
/-- mad (R155). -/
def execMad (c : Ctl) (d a : BitVec 8) (b : OpB) (rc : BitVec 8) (ty : Ty) (s : State) : Out :=
  arith3 (.mad c d a b rc ty) d a b rc ty false (fun p q r => p * q + r) s
/-- mad.wide: 32-bit factors, a 64-bit addend and result (R155). -/
def execMadWide (c : Ctl) (d a : BitVec 8) (b : OpB) (rc : BitVec 8) (sgn : Bool) (s : State) : Out :=
  vec64 (.madWide c d a b rc sgn) d (fun w l =>
    BitVec.ofInt 64 (intOf sgn (w.vget a.toNat l) * intOf sgn (w.opb32 b l) +
      intOf sgn (w.vget64 rc.toNat l))) s
/-- min (R155). -/
def execMin (c : Ctl) (d a : BitVec 8) (b : OpB) (ty : Ty) (s : State) : Out :=
  arith2 (.min c d a b ty) d a b ty false (fun p q => if p ≤ q then p else q) s
/-- max (R155). -/
def execMax (c : Ctl) (d a : BitVec 8) (b : OpB) (ty : Ty) (s : State) : Out :=
  arith2 (.max c d a b ty) d a b ty false (fun p q => if p ≤ q then q else p) s
/-- abs (R155). -/
def execAbs (c : Ctl) (d a : BitVec 8) (w64 sat : Bool) (s : State) : Out :=
  arith1 (.abs c d a w64 sat) d a w64 sat (fun p => (p.natAbs : Int)) s
/-- neg (R155). -/
def execNeg (c : Ctl) (d a : BitVec 8) (w64 sat : Bool) (s : State) : Out :=
  arith1 (.neg c d a w64 sat) d a w64 sat (fun p => -p) s
/-- and under LEN 00 (R103, R156). -/
def execAndShort (d a b : BitVec 8) (s : State) : Out :=
  logic2 (.andShort d a b) d a (.reg b) false (· &&& ·) (· &&& ·) s
/-- and under LEN 10 (R104, R156). -/
def execAndLit (d a : BitVec 8) (l : BitVec 32) (s : State) : Out :=
  logic2 (.andLit d a l) d a (.lit (0#32 ++ l)) false (· &&& ·) (· &&& ·) s
/-- and (R156). -/
def execAnd (c : Ctl) (d a : BitVec 8) (b : OpB) (w64 : Bool) (s : State) : Out :=
  logic2 (.and c d a b w64) d a b w64 (· &&& ·) (· &&& ·) s
/-- or (R156). -/
def execOr (c : Ctl) (d a : BitVec 8) (b : OpB) (w64 : Bool) (s : State) : Out :=
  logic2 (.or c d a b w64) d a b w64 (· ||| ·) (· ||| ·) s
/-- xor (R156). -/
def execXor (c : Ctl) (d a : BitVec 8) (b : OpB) (w64 : Bool) (s : State) : Out :=
  logic2 (.xor c d a b w64) d a b w64 (· ^^^ ·) (· ^^^ ·) s
/-- not (R156). -/
def execNot (c : Ctl) (d a : BitVec 8) (w64 : Bool) (s : State) : Out :=
  logic1 (.not c d a w64) d a w64 (fun p => ~~~p) (fun p => ~~~p) s
/-- tern (R156). -/
def execTern (c : Ctl) (d a : BitVec 8) (b : OpB) (rc : BitVec 8) (table : BitVec 8) (w64 : Bool)
    (s : State) : Out :=
  if w64 then
    vec64 (.tern c d a b rc table w64) d (fun w l =>
      ternBits table (w.vget64 a.toNat l) (w.opb64 b l) (w.vget64 rc.toNat l)) s
  else
    vec32 (.tern c d a b rc table w64) d (fun w l =>
      ternBits table (w.vget a.toNat l) (w.opb32 b l) (w.vget rc.toNat l)) s
/-- shl under LEN 00 (R103, R156). -/
def execShlShort (d a b : BitVec 8) (s : State) : Out :=
  control2 (.shlShort d a b) d a (.reg b) false (fun p c => p <<< shiftCount c)
    (fun p c => p <<< shiftCount c) s
/-- shl under LEN 10 (R104, R156). -/
def execShlLit (d a : BitVec 8) (l : BitVec 32) (s : State) : Out :=
  control2 (.shlLit d a l) d a (.lit (0#32 ++ l)) false (fun p c => p <<< shiftCount c)
    (fun p c => p <<< shiftCount c) s
/-- shl (R156). -/
def execShl (c : Ctl) (d a : BitVec 8) (b : OpB) (w64 : Bool) (s : State) : Out :=
  control2 (.shl c d a b w64) d a b w64 (fun p c => p <<< shiftCount c)
    (fun p c => p <<< shiftCount c) s
/-- shr (R156). -/
def execShr (c : Ctl) (d a : BitVec 8) (b : OpB) (w64 : Bool) (s : State) : Out :=
  control2 (.shr c d a b w64) d a b w64 (fun p c => p >>> shiftCount c)
    (fun p c => p >>> shiftCount c) s
/-- sar (R156). -/
def execSar (c : Ctl) (d a : BitVec 8) (b : OpB) (w64 : Bool) (s : State) : Out :=
  control2 (.sar c d a b w64) d a b w64 (fun p c => p.sshiftRight (shiftCount c))
    (fun p c => p.sshiftRight (shiftCount c)) s
/-- bfe (R157). -/
def execBfe (c : Ctl) (d a : BitVec 8) (b : OpB) (ty : Ty) (s : State) : Out :=
  control2 (.bfe c d a b ty) d a b ty.w64 (bfeVal (tySigned ty)) (bfeVal (tySigned ty)) s
/-- bfi (R157). -/
def execBfi (c : Ctl) (d a : BitVec 8) (b : OpB) (rc : BitVec 8) (w64 : Bool) (s : State) : Out :=
  if w64 then
    vec64 (.bfi c d a b rc w64) d (fun w l =>
      bfiVal (w.vget64 a.toNat l) (w.opb32 b l) (w.vget64 rc.toNat l)) s
  else
    vec32 (.bfi c d a b rc w64) d (fun w l =>
      bfiVal (w.vget a.toNat l) (w.opb32 b l) (w.vget rc.toNat l)) s
/-- popc: the count goes to the single register D (R157). -/
def execPopc (c : Ctl) (d a : BitVec 8) (w64 : Bool) (s : State) : Out :=
  vec32 (.popc c d a w64) d (fun w l =>
    BitVec.ofNat 32 (if w64 then popcVal (w.vget64 a.toNat l) else popcVal (w.vget a.toNat l))) s
/-- clz: the count goes to the single register D (R157). -/
def execClz (c : Ctl) (d a : BitVec 8) (w64 : Bool) (s : State) : Out :=
  vec32 (.clz c d a w64) d (fun w l =>
    BitVec.ofNat 32 (if w64 then clzVal (w.vget64 a.toNat l) else clzVal (w.vget a.toNat l))) s
/-- brev (R157). -/
def execBrev (c : Ctl) (d a : BitVec 8) (w64 : Bool) (s : State) : Out :=
  logic1 (.brev c d a w64) d a w64 brevVal brevVal s
/-- sel (R158). -/
def execSel (c : Ctl) (d a : BitVec 8) (b : OpB) (pc : BitVec 6) (w64 : Bool) (s : State) : Out :=
  if w64 then
    vec64 (.sel c d a b pc w64) d (fun w l =>
      if w.pbit pc.toNat l then w.vget64 a.toNat l else w.opb64 b l) s
  else
    vec32 (.sel c d a b pc w64) d (fun w l =>
      if w.pbit pc.toNat l then w.vget a.toNat l else w.opb32 b l) s
/-- cmp (R158). -/
def execCmp (c : Ctl) (pd : BitVec 6) (a : BitVec 8) (b : OpB) (cond : Cond) (ty : Ty) (s : State) :
    Out :=
  let sg := tySigned ty
  vecPred (.cmp c pd a b cond ty) pd (fun w l =>
    if ty.w64 then condInt cond (intOf sg (w.vget64 a.toNat l)) (intOf sg (w.opb64 b l))
    else condInt cond (intOf sg (w.vget a.toNat l)) (intOf sg (w.opb32 b l))) s
/-- lea: base + (ext b << sh) in 64 bits (R159). -/
def execLea (c : Ctl) (d : BitVec 8) (base : SVDst) (b : OpB) (sh : BitVec 4) (sgn : Bool)
    (s : State) : Out :=
  vec64 (.lea c d base b sh sgn) d (fun w l =>
    (match base with
      | .v a => w.vget64 a.toNat l
      | .s a => w.sget a.toNat) +
    ((if sgn then (w.opb32 b l).signExtend 64 else (w.opb32 b l).setWidth 64) <<< sh.toNat)) s
/-- mov under LEN 00 (R103, R160). -/
def execMovShort (d b : BitVec 8) (s : State) : Out :=
  vec32 (.movShort d b) d (fun w l => w.vget b.toNat l) s
/-- mov under LEN 10 (R104, R160). -/
def execMovLit (d : BitVec 8) (l : BitVec 32) (s : State) : Out :=
  vec32 (.movLit d l) d (fun _ _ => l) s
/-- mov (R160). -/
def execMov (c : Ctl) (d : BitVec 8) (b : OpB) (w64 : Bool) (s : State) : Out :=
  if w64 then vec64 (.mov c d b w64) d (fun w l => w.opb64 b l) s
  else vec32 (.mov c d b w64) d (fun w l => w.opb32 b l) s

/-- The value with 16 bits from position 16 h replaced (R160). -/
def movkVal {w : Nat} (x : BitVec w) (v : BitVec 16) (h : Nat) : BitVec w :=
  (x &&& ~~~(BitVec.ofNat w 0xffff <<< (16 * h))) ||| (v.setWidth w <<< (16 * h))

/-- movk (R160). -/
def execMovk (c : Ctl) (d : BitVec 8) (v : BitVec 16) (h : BitVec 2) (w64 : Bool) (s : State) : Out :=
  if w64 then vec64 (.movk c d v h w64) d (fun w l => movkVal (w.vget64 d.toNat l) v h.toNat) s
  else vec32 (.movk c d v h w64) d (fun w l => movkVal (w.vget d.toNat l) v h.toNat) s

/-- Width and signedness of a cvt.i type (R143). -/
def ty8Info : Ty8 → Nat × Bool
  | .s32 => (32, true)
  | .n32 => (32, false)
  | .s64 => (64, true)
  | .n64 => (64, false)
  | .s16 => (16, true)
  | .n16 => (16, false)
  | .s8 => (8, true)
  | .n8 => (8, false)

/-- The integer that the low bits of a 64-bit pattern hold under a width and signedness (R161). -/
def readInt (info : Nat × Bool) (x : DWord) : Int := intOf info.2 (x.extractLsb' 0 info.1)

/-- cvt.i: the value saturated to the destination type (R161). -/
def execCvtI (c : Ctl) (d a : BitVec 8) (dt st : Ty8) (s : State) : Out :=
  let val (w : Warp) (l : Nat) : Int :=
    clampInt (intLow (ty8Info dt).2 (ty8Info dt).1) (intHigh (ty8Info dt).2 (ty8Info dt).1)
      (readInt (ty8Info st) (if st.w64 then w.vget64 a.toNat l else 0#32 ++ w.vget a.toNat l))
  if dt.w64 then vec64 (.cvtI c d a dt st) d (fun w l => BitVec.ofInt 64 (val w l)) s
  else vec32 (.cvtI c d a dt st) d (fun w l => BitVec.ofInt 32 (val w l)) s

end Sys2Proof.Machine
end

