-- ==== Sys2Proof/Machine/Predicate.lean ====
section
/-! DEFINITION. Predicate instructions, groups 0x14 to 0x16 (R162 to R164). -/

namespace Sys2Proof.Machine

/-- A predicate source, inverted where NA or NB says so (R162). -/
def psrc (w : Warp) (p : BitVec 6) (neg : Bool) : Mask :=
  if neg then ~~~(w.pget p.toNat) else w.pget p.toNat

/-- Writes a predicate in the acting lanes and moves on. -/
def predOp (i : Instr) (d : BitVec 6) (f : Warp → Mask) (s : State) : Out :=
  issue i s fun x => (x.withW (x.w.pset d.toNat (x.acting (instrCtl i)) (f x.w))).done

/-- pand (R162). -/
def execPand (c : Ctl) (d a b : BitVec 6) (na nb : Bool) (s : State) : Out :=
  predOp (.pand c d a b na nb) d (fun w => psrc w a na &&& psrc w b nb) s
/-- por (R162). -/
def execPor (c : Ctl) (d a b : BitVec 6) (na nb : Bool) (s : State) : Out :=
  predOp (.por c d a b na nb) d (fun w => psrc w a na ||| psrc w b nb) s
/-- pxor (R162). -/
def execPxor (c : Ctl) (d a b : BitVec 6) (na nb : Bool) (s : State) : Out :=
  predOp (.pxor c d a b na nb) d (fun w => psrc w a na ^^^ psrc w b nb) s
/-- pnot (R162). -/
def execPnot (c : Ctl) (d a : BitVec 6) (na : Bool) (s : State) : Out :=
  predOp (.pnot c d a na) d (fun w => ~~~(psrc w a na)) s
/-- pmov (R162). -/
def execPmov (c : Ctl) (d a : BitVec 6) (na : Bool) (s : State) : Out :=
  predOp (.pmov c d a na) d (fun w => psrc w a na) s

/-- All 32 lanes, or none. -/
def fullMask (b : Bool) : Mask := if b then 0xffffffff else 0

/-- vote over the acting lanes (R163). -/
def execVote (c : Ctl) (d : VoteDst) (a : BitVec 6) (na : Bool) (s : State) : Out :=
  issue (.vote c d a na) s fun x =>
    let act := x.acting c
    let t := psrc x.w a na &&& act
    (x.withW
      (match d with
      | .any p => x.w.pset p.toNat act (fullMask (t != 0))
      | .all p => x.w.pset p.toNat act (fullMask (t == act))
      | .ballot r => x.w.sset r.toNat (0#32 ++ t)
      | .vballot v => x.w.eachLane act fun w l => w.vset v.toNat l t)).done

/-- pcnt: the acting lanes with a true, all of them or those below the lane (R164). -/
def execPcnt (c : Ctl) (d : BitVec 8) (a : BitVec 6) (na pre : Bool) (s : State) : Out :=
  issue (.pcnt c d a na pre) s fun x =>
    let t := psrc x.w a na &&& x.acting c
    (x.withW (x.w.eachLane (x.acting c) fun w l =>
      w.vset d.toNat l (BitVec.ofNat 32
        (countLanes (if pre then t &&& maskOf (fun k => decide (k < l)) else t))))).done

end Sys2Proof.Machine
end

