-- ==== Sys2Proof/Machine/Scalar.lean ====
section
/-! DEFINITION. The scalar pipe but sld, groups 0x18 to 0x1b (R165 to R169). -/

namespace Sys2Proof.Machine

/-- Writes a scalar register and moves on. -/
def scalarOp (i : Instr) (d : BitVec 5) (f : Warp → DWord) (s : State) : Out :=
  issue i s fun x => (x.withW (x.w.sset d.toNat (f x.w))).done

/-- A two-operand scalar operation (R165). -/
def scalar2 (i : Instr) (d a : BitVec 5) (b : SOpB) (f : DWord → DWord → DWord) (s : State) : Out :=
  scalarOp i d (fun w => f (w.sget a.toNat) (w.sopb b)) s

/-- A scalar shift count: B[7:0] (R165). -/
def scalarCount (b : DWord) : Nat := (b.extractLsb' 0 8).toNat

/-- sadd under LEN 00 (R103, R165). -/
def execSaddShort (d a b : BitVec 5) (s : State) : Out :=
  scalar2 (.saddShort d a b) d a (.reg b) (· + ·) s
/-- sadd under LEN 10 (R104, R165). -/
def execSaddLit (d a : BitVec 5) (l : BitVec 64) (s : State) : Out :=
  scalar2 (.saddLit d a l) d a (.lit l) (· + ·) s
/-- sadd (R165). -/
def execSadd (wk : BitVec 8) (d a : BitVec 5) (b : SOpB) (s : State) : Out :=
  scalar2 (.sadd wk d a b) d a b (· + ·) s
/-- ssub (R165). -/
def execSsub (wk : BitVec 8) (d a : BitVec 5) (b : SOpB) (s : State) : Out :=
  scalar2 (.ssub wk d a b) d a b (· - ·) s
/-- smul (R165). -/
def execSmul (wk : BitVec 8) (d a : BitVec 5) (b : SOpB) (s : State) : Out :=
  scalar2 (.smul wk d a b) d a b (· * ·) s
/-- sand (R165). -/
def execSand (wk : BitVec 8) (d a : BitVec 5) (b : SOpB) (s : State) : Out :=
  scalar2 (.sand wk d a b) d a b (· &&& ·) s
/-- sor (R165). -/
def execSor (wk : BitVec 8) (d a : BitVec 5) (b : SOpB) (s : State) : Out :=
  scalar2 (.sor wk d a b) d a b (· ||| ·) s
/-- sxor (R165). -/
def execSxor (wk : BitVec 8) (d a : BitVec 5) (b : SOpB) (s : State) : Out :=
  scalar2 (.sxor wk d a b) d a b (· ^^^ ·) s
/-- sshl (R165). -/
def execSshl (wk : BitVec 8) (d a : BitVec 5) (b : SOpB) (s : State) : Out :=
  scalar2 (.sshl wk d a b) d a b (fun p q => p <<< scalarCount q) s
/-- sshr and sshr.a (R165). -/
def execSshr (wk : BitVec 8) (d a : BitVec 5) (b : SOpB) (arith : Bool) (s : State) : Out :=
  scalar2 (.sshr wk d a b arith) d a b
    (fun p q => if arith then p.sshiftRight (scalarCount q) else p >>> scalarCount q) s
/-- scmp (R165). -/
def execScmp (wk : BitVec 8) (d a : BitVec 5) (b : SOpB) (cond : Cond) (uns : Bool) (s : State) :
    Out :=
  scalar2 (.scmp wk d a b cond uns) d a b
    (fun p q => if condInt cond (intOf (!uns) p) (intOf (!uns) q) then 1 else 0) s
/-- smov (R165). -/
def execSmov (wk : BitVec 8) (d : BitVec 5) (b : SOpB) (s : State) : Out :=
  scalarOp (.smov wk d b) d (fun w => w.sopb b) s
/-- bcast (R167). -/
def execBcast (c : Ctl) (d : BitVec 8) (a : BitVec 5) (w64 : Bool) (s : State) : Out :=
  if w64 then vec64 (.bcast c d a w64) d (fun w _ => w.sget a.toNat) s
  else vec32 (.bcast c d a w64) d (fun w _ => (w.sget a.toNat).extractLsb' 0 32) s
/-- lane: the value of any lane, live or exited (R167). -/
def execLane (wk : BitVec 8) (d : BitVec 5) (a : BitVec 8) (b : SOpB) (w64 : Bool) (s : State) : Out :=
  scalarOp (.lane wk d a b w64) d (fun w =>
    let l := ((w.sopb b).extractLsb' 0 5).toNat
    if w64 then w.vget64 a.toNat l else 0#32 ++ w.vget a.toNat l) s

/-- The value of a special register (R168); `laneid` is per lane. -/
def sregVal (x : Site) (num : BitVec 16) (l : Nat) : DWord :=
  match num.toNat with
  | 0x00 => BitVec.ofNat 64 l
  | 0x01 => BitVec.ofNat 64 x.w.num
  | 0x02 => 0#32 ++ x.b.bx
  | 0x03 => 0#32 ++ x.b.by_
  | 0x04 => 0#32 ++ x.b.bz
  | 0x05 => BitVec.ofNat 64 x.g.gx
  | 0x06 => BitVec.ofNat 64 x.g.gy
  | 0x07 => BitVec.ofNat 64 x.g.gz
  | 0x08 => BitVec.ofNat 64 x.b.rank
  | 0x09 => BitVec.ofNat 64 x.g.nrank
  | 0x10 => BitVec.ofNat 64 x.b.core
  | 0x11 => BitVec.ofNat 64 x.b.quad
  | 0x12 => BitVec.ofNat 64 x.b.die
  | 0x13 => BitVec.ofNat 64 x.s.pkg
  | 0x14 => Config.freeWord x.s.free
  | 0x20 => 0#32 ++ x.w.rgn.rgnoff
  | 0x21 => 0#56 ++ x.w.rgn.reent
  | 0x22 => (x.w.frame.map fun f => f.trap.words.w0).getD 0
  | 0x23 => (x.w.frame.map fun f => f.trap.words.w1).getD 0
  | 0x24 => (x.w.frame.map fun f => f.trap.words.w2).getD 0
  | 0x25 => (x.w.frame.map fun f => f.trap.words.w3).getD 0
  | 0x26 => 0#32 ++ (if x.b.rsv then x.b.gang else 0)
  | _ => 0

/-- The site after a read of `cycle`: the next read has another free value (log entry 4: DESIGN CHOICE). -/
def Site.useFree (x : Site) (num : BitVec 16) : Site :=
  if num = 0x14 then { x with s := { x.s with free := x.s.free + 1 } } else x

/-- sreg (R168). -/
def execSreg (c : Ctl) (d : SVDst) (num : BitVec 16) (s : State) : Out :=
  issue (.sreg c d num) s fun x =>
    ((x.useFree num).withW
      (match d with
      | .s r => x.w.sset r.toNat (sregVal x num 0)
      | .v r => x.w.eachLane (x.acting c) fun w l =>
          if sregW64 num then w.vset64 r.toNat l (sregVal x num l)
          else w.vset r.toNat l ((sregVal x num l).extractLsb' 0 32))).done

/-- sbra: the whole warp branches (R105, R169). -/
def execSbra (wk : BitVec 8) (a : BitVec 5) (off : Off) (z : Bool) (s : State) : Out :=
  issue (.sbra wk a off z) s fun x =>
    if (x.w.sget a.toNat == 0) == z then
      x.leave (instrW0 (.sbra wk a off z))
        [(x.mask, .goto (x.pc + BitVec.ofNat 64 x.len + branchOff off) none)]
    else x.done

end Sys2Proof.Machine
end

