-- ==== Sys2Proof/Machine/FloatOps.lean ====
section
/-! DEFINITION. Floating-point and conversion instructions, groups 0x1c to 0x26 (R186 to R196). -/

namespace Sys2Proof.Machine

/-- The flags of the acting lanes ORed (R182). -/
def laneFlags (act : Mask) (f : Nat → BitVec 5) : BitVec 5 :=
  lanes.foldl (fun a l => if act.getLsbD l then a ||| f l else a) 0

/-- Writes f's value to D in each acting lane, gathers the flags, and moves on (R186). -/
def vecF (i : Instr) (w64 : Bool) (d : BitVec 8) (f : Warp → Nat → Nat × BitVec 5) (s : State) :
    Out :=
  issue i s fun x =>
    let act := x.acting (instrCtl i)
    let w := x.w.eachLane act fun w l =>
      if w64 then w.vset64 d.toNat l (BitVec.ofNat 64 (f x.w l).1)
      else w.vset d.toNat l (BitVec.ofNat 32 (f x.w l).1)
    (x.withW (w.raiseFlags x.inRegion (laneFlags act fun l => (f x.w l).2))).done

/-- Writes f's truth to the predicate in each acting lane, gathers the flags, and moves on. -/
def vecFP (i : Instr) (d : BitVec 6) (f : Warp → Nat → Bool × BitVec 5) (s : State) : Out :=
  issue i s fun x =>
    let act := x.acting (instrCtl i)
    let w := x.w.pset d.toNat act (maskOf fun l => (f x.w l).1)
    (x.withW (w.raiseFlags x.inRegion (laneFlags act fun l => (f x.w l).2))).done

/-- Operand A as a pattern (R187). -/
def fA (w : Warp) (w64 : Bool) (a : BitVec 8) (l : Nat) : Nat :=
  if w64 then (w.vget64 a.toNat l).toNat else (w.vget a.toNat l).toNat
/-- Operand B as a pattern (R187). -/
def fB (w : Warp) (w64 : Bool) (b : OpB) (l : Nat) : Nat :=
  if w64 then (w.opb64 b l).toNat else (w.opb32 b l).toNat
/-- The format of W64. -/
def fmtOf (w64 : Bool) : Fmt := if w64 then F64 else F32

/-- A binary32 or binary64 operation of two operands. -/
def float2 (i : Instr) (w64 : Bool) (d a : BitVec 8) (b : OpB) (f : Nat → Nat → Nat × BitVec 5)
    (s : State) : Out :=
  vecF i w64 d (fun w l => f (fA w w64 a l) (fB w w64 b l)) s

/-- A binary32 or binary64 operation of three operands. -/
def float3 (i : Instr) (w64 : Bool) (d a : BitVec 8) (b : OpB) (c : BitVec 8)
    (f : Nat → Nat → Nat → Nat × BitVec 5) (s : State) : Out :=
  vecF i w64 d (fun w l => f (fA w w64 a l) (fB w w64 b l) (fA w w64 c l)) s

/-- A binary32 or binary64 operation of one operand. -/
def float1 (i : Instr) (w64 : Bool) (d a : BitVec 8) (f : Nat → Nat × BitVec 5) (s : State) : Out :=
  vecF i w64 d (fun w l => f (fA w w64 a l)) s

/-- fadd under LEN 00 (R103, R188). -/
def execFaddShort (d a b : BitVec 8) (s : State) : Out :=
  float2 (.faddShort d a b) false d a (.reg b) (F32.add .rn false) s
/-- fadd under LEN 10 (R104, R188). -/
def execFaddLit (d a : BitVec 8) (l : BitVec 32) (s : State) : Out :=
  float2 (.faddLit d a l) false d a (.lit (0#32 ++ l)) (F32.add .rn false) s
/-- fadd (R188). -/
def execFadd (c : Ctl) (d a : BitVec 8) (b : OpB) (rm : Rm) (ftz : Bool) (s : State) : Out :=
  float2 (.fadd c d a b rm ftz) false d a b (F32.add rm ftz) s
/-- fsub (R188). -/
def execFsub (c : Ctl) (d a : BitVec 8) (b : OpB) (rm : Rm) (ftz : Bool) (s : State) : Out :=
  float2 (.fsub c d a b rm ftz) false d a b (F32.sub rm ftz) s
/-- fmul (R188). -/
def execFmul (c : Ctl) (d a : BitVec 8) (b : OpB) (rm : Rm) (ftz : Bool) (s : State) : Out :=
  float2 (.fmul c d a b rm ftz) false d a b (F32.mul rm ftz) s
/-- fma (R188). -/
def execFma (c : Ctl) (d a : BitVec 8) (b : OpB) (rc : BitVec 8) (rm : Rm) (ftz : Bool) (s : State) :
    Out :=
  float3 (.fma c d a b rc rm ftz) false d a b rc (F32.fma rm ftz) s
/-- fmin (R189). -/
def execFmin (c : Ctl) (d a : BitVec 8) (b : OpB) (w64 ftz : Bool) (s : State) : Out :=
  float2 (.fmin c d a b w64 ftz) w64 d a b ((fmtOf w64).minmax false ftz) s
/-- fmax (R189). -/
def execFmax (c : Ctl) (d a : BitVec 8) (b : OpB) (w64 ftz : Bool) (s : State) : Out :=
  float2 (.fmax c d a b w64 ftz) w64 d a b ((fmtOf w64).minmax true ftz) s
/-- fcmp (R190). -/
def execFcmp (c : Ctl) (pd : BitVec 6) (a : BitVec 8) (b : OpB) (cond : FCond) (w64 ftz : Bool)
    (s : State) : Out :=
  vecFP (.fcmp c pd a b cond w64 ftz) pd
    (fun w l => (fmtOf w64).compare cond ftz (fA w w64 a l) (fB w w64 b l)) s
/-- frcp (R191). -/
def execFrcp (c : Ctl) (d a : BitVec 8) (w64 : Bool) (rm : Rm) (ftz : Bool) (s : State) : Out :=
  float1 (.frcp c d a w64 rm ftz) w64 d a ((fmtOf w64).rcp rm ftz) s
/-- frsq (R191). -/
def execFrsq (c : Ctl) (d a : BitVec 8) (rm : Rm) (ftz : Bool) (s : State) : Out :=
  float1 (.frsq c d a rm ftz) false d a (F32.rsq rm ftz) s
/-- fsqrt (R191). -/
def execFsqrt (c : Ctl) (d a : BitVec 8) (w64 : Bool) (rm : Rm) (ftz : Bool) (s : State) : Out :=
  float1 (.fsqrt c d a w64 rm ftz) w64 d a ((fmtOf w64).sqrt rm ftz) s
/-- fex2 (R191). -/
def execFex2 (c : Ctl) (d a : BitVec 8) (rm : Rm) (ftz : Bool) (s : State) : Out :=
  float1 (.fex2 c d a rm ftz) false d a (F32.ex2 rm ftz) s
/-- flg2 (R191). -/
def execFlg2 (c : Ctl) (d a : BitVec 8) (rm : Rm) (ftz : Bool) (s : State) : Out :=
  float1 (.flg2 c d a rm ftz) false d a (F32.lg2 rm ftz) s
/-- fsin (R191). -/
def execFsin (c : Ctl) (d a : BitVec 8) (rm : Rm) (ftz : Bool) (s : State) : Out :=
  float1 (.fsin c d a rm ftz) false d a (F32.sin rm ftz) s
/-- fcos (R191). -/
def execFcos (c : Ctl) (d a : BitVec 8) (rm : Rm) (ftz : Bool) (s : State) : Out :=
  float1 (.fcos c d a rm ftz) false d a (F32.cos rm ftz) s
/-- frnd (R192). -/
def execFrnd (c : Ctl) (d a : BitVec 8) (w64 : Bool) (rm : Rm) (ftz : Bool) (s : State) : Out :=
  float1 (.frnd c d a w64 rm ftz) w64 d a ((fmtOf w64).rnd rm ftz) s
/-- fcls (R192). -/
def execFcls (c : Ctl) (pd : BitVec 6) (a : BitVec 8) (w64 : Bool) (mask : BitVec 10) (s : State) :
    Out :=
  vecFP (.fcls c pd a w64 mask) pd
    (fun w l => (mask.getLsbD ((fmtOf w64).cls (fA w w64 a l)), 0)) s
/-- fsgn (R192). -/
def execFsgn (c : Ctl) (d a : BitVec 8) (b : OpB) (w64 : Bool) (op : SgnOp) (s : State) : Out :=
  float2 (.fsgn c d a b w64 op) w64 d a b (fun p q => ((fmtOf w64).sgn op p q, 0)) s

/-- The format of BF. -/
def halfFmt (bf : Bool) : Fmt := if bf then BF16 else F16
/-- Element e of a packed word (R193). -/
def halfOf (x e : Nat) : Nat := x / 2 ^ (16 * e) % 2 ^ 16
/-- Two elements packed with their flags ORed (R193). -/
def packHalves (f : Nat → Nat × BitVec 5) : Nat × BitVec 5 :=
  ((f 0).1 + 2 ^ 16 * (f 1).1, (f 0).2 ||| (f 1).2)

/-- hfma2 (R193). -/
def execHfma2 (c : Ctl) (d a : BitVec 8) (b : OpB) (rc : BitVec 8) (bf : Bool) (rm : Rm) (ftz : Bool)
    (s : State) : Out :=
  float3 (.hfma2 c d a b rc bf rm ftz) false d a b rc
    (fun p q r => packHalves fun e => (halfFmt bf).fma rm ftz (halfOf p e) (halfOf q e) (halfOf r e)) s
/-- hadd2 (R193). -/
def execHadd2 (c : Ctl) (d a : BitVec 8) (b : OpB) (bf : Bool) (rm : Rm) (ftz : Bool) (s : State) :
    Out :=
  float2 (.hadd2 c d a b bf rm ftz) false d a b
    (fun p q => packHalves fun e => (halfFmt bf).add rm ftz (halfOf p e) (halfOf q e)) s
/-- hmul2 (R193). -/
def execHmul2 (c : Ctl) (d a : BitVec 8) (b : OpB) (bf : Bool) (rm : Rm) (ftz : Bool) (s : State) :
    Out :=
  float2 (.hmul2 c d a b bf rm ftz) false d a b
    (fun p q => packHalves fun e => (halfFmt bf).mul rm ftz (halfOf p e) (halfOf q e)) s
/-- dfma (R188). -/
def execDfma (c : Ctl) (d a : BitVec 8) (b : OpB) (rc : BitVec 8) (rm : Rm) (s : State) : Out :=
  float3 (.dfma c d a b rc rm) true d a b rc (F64.fma rm false) s
/-- dadd (R188). -/
def execDadd (c : Ctl) (d a : BitVec 8) (b : OpB) (rm : Rm) (s : State) : Out :=
  float2 (.dadd c d a b rm) true d a b (F64.add rm false) s
/-- dmul (R188). -/
def execDmul (c : Ctl) (d a : BitVec 8) (b : OpB) (rm : Rm) (s : State) : Out :=
  float2 (.dmul c d a b rm) true d a b (F64.mul rm false) s

/- ### Conversions -/

/-- The float format of a cvt.f type; integers have none. -/
def cvtFmt : CvtTy → Option Fmt
  | .f32 => some F32
  | .f64 => some F64
  | .f16 => some F16
  | .bf16 => some BF16
  | _ => none

/-- Width and signedness of a cvt.f integer type (R194). -/
def cvtInt : CvtTy → Nat × Bool
  | .s8 => (8, true)
  | .n8 => (8, false)
  | .s16 => (16, true)
  | .n16 => (16, false)
  | .s32 => (32, true)
  | .n32 => (32, false)
  | .s64 => (64, true)
  | .n64 => (64, false)
  | .f32 => (32, false)
  | .f64 => (64, false)
  | .f16 => (16, false)
  | .bf16 => (16, false)

/-- The width of a format in bits. -/
def Fmt.width (f : Fmt) : Nat := 1 + f.eb + f.mb

/-- cvt.f on one 64-bit source pattern: the result pattern and the flags (R180, R194). -/
def cvtVal (dt st : CvtTy) (rm : Rm) (ftz : Bool) (x : DWord) : Nat × BitVec 5 :=
  match cvtFmt st, cvtFmt dt with
  | some sf, some df =>
    convFF sf df rm (ftz && sf != F64) (ftz && df != F64) (x.toNat % 2 ^ sf.width)
  | some sf, none =>
    let (n, fl) := convFI sf rm (ftz && sf != F64)
      (intLow (cvtInt dt).2 (cvtInt dt).1) (intHigh (cvtInt dt).2 (cvtInt dt).1)
      (x.toNat % 2 ^ sf.width)
    ((BitVec.ofInt 64 n).toNat, fl)
  | none, some df => convIF df rm (ftz && df != F64) (readInt (cvtInt st) x)
  | none, none => (0, 0)

/-- cvt.f (R194). -/
def execCvtF (c : Ctl) (d a : BitVec 8) (dt st : CvtTy) (rm : Rm) (ftz : Bool) (s : State) : Out :=
  vecF (.cvtF c d a dt st rm ftz) dt.w64 d
    (fun w l => cvtVal dt st rm ftz (BitVec.ofNat 64 (fA w st.w64 a l))) s

/-- The format and the value of a cvt.sb source (R195). -/
def sbSrcVal (src : SbSrc) (x : Nat) : FP :=
  match src with
  | .f32 => F32.decode x
  | .f16 => F16.decode (x % 2 ^ 16)
  | .bf16 => BF16.decode (x % 2 ^ 16)

/-- A word with byte k replaced (R174). -/
def setByteOf (x : Word) (k v : Nat) : Word :=
  (x &&& ~~~(0xff#32 <<< (8 * k))) ||| (BitVec.ofNat 32 (v % 256) <<< (8 * k))
/-- Byte k of a word. -/
def byteOf (x : Word) (k : Nat) : Nat := ((x >>> (8 * k)).extractLsb' 0 8).toNat

/-- The clamp code, 0 meaning the format's largest M (R173). -/
def clampOf (fmt : SbFmt) (c : Nat) : Nat := if c = 0 then fmt.maxM else c

/-- cvt.sb: the warp's lanes packed as one block (R195). -/
def execCvtSb (c : Ctl) (d a rc : BitVec 8) (fmt : SbFmt) (src : SbSrc) (gap : BitVec 4)
    (clamp : BitVec 14) (h : Bool) (xs : BitVec 2) (s : State) : Out :=
  issue (.cvtSb c d a rc fmt src gap clamp h xs) s fun x =>
    let act := x.acting c
    let srcs := lanes.map fun l =>
      if act.getLsbD l then sbSrcVal src (x.w.vget a.toNat l).toNat else .fin false 0 0
    let r := packBlock fmt (clampOf fmt clamp.toNat) gap.toNat srcs
    let hh := if h then 1 else 0
    let w := x.w.eachLane act fun w l =>
      let w := w.vset d.toNat l (BitVec.ofNat 32 ((r.2.2.1[l]?).getD 0))
      w.vset rc.toNat l
        (setByteOf (setByteOf (x.w.vget rc.toNat l) ((2 * hh + xs.toNat) % 4) r.1)
          ((2 * hh + 1 + xs.toNat) % 4) r.2.1)
    (x.withW (w.raiseFlags x.inRegion (if act = 0 then 0 else r.2.2.2))).done

/-- The value of an SB element as a magnitude and exponent (R171). -/
def sbFP (fmt : SbFmt) (r : Bool × Nat × Nat) : FP := .fin r.1 r.2.1 (r.2.2 - (sbK fmt : Int))

/-- An exact value written in a format (R196). -/
def roundFP (f : Fmt) (rm : Rm) (x : FP) : Nat × BitVec 5 :=
  match x with
  | .nan s => f.nan s
  | .inf s => (f.withSign s f.infBits, 0)
  | .fin s m e => if m = 0 then (f.withSign s 0, 0) else f.round rm s m e false

/-- The format of a cvt.xsb destination. -/
def sbDstFmt : SbDst → Fmt
  | .f32 => F32
  | .f16 => F16
  | .bf16 => BF16
  | .f64 => F64

/-- cvt.xsb: one element unpacked per acting lane (R196). -/
def execCvtXsb (c : Ctl) (d a rc : BitVec 8) (fmt : SbFmt) (dt : SbDst) (rm : Rm) (h : Bool)
    (xs : BitVec 2) (s : State) : Out :=
  vecF (.cvtXsb c d a rc fmt dt rm h xs) (dt == .f64) d
    (fun w l =>
      let hh := if h then 1 else 0
      let sc := w.vget rc.toNat l
      let r := sbResolve fmt ((w.vget a.toNat l).toNat % 2 ^ (sbMBits fmt + 2))
        (byteOf sc ((2 * hh + xs.toNat) % 4)) (byteOf sc ((2 * hh + 1 + xs.toNat) % 4))
      let v := roundFP (sbDstFmt dt) rm (sbFP fmt r.1)
      (v.1, v.2 ||| r.2)) s

end Sys2Proof.Machine
end

