-- ==== Sys2Proof/Machine/Transfer.lean ====
section
/-! DEFINITION. The copy engine: tensor addresses (R16), byte transfers (R263), tile transfers (R259),
the writes of `mst.m` (R292), what their completion does (R254, R261) and COPYF (R265, R266). -/

namespace Sys2Proof.Machine

/- ### Tensor addresses -/

/-- The effective extent of dimension k (R16). -/
def Tlr.extent (t : Tlr) (k : Nat) : Nat := if k < t.ndim then t.dims.getD k 0 else 1

/-- Whether an element lies in the tensor (R16). -/
def Tlr.inside (t : Tlr) (i : List Nat) : Bool :=
  (List.range 5).all fun k => decide (i.getD k 0 < t.extent k)

/-- The byte address of an element (R16). -/
def Tlr.addr (t : Tlr) (i : List Nat) : Nat :=
  t.base + i.getD 0 0 * fmtHalfBytes t.fmt / 2 +
    ((List.range 4).map fun k => i.getD (k + 1) 0 * t.strides.getD k 0).sum

/-- The number of the block that holds an element (R16). -/
def Tlr.block (t : Tlr) (i : List Nat) : Nat :=
  let d (k : Nat) := t.extent k
  let row := i.getD 1 0 + d 1 * (i.getD 2 0 + d 2 * (i.getD 3 0 + d 3 * i.getD 4 0))
  if t.scl = 1 then row * (d 0 / 32) + i.getD 0 0 / 32
  else i.getD 0 0 / 32 * (d 1 * d 2 * d 3 * d 4) + row

/-- Tensor indices of tile element (r, c) for coordinates c0 to c4 (R259). -/
def tileIndex (coords : List Word) (r c : Nat) : List Nat :=
  [(coords.getD 0 0).toNat + c, (coords.getD 1 0).toNat + r, (coords.getD 2 0).toNat,
    (coords.getD 3 0).toNat, (coords.getD 4 0).toNat]

/-- The coordinates in three scalars (R259). -/
def coordsOf (a b c : DWord) : List Word :=
  [a.extractLsb' 0 32, a.extractLsb' 32 32, b.extractLsb' 0 32, b.extractLsb' 32 32,
    c.extractLsb' 0 32]

/- ### The engine's view of memory -/

/-- Where a transfer stands after it ran: the state, the block, its progress, and why it stopped. -/
structure Ran where
  s : State
  b : Block
  pos : Nat
  bad : Option Bad
deriving DecidableEq, Repr

/-- n bytes that an engine reads from scratchpad. -/
def Block.engineRead (b : Block) (off n : Nat) : Except Bad (List Byte) :=
  if (List.range n).any fun k => b.spadPoison.contains ((off + k) / 4) then
    .error (.cause cMEMERR off)
  else .ok (b.spad.bytes off n)

/-- n bytes that an engine writes to scratchpad. -/
def Block.engineWrite (b : Block) (off : Nat) (bytes : List Byte) : Block :=
  b.writeLocs ((List.range bytes.length).map fun k => .sp (off + k)) bytes

/-- n bytes at an address of either space, read on a path. -/
def engineRead (s : State) (b : Block) (c : Ctx) (via : Via) (sp : Bool) (a n : Nat) :
    Except Bad (List Byte) :=
  if sp then b.engineRead a n else s.readOn c via a n

/-- Bytes written at an address of either space on a path. -/
def engineWrite (s : State) (b : Block) (c : Ctx) (via : Via) (sp : Bool) (a : Nat) (bytes : List Byte) :
    Except Bad (State × Block) :=
  if sp then .ok (s, b.engineWrite a bytes)
  else
    match s.writeOn c via a bytes with
    | .ok s' => .ok (s', b)
    | .error e => .error e

/-- The block of an engine that works for no block: a packet core or a channel. -/
def Block.blank : Block :=
  { key := 0x1000000, grid := 0, bx := 0, by_ := 0, bz := 0, rank := 0, lin := 0, quartet := 0,
    member := 0, spawned := false, parent := 0, det := false, brken := false, res := .resident,
    die := 0, quad := 0, core := 0, spadOff := 0, valid := false, layout := Config.layout,
    stop := none, ended := false, begun := false, warps := [], bars := [], tiles := [],
    gang := 0, rsv := false, mxSaved := false, ib := ⟨0, 0, false⟩, spad := [], spadPoison := [],
    queues := [], xfers := [], chain := none, results := [], coll := none, dead := [] }

/- ### Byte transfers (R263) -/

/-- The bytes until the next 8-byte granule boundary of both addresses. -/
def granuleStep (src dst : Nat) : Nat := Nat.min (8 - src % 8) (8 - dst % 8)

/-- A byte transfer from `pos` on, in runs that cross no granule of either side (R265, R266): each
run is read whole, then written. -/
def copyRun (c : Ctx) (via : Via) (ssp dsp : Bool) (src dst len : Nat) : Nat → Nat → State → Block → Ran
  | 0, pos, s, b => ⟨s, b, pos, none⟩
  | fuel + 1, pos, s, b =>
    if len ≤ pos then ⟨s, b, pos, none⟩
    else
      let n := Nat.min (len - pos) (granuleStep (src + pos) (dst + pos))
      match engineRead s b c via ssp (src + pos) n with
      | .error e => ⟨s, b, pos, some e⟩
      | .ok bytes =>
        match engineWrite s b c via dsp (dst + pos) bytes with
        | .error e => ⟨s, b, pos, some e⟩
        | .ok (s', b') => copyRun c via ssp dsp src dst len fuel (pos + n) s' b'

/- ### Tile transfers (R259) -/

/-- The half-byte position of tile element (r, c) in scratchpad (R259). -/
def tilePlace (x : XferReq) (base hb r c : Nat) : Nat :=
  match x.tr with
  | .none => 2 * (base + r * x.len) + c * hb
  | _ => 2 * (base + c * x.len) + r * hb

/-- An element read at a half-byte position in either space: its value. -/
def elementRead (s : State) (b : Block) (c : Ctx) (sp : Bool) (half hb : Nat) : Except Bad Nat :=
  match engineRead s b c .cp sp (half / 2) ((hb + 1) / 2) with
  | .error e => .error e
  | .ok bytes =>
    .ok (if hb = 1 then leNat bytes / 16 ^ (half % 2) % 16 else leNat bytes)

/-- The byte that stands at an address of either space, poisoned or not. -/
def oldByte (s : State) (b : Block) (c : Ctx) (sp : Bool) (a : Nat) : Nat :=
  if sp then (b.spad.byte a).toNat else leNat (s.readPieces (s.pieces c .cp .store 2 a 1).1)

/-- An element written at a half-byte position in either space; a half byte keeps its neighbour. -/
def elementWrite (s : State) (b : Block) (c : Ctx) (sp : Bool) (half hb v : Nat) :
    Except Bad (State × Block) :=
  if hb = 1 then
    let old := oldByte s b c sp (half / 2)
    let new := if half % 2 = 0 then old / 16 * 16 + v % 16 else v % 16 * 16 + old % 16
    engineWrite s b c .cp sp (half / 2) (leBytes 1 new)
  else engineWrite s b c .cp sp (half / 2) (leBytes (hb / 2) v)

/-- The half-byte position of a tensor element. -/
def Tlr.half (t : Tlr) (i : List Nat) : Nat :=
  2 * t.addr i + (if fmtHalfBytes t.fmt = 1 then i.getD 0 0 % 2 else 0)

/-- One element of a `tload`: copied, or zero outside the tensor. -/
def loadElement (c : Ctx) (t : Tlr) (x : XferReq) (r k : Nat) (s : State) (b : Block) :
    Except Bad (State × Block) :=
  let hb := fmtHalfBytes t.fmt
  let i := tileIndex x.coords r k
  let place := tilePlace x x.dst.toNat hb r k
  if t.inside i then
    match elementRead s b c false (t.half i) hb with
    | .error e => .error e
    | .ok v => elementWrite s b c true place hb v
  else elementWrite s b c true place hb 0

/-- One element of a `tstore`: copied, or dropped outside the tensor. -/
def storeElement (c : Ctx) (t : Tlr) (x : XferReq) (r k : Nat) (s : State) (b : Block) :
    Except Bad (State × Block) :=
  let hb := fmtHalfBytes t.fmt
  let i := tileIndex x.coords r k
  if t.inside i then
    match elementRead s b c true (tilePlace x x.src.toNat hb r k) hb with
    | .error e => .error e
    | .ok v => elementWrite s b c false (t.half i) hb v
  else .ok (s, b)

/-- One element of an `mst.m` output buffer, with its block's scale pair before the first of 32
(R16, R292). -/
def outElement (c : Ctx) (t : Tlr) (x : XferReq) (r k : Nat) (s : State) (b : Block) :
    Except Bad (State × Block) :=
  let hb := fmtHalfBytes t.fmt
  let i := tileIndex x.coords r k
  if t.inside i then
    let pair : Except Bad (State × Block) :=
      if k % 32 = 0 ∧ t.scl ≠ 0 then
        engineWrite s b c .cp false (t.scale + 2 * t.block i)
          (leBytes 2 (x.buf.getD (128 * x.rows + 4 * r + k / 32) 0).toNat)
      else .ok (s, b)
    match pair with
    | .error e => .error e
    | .ok (s', b') => elementWrite s' b' c false (t.half i) hb (x.buf.getD (128 * r + k) 0).toNat
  else .ok (s, b)

/-- The elements from `pos` on in the order of R259, `cols` to a row, until one fails. -/
def elementRun (step : Nat → Nat → State → Block → Except Bad (State × Block)) (cols : Nat) :
    Nat → Nat → State → Block → Ran
  | 0, pos, s, b => ⟨s, b, pos, none⟩
  | fuel + 1, pos, s, b =>
    match step (pos / cols) (pos % cols) s b with
    | .error e => ⟨s, b, pos, some e⟩
    | .ok (s', b') => elementRun step cols fuel (pos + 1) s' b'

/- ### Running a transfer -/

/-- The elements or bytes of a transfer. -/
def xferTotal (g : Grid) (x : XferReq) : Nat :=
  match x.kind with
  | .tload => (x.tlr.bind fun h => g.img.tlrs[h]?).elim 0 fun t => t.trows * t.tcols
  | .tstore => (x.tlr.bind fun h => g.img.tlrs[h]?).elim 0 fun t => t.trows * t.tcols
  | .mstM => 128 * x.rows
  | _ => x.len

/-- A transfer within the package run as far as it goes (R259, R263, R292). -/
def State.runLocal (s : State) (b : Block) (c : Ctx) (g : Grid) (x : Xfer) : Ran :=
  let q := x.req
  let fuel := xferTotal g q - x.pos
  match q.kind with
  | .tload =>
    match q.tlr.bind fun h => g.img.tlrs[h]? with
    | some t => elementRun (loadElement c t q) t.tcols fuel x.pos s b
    | none => ⟨s, b, x.pos, none⟩
  | .tstore =>
    match q.tlr.bind fun h => g.img.tlrs[h]? with
    | some t => elementRun (storeElement c t q) t.tcols fuel x.pos s b
    | none => ⟨s, b, x.pos, none⟩
  | .mstM =>
    match q.tlr.bind fun h => g.img.tlrs[h]? with
    | some t => elementRun (outElement c t q) 128 fuel x.pos s b
    | none => ⟨s, b, x.pos, none⟩
  | _ => copyRun c .cp q.srcSp q.dstSp q.src.toNat q.dst.toNat q.len fuel x.pos s b

/-- The block with transfer x's record replaced. -/
def Block.setXfer (b : Block) (x : Xfer) : Block :=
  { b with xfers := b.xfers.map fun y => if y.id = x.id then x else y }

/-- The block with the flags of an `mst.m` that completes in its members' FLAGS (R292). -/
def Block.mstFlags (b : Block) (q : XferReq) : Block :=
  if q.flags = 0 then b
  else { b with warps := b.warps.map fun w =>
    if q.members.getLsbD w.num then { w with flags := w.flags ||| q.flags } else w }

/-- A transfer that counts as complete: the token falls, the tile's PEND falls and the tile becomes
ready with none left (R254, R261), and an `mst.m` gives its flags (R292). -/
def Block.finishXfer (b : Block) (x : Xfer) : Block :=
  let b := ({ b with xfers := b.xfers.filter fun y => y.id != x.id } : Block).mstFlags x.req
  let b := match x.req.tile with
    | none => b
    | some t =>
      let e := b.tile t
      let e := { e with pend := e.pend - 1 }
      b.setTile t (if e.pend = 0 then { e with st := .ready, fault := false } else e)
  match x.req.tok, b.warp? x.req.warp with
  | some k, some w => b.setWarp (w.setToken k.toNat (w.token k.toNat - 1))
  | _, _ => b

/- ### COPYF -/

/-- Words 2 and 3 of a COPYF record (R266). -/
def copyfWords (g : Grid) (x : Xfer) (cause : BitVec 8) : DWord × DWord :=
  let q := x.req
  let tile := q.kind == .tload || q.kind == .tstore
  let cols := match q.kind with
    | .mstM => 128
    | _ => (q.tlr.bind fun h => g.img.tlrs[h]?).elim 1 fun t => t.tcols
  let w2 : DWord := BitVec.ofNat 8 (q.tlr.getD 0xff) ++ BitVec.ofNat 4 (q.tile.getD 0) ++ bit tile ++
    bit q.tok.isSome ++ q.tok.getD 0 ++ 0#7 ++ cause ++ q.ioff
  let w3 : DWord :=
    if q.tlr.isSome then BitVec.ofNat 16 (x.pos % cols) ++ BitVec.ofNat 16 (x.pos / cols) ++ 0#32
    else BitVec.ofNat 64 (x.pos % 2 ^ 40)
  (w2, w3)

/-- Whether a lane's barrier arrival has been counted, so that it must not wait anew. -/
def Warp.arrivedLane (w : Warp) (l : Nat) : Bool :=
  w.waits.any fun v => v.lane == l &&
    (match v.kind with
    | .barIn _ _ => true
    | _ => false)

/-- An asynchronous trap: its lane parks with PARK 1 at the boundary it has reached (R265). A lane
that is already trapped or halted, or that has arrived at a barrier, stays where it is parked (log
entry 12). -/
def Warp.parkAsync (w : Warp) (cb : DWord) (l : Nat) (c : Cause) : Warp :=
  match w.frontier.find? fun e => e.mask &&& laneBit l != 0 with
  | none => w
  | some e =>
    let t := mkTrap cb e.pc (laneBit l) 0 w.rgn.inrgn c
    let w := { w with utraps := w.utraps ++ [t] }
    let free := e.park = 0 || e.park = 3 || e.park = 4 || (e.park = 5 && !w.arrivedLane l)
    if free then
      { w with
        frontier := addEntry (dropLanes w.frontier (laneBit l)) ⟨e.pc, e.prio, laneBit l, 1⟩
        waits := w.waits.filter fun v => v.lane != l }
    else w

/-- The lane that takes a transfer's COPYF: the issuing one, or the lowest live one (R265). -/
def Warp.copyfLane (w : Warp) (l : Nat) : Option Nat :=
  let live := liveLanes w.frontier
  if live.getLsbD l then some l else if live = 0 then none else some (lowestLane live)

/-- A transfer stops with COPYF (R254, R265, R266): its record keeps the cause, the tile shows FAULT,
and the trap is raised in its thread; while a commit is under way only the stop is recorded (R325, R344).
Without a live lane the transfer is abandoned. -/
def State.copyfRaise (s : State) (b : Block) (g : Grid) (x : Xfer) (cause : BitVec 8) (addr : DWord) :
    State :=
  match b.warp? x.req.warp with
  | none => s.setBlock { b with xfers := b.xfers.filter fun y => y.id != x.id }
  | some w =>
    match w.copyfLane x.req.lane with
    | none => s.setBlock { b with xfers := b.xfers.filter fun y => y.id != x.id }
    | some l =>
      let b := b.setXfer { x with stop := some (cause, addr), undelivered := true, remote := none,
                                  pri := none }
      let b := match x.req.kind, x.req.tile with
        | .tload, some t => b.setTile t { b.tile t with fault := true }
        | _, _ => b
      let ws := copyfWords g x cause
      let t : Cause := ⟨.copyf, 0, addr, ws.1, ws.2, true, some x.id⟩
      let s := s.blame g.ctx b.coreNum cause addr
      if w.pendCommit.isSome then s.setBlock b else s.putWarp b (w.parkAsync g.cb l t) g

/-- What an engine's failure comes to: a stop with its cause, or a wait for a host page (R218; log
entry 12). -/
def State.xferStop (s : State) (b : Block) (c : Ctx) (g : Grid) (x : Xfer) (bad : Bad) : State :=
  match bad with
  | .cause k a => s.copyfRaise b g x k (BitVec.ofNat 64 a)
  | .pri k _ => (s.request c.num true bad).setBlock (b.setXfer { x with pri := some k })

/- ### Transfers to and from other packages (R236, R263) -/

/-- Whether an address names the pod window and may (R209). -/
def State.windowAddr (s : State) (c : Ctx) (va n : Nat) : Bool :=
  decide (2 ^ 56 ≤ va) && decide (va < 2 ^ 57) && windowOk s c s.npod va n

/-- The bytes of one fabric request of a transfer: to the end of the local and of the remote page. -/
def remoteStep (a b left : Nat) : Nat :=
  Nat.min left (Nat.min (2 ^ 16 - a % 2 ^ 16) (2 ^ 16 - b % 2 ^ 16))

/-- Why an `rput` or `rget` cannot send its next request: its remote side lies outside the pod window,
or its local source cannot be read (R262, R263, R265). -/
def State.remoteBad (s : State) (b : Block) (c : Ctx) (x : Xfer) : Option Bad :=
  let q := x.req
  let src := q.src.toNat + x.pos
  let dst := q.dst.toNat + x.pos
  let n := remoteStep src dst (q.len - x.pos)
  let put := q.kind == .rput
  if !s.windowAddr c (if put then dst else src) n then
    some (.cause cWINDOW (if put then dst else src))
  else if put then
    match engineRead s b c .cp q.srcSp src n with
    | .error e => some e
    | .ok _ => none
  else none

/-- The next request of an `rput` or `rget` (R236, R262, R263). -/
def State.runRemote (s : State) (b : Block) (c : Ctx) (x : Xfer) : State :=
  let q := x.req
  let src := q.src.toNat + x.pos
  let dst := q.dst.toNat + x.pos
  let n := remoteStep src dst (q.len - x.pos)
  let send (va : Nat) (op : ROp) : State :=
    (s.remote c va op (.xfer b.key x.id)).setBlock (b.setXfer { x with remote := some s.fresh })
  if q.kind = .rput then
    match engineRead s b c .cp q.srcSp src n with
    | .error _ => s
    | .ok bytes => send dst (.put bytes)
  else send src (.get n)

/-- Whether a transfer goes to or from another package. -/
def XferReq.isRemote (q : XferReq) : Bool := q.kind == .rput || q.kind == .rget

end Sys2Proof.Machine
end

