-- ==== Sys2Proof/Machine/Matrix.lean ====
section
/-! DEFINITION. The matrix engine (R275 to R294): reservation, the gang and the rendezvous latch, the
released instructions in engine order, and the arithmetic of the array (R183, R184). -/

namespace Sys2Proof.Machine

/-- The matrix engine of a block's core. -/
def State.mx (s : State) (b : Block) : Engine := (s.core b.coreNum).mx
/-- The state with the matrix engine of a core written. -/
def State.setMx (s : State) (core : Nat) (e : Engine) : State :=
  s.setCore core { s.core core with mx := e }

/-- Where warp n of block k stands. -/
def State.siteOf (s : State) (k n len : Nat) : Option Site := { s with cur := (k, n) }.site len

/-- An arrival stands while its warp is at the same place and may issue there: pre-emption, a halt or a trap
removes it (R281, R298). -/
def State.stands (s : State) (k : Nat) (a : Arrival) : Bool :=
  match s.siteOf k a.warp 0 with
  | some x => x.pc == a.pc && x.handler == a.handler
  | none => false

/-- The record at a block's latch with the arrivals that stand; none without any (R281). -/
def State.latchNow (s : State) (b : Block) : Option Latch :=
  match (s.mx b).latch with
  | none => none
  | some l =>
    let now := l.arrived.filter (s.stands b.key)
    if now.isEmpty then none else some { l with arrived := now }

/-- Whether a released `mgang` or `mrel` has yet to take effect: instructions that ask for the gang wait for
it (R294; log entry 56: DEDUCED). -/
def Engine.gangDue (e : Engine) : Bool :=
  e.ops.any fun o =>
    match o.instr with
    | .mgang _ _ => true
    | .mrel _ => true
    | _ => false

/- ### Reservation (R277 to R279) -/

/-- The engine newly reserved by a block (R278). -/
def Engine.fresh (k : Nat) : Engine := { Engine.reset with holder := some k }

/-- The end of a reservation (R279). -/
def State.mxFree (s : State) (b : Block) : State :=
  (s.setBlock { b with rsv := false, gang := 0 }).setMx b.coreNum Engine.reset

/-- mrsv (R277): the predicate is written in the lanes of E. In deterministic mode it stalls while
another block holds the engine. -/
def execMrsv (wk : BitVec 8) (pd : BitVec 6) (s : State) : Out :=
  issue (.mrsv wk pd) s fun x =>
    let e := x.s.mx x.b
    let answer (x : Site) (ok : Bool) : State :=
      (x.withW (x.w.pset pd.toNat x.mask (if ok then x.mask else 0))).done
    if e.holder = some x.b.key then answer x true
    else if e.holder.isSome then (if x.g.img.desc.det then x.s else answer x false)
    else
      answer { x with
        s := x.s.setMx x.b.coreNum (Engine.fresh x.b.key)
        b := { x.b with rsv := true, gang := laneBit x.w.num } } true

/-- The status word of R293, with the latch held or not; `quiet` gives OTHER and LATCH as 0 (R91). -/
def mstatWord (e : Engine) (b : Block) (latched : Bool) (n : Nat) (quiet : Bool) : Word :=
  let mine := e.holder == some b.key
  let shd := if e.act then e.fmt0 else e.fmt1
  let act := if e.act then e.fmt1 else e.fmt0
  0#23 ++ bit (!quiet && e.holder.isSome && !mine) ++
    (if mine then BitVec.ofNat 2 shd ++ BitVec.ofNat 2 act else 0#4) ++
    bit (!quiet && mine && latched) ++ bit (mine && b.gang.getLsbD n) ++
    bit (!mine || e.ops.isEmpty) ++ bit mine

/-- mstat (R293). In deterministic mode it waits until IDLE (R91). -/
def execMstat (wk d : BitVec 8) (s : State) : Out :=
  issue (.mstat wk d) s fun x =>
    let e := x.s.mx x.b
    let det := x.g.img.desc.det
    if det && e.holder == some x.b.key && !e.ops.isEmpty then x.s
    else
      (x.withW (x.w.eachLane x.mask fun w l =>
        w.vset d.toNat l (mstatWord e x.b (x.s.latchNow x.b).isSome x.w.num det))).done

/- ### The rendezvous (R280 to R284) -/

/-- The warps of a gang, the leader first (R280). -/
def gangWarps (gang : Mask) : List Nat := lanes.filter fun n => gang.getLsbD n

/-- A GANG trap (R282). -/
def gangCause (gang : Mask) (reason : Nat) (loff ioff : Word) : Cause :=
  ⟨.gang, 0, gang ++ BitVec.ofNat 32 reason, loff ++ ioff, 0, false, none⟩

/-- f applied at the site of each warp listed, one after another. -/
def State.atWarps (s : State) (k len : Nat) (ws : List Nat) (f : Site → State) : State :=
  { ws.foldl (fun t n =>
      match t.siteOf k n len with
      | some x => f x
      | none => t) s with cur := s.cur }

/-- The formats of the active and the shadow plane once the released instructions are done (R284). -/
def plannedFormats (e : Engine) : Nat × Nat :=
  e.ops.foldl (fun p o =>
    match o.instr with
    | .mlds _ _ _ _ _ => (p.1, (o.tile.map fun t => t.fmt.toNat).getD 0)
    | .mswp _ => (p.2, p.1)
    | _ => p) (if e.act then (e.fmt1, e.fmt0) else (e.fmt0, e.fmt1))

/-- The vector registers of the leader that a matrix instruction reads (R288, R290, R291). -/
def mxReads : Instr → List Nat
  | .mlds _ _ b _ _ => (List.range 4).map (b.toNat + ·)
  | .mstr _ _ _ b n1 _ _ _ => (List.range ((2 * (n1.toNat + 1) - 1) / 64 + 1)).map (b.toNat + ·)
  | .mwr _ _ a _ _ => [a.toNat]
  | _ => []

/-- The accumulator rows that an instruction reads as its source: accumulator, first row, rows. -/
def accReads : Instr → Option (Nat × Nat × Nat)
  | .mrd _ _ acc row _ => some (acc.toNat, row.toNat, 1)
  | .mst _ acc _ _ n1 a0 _ _ => some (acc.toNat, a0.toNat, n1.toNat + 1)
  | .mstM _ acc _ _ n1 a0 _ _ => some (acc.toNat, a0.toNat, n1.toNat + 1)
  | _ => none

/-- The key of an accumulator word (R275, R296). -/
def accKey (acc row col : Nat) : Nat := acc * 8192 + row * 128 + col

/-- The first poisoned accumulator word that an instruction reads, as word 1 of an ECCU record
(R365, R367). -/
def poisonedAcc (e : Engine) (i : Instr) : Option DWord :=
  match accReads i with
  | none => none
  | some (acc, row, n) =>
    let cols := match i with
      | .mrd _ _ _ _ cb => (List.range 32).map (32 * cb.toNat + ·)
      | _ => List.range 128
    ((List.range n).map fun r => cols.filterMap fun c =>
      if e.accPoison.contains (accKey acc (row + r) c) then
        some (BitVec.ofNat 64 (0xfe * 2 ^ 56 + (row + r) * 2 ^ 16 + c))
      else none).flatten.head?

/-- The poisoned register word of the leader that an instruction reads, if any (R365, R367). -/
def poisonedData (w : Warp) (i : Instr) : Option DWord :=
  ((mxReads i).map fun r => lanes.filterMap fun l =>
    if w.poison.contains (vkey r l) then some (eccuReg 0 r l) else none).flatten.head?

/-- Whether a gang value is invalid (R294). -/
def badGang (b : Block) (warps : Nat) (v : DWord) : Bool :=
  let m := v.extractLsb' 0 32
  m == 0 || decide (6 < countLanes m) ||
    (gangWarps m).any fun n => decide (warps ≤ n) ||
      (match b.warp? n with
      | some w => w.hasEnded
      | none => true)

/-- Whether the tile does not fit the instruction: SPAD (R288, R290, R292). -/
def unfitTile (t : Tile) (fmts : Nat × Nat) : Instr → Bool
  | .mlds _ _ _ tr _ =>
    let es2 := fmtHalfBytes t.fmt.toNat
    !t.cfg || t.fmt == 0 || decide (3 < t.fmt.toNat) ||
      (if tr then decide (t.rows < 128) || decide (2 * t.rowbytes < 64 * es2)
      else decide (t.rows < 64) || decide (2 * t.rowbytes < 128 * es2))
  | .mstr _ _ _ _ n1 _ _ _ =>
    !t.cfg || decide (t.rows < n1.toNat + 1) ||
      decide (2 * t.rowbytes < 64 * fmtHalfBytes t.fmt.toNat) || fmts.1 == 0 ||
      t.fmt.toNat != fmts.1
  | .mst _ _ _ _ n1 _ _ _ =>
    !t.cfg || !((decide (1 ≤ t.fmt.toNat) && decide (t.fmt.toNat ≤ 3)) ||
      (decide (16 ≤ t.fmt.toNat) && decide (t.fmt.toNat ≤ 18))) ||
      decide (t.rows < n1.toNat + 1) ||
      decide (2 * t.rowbytes < 128 * fmtHalfBytes t.fmt.toNat)
  | _ => false

/-- The checks of step 6 of R284, and the poison that R365 puts among them. -/
def releaseCheck (e : Engine) (L : Site) (i : Instr) (scalars : List DWord) (loff : Word) :
    Option Cause :=
  let tile := (mxTile i).map L.b.tile
  let bad := match i with
    | .mgang _ _ => badGang L.b L.g.img.desc.warps (scalars.getD 0 0)
    | _ => false
  let align := match i with
    | .mstM _ _ h _ _ _ _ _ =>
      (match L.g.img.tlrs[h.toNat]? with
      | some t => decide (t.fmt ≤ 3) && (scalars.getD 0 0).toNat % 32 != 0
      | none => false)
    | _ => false
  if bad then some (gangCause L.b.gang 4 loff (L.off L.pc))
  else if (tile.map fun t => unfitTile t (plannedFormats e) i).getD false then
    some (Cause.one .spad (BitVec.ofNat 64 ((tile.map (·.base)).getD 0)))
  else if align then some (Cause.one .align (scalars.getD 0 0 &&& 0xffffffff))
  else
    match poisonedData L.w i, poisonedAcc e i with
    | some a, _ => some (Cause.one .eccu a)
    | none, some a => some (Cause.one .eccu a)
    | none, none => none

/-- Whether an earlier released instruction may still poison accumulator words that this one reads: it waits for them,
so that step 6 sees what it reads (R284, R365; log entry 56: DEDUCED). -/
def mxUnsettled (e : Engine) (b : Block) (i : Instr) : Bool :=
  (accReads i).isSome && !e.ops.isEmpty &&
    !(b.spadPoison.isEmpty && e.accPoison.isEmpty && e.planePoison.isEmpty)

/-- The instruction at the latch released once every member has arrived with it (R281, R284): every
member traps under a check of step 6, or the engine takes it and every member moves past. -/
def State.latchRelease (s : State) (k : Nat) : State :=
  match s.block? k with
  | none => s
  | some b =>
    let e := s.mx b
    match s.latchNow b with
    | none => s
    | some l =>
      let ws := gangWarps b.gang
      if !(ws.all fun n => l.arrived.any fun a => a.warp == n) then s
      else
        let sites := ws.filterMap fun n => s.siteOf k n l.instr.bytes
        match sites with
        | [] => s
        | L :: _ =>
          let tokOk := match l.instr with
            | .mstM _ _ _ _ _ _ _ tok => L.w.tokenFree (some tok)
            | _ => true
          if sites.length ≠ ws.length || !tokOk || mxUnsettled e b l.instr then s
          else
            match releaseCheck e L l.instr l.scalars l.off with
            | some c =>
              (s.setMx b.coreNum { e with latch := none }).atWarps k l.instr.bytes ws fun x =>
                (if c.code = .eccu then x.logConsumed c.w1 else x).leave 0 [(x.mask, .trap
                  (if c.code = .gang then gangCause b.gang 4 l.off (x.off x.pc) else c))]
            | none =>
              let op : MOp :=
                { instr := l.instr, scalars := l.scalars, leader := L.w.num
                  members := sites.map fun x => (x.w.num, x.mask)
                  off := L.off L.pc, tile := (mxTile l.instr).map b.tile
                  data := (mxReads l.instr).map fun r => lanes.map fun n => L.w.vget r n }
              let s1 := s.setMx b.coreNum { e with latch := none, ops := e.ops ++ [op] }
              s1.atWarps k l.instr.bytes ws fun x =>
                let x := x.issued l.instr
                (match l.instr with
                | .mstM _ _ _ _ _ _ _ tok =>
                  if x.w.num = L.w.num then
                    x.withW (x.w.setToken tok.toNat (x.w.token tok.toNat + 1))
                  else x
                | _ => x).done

/-- Every member at the latch, and the warp that differs, raise GANG MISMATCH (R281). -/
def State.latchMismatch (s : State) (k n : Nat) (l : Latch) (len : Nat) : State :=
  match s.block? k with
  | none => s
  | some b =>
    let ws := (gangWarps b.gang).filter fun m => m == n || l.arrived.any fun a => a.warp == m
    (s.setMx b.coreNum { s.mx b with latch := none }).atWarps k len ws fun x =>
      x.leave 0 [(x.mask, .trap (gangCause b.gang 3 l.off (x.off x.pc)))]

/-- An instruction that passes through the rendezvous arrives at the latch (R281, R284 steps 4 and
5); a warp that has arrived stalls. -/
def rendezvous (i : Instr) (scalars : Warp → List DWord) (s : State) : Out :=
  issue i s fun x =>
    if !x.b.rsv then
      x.leave 0 [(x.mask, .trap (gangCause x.b.gang 1 0xffffffff (x.off x.pc)))]
    else if (x.s.mx x.b).gangDue then x.s
    else if !x.b.gang.getLsbD x.w.num then
      x.leave 0 [(x.mask, .trap (gangCause x.b.gang 2
        (((x.s.latchNow x.b).map (·.off)).getD 0xffffffff) (x.off x.pc)))]
    else
      let e := x.s.mx x.b
      let here : Arrival := ⟨x.w.num, x.pc, x.handler⟩
      match x.s.latchNow x.b with
      | none =>
        (x.s.setMx x.b.coreNum { e with
          latch := some ⟨i, scalars x.w, [here], x.off x.pc⟩ }).latchRelease x.b.key
      | some l =>
        if l.instr = i && l.scalars = scalars x.w then
          (x.s.setMx x.b.coreNum { e with
            latch := some { l with
              arrived := (l.arrived.filter fun a => a.warp != x.w.num) ++ [here] } }).latchRelease x.b.key
        else x.s.latchMismatch x.b.key x.w.num l x.len

/-- mrel (R279, R294). -/
def execMrel (wk : BitVec 8) (s : State) : Out := rendezvous (.mrel wk) (fun _ => []) s
/-- mgang (R294). -/
def execMgang (wk : BitVec 8) (a : BitVec 5) (s : State) : Out :=
  rendezvous (.mgang wk a) (fun w => [w.sget a.toNat]) s
/-- mlds (R288). -/
def execMlds (wk : BitVec 8) (t : BitVec 4) (b : BitVec 8) (tr : Bool) (xs : BitVec 2) (s : State) :
    Out := rendezvous (.mlds wk t b tr xs) (fun _ => []) s
/-- mswp (R289). -/
def execMswp (wk : BitVec 8) (s : State) : Out := rendezvous (.mswp wk) (fun _ => []) s
/-- mstr (R290). -/
def execMstr (wk : BitVec 8) (acc : BitVec 2) (t : BitVec 4) (b : BitVec 8) (n1 a0 : BitVec 6)
    (xs : BitVec 2) (za : Bool) (s : State) : Out :=
  rendezvous (.mstr wk acc t b n1 a0 xs za) (fun _ => []) s
/-- mrd (R291). -/
def execMrd (wk d : BitVec 8) (acc : BitVec 2) (row : BitVec 6) (cb : BitVec 2) (s : State) : Out :=
  rendezvous (.mrd wk d acc row cb) (fun _ => []) s
/-- mwr (R291). -/
def execMwr (wk : BitVec 8) (acc : BitVec 2) (a : BitVec 8) (row : BitVec 6) (cb : BitVec 2)
    (s : State) : Out := rendezvous (.mwr wk acc a row cb) (fun _ => []) s
/-- mst (R292). -/
def execMst (wk : BitVec 8) (acc : BitVec 2) (t : BitVec 4) (b : BitVec 8) (n1 a0 : BitVec 6)
    (xs : BitVec 2) (gap : BitVec 4) (s : State) : Out :=
  rendezvous (.mst wk acc t b n1 a0 xs gap) (fun _ => []) s
/-- mst.m (R292). -/
def execMstM (wk : BitVec 8) (acc : BitVec 2) (tlr : BitVec 8) (sc : BitVec 5) (n1 a0 : BitVec 6)
    (gap : BitVec 4) (tok : BitVec 3) (s : State) : Out :=
  rendezvous (.mstM wk acc tlr sc n1 a0 gap tok)
    (fun w => [w.sget sc.toNat, w.sget (sc.toNat + 1), w.sget (sc.toNat + 2)]) s
/-- mclr (R291). -/
def execMclr (wk : BitVec 8) (acc : Option (BitVec 2)) (s : State) : Out :=
  rendezvous (.mclr wk acc) (fun _ => []) s

/- ### The array's arithmetic (R183, R184) -/

/-- The SB format of a code of R14. -/
def sbOfCode (f : Nat) : SbFmt := if f = 1 then .sb4 else if f = 2 then .sb8 else .sb16

/-- An element resolved: sign, magnitude, exponent. -/
abbrev Elem := Bool × Nat × Nat

/-- group_value of R183 over the products of 16 pairs: binary32 bits and flags. -/
def groupValue (f : SbFmt) (xs ws : List Elem) : Nat × BitVec 5 :=
  let ps := (xs.zip ws).filterMap fun p =>
    if p.1.2.1 * p.2.2.1 = 0 then none
    else some (p.1.1 != p.2.1, p.1.2.1 * p.2.2.1, p.1.2.2 + p.2.2.2)
  let emax := ps.foldl (fun m p => Nat.max m p.2.2) 0
  let sum : Int := ps.foldl (fun a p =>
    a + signedVal p.1 (p.2.1 * 256 / 2 ^ (emax - p.2.2))) 0
  if sum = 0 then (0, 0)
  else F32.round .rn (decide (sum < 0)) sum.natAbs ((emax : Int) - 2 * sbK f - 8) false

/-- One column of one row: the accumulator word after the four groups (R184), and the flags. -/
def columnSum (f : SbFmt) (acc : Nat) (x w : List Elem) : Nat × BitVec 5 :=
  (List.range 4).foldl (fun a g =>
    let v := groupValue f ((x.drop (16 * g)).take 16) ((w.drop (16 * g)).take 16)
    let r := F32.add .rn false a.1 v.1
    (r.1, a.2 ||| v.2 ||| r.2)) (acc, 0)

/- ### Elements of tiles and planes -/

/-- The code of tile element (r, c) in scratchpad, and whether it is poisoned. -/
def tileCode (b : Block) (t : Tile) (r c : Nat) : Nat × Bool :=
  let hb := fmtHalfBytes t.fmt.toNat
  let half := 2 * (t.base + r * t.rowbytes) + c * hb
  let n := (hb + 1) / 2
  let v := leNat (b.spad.bytes (half / 2) n)
  (if hb = 1 then v / 16 ^ (half % 2) % 16 else v,
    (List.range n).any fun k => b.spadPoison.contains ((half / 2 + k) / 4))

/-- The exponent pair of block j in the scale registers (R174). -/
def scalePair (data : List (List Word)) (xs : Nat) (j : Nat) : Nat × Nat :=
  let word := (data.getD (j / 64) []).getD (j / 2 % 32) 0
  let h := 2 * (j % 2)
  (byteOf word ((h + xs) % 4), byteOf word ((h + 1 + xs) % 4))

/-- A tile element resolved under R172, with its flag and poison. -/
def tileElem (b : Block) (t : Tile) (data : List (List Word)) (xs j r c : Nat) :
    Elem × BitVec 5 × Bool :=
  let code := tileCode b t r c
  let e := scalePair data xs j
  let v := sbResolve (sbOfCode t.fmt.toNat) code.1 e.1 e.2
  (v.1, v.2, code.2)

/-- A plane element as its image word (R296). -/
def planeWord (x : Elem) : Word := BitVec.ofNat 32 (x.2.1 * 2 ^ 16 + (if x.1 then 256 else 0) + x.2.2)
/-- The element of an image word. -/
def planeElem (w : Word) : Elem := (w.getLsbD 8, (w.extractLsb' 16 14).toNat, (w.extractLsb' 0 8).toNat)

/-- The plane with index k. -/
def Engine.plane (e : Engine) (k : Bool) : List (Nat × Word) := if k then e.plane1 else e.plane0
/-- The format of the plane with index k. -/
def Engine.fmt (e : Engine) (k : Bool) : Nat := if k then e.fmt1 else e.fmt0
/-- The key of a plane element's poison. -/
def planeKey (k : Bool) (i j : Nat) : Nat := (if k then 8192 else 0) + 128 * i + j

/- ### Performing a released instruction -/

/-- Flags into the FLAGS of every member (R182). -/
def Block.memberFlags (b : Block) (ms : List (Nat × Mask)) (f : BitVec 5) : Block :=
  ms.foldl (fun b m =>
    match b.warp? m.1 with
    | some w => b.setWarp (w.raiseFlags false f)
    | none => b) b

/-- mlds performed: the shadow plane and its format (R288). -/
def Engine.load (e : Engine) (b : Block) (op : MOp) (t : Tile) (tr : Bool) (xs : Nat) :
    Engine × BitVec 5 :=
  let k := !e.act
  let els := (List.range 8192).map fun n =>
    let i := n / 128
    let j := n % 128
    if tr then tileElem b t op.data xs (j * 2 + i / 32) j i
    else tileElem b t op.data xs (i * 4 + j / 32) i j
  let p := smSplice 0 [] 0 (els.map fun x => planeWord x.1)
  let bad := (List.range 8192).zip els |>.filterMap fun x =>
    if x.2.2.2 then some (planeKey k (x.1 / 128) (x.1 % 128)) else none
  let keep := e.planePoison.filter fun n => decide ((n < 8192) = k)
  let e := { e with planePoison := keep ++ bad }
  (if k then { e with plane1 := p, fmt1 := t.fmt.toNat }
    else { e with plane0 := p, fmt0 := t.fmt.toNat }, els.foldl (fun f x => f ||| x.2.1) 0)

/-- mstr performed: n rows into the accumulator (R290). -/
def Engine.stream (e : Engine) (b : Block) (op : MOp) (t : Tile) (acc n a0 xs : Nat) (za : Bool) :
    Engine × BitVec 5 :=
  let f := sbOfCode t.fmt.toNat
  let plane := e.plane e.act
  let col (j : Nat) : List Elem :=
    (List.range 64).map fun i => planeElem (smGet 0 plane (128 * i + j))
  let cols := (List.range 128).map col
  let badCol (j : Nat) : Bool :=
    (List.range 64).any fun i => e.planePoison.contains (planeKey e.act i j)
  let rows := (List.range n).map fun r =>
    let x := (List.range 64).map fun i => tileElem b t op.data xs (2 * r + i / 32) r i
    let badRow := x.any fun p => p.2.2
    (cols.zip (List.range 128)).map fun p =>
      let key := accKey acc (a0 + r) p.2
      let old := if za then 0 else (smGet 0 e.acc key).toNat
      let v := columnSum f old (x.map (·.1)) p.1
      (BitVec.ofNat 32 v.1, v.2 ||| x.foldl (fun a q => a ||| q.2.1) 0,
        badRow || badCol p.2 || (!za && e.accPoison.contains key))
  let flat := rows.flatten
  let lo := accKey acc a0 0
  let bad := (List.range flat.length).zip flat |>.filterMap fun p =>
    if p.2.2.2 then some (lo + p.1) else none
  ({ e with
      acc := smSplice 0 e.acc lo (flat.map (·.1))
      accPoison := (e.accPoison.filter fun k => decide (k < lo ∨ lo + flat.length ≤ k)) ++ bad },
    flat.foldl (fun a p => a ||| p.2.1) 0)

/-- One accumulator row converted: the 128 element codes, the exponent pairs of its blocks and the
flags (R292). -/
def outputRow (fmt clamp gap : Nat) (row : List Nat) : List Nat × List (Nat × Nat) × BitVec 5 :=
  if fmt ≤ 3 then
    let f := sbOfCode fmt
    let c := clampOf f clamp
    let d := if gap = 0 then sbGap f else gap
    let bl := (List.range 4).map fun k =>
      packBlock f c d (((row.drop (32 * k)).take 32).map F32.decode)
    ((bl.map fun p => p.2.2.1).flatten, bl.map fun p => (p.1, p.2.1),
      bl.foldl (fun a p => a ||| p.2.2.2) 0)
  else if fmt = 0x12 then (row, [], 0)
  else
    let r := row.map fun v => convFF F32 (if fmt = 0x10 then F16 else BF16) .rn false false v
    (r.map (·.1), [], r.foldl (fun a p => a ||| p.2) 0)

/-- The rows that mst or mst.m converts. -/
def Engine.output (e : Engine) (acc n a0 fmt clamp gap : Nat) :
    List (List Nat × List (Nat × Nat) × BitVec 5) :=
  (List.range n).map fun r => outputRow fmt clamp gap
    ((List.range 128).map fun j => (smGet 0 e.acc (accKey acc (a0 + r) j)).toNat)

/-- The bytes of a tile row of element codes. -/
def rowBytes (fmt : Nat) (codes : List Nat) : List Byte :=
  let hb := fmtHalfBytes fmt
  if hb = 1 then
    (List.range (codes.length / 2)).map fun k =>
      BitVec.ofNat 8 (codes.getD (2 * k) 0 % 16 + 16 * (codes.getD (2 * k + 1) 0 % 16))
  else (codes.map fun v => leBytes (hb / 2) v).flatten

/-- A block's pair written into every member's lanes of E (R174, R292). -/
def Warp.setPair (w : Warp) (m : Mask) (reg xs j : Nat) (p : Nat × Nat) : Warp :=
  let l := j / 2 % 32
  let r := reg + j / 64
  let h := 2 * (j % 2)
  if m.getLsbD l then
    w.vset r l (setByteOf (setByteOf (w.vget r l) ((h + xs) % 4) p.1) ((h + 1 + xs) % 4) p.2)
  else w

/-- The warps of a gang value that have not ended (R280). -/
def Block.liveGang (b : Block) (m : Mask) : Mask :=
  maskOf fun n => m.getLsbD n && (b.warp? n).any fun w => !w.hasEnded

/-- A released instruction performed on the engine and its block (R288 to R292, R294): the engine, the
block, and a transfer that mst.m hands to the copy path. -/
def mxPerform (e : Engine) (b : Block) (g : Grid) (op : MOp) :
    Engine × Block × Option XferReq :=
  let t := op.tile.getD Tile.zero
  match op.instr with
  | .mlds _ _ _ tr xs =>
    let r := e.load b op t tr xs.toNat
    (r.1, b.memberFlags op.members r.2, none)
  | .mswp _ => ({ e with act := !e.act }, b, none)
  | .mstr _ acc _ _ n1 a0 xs za =>
    let r := e.stream b op t acc.toNat (n1.toNat + 1) a0.toNat xs.toNat za
    (r.1, b.memberFlags op.members r.2, none)
  | .mrd _ d acc row cb =>
    (e, op.members.foldl (fun b m =>
      match b.warp? m.1 with
      | some w => b.setWarp (w.eachLane m.2 fun w l =>
          w.vset d.toNat l (smGet 0 e.acc (accKey acc.toNat row.toNat (32 * cb.toNat + l))))
      | none => b) b, none)
  | .mwr _ acc _ row cb =>
    let lo := accKey acc.toNat row.toNat (32 * cb.toNat)
    ({ e with
        acc := smSplice 0 e.acc lo (op.data.getD 0 [])
        accPoison := e.accPoison.filter fun k => decide (k < lo ∨ lo + 32 ≤ k) }, b, none)
  | .mclr _ acc =>
    match acc with
    | none => ({ e with acc := [], accPoison := [] }, b, none)
    | some a =>
      let lo := accKey a.toNat 0 0
      let out (k : Nat) : Bool := decide (k < lo ∨ lo + 8192 ≤ k)
      ({ e with acc := e.acc.filter fun p => out p.1, accPoison := e.accPoison.filter out }, b, none)
  | .mst _ acc _ reg n1 a0 xs gap =>
    let rows := e.output acc.toNat (n1.toNat + 1) a0.toNat t.fmt.toNat 0 gap.toNat
    let b := ((List.range rows.length).zip rows).foldl (fun b p =>
      b.engineWrite (t.base + p.1 * t.rowbytes) (rowBytes t.fmt.toNat p.2.1)) b
    let pairs := (rows.map fun p => p.2.1).flatten
    let b := op.members.foldl (fun b m =>
      match b.warp? m.1 with
      | some w => b.setWarp (((List.range pairs.length).zip pairs).foldl
          (fun w p => w.setPair m.2 reg.toNat xs.toNat p.1 p.2) w)
      | none => b) b
    (e, b.memberFlags op.members (rows.foldl (fun a p => a ||| p.2.2) 0), none)
  | .mstM _ acc h _ n1 a0 gap tok =>
    match g.img.tlrs[h.toNat]? with
    | none => (e, b, none)
    | some l =>
      let rows := e.output acc.toNat (n1.toNat + 1) a0.toNat l.fmt l.clamp gap.toNat
      let codes := (rows.map (·.1)).flatten
      let pairs := (rows.map fun p => p.2.1).flatten
      (e, b,
        some { kind := .mstM, warp := op.leader
               lane := lowestLane ((op.members.head?.map (·.2)).getD 0)
               srcSp := false, dstSp := false, src := 0, dst := 0, len := 0, tile := none
               tlr := some h.toNat, tr := .none
               coords := coordsOf (op.scalars.getD 0 0) (op.scalars.getD 1 0) (op.scalars.getD 2 0)
               tok := some tok, ioff := op.off, opc := 0x3a, fn := 2, rows := n1.toNat + 1, gap := 0
               buf := codes.map (BitVec.ofNat 32) ++
                 pairs.map fun p => BitVec.ofNat 32 (p.1 + 256 * p.2)
               flags := rows.foldl (fun a p => a ||| p.2.2) 0
               members := maskOf fun k => op.members.any fun m => m.1 == k })
  | .mgang _ _ =>
    (e, { b with gang := if b.gang = 0 then 0 else b.liveGang ((op.scalars.getD 0 0).extractLsb' 0 32) }, none)
  | _ => (e, b, none)

/-- Whether the engine can perform an operation: its tile is ready (R254) and mst.m finds an output
buffer free (R292). -/
def mxReady (b : Block) (op : MOp) : Bool :=
  (match mxTile op.instr with
  | some t => (b.tile t).st == .ready
  | none => true) &&
  (match op.instr with
  | .mstM _ _ _ _ _ _ _ _ => decide ((b.xfers.filter fun x => x.req.kind == .mstM).length < 2)
  | _ => true)

/-- Whether a core's engine has an operation to perform. -/
def State.mxEnabled (s : State) (core : Nat) : Bool :=
  let e := (s.core core).mx
  match e.holder.bind s.block?, e.ops with
  | some b, op :: _ => mxReady b op
  | _, _ => false

/-- The engine of a core performs its oldest released instruction (R285); `mrel`, or an empty gang, then ends
the reservation (R279). -/
def State.mxStep (s : State) (core : Nat) : State :=
  let e := (s.core core).mx
  match e.holder.bind s.block?, e.ops with
  | some b, op :: rest =>
    match s.grid? b.grid with
    | none => s
    | some g =>
      if !mxReady b op then s
      else
        let r := mxPerform e b g op
        let e := { r.1 with ops := rest }
        let b := r.2.1
        let s := s.setMx core e
        let s := match r.2.2 with
          | some q =>
            ({ s with fresh := s.fresh + 1 }).setBlock
              { b with xfers := b.xfers ++ [(⟨s.fresh, q, 0, none, false, none, none⟩ : Xfer)] }
          | none => s.setBlock b
        let ends := match op.instr with
          | .mrel _ => true
          | _ => b.gang == 0 && rest.isEmpty
        if ends then s.mxFree b else s
  | _, _ => s

/-- The engine of a core performs up to n outstanding instructions (R279). -/
def State.mxDrain (core : Nat) : Nat → State → State
  | 0, s => s
  | n + 1, s => State.mxDrain core n (s.mxStep core)

/-- MATRIX_OP_EXECUTE: the engine performs its oldest released instruction (R285). -/
def execMatrixOpExecute (core : Nat) (s : State) : Out := .next (s.mxStep core)

/-- A member's warp ends (R280, R281, R279): its bit goes, the latch is examined anew, and an empty
gang ends the reservation once the engine is idle. -/
def State.mxMemberEnds (s : State) (k n : Nat) : State :=
  match s.block? k with
  | none => s
  | some b =>
    if !b.rsv || !b.gang.getLsbD n then s
    else
      let b := { b with gang := b.gang &&& ~~~(laneBit n) }
      let s := s.setBlock b
      if b.gang = 0 then (if (s.mx b).ops.isEmpty then s.mxFree b else s)
      else s.latchRelease k

end Sys2Proof.Machine
end

