-- ==== Sys2Proof/Machine/Stack.lean ====
section
/-! DEFINITION. The layout of a block's context area (R89), and the call-stack area in it (R129 to R132). -/

namespace Sys2Proof.Machine

/- ### The context area (R89) -/

/-- The next multiple of m. -/
def ceilTo (n m : Nat) : Nat := (n + m - 1) / m * m
/-- The effective call-stack size (R10, R89). -/
def Desc.stack (d : Desc) : Nat := if d.cstack = 0 then 4096 else d.cstack
/-- Offset Q of the queue entries. -/
def Desc.areaQ (d : Desc) : Nat := ceilTo (0x4500 + 0x9000 * d.warps) 4096
/-- Offset C of the call-stack areas. -/
def Desc.areaC (d : Desc) : Nat := ceilTo (d.areaQ + 4096 + 64 * d.quota) 256
/-- Offset X of the matrix image. -/
def Desc.areaX (d : Desc) : Nat := ceilTo (d.areaC + d.stack * d.warps) 256
/-- Offset S of the scratchpad image. -/
def Desc.areaS (d : Desc) : Nat := ceilTo (d.areaX + 196864) 256
/-- The size of a block context area. -/
def Desc.area (d : Desc) : Nat := ceilTo (d.areaS + d.spad) 4096
/-- The offset of warp w's save area. -/
def areaWarp (w : Nat) : Nat := 0x4500 + 0x9000 * w

/- ### The call-stack area (R129 to R132) -/

/-- The entries that a call-stack area holds (R129). -/
def Desc.stackCap (d : Desc) : Nat := d.stack / 144

/-- The address in bonded DRAM of area entry m of a warp (R89, R129). -/
def Site.stackAddr (x : Site) (m : Nat) : Nat :=
  x.b.key + x.g.img.desc.areaC + x.g.img.desc.stack * x.w.num + 144 * m

/-- The 144-byte image of an entry (R129). -/
def CallEntry.bytes (e : CallEntry) : List Byte :=
  leBytes 4 e.pend.toNat ++ leBytes 12 e.prio.toNat ++
    (lanes.map fun l => leBytes 4 (if e.pend.getLsbD l then smGet 0 e.retoff l else 0).toNat).flatten

/-- The entry of an image (R129). -/
def CallEntry.ofBytes (bs : List Byte) : CallEntry :=
  let pend : Mask := BitVec.ofNat 32 (leNat (bs.take 4))
  { pend := pend, prio := BitVec.ofNat 8 (leNat ((bs.drop 4).take 1))
    retoff := lanes.foldl (fun m l =>
      smSet 0 m l (BitVec.ofNat 32 (leNat ((bs.drop (16 + 4 * l)).take 4)))) [] }

/-- Area entry m, with the lanes that have exited since taken out (R132). -/
def Site.areaEntry (x : Site) (m : Nat) : CallEntry :=
  let e := CallEntry.ofBytes (x.s.dram.bytes (x.stackAddr m) 144)
  { e with pend := e.pend &&& ~~~x.w.exited }

/-- The site with area entry m written. -/
def Site.putArea (x : Site) (m : Nat) (e : CallEntry) : Site :=
  { x with s := x.s.writeLocs ((List.range 144).map fun k => .mem 0 (x.stackAddr m + k)) e.bytes }

/-- The newest area entries that are empty discarded (R131); `fuel` is the number of entries. -/
def Site.trimArea : Nat → Site → Site
  | 0, x => x
  | fuel + 1, x =>
    if x.w.csM = 0 then x
    else if (x.areaEntry (x.w.csM - 1)).pend = 0 then
      Site.trimArea fuel (x.withW { x.w with csM := x.w.csM - 1 })
    else x

/-- The area entries below m without the lanes that have exited (R132). -/
def Site.clearArea : Nat → Site → Site
  | 0, x => x
  | m + 1, x =>
    let e := CallEntry.ofBytes (x.s.dram.bytes (x.stackAddr m) 144)
    Site.clearArea m (if e.pend &&& x.w.exited = 0 then x else x.putArea m (x.areaEntry m))

/-- The upkeep of a warp's call stack when lanes of it have exited (R132): their bits in the area go, and so do its
newest entries that are emptied. -/
def State.stackUpkeep (s : State) (k i : Nat) : State :=
  match s.block? k with
  | none => s
  | some b =>
    match b.warp? i, s.grid? b.grid with
    | some w, some g =>
      if w.csM = 0 then s
      else
        let x := Site.clearArea w.csM ⟨s, b, w, g, g.cb, 0, 0, 0, false⟩
        (Site.trimArea x.w.csM x).commit
    | _, _ => s

end Sys2Proof.Machine
end

