-- ==== Sys2Proof/Machine/Barriers.lean ====
section
/-! DEFINITION. Barriers (R88, R299 to R304), and what follows when lanes exit: the ends of warps and
blocks (R116, R279, R280, R300, R301, R314). -/

namespace Sys2Proof.Machine

/- ### The range of a rank (R79, R80) -/

/-- The blocks of a grid (R79). -/
def Grid.blockCount (g : Grid) : Nat := g.gx * g.gy * g.gz
/-- The first linear index of a rank's range (R79). -/
def Grid.rankFirst (g : Grid) (r : Nat) : Nat := r * g.blockCount / g.nrank
/-- The blocks of this package's rank. -/
def Grid.rankBlocks (g : Grid) : Nat := g.rankFirst (g.rank + 1) - g.rankFirst g.rank
/-- The quartets of this package's rank (R80). -/
def Grid.quartets (g : Grid) : Nat := (g.rankBlocks + 3) / 4
/-- Whether every quartet of the rank has been placed. -/
def Grid.allPlaced (g : Grid) : Bool := decide (g.quartets ≤ g.nextQuartet)

/- ### Barrier counters -/

/-- A barrier counter when its block is placed (R88). -/
def BarCtr.zero : BarCtr :=
  { gen := 0, arrived := 0, first := none, passed := none, done := 0, broken := false }
/-- The counter of slot n. -/
def Block.bar (b : Block) (n : Nat) : BarCtr := smGet BarCtr.zero b.bars n
/-- The block with the counter of slot n written. -/
def Block.setBar (b : Block) (n : Nat) (c : BarCtr) : Block :=
  { b with bars := smSet BarCtr.zero b.bars n c }
/-- The warps of a block that have not ended. -/
def Block.liveWarps (b : Block) : Nat := (b.warps.filter fun w => !w.hasEnded).length

/-- Whether a wait is on a barrier slot, with its predicate. -/
def WaitKind.onSlot (n : Nat) : WaitKind → Option (Option (BitVec 6))
  | .bar s _ _ pv => if s = n then some pv else none
  | .barIn s pv => if s = n then some pv else none
  | .barWt s _ _ pv => if s = n then some pv else none
  | _ => none

/-- The lanes parked on a barrier slot for which f holds, their predicates written (R300, R304). -/
def Warp.barWrite (w : Warp) (n : Nat) (ok : Bool) (f : WaitKind → Bool) : Warp × Mask :=
  w.waits.foldl (fun r v =>
    match v.kind.onSlot n with
    | none => r
    | some pv =>
      if !f v.kind then r
      else
        (match pv with
        | some p => r.1.pset p.toNat (laneBit v.lane) (if ok then laneBit v.lane else 0)
        | none => r.1, r.2 ||| laneBit v.lane)) (w, 0)

/-- The lanes of a block parked on a slot for which f holds released, warp by warp (R300 step 3). -/
def State.releaseSlot (s : State) (k n : Nat) (ok : Bool) (f : WaitKind → Bool) : State :=
  match s.block? k with
  | none => s
  | some b =>
    (b.warps.map (·.num)).foldl (fun s i =>
      match s.block? k with
      | none => s
      | some b =>
        match b.warp? i, s.grid? b.grid with
        | some w, some g =>
          let r := w.barWrite n ok f
          if r.2 = 0 then s else s.releaseLanes b r.1 g r.2 5
        | _, _ => s) s

/-- A generation ends in one block (R300, R301): GEN rises and its parked lanes are released; a block
that is away learns of it when it resumes. -/
def State.barEnd (s : State) (k n : Nat) (broken : Bool) : State :=
  match s.block? k with
  | none => s
  | some b =>
    if b.ended then s
    else if b.res != .resident then
      s.setBlock (b.setBar n { b.bar n with passed := none, done := (b.bar n).done + 1, broken := broken })
    else
      let c := b.bar n
      (s.setBlock (b.setBar n { c with gen := c.gen + 1, passed := none, broken := broken })).releaseSlot
        k n (!broken) (fun _ => true)

/-- Whether a block counts as arrived in the network of a scope (R301). -/
def Block.arrivedAt (b : Block) (n : Nat) (sc : Scope) : Bool := b.ended || (b.bar n).passed == some sc

/-- The participants of a block's instance of a grid scope that this package holds (R301). -/
def State.participants (s : State) (b : Block) (sc : Scope) : List Block :=
  if b.spawned then [b]
  else
    s.blocks.filter fun p => p.grid == b.grid && !p.spawned &&
      (match sc with
      | .core => p.key == b.key
      | .quad => p.quartet == b.quartet
      | .die => p.die == b.die
      | _ => true)

/-- The slot under which a rank whose blocks have all ended counts as arrived (log entry 17: DESIGN CHOICE). -/
def endedSlot : Nat := 255

/-- Whether every other rank of a pod grid has arrived at slot n (R301). -/
def Grid.ranksIn (g : Grid) (n : Nat) : Bool :=
  (List.range g.nrank).all fun r => r == g.rank || g.podArrived.contains (n, r) ||
    g.podArrived.contains (endedSlot, r)

/-- The state with this rank's arrival at a `.pod` barrier handed to the fabric, once (R301). -/
def State.sendArrive (s : State) (g : Grid) (n : Nat) : State :=
  if g.podSent.contains n then s
  else
    let also := s.grids.any fun h => h.pod && h.pid == g.pid && h.id != g.id
    { s.setGrid { g with podSent := g.podSent ++ [n] } with
      outbox := s.outbox ++ [.arrive g.pid n g.rank]
      agenda := if also then s.agenda ++ [.remoteAccess ⟨0, s.pkg, s.pkg, 0, 0, .arrive g.pid n g.rank⟩]
        else s.agenda }

/-- The arrivals of a completed `.pod` generation taken out of the network. -/
def Grid.takeArrivals (g : Grid) (n : Nat) : Grid :=
  { g with
    podSent := g.podSent.erase n
    podArrived := (List.range g.nrank).foldl (fun l r => l.erase (n, r)) g.podArrived }

/-- The network of a grid scope examined for a block whose arrival has passed to it (R301). -/
def State.netDone (s : State) (b : Block) (n : Nat) (sc : Scope) : State × Option (List Nat) :=
  let ps := s.participants b sc
  if !ps.all fun p => p.arrivedAt n sc then (s, none)
  else
    match s.grid? b.grid with
    | none => (s, none)
    | some g =>
      let wide := !b.spawned && (sc == .pkg || sc == .pod)
      if wide && !g.allPlaced then (s, none)
      else if sc = .pod ∧ g.pod ∧ !b.spawned then
        let s := s.sendArrive g n
        if g.ranksIn n then
          match s.grid? b.grid with
          | some g => (s.setGrid (g.takeArrivals n), some (ps.map (·.key)))
          | none => (s, none)
        else (s, none)
      else (s, some (ps.map (·.key)))

/-- The condition of slot n of a block examined (R300, R301): the generation completes at `.core`, or
the block's arrival passes to the network, which may complete it in every participant. -/
def State.barCheck : Nat → State → Nat → Nat → State
  | 0, s, _, _ => s
  | fuel + 1, s, k, n =>
    match s.block? k with
    | none => s
    | some b =>
      let c := b.bar n
      let net (s : State) (b : Block) (sc : Scope) : State :=
        match s.netDone b n sc with
        | (s, none) => s
        | (s, some ks) =>
          let s := ks.foldl (fun s k => s.barEnd k n false) s
          ks.foldl (fun s k => State.barCheck fuel s k n) s
      match c.passed, c.first with
      | some sc, _ => net s b sc
      | none, none => s
      | none, some (count, sc) =>
        if sc = .core then
          let target := if count = 0 then b.liveWarps else count
          if target ≤ c.arrived then
            (s.setBlock (b.setBar n { c with arrived := 0, first := none })).barEnd k n false
          else s
        else if b.liveWarps ≤ c.arrived then
          let b := b.setBar n { c with arrived := 0, first := none, passed := some sc }
          net (s.setBlock b) b sc
        else s

/-- Generations that one examination may complete. -/
def barFuel : Nat := 64

/-- One arrival at slot n of a block (R299, R300). -/
def State.barArrive (s : State) (k n count : Nat) (sc : Scope) : State :=
  match s.block? k with
  | none => s
  | some b =>
    let c := b.bar n
    (s.setBlock (b.setBar n { c with
      arrived := c.arrived + 1, first := some (c.first.getD (count, sc)) })).barCheck barFuel k n

/-- The slot, count and scope of the arrival that a warp's parked lanes make: all its live lanes stand
at `bar` instructions of one slot, and the last parked gives count and scope (R299). -/
def Warp.arrival (w : Warp) : Option (Nat × Nat × Scope) :=
  let live := liveLanes w.frontier
  let bars := w.waits.filterMap fun v =>
    match v.kind with
    | .bar n sc c _ => some (v.lane, n, c, sc)
    | _ => none
  match bars.getLast? with
  | none => none
  | some (_, n, c, sc) =>
    if w.frontier.all (fun e => e.park == 5) &&
        (lanes.all fun l => !live.getLsbD l || bars.any fun q => q.1 == l && q.2.1 == n) then
      some (n, c, sc)
    else none

/-- The warp with its lanes' arrival counted. -/
def Warp.countArrival (w : Warp) : Warp :=
  { w with waits := w.waits.map fun v =>
      match v.kind with
      | .bar n _ _ pv => { v with kind := .barIn n pv }
      | _ => v }

/-- A warp whose live lanes may all stand at a barrier examined (R299); its arrival is a release, which waits for the
warp's pod-window stores (R230, R236; log entry 58: DESIGN CHOICE). -/
def State.barExamine (s : State) (k i : Nat) : State :=
  match s.block? k with
  | none => s
  | some b =>
    match b.warp? i with
    | none => s
    | some w =>
      if w.acks ≠ 0 then s
      else
      match w.arrival with
      | none => s
      | some (n, c, sc) => (s.setBlock (b.setWarp w.countArrival)).barArrive k n c sc

/- ### Barrier instructions (R303, R304) -/

/-- The waits of the lanes of a site. -/
def Site.waitsOf (x : Site) (kind : WaitKind) : List Wait :=
  (lanes.filter fun l => x.mask.getLsbD l).map fun l =>
    (⟨l, x.pc + BitVec.ofNat 64 x.len, kind⟩ : Wait)

/-- bar (R304). -/
def execBar (wk : BitVec 8) (scope : Scope) (slot : BitVec 4) (count : BitVec 6)
    (pv : Option (BitVec 6)) (s : State) : Out :=
  issueCommit (.bar wk scope slot count pv) s fun x =>
    let s1 := (x.withW { x.w.endNpe with
        waits := x.w.waits ++ x.waitsOf (.bar slot.toNat scope count.toNat pv) }).leaveCommit false 0
      [(x.mask, .park 5)]
    s1.barExamine x.b.key x.w.num

/-- bar.arr (R304): the arrival is made once the region has committed and the warp's pod-window stores are performed
(R230, R236). -/
def execBarArr (wk : BitVec 8) (sd : BitVec 5) (scope : Scope) (slot : BitVec 4) (count : BitVec 6)
    (s : State) : Out :=
  issueCommitWhen (.barArr wk sd scope slot count) s (fun x => x.w.acks != 0) fun x =>
    let s1 := (x.withW (x.w.sset sd.toNat (0#32 ++ (x.b.bar slot.toNat).gen))).leaveCommit false 0
      [(x.mask, .next)]
    s1.barArrive x.b.key slot.toNat count.toNat scope

/-- bar.wt (R304). -/
def execBarWt (wk : BitVec 8) (scope : Scope) (slot : BitVec 4) (a : BitVec 5)
    (pv : Option (BitVec 6)) (s : State) : Out :=
  issueCommit (.barWt wk scope slot a pv) s fun x =>
    let c := x.b.bar slot.toNat
    if c.gen != (x.w.sget a.toNat).extractLsb' 0 32 then
      (x.withW (match pv with
        | some p => x.w.pset p.toNat x.mask (if c.broken then 0 else x.mask)
        | none => x.w)).leaveCommit false 0 [(x.mask, .next)]
    else
      (x.withW { x.w.endNpe with
          waits := x.w.waits ++ x.waitsOf (.barWt slot.toNat c.gen scope pv) }).leaveCommit false 0
        [(x.mask, .park 5)]

/-- Whether a wait is at a `.pod` barrier, given the scope of the block's arrival. -/
def podWait (passed : Bool) : WaitKind → Bool
  | .bar _ sc _ _ => sc == .pod
  | .barIn _ _ => passed
  | .barWt _ _ sc _ => sc == .pod
  | _ => false

/-- Whether a block takes part in a `.pod` generation of slot n: it has arrived there, or warps of it wait. -/
def Block.inPodBar (b : Block) (n : Nat) : Bool :=
  let c := b.bar n
  let inPod := c.passed == some .pod || (c.first.map (·.2)) == some .pod
  inPod || b.warps.any fun w => w.waits.any fun v => (v.kind.onSlot n).isSome && podWait inPod v.kind

/-- A broken `.pod` generation of slot n in one block of its grid (R302): its arrivals are discarded, GEN rises and
the lanes that wait at `.pod` are released; a block that is away learns of it when it resumes. -/
def State.breakBar (s : State) (k n : Nat) : State :=
  match s.block? k with
  | none => s
  | some b =>
    let c := b.bar n
    let from_ : Bool := (c.first.map (·.2)) == some .pod
    let inPod := c.passed == some .pod || from_
    let c' : BarCtr := { c with
      arrived := if from_ then 0 else c.arrived, first := if from_ then none else c.first
      passed := if c.passed == some .pod then none else c.passed, broken := true }
    if b.res != .resident then s.setBlock (b.setBar n { c' with done := c.done + 1 })
    else
      (s.setBlock (b.setBar n { c' with gen := c.gen + 1 })).releaseSlot k n false (podWait inPod)

/-- A TAKEOVER of a rank breaks the `.pod` generations of a grid that this package knows of (R302; log entry 17: DESIGN CHOICE), in
every surviving block of the grid. -/
def State.breakPod (s : State) (gid rank : Nat) : State :=
  (s.grids.filter fun g => g.pod && g.pid == gid).foldl (fun s g =>
    let s := s.setGrid { g with
      podSent := []
      podArrived := g.podArrived.filter fun p => p.1 == endedSlot && p.2 != rank }
    let left := s.blocks.filter fun b => b.grid == g.id && !b.spawned && !b.ended
    let broken := (List.range 16).filter fun n =>
      g.podSent.contains n || g.podArrived.any (fun p => p.1 == n) || left.any fun b => b.inPodBar n
    left.foldl (fun s b => broken.foldl (fun s n => s.breakBar b.key n) s) s) s

/-- The die instances of a grid's barriers examined anew, when a block of it has changed its die (R301). -/
def State.dieMoved (s : State) (gid : Nat) : State :=
  (s.blocks.filter fun b => b.grid == gid && !b.ended).foldl (fun s b =>
    (List.range 16).foldl (fun s n =>
      match s.block? b.key with
      | some b => if (b.bar n).passed = some .die then s.barCheck barFuel b.key n else s
      | none => s) s) s

/- ### Ends of warps and blocks -/

/-- Whether a block has ended and nothing of it is outstanding in the engines or in the fabric. -/
def State.quiet (s : State) (b : Block) : Bool :=
  b.ended && b.xfers.isEmpty && b.warps.all (fun w => w.acks == 0) &&
    !s.fabricOut.any fun r => r.owner.block? == some b.key

/-- The key of a block whose context area has been given back: no address (R89). -/
def goneKey (n : Nat) : Nat := 2 ^ 64 + n

/-- The context area of a block that has ended given back (R89): while its quartet holds its scratchpad range
(R84) the block stays, under a key that is no address. -/
def State.giveArea (s : State) (b : Block) : State :=
  if 2 ^ 64 ≤ b.key then s
  else
    let t := match s.grid? b.grid with
      | some g => s.poolFree g.ctx b.key
      | none => s
    { t with
      blocks := t.blocks.map fun (x : Block) => if x.key = b.key then { x with key := goneKey s.fresh } else x
      fresh := s.fresh + 1 }

/-- The blocks that have ended give back their context areas (R89), and those whose scratchpad ranges are no
longer held go: a quartet's when its last member has ended (R84), and none with a store or a transfer outstanding. The
split of a core that holds nothing returns to 0 (R83). The areas of a parked rank stand in its park list (R65). -/
def State.sweep (s0 : State) (gid : Nat) : State :=
  if (s0.grid? gid).any fun g => g.park != 0 then s0
  else
  let s := (s0.blocks.filter fun b => b.grid == gid && s0.quiet b).foldl State.giveArea s0
  let quiet (b : Block) : Bool := s.quiet b
  let gone (b : Block) : Bool :=
    b.grid == gid && quiet b &&
      (b.spawned || s.blocks.all fun p => p.grid != gid || p.spawned || p.quartet != b.quartet || quiet p)
  let left := s.blocks.filter fun b => !gone b
  let s' := { s with blocks := left }
  (s.blocks.filter gone).foldl (fun s b =>
    if left.any fun p => p.res == .resident && p.coreNum == b.coreNum then s
    else s.setCore b.coreNum { s.core b.coreNum with split := 0 }) s'

/-- A block whose warps have all ended ends: its engine completes what is outstanding (R279), and its arrival
counts in every network (R301, R314). -/
def State.settleBlock (s : State) (k : Nat) : State :=
  match s.block? k with
  | none => s
  | some b =>
    if b.ended || !b.warps.all fun w => w.hasEnded then s
    else
      let s := s.uiUnbind k b.ib.warp
      match s.block? k with
      | none => s
      | some b =>
        let s := if b.rsv then s.mxDrain b.coreNum (s.mx b).ops.length else s
        let b := (s.block? k).getD b
        let s := s.setBlock { b with ended := true }
        let s := if b.rsv then s.mxFree { b with ended := true } else s
        let s :=
          match s.grid? b.grid with
          | some g =>
            if g.pod && g.allPlaced && s.blocks.all fun p => p.grid != b.grid || p.ended then
              s.sendArrive g endedSlot
            else s
          | none => s
        let waiting := s.blocks.filter fun p => p.grid == b.grid && !p.ended
        let s := waiting.foldl (fun s p =>
          (List.range 16).foldl (fun s n =>
            match s.block? p.key with
            | some q => if (q.bar n).passed.isSome then s.barCheck barFuel p.key n else s
            | none => s) s) s
        s.sweep b.grid

/-- What follows when lanes of a warp may have exited: its call stack forgets them (R132), a warp without live lanes
ends (R116), its barriers, gang and bindings are examined, and its block may end. -/
def State.settle (s0 : State) (k i : Nat) : State :=
  let s := s0.stackUpkeep k i
  match s.block? k with
  | none => s
  | some b =>
    match b.warp? i with
    | none => s
    | some w =>
      if w.hasEnded then s
      else if !w.frontier.isEmpty then (s.barExamine k i).notePark k i
      else
        let s := s.setBlock (b.setWarp { w with hasEnded := true, waits := [], utraps := [] })
        let s := s.uiUnbind k i
        let s := s.mxMemberEnds k i
        let s := (List.range 16).foldl (fun s n => s.barCheck barFuel k n) s
        s.settleBlock k

end Sys2Proof.Machine
end

