-- ==== Sys2Proof/Machine/Placement.lean ====
section
/-! DEFINITION. Where blocks go: the context area and the context pool (R89), the parcels and quads a
grid may use (R76, R77), what fits a core (R12, R82, R83, R85), and the placing of a new block (R19,
R81, R126). -/

namespace Sys2Proof.Machine

/- ### The context pool (R89) -/

/-- Whether [a, a + n) meets an allocation. -/
def poolTaken (allocs : List (Nat × Nat)) (a n : Nat) : Bool :=
  allocs.any fun p => decide (p.1 < a + n) && decide (a < p.1 + p.2)

/-- The lowest address of the pool where n bytes at a multiple of `align` are free. -/
def Ctx.poolFind (c : Ctx) (n align : Nat) : Option Nat :=
  let ends := c.poolOff :: c.allocs.map fun p => p.1 + p.2
  let fits := (ends.map fun a => ceilTo a align).filter fun a =>
    decide (a + n ≤ c.poolOff + c.poolSize) && !poolTaken c.allocs a n
  fits.foldl (fun m a => some (match m with
    | some b => Nat.min a b
    | none => a)) none

/-- An allocation from the pool, lowest address first. -/
def Ctx.alloc (c : Ctx) (n align : Nat) : Option (Nat × Ctx) :=
  (c.poolFind n align).map fun a => (a, { c with allocs := c.allocs ++ [(a, n)] })

/- ### Parcels and quads (R58, R76, R77) -/

/-- This package's parcel entry j of the plat (R52, R58). -/
def State.parcel (s : State) (j : Nat) : Word :=
  (platGet s.plat (18728 + 4 * s.pkg + j / 2)).extractLsb' (32 * (j % 2)) 32

/-- The share of the function that a context belongs to (R386). -/
def State.shareOf (s : State) (ctx : Nat) : BitVec 8 :=
  (((s.ctx? ctx).bind fun c => s.func? c.fn).map (·.share)).getD 0xff

/-- The parcels that a grid's blocks may use (R77, R386). -/
def State.parcelsOf (s : State) (g : Grid) : List Nat :=
  (List.range 8).filter fun j =>
    if g.pod then g.parcels.getLsbD j
    else !(s.parcel j).getLsbD 31 && (s.shareOf g.ctx).getLsbD j

/-- The state of a physical quad at reset: quads 0 to 47 carry their own numbers, and the spares 48 and
49 have not passed a test (R76; log entry 3: DESIGN CHOICE). -/
def Quad.reset (k : Nat) : Quad :=
  { logical := if k % 50 < 48 then some (k % 50) else none
    passed := decide (k % 50 < 48), retired := false, testing := false
    due := false, deferrals := 0, rowsOff := [] }

/-- A physical quad (R76). -/
def State.quad (s : State) (die p : Nat) : Quad :=
  smGet (Quad.reset (die * 50 + p)) s.quads (die * 50 + p)
/-- The state with a physical quad written. -/
def State.setQuad (s : State) (die p : Nat) (q : Quad) : State :=
  { s with quads := smSet (Quad.reset (die * 50 + p)) s.quads (die * 50 + p) q }

/-- Whether a logical quad takes blocks: a physical quad carries its number and is not under test
(R76, R356, R370). -/
def State.quadUsable (s : State) (die q : Nat) : Bool :=
  (List.range 50).any fun p =>
    (s.quad die p).logical == some q && !(s.quad die p).retired && !(s.quad die p).testing &&
      !(s.quad die p).due

/-- The usable quads of a grid in ascending (die, logical quad) order (R76, R81). -/
def State.quadsFor (s : State) (g : Grid) : List (Nat × Nat) :=
  let ps := s.parcelsOf g
  ((List.range 4).map fun die =>
    ((List.range 48).filter fun q => ps.contains (2 * die + q / 24) && s.quadUsable die q).map
      fun q => (die, q)).flatten

/- ### What a core has left (R82, R83, R85) -/

/-- Whether a block's core still holds its resources. -/
def Block.on (b : Block) (core : Nat) : Bool := b.res == .resident && !b.ended && b.coreNum == core

/-- The register granules of one block (R12, R82). -/
def Desc.regs (d : Desc) : Nat :=
  ceilTo (d.warps * (d.vregs * 128 + d.pregs * 4 + d.sregs * 8)) 1024

/-- The descriptor of a block's grid. -/
def State.descOf (s : State) (b : Block) : Option Desc := (s.grid? b.grid).map (·.img.desc)

/-- The scratchpad ranges held on a core: those of resident blocks, ended quartet members among them
(R84). -/
def State.spadRanges (s : State) (core : Nat) : List (Nat × Nat) :=
  s.blocks.filterMap fun b =>
    if b.res == .resident && b.coreNum == core && !(b.ended && b.spawned) then
      (s.descOf b).map fun d => (b.spadOff, d.spad)
    else none

/-- The scratchpad ceiling of a core (R83). -/
def splitMax : Nat := 458752

/-- The lowest free scratchpad range of n bytes (R82). -/
def State.spadFind (s : State) (core n : Nat) : Option Nat :=
  let rs := s.spadRanges core
  let fits := (0 :: rs.map fun p => ceilTo (p.1 + p.2) 256).filter fun a =>
    decide (a + n ≤ splitMax) && (n == 0 || !poolTaken rs a n)
  fits.foldl (fun m a => some (match m with
    | some b => Nat.min a b
    | none => a)) none

/-- The warp slots of a core in use; an ended warp's is free (R116). -/
def State.slotsUsed (s : State) (core : Nat) : List Nat :=
  ((s.blocks.filter fun b => b.on core).map fun b =>
    (b.warps.filter fun w => !w.hasEnded).map (·.slot)).flatten

/-- The sum of a need over the blocks of a core. -/
def State.usedOn (s : State) (core : Nat) (f : Desc → Nat) : Nat :=
  ((s.blocks.filter fun b => b.on core).map fun b => ((s.descOf b).map f).getD 0).sum

/-- The scratchpad offset that a block of this descriptor would get on a core where it fits (R82,
R85). -/
def State.fits (s : State) (core : Nat) (d : Desc) (spawned : Bool) : Option Nat :=
  let pool := (s.blocks.filter fun b => b.on core && b.spawned == spawned).length
  if decide (pool < 8) && decide ((s.slotsUsed core).length + d.warps ≤ 64) &&
      decide (s.usedOn core Desc.regs + d.regs ≤ Config.regFile) &&
      decide (s.usedOn core (·.bars) + d.bars ≤ 32) then
    s.spadFind core d.spad
  else none

/-- The split of a core raised for a range that ends at `e` (R83). -/
def State.raiseSplit (s : State) (core e : Nat) : State :=
  let c := s.core core
  if c.split < e then s.setCore core { c with split := ceilTo e 65536 } else s

/-- The n lowest free warp slots of a core (R126). -/
def State.freeSlots (s : State) (core n : Nat) : List Nat :=
  let used := s.slotsUsed core
  ((List.range 64).filter fun k => !used.contains k).take n

/- ### New blocks -/

/-- A warp at its start (R19): its lanes at pc with the entry's priority and `s0`. -/
def Warp.start (num slot : Nat) (pc : DWord) (prio : BitVec 8) (s0 : DWord) : Warp :=
  { num := num, slot := slot, frontier := [⟨pc, prio, 0xffffffff, 0⟩], exited := 0, v := []
    s := smSet 0 [] 0 s0, p := [], ck := [], ckmode := 0, flags := 0, tokens := [], cs := [], csM := 0
    rgn := Region.exposed, stores := [], cmds := []
    st := ⟨0, false, false, false, false, false⟩, frame := none, utraps := [], straps := []
    waits := [], loads := [], consumed := [], poison := [], sPoison := [], pPoison := [], acks := 0
    parkedAt := 0, hasEnded := false, pendCommit := none }

/-- A new block on a core (R19, R81, R83, R87, R126): block index and rank as given, its warps at an
entry; `s1` holds the takeover word of a rank taken over (R373). -/
def State.place (s : State) (b : Block) (g : Grid) (e : KEntry) (s0 : DWord) (core off : Nat) : State :=
  let d := g.img.desc
  let slots := s.freeSlots core d.warps
  let c := s.ctx? g.ctx
  let warps := (List.range d.warps).map fun w =>
    let x := Warp.start w (slots.getD w 0) (g.cb + (0#32 ++ e.code)) e.prio s0
    let x := if b.spawned then x else x.sset 1 g.takeover
    if (c.map (·.halt)).getD false then { x with st := { x.st with pdbg := true } } else x
  let b := { b with
    res := .resident, die := core / 192, quad := core % 192 / 4, core := core % 4, spadOff := off
    warps := warps, det := d.det, brken := (c.map (·.brken)).getD false }
  ({ s with blocks := s.blocks ++ [b] }).raiseSplit core (off + d.spad)

/-- The address that `s0` holds at a dispatched block's start (R19). -/
def Grid.s0 (g : Grid) : DWord := if g.argLen = 0 then 0 else g.args

/-- A block context area for a new block: its key and the state (R89). -/
def State.newArea (s : State) (g : Grid) : Option (Nat × State) :=
  match s.ctx? g.ctx with
  | none => none
  | some c => (c.alloc g.img.desc.area 256).map fun r => (r.1, s.setCtx r.2)

/-- The member m of quartet q, as a block without a place. -/
def Grid.member (g : Grid) (key q m : Nat) : Block :=
  let lin := g.rankFirst g.rank + 4 * q + m
  { Block.blank with
    key := key, grid := g.id, rank := g.rank, lin := lin, quartet := q, member := m
    bx := BitVec.ofNat 32 (lin % g.gx), by_ := BitVec.ofNat 32 (lin / g.gx % g.gy)
    bz := BitVec.ofNat 32 (lin / g.gx / g.gy) }

/-- Whether a pre-emption request stands against blocks of a grid on a core, which then takes no new block of the
grid (R347 step 1). -/
def State.barred (s : State) (gid core : Nat) : Bool :=
  s.blocks.any fun b => b.grid == gid && b.res == .resident && !b.ended && b.stop.isSome && b.coreNum == core

/-- A dispatched member placed on the first core of a quad where it fits (R81 step 2). -/
def State.placeMember (s : State) (g : Grid) (die quad q m : Nat) : Option State :=
  let cores := ((List.range 4).map fun k => die * 192 + quad * 4 + k).filter fun k => !s.barred g.id k
  match cores.findSome? fun k => (s.fits k g.img.desc false).map fun off => (k, off) with
  | none => none
  | some (k, off) =>
    match s.newArea g, g.img.entries[g.entry]? with
    | some (key, s'), some e => some (s'.place (g.member key q m) g e g.s0 k off)
    | _, _ => none

/-- A quartet placed whole on a quad (R81), or not at all. -/
def State.placeOn (s : State) (g : Grid) (q : Nat) (quad : Nat × Nat) : Option State :=
  (List.range (Nat.min 4 (g.rankBlocks - 4 * q))).foldl
    (fun o m => o.bind fun s => s.placeMember g quad.1 quad.2 q m) (some s)

/-- A quartet placed on the first quad on which every member fits (R81 step 3). -/
def State.placeQuartet (s : State) (g : Grid) (q : Nat) : Option State :=
  (s.quadsFor g).findSome? fun quad => s.placeOn g q quad

/-- A block spawned on the issuing core (R85, R153): its parent's index and rank. -/
def State.spawn (s : State) (b : Block) (g : Grid) (e : KEntry) (s0 : DWord) : Option State :=
  match s.fits b.coreNum g.img.desc true, s.newArea g with
  | some off, some (key, s') =>
    some (s'.place { Block.blank with
      key := key, grid := g.id, rank := b.rank, lin := b.lin, quartet := b.quartet, member := 0
      bx := b.bx, by_ := b.by_, bz := b.bz, spawned := true, parent := b.key } g e s0 b.coreNum off)
  | _, _ => none

end Sys2Proof.Machine
end

