-- ==== Sys2Proof/Machine/Control.lean ====
section
/-! DEFINITION. Control flow, groups 0x00 to 0x07 (R145 to R153), with the call stack (R129 to R133). -/

namespace Sys2Proof.Machine

/- ### Branches -/

/-- Acting lanes sent to targets (R117, R146): the lanes with an illegal target trap together, the
others go, and the lanes outside `act` move on. -/
def Site.transfer (x : Site) (w0 : DWord) (act : Mask) (t : Nat → DWord) (prio : Option (BitVec 8)) :
    List (Mask × Move) :=
  let bad := maskOf fun l => act.getLsbD l && !x.g.legalPc (t l)
  (bad, .trap (Cause.one .illop w0)) :: (x.mask &&& ~~~act, .next) ::
    (lanes.filter fun l => (act &&& ~~~bad).getLsbD l).map fun l => (laneBit l, .goto (t l) prio)

/-- The address of the next instruction. -/
def Site.nextPc (x : Site) : DWord := x.pc + BitVec.ofNat 64 x.len

/-- bra under LEN 00 (R103, R105). -/
def execBraShort (off : BitVec 24) (s : State) : Out :=
  issue (.braShort off) s fun x =>
    x.leave (instrW0 (.braShort off))
      (x.transfer (instrW0 (.braShort off)) x.mask
        (fun _ => x.nextPc + (off.signExtend 64 <<< 2)) none)
/-- bra under LEN 10 (R103, R105). -/
def execBraLit (off : BitVec 32) (s : State) : Out :=
  issue (.braLit off) s fun x =>
    x.leave (instrW0 (.braLit off))
      (x.transfer (instrW0 (.braLit off)) x.mask (fun _ => x.nextPc + off.signExtend 64) none)
/-- bra (R146). -/
def execBra (c : Ctl) (off : Off) (prio : Option (BitVec 8)) (s : State) : Out :=
  issue (.bra c off prio) s fun x =>
    x.leave (instrW0 (.bra c off prio))
      (x.transfer (instrW0 (.bra c off prio)) (x.acting c) (fun _ => x.nextPc + branchOff off) prio)
/-- jmp (R146). -/
def execJmp (c : Ctl) (a : BitVec 8) (prio : Option (BitVec 8)) (s : State) : Out :=
  issue (.jmp c a prio) s fun x =>
    x.leave (instrW0 (.jmp c a prio))
      (x.transfer (instrW0 (.jmp c a prio)) (x.acting c)
        (fun l => x.g.cb + (0#32 ++ x.w.vget a.toNat l)) prio)
/-- brx (R146): a lane whose index is not below n = C + 1 is not taken. -/
def execBrx (c : Ctl) (a n : BitVec 8) (off : Off) (prio : Option (BitVec 8)) (s : State) : Out :=
  issue (.brx c a n off prio) s fun x =>
    let i (l : Nat) := (x.w.vget a.toNat l).toNat
    let taken := maskOf fun l => (x.acting c).getLsbD l && decide (i l < n.toNat + 1)
    x.leave (instrW0 (.brx c a n off prio))
      (x.transfer (instrW0 (.brx c a n off prio)) taken
        (fun l => x.nextPc + branchOff off + BitVec.ofNat 64 (16 * i l)) prio)

/- ### The call stack (R129 to R132) -/

/-- Area entries moved back while fewer than 4 are held in the core (R131). -/
def Site.refill : Nat → Site → Site
  | 0, x => x
  | fuel + 1, x =>
    let y := Site.trimArea x.w.csM x
    if y.w.csM = 0 ∨ 4 ≤ y.w.cs.length then y
    else
      Site.refill fuel (y.withW { y.w with
        cs := y.w.cs ++ [y.areaEntry (y.w.csM - 1)], csM := y.w.csM - 1 })

/-- The call stack as a `call`, `callx` or `ret` finds it (R131). -/
def Site.stackReady (x : Site) : Site :=
  let y := Site.refill 4 x
  Site.trimArea y.w.csM y

/-- Whether a push finds the area full (R130). -/
def Site.stackFull (x : Site) : Bool :=
  let y := x.stackReady
  decide (4 ≤ y.w.cs.length) && decide (x.g.img.desc.stackCap ≤ y.w.csM)

/-- A push: the oldest of 4 entries held in the core moves to the area (R130). Entries are held newest
first. -/
def Site.push (x : Site) (e : CallEntry) : Site :=
  let y :=
    match x.w.cs.drop 3 with
    | old :: _ =>
      (x.putArea x.w.csM old).withW { x.w with cs := x.w.cs.take 3, csM := x.w.csM + 1 }
    | [] => x
  y.withW { y.w with cs := e :: y.w.cs }

/-- The shared effect of `call` and `callx` (R130, R147). -/
def callCommon (i : Instr) (c : Ctl) (t : Site → Nat → DWord) (prio : Option (BitVec 8)) (s : State) :
    Out :=
  let ok (x : Site) : Mask := maskOf fun l => (x.acting c).getLsbD l && x.g.legalPc (t x l)
  let full := (s.site i.bytes).any fun x => ok x != 0 && x.stackFull
  if full then
    issue i s fun x =>
      x.leave (instrW0 i)
        [(x.acting c, .trap (Cause.one .stack (BitVec.ofNat 64 x.stackReady.w.csM))),
          (x.mask &&& ~~~x.acting c, .next)]
  else
    issueCommit i s fun x =>
      let x := x.stackReady
      let go := ok x
      let ret := x.off x.nextPc
      let y := if go = 0 then x
        else x.push { pend := go, prio := x.prio
                      retoff := lanes.foldl (fun m l => if go.getLsbD l then smSet 0 m l ret else m) [] }
      y.leaveCommit false (instrW0 i) (x.transfer (instrW0 i) (x.acting c) (t x) prio)

/-- call under LEN 00 (R103, R147). -/
def execCallShort (off : BitVec 24) (s : State) : Out :=
  callCommon (.callShort off) Ctl.none (fun x _ => x.nextPc + (off.signExtend 64 <<< 2)) none s
/-- call under LEN 10 (R103, R147). -/
def execCallLit (off : BitVec 32) (s : State) : Out :=
  callCommon (.callLit off) Ctl.none (fun x _ => x.nextPc + off.signExtend 64) none s
/-- call (R147). -/
def execCall (c : Ctl) (off : Off) (prio : Option (BitVec 8)) (s : State) : Out :=
  callCommon (.call c off prio) c (fun x _ => x.nextPc + branchOff off) prio s
/-- callx (R147). -/
def execCallx (c : Ctl) (a : BitVec 8) (prio : Option (BitVec 8)) (s : State) : Out :=
  callCommon (.callx c a prio) c (fun x l => x.g.cb + (0#32 ++ x.w.vget a.toNat l)) prio s

/-- Whether a call-stack entry holds a lane. -/
def CallEntry.holds (e : CallEntry) (l : Nat) : Bool := e.pend.getLsbD l
/-- The entry without a lane. -/
def CallEntry.drop (e : CallEntry) (l : Nat) : CallEntry := { e with pend := e.pend &&& ~~~(laneBit l) }

/-- The newest area entry below m that holds lane l (R131). -/
def Site.areaFind (x : Site) (l : Nat) : Nat → Option Nat
  | 0 => none
  | m + 1 => if (x.areaEntry m).holds l then some m else Site.areaFind x l m

/-- Lane l taken out of the newest entry that holds it, with where it goes (R131 steps 1 and 2); where it would go
outside the code, the entry keeps it (R117). -/
def Site.popLane (x : Site) (l : Nat) : Site × Move :=
  let target (e : CallEntry) : DWord := x.g.cb + (0#32 ++ smGet 0 e.retoff l)
  let go (e : CallEntry) : Move := .goto (target e) (some e.prio)
  match x.w.cs.find? fun e => e.holds l with
  | some e =>
    let i := x.w.cs.findIdx fun e => e.holds l
    if !x.g.legalPc (target e) then (x, go e)
    else (x.withW { x.w with cs := x.w.cs.modify i fun e => e.drop l }, go e)
  | none =>
    match x.areaFind l x.w.csM with
    | some m =>
      (if x.g.legalPc (target (x.areaEntry m)) then x.putArea m ((x.areaEntry m).drop l) else x,
        go (x.areaEntry m))
    | none => (x, .exit)

/-- Whether a transfer of a warp is outstanding, in the engines or waiting for the matrix engine
(R265). -/
def Site.transfersOut (x : Site) : Bool :=
  (x.b.xfers.any fun y => y.req.warp == x.w.num) ||
  ((x.s.core x.b.coreNum).mx.holder == some x.b.key &&
    (x.s.core x.b.coreNum).mx.ops.any fun o =>
      o.leader == x.w.num &&
        (match o.instr with
        | .mstM _ _ _ _ _ _ _ _ => true
        | _ => false))

/-- Whether the lanes of m are the warp's last live ones. -/
def Site.lastLanes (x : Site) (m : Mask) : Bool := liveLanes x.w.frontier &&& ~~~m == 0

/-- The shared effect of `ret` (R131, R148). -/
def retCommon (i : Instr) (c : Ctl) (s : State) : Out :=
  let pop (x : Site) : Site × List (Mask × Move) :=
    (lanes.filter fun l => (x.acting c).getLsbD l).foldl (fun r l =>
      let p := r.1.popLane l
      (p.1, r.2 ++ [(laneBit l, p.2)])) (x.stackReady, [])
  issueCommitWhen i s
    (fun x =>
      let m := (pop x).2.foldl (fun m p => if p.2 = .exit then m ||| p.1 else m) 0
      m != 0 && x.lastLanes m && x.transfersOut)
    (fun x =>
      let r := pop x
      let y := r.1.withW { r.1.w with cs := r.1.w.cs.filter fun e => e.pend != 0 }
      let y := Site.trimArea y.w.csM y
      let bad := r.2.foldl (fun m p =>
        match p.2 with
        | .goto t _ => if x.g.legalPc t then m else m ||| p.1
        | _ => m) 0
      (y.leaveCommit false (instrW0 i)
        ((x.mask &&& ~~~x.acting c, .next) :: (bad, .trap (Cause.one .illop (instrW0 i))) ::
          r.2.map fun p => (p.1 &&& ~~~bad, p.2))).settle x.b.key x.w.num) true

/-- ret under LEN 00 (R103, R148). -/
def execRetShort (s : State) : Out := retCommon .retShort Ctl.none s
/-- ret (R148). -/
def execRet (c : Ctl) (s : State) : Out := retCommon (.ret c) c s

/- ### nop, join, yield, exit -/

/-- nop under LEN 00 (R103, R151). -/
def execNopShort (s : State) : Out := issue .nopShort s fun x => x.done
/-- nop (R151). -/
def execNop (c : Ctl) (s : State) : Out := issue (.nop c) s fun x => x.done
/-- yield (R151): the serving order of warps passes every other warp first (R126). -/
def execYield (c : Ctl) (s : State) : Out := issue (.yield c) s fun x => x.done

/-- join (R150). -/
def execJoin (wk prio : BitVec 8) (s : State) : Out :=
  issue (.join wk prio) s fun x =>
    if x.handler then x.done
    else if x.w.frontier.any fun f => f.park == 0 && decide (f.pc.toNat < x.pc.toNat) then
      x.leave 0 [(x.mask, .stay 0)]
    else ({ x with prio := prio }).done

/-- The shared effect of `exit` (R149): the warp's last lanes wait for its transfers (R265). -/
def exitCommon (i : Instr) (c : Ctl) (s : State) : Out :=
  issueCommitWhen i s (fun x => x.acting c != 0 && x.lastLanes (x.acting c) && x.transfersOut)
    (fun x => (x.leaveCommit false 0 [(x.acting c, .exit), (x.mask &&& ~~~x.acting c, .next)]).settle
      x.b.key x.w.num) true

/-- exit under LEN 00 (R103, R149). -/
def execExitShort (s : State) : Out := exitCommon .exitShort Ctl.none s
/-- exit (R149). -/
def execExit (c : Ctl) (s : State) : Out := exitCommon (.exit c) c s

/- ### Traps by instruction and spawn -/

/-- trap (R152). -/
def execTrap (c : Ctl) (code : BitVec 16) (s : State) : Out :=
  issue (.trap c code) s fun x =>
    if x.acting c = 0 then x.done
    else
      x.leave 0 [(x.acting c, .trap (Cause.one .trapi (0#48 ++ code))),
        (x.mask &&& ~~~x.acting c, .next)]

/-- brk (R152): a nop unless BRKEN is set. -/
def execBrk (c : Ctl) (code : BitVec 16) (s : State) : Out :=
  issue (.brk c code) s fun x =>
    if !x.b.brken || x.acting c == 0 then x.done
    else
      x.leave 0 [(x.acting c, .trap (Cause.one .debug (0#48 ++ code))),
        (x.mask &&& ~~~x.acting c, .next)]

/-- spawn (R153). -/
def execSpawn (c : Ctl) (pd : BitVec 6) (sa : BitVec 5) (entry : BitVec 16) (s : State) : Out :=
  issue (.spawn c pd sa entry) s fun x =>
    let act := x.acting c
    if act = 0 then x.done
    else
      match (x.g.img.entries[entry.toNat]?).bind fun e => x.s.spawn x.b x.g e (x.w.sget sa.toNat) with
      | some s' => ({ x with s := s' }.withW (x.w.pset pd.toNat act act)).done
      | none => (x.withW (x.w.pset pd.toNat act 0)).done

end Sys2Proof.Machine
end

