-- ==== Sys2Proof/Machine/CrossLane.lean ====
section
/-! DEFINITION. Cross-lane operations and checksums, groups 0x28 to 0x2a (R197 to R203). -/

namespace Sys2Proof.Machine

/-- xlane: every source is read before any destination is written (R198). -/
def execXlane (c : Ctl) (d a : BitVec 8) (b : XCount) (mode : XMode) (w64 : Bool)
    (pv : Option (BitVec 6)) (s : State) : Out :=
  issue (.xlane c d a b mode w64 pv) s fun x =>
    let act := x.acting c
    let src (l : Nat) := xlaneSrc mode l (xlaneCount x.w b mode l)
    let w := x.w.eachLane act fun w l =>
      let k := (src l).getD l
      if w64 then w.vset64 d.toNat l (x.w.vget64 a.toNat k) else w.vset d.toNat l (x.w.vget a.toNat k)
    let w :=
      match pv with
      | some p => w.pset p.toNat act (maskOf fun l =>
          match src l with
          | some k => act.getLsbD k
          | none => false)
      | none => w
    (x.withW w).done

/-- match (R198). -/
def execMatchLanes (c : Ctl) (d a : BitVec 8) (all w64 : Bool) (s : State) : Out :=
  issue (.matchLanes c d a all w64) s fun x =>
    let act := x.acting c
    let val (l : Nat) : DWord := if w64 then x.w.vget64 a.toNat l else 0#32 ++ x.w.vget a.toNat l
    let eqMask (l : Nat) : Mask := act &&& maskOf fun k => val k == val l
    (x.withW (x.w.eachLane act fun w l =>
      w.vset d.toNat l
        (if all then (if eqMask (lowestLane act) = act then act else 0) else eqMask l))).done

/-- combine of red and scan: the value and the flags (R199). -/
def combine (op : RedOp) (x y : Nat) : Nat × BitVec 5 :=
  let sx := (BitVec.ofNat 32 x).toInt
  let sy := (BitVec.ofNat 32 y).toInt
  match op with
  | .addS32 => ((x + y) % 2 ^ 32, 0)
  | .addS64 => ((x + y) % 2 ^ 64, 0)
  | .minS32 => (if sx ≤ sy then x else y, 0)
  | .minN32 => (if x ≤ y then x else y, 0)
  | .maxS32 => (if sx ≤ sy then y else x, 0)
  | .maxN32 => (if x ≤ y then y else x, 0)
  | .and => (Nat.land x y, 0)
  | .or => (Nat.lor x y, 0)
  | .xor => (Nat.xor x y, 0)
  | .fadd => F32.add .rn false x y
  | .fmin => F32.minmax false false x y
  | .fmax => F32.minmax true false x y
  | .dadd => F64.add .rn false x y

/-- The value of an exclusive scan over no lane (R199). -/
def emptyVal : RedOp → Nat
  | .minS32 => 0x7fffffff
  | .minN32 => 0xffffffff
  | .maxS32 => 0x80000000
  | .and => 0xffffffff
  | .fmin => 0x7f800000
  | .fmax => 0xff800000
  | _ => 0

/-- One level of the reduction tree: neighbours combined, an absent child passing on (R199). -/
def treeLevel (op : RedOp) : List (Option Nat) → List (Option Nat) × BitVec 5
  | x :: y :: t =>
    let r := treeLevel op t
    match x, y with
    | some p, some q =>
      let v := combine op p q
      (some v.1 :: r.1, v.2 ||| r.2)
    | some p, none => (some p :: r.1, r.2)
    | none, y => (y :: r.1, r.2)
  | [x] => ([x], 0)
  | [] => ([], 0)

/-- n levels of the tree. -/
def treeLevels (op : RedOp) : Nat → List (Option Nat) → List (Option Nat) × BitVec 5
  | 0, l => (l, 0)
  | n + 1, l =>
    let r := treeLevel op l
    let t := treeLevels op n r.1
    (t.1, r.2 ||| t.2)

/-- The lanes' values, none for a lane that takes no part. -/
def laneVals (x : Site) (act : Mask) (a : BitVec 8) (w64 : Bool) : List (Option Nat) :=
  lanes.map fun l => if act.getLsbD l then some (fA x.w w64 a l) else none

/-- red (R199). -/
def execRed (c : Ctl) (d a : BitVec 8) (op : RedOp) (s : State) : Out :=
  issue (.red c d a op) s fun x =>
    let act := x.acting c
    let r := treeLevels op 5 (laneVals x act a op.w64)
    let v := ((r.1.head?).getD none).getD 0
    let w := x.w.eachLane act fun w l =>
      if op.w64 then w.vset64 d.toNat l (BitVec.ofNat 64 v) else w.vset d.toNat l (BitVec.ofNat 32 v)
    (x.withW (w.raiseFlags x.inRegion r.2)).done

/-- The scan's outputs by lane and its flags: running value, then the rest (R199). -/
def scanGo (op : RedOp) (excl : Bool) : List (Option Nat) → Option Nat → List Nat × BitVec 5
  | [], _ => ([], 0)
  | none :: t, run =>
    let r := scanGo op excl t run
    (0 :: r.1, r.2)
  | some v :: t, run =>
    let nx := match run with
      | none => (v, 0)
      | some u => combine op u v
    let r := scanGo op excl t (some nx.1)
    ((if excl then run.getD (emptyVal op) else nx.1) :: r.1, nx.2 ||| r.2)

/-- scan (R199). -/
def execScan (c : Ctl) (d a : BitVec 8) (op : RedOp) (excl : Bool) (s : State) : Out :=
  issue (.scan c d a op excl) s fun x =>
    let act := x.acting c
    let r := scanGo op excl (laneVals x act a op.w64) none
    let w := x.w.eachLane act fun w l =>
      let v := (r.1[l]?).getD 0
      if op.w64 then w.vset64 d.toNat l (BitVec.ofNat 64 v) else w.vset d.toNat l (BitVec.ofNat 32 v)
    (x.withW (w.raiseFlags x.inRegion r.2)).done

/- ### Checksums -/

/-- The value that ckacc takes from a lane in integer mode (R202). -/
def ckInt (ty : CkTy) (x : DWord) : DWord :=
  match ty with
  | .s32 => (x.extractLsb' 0 32).signExtend 64
  | .n32 => 0#32 ++ x.extractLsb' 0 32
  | .b64 => x
  | .f32 => 0#32 ++ x.extractLsb' 0 32

/-- The value that ckacc takes from a lane in FP64 mode, as a binary64 pattern (R202). -/
def ckFp (ty : CkTy) (x : DWord) : Nat :=
  match ty with
  | .s32 => (convIF F64 .rn false (x.extractLsb' 0 32).toInt).1
  | .n32 => (convIF F64 .rn false (x.extractLsb' 0 32).toNat).1
  | .b64 => x.toNat
  | .f32 => (convFF F32 F64 .rn false false (x.extractLsb' 0 32).toNat).1

/-- One step of ckacc (R202). -/
def ckStep (fp neg : Bool) (ty : CkTy) (ck x : DWord) : DWord :=
  if fp then
    BitVec.ofNat 64 (if neg then (F64.sub .rn false ck.toNat (ckFp ty x)).1
      else (F64.add .rn false ck.toNat (ckFp ty x)).1)
  else if neg then ck - ckInt ty x else ck + ckInt ty x

/-- ckacc (R202). -/
def execCkacc (c : Ctl) (ck : BitVec 2) (a : BitVec 8) (ty : CkTy) (neg : Bool) (s : State) : Out :=
  issue (.ckacc c ck a ty neg) s fun x =>
    (x.withW (x.w.eachLane (x.acting c) fun w l =>
      w.ckset ck.toNat (ckStep (w.ckmode.getLsbD ck.toNat) neg ty (w.ckget ck.toNat)
        (if ty = .b64 then w.vget64 a.toNat l else 0#32 ++ w.vget a.toNat l)))).done

/-- The reason for which ckchk fails, if it does (R203). -/
def ckFail (w : Warp) (a b : Nat) (e : Int) : Option Nat :=
  let x := w.ckget a
  let y := w.ckget b
  if w.ckmode.getLsbD a != w.ckmode.getLsbD b then some 2
  else if w.ckmode.getLsbD a then
    match F64.decode x.toNat, F64.decode y.toNat with
    | .nan _, _ => some 3
    | _, .nan _ => some 3
    | .fin s m g, .fin t n h =>
      let k := if g ≤ h then g else h
      let p := signedVal s m * 2 ^ (g - k).toNat
      let q := signedVal t n * 2 ^ (h - k).toNat
      let big := if p.natAbs < q.natAbs then q.natAbs else p.natAbs
      if p = q then none
      else if big < (p - q).natAbs * 2 ^ (-e).toNat then some 1
      else none
    | u, v => if u = v then none else some 1
  else if x = y then none
  else some 1

/-- ckchk (R203). -/
def execCkchk (c : Ctl) (a b : BitVec 2) (e : BitVec 16) (s : State) : Out :=
  issue (.ckchk c a b e) s fun x =>
    let act := x.acting c
    match ckFail x.w a.toNat b.toNat e.toInt with
    | some r =>
      x.leave 0
        [(act, .trap ⟨.check, 0, BitVec.ofNat 64 (r + a.toNat * 2 ^ 8 + b.toNat * 2 ^ 16),
          x.w.ckget a.toNat, x.w.ckget b.toNat, false, none⟩), (x.mask &&& ~~~act, .next)]
    | none => x.done

/-- ckclr (R202). -/
def execCkclr (wk : BitVec 8) (ck : BitVec 2) (f64 : Bool) (s : State) : Out :=
  issue (.ckclr wk ck f64) s fun x =>
    let one := 1#4 <<< ck.toNat
    (x.withW { (x.w.ckset ck.toNat 0) with
      ckmode := if f64 then x.w.ckmode ||| one else x.w.ckmode &&& ~~~one }).done

/-- ckrd (R202). -/
def execCkrd (wk : BitVec 8) (sd : BitVec 5) (ck : BitVec 2) (md : Bool) (s : State) : Out :=
  issue (.ckrd wk sd ck md) s fun x =>
    (x.withW (x.w.sset sd.toNat
      (if md then (if x.w.ckmode.getLsbD ck.toNat then 1 else 0) else x.w.ckget ck.toNat))).done

end Sys2Proof.Machine
end

