-- ==== Sys2Proof/Machine/Fetch.lean ====
section
/-! DEFINITION. Fetching an instruction (R92 to R95, R108, R109): the bytes at the PC of the current
warp, through the core's instruction cache, and the trap of a fetch that fails. -/

namespace Sys2Proof.Machine

/-- Whether a line covers a fetch of a context. -/
def ILine.covers (l : ILine) (ctx pc : Nat) : Bool := l.ctx == ctx && l.va == pc / 128 * 128

/-- The core without the line that covers a fetch. -/
def Core.dropLine (c : Core) (ctx pc : Nat) : Core :=
  { c with icache := c.icache.filter fun l => !l.covers ctx pc }

/-- The word that a line holds at pc. -/
def ILine.word (l : ILine) (pc : Nat) : Word :=
  BitVec.ofNat 32 (leNat ((l.bytes.drop (pc % 128)).take 4))

/-- The core with a new line in place: a set has 8 ways, and what a full set gives up is its oldest line (R92;
log entry 6: DESIGN CHOICE). -/
def Core.addLine (c : Core) (line : ILine) : Core :=
  let set_ := c.icache.filter fun l => l.va / 128 % 64 == line.va / 128 % 64
  let out := set_.drop 7
  { c with icache := line :: c.icache.filter fun l => !out.contains l }

/-- One word at pc from memory, filling a line (R92, R93). A poisoned granule that the word needs is
a consumed error; a line with one elsewhere is read and not kept. -/
def State.fetchMiss (s : State) (c : Ctx) (core pc : Nat) : State × Except Cause Word :=
  match s.fetchPage c pc with
  | .error b => (s, .error b.toCause)
  | .ok p =>
    let at_ := p.base + pc % 2 ^ 16
    if s.poison.contains (p.tier, at_ / 8) then
      (s, .error (Cause.one .eccu (BitVec.ofNat 64 (pc / 8 * 8))))
    else
      let start := at_ / 128 * 128
      let line : ILine := ⟨c.num, pc / 128 * 128, (s.tier p.tier).bytes start 128⟩
      let k := s.core core
      let keep := (List.range 16).all fun j => !s.poison.contains (p.tier, start / 8 + j)
      let k' := k.dropLine c.num pc
      (if keep then s.setCore core (k'.addLine line) else s,
        .ok (line.word pc))

/-- One word at pc. A line held may have left the cache by replacement (R92; log entry 6: DESIGN CHOICE); `same`
says that an earlier word of the instruction came from this line, which is then used whole (R94). -/
def State.fetchWord (s : State) (c : Ctx) (core pc : Nat) (same : Bool) : State × Except Cause Word :=
  match (s.core core).icache.find? fun l => l.covers c.num pc with
  | some l =>
    if same then (s, .ok (l.word pc))
    else if Config.dropLine s.free then { s with free := s.free + 1 }.fetchMiss c core pc
    else ({ s with free := s.free + 1 }, .ok (l.word pc))
  | none => s.fetchMiss c core pc

/-- n further words from pc, in ascending order until one fails. -/
def State.fetchRest (c : Ctx) (core : Nat) :
    Nat → Nat → State → State × Except Cause (List Word)
  | 0, _, s => (s, .ok [])
  | n + 1, pc, s =>
    match s.fetchWord c core pc (pc % 128 != 0) with
    | (s, .error e) => (s, .error e)
    | (s, .ok w) =>
      match State.fetchRest c core n (pc + 4) s with
      | (s, .error e) => (s, .error e)
      | (s, .ok ws) => (s, .ok (w :: ws))

/-- The words of the instruction at pc (R95, R109): nothing is decoded before all are fetched. -/
def State.fetchWords (s : State) (c : Ctx) (core pc : Nat) : State × Except Cause (List Word) :=
  match s.fetchWord c core pc false with
  | (s, .error e) => (s, .error e)
  | (s, .ok w0) =>
    match State.fetchRest c core (wordCount w0 - 1) (pc + 4) s with
    | (s, .error e) => (s, .error e)
    | (s, .ok ws) => (s, .ok (w0 :: ws))

/-- What a fetch gives: an instruction to run, or a trap of the whole entry with the instruction's
first word. -/
inductive Fetched where
  | run (i : Instr)
  | trap (w0 : DWord) (len : Nat) (c : Cause)
deriving DecidableEq, Repr

/-- A block whose first instruction has issued (R90). -/
def State.beginsIn (s : State) (k : Nat) : State :=
  match s.block? k with
  | none => s
  | some b => if b.begun then s else s.setBlock { b with begun := true }

/-- Whether an instruction can issue and leave no trace: a jump to itself. -/
def isJump : Instr → Bool
  | .braShort _ => true
  | .braLit _ => true
  | .bra _ _ _ => true
  | .jmp _ _ _ => true
  | .sbra _ _ _ _ => true
  | .brx _ _ _ _ _ => true
  | _ => false

/-- The outcome of instruction i of the current warp, with its block's first issue noted unless the instruction
stalled (R90). -/
def State.begins (s : State) (i : Instr) (o : Out) : Out :=
  match o with
  | .next t =>
    if (s.block? s.cur.1).any (fun b => !b.begun) && (isJump i || t != s) then .next (t.beginsIn s.cur.1)
    else .next t
  | o => o

/-- The fault address of a fetch that fails at address a: the first byte of the instruction where its page does not
translate, else the address of the later page (R93, R109). -/
def fetchAddr (pc a : DWord) : DWord := if a >>> 16 = pc >>> 16 then pc else a >>> 16 <<< 16

/-- The instruction that the current warp issues next (R108 steps 1 and 2); PAGE is raised against the first
byte of the instruction (R93). No word past the end of the code is read (R117). -/
def State.fetchNext (s : State) : State × Option Fetched :=
  match s.site 0 with
  | none => (s, none)
  | some x =>
    match x.ctx? with
    | none => (s, none)
    | some c =>
      if x.g.codeEnd.toNat ≤ x.pc.toNat then (s, some (.trap 0 0 (Cause.one .illop 0)))
      else
      match s.fetchWords c x.b.coreNum x.pc.toNat with
      | (s, .error e) => (s, some (.trap 0 4 (if e.code = .page then { e with w1 := fetchAddr x.pc e.w1 } else e)))
      | (s, .ok ws) =>
        match decode ws with
        | .ok i => (s, some (.run i))
        | .error _ =>
          let w0 : DWord := 0#32 ++ ws.headD 0
          (s, some (.trap w0 (4 * ws.length) (Cause.one .illop w0)))

/-- The key of the physical granule that holds code at an address (R366). -/
def Site.fetchKey (x : Site) (a : DWord) : Nat :=
  match x.ctx?.map fun c => x.s.fetchPage c a.toNat with
  | some (.ok p) => 2 ^ 64 + p.tier * 2 ^ 60 + (p.base + a.toNat % 2 ^ 16) / 8
  | _ => a.toNat

/-- The trap of a fetch or of an illegal encoding (R93, R107, R366): the whole entry traps. In a
region a fault discards it (R331) and a consumed error is handled by R366. -/
def State.fetchTrap (s : State) (len : Nat) (c : Cause) : State :=
  match s.site len with
  | none => s
  | some x =>
    if x.inRegion && c.code = .page then x.faultInRegion x.mask c
    else if x.inRegion && c.code = .eccu then
      x.consumeInRegion [⟨lowestLane x.mask, x.fetchKey c.w1, c.w1⟩]
    else (if c.code = .eccu then x.logConsumed c.w1 else x).leave c.w1 [(x.mask, .trap c)]

end Sys2Proof.Machine
end

