-- ==== Sys2Proof/Machine/Tiles.lean ====
section
/-! DEFINITION. Tiles, tokens, copies and the queue instructions: groups 0x31 to 0x35 (R253 to R269),
and the events TRANSFER_COMPLETE and COPYF (R254, R261, R265). -/

namespace Sys2Proof.Machine

/- ### Commands -/

/-- An engine command of an instruction: held in a region (R260, R326), else released at once, or
stalled until it can be (R254, R261). -/
def Site.command (x : Site) (i : Instr) (c : Cmd) : State :=
  if x.inRegion then
    (if 16 ≤ x.w.cmds.length then x.precise i (Cause.one .regovf 1)
    else (x.withW { x.w with cmds := x.w.cmds ++ [c] }).done)
  else if x.s.canRelease x.b x.w x.g c then
    let r := x.s.release1 x.b x.w x.g c
    ({ x with s := r.1, b := r.2.1, w := r.2.2 }).done
  else x.s

/- ### Tile table entries (R253 to R258) -/

/-- The bytes of a configured tile (R256). -/
def Tile.range (t : Tile) : Nat × Nat := if t.cfg then (t.base, t.base + t.rows * t.rowbytes) else (0, 0)

/-- Whether two byte ranges overlap. -/
def overlap (p q : Nat × Nat) : Bool := decide (Nat.max p.1 q.1 < Nat.min p.2 q.2)

/-- Whether a tile is filling or draining. -/
def Tile.busy (t : Tile) : Bool := t.st == .filling || t.st == .draining

/-- Whether `tcfg` and `tfree` wait over these byte ranges of a block (R256, R257). -/
def Site.tileWait (x : Site) (t : Nat) (rs : List (Nat × Nat)) : Bool :=
  (List.range 16).any (fun k => (x.b.tile k).busy && rs.any (overlap (x.b.tile k).range)) ||
  (x.b.tile t).busy ||
  ((x.s.core x.b.coreNum).mx.holder == some x.b.key &&
    (x.s.core x.b.coreNum).mx.ops.any fun o =>
      (mxTile o.instr).isSome && rs.any (overlap (o.tile.getD Tile.zero).range)) ||
  x.w.cmds.any fun c =>
    match c with
    | .xfer r => r.tile == some t
    | _ => false

/-- tcfg (R255, R256). -/
def execTcfg (c : Ctl) (t : BitVec 4) (a b : BitVec 5) (fmt : BitVec 8) (rdy : Bool) (s : State) :
    Out :=
  issue (.tcfg c t a b fmt rdy) s fun x =>
    let base := ((x.w.sget a.toNat).extractLsb' 0 32).toNat
    let rows := ((x.w.sget b.toNat).extractLsb' 0 16).toNat
    let rowb := ((x.w.sget b.toNat).extractLsb' 32 32).toNat
    let new : Tile := ⟨fmt, 0, true, false, if rdy then .ready else .empty, rowb, rows, base⟩
    if x.acting c = 0 then x.done
    else if base % 64 ≠ 0 ∨ rows < 1 ∨ 1024 < rows ∨ rowb < 4 ∨ rowb % 4 ≠ 0 ∨
        x.g.img.desc.spad < base + rows * rowb then
      x.precise (.tcfg c t a b fmt rdy) (Cause.one .spad (BitVec.ofNat 64 base))
    else if x.tileWait t.toNat [(x.b.tile t.toNat).range, new.range] then x.s
    else ({ x with b := x.b.setTile t.toNat new }).done

/-- tfree (R257). -/
def execTfree (c : Ctl) (t : BitVec 4) (s : State) : Out :=
  issue (.tfree c t) s fun x =>
    if x.acting c = 0 then x.done
    else if x.tileWait t.toNat [(x.b.tile t.toNat).range] then x.s
    else ({ x with b := x.b.setTile t.toNat Tile.zero }).done

/-- The code of a tile state (R253). -/
def tileStateNum : TileState → BitVec 2
  | .empty => 0
  | .filling => 1
  | .ready => 2
  | .draining => 3

/-- Bits [127:96] of a tile table entry (R253). -/
def tileWord (t : Tile) : Word :=
  0#8 ++ t.fmt ++ BitVec.ofNat 8 t.pend ++ 0#4 ++ bit t.cfg ++ bit t.fault ++ tileStateNum t.st

/-- tstat (R258). -/
def execTstat (c : Ctl) (d : PVDst) (t : BitVec 4) (s : State) : Out :=
  issue (.tstat c d t) s fun x =>
    let e := x.b.tile t.toNat
    let m := x.acting c
    if x.g.img.desc.det && e.busy then x.s
    else
      (x.withW (match d with
        | .p r => x.w.pset r.toNat m (if e.st = .ready then m else 0)
        | .v r => x.w.eachLane m fun w l => w.vset r.toNat l (tileWord e))).done

/- ### Tile transfers (R259, R260) -/

/-- Whether a tile is configured and large enough for a transfer (R259). -/
def tileFits (t : Tile) (l : Tlr) (tr : Tr) : Bool :=
  let hb := fmtHalfBytes l.fmt
  t.cfg &&
    (match tr with
    | .none => decide (l.trows ≤ t.rows) && decide ((l.tcols * hb + 1) / 2 ≤ t.rowbytes)
    | _ => decide (l.tcols ≤ t.rows) && decide ((l.trows * hb + 1) / 2 ≤ t.rowbytes))

/-- The shared effect of `tload` and `tstore`. -/
def tileTransfer (i : Instr) (kind : XferKind) (fn : Nat) (c : Ctl) (t : BitVec 4) (h : BitVec 8)
    (a : BitVec 5) (tr : Tr) (tok : Option (BitVec 3)) (s : State) : Out :=
  issue i s fun x =>
    let e := x.b.tile t.toNat
    if x.acting c = 0 then x.done
    else
      match x.g.img.tlrs[h.toNat]? with
      | none => x.done
      | some l =>
        if !tileFits e l tr then x.precise i (Cause.one .spad (BitVec.ofNat 64 e.base))
        else
          let load := kind == .tload
          x.command i (.xfer
            { kind := kind, warp := x.w.num, lane := lowestLane (x.acting c)
              srcSp := !load, dstSp := load
              src := if load then 0 else BitVec.ofNat 64 e.base
              dst := if load then BitVec.ofNat 64 e.base else 0
              len := e.rowbytes, tile := some t.toNat, tlr := some h.toNat, tr := tr
              coords := coordsOf (x.w.sget a.toNat) (x.w.sget (a.toNat + 1)) (x.w.sget (a.toNat + 2))
              tok := tok, ioff := x.off x.pc, opc := 0x32, fn := fn, rows := 0, gap := 0, buf := []
              flags := 0, members := 0 })

/-- tload (R255, R259). -/
def execTload (c : Ctl) (t : BitVec 4) (tlr : BitVec 8) (a : BitVec 5) (tr : Tr)
    (tok : Option (BitVec 3)) (s : State) : Out :=
  tileTransfer (.tload c t tlr a tr tok) .tload 0 c t tlr a tr tok s
/-- tstore (R255, R259). -/
def execTstore (c : Ctl) (t : BitVec 4) (tlr : BitVec 8) (a : BitVec 5) (tr : Tr)
    (tok : Option (BitVec 3)) (s : State) : Out :=
  tileTransfer (.tstore c t tlr a tr tok) .tstore 1 c t tlr a tr tok s

/- ### Copies and tokens (R261 to R264) -/

/-- Whether a scratchpad operand of a command lies in the block's range (R263, R270). -/
def spOperand (spad : Nat) (v : DWord) (n : Nat) : Bool :=
  v.extractLsb' 32 32 == 0 && decide (v.toNat + n ≤ spad)

/-- The shared effect of `cp`, `rput` and `rget` (R263): destination d, source a. -/
def byteTransfer (i : Instr) (kind : XferKind) (opc fn : Nat) (c : Ctl) (d a : BitVec 5) (len : LenOp)
    (ssp dsp : Bool) (tok : BitVec 3) (s : State) : Out :=
  issue i s fun x =>
    let src := x.w.sget a.toNat
    let dst := x.w.sget d.toNat
    let n := x.w.lenOp len
    if x.acting c = 0 || n == 0 then x.done
    else if ssp && !spOperand x.g.img.desc.spad src n then x.precise i (Cause.one .spad src)
    else if dsp && !spOperand x.g.img.desc.spad dst n then x.precise i (Cause.one .spad dst)
    else
      x.command i (.xfer
        { kind := kind, warp := x.w.num, lane := lowestLane (x.acting c), srcSp := ssp, dstSp := dsp
          src := src, dst := dst, len := n, tile := none, tlr := none, tr := .none, coords := []
          tok := some tok, ioff := x.off x.pc, opc := opc, fn := fn, rows := 0, gap := 0, buf := []
          flags := 0, members := 0 })

/-- cp (R262, R263). -/
def execCp (c : Ctl) (d a : BitVec 5) (len : LenOp) (dir : CpDir) (tok : BitVec 3) (s : State) : Out :=
  byteTransfer (.cp c d a len dir tok) .cp 0x33 0 c d a len
    (match dir with
    | .sg => true
    | .ss => true
    | _ => false)
    (match dir with
    | .gs => true
    | .ss => true
    | _ => false) tok s
/-- rput (R262, R263). -/
def execRput (c : Ctl) (d a : BitVec 5) (len : LenOp) (sp : Bool) (tok : BitVec 3) (s : State) : Out :=
  byteTransfer (.rput c d a len sp tok) .rput 0x35 0 c d a len sp false tok s
/-- rget (R262, R263). -/
def execRget (c : Ctl) (d a : BitVec 5) (len : LenOp) (sp : Bool) (tok : BitVec 3) (s : State) : Out :=
  byteTransfer (.rget c d a len sp tok) .rget 0x35 1 c d a len false sp tok s

/-- waitk (R264): the region commits before the counts are tested. -/
def execWaitk (c : Ctl) (n : BitVec 6) (s : State) : Out :=
  issueCommitWhen (.waitk c n) s
    (fun x => (List.range 8).any fun k => c.waitk.getLsbD k && decide (n.toNat < (x.w.token k).toNat))
    (fun x => x.leaveCommit false 0 [(x.mask, .next)]) true

/- ### Queue instructions (R268, R269) -/

/-- The block with the queue entries that a warp's region holds (R260). -/
def Block.withHeld (b : Block) (cmds : List Cmd) : Block :=
  cmds.foldl (fun b c =>
    match c with
    | .qpush q ws => b.setQueue q.toNat (b.queue q.toNat ++ [ws])
    | _ => b) b

/-- qpush (R268, R269). -/
def execQpush (c : Ctl) (q : BitVec 3) (a : BitVec 5) (s : State) : Out :=
  issue (.qpush c q a) s fun x =>
    let quota := x.g.img.desc.quota
    if x.acting c = 0 then x.done
    else if x.inRegion && decide (16 ≤ x.w.cmds.length) then
      x.precise (.qpush c q a) (Cause.one .regovf 1)
    else if !(x.b.withHeld x.w.cmds).roomFor quota q.toNat then
      x.precise (.qpush c q a) (Cause.one .quota (BitVec.ofNat 64 quota))
    else
      x.command (.qpush c q a) (.qpush q ((List.range 8).map fun k => x.w.sget (a.toNat + k)))

/-- qpop (R268): it stalls while the queue is empty. -/
def execQpop (c : Ctl) (d : BitVec 5) (q : BitVec 3) (s : State) : Out :=
  issue (.qpop c d q) s fun x =>
    if x.acting c = 0 then x.done
    else
      match x.b.queue q.toNat with
      | [] => x.s
      | e :: rest =>
        ({ x with b := x.b.setQueue q.toNat rest }.withW
          ((List.range 8).foldl (fun w k => w.sset (d.toNat + k) (e.getD k 0)) x.w)).done

/- ### Transfers that end or stop -/

/-- The bytes that a transfer writes: scratchpad or global space, and a range; a tensor's bytes count
as the whole global space (R225). -/
def XferReq.writes (q : XferReq) (rows : Nat) : Bool × (Nat × Nat) :=
  match q.kind with
  | .tload => (true, (q.dst.toNat, q.dst.toNat + rows * q.len))
  | .tstore => (false, (0, 2 ^ 64))
  | .mstM => (false, (0, 2 ^ 64))
  | _ => (q.dstSp, (q.dst.toNat, q.dst.toNat + q.len))

/-- Whether an earlier transfer of the same warp writes a byte that this one writes (R225, R263). -/
def Block.behind (b : Block) (x : Xfer) : Bool :=
  let w (y : Xfer) := y.req.writes ((y.req.tile.map fun t => (b.tile t).rows).getD 0)
  (b.xfers.takeWhile fun y => y.id != x.id).any fun y =>
    y.req.warp == x.req.warp && (w y).1 == (w x).1 && overlap (w y).2 (w x).2

/-- A transfer that an engine can work on, with its block, grid and context. -/
def State.xferAt (s : State) (k id : Nat) : Option (Block × Xfer × Grid × Ctx) :=
  match s.block? k with
  | none => none
  | some b =>
    match b.xfers.find? fun x => x.id == id, s.grid? b.grid with
    | some x, some g =>
      if b.res == .resident && x.stop.isNone && x.remote.isNone && x.pri.isNone && !b.behind x then
        (s.ctx? g.ctx).map fun c => (b, x, g, c)
      else none
    | _, _ => none

/-- TRANSFER_COMPLETE: a transfer that meets no failure runs to its end (R254, R261, R263); one with
another package sends its next request. -/
def execTransferComplete (b x : Nat) (s : State) : Out :=
  .next (match s.xferAt b x with
  | none => s
  | some (bl, xf, g, c) =>
    if xf.req.isRemote then
      match s.remoteBad bl c xf with
      | some _ => s
      | none => s.runRemote bl c xf
    else
      let r := s.runLocal bl c g xf
      match r.bad with
      | some _ => s
      | none => r.s.setBlock (r.b.finishXfer xf))

/-- A stopped transfer whose COPYF is still to be raised: a commit was under way then (R325), or its block has
come back from a park image (R354). -/
def State.copyfDue (s : State) (k id : Nat) : Option (Block × Xfer × Grid × BitVec 8 × DWord) :=
  match s.block? k with
  | none => none
  | some b =>
    match b.xfers.find? fun x => x.id == id, s.grid? b.grid with
    | some x, some g =>
      (match x.stop, b.warp? x.req.warp with
      | some (k, a), some w =>
        let raised := w.utraps.any (fun t => t.xfer == some id) ||
          w.frame.any fun f => f.trap.xfer == some id
        if b.res == .resident && x.undelivered && !raised && w.pendCommit.isNone then
          some (b, x, g, k, a)
        else none
      | _, _ => none)
    | _, _ => none

/-- COPYF: a transfer that meets a failure stops there; a host page that is not resident is asked for
(R218, R265, R266). -/
def execCopyf (b x : Nat) (s : State) : Out :=
  .next (match s.copyfDue b x with
  | some (bl, xf, g, k, a) => s.copyfRaise bl g xf k a
  | none =>
  match s.xferAt b x with
  | none => s
  | some (bl, xf, g, c) =>
    if xf.req.isRemote then
      match s.remoteBad bl c xf with
      | some bad => s.xferStop bl c g xf bad
      | none => s
    else
      let r := s.runLocal bl c g xf
      match r.bad with
      | some bad => r.s.xferStop r.b c g { xf with pos := r.pos } bad
      | none => s)

end Sys2Proof.Machine
end

