-- ==== Sys2Proof/Machine/Engines.lean ====
section
/-! DEFINITION. The engine queues (R268 to R273, R311): copies, gathers, collectives, interrupt sends
and transfer chains, with the events ENGINE_RESULT and CHAIN_RECORD_DONE. -/

namespace Sys2Proof.Machine

/-- A copy within the package on a path (R263). -/
def State.copyBytes (s : State) (via : Via) (b : Block) (c : Ctx) (ssp dsp : Bool) (src dst len : Nat) : Ran :=
  copyRun c via ssp dsp src dst len len 0 s b

/- ### Transfer chains (R272, R273) -/

/-- What the walk of a chain makes of the record it stands at. -/
inductive ChainOut where
  | ended
  | moved (s : State) (b : Block) (next : DWord) (len : Nat)
  | faulted (s : State) (b : Block) (cause : BitVec 8) (faddr : DWord) (moved : Nat)
  | waits (s : State)

/-- The fields of a transfer record (R272). -/
structure ChainRec where
  next : DWord
  src : DWord
  dst : DWord
  len : Nat
  own : Bool
  ssp : Bool
  dsp : Bool
  reserved : Bool
deriving DecidableEq, Repr

/-- A record's fields from its 64 bytes, as a number (R272). -/
def chainRec (v : BitVec 512) : ChainRec :=
  { next := v.extractLsb' 0 64, src := v.extractLsb' 64 64, dst := v.extractLsb' 128 64
    len := (v.extractLsb' 192 40).toNat, own := v.getLsbD 256, ssp := v.getLsbD 257
    dsp := v.getLsbD 258
    reserved := v.extractLsb' 232 24 != 0 || v.extractLsb' 259 5 != 0 || v.extractLsb' 280 232 != 0 }

/-- One record of a chain (R273). `spad` is the block's range, none where no block stands behind the
chain. -/
def chainStep (s : State) (b : Block) (c : Ctx) (spad : Option Nat) (a : Nat) : ChainOut :=
  if a = 0 then .ended
  else
    match s.readVa c a 64 with
    | .error (.pri k v) => .waits (s.request c.num true (.pri k v))
    | .error (.cause k v) => .faulted (s.blame c.num b.coreNum k (BitVec.ofNat 64 v)) b k (BitVec.ofNat 64 v) 0
    | .ok bytes =>
      let v : BitVec 512 := BitVec.ofNat 512 (leNat bytes)
      let r := chainRec v
      let keep := (v.extractLsb' 257 7).toNat * 2
      let mark (s : State) (own : Nat) (status cause : BitVec 8) : Except Bad State :=
        s.writeVa c (a + 32) [BitVec.ofNat 8 (keep + own), status, cause]
      let fault (s : State) (b : Block) (k : BitVec 8) (f : DWord) (n : Nat) : ChainOut :=
        match mark s 1 2 k with
        | .ok s' => .faulted s' b k f n
        | .error _ => .faulted s b k f n
      let badSp (sp : Bool) (x : DWord) : Bool :=
        sp && (match spad with
          | none => true
          | some m => !spOperand m x r.len)
      if !r.own then .ended
      else if r.reserved || badSp r.ssp r.src || badSp r.dsp r.dst then fault s b 5 0 0
      else
        let t := s.copyBytes .cp b c r.ssp r.dsp r.src.toNat r.dst.toNat r.len
        match t.bad with
        | some (.pri k v) => .waits (s.request c.num true (.pri k v))
        | some (.cause k v) => fault (t.s.blame c.num b.coreNum k (BitVec.ofNat 64 v)) t.b k (BitVec.ofNat 64 v) t.pos
        | none =>
          match mark t.s 0 1 0 with
          | .ok s' => .moved s' t.b r.next r.len
          | .error (.pri k v) => .waits (s.request c.num true (.pri k v))
          | .error (.cause k v) => .faulted t.s t.b k (BitVec.ofNat 64 v) t.pos

/- ### Results (R271) -/

/-- The words of a result (R271). -/
def resultWords (w0 : DWord) (status : BitVec 8) (cause : BitVec 8) (done faddr rec : DWord) :
    List DWord :=
  [w0.extractLsb' 32 32 ++ 0#8 ++ cause ++ status ++ w0.extractLsb' 0 8, done, faddr, rec, 0, 0, 0, 0]

/-- What an engine makes of a command: its result with the state it leaves, the wait for a host page or
for a chain's next record, or a send to another package. -/
inductive EngineOut where
  | post (s : State) (b : Block) (ws : List DWord)
  | wait (s : State)
  | sent (s : State)

/-- The result of a command that is not performed (R270), with its REC (R271). -/
def notPerformed (s : State) (b : Block) (w0 rec : DWord) : EngineOut :=
  .post s b (resultWords w0 3 5 0 0 rec)

/-- The result of a command that stopped with a failure (R271). -/
def stopped (s s0 : State) (b : Block) (c : Ctx) (w0 : DWord) (bad : Bad) (done : Nat)
    (rec : DWord) : EngineOut :=
  match bad with
  | .cause k a => .post (s.blame c.num b.coreNum k (BitVec.ofNat 64 a)) b (resultWords w0 2 k (BitVec.ofNat 64 done) (BitVec.ofNat 64 a) rec)
  | .pri k a => .wait (s0.request c.num true (.pri k a))

/-- Whether words 0's unused bits and CFL flags outside `cfl`, and the words from `n` on, are zero
(R270). -/
def cmdZero (ws : List DWord) (cfl : BitVec 8) (n : Nat) : Bool :=
  (ws.getD 0 0).extractLsb' 16 16 == 0 && (ws.getD 0 0).extractLsb' 8 8 &&& ~~~cfl == 0 &&
    (ws.drop n).all fun w => w == 0

/-- A COPY command (R270). -/
def engineCopy (s : State) (b : Block) (c : Ctx) (spad : Nat) (ws : List DWord) : EngineOut :=
  let w0 := ws.getD 0 0
  let n := ((ws.getD 3 0).extractLsb' 0 40).toNat
  let ssp := w0.getLsbD 8
  let dsp := w0.getLsbD 9
  if !cmdZero ws 3 4 || (ws.getD 3 0).extractLsb' 40 24 != 0 ||
      (ssp && !spOperand spad (ws.getD 1 0) n) || (dsp && !spOperand spad (ws.getD 2 0) n) then
    notPerformed s b w0 0
  else
    let r := s.copyBytes .cp b c ssp dsp (ws.getD 1 0).toNat (ws.getD 2 0).toNat n
    match r.bad with
    | some bad => stopped r.s s r.b c w0 bad r.pos 0
    | none => .post r.s r.b (resultWords w0 1 0 (BitVec.ofNat 64 n) 0 0)

/-- The rows of a gather from row i on (R270). -/
def gatherRows (c : Ctx) (table index dst rowb stride : Nat) (dsp : Bool) :
    Nat → Nat → State → Block → Ran
  | 0, i, s, b => ⟨s, b, i, none⟩
  | fuel + 1, i, s, b =>
    match s.readOn c .ga (index + 4 * i) 4 with
    | .error e => ⟨s, b, i, some e⟩
    | .ok bytes =>
      let r := s.copyBytes .ga b c false dsp ((table + leNat bytes * stride) % 2 ^ 64)
        ((dst + i * rowb) % 2 ^ 64) rowb
      match r.bad with
      | some e => ⟨r.s, r.b, i, some e⟩
      | none => gatherRows c table index dst rowb stride dsp fuel (i + 1) r.s r.b

/-- A GATHER command (R270). -/
def engineGather (s : State) (b : Block) (c : Ctx) (spad : Nat) (ws : List DWord) : EngineOut :=
  let w0 := ws.getD 0 0
  let count := ((ws.getD 4 0).extractLsb' 0 32).toNat
  let rowb := ((ws.getD 4 0).extractLsb' 32 32).toNat
  let dsp := w0.getLsbD 9
  if !cmdZero ws 2 6 || rowb == 0 || decide (65536 < rowb) ||
      (dsp && !spOperand spad (ws.getD 3 0) (count * rowb)) then notPerformed s b w0 0
  else
    let r := gatherRows c (ws.getD 1 0).toNat (ws.getD 2 0).toNat (ws.getD 3 0).toNat rowb
      (ws.getD 5 0).toNat dsp count 0 s b
    match r.bad with
    | some bad => stopped r.s s r.b c w0 bad r.pos 0
    | none => .post r.s r.b (resultWords w0 1 0 (BitVec.ofNat 64 count) 0 0)

/- ### Collectives (R222, R270) -/

/-- The ring of a group's members from its root on (R56). -/
def ringFrom (root : Nat) (mask : Nat → Bool) : List Nat :=
  ((List.range 256).map fun k => (root + k) % 256).filter mask

/-- A grid's group: its members along the route and GGEN; a local grid's is its own package alone
(R56, R57, R270). -/
def State.groupOf (s : State) (g : Grid) : List Nat × Nat :=
  if !g.pod then ([s.pkg], 0)
  else
    let row := g.id % 4096
    let grp := ((platGet s.plat (2344 + 4 * row + 3)).extractLsb' 16 8).toNat
    let w4 := platGet s.plat (296 + 8 * grp + 4)
    (ringFrom (w4.extractLsb' 24 8).toNat
      (fun p => (platGet s.plat (296 + 8 * grp + p / 64)).getLsbD (p % 64)),
      (w4.extractLsb' 0 16).toNat)

/-- Two buffers combined element by element (R270). -/
def combineBytes (op : RedOp) (n : Nat) : List Byte → List Byte → Nat → List Byte
  | _, _, 0 => []
  | x, y, k + 1 =>
    leBytes n (combine op (leNat (x.take n)) (leNat (y.take n))).1 ++
      combineBytes op n (x.drop n) (y.drop n) k

/-- The operation of an ALLREDUCE and its element size (R270). -/
def reduceOp (v : BitVec 8) : Option (RedOp × Nat) :=
  match v.toNat with
  | 0 => some (.fadd, 4)
  | 1 => some (.addS32, 4)
  | 2 => some (.fmax, 4)
  | 3 => some (.fmin, 4)
  | 4 => some (.dadd, 8)
  | _ => none

/-- A collective's command (R270): its operation and element size, and its operands. -/
structure CollCmd where
  kind : BitVec 8
  opNum : BitVec 8
  op : RedOp
  size : Nat
  count : Nat
  sp : Bool
  buf : DWord
  cid : Word
deriving DecidableEq, Repr

/-- A collective's command from its words; none where it is not performed (R270). -/
def collCmd (spad : Nat) (ws : List DWord) : Option CollCmd :=
  let w0 := ws.getD 0 0
  let w2 := ws.getD 2 0
  let bcast := w0.extractLsb' 0 8 == 0x21
  let sp := w0.getLsbD 9
  let count := (w2.extractLsb' 0 32).toNat
  let high := if bcast then w2.extractLsb' 32 32 != 0 else w2.extractLsb' 40 24 != 0
  match if bcast then some (RedOp.or, 1) else reduceOp (w2.extractLsb' 32 8) with
  | none => none
  | some (op, n) =>
    if !cmdZero ws 2 4 || high || (ws.getD 3 0).extractLsb' 32 32 != 0 ||
        (sp && !spOperand spad (ws.getD 1 0) (count * n)) then none
    else some ⟨w0.extractLsb' 0 8, w2.extractLsb' 32 8, op, n, count, sp, ws.getD 1 0,
      (ws.getD 3 0).extractLsb' 0 32⟩

/-- The bytes of a collective's buffer. -/
def CollCmd.bytes (k : CollCmd) : Nat := k.count * k.size

/-- How often the queued collectives of a block bear a CID. -/
def Block.cidCount (b : Block) (cid : Word) : Nat :=
  ((b.queue 4).filter fun ws => (ws.getD 3 0).extractLsb' 0 32 == cid).length

/-- Whether another command of the package bears the CID of b's oldest collective (R270). -/
def State.cidTwice (s : State) (b : Block) (cid : Word) : Bool :=
  decide (1 < b.cidCount cid) ||
    s.blocks.any fun p => p.grid == b.grid && p.key != b.key && p.cidCount cid != 0

/-- The state in which the other commands of a CID are marked as abandoned too (R270). -/
def State.killCid (s : State) (b : Block) (cid : Word) : State :=
  { s with blocks := s.blocks.map fun (p : Block) =>
      if p.grid = b.grid ∧ p.key ≠ b.key then
        { p with dead := p.dead ++ List.replicate (p.cidCount cid) cid }
      else p }

/-- A collective that ends: its result, with GGEN, and the record of its start gone (R271). -/
def collEnd (s : State) (b : Block) (w0 : DWord) (gen : Nat) (status cause : BitVec 8) (done faddr : DWord) :
    EngineOut :=
  .post s { b with coll := none } (resultWords w0 status cause done faddr (BitVec.ofNat 64 gen))

/-- A collective's failure on its own buffer, or its wait for a host page (R218, R271). -/
def collBad (s : State) (b : Block) (c : Ctx) (w0 : DWord) (gen : Nat) (bad : Bad) : EngineOut :=
  match bad with
  | .cause k a =>
    collEnd (s.blame c.num b.coreNum k (BitVec.ofNat 64 a)) b w0 gen 2 k 0 (BitVec.ofNat 64 a)
  | .pri k a => .wait ((s.setBlock b).request c.num true (.pri k a))

/-- What a member contributes to agree with this command (R222, R270). -/
def CollCmd.agrees (k : CollCmd) (gen : Nat) (e : Contrib) : Bool :=
  e.kind == k.kind && e.op == k.opNum && e.count == k.count && e.gen == gen && e.bytes.length == k.bytes

/-- The bytes that a collective writes to every member's BUF: ROOT's for BCAST, else the buffers combined along the
route (R270). -/
def CollCmd.result (k : CollCmd) (bufs : List (List Byte)) : List Byte :=
  match bufs with
  | [] => []
  | first :: rest =>
    if k.kind = 0x21 then first else rest.foldl (fun v x => combineBytes k.op k.size v x k.count) first

/-- The buffers along a route; none while a member's is missing. -/
def routeBuffers (me : Nat) (own : List Byte) (ext : List Contrib) : List Nat → Option (List (List Byte))
  | [] => some []
  | p :: rest =>
    match if p = me then some own else (ext.find? fun e => e.pkg == p).map (·.bytes) with
    | none => none
    | some x => (routeBuffers me own ext rest).map fun l => x :: l

/-- Whether a request of the block's collective is on its way. -/
def State.collAway (s : State) (b : Block) : Bool :=
  s.fabricOut.any fun r =>
    match r.owner with
    | .coll k => k == b.key
    | _ => false

/-- The own buffer of a collective that has started: of a BCAST only the root reads its own (R270); one in the pod
window is fetched first (R205). `.error none` says that its bytes are on their way. -/
def State.collOwn (s : State) (b : Block) (c : Ctx) (k : CollCmd) (co : Coll) (root : Bool) :
    Except (Option Bad) (List Byte) :=
  let a := k.buf.toNat
  if k.kind = 0x21 ∧ !root then .ok (List.replicate k.count 0#8)
  else if k.bytes = 0 then .ok []
  else if k.sp || !s.windowAddr c a k.bytes then
    (match engineRead s b c .co k.sp a k.bytes with
    | .ok x => .ok x
    | .error e => .error (some e))
  else
    match co.got with
    | some x => .ok x
    | none => .error none

/-- The result of a collective in its BUF: written here, or sent to the pod window (R205, R270). -/
def State.collWrite (s : State) (b : Block) (c : Ctx) (k : CollCmd) (co : Coll) (w0 : DWord) (v : List Byte) :
    EngineOut :=
  let a := k.buf.toNat
  if !k.sp && k.bytes != 0 && s.windowAddr c a k.bytes then
    .wait ((s.setBlock { b with coll := some { co with out := true } }).remote c a (.put v) (.coll b.key))
  else
    match engineWrite s b c .co k.sp a v with
    | .error bad => collBad s b c w0 co.gen bad
    | .ok (s', b') => collEnd s' b' w0 co.gen 1 0 (BitVec.ofNat 64 k.count) 0

/-- A collective that has started goes on (R222, R270): it is abandoned where GGEN has changed or a member differs,
and waits while a member's part is missing. -/
def State.collGo (s : State) (b : Block) (c : Ctx) (g : Grid) (k : CollCmd) (co : Coll) (w0 : DWord)
    (ext : List Contrib) : EngineOut :=
  let grp := s.groupOf g
  let stay := s.setBlock { b with coll := some co }
  if co.gen ≠ grp.2 then collEnd s b w0 grp.2 2 0 0 0
  else
    match co.bad with
    | some e => collEnd s b w0 co.gen 2 e 0 k.buf
    | none =>
      match s.collOwn b c k co (grp.1.head? == some s.pkg) with
      | .error none => .wait (stay.remote c k.buf.toNat (.get k.bytes) (.coll b.key))
      | .error (some bad) => collBad s { b with coll := some co } c w0 co.gen bad
      | .ok own =>
        match routeBuffers s.pkg own ext grp.1 with
        | none => .wait stay
        | some bufs =>
          if (ext.filter fun e => grp.1.contains e.pkg && e.pkg != s.pkg).all (k.agrees co.gen) then
            s.collWrite b c k co w0 (k.result bufs)
          else collEnd s b w0 co.gen 2 0 0 0

/-- A collective (R222, R270): it starts by recording GGEN, unless a second command of the package bears its CID;
`ext` holds the other members' parts, as the fabric brings them. -/
def engineCollective (s : State) (b : Block) (c : Ctx) (g : Grid) (ws : List DWord) (ext : List Contrib) :
    EngineOut :=
  let w0 := ws.getD 0 0
  let gen := (s.groupOf g).2
  match collCmd g.img.desc.spad ws with
  | none => notPerformed s b w0 (BitVec.ofNat 64 gen)
  | some k =>
    if s.collAway b then .wait s
    else if b.dead.contains k.cid then collEnd s { b with dead := b.dead.erase k.cid } w0 gen 2 0 0 0
    else if s.cidTwice b k.cid then
      collEnd (s.killCid b k.cid)
        { b with dead := b.dead ++ List.replicate (b.cidCount k.cid - 1) k.cid } w0 gen 2 0 0 0
    else s.collGo b c g k (b.coll.getD ⟨gen, none, false, none⟩) w0 ext

/-- Whether the oldest collective of a pod grid's block moves on without a part of another member: it has still to
start, or it is abandoned (R222). -/
def State.collMoves (s : State) (b : Block) (g : Grid) : Bool :=
  match b.coll, b.queue 4 with
  | some co, ws :: _ =>
    co.gen != (s.groupOf g).2 || b.dead.contains ((ws.getD 3 0).extractLsb' 0 32) || (s.groupOf g).1 == [s.pkg] ||
      s.cidTwice b ((ws.getD 3 0).extractLsb' 0 32)
  | none, _ :: _ => true
  | _, [] => false

/-- A UISEND command (R309, R311); to a peer it waits for the block's pod-window stores (R236, R312). -/
def engineSend (s : State) (b : Block) (c : Ctx) (ws : List DWord) : EngineOut :=
  let w0 := ws.getD 0 0
  let t := ws.getD 1 0
  let p := ws.getD 2 0
  if !cmdZero ws 0 3 then notPerformed s b w0 0
  else if sendsToPeer t && b.warps.any (fun w => w.acks != 0) then .wait s
  else
    match s.uiTarget c t p with
    | .invalid => .post s b (resultWords w0 2 cWINDOW 0 0 0)
    | .noContext => .post s b (resultWords w0 2 cPERM 0 0 0)
    | .here m =>
      if s.fwHeld then .wait s
      else
      let r := s.uiReceive m
      let b := (r.1.block? b.key).getD b
      (match r.2 with
      | .recorded => .post r.1 b (resultWords w0 1 0 1 0 0)
      | .denied => .post r.1 b (resultWords w0 2 cPERM 0 0 0)
      | .refused => .post r.1 b (resultWords w0 2 cREMOTE 0 0 0))
    | .there pkg =>
      .sent (s.remote c (2 ^ 56 + pkg * 2 ^ 47) (.send (t.extractLsb' 0 6) p)
        (.send b.key (w0.extractLsb' 32 32)))

/-- The walk of the chain that heads `q0` (R273). -/
def Block.chainAddr (b : Block) (ws : List DWord) : DWord :=
  match b.chain with
  | some ch => ch.addr
  | none => ws.getD 1 0

/-- A CHAIN command whose walk has ended or faulted (R271, R273); at NEXT = 0 it stopped at the record done last. -/
def engineChain (s : State) (b : Block) (c : Ctx) (spad : Nat) (ws : List DWord) : EngineOut :=
  let w0 := ws.getD 0 0
  let a := b.chainAddr ws
  let n := (b.chain.map (·.count)).getD 0
  if !cmdZero ws 0 2 then notPerformed s b w0 0
  else
    match chainStep s b c (some spad) a.toNat with
    | .ended =>
      let at_ := if a = 0 then (b.chain.map (·.last)).getD 0 else a
      .post s { b with chain := none } (resultWords w0 1 0 (BitVec.ofNat 64 n) 0 at_)
    | .faulted s' b' k f m =>
      .post s' { b' with chain := none } (resultWords w0 2 k (BitVec.ofNat 64 (n + m)) f a)
    | .moved _ _ _ _ => .wait s
    | .waits s' => .wait s'

/-- What the engine of a command queue makes of its oldest command (R270). -/
def engineDo (s : State) (b : Block) (c : Ctx) (g : Grid) (q : Nat) (ws : List DWord)
    (ext : List Contrib) : EngineOut :=
  let w0 := ws.getD 0 0
  match q, (w0.extractLsb' 0 8).toNat with
  | 0, 0x01 => engineCopy s b c g.img.desc.spad ws
  | 0, 0x02 => engineChain s b c g.img.desc.spad ws
  | 2, 0x10 => engineGather s b c g.img.desc.spad ws
  | 4, 0x20 => engineCollective s b c g ws ext
  | 4, 0x21 => engineCollective s b c g ws ext
  | 6, 0x30 => engineSend s b c ws
  | _, _ => notPerformed s b w0 0

/-- Whether the engine of a command queue may take a command: the block is resident, no result of the engine
waits for an entry, and no send is on its way (R269, R311). -/
def State.engineFree (s : State) (b : Block) (q : Nat) : Bool :=
  b.res == .resident && !(b.results.any fun r => r.1 == q + 1) &&
    !(q == 6 && s.fabricOut.any fun r =>
      match r.owner with
      | .send k _ => k == b.key
      | _ => false)

/-- The result that the engine of command queue q holds, posted once an entry is free (R269). -/
def State.postHeld (s : State) (b : Block) (g : Grid) (r : Nat × List DWord) : State :=
  if b.res == .resident && b.roomFor g.img.desc.quota r.1 then
    s.setBlock (({ b with results := b.results.filter fun x => x.1 != r.1 } : Block).setQueue r.1
      (b.queue r.1 ++ [r.2]))
  else s

/-- ENGINE_RESULT: the engine of command queue q posts the result that it holds, or else performs its oldest
command and posts the result, which waits in the engine while no entry is free (R269 to R271). -/
def execEngineResult (b : Nat) (q : BitVec 3) (ext : List Contrib) (s : State) : Out :=
  .next (match s.block? b with
  | none => s
  | some bl =>
    match s.grid? bl.grid, bl.results.find? fun r => r.1 == q.toNat + 1 with
    | none, _ => s
    | some g, some r => s.postHeld bl g r
    | some g, none =>
      match s.ctx? g.ctx, bl.queue q.toNat with
      | some c, ws :: rest =>
        if q.getLsbD 0 || !s.engineFree bl q.toNat then s
        else
          match engineDo s bl c g q.toNat ws ext with
          | .post s' b' r => s'.setBlock ((b'.setQueue q.toNat rest).post g.img.desc.quota (q.toNat + 1) r)
          | .wait s' => s'
          | .sent s' => s'.setBlock (bl.setQueue q.toNat rest)
      | _, _ => s)

/-- The answer to a request of a block's collective: its own buffer, or the write of its result, which ends it
(R205, R237, R271). -/
def State.collAck (s : State) (k : Nat) (r : RResp) : State :=
  match s.block? k with
  | none => s
  | some b =>
    match b.coll, b.queue 4, s.grid? b.grid with
    | some co, ws :: rest, some g =>
      let bad : BitVec 8 := match r with
        | .poisoned _ => cMEMERR
        | _ => cREMOTE
      let w0 := ws.getD 0 0
      if co.out then
        let n : DWord := 0#32 ++ (ws.getD 2 0).extractLsb' 0 32
        let res := if r = .done then resultWords w0 1 0 n 0 (BitVec.ofNat 64 co.gen)
          else resultWords w0 2 bad 0 (ws.getD 1 0) (BitVec.ofNat 64 co.gen)
        s.setBlock ((({ b with coll := none } : Block).setQueue 4 rest).post
          (if b.res == .resident then g.img.desc.quota else 0) 5 res)
      else
        s.setBlock { b with coll := some (match r with
          | .data x => { co with got := some x }
          | _ => { co with bad := some bad }) }
    | _, _, _ => s

/-- The chain that heads queue 0 of a block moves one record on (R273). -/
def State.chainQueue (s : State) (b : Nat) : State :=
  match s.block? b with
  | none => s
  | some bl =>
    match s.grid? bl.grid, bl.queue 0 with
    | some g, ws :: _ =>
      match s.ctx? g.ctx with
      | none => s
      | some c =>
        if (ws.getD 0 0).extractLsb' 0 8 != 2 || !cmdZero ws 0 2 || !s.engineFree bl 0 then s
        else
          match chainStep s bl c (some g.img.desc.spad) (bl.chainAddr ws).toNat with
          | .moved s' b' next n =>
            s'.setBlock { b' with
              chain := some ⟨(ws.getD 0 0).extractLsb' 32 32, next,
                ((bl.chain.map (·.count)).getD 0) + n, bl.chainAddr ws⟩ }
          | .waits s' => s'
          | _ => s
    | _, _ => s

end Sys2Proof.Machine
end

