-- ==== Sys2Proof/Machine/Regions.lean ====
section
/-! DEFINITION. Regions, sections, lanes, the return from a trap and the CSRs: group 0x3e (R355, R357 to
R362). -/

namespace Sys2Proof.Machine

/-- rgn under LEN 00 (R103, R358). -/
def execRgnShort (s : State) : Out :=
  issueCommit .rgnShort s fun x => x.leaveCommit false 0 [(x.mask, .next)]
/-- rgn (R358). -/
def execRgn (wk : BitVec 8) (s : State) : Out :=
  issueCommit (.rgn wk) s fun x => x.leaveCommit false 0 [(x.mask, .next)]
/-- rgnx (R358). -/
def execRgnx (wk : BitVec 8) (s : State) : Out :=
  issueCommit (.rgnx wk) s fun x => x.leaveCommit true 0 [(x.mask, .next)]

/-- npe (R355, R359). -/
def execNpe (wk : BitVec 8) (s : State) : Out :=
  issue (.npe wk) s fun x =>
    (if x.w.st.npe then x
    else x.withW { x.w with st := { x.w.st with npe := true, npeleft := 65536 } }).done
/-- pe (R355, R359). -/
def execPe (wk : BitVec 8) (s : State) : Out :=
  issue (.pe wk) s fun x => (x.withW x.w.endNpe).done

/- ### Lanes (R360) -/

/-- The frame with a scalar's copy written. -/
def Frame.write (f : Frame) (n : Nat) (v : DWord) : Frame := { f with saved := smSet 0 f.saved n v }

/-- lnrd (R360). -/
def execLnrd (wk : BitVec 8) (sd : BitVec 5) (src : LnReg) (ln : LaneOp) (s : State) : Out :=
  issue (.lnrd wk sd src ln) s fun x =>
    let l := x.w.laneOp ln
    let v : DWord := match src with
      | .v r true => x.w.vget64 r.toNat l
      | .v r false => 0#32 ++ x.w.vget r.toNat l
      | .p r => if x.w.pbit r.toNat l then 1 else 0
      | .f r => (x.w.frame.map fun f => smGet 0 f.saved r.toNat).getD 0
    (x.withW (x.w.sset sd.toNat v)).done

/-- lnwr (R360). -/
def execLnwr (wk : BitVec 8) (dst : LnReg) (sa : BitVec 5) (ln : LaneOp) (s : State) : Out :=
  issue (.lnwr wk dst sa ln) s fun x =>
    let l := x.w.laneOp ln
    let v := x.w.sget sa.toNat
    (x.withW (match dst with
      | .v r true => x.w.vset64 r.toNat l v
      | .v r false => x.w.vset r.toNat l (v.extractLsb' 0 32)
      | .p r =>
        x.w.pset r.toNat (laneBit l) (if v.getLsbD 0 then laneBit l else 0)
      | .f r => { x.w with frame := x.w.frame.map fun f => f.write r.toNat v })).done

/- ### The return from a trap (R361) -/

/-- The words at an address of a context's code, as many as the longest instruction has. -/
def State.codeWords (s : State) (c : Ctx) (pc : DWord) : List Word :=
  match s.readVa c pc.toNat 4 with
  | .error _ => []
  | .ok w =>
    let n := wordCount (BitVec.ofNat 32 (leNat w))
    match s.readVa c pc.toNat (4 * n) with
    | .error _ => []
    | .ok bs => (List.range n).map fun k => BitVec.ofNat 32 (leNat ((bs.drop (4 * k)).take 4))

/-- The bytes that SKIP passes over for a trap: its instruction's length, read from the code where the
record does not carry it (R361). -/
def State.trapLen (s : State) (g : Grid) (t : Trap) : Nat :=
  if t.len ≠ 0 then t.len
  else 4 * (((s.ctx? g.ctx).map fun c => (s.codeWords c t.pc).length).getD 1)

/-- Lanes made issuable at a PC; at the end of the code they raise ILLOP again (R117). -/
def Warp.standAt (w : Warp) (g : Grid) (pc : DWord) (prio : BitVec 8) (m : Mask) : Warp :=
  if m = 0 then w
  else if g.codeEnd.toNat ≤ pc.toNat then w.raise g.cb g.codeEnd prio m 0 (Cause.one .illop 0)
  else { w with frontier := addEntry w.frontier ⟨pc, prio, m, 0⟩ }

/-- Lanes of a handled trap given back, `len` bytes on: those that another pending trap holds stay parked there
and its record follows them (R339; log entry 12: DEDUCED). -/
def Warp.giveBack (w : Warp) (g : Grid) (m : Mask) (len : Nat) : Warp :=
  let parked := w.frontier.filter fun e => e.park == 1 && e.mask &&& m != 0
  parked.foldl (fun (w : Warp) (e : Entry) =>
    let k := e.mask &&& m
    let others := (w.utraps.foldl (fun a (u : Trap) => a ||| u.lanes) (0 : Mask)) &&& k
    let pc := e.pc + BitVec.ofNat 64 len
    let w := { w with
      frontier := addEntry (dropLanes w.frontier k) ⟨pc, e.prio, others, 1⟩
      utraps := w.utraps.map fun (u : Trap) =>
        if u.lanes &&& others = 0 then u
        else { u with
          pc := pc
          words := { u.words with
            w0 := (pc - g.cb).extractLsb' 0 32 ++ u.words.w0.extractLsb' 0 32 } } }
    w.standAt g pc e.prio (k &&& ~~~others)) w

/-- The block with the FAULT of a transfer's tile cleared (R267). -/
def Block.clearFault (b : Block) (q : XferReq) : Block :=
  match q.tile with
  | some t => b.setTile t { b.tile t with fault := false }
  | none => b

/-- The transfer of a COPYF disposed of (R267, R361). -/
def Block.dispose (b : Block) (id : Nat) (act : TretAct) : Block :=
  match b.xfers.find? fun x => x.id == id with
  | none => b
  | some x =>
    match act with
    | .resume => b.setXfer { x with stop := none, undelivered := false }
    | .skip => (b.finishXfer x).clearFault x.req
    | .kill =>
      let b := { b with xfers := b.xfers.filter fun y => y.id != id }
      (match x.req.tok, b.warp? x.req.warp with
      | some k, some w => b.setWarp (w.setToken k.toNat (w.token k.toNat - 1))
      | _, _ => b)
    | .stop => b

/-- The warp after the lanes of the frame's trap have taken their actions (R361): the acted lanes under
`act`, the others under RESUME; `len` is what SKIP passes over. -/
def Warp.tretLanes (w : Warp) (g : Grid) (acted rest : Mask) (act : TretAct) (len : Nat) : Warp :=
  let w := w.giveBack g rest 0
  match act with
  | .resume => w.giveBack g acted 0
  | .skip => w.giveBack g acted len
  | .kill =>
    { w with
      frontier := dropLanes w.frontier acted
      utraps := w.utraps.filter fun u => u.xfer.isSome || u.lanes &&& ~~~acted != 0 }.exitLanes acted
  | .stop => w

/-- The commit that `tret.cmt` makes (R325, R361). The lanes have been given back. -/
def Site.tretCommit (x : Site) (exp : Bool) : State :=
  let off : Word := if exp then 0xffffffff else x.off (x.pc + BitVec.ofNat 64 x.len)
  if !x.w.rgn.inrgn then
    x.s.putWarp x.b (if exp then x.w else x.w.beginRegion off) x.g
  else
    match x.ctx? with
    | none => x.s.putWarp x.b x.w x.g
    | some c =>
      match storeFault x.s c x.w.stores with
      | some (lane, b) =>
        { x with s := x.s.request c.num false b }.faultInRegion (laneBit lane) b.toCause
      | none =>
        let y := (x.performStores c).releaseCmds
        y.s.putWarp y.b (if y.w.cmds.isEmpty then y.w.afterCommit off
          else { y.w with pendCommit := some (.lanes off) }) y.g

/-- The RETURN FROM AN EXCEPTION: `tret` (R361). -/
def execTret (wk : BitVec 8) (act : TretAct) (cmt exp : Bool) (m : Option (BitVec 5)) (s : State) :
    Out :=
  issue (.tret wk act cmt exp m) s fun x =>
    match x.w.frame with
    | none => x.commit
    | some f =>
      let mask := match m with
        | some r => (x.w.sget r.toNat).extractLsb' 0 32
        | none => 0xffffffff
      let acted := f.tmask &&& mask
      if act = .stop then x.commit.endGrid x.g.id (userTrapEnd x.g.cb f.trap)
      else
        let w := { x.w with s := f.saved, frame := none }
        let w := w.tretLanes x.g acted (f.tmask &&& ~~~acted) act
          (if f.trap.xfer.isSome then 0 else x.s.trapLen x.g f.trap)
        let w := if f.trap.words.w0.extractLsb' 0 8 = TrapCode.reentry.num ∧ act = .resume then
          { w with rgn := { w.rgn with reent := 0 } } else w
        let b := x.b.setWarp w
        let b := match f.trap.xfer with
          | some id => b.dispose id (if acted = 0 then .resume else act)
          | none => b
        let y := { x with b := b, w := (b.warp? w.num).getD w }
        (if cmt then y.tretCommit exp else y.s.putWarp y.b y.w y.g).settle y.b.key y.w.num

/- ### Control and status registers (R362) -/

/-- The eight token counts as one word (R352). -/
def Warp.tokenWord (w : Warp) : DWord :=
  (List.range 8).foldl (fun v k => v ||| (0#58 ++ w.token k) <<< (6 * k)) 0

/-- What a CSR reads as (R362). -/
def csrVal (x : Site) (csr : BitVec 16) : DWord :=
  match csr.toNat with
  | 0 => 0#59 ++ (x.w.flags ||| x.w.rgn.hflags)
  | 1 => 0#60 ++ x.w.ckmode
  | 2 => x.w.tokenWord
  | 3 => 0#44 ++ bit x.w.rgn.inrgn ++ bit x.w.frame.isSome ++ bit x.w.st.npe ++ x.w.st.npeleft
  | 4 => BitVec.ofNat 64 x.g.img.desc.limit
  | 0x10 => 0#32 ++ ((x.w.frame.map (·.tmask)).getD 0)
  | _ => 0

/-- csrr (R362). -/
def execCsrr (wk : BitVec 8) (d : BitVec 5) (csr : BitVec 16) (s : State) : Out :=
  issue (.csrr wk d csr) s fun x => (x.withW (x.w.sset d.toNat (csrVal x csr))).done

/-- csrw (R362): FLAGS is the only register it writes. -/
def execCsrw (wk : BitVec 8) (csr : BitVec 16) (a : BitVec 5) (op : MaskOp) (s : State) : Out :=
  issue (.csrw wk csr a op) s fun x =>
    let v := (x.w.sget a.toNat).extractLsb' 0 5
    (x.withW { x.w with flags := match op with
      | .wr => v
      | .set => x.w.flags ||| v
      | .clr => x.w.flags &&& ~~~v }).done

end Sys2Proof.Machine
end

