-- ==== Sys2Proof/Machine/Images.lean ====
section
/-! DEFINITION. Saved images: the frontier (R134), the vector registers (R138), a warp (R352, R353), a
block header (R87), the save head and stopped transfers (R354), the matrix engine (R296), and their
checks on the way back (R140, R297). -/

namespace Sys2Proof.Machine

/-- The staged bank's image (R388). -/
def Firmware.staged (f : Firmware) : FwImage := if f.bank then f.image0 else f.image1
/-- The active bank's image (R388). -/
def Firmware.active (f : Firmware) : FwImage := if f.bank then f.image1 else f.image0

/-- n zero bytes. -/
def zeros (n : Nat) : List Byte := List.replicate n 0

/-- Bytes of a list from an offset. -/
def sliceOf (bs : List Byte) (off n : Nat) : List Byte := (bs.drop off).take n
/-- n bytes at an offset as a number. -/
def numAt (bs : List Byte) (off n : Nat) : Nat := leNat (sliceOf bs off n)
/-- Padding to the next multiple of 8. -/
def pad8 (bs : List Byte) : List Byte := bs ++ zeros (ceilTo bs.length 8 - bs.length)

/- ### The frontier image (R134) -/

/-- An entry put into a list ordered by `lt`. -/
def insertBy {α : Type} (lt : α → α → Bool) (x : α) : List α → List α
  | [] => [x]
  | y :: t => if lt x y then x :: y :: t else y :: insertBy lt x t

/-- A list ordered by `lt`. -/
def orderBy {α : Type} (lt : α → α → Bool) (l : List α) : List α := l.foldl (fun a x => insertBy lt x a) []

/-- The entries in the order of the image: issuable ones as selection takes them, then the parked ones
(R134). -/
def imageOrder (fr : List Entry) : List Entry :=
  orderBy Entry.before (fr.filter fun e => e.park == 0) ++
    orderBy (fun e f => decide (e.pc.toNat < f.pc.toNat) ||
      (e.pc == f.pc && decide (e.park.toNat < f.park.toNat))) (fr.filter fun e => e.park != 0)

/-- An entry word (R134). -/
def entryWord (cb : DWord) (e : Entry) : DWord :=
  e.prio ++ e.park ++ 0#20 ++ (e.pc - cb).extractLsb' 0 32

/-- The 296-byte frontier image (R134). -/
def frontierImage (cb : DWord) (fr : List Entry) (exited : Mask) : List Byte :=
  let es := imageOrder fr
  let lane (l : Nat) : Byte :=
    if exited.getLsbD l then 0x80 else BitVec.ofNat 8 (es.findIdx fun e => e.mask.getLsbD l)
  leBytes 8 es.length ++ lanes.map lane ++
    ((List.range 32).map fun k =>
      match es[k]? with
      | some e => leBytes 8 (entryWord cb e).toNat
      | none => zeros 8).flatten

/-- The frontier and the exited lanes of an image, where it passes the checks of R118 and R134 (R140). -/
def frontierOf (cb : DWord) (codeLen : Nat) (bs : List Byte) : Option (List Entry × Mask) :=
  let n := numAt bs 0 8
  let lb (l : Nat) : Nat := numAt bs (8 + l) 1
  let exited := maskOf fun l => decide (128 ≤ lb l)
  let word (k : Nat) : DWord := BitVec.ofNat 64 (numAt bs (40 + 8 * k) 8)
  let es := (List.range n).map fun k =>
    (⟨cb + (0#32 ++ (word k).extractLsb' 0 32), (word k).extractLsb' 56 8,
      maskOf fun l => lb l == k, (word k).extractLsb' 52 4⟩ : Entry)
  let bad := decide (32 < n) ||
    (lanes.any fun l => decide (128 < lb l) || (decide (lb l < 128) && decide (n ≤ lb l))) ||
    ((List.range n).any fun k =>
      let off := ((word k).extractLsb' 0 32).toNat
      (word k).extractLsb' 32 20 != 0 || decide (codeLen < off) || off % 4 != 0 ||
        (off == codeLen && (word k).extractLsb' 52 4 != 2) || (word k).getLsbD 55) ||
    ((List.range 32).any fun k => decide (n ≤ k) && word k != 0) ||
    (es.any fun e => e.mask == 0) || imageOrder es != es ||
    ((List.range n).any fun i => (List.range i).any fun j =>
      match es[i]?, es[j]? with
      | some e, some f => e.pc == f.pc && e.park == f.park
      | _, _ => false)
  if bad then none else some (es, exited)

/- ### The vector image (R138, R139) -/

/-- A register's tag and record (R138, R139). -/
def vecRecord (ws : List Word) (poisoned : Bool) : Nat × List Byte :=
  let base := ws.getD 0 0
  let stride := ws.getD 1 0 - base
  let is (f : Nat → Word) : Bool := lanes.all fun l => ws.getD l 0 == f l
  let delta (l : Nat) : Int := (ws.getD l 0 - base).toInt
  if poisoned then (3, (ws.map fun w => leBytes 4 w.toNat).flatten)
  else if is fun _ => base then (0, leBytes 4 base.toNat)
  else if is fun l => base + BitVec.ofNat 32 l * stride then
    (1, leBytes 4 base.toNat ++ leBytes 4 stride.toNat)
  else if lanes.all fun l => decide (-128 ≤ delta l) && decide (delta l ≤ 127) then
    (2, leBytes 4 base.toNat ++ lanes.map fun l => BitVec.ofInt 8 (delta l))
  else (3, (ws.map fun w => leBytes 4 w.toNat).flatten)

/-- The lanes of register n that hold poison. -/
def Warp.poisonLanes (w : Warp) (n : Nat) : Mask := maskOf fun l => w.poison.contains (vkey n l)

/-- The vector image of a warp (R138). -/
def vectorImage (w : Warp) (vregs : Nat) : List Byte :=
  let regs := List.range vregs
  let recs := regs.map fun n =>
    let m := w.poisonLanes n
    vecRecord (lanes.map fun l => if m.getLsbD l then 0 else w.vget n l) (m != 0)
  let pois := regs.filter fun n => w.poisonLanes n != 0
  let tags := (List.range (vregs / 4)).map fun k =>
    BitVec.ofNat 8 ((List.range 4).map fun i => ((recs.getD (4 * k + i) (0, [])).1) * 4 ^ i).sum
  let data := (recs.map (·.2)).flatten
  leBytes 8 (vregs * 2 ^ 48 + pois.length * 2 ^ 32 + data.length) ++ pad8 tags ++ pad8 data ++
    (pois.map fun n => leBytes 8 ((w.poisonLanes n).toNat * 2 ^ 32 + n)).flatten

/-- The length of a record with a tag. -/
def recordLen (tag : Nat) : Nat :=
  match tag with
  | 0 => 4
  | 1 => 8
  | 2 => 36
  | _ => 128

/-- A register's lanes from its record. -/
def recordLanes (tag : Nat) (r : List Byte) : List Word :=
  let word (k : Nat) : Word := BitVec.ofNat 32 (numAt r k 4)
  lanes.map fun l =>
    match tag with
    | 0 => word 0
    | 1 => word 0 + BitVec.ofNat 32 l * word 4
    | 2 => word 0 + (r.getD (4 + l) 0).signExtend 32
    | _ => word (4 * l)

/-- The registers of a vector image with their poison, where it passes the checks of R140. -/
def vectorOf (vregs : Nat) (bs : List Byte) : Option (List (Nat × Word) × List Nat) :=
  let npois := numAt bs 4 2
  let vdata := numAt bs 0 4
  let tag (n : Nat) : Nat := numAt bs (8 + n / 4) 1 / 4 ^ (n % 4) % 4
  let start := 8 + ceilTo (vregs / 4) 8
  let offs := (List.range vregs).foldl
    (fun (r : List Nat × Nat) n => (r.1 ++ [r.2], r.2 + recordLen (tag n))) ([], 0)
  let rec_ (n : Nat) : List Byte := sliceOf bs (start + offs.1.getD n 0) (recordLen (tag n))
  let pstart := start + ceilTo vdata 8
  let pois := (List.range npois).map fun k => numAt bs (pstart + 8 * k) 8
  let bad := numAt bs 6 2 != vregs || offs.2 != vdata ||
    ((List.range vregs).any fun n => tag n == 2 && (rec_ n).getD 4 0 != 0) ||
    (pois.any fun p => decide (vregs ≤ p % 256) || tag (p % 256) != 3 || p / 256 % 2 ^ 24 != 0)
  if bad then none
  else
    let v := (List.range vregs).foldl (fun m n =>
      let ws := recordLanes (tag n) (rec_ n)
      lanes.foldl (fun m l => smSet 0 m (vkey n l) (ws.getD l 0)) m) []
    some (v, (pois.map fun p =>
      (lanes.filter fun l => (BitVec.ofNat 32 (p / 2 ^ 32)).getLsbD l).map fun l =>
        vkey (p % 256) l).flatten)

/- ### A warp's save area (R351 to R353) -/

/-- The warp status word (R351). -/
def Warp.statusWord (w : Warp) : DWord :=
  w.st.npeleft ++ 0#7 ++ bit w.st.halt ++ bit w.st.hold ++ bit w.st.pdbg ++ bit w.st.ppre ++
    bit w.st.npe ++ bit w.frame.isSome ++ 0#25 ++ w.ckmode ++ w.flags

/-- The trap frame (R353): zero outside handler mode. -/
def frameImage (w : Warp) : List Byte :=
  match w.frame with
  | none => zeros 256
  | some f =>
    leBytes 8 f.trap.words.w0.toNat ++ leBytes 8 f.trap.words.w1.toNat ++
      leBytes 8 f.trap.words.w2.toNat ++ leBytes 8 f.trap.words.w3.toNat ++
      leBytes 8 (f.hoff ++ f.tmask).toNat ++
      ((List.range 24).map fun n => leBytes 8 (smGet 0 f.saved n).toNat).flatten ++ zeros 24

/-- The predicate word of lane l (R136). -/
def Warp.predWord (w : Warp) (l : Nat) : DWord :=
  (List.range 64).foldl (fun v n => if w.pbit n l then v ||| (1#64 <<< n) else v) 0

/-- Warp w's save area (R352). -/
def warpImage (g : Grid) (w : Warp) : List Byte :=
  let d := g.img.desc
  leBytes 8 w.statusWord.toNat ++ leBytes 8 w.tokenWord.toNat ++
    leBytes 8 (w.csM * 2 ^ 16 + w.cs.length) ++ zeros 8 ++
    ((List.range 4).map fun n => leBytes 8 (w.ckget n).toNat).flatten ++
    (w.cs.reverse.map CallEntry.bytes).flatten ++ zeros (144 * (4 - w.cs.length)) ++
    frontierImage g.cb w.frontier w.exited ++ zeros 24 ++ frameImage w ++
    ((List.range 24).map fun n => leBytes 8 (if n < d.sregs then w.sget n else 0).toNat).flatten ++
    (lanes.map fun l => leBytes 8 (w.predWord l).toNat).flatten ++ vectorImage w d.vregs

/-- The scalar registers from words. -/
def scalarsOf (bs : List Byte) (off : Nat) : List (Nat × DWord) :=
  (List.range 24).foldl (fun m n => smSet 0 m n (BitVec.ofNat 64 (numAt bs (off + 8 * n) 8))) []

/-- A trap frame from its image; `old` gives what the image does not hold: the length of the trapped
instruction and its transfer (log entry 18: DEDUCED). -/
def frameOf (cb : DWord) (old : Option Frame) (bs : List Byte) : Frame :=
  let word (k : Nat) : DWord := BitVec.ofNat 64 (numAt bs (8 * k) 8)
  { trap :=
      { words := ⟨word 0, word 1, word 2, word 3⟩, lanes := (word 4).extractLsb' 0 32
        pc := cb + (0#32 ++ (word 0).extractLsb' 32 32), len := (old.map (·.trap.len)).getD 0
        xfer := old.bind (·.trap.xfer) }
    hoff := (word 4).extractLsb' 32 32, tmask := (word 4).extractLsb' 0 32, saved := scalarsOf bs 0x28 }

/-- Whether the reserved bits of a call-stack entry are zero (R129, R140). -/
def stackEntryLegal (bs : List Byte) : Bool := numAt bs 5 11 == 0

/-- Whether the reserved bits of a trap frame are zero (R140, R337, R353). -/
def frameLegal (bs : List Byte) : Bool :=
  numAt bs 0xe8 24 == 0 && numAt bs 3 1 == 0 && decide (numAt bs 1 1 < 128)

/-- Whether a status word's reserved bits are zero (R140, R351). -/
def statusLegal (v : DWord) : Bool := v.extractLsb' 40 7 == 0 && v.extractLsb' 9 25 == 0

/-- A warp from its save area, where it passes the checks of R140; `old` gives what the image does not
hold (log entry 18: DEDUCED). -/
def warpOf (g : Grid) (old : Warp) (bs : List Byte) : Option Warp :=
  let d := g.img.desc
  let st : DWord := BitVec.ofNat 64 (numAt bs 0 8)
  let tok := numAt bs 8 8
  let stack := numAt bs 0x10 8
  let n := stack % 8
  let cs := ((List.range n).map fun k => CallEntry.ofBytes (sliceOf bs (0x40 + 144 * k) 144)).reverse
  match frontierOf g.cb g.img.codeLen (sliceOf bs 0x280 296), vectorOf d.vregs (bs.drop 0x680) with
  | some (fr, exited), some (v, pois) =>
    let bad := !statusLegal st || decide (2 ^ 48 ≤ tok) || decide (2 ^ 32 ≤ stack) ||
      stack / 8 % 2 ^ 13 != 0 || decide (4 < n) || numAt bs 0x18 8 != 0 || numAt bs 0x3a8 24 != 0 ||
      (cs.any fun e => e.pend &&& exited != 0) ||
      ((List.range n).any fun k => !stackEntryLegal (sliceOf bs (0x40 + 144 * k) 144)) ||
      !frameLegal (sliceOf bs 0x3c0 256)
    if bad then none
    else
      some { old with
        frontier := fr, exited := exited, v := v, poison := pois
        s := scalarsOf bs 0x4c0
        p := (List.range 64).foldl (fun m k =>
          smSet 0 m k (maskOf fun l => numAt bs (0x580 + 8 * l) 8 / 2 ^ k % 2 == 1)) []
        ck := (List.range 4).foldl (fun m k =>
          smSet 0 m k (BitVec.ofNat 64 (numAt bs (0x20 + 8 * k) 8))) []
        tokens := (List.range 8).foldl (fun m k => smSet 0 m k (BitVec.ofNat 6 (tok / 64 ^ k))) []
        cs := cs, csM := stack / 2 ^ 16
        flags := st.extractLsb' 0 5, ckmode := st.extractLsb' 5 4
        st := ⟨st.extractLsb' 47 17, st.getLsbD 39, st.getLsbD 38, st.getLsbD 37, st.getLsbD 36,
          st.getLsbD 35⟩
        frame := if st.getLsbD 34 then some (frameOf g.cb old.frame (sliceOf bs 0x3c0 256)) else none }
  | _, _ => none

/- ### The block header (R87 to R89, R253, R295, R313, R329) -/

/-- RCTL (R330). -/
def rctlWord (w : Warp) : DWord :=
  w.rgn.rgnoff ++ w.rgn.reent ++ w.rgn.hflags ++ BitVec.ofNat 5 w.stores.length ++
    BitVec.ofNat 5 w.cmds.length ++ w.rgn.ckm ++ bit w.rgn.iss ++ 0#3 ++ bit w.rgn.inrgn

/-- A region state record (R329). -/
def regionImage (g : Grid) (w : Warp) : List Byte :=
  frontierImage g.cb w.rgn.image (if w.rgn.image.isEmpty then 0xffffffff else ~~~liveLanes w.rgn.image) ++
    leBytes 8 (rctlWord w).toNat ++
    ((List.range 4).map fun n => leBytes 8 (smGet 0 w.rgn.ck n).toNat).flatten ++
    leBytes 32 w.rgn.rf.v.toNat ++ leBytes 32 w.rgn.wr.v.toNat ++ leBytes 8 w.rgn.rf.p.toNat ++
    leBytes 8 w.rgn.wr.p.toNat ++ leBytes 8 w.rgn.rf.s.toNat ++ leBytes 8 w.rgn.wr.s.toNat ++ zeros 80

/-- The region of a record; none where the record breaks R134. -/
def regionOf (g : Grid) (bs : List Byte) : Option Region :=
  match frontierOf g.cb g.img.codeLen (sliceOf bs 0 296) with
  | none => none
  | some (fr, _) =>
    let c : DWord := BitVec.ofNat 64 (numAt bs 0x128 8)
    if c.extractLsb' 1 3 != 0 || numAt bs 0x1a3 5 != 0 || numAt bs 0x1ab 5 != 0 || numAt bs 0x1b0 80 != 0 then none
    else
      some
        { image := fr
          ck := (List.range 4).foldl (fun m k =>
            smSet 0 m k (BitVec.ofNat 64 (numAt bs (0x130 + 8 * k) 8))) []
          ckm := c.extractLsb' 5 4
          rf := ⟨BitVec.ofNat 256 (numAt bs 0x150 32), BitVec.ofNat 24 (numAt bs 0x1a0 8),
            BitVec.ofNat 64 (numAt bs 0x190 8)⟩
          wr := ⟨BitVec.ofNat 256 (numAt bs 0x170 32), BitVec.ofNat 24 (numAt bs 0x1a8 8),
            BitVec.ofNat 64 (numAt bs 0x198 8)⟩
          rgnoff := c.extractLsb' 32 32, reent := c.extractLsb' 24 8, hflags := c.extractLsb' 19 5
          iss := c.getLsbD 4, inrgn := c.getLsbD 0 }

/-- A tile table entry (R253). -/
def tileImage (t : Tile) : List Byte :=
  leBytes 4 t.base ++ leBytes 4 t.rows ++ leBytes 4 t.rowbytes ++ leBytes 4 (tileWord t).toNat

/-- A tile from its entry. -/
def tileOf (bs : List Byte) : Tile :=
  let w : Word := BitVec.ofNat 32 (numAt bs 12 4)
  { fmt := w.extractLsb' 16 8, pend := (w.extractLsb' 8 8).toNat, cfg := w.getLsbD 3
    fault := w.getLsbD 2
    st := match (w.extractLsb' 0 2).toNat with
      | 0 => .empty
      | 1 => .filling
      | 2 => .ready
      | _ => .draining
    rowbytes := numAt bs 8 4, rows := numAt bs 4 2, base := numAt bs 0 4 }

/-- The block header (R87). -/
def headerImage (g : Grid) (b : Block) : List Byte :=
  let w0 : DWord := 0#24 ++ BitVec.ofNat 8 g.img.desc.warps ++ 0#2 ++ BitVec.ofNat 2 b.member ++
    bit b.spawned ++ bit b.det ++ bit b.brken ++ 0#25
  leBytes 8 w0.toNat ++ zeros 16 ++
    leBytes 8 (b.rank % 256 * 2 ^ 32 + b.spadOff) ++
    leBytes 4 b.bx.toNat ++ leBytes 4 b.by_.toNat ++ leBytes 4 b.bz.toNat ++ leBytes 4 b.grid ++
    leBytes 8 b.parent ++ zeros 8 ++
    ((List.range 16).map fun n =>
      leBytes 8 ((b.bar n).gen.toNat * 2 ^ 32 + (b.bar n).arrived % 64)).flatten ++
    ((List.range 16).map fun t => tileImage (b.tile t)).flatten ++
    leBytes 8 (b.gang.toNat + (if b.rsv then 2 ^ 32 else 0) + if b.mxSaved then 2 ^ 33 else 0) ++
    zeros 16 ++ leBytes 8 (b.key + g.img.desc.areaX) ++
    leBytes 8 ((if b.ib.valid then 1 else 0) + b.ib.warp * 256) ++ zeros 16 ++
    leBytes 8 b.ib.vecs.toNat ++ zeros 512 ++
    (b.warps.map (regionImage g)).flatten ++ zeros (512 * (32 - b.warps.length))

/- ### Stopped transfers and the save head (R354) -/

/-- Word 0 of a stopped transfer's COPYF record: the raised one's, else that of a trap where its lane now
stands (R337, R354). -/
def copyfWord0 (g : Grid) (b : Block) (x : Xfer) : DWord :=
  match b.warp? x.req.warp with
  | none => 0
  | some w =>
    match (w.utraps ++ (w.frame.map (·.trap)).toList).find? fun t => t.xfer == some x.id with
    | some t => t.words.w0
    | none =>
      let l := (w.copyfLane x.req.lane).getD x.req.lane
      let pc := ((w.frontier.find? fun e => e.mask.getLsbD l).map (·.pc)).getD g.cb
      trapWord0 ((pc - g.cb).extractLsb' 0 32) 0 w.rgn.inrgn true l TrapCode.copyf.num

/-- Whether a stopped transfer's trap is still undelivered: no handler has taken it (R354). -/
def copyfWaits (b : Block) (x : Xfer) : Bool :=
  !((b.warp? x.req.warp).any fun w => w.frame.any fun f => f.trap.xfer == some x.id)

/-- A stopped-transfer entry (R354); a tile transfer has no SRC, DST and LEN of its own, and its words 4 to 6 hold
its coordinates (log entry 18: DEDUCED). -/
def xferImage (g : Grid) (b : Block) (x : Xfer) : List Byte :=
  let q := x.req
  let stop := x.stop.getD (0, 0)
  let ws := copyfWords g x stop.1
  let tile := q.tlr.isSome
  let pair (k : Nat) : Nat := (q.coords.getD k 0).toNat + (q.coords.getD (k + 1) 0).toNat * 2 ^ 32
  leBytes 8 (copyfWord0 g b x).toNat ++ leBytes 8 stop.2.toNat ++
    leBytes 8 ws.1.toNat ++ leBytes 8 ws.2.toNat ++
    leBytes 8 (if tile then pair 0 else q.src.toNat) ++
    leBytes 8 (if tile then pair 2 else q.dst.toNat) ++
    leBytes 8 (if tile then (q.coords.getD 4 0).toNat else q.len) ++
    leBytes 8 (q.opc + q.fn * 256 + if copyfWaits b x then 4096 else 0)

/-- The layout that the running firmware writes (R389). -/
def State.saveLayout (s : State) : Nat := s.fw.active.writes

/-- The save head (R354). -/
def saveHead (d : Desc) (b : Block) (layout list cnt : Nat) : List Byte :=
  leBytes 8 (layout % 2 ^ 16 + 2 ^ 32 + d.warps * 2 ^ 40) ++ leBytes 8 (b.key + d.areaS) ++
    leBytes 8 (cnt * 2 ^ 32 + d.spad) ++ leBytes 8 list ++ zeros 224

/- ### The matrix image (R296, R297) -/

/-- A plane or accumulator as words. -/
def wordsImage (m : List (Nat × Word)) (lo n : Nat) : List Byte :=
  ((List.range n).map fun k => leBytes 4 (smGet 0 m (lo + k)).toNat).flatten

/-- The matrix image (R296). -/
def matrixImage (e : Engine) : List Byte :=
  leBytes 256 (e.fmt0 % 16 + e.fmt1 % 16 * 16 + if e.act then 256 else 0) ++
    wordsImage e.plane0 0 8192 ++ wordsImage e.plane1 0 8192 ++ wordsImage e.acc 0 32768

/-- Whether a plane element is legal in its plane's format (R297). -/
def elementLegal (fmt : Nat) (v : Word) : Bool :=
  let m := (v.extractLsb' 16 14).toNat
  let e := (v.extractLsb' 0 8).toNat
  let range := match fmt with
    | 1 => 2 ^ sbMBits .sb4
    | 2 => 2 ^ sbMBits .sb8
    | 3 => 2 ^ sbMBits .sb16
    | _ => 1
  v.extractLsb' 30 2 == 0 && v.extractLsb' 9 7 == 0 && decide (m < range) &&
    !(m != 0 && e == 0) && e != 255

/-- The engine of an image, reserved for block k; none where the image breaks R297. -/
def engineOf (k : Nat) (bs : List Byte) : Option Engine :=
  let head := numAt bs 0 256
  let f0 := head % 16
  let f1 := head / 16 % 16
  let words (off n : Nat) : List Word := (List.range n).map fun i => BitVec.ofNat 32 (numAt bs (off + 4 * i) 4)
  let p0 := words 256 8192
  let p1 := words (256 + 32768) 8192
  if decide (512 ≤ head) || decide (3 < f0) || decide (3 < f1) || !p0.all (elementLegal f0) ||
      !p1.all (elementLegal f1) then none
  else
    some { Engine.reset with
      holder := some k, plane0 := smSplice 0 [] 0 p0, plane1 := smSplice 0 [] 0 p1, fmt0 := f0
      fmt1 := f1, act := decide (256 ≤ head), acc := smSplice 0 [] 0 (words (256 + 65536) 32768) }

/- ### Writing and reading a context area -/

/-- Bytes written at a physical address of bonded DRAM by the device; whole granules lose their
poison. -/
def State.putDram (s : State) (a : Nat) (bs : List Byte) : State :=
  s.writeLocs ((List.range bs.length).map fun k => .mem 0 (a + k)) bs

/-- Whether a range of bonded DRAM holds poison (R365, R366). -/
def State.dramPoisoned (s : State) (a n : Nat) : Bool :=
  s.poison.any fun g => g.1 == 0 && decide (a / 8 ≤ g.2) && decide (g.2 * 8 < a + n)

/-- The queue entries kept at swap-out: 8 of each queue on the core, then the spill ring (R269). -/
def queueImage (b : Block) (quota : Nat) : List Byte :=
  let entry (ws : List DWord) : List Byte :=
    ((List.range 8).map fun k => leBytes 8 (ws.getD k 0).toNat).flatten
  let on (q : Nat) : List Byte :=
    let es := (b.queue q).take 8
    (es.map entry).flatten ++ zeros (64 * (8 - es.length))
  let ring := (((List.range 8).map fun q => ((b.queue q).drop 8).map entry).flatten).take quota
  ((List.range 8).map on).flatten ++ ring.flatten ++ zeros (64 * (quota - ring.length))

/-- The granules of a warp's save area that carry the poison of its scalar and predicate registers (R363). -/
def Warp.poisonGranules (w : Warp) (a : Nat) : List Nat :=
  (w.sPoison.map fun n => (a + 0x4c0 + 8 * n) / 8) ++ w.pPoison.map fun k => (a + 0x580 + 8 * (k % 32)) / 8

/-- The poison of a block's scratchpad and registers carried into its image's granules (R363). -/
def State.poisonImage (s : State) (b : Block) (d : Desc) : State :=
  let gs := (b.spadPoison.map fun w => (b.key + d.areaS + 4 * w) / 8) ++
    (b.warps.map fun w => w.poisonGranules (b.key + areaWarp w.num)).flatten
  { s with poison := s.poison ++ ((gs.map fun g => (0, g)).eraseDups.filter fun g => !s.poison.contains g) }

/-- A block's context area written, with its stopped transfers at `list` (R350, R354). The matrix image
was written at swap-out (R296). -/
def State.saveBlock (s : State) (b : Block) (g : Grid) (list : Nat) : State :=
  let d := g.img.desc
  let stopped := b.xfers
  let s := s.putDram b.key (headerImage g b)
  let s := s.putDram (b.key + 0x4400) (saveHead d b s.saveLayout list stopped.length)
  let s := b.warps.foldl (fun s w => s.putDram (b.key + areaWarp w.num) (warpImage g w)) s
  let s := s.putDram (b.key + d.areaQ) (queueImage b d.quota)
  let s := s.putDram list ((stopped.map (xferImage g b)).flatten)
  (s.putDram (b.key + d.areaS) (b.spad.bytes 0 d.spad)).poisonImage b d

/-- What reading a context area comes to: the block, or the warp and address of the image that is
rejected (R140). -/
inductive Loaded where
  | ok (b : Block)
  | form (warp : Nat) (addr : Nat)
  | uncorr (addr : Nat)

/-- Whether the reserved bits of a block header and of its save head are zero (R87, R88, R140, R295, R354). -/
def headerLegal (bs : List Byte) : Bool :=
  let w0 := numAt bs 0 8
  w0 % 2 ^ 25 == 0 && w0 / 2 ^ 30 % 4 == 0 && w0 / 2 ^ 40 == 0 && numAt bs 8 16 == 0 && numAt bs 29 3 == 0 &&
    numAt bs 56 8 == 0 && (List.range 16).all (fun n => numAt bs (0x40 + 8 * n) 4 < 64) &&
    (List.range 16).all (fun t => numAt bs (0xc6 + 16 * t) 2 == 0 && numAt bs (0xcf + 16 * t) 1 == 0 &&
      numAt bs (0xcc + 16 * t) 1 < 16) &&
    decide (numAt bs 0x1c4 20 < 4) && numAt bs 0x200 512 == 0

/-- Whether the reserved bits of a save head are zero (R140, R354). -/
def saveHeadLegal (bs : List Byte) : Bool :=
  numAt bs 2 2 == 0 && numAt bs 4 1 < 2 && numAt bs 6 2 == 0 && numAt bs 32 224 == 0

/-- The first entry of a warp's call-stack area that breaks R140: it holds an exited lane, or a reserved bit is
set. -/
def State.badStack (s : State) (g : Grid) (key : Nat) (w : Warp) : Option Nat :=
  ((List.range w.csM).map fun m => key + g.img.desc.areaC + g.img.desc.stack * w.num + 144 * m).find? fun a =>
    let bs := s.dram.bytes a 144
    !stackEntryLegal bs || (CallEntry.ofBytes bs).pend &&& w.exited != 0

/-- The spaces that a `cp` at an offset of the code names, and the tile transfer's transposition (R259, R262). -/
def State.xferForm (s : State) (g : Grid) (ioff : Word) : Bool × Bool × Tr :=
  match (s.ctx? g.ctx).map fun c => decode (s.codeWords c (g.cb + (0#32 ++ ioff))) with
  | some (.ok (.cp _ _ _ _ dir _)) =>
    (match dir with
    | .sg => (true, false, .none)
    | .gs => (false, true, .none)
    | .ss => (true, true, .none)
    | _ => (false, false, .none))
  | some (.ok (.rput _ _ _ _ sp _)) => (sp, false, .none)
  | some (.ok (.rget _ _ _ _ sp _)) => (false, sp, .none)
  | some (.ok (.tload _ _ _ _ tr _)) => (false, true, tr)
  | some (.ok (.tstore _ _ _ _ tr _)) => (true, false, tr)
  | _ => (false, false, .none)

/-- A stopped transfer from its entry (R266, R354), for a block whose record does not hold it: its warp is the first in
which its lane stands at the record's POFF (log entry 18: DEDUCED). -/
def State.xferOf (s : State) (g : Grid) (b : Block) (id : Nat) (bs : List Byte) : Xfer :=
  let word (k : Nat) : DWord := BitVec.ofNat 64 (numAt bs (8 * k) 8)
  let lane := ((word 0).extractLsb' 8 5).toNat
  let at_ := g.cb + (0#32 ++ (word 0).extractLsb' 32 32)
  let w2 := word 2
  let form := s.xferForm g (w2.extractLsb' 0 32)
  let kind : XferKind := match (numAt bs 56 1), numAt bs 57 1 % 16 with
    | 0x33, _ => .cp
    | 0x35, 0 => .rput
    | 0x35, _ => .rget
    | 0x32, 0 => .tload
    | 0x32, _ => .tstore
    | _, _ => .mstM
  let tlr := (w2.extractLsb' 56 8).toNat
  let tile := (w2.extractLsb' 52 4).toNat
  let e := b.tile tile
  let isTile := kind == .tload || kind == .tstore
  let cols := if kind == .mstM then 128 else ((g.img.tlrs[tlr]?).map (·.tcols)).getD 1
  { id := id
    req :=
      { kind := kind
        warp := ((b.warps.find? fun w => w.frontier.any fun e => e.pc == at_ && e.mask.getLsbD lane).map
          (·.num)).getD 0
        lane := lane, srcSp := form.1, dstSp := form.2.1
        src := if kind == .tstore then BitVec.ofNat 64 e.base else word 4
        dst := if kind == .tload then BitVec.ofNat 64 e.base else word 5
        len := if isTile then e.rowbytes else (word 6).toNat
        tile := if w2.getLsbD 51 then some tile else none
        tlr := if isTile || kind == .mstM then some tlr else none, tr := form.2.2
        coords := if isTile || kind == .mstM then coordsOf (word 4) (word 5) (word 6) else []
        tok := if w2.getLsbD 50 then some (w2.extractLsb' 47 3) else none
        ioff := w2.extractLsb' 0 32, opc := numAt bs 56 1, fn := numAt bs 57 1 % 16, rows := 0, gap := 0, buf := []
        flags := 0, members := 0 }
    pos := if isTile || kind == .mstM then numAt bs 28 2 * cols + numAt bs 30 2 else numAt bs 24 8
    stop := some (w2.extractLsb' 32 8, word 1), undelivered := true, remote := none, pri := none }

/-- The stopped-transfer list of a saved block (R354). -/
def State.xferList (s : State) (g : Grid) (b : Block) : List Xfer :=
  let head := s.dram.bytes (b.key + 0x4400) 32
  let list := numAt head 24 8
  (List.range (numAt head 20 4)).map fun k => s.xferOf g b k (s.dram.bytes (list + 64 * k) 64)

/-- The COPYF that a warp's handler runs, tied to its transfer. -/
def Warp.tieFrame (w : Warp) (xs : List Xfer) (waits : Nat → Bool) : Warp :=
  { w with frame := w.frame.map fun (f : Frame) =>
      if f.trap.words.w0.extractLsb' 0 8 = TrapCode.copyf.num ∧ f.trap.xfer.isNone then
        { f with trap := { f.trap with
          xfer := (xs.find? fun x => x.req.warp == w.num && !waits x.id).map (·.id) } }
      else f }

/-- A restored block with its stopped transfers (R354): those of its record, else those of the list, under
identifiers of this package. -/
def State.withXfers (s : State) (g : Grid) (b : Block) : Block :=
  if !b.xfers.isEmpty then b
  else
    let xs := s.xferList g b
    let list := numAt (s.dram.bytes (b.key + 0x4400) 32) 24 8
    let waits (k : Nat) : Bool := numAt (s.dram.bytes (list + 64 * k) 64) 57 1 / 16 % 2 == 1
    { b with
      warps := (b.warps.map fun (w : Warp) => w.tieFrame xs waits).map fun (w : Warp) =>
        { w with frame := w.frame.map fun (f : Frame) =>
          { f with trap := { f.trap with xfer := f.trap.xfer.map (· + s.fresh) } } }
      xfers := xs.map fun (x : Xfer) => { x with id := x.id + s.fresh } }

/-- The address of the first poisoned granule of a range of bonded DRAM (R366, R367). -/
def State.firstPoisoned (s : State) (a n : Nat) : Option Nat :=
  ((List.range ((a + n + 7) / 8 - a / 8)).map fun k => a / 8 + k).find? (fun g => s.poison.contains (0, g)) |>.map (8 * ·)

/-- The words of a warp's save area that a restore reads, but for its register images (R352). -/
def State.areaPoison (s : State) (d : Desc) (a : Nat) : Option Nat :=
  if s.poison.isEmpty then none
  else
    (s.firstPoisoned a 0x4500).orElse fun _ =>
      ((List.range d.warps).findSome? fun w => s.firstPoisoned (a + areaWarp w) 0x4c0).orElse fun _ =>
        s.firstPoisoned (a + d.areaQ) (d.areaX - d.areaQ)

/-- A warp with the poison that its saved registers carry (R363). -/
def State.poisonWarp (s : State) (a : Nat) (w : Warp) : Warp :=
  if s.poison.isEmpty then w
  else
    let hit (off : Nat) : Bool := s.poison.contains (0, (a + off) / 8)
    { w with
      sPoison := (List.range 24).filter fun n => hit (0x4c0 + 8 * n)
      pPoison := ((List.range 64).map fun n => (lanes.filter fun l => hit (0x580 + 8 * l)).map fun l => vkey n l).flatten }

/-- A block read back from its context area over the record `old` (R140, R349). -/
def State.loadBlock (s : State) (old : Block) (g : Grid) : Loaded :=
  let d := g.img.desc
  let a := old.key
  let get (off n : Nat) : List Byte := s.dram.bytes (a + off) n
  match s.areaPoison d a with
  | some p => .uncorr p
  | none =>
    let warps := old.warps.map fun w =>
      let off := areaWarp w.num
      match warpOf g w (get off 0x9000), regionOf g (get (0x400 + 512 * w.num) 512) with
      | some x, some r =>
        (match s.badStack g a x with
        | some e => Except.error (w.num, e)
        | none => .ok (s.poisonWarp (a + off) { x with rgn := r }))
      | none, _ => .error (w.num, a + off)
      | some _, none => .error (w.num, a + 0x400 + 512 * w.num)
    match warps.findSome? fun r => match r with
        | .error e => some e
        | .ok _ => none with
    | some e => .form e.1 e.2
    | none =>
      if !headerLegal (get 0 0x400) then .form 0 a
      else if !saveHeadLegal (get 0x4400 256) then .form 0 (a + 0x4400)
      else
      let tiles := (List.range 16).foldl (fun m t =>
        smSet Tile.zero m t (tileOf (get (0xc0 + 16 * t) 16))) []
      let gang := numAt (get 0x1c0 8) 0 8
      let bind := get 0x1e0 32
      .ok (s.withXfers g { old with
        warps := warps.filterMap fun r =>
          match r with
          | .ok w => some w
          | .error _ => none
        bars := (List.range 16).foldl (fun m n =>
          let c := numAt (get (0x40 + 8 * n) 8) 0 8
          smSet BarCtr.zero m n { old.bar n with
            gen := BitVec.ofNat 32 (c / 2 ^ 32), arrived := c % 64 }) []
        tiles := tiles, gang := BitVec.ofNat 32 gang, rsv := gang / 2 ^ 32 % 2 == 1
        mxSaved := gang / 2 ^ 33 % 2 == 1
        ib := ⟨BitVec.ofNat 64 (numAt bind 24 8), numAt bind 1 1 % 32, numAt bind 0 1 % 2 == 1⟩
        spad := (List.range d.spad).foldl (fun m k =>
          m.setByte k (s.dram.byte (a + d.areaS + k))) []
        spadPoison := (List.range (d.spad / 4)).filter fun w =>
          s.poison.contains (0, (a + d.areaS + 4 * w) / 8) })

end Sys2Proof.Machine
end

