-- ==== Sys2Proof/Machine/Swap.lean ====
section
/-! DEFINITION. Pre-emption (R346 to R350), resuming (R140, R297, R349), the dispatcher's event
QUARTET_PLACE (R81), the waiter switch (R305), BAR_FIT (R302), the in-field test (R356, R370), debugger
halts (R343) and the re-entry after a consumed error (R366). -/

namespace Sys2Proof.Machine

/- ### Requests (R346) -/

/-- The blocks that are stopped, swapped out and resumed with b: its quartet, or a spawned block alone
(R80, R346). -/
def State.unitOf (s : State) (b : Block) : List Block :=
  if b.spawned then [b]
  else s.blocks.filter fun p => p.grid == b.grid && !p.spawned && p.quartet == b.quartet

/-- A block under a request that begins at a step (R346, R347): a later step stands, and a test's
request gives way. Step 2 sets PPRE (R344). -/
def Block.request (b : Block) (code step : Nat) : Block :=
  let rises := match b.stop with
    | some (c, old) => decide (old < step) || (c == 5 && step == old)
    | none => true
  if b.ended || b.res != .resident || !rises then b
  else { b with
    stop := some (code, step)
    warps := if step = 2 then b.warps.map fun w => { w with st := { w.st with ppre := true } }
      else b.warps }

/-- A request for the units of these blocks. -/
def State.preempt (s : State) (keys : List Nat) (code step : Nat) : State :=
  keys.foldl (fun s k =>
    match s.block? k with
    | none => s
    | some b => (s.unitOf b).foldl (fun s p => s.setBlock (p.request code step)) s) s

/-- The first step of a request that begins with step 1: DRAIN 0 ends that step at once (R347). -/
def State.drainStep (s : State) (die : Nat) : Nat := if (s.die die).drain = 0 then 2 else 1

/- ### Resets (R347 step 3) -/

/-- The stopped-transfer list of a saved block given back to the pool. -/
def State.freeList (s : State) (b : Block) (g : Grid) : State :=
  if b.valid && !b.xfers.isEmpty then
    s.poolFree g.ctx ((leNat (s.dram.bytes (b.key + 0x4400 + 24) 8)))
  else s

/-- The shadow store of a block's core without its image (R350). -/
def State.dropShadow (s : State) (b : Block) : State :=
  let c := s.core b.coreNum
  s.setCore b.coreNum { c with shadow := c.shadow.filter fun e => e.1 != b.key }

/-- A block leaves the machine: its bindings, its engine, its area, its image in the shadow store and its core's
split. -/
def State.dropBlock (s : State) (k : Nat) : State :=
  match s.block? k with
  | none => s
  | some b =>
    let s := s.uiUnbind k b.ib.warp
    let e := s.core b.coreNum
    let s := if e.mx.holder = some k then s.setCore b.coreNum { e with mx := Engine.reset } else s
    let s := match s.grid? b.grid with
      | some g => (s.freeList b g).poolFree g.ctx k
      | none => s
    let s := s.dropShadow b
    let s := { s with
      blocks := s.blocks.filter fun p => p.key != k
      queues := s.queues.map fun q => { q with swapped := q.swapped.erase k } }
    if s.blocks.any fun p => p.res == .resident && p.coreNum == b.coreNum then s
    else s.setCore b.coreNum { s.core b.coreNum with split := 0 }

/-- The forced reset of a grid's blocks on this package (R347 step 3, R64). -/
def State.resetGrid (s : State) (gid : Nat) : State :=
  (s.blocks.filter fun b => b.grid == gid).foldl (fun s b => s.dropBlock b.key) s

/-- DRAIN_DEADLINE: step 1 ends on a die; the remaining blocks go to step 2, but those of a test
(R347, R356). -/
def execDrainDeadline (die : Nat) (s : State) : Out :=
  .next (s.preempt ((s.blocks.filter fun b => b.die == die &&
    (match b.stop with
    | some (c, 1) => c != 5
    | _ => false)).map (·.key)) 1 2)

/-- STOP_DEADLINE: a block still in step 2 is reset and ends its grid with FORCED_RESET, except under
code 7 (R340, R347). -/
def execStopDeadline (b : Nat) (s : State) : Out :=
  .next (match s.block? b with
  | none => s
  | some bl =>
    match bl.stop with
    | some (code, 2) =>
      if bl.res != .resident then s
      else
        (s.endGrid bl.grid ⟨stFailed, 0x81, BitVec.ofNat 16 code, BitVec.ofNat 64 bl.lin⟩).resetGrid
          bl.grid
    | _ => s)

/- ### Swapping out (R348 to R350) -/

/-- Whether a warp stands where step 2 or a halt may stop it (R334, R344, R348). -/
def Warp.atBoundary (w : Warp) : Bool :=
  w.hasEnded || (w.pendCommit.isNone && w.acks == 0 && w.loads.all fun o => o.rgn)

/-- Whether an npe section still runs, so that step 2 waits for it: its warp has lanes to issue, or a
handler or a pending trap of its own (R348, R355). -/
def Warp.inSection (w : Warp) : Bool :=
  w.st.npe && !w.st.hold && !w.st.halt &&
    (w.frame.isSome || !w.utraps.isEmpty || w.frontier.any fun e => e.park == 0)

/-- Whether a block can leave its core: every warp stopped, every released transfer complete or stopped,
its engine idle (R296, R348). -/
def State.stopped (s : State) (b : Block) : Bool :=
  b.ended ||
    (b.warps.all (fun w => w.atBoundary && !w.inSection) &&
      b.xfers.all (fun x => x.stop.isSome) &&
      ((s.core b.coreNum).mx.holder != some b.key || (s.core b.coreNum).mx.ops.isEmpty))

/-- A warp as it leaves (R331, R332, R345, R348). -/
def Warp.swapOut (w : Warp) (cb : DWord) : Warp :=
  let w := if w.hasEnded then w else w.discard cb
  { w with st := { w.st with ppre := false } }

/-- The granules of the matrix image that poisoned words fall in (R296, R363). -/
def mxGranules (e : Engine) (a : Nat) : List (Nat × Nat) :=
  (e.planePoison.map fun k => (0, (a + 256 + 4 * k) / 8)) ++
    e.accPoison.map fun k => (0, (a + 256 + 65536 + 4 * k) / 8)

/-- The engine of a block saved: the latch emptied, the image at MXIMG, SAVED := 1 (R296). -/
def State.saveEngine (s : State) (b : Block) (d : Desc) : State × Block :=
  let c := s.core b.coreNum
  if c.mx.holder != some b.key then (s, b)
  else
    let a := b.key + d.areaX
    let s := s.putDram a (matrixImage c.mx)
    let s := { s with poison := s.poison ++ (mxGranules c.mx a).filter fun g => !s.poison.contains g }
    (s.setCore b.coreNum { c with mx := Engine.reset }, { b with mxSaved := true })

/-- A swapped-out block's image written to its context area, with VALID set (R350, R354). Without room in the pool
for the stopped-transfer list nothing happens. -/
def State.copyArea (s : State) (b : Block) (g : Grid) : State :=
  if b.xfers.isEmpty then (s.saveBlock b g 0).setBlock { b with valid := true }
  else
    match (s.ctx? g.ctx).bind fun c => c.alloc (64 * b.xfers.length) 256 with
    | none => s
    | some (a, c) => ((s.setCtx c).saveBlock b g a).setBlock { b with valid := true }

/-- The bytes of a core's shadow context store (R350). -/
def shadowSize : Nat := 262144

/-- The bytes that a block's image takes in the shadow store: header, save head, the warps' areas with their
compressed registers, queue entries, matrix image and scratchpad (R138, R350; log entry 53: DESIGN CHOICE). -/
def Block.imageSize (b : Block) (d : Desc) : Nat :=
  0x4500 + (b.warps.map fun w => 0x680 + (vectorImage w d.vregs).length).sum + 4096 + 64 * d.quota +
    (if b.rsv then 196864 else 0) + d.spad

/-- A block's image in the shadow store of its core, over the oldest ones whose copies are complete; one that does not
fit goes to its context area directly (R350). -/
def State.shadowBlock (s : State) (b : Block) (g : Grid) : State :=
  let c := s.core b.coreNum
  let n := b.imageSize g.img.desc
  let copied (e : Nat × Nat) : Bool := (s.block? e.1).all fun p => p.valid
  let busy := ((c.shadow.filter fun e => !copied e).map (·.2)).sum
  if shadowSize < busy + n then s.copyArea b g
  else
    let keep := c.shadow.foldr (fun e (r : List (Nat × Nat) × Nat) =>
      if !copied e then (e :: r.1, r.2) else if r.2 + e.2 ≤ shadowSize then (e :: r.1, r.2 + e.2) else r)
      ([], busy + n)
    s.setCore b.coreNum { c with shadow := keep.1 ++ [(b.key, n)] }

/-- One block leaves its core (R349, R350); its record stands last, so that blocks come back in the
order in which they left (R305). -/
def State.swapBlock (s : State) (b : Block) (g : Grid) : State :=
  let r := s.saveEngine b g.img.desc
  let b := { r.2 with
    warps := r.2.warps.map fun (w : Warp) => w.swapOut g.cb
    res := .swapped, stop := none, valid := false }
  let t := r.1
  let s := { t with blocks := (t.blocks.filter fun (p : Block) => p.key != b.key) ++ [b] }
  let s := match g.queue.bind s.queue? with
    | some q => if b.ended then s else s.setQueue { q with swapped := q.swapped ++ [b.key] }
    | none => s
  let s := if b.ended then s else s.shadowBlock b g
  if s.blocks.any fun p => p.res == .resident && p.coreNum == b.coreNum then s
  else s.setCore b.coreNum { s.core b.coreNum with split := 0 }

/-- Whether a unit of blocks may leave now: each member that goes on is in step 2 and stopped, and neither a COPYF
nor a halt of it is due (R344). -/
def State.unitStopped (s : State) (us : List Block) : Bool :=
  us.all fun p => p.res == .resident && s.stopped p && (p.warps.all fun w => w.hasEnded || !w.st.pdbg) &&
    (p.xfers.all fun x => (s.copyfDue p.key x.id).isNone) && (p.ended || (match p.stop with
    | some (_, 2) => true
    | _ => false))

/-- BLOCK_SWAP_OUT: a block and its quartet leave their cores once everything in them has stopped
(R346, R348, R350). -/
def execBlockSwapOut (b : Nat) (s : State) : Out :=
  .next (match s.block? b with
  | none => s
  | some bl =>
    let us := s.unitOf bl
    match s.grid? bl.grid with
    | none => s
    | some g =>
      if s.unitStopped us && us.any (fun p => !p.ended) then
        us.foldl (fun s p => s.swapBlock p g) s
      else s)

/-- CONTEXT_AREA_COPY: the image of a swapped-out block reaches its context area and VALID is set
(R350, R354); a block that has ended has no area (R89). -/
def execContextAreaCopy (b : Nat) (s : State) : Out :=
  .next (match s.block? b with
  | none => s
  | some bl =>
    match s.grid? bl.grid with
    | none => s
    | some g =>
      if bl.res == .resident || bl.valid || bl.ended then s else s.copyArea bl g)

/- ### Resuming (R140, R297, R349) -/

/-- Whether a grid's swapped-out blocks may come back: it goes on, it is not parked, and a local grid's
queue is mapped (R38, R39, R64). -/
def State.resumable (s : State) (g : Grid) : Bool :=
  g.ending.isNone && !g.stopped && g.offered &&
    (match g.queue.bind s.queue? with
    | some q => q.slot.isSome && decide (q.unmapStep = 0) &&
        (q.state == 2 || q.state == 3 || q.state == 6)
    | none => true)

/-- Whether a core's engine can be reserved for a block that returns (R297). -/
def State.engineFor (s : State) (core : Nat) (b : Block) : Bool :=
  !b.rsv || (s.core core).mx.holder.isNone

/-- A block back on a core: its slots, its split, and PDBG and BRKEN from the debug word (R83, R126,
R343). -/
def State.seat (s : State) (b : Block) (g : Grid) (core off : Nat) : State :=
  let live := b.warps.filter fun w => !w.hasEnded
  let slots := s.freeSlots core live.length
  let c := s.ctx? g.ctx
  let halt := (c.map (·.halt)).getD false
  let warps := b.warps.map fun w =>
    if w.hasEnded then w
    else
      let k := (live.takeWhile fun v => v.num != w.num).length
      { w with
        slot := slots.getD k 0
        st := { w.st with pdbg := w.st.pdbg || (halt && !w.st.halt) } }
  let b := { b with
    warps := warps, res := .resident, die := core / 192, quad := core % 192 / 4, core := core % 4
    spadOff := off, valid := false, brken := (c.map (·.brken)).getD false }
  (s.setBlock b).raiseSplit core (off + g.img.desc.spad)

/-- One member of a unit seated on the first core of a quad where it fits (R81); an ended member needs
its scratchpad range alone (R84). -/
def State.seatMember (s : State) (g : Grid) (die quad : Nat) (b : Block) : Option State :=
  let cores := (List.range 4).map fun k => die * 192 + quad * 4 + k
  let room (k : Nat) : Option (Nat × Nat) :=
    if b.ended then (s.spadFind k g.img.desc.spad).map fun o => (k, o)
    else if s.engineFor k b then (s.fits k g.img.desc b.spawned).map fun o => (k, o)
    else none
  (cores.findSome? room).map fun r =>
    let s := s.seat b g r.1 r.2
    if b.rsv && !b.ended then
      s.setCore r.1 { s.core r.1 with mx := { Engine.reset with holder := some b.key } }
    else s

/-- A unit seated whole on the first usable quad on which every member fits, its records unchanged. -/
def State.seatUnit (s : State) (g : Grid) (us : List Block) : Option State :=
  (s.quadsFor g).findSome? fun q =>
    us.foldl (fun o b => o.bind fun s => s.seatMember g q.1 q.2 b) (some s)

/-- A reserved engine restored from the image at MXIMG, its poison with it (R297, R363). -/
def State.loadEngine (s : State) (b : Block) (g : Grid) : Option State :=
  let a := b.key + g.img.desc.areaX
  if !b.rsv || !b.mxSaved then some s
  else
    (engineOf b.key (s.dram.bytes a 196864)).map fun e =>
      let bad (lo n : Nat) : List Nat := (List.range n).filter fun k =>
        s.poison.contains (0, (a + lo + 4 * k) / 8)
      let e := if s.dramPoisoned a 196864 then
          { e with planePoison := bad 256 16384, accPoison := bad (256 + 65536) 32768 }
        else e
      (s.setCore b.coreNum { s.core b.coreNum with mx := e }).setBlock { b with mxSaved := false }

/-- What a warp's lanes wait for, once its block is back: the barrier generations that ended meanwhile
release them (R301, R323). -/
def State.endedBars (s : State) (k : Nat) : State :=
  (List.range 16).foldl (fun s n =>
    match s.block? k with
    | none => s
    | some b =>
      let c := b.bar n
      if c.done = 0 then s
      else
        ((s.setBlock (b.setBar n { c with gen := c.gen + BitVec.ofNat 32 c.done, done := 0 })).releaseSlot k n
          (!c.broken) (fun _ => true)).barCheck barFuel k n) s

/-- The die number of a block whose images came from another package: it has stood on no core here. -/
def nowhere : Nat := 4

/-- Whether a core's shadow store still holds a swapped-out block's image (R350). -/
def State.shadowed (s : State) (old : Block) (core : Nat) : Bool :=
  core == old.coreNum && (s.core core).shadow.any fun e => e.1 == old.key

/-- What a resumed block is read from: its record in the shadow store on its own core, else its context
area (R140, R350; log entry 18: DEDUCED). A block from another package was read when its images arrived. -/
def State.readBack (s : State) (old b : Block) (g : Grid) : Loaded :=
  if s.shadowed old b.coreNum || old.ended || old.die == nowhere then .ok b
  else
    match s.loadBlock b g with
    | .ok l =>
      .ok { l with warps := l.warps.map fun w =>
              match b.warp? w.num with
              | some v => { w with st := { w.st with pdbg := w.st.pdbg || v.st.pdbg } }
              | none => w }
    | r => r

/-- The members read back one by one, the checks of R140 and R297 before any warp issues. -/
def State.restoreUnit (s : State) (g : Grid) (olds : List Block) : State :=
  olds.foldl (fun s old =>
    match s.block? old.key with
    | none => s
    | some b =>
      match s.readBack old b g with
      | .form w a => s.endGrid g.id ⟨stFailed, 0x50, BitVec.ofNat 16 w, BitVec.ofNat 64 a⟩
      | .uncorr a => (s.logUse g.ctx b.coreNum a).endGrid g.id ⟨stFailed, 0x90, 0, BitVec.ofNat 64 a⟩
      | .ok l =>
        match (s.setBlock l).loadEngine l g with
        | some s => s
        | none =>
          s.endGrid g.id ⟨stFailed, 0x50, 0, BitVec.ofNat 64 (l.key + g.img.desc.areaX)⟩) s

/-- Whether a swapped-out block can come back now, on the quads it would take (R350): away from its core
it needs its context area complete. -/
def State.canSeat (s : State) (g : Grid) (us : List Block) : Option State :=
  (s.seatUnit g us).bind fun t =>
    if us.all fun p => p.ended || p.valid ||
        (match t.block? p.key with
        | some b => s.shadowed p b.coreNum
        | none => false) then some t
    else none

/-- The units that left before block b and could come back now (R305). -/
def State.earlier (s : State) (b : Block) : Bool :=
  (s.blocks.takeWhile fun p => p.key != b.key).any fun p =>
    p.res == .swapped && !p.ended && !((s.unitOf b).any fun u => u.key == p.key) &&
      (match s.grid? p.grid with
      | some g => s.resumable g && (s.canSeat g (s.unitOf p)).isSome
      | none => false)

/-- BLOCK_RESUME: a swapped-out block and its quartet return to a quad, are checked, and go on (R297,
R305, R313, R349). -/
def execBlockResume (b : Nat) (s : State) : Out :=
  .next (match s.block? b with
  | none => s
  | some bl =>
    match s.grid? bl.grid with
    | none => s
    | some g =>
      let us := s.unitOf bl
      if bl.res != .swapped || bl.ended || !s.resumable g || s.earlier bl then s
      else
        match s.canSeat g us with
        | none => s
        | some t =>
          let t := us.foldl (fun t p => t.freeList p g) t
          let t := t.restoreUnit g us
          let t := match g.queue.bind t.queue? with
            | some q => t.setQueue { q with
                swapped := q.swapped.filter fun k => !us.any fun p => p.key == k }
            | none => t
          let t := us.foldl (fun t p => (t.dropShadow p).endedBars p.key) t
          let t := if us.any fun p => (t.block? p.key).any fun b => b.die != p.die then t.dieMoved g.id else t
          t.uiExamine g.ctx)

/- ### New blocks (R81) -/

/-- Whether a swapped-out block of a grid can come back now: it stands at the head of the grid's dispatch order
(R78). -/
def State.headWaits (s : State) (g : Grid) : Bool :=
  s.blocks.any fun p => p.grid == g.id && p.res == .swapped && !p.ended && (s.canSeat g (s.unitOf p)).isSome

/-- Whether a grid has a quartet that may be placed: it is offered and goes on, its queue is mapped, no
earlier grid of the queue has quartets left, no block of its own can come back first, and in deterministic mode the
members of the quartet before have begun or ended (R38, R43, R64, R78, R90). -/
def State.placeable (s : State) (g : Grid) : Bool :=
  s.resumable g && g.offered && !g.complete && !g.allPlaced &&
    (match g.queue with
    | none => true
    | some q => s.grids.all fun h => h.queue != some q || decide (g.id ≤ h.id) || h.allPlaced ||
        h.ending.isSome) &&
    (!g.img.desc.det || s.blocks.all fun b => b.grid != g.id || b.spawned || b.begun || b.ended ||
      b.quartet + 1 != g.nextQuartet) && !s.headWaits g

/-- The quartets that may be placed next: the lowest that waits, and in normal mode the last one, since all others
are alike (R81 step 4). -/
def Grid.candidates (g : Grid) : List Nat :=
  g.nextQuartet :: (if g.img.desc.det || g.ahead.contains (g.quartets - 1) || g.quartets ≤ g.nextQuartet + 1 then []
    else [g.quartets - 1])

/-- The quartet of a grid that finds a quad now, with the state once it is placed (R81). -/
def State.nextPlace (s : State) (g : Grid) : Option (Nat × State) :=
  if !s.placeable g then none
  else g.candidates.findSome? fun q => (s.placeQuartet g q).map fun t => (q, t)

/-- The grid once quartet q is placed: the lowest that is not, and the later ones that are (R81); `fuel` bounds
these. -/
def Grid.placed : Nat → Grid → Nat → Grid
  | 0, g, _ => g
  | fuel + 1, g, q =>
    if q ≠ g.nextQuartet then { g with ahead := g.ahead ++ [q] }
    else
      let g := { g with nextQuartet := q + 1, ahead := g.ahead.erase q }
      if g.ahead.contains (q + 1) then Grid.placed fuel g (q + 1) else g

/-- A queue's own priority, at most its function's (R38). -/
def State.ownPrio (s : State) (q : Queue) : Nat :=
  Nat.min q.prio (((s.func? q.fn).map (·.maxprio)).getD 7)

/-- The local grids of a die that ask the dispatcher for a new block which it can place: the slot of the grid's
queue, its priority and the grid (R28, R38). -/
def State.newRequests (s : State) (die : Nat) : List (Nat × Nat × Nat) :=
  s.grids.filterMap fun g =>
    match g.queue.bind s.queue? with
    | some q =>
      (match q.slot with
      | some k => if q.home = die ∧ (s.nextPlace g).isSome then some (k, s.ownPrio q, g.id) else none
      | none => none)
    | none => none

/-- The slot whose new-block request goes first: descending priority, and round robin by slot index within one (R38,
R43). -/
def State.servedSlot (s : State) (die : Nat) : Option Nat :=
  let rs := s.newRequests die
  let top := rs.foldl (fun m r => Nat.max m r.2.1) 0
  let ks := (rs.filter fun r => r.2.1 == top).map (·.1)
  let least (l : List Nat) : Option Nat := l.foldl (fun m k => some (Nat.min k (m.getD k))) none
  (least (ks.filter fun k => decide ((s.die die).lastNew ≤ k))).orElse fun _ => least ks

/-- QUARTET_PLACE: the quartet of a grid that comes next placed whole, or nothing (R19, R38, R43, R81, R89); a pod
grid's parcels take no local block, and it waits for no slot (R77). -/
def execQuartetPlace (g : Nat) (s : State) : Out :=
  .next (match s.grid? g with
  | none => s
  | some gr =>
    match s.nextPlace gr, gr.queue.bind s.queue? with
    | none, _ => s
    | some (q, t), none => t.setGrid (Grid.placed (gr.ahead.length + 1) gr q)
    | some (q, t), some qu =>
      if qu.slot.isNone || qu.slot != s.servedSlot qu.home then s
      else
        let d := t.die qu.home
        (t.setDie qu.home { d with lastNew := qu.slot.getD 0 + 1 }).setGrid
          (Grid.placed (gr.ahead.length + 1) gr q))

/- ### The waiter switch (R305) -/

/-- Whether a live warp's live lanes are all parked in `waitv`. -/
def Warp.allWait (w : Warp) : Bool :=
  w.frame.isNone && !w.frontier.isEmpty && w.frontier.all fun e => e.park == 3

/-- Whether some block waits for resources that this core lacks (R305). -/
def State.waitsFor (s : State) (core : Nat) : Bool :=
  let j := core / 192 * 2 + core % 192 / 4 / 24
  s.grids.any fun g => s.resumable g && (s.parcelsOf g).contains j &&
    (s.fits core g.img.desc false).isNone &&
    ((g.offered && !g.allPlaced) || s.blocks.any fun b => b.grid == g.id && b.res == .swapped && !b.ended)

/-- WAITER_SWITCH: a core whose live warps all wait gives up the block that waits longest, on a tie the
one in the lower warp slot (R305). -/
def execWaiterSwitch (core : Nat) (s : State) : Out :=
  .next (
    let here := s.blocks.filter fun b => b.on core
    let ws := (here.map fun b => (b.warps.filter fun w => !w.hasEnded).map fun w => (b, w)).flatten
    if ws.isEmpty || !ws.all (fun p => p.2.allWait) || !s.waitsFor core then s
    else
      let latest (b : Block) : Nat × Nat :=
        (b.warps.filter fun w => !w.hasEnded).foldl (fun (m : Nat × Nat) w =>
          if m.1 < w.parkedAt + 1 then (w.parkedAt + 1, w.slot) else m) (0, 0)
      let pick := here.foldl (fun (m : Option Block) b =>
        match m with
        | none => some b
        | some o =>
          let x := latest b
          let y := latest o
          if x.1 < y.1 ∨ (x.1 = y.1 ∧ x.2 < y.2) then some b else m) none
      match pick with
      | none => s
      | some b => s.preempt [b.key] 4 2)

/- ### BAR_FIT (R302) -/

/-- Whether a block of a rank cannot go on without its grid barrier: every live warp is parked at, or
has arrived at, one of `.pkg` or `.pod`. -/
def Block.atWide (b : Block) (slot : Nat) : Bool :=
  let c := b.bar slot
  let wide (sc : Scope) : Bool := sc == .pkg || sc == .pod
  (match c.passed with
  | some sc => wide sc
  | none => false) ||
  (b.warps.all fun w => w.hasEnded || (!w.frontier.isEmpty && w.frontier.all (fun e => e.park == 5) &&
    w.waits.any fun v => (v.kind.onSlot slot).isSome)) &&
    ((c.first.map fun p => wide p.2).getD false ||
      b.warps.any fun w => w.waits.any fun v =>
        match v.kind with
        | .bar n sc _ _ => n == slot && wide sc
        | .barWt n _ sc _ => n == slot && wide sc
        | _ => false)

/-- The package with the blocks of other grids gone (R302). -/
def State.aloneFor (s : State) (gid : Nat) : State :=
  let others := s.blocks.filter fun b => b.grid != gid
  let s := others.foldl (fun s b =>
    match s.grid? b.grid with
    | some g => s.poolFree g.ctx b.key
    | none => s) s
  { s with blocks := s.blocks.filter fun b => b.grid == gid }

/-- BAR_FIT_DETECT: a rank whose placed blocks all wait at wide barriers, of this slot among them, while its next
quartet can never be placed ends its grid with BAR_FIT (R302, R322). -/
def execBarFitDetect (g slot : Nat) (s : State) : Out :=
  .next (match s.grid? g with
  | none => s
  | some gr =>
    let mine := s.blocks.filter fun b => b.grid == g && !b.ended && !b.spawned
    if gr.allPlaced || gr.complete || mine.isEmpty || !gr.offered ||
        !mine.all (fun b => (List.range 16).any b.atWide) || !mine.any (fun b => b.atWide slot) ||
        ((s.aloneFor g).placeQuartet gr gr.nextQuartet).isSome then s
    else
      s.endGrid g ⟨stFailed, 0x70, BitVec.ofNat 16 slot,
        BitVec.ofNat 64 (gr.rankFirst gr.rank + 4 * gr.nextQuartet)⟩)

/- ### The in-field test (R356, R370) -/

/-- The blocks on a logical quad of a die. -/
def State.onQuad (s : State) (die : Nat) (q : Option Nat) : List Block :=
  s.blocks.filter fun b => b.res == .resident && b.die == die && some b.quad == q

/-- The number of a physical quad in log records (log entry 11: DESIGN CHOICE). -/
def quadUnit (die p : Nat) : Nat := die * 50 + p

/-- A quad retired (R356, R370): its blocks are pre-empted with code 6, and the lowest spare of the die
that has passed its test takes its logical number, or the number stays empty. -/
def State.retireQuad (s : State) (die p : Nat) : State :=
  let q := s.quad die p
  let spare := (List.range 50).find? fun k =>
    k != p && (s.quad die k).logical.isNone && (s.quad die k).passed && !(s.quad die k).retired &&
      !(s.quad die k).testing
  let keys := (s.onQuad die q.logical).map (·.key)
  let s := s.setQuad die p
    { q with logical := none, retired := true, testing := false, due := false, deferrals := 0 }
  let s := match spare, q.logical with
    | some k, some n => (s.setQuad die k { s.quad die k with logical := some n }).logPkg kSpare 0
        (quadUnit die p) (BitVec.ofNat 64 k)
    | _, _ => s.logPkg kSpare 0 (quadUnit die p) 0xffffffffffffffff
  s.preempt keys 6 2

/-- TEST_DUE: a quad's in-field test falls due; its blocks run on under step 1 (R356). -/
def execTestDue (die quad : Nat) (s : State) : Out :=
  .next (
    let q := s.quad die quad
    if 4 ≤ die ∨ 50 ≤ quad ∨ q.retired ∨ q.testing ∨ q.due then s
    else
      (s.setQuad die quad { q with due := true }).preempt
        ((s.onQuad die q.logical).map (·.key)) 5 1)

/-- TEST_DEADLINE: an empty quad is tested; a quad that is not reopens, and its third deferral in
succession retires it (R356). -/
def execTestDeadline (die quad : Nat) (s : State) : Out :=
  .next (
    let q := s.quad die quad
    if !q.due then s
    else
      let here := s.onQuad die q.logical
      if here.isEmpty then s.setQuad die quad { q with due := false, testing := true, deferrals := 0 }
      else
        let s := here.foldl (fun s b => s.setBlock { b with stop :=
          (match b.stop with
          | some (5, _) => none
          | o => o) }) s
        let s := s.setQuad die quad { q with due := false, deferrals := q.deferrals + 1 }
        let s := s.logPkg kDeferred 0 (quadUnit die quad) (BitVec.ofNat 64 (q.deferrals + 1))
        if 3 ≤ q.deferrals + 1 then s.retireQuad die quad else s)

/-- A spare that has passed its test takes the lowest logical number of its die that stands empty (R76, R370). -/
def State.fillEmpty (s : State) (die p : Nat) : State :=
  let q := s.quad die p
  let empty := (List.range 48).find? fun n => !(List.range 50).any fun k => (s.quad die k).logical == some n
  match empty with
  | some n =>
    if q.logical.isNone && q.passed && !q.retired then
      (s.setQuad die p { q with logical := some n }).logPkg kSpare 0 (quadUnit die n) (BitVec.ofNat 64 p)
    else s
  | none => s

/-- TEST_COMPLETE: failing rows are disabled; a core with fewer than 64 enabled rows, or another
failure, retires the quad (R276, R370). -/
def execTestComplete (die quad : Nat) (rows : List (Nat × Nat)) (other : Bool) (s : State) : Out :=
  .next (
    let q := s.quad die quad
    if !q.testing then s
    else
      let off := (q.rowsOff ++ rows.filter fun r => decide (r.1 < 4) && decide (r.2 < 68)).eraseDups
      let few := (List.range 4).any fun k =>
        decide (68 - (off.filter fun r => r.1 == k).length < 64)
      let fail := other || few
      let s := s.setQuad die quad
        { q with testing := false, rowsOff := off, passed := q.passed || !fail }
      let s := if fail then s else s.fillEmpty die quad
      let s := s.logPkg kCorrected 0 (quadUnit die quad) (BitVec.ofNat 64 off.length)
      if fail then s.retireQuad die quad else s)

/- ### Halts (R343) and re-entry (R366) -/

/-- A warp halted: its issuable lanes park with PARK 7 and DEBUG is raised with word 1 = 0; its region is
discarded, but for one that a handler suspends (R343). -/
def Warp.halted (w : Warp) (g : Grid) : Warp :=
  let w := if w.frame.isSome then w else w.discard g.cb
  let w := { w with st := { w.st with halt := true, pdbg := false } }
  let moving := w.frontier.filter fun e => e.park == 0
  let w := moving.foldl (fun (w : Warp) (e : Entry) =>
    { w with frontier := addEntry (dropLanes w.frontier e.mask) ⟨e.pc, e.prio, e.mask, 7⟩ }) w
  match select moving with
  | none => w.note g.cb g.cb (lowestLane (liveLanes w.frontier)) w.rgn.inrgn (Cause.one .debug 0)
  | some e =>
    { w with straps := w.straps ++
      [{ (mkTrap g.cb e.pc e.mask 0 w.rgn.inrgn (Cause.one .debug 0)) with
          lanes := moving.foldl (fun m e => m ||| e.mask) 0 }] }

/-- WARP_HALT: a warp with PDBG that has reached a boundary halts, after a COPYF that is due (R334, R343, R344). -/
def execWarpHalt (b w : Nat) (s : State) : Out :=
  .next (match s.block? b with
  | none => s
  | some bl =>
    match bl.warp? w, s.grid? bl.grid with
    | some wa, some g =>
      if wa.st.pdbg && !wa.hasEnded && wa.atBoundary && bl.res == .resident &&
          bl.xfers.all (fun x => x.req.warp != w || (s.copyfDue b x.id).isNone) then
        s.setBlock (bl.setWarp (wa.halted g))
      else s
    | _, _ => s)

/-- ECC_REENTRY: a warp held after it consumed an error in a region, with no trap for the supervisor
core, re-enters the region (R331, R366). -/
def execEccReentry (b w : Nat) (s : State) : Out :=
  .next (match s.block? b with
  | none => s
  | some bl =>
    match bl.warp? w with
    | some wa =>
      if wa.st.hold && !wa.consumed.isEmpty && wa.straps.isEmpty then
        s.setBlock (bl.setWarp { wa with st := { wa.st with hold := false } })
      else s
    | none => s)

end Sys2Proof.Machine
end

