-- ==== Sys2Proof/Machine/Queues.lean ====
section
/-! DEFINITION. Queues: completion entries (R34), the ends of local grids, stopping (R36), wakes (R31,
R32), and the slot scheduler (R37 to R40, R44). -/

namespace Sys2Proof.Machine

/- ### MSI-X (R34, R379) -/

/-- A word of a function's MSI-X table; vectors are masked until software clears the mask bit, as in
PCIe (log entry 3: DESIGN CHOICE). -/
def Func.msixWord (f : Func) (k : Nat) : DWord :=
  smGet (if k % 2 = 1 then 0x100000000 else 0) f.msixTable k

/-- Vector v of function fn raised to the host, or pending while it is masked. -/
def State.raiseMsix (s : State) (fn v : Nat) : State :=
  match s.func? fn with
  | none => s
  | some f =>
    if (f.msixWord (2 * v + 1)).getLsbD 32 then
      s.setFunc { f with msixPend := if f.msixPend.contains v then f.msixPend else f.msixPend ++ [v] }
    else { s with msix := s.msix ++ [(fn, v)] }

/- ### The hand-over record (R391) -/

/-- Where the record lies: 64-byte aligned in bonded DRAM (log entry 6: DESIGN CHOICE). -/
def recordAddr : Nat := Config.handOver % 2 ^ 30 * 64

/-- The position of a queue in the queue table. -/
def State.tableIndex (s : State) (q : Queue) : Nat := s.queues.findIdx fun p => p.key == q.key

/-- The queue table's entry of a queue (R391). -/
def State.tableEntry (s : State) (q : Queue) : List Byte :=
  leBytes 8 q.header.toNat ++
    leBytes 8 (q.fn % 128 + ((s.ctx? q.ctx).map (·.c)).getD 0 * 2 ^ 8 + q.home * 2 ^ 24 + q.index * 2 ^ 32)

/-- The queues with a kept wake or a kept interrupt send. -/
def State.keptWakes (s : State) : List Queue := s.queues.filter fun q => q.wakelatch != 0 || q.uilatch

/-- Entry i of the slot map of a die (R391; log entry 22: DESIGN CHOICE). -/
def State.slotEntry (s : State) (die i : Nat) : List Byte :=
  match s.queues.find? fun q => q.home == die && q.slot == some i with
  | some q => leBytes 4 (2 ^ 31 + s.tableIndex q % 2 ^ 16)
  | none => zeros 4

/-- The record with its tables written (R391): the new image is the staged one. NLAYOUT's 4 bits hold 0 for 16 layouts
(log entry 22: DESIGN CHOICE). -/
def State.writeHandOver (s : State) : State :=
  let a := recordAddr
  let table := (s.queues.map s.tableEntry).flatten
  let wakes := (s.keptWakes.map fun q =>
    leBytes 8 (s.tableIndex q % 2 ^ 16 + if q.uilatch then 2 ^ 16 else 0) ++
      leBytes 8 q.wakelatch.toNat).flatten
  let lay := s.fw.staged.accepts.take 16
  let slots := ((List.range 4).map fun d => ((List.range 64).map fun i => s.slotEntry d i).flatten).flatten
  let rec_ := leBytes 8 (1 + lay.length % 16 * 2 ^ 16) ++ leBytes 8 s.fw.staged.id.toNat ++
    leBytes 8 s.fw.prior.toNat ++ leBytes 8 s.fw.station.toNat ++ leBytes 8 (a + 1280) ++
    leBytes 8 s.queues.length ++ leBytes 8 (a + 1280 + table.length) ++ leBytes 8 s.keptWakes.length ++
    (lay.map (leBytes 2)).flatten ++ zeros (32 - 2 * lay.length) ++ zeros 32 ++ slots ++ zeros 128
  { s.putDram a (rec_ ++ table ++ wakes) with fw := { s.fw with record := some a } }

/-- The switch begins (R390): the active image stops, the new one starts and writes the hand-over record. -/
def State.beginSwitch (s : State) (station : DWord) : State :=
  { s with fw := { s.fw with state := .switching, prior := s.fw.active.id, station := station } }.writeHandOver

/- ### Saved layouts and the update (R389) -/

/-- Whether every saved queue's layouts are in an image's list (R389). -/
def State.layoutsOk (s : State) (accepts : List Nat) : Bool :=
  s.queues.all fun q => q.saveptr == 0 ||
    accepts.contains ((s.dram.word64 q.saveptr.toNat).toNat % 2 ^ 16)

/-- An event record that this package raises at the next station (R47, R50). -/
def State.raiseEvent (s : State) (type : BitVec 8) (flags : BitVec 16) (grid : BitVec 32)
    (a b : DWord) : State :=
  { s with trav := { s.trav with pend := s.trav.pend ++ [⟨type, BitVec.ofNat 8 s.pkg, flags, grid, a, b, 0⟩] } }

/-- Whether the package is a member of a pod (R46). -/
def State.inPod (s : State) : Bool := s.trav.role != .none

/-- RULEW's RSID plus 1 (R383). -/
def State.nextRsid (s : State) : BitVec 16 := (platGet s.plat 2).extractLsb' 0 16 + 1

/-- The update goes on once no saved layout stands in its way: a RULESET in a pod, else the switch
(R389, R390). -/
def State.activate (s : State) : State :=
  if !s.layoutsOk s.fw.staged.accepts then { s with fw := { s.fw with state := .deferred } }
  else if s.inPod then
    let s := { s with fw := { s.fw with state := .verified } }
    s.raiseEvent 8 0 0 (0#32 ++ BitVec.ofNat 8 s.pkg ++ 0x41#8 ++ s.nextRsid) s.fw.staged.id
  else s.beginSwitch s.fw.station

/-- A deferred update examined again when a saved queue changes (R389). -/
def State.fwRecheck (s : State) : State := if s.fw.state = .deferred then s.activate else s

/- ### Completion entries (R34) -/

/-- What a completion entry says, but for PHASE. -/
structure Cqe where
  idx : DWord
  seq : Word
  irq : Bool
  ending : Ending
  grid : Word
  station : DWord
deriving DecidableEq, Repr

/-- The 32 bytes of an entry of queue q (R34). -/
def Cqe.bytes (q : Queue) (k : Cqe) : List Byte :=
  leBytes 32 (k.station ++ k.grid ++ k.ending.addr ++ k.ending.unit ++ k.ending.cls ++ 0#7 ++
    bit (k.idx.toNat / 2 ^ q.cqLog2 % 2 == 0) ++ 0#24 ++ k.ending.status ++ k.seq : BitVec 256).toNat

/-- Where entry idx of a queue lies (R34). -/
def Queue.cqAddr (q : Queue) (idx : DWord) : Nat := q.cqBase.toNat + 32 * (idx.toNat % 2 ^ q.cqLog2)

/-- The local grids of a queue that have not completed. -/
def State.localGrids (s : State) (q : Nat) : List Grid :=
  s.grids.filter fun g => g.queue == some q && !g.pod && !g.complete

/-- The local blocks of a queue on cores. -/
def State.localBlocks (s : State) (q : Nat) : List Block :=
  s.blocks.filter fun b => b.res == .resident && !b.ended &&
    (match s.grid? b.grid with
    | some g => g.queue == some q && !g.pod
    | none => false)

/-- Whether a local grid of a queue has a block that has not ended (R39): on a core, swapped out, or not yet
placed. -/
def State.localLive (s : State) (q : Nat) : Bool :=
  (s.localGrids q).any fun g => (g.ending.isNone && !g.allPlaced) ||
    s.blocks.any fun b => b.grid == g.id && !b.ended

/-- Whether a packet core of queue q still waits for a word of another package or for a host page of an entry
(R40 step 2). -/
def State.queueBusy (s : State) (q : Queue) : Bool :=
  !q.cqPend.isEmpty || s.fabricOut.any fun (r : ROut) =>
    match r.owner with
    | .packet k _ => k == q.key
    | _ => false

/-- Whether a queue is ready (R38). -/
def Queue.isReady (q : Queue) : Bool :=
  decide (q.head.toNat < Nat.max q.tail.toNat q.wakelatch.toNat) || q.uilatch || !q.swapped.isEmpty

/-- A queue last in the ready order of its die (R38). -/
def State.joinReady (s : State) (q : Queue) : State :=
  let d := s.die q.home
  s.setDie q.home { d with
    ready := (d.ready.filter fun k => k != q.key) ++ [q.key]
    seeks := d.seeks.filter fun e => e.queue != q.key }

/-- A queue enters the ready order of its die (R38, R39). -/
def State.enterReady (s : State) (q : Queue) : State := (s.joinReady q).putQueue { q with state := 1 }

/-- An idle queue that has become ready enters READY (R39). -/
def State.examineQueue (s : State) (k : Nat) : State :=
  match s.queue? k with
  | none => s
  | some q => if q.state = 0 ∧ q.isReady then s.enterReady q else s

/-- The state with HEAD, CMDIDX, CQDONE, TAIL and SAVEPTR in a queue's header, or the address that failed
(R29, R40). -/
def State.saveHeader (s : State) (q : Queue) : Except Bad State :=
  match s.ctx? q.ctx with
  | none => .ok s
  | some c =>
    match s.writeVa c (q.header.toNat + 48)
        (leBytes 8 q.head.toNat ++ leBytes 8 q.cmdidx.toNat ++ leBytes 8 q.cqdone.toNat ++
          leBytes 8 q.tail.toNat) with
    | .error b => .error b
    | .ok s => s.writeVa c (q.header.toNat + 88) (leBytes 8 q.saveptr.toNat)

/-- The queue save area of a queue with swapped-out blocks (R40): none where the pool has no room. -/
def State.saveArea (s : State) (q : Queue) : Option (State × Queue) :=
  if q.swapped.isEmpty then some (s, { q with saveptr := 0 })
  else
    match (s.ctx? q.ctx).bind fun c => c.alloc (8 * (1 + q.swapped.length)) 8 with
    | none => none
    | some (a, c) =>
      let words := (s.saveLayout + q.swapped.length * 2 ^ 32) :: q.swapped
      some ((s.setCtx c).putDram a ((words.map (leBytes 8)).flatten),
        { q with saveptr := BitVec.ofNat 64 a })

/-- The slot is released and R38 examined (R39, R40 step 4): a stopped queue with swapped-out blocks
competes from now on. -/
def State.releaseSlotOf (s : State) (q : Queue) : State :=
  let q := { q with slot := none, unmapStep := 0, toStopped := false }
  if q.state = 5 then (if q.swapped.isEmpty then s else s.joinReady q).putQueue q
  else if q.isReady then s.enterReady q
  else s.putQueue { q with state := 0 }

/-- The address of a failure. -/
def Bad.addr : Bad → DWord
  | .cause _ a => BitVec.ofNat 64 a
  | .pri _ a => BitVec.ofNat 64 a

/-- A save that fails (R39): the queue stops with SAVE_FAULT, its state kept, and its local grids end with
it. -/
def State.saveFault (s : State) (q : Queue) (addr : DWord) : State :=
  let s := (s.localGrids q.key).foldl
    (fun s g => (s.endGrid g.id ⟨stFailed, 0x33, 0, addr⟩).resetGrid g.id) s
  s.putQueue { q with
    state := 5, stopclass := 0x33, slot := none, unmapStep := 0, toStopped := false, saveKept := true
    swapped := [] }

/-- Unmap steps 3 and 4 (R40): the save area and the header written, the slot released; to STOPPED where
the queue stops. -/
def State.unmapFinish (s : State) (q : Queue) (stop : Bool) : State :=
  match s.saveArea q with
  | none => s.saveFault q 0
  | some (t, q') =>
    match t.saveHeader q' with
    | .error b => (s.priTold q.ctx b.addr).saveFault q b.addr
    | .ok t =>
      (t.releaseSlotOf { q' with state := if stop then 5 else q'.state }).fwRecheck

/-- A stopped queue leaves its slot by unmap steps 2 to 4 (R39, R40): at once where nothing is in flight and no firmware
switch holds the slot scheduler (R390). -/
def State.leaveSlot (s : State) (q : Queue) : State :=
  if s.queueBusy q || s.fwHeld then s.putQueue { q with state := 4, unmapStep := 2, toStopped := true }
  else s.unmapFinish q true

/-- A queue stops with a class (R36, R39): with a block of a local grid left it keeps its slot, else it leaves
it. An unmapping goes on and ends in STOPPED, and a mapping goes on and stops then. A queue that has stopped
before takes the new class (log entry 60: DESIGN CHOICE). -/
def State.stopQueue (s : State) (k : Nat) (cls : BitVec 8) : State :=
  match s.queue? k with
  | none => s
  | some q =>
    let q := { q with stopclass := cls }
    if q.state = 3 then
      (if s.localLive k then s.putQueue { q with state := 6 } else s.leaveSlot q)
    else if q.state = 4 then s.putQueue { q with toStopped := true }
    else if q.state = 0 ∨ q.state = 1 then s.putQueue { q with state := 5 }
    else s.putQueue q

/-- An entry's bytes written, or kept for a host page or for RESTART after CQ_FAULT; its vector raised
(R34 to R36, R218). -/
def State.writeCqe (s : State) (k : Nat) (e : KeptCqe) : State :=
  match s.queue? k with
  | none => s
  | some q =>
    match s.ctx? q.ctx with
    | none => s
    | some c =>
      match s.writeVa c (q.cqAddr e.idx) e.bytes with
      | .ok s => if e.irq then s.raiseMsix q.fn q.msixv else s
      | .error (.pri p a) =>
        (s.request c.num true (.pri p a)).setQueue { q with cqPend := q.cqPend ++ [e] }
      | .error (.cause cse a) =>
        let s := s.blame c.num q.index cse (BitVec.ofNat 64 a)
        ((s.setQueue { q with kept := q.kept ++ [e] }).logCtx c.num kDenied 0x32 q.index
          (BitVec.ofNat 64 a)).stopQueue k 0x32

/-- A completion entry of queue k (R34); entries that await a host page, or the end of a firmware switch, keep their
order (R390). -/
def State.putCqe (s : State) (k : Nat) (e : Cqe) : State :=
  match s.queue? k with
  | none => s
  | some q =>
    let x : KeptCqe := ⟨e.idx, e.bytes q, e.irq⟩
    if q.cqPend.isEmpty && !s.fwHeld then s.writeCqe k x else s.setQueue { q with cqPend := q.cqPend ++ [x] }

/-- The entries that awaited a host page written in order. -/
def State.flushCqes (s : State) (k : Nat) : State :=
  match s.queue? k with
  | none => s
  | some q => q.cqPend.foldl (fun s e =>
      match s.queue? k with
      | some q => if q.cqPend.isEmpty then s.writeCqe k e else s.setQueue { q with cqPend := q.cqPend ++ [e] }
      | none => s) (s.setQueue { q with cqPend := [] })

/-- STATION and GRID of commands that no grid stands behind (R34). -/
def noStation : DWord := 0xffffffffffffffff
/-- GRID of commands without a grid. -/
def noGrid : Word := 0xffffffff
/-- The end of a command that did what it should. -/
def doneEnding : Ending := ⟨stDone, 0, 0, 0⟩

/-- A consumed command of queue k completes (R25, R34). -/
def State.completeCmd (s : State) (k : Nat) (f : Flight) (e : Ending) (grid : Word)
    (station : DWord) : State :=
  match s.queue? k with
  | none => s
  | some q =>
    (s.setQueue { q with flights := q.flights.filter fun x => x.idx != f.idx }).putCqe k
      ⟨f.idx, f.seq, f.irq, e, grid, station⟩

/-- The id of a local grid in a completion entry: bit 31 set (R34). -/
def localId (g : Nat) : Word := BitVec.ofNat 32 (2 ^ 31 + g % 2 ^ 31)

/-- A grid leaves the machine with its argument copy and its park list (R19, R65, R89). -/
def State.dropGrid (s : State) (gid : Nat) : State :=
  match s.grid? gid with
  | none => s
  | some g =>
    let s := s.resetGrid gid
    let s := if g.argLen = 0 then s else s.poolFree g.ctx g.argPhys
    let s := if g.park = 0 then s else s.poolFree g.ctx g.park
    { s with
      grids := s.grids.filter fun x => x.id != gid
      parked := s.parked.filter fun p => p.grid != gid }

/-- The records of a pod grid on this package go, those of other ranks and parked ones too where `which` takes them
(R64, R65). -/
def State.dropPod (s : State) (gid : Nat) (which : Grid → Bool) : State :=
  (s.grids.filter fun g => g.pod && g.pid == gid && which g).foldl (fun s g => s.dropGrid g.id) s

/-- A queue in STOPRUN leaves its slot once the last block of its local grids has ended (R39). -/
def State.leaveStopRun (s : State) (k : Nat) : State :=
  match s.queue? k with
  | some q => if q.state = 6 ∧ s.localLive k = false then s.leaveSlot q else s
  | none => s

/-- Whether a pod-window write of a grid is still to be acknowledged (R34, R236). -/
def State.writesOut (s : State) (gid : Nat) : Bool :=
  s.fabricOut.any fun (r : ROut) => r.grid == some gid

/-- A local grid completes with an ending: its entry is written and the grid goes (R34). -/
def State.endLocal (s : State) (g : Grid) (e : Ending) : State :=
  let s := s.dropGrid g.id
  match g.owner with
  | .cmd k idx seq irq =>
    (s.completeCmd k ⟨idx, seq, irq, some g.id⟩ e (localId g.id) noStation).leaveStopRun k
  | _ => s

/- ### ABORT, RESTART and removal (R36) -/

/-- QUEUE_ABORT (R35). -/
def abortEnding : Ending := ⟨stAborted, 0x31, 0, 0⟩

/-- A local grid ended by ABORT: reset at once, and completed once its pod-window writes are acknowledged (R34,
R36). -/
def State.abortGrid (s : State) (g : Grid) : State :=
  if s.writesOut g.id then (s.endGrid g.id abortEnding).resetGrid g.id
  else s.endLocal { g with ending := some abortEnding } abortEnding

/-- ABORT of a queue (R36): its local grids are reset and completed, and so is every other consumed
command; the queue leaves its slot and stops. What a BRANCH had still to skip is dropped, and entries that
faulted stay kept (log entry 60: DESIGN CHOICE). -/
def State.abortQueue (s : State) (k : Nat) : State :=
  match s.queue? k with
  | none => s
  | some q =>
    if q.unmapStep ≠ 0 then s.setQueue { q with abortDue := true }
    else
      let s := (s.localGrids k).foldl (fun s g => s.abortGrid g) s
      let left := s.localGrids k
      let fl := (((s.queue? k).map (·.flights)).getD []).filter fun f => !left.any fun g => f.grid == some g.id
      let s := fl.foldl (fun s f => s.completeCmd k f abortEnding noGrid noStation) s
      let s := { s with
        podCmds := s.podCmds.map fun (p : PodCmd) =>
          match p.owner with
          | .cmd k' _ _ _ => if k' = k then { p with owner := .nobody } else p
          | _ => p
        fabricOut := s.fabricOut.filter fun (r : ROut) =>
          match r.owner with
          | .packet j _ => j != k
          | _ => true }
      match s.queue? k with
      | none => s
      | some q =>
        let q := { q with
          holding := none, copies := [], skipTo := none, stopclass := 0x31, abortDue := false
          swapped := [] }
        if q.slot.isSome then s.unmapFinish q true else s.putQueue { q with state := 5 }

/-- A queue removed by the policy core: ABORT, then deletion (R39). -/
def State.removeQueue (s : State) (k : Nat) : State :=
  match s.queue? k with
  | none => s
  | some q =>
    let s := s.setQueue { q with unmapStep := 0 }
    let s := s.abortQueue k
    let d := s.die q.home
    let s := s.setDie q.home { d with
      ready := d.ready.filter fun j => j != k
      seeks := d.seeks.filter fun e => e.queue != k }
    let s := if q.saveptr = 0 then s else s.poolFree q.ctx q.saveptr.toNat
    ({ s with queues := s.queues.filter fun x => x.key != k }).fwRecheck

/-- The classes that reject a packet, so that RESTART reads or passes over the packet at HEAD (R36). -/
def rejects (c : BitVec 8) : Bool :=
  !(c == 0 || c == 0x2a || c == 0x30 || c == 0x31 || c == 0x32 || c == 0x33 || c == 0x35)

/-- The slots that SKIP passes over: the packet's where they can be read and are legal, else 1 (R36). -/
def State.skipSlots (s : State) (q : Queue) : Nat :=
  match s.ctx? q.ctx with
  | none => 1
  | some c =>
    match s.readVa c (q.ringBase.toNat + 256 * (q.head.toNat % 2 ^ q.ringLog2)) 16 with
    | .error _ => 1
    | .ok bs =>
      let n := leNat ((bs.drop 5).take 1)
      if 1 ≤ n ∧ n ≤ 2 ^ q.ringLog2 then n else 1

/-- What a RESTART leaves in every case (R29, R36). -/
def State.restarted (s : State) (q : Queue) : State :=
  let q := { q with
    stopclass := 0, wakelatch := 0, uilatch := false, tail := q.head, rangeLatched := none }
  if q.state = 6 then s.putQueue { q with state := 3 }
  else (s.putQueue { q with state := 0 }).examineQueue q.key

/-- RESTART (R36). SKIP over the target of a BRANCH leaves nothing more to skip (R26). -/
def State.restart (s : State) (k : Nat) (skip : Bool) : State :=
  match s.queue? k with
  | none => s
  | some q =>
    if !(q.state == 5 || q.state == 6) || q.unmapStep != 0 then s
    else if q.stopclass = 0x32 then
      let s := s.setQueue { q with kept := [] }
      if skip then s.restarted { q with kept := [] }
      else
        let t := q.kept.foldl (fun s e => s.writeCqe k e) s
        (match t.queue? k with
        | some q' => if q'.kept.isEmpty then t.restarted q' else t
        | none => t)
    else if q.stopclass = 0x33 then
      match s.saveHeader q with
      | .error _ => s
      | .ok s => s.restarted { q with saveKept := false }
    else if rejects q.stopclass && skip then
      s.restarted { q with
        head := q.head + BitVec.ofNat 64 (s.skipSlots q), cmdidx := q.cmdidx + 1
        skipTo := q.skipTo.filter fun t => t != q.cmdidx.extractLsb' 0 32 }
    else s.restarted q

/- ### Events -/

/-- Whether wakes go to packet core 4: no live slot, or the wake port redirected (R40). -/
def Queue.redirected (q : Queue) : Bool := q.slot.isNone || decide (2 < q.unmapStep)

/-- The TAIL_RANGE entry of a refused tail (R35). -/
def State.rangeEntry (s : State) (q : Queue) (v : DWord) : State :=
  s.putCqe q.key ⟨q.cmdidx, q.cmdidx.extractLsb' 0 32, false, ⟨stRejected, 0x30, 0, v⟩, noGrid, noStation⟩

/-- WTAIL (R32, R40, R44). A value that is not above TAIL has no effect on WAKELATCH either (log entry 60: DESIGN
CHOICE). -/
def execWtail (q : Nat) (v : BitVec 64) (s : State) : Out :=
  .next (match s.queue? q with
  | none => s
  | some u =>
    if s.fwHeld then s.holdAtPort (.wtail q v)
    else
    let beyond := decide (u.head.toNat + 2 ^ u.ringLog2 < v.toNat)
    if beyond then
      (if u.state = 5 ∨ u.state = 6 ∨ u.toStopped then s.logCtx u.ctx kDenied 0x30 u.index v
      else if u.state = 3 then (s.rangeEntry u v).stopQueue q 0x30
      else if u.state = 2 then s.setQueue { u with rangeLatched := some v }
      else (s.setQueue { u with rangeLatched := some v }).stopQueue q 0x30)
    else if u.redirected then
      (if v.toNat ≤ Nat.max u.tail.toNat u.wakelatch.toNat then s
      else (s.putQueue { u with wakelatch := v }).examineQueue q)
    else if v.toNat ≤ u.tail.toNat then s
    else s.setQueue { u with tail := v })

/-- WCQDONE (R32). -/
def execWcqdone (q : Nat) (v : BitVec 64) (s : State) : Out :=
  .next (match s.queue? q with
  | none => s
  | some u =>
    if s.fwHeld then s.holdAtPort (.wcqdone q v)
    else if v.toNat ≤ u.cqdone.toNat then s else s.setQueue { u with cqdone := v })

/-- WCTL with RESTART (R36). -/
def execWctlRestart (q : Nat) (s : State) : Out :=
  .next (if s.fwHeld then s.holdAtPort (.wctlRestart q) else s.restart q false)
/-- WCTL with RESTART and SKIP (R36). -/
def execWctlRestartSkip (q : Nat) (s : State) : Out :=
  .next (if s.fwHeld then s.holdAtPort (.wctlRestartSkip q) else s.restart q true)
/-- WCTL with ABORT (R36). -/
def execWctlAbort (q : Nat) (s : State) : Out :=
  .next (if s.fwHeld then s.holdAtPort (.wctlAbort q) else s.abortQueue q)

/-- LATCHED_TAIL_RANGE_ENTRY: packet core 4 writes the entry of a queue stopped without a slot (R44). -/
def execLatchedTailRangeEntry (q : Nat) (s : State) : Out :=
  .next (match s.queue? q with
  | none => s
  | some u =>
    match u.rangeLatched with
    | some v => if u.state = 2 then s
        else (s.setQueue { u with rangeLatched := none }).rangeEntry { u with rangeLatched := none } v
    | none => s)

/-- Whether a context has an interrupt pending that a bound handler would take (R38, R314). -/
def State.ctxPending (s : State) (c : Ctx) : Bool :=
  c.iblk.isSome && (s.ibPend c &&& ~~~(s.ibMask c) &&& s.ibBound c) != 0

/-- A queue's priority in the ready order (R38, R386). -/
def State.queuePrio (s : State) (q : Queue) : Nat :=
  match s.ctx? q.ctx with
  | some c =>
    if s.ctxPending c && q.slot.isNone && ((s.ibGet c 50 2).getD 0xffff) == q.qnum then 8
    else s.ownPrio q
  | none => s.ownPrio q

/-- Whether a queue competes for a slot: READY, or STOPPED with swapped-out blocks of grids that go on
(R38). -/
def State.competes (s : State) (q : Queue) : Bool :=
  q.slot.isNone && (q.state == 1 || (q.state == 5 && q.swapped.any fun k =>
    match (s.block? k).bind fun b => s.grid? b.grid with
    | some g => g.ending.isNone
    | none => false))

/-- The queues of a die that compete, first-come, the stopped ones after those in the ready order. -/
def State.candidates (s : State) (die : Nat) : List Queue :=
  let order := (s.die die).ready.filterMap s.queue?
  let rest := s.queues.filter fun q => q.home == die && !order.any fun p => p.key == q.key
  (order ++ rest).filter s.competes

/-- The queue of highest priority, the first of equals (R38). -/
def State.foremost (s : State) (l : List Queue) : Option Queue :=
  l.foldl (fun m q =>
    match m with
    | some p => if s.queuePrio p < s.queuePrio q then some q else m
    | none => some q) none

/-- The queue granted next: the highest priority, first-come (R38). -/
def State.nextReady (s : State) (die : Nat) : Option Queue := s.foremost (s.candidates die)

/-- Whether a queue that found no free slot waits on: its victim is leaving, or no rule yielded one and its
priority has not risen (R38; log entry 57: DEDUCED). -/
def State.seekWaits (s : State) (die : Nat) (q : Queue) : Bool :=
  (s.die die).seeks.any fun e => e.queue == q.key &&
    match e.victim with
    | some v => (s.queue? v).any fun u => u.state == 4 && u.slot.isSome
    | none => decide (s.queuePrio q ≤ e.prio)

/-- The next ready queue that looks for a victim (R38). -/
def State.nextSeeker (s : State) (die : Nat) : Option Queue :=
  s.foremost ((s.candidates die).filter fun q => !s.seekWaits die q)

/-- The lowest free slot of a die (R38, R39). -/
def State.freeSlot (s : State) (die : Nat) : Option Nat :=
  (List.range Config.slotsPerDie).find? fun k =>
    !s.queues.any fun q => q.home == die && q.slot == some k

/-- The victim for a ready queue of priority p (R38). -/
def State.victim (s : State) (die p : Nat) : Option Queue :=
  let ms := s.queues.filter fun q => q.home == die && q.slot.isSome && (q.state == 3 || q.state == 6)
  let lowSlot (l : List Queue) : Option Queue := l.foldl (fun m q =>
    match m with
    | some r => if q.slot.getD 0 < r.slot.getD 0 then some q else m
    | none => some q) none
  let idle := ms.filter fun q => decide (q.tail.toNat ≤ q.head.toNat) && (s.localBlocks q.key).isEmpty
  let below := ms.filter fun q => decide (s.queuePrio q < p)
  let least := below.foldl (fun m q => Nat.min m (s.queuePrio q)) 9
  let same := ms.filter fun q => s.queuePrio q == p && q.sliceExpired
  let last := (s.die die).lastVictim
  (lowSlot idle).orElse fun _ =>
    (lowSlot (below.filter fun q => s.queuePrio q == least)).orElse fun _ =>
      (lowSlot (same.filter fun q => decide (last < q.slot.getD 0))).orElse fun _ => lowSlot same

/-- A victim begins to unmap: its resident local blocks are pre-empted with code 1 (R38, R40, R346). -/
def State.unmapStart (s : State) (q : Queue) : State :=
  let d := s.die q.home
  let s := s.setDie q.home { d with lastVictim := q.slot.getD 0 }
  let s := s.putQueue { q with state := 4, unmapStep := 2, toStopped := q.state == 6 }
  (s.localBlocks q.key).foldl (fun s b => s.preempt [b.key] 1 (s.drainStep b.die)) s

/-- A ready queue looks for a slot where none is free: it chooses a victim, or waits (R38). -/
def State.seekSlot (s : State) (die : Nat) (q : Queue) : State :=
  let v := s.victim die (s.queuePrio q)
  let d := s.die die
  let s := s.setDie die { d with
    seeks := (d.seeks.filter fun e => e.queue != q.key) ++ [⟨q.key, s.queuePrio q, v.map (·.key)⟩] }
  match v with
  | some v => s.unmapStart v
  | none => s

/-- A free slot granted (R38, R39). What other queues found before counts no longer. -/
def State.grantSlot (s : State) (die k : Nat) (q : Queue) : State :=
  let d := s.die die
  let s := s.setDie die { d with
    ready := d.ready.filter fun j => j != q.key
    seeks := d.seeks.filter fun e => e.queue != q.key && e.victim.isSome }
  let s := if q.saveptr = 0 then s else s.poolFree q.ctx q.saveptr.toNat
  let q' := { q with
    slot := some k, saveptr := 0, sliceExpired := false
    tail := if q.tail.toNat < q.wakelatch.toNat then q.wakelatch else q.tail
    wakelatch := 0, uilatch := false, state := if q.state = 5 then 6 else 2 }
  let s := if q.saveptr = 0 then s else s.hdrPut q' 88 8 0
  (s.putQueue q').fwRecheck

/-- SLOT_GRANT: the next ready queue of a die is given a free slot, or a victim begins to leave its own
(R38, R39). -/
def execSlotGrant (die : Nat) (s : State) : Out :=
  .next (
    if s.fwHeld then s
    else
      match s.freeSlot die with
      | none =>
        (match s.nextSeeker die with
        | none => s
        | some q => s.seekSlot die q)
      | some k =>
        match s.nextReady die with
        | none => s
        | some q => s.grantSlot die k q)

/-- SLOT_LOADED: a queue whose slot is loaded begins to consume (R39); a header that cannot be read stops
it with MEM_UNCORR (R366). -/
def execSlotLoaded (q : Nat) (s : State) : Out :=
  .next (match s.queue? q with
  | none => s
  | some u =>
    if u.state ≠ 2 ∨ s.fwHeld then s
    else
      let s := s.putQueue { u with state := 3 }
      if u.stopclass ≠ 0 then s.stopQueue q u.stopclass
      else match u.rangeLatched with
      | some v => ((s.setQueue { u with state := 3, rangeLatched := none }).rangeEntry u v).stopQueue q 0x30
      | none =>
        match (s.ctx? u.ctx).map fun c => s.readVa c u.header.toNat 128 with
        | some (.error (.cause k a)) =>
          if k = cMEMERR then
            ((s.logUse u.ctx u.index a).putCqe q ⟨u.cmdidx, u.cmdidx.extractLsb' 0 32, false,
              ⟨stRejected, 0x90, 0, BitVec.ofNat 64 (a / 8 * 8)⟩, noGrid, noStation⟩).stopQueue q 0x90
          else s
        | _ => s)

/-- UNMAP_SAVE: once a queue's local blocks are swapped out, its reads answered and its entries written, its state is saved
and its slot released; a vector that waits for its blocks sets UILATCH (R314), and an ABORT that waited then
acts (R39, R40, R44). -/
def execUnmapSave (q : Nat) (s : State) : Out :=
  .next (match s.queue? q with
  | none => s
  | some u =>
    if u.unmapStep = 0 ∨ s.fwHeld ∨ !(s.localBlocks q).isEmpty ∨ s.queueBusy u then s
    else
      let s := s.unmapFinish { u with unmapStep := 0, abortDue := false } (u.toStopped || u.state == 5)
      let s := if u.swapped.isEmpty then s else s.uiExamine u.ctx
      if u.abortDue then s.abortQueue q else s)

end Sys2Proof.Machine
end

