-- ==== Sys2Proof/Machine/Launch.lean ====
section
/-! DEFINITION. Describing work (R8 to R24): packets and their checks, kernel images and their
acceptance, argument copies, and the start of a grid or the submission of a pod grid (R17, R19, R65). -/

namespace Sys2Proof.Machine

/- ### Bits of byte strings -/

/-- A byte string as a number; its bits are those of the tables of this manual. -/
def bitsOf (bs : List Byte) (lo n : Nat) : Nat := leNat bs / 2 ^ lo % 2 ^ n

/-- A refusal: REJECTED with class, unit and address (R27). Of a unit above 16 bits, as an ENTRY index can be, the
low 16 stand in the field (log entry 60: DESIGN CHOICE). -/
def rejected (cls : BitVec 8) (unit : Nat) (addr : Nat) : Ending :=
  ⟨stRejected, cls, BitVec.ofNat 16 unit, BitVec.ofNat 64 addr⟩

/- ### Kernel images (R8 to R15) -/

/-- Whether a header keeps the rules of R8. -/
def imageHeaderLegal (h : List Byte) : Bool :=
  let f := bitsOf h
  f 0 32 == 0x59514b39 && f 32 16 == 1 && f 48 16 == 0 && f 64 32 % 256 == 0 && f 96 32 % 4 == 0 &&
    f 128 32 % 16 == 0 && decide (1 ≤ f 160 16) && decide (f 160 16 ≤ 256) && f 176 16 == 0 &&
    f 192 32 % 64 == 0 && f 224 32 == 0 && f 256 32 % 64 == 0 && f 384 128 == 0

/-- An entry-table record (R9). -/
def entryOf (e : List Byte) : KEntry :=
  { code := BitVec.ofNat 32 (bitsOf e 0 32), prio := BitVec.ofNat 8 (bitsOf e 64 8)
    launchable := bitsOf e 72 1 == 1, spawnable := bitsOf e 73 1 == 1, rsv := bitsOf e 74 54 != 0 }

/-- The lowest set bit of a field at `lo` of n bits, where one is set. -/
def lowBit (d : List Byte) (lo n : Nat) : Option Nat :=
  ((List.range n).find? fun k => bitsOf d (lo + k) 1 == 1).map fun k => lo + k

/-- The bit numbers of the descriptor's failing fields and reserved bits (R10). -/
def descFaults (d : List Byte) : List Nat :=
  let f := bitsOf d
  let field (lo : Nat) (ok : Bool) : Option Nat := if ok then none else some lo
  [field 0 (f 0 16 % 8 == 0 && decide (8 ≤ f 0 16) && decide (f 0 16 ≤ 256)),
   field 16 (decide (1 ≤ f 16 8) && decide (f 16 8 ≤ 24)), field 24 (decide (f 24 8 ≤ 64)),
   field 32 (decide (1 ≤ f 32 16) && decide (f 32 16 ≤ 32)), field 48 (decide (f 48 16 ≤ 16)),
   field 64 (f 64 32 % 256 == 0 && decide (f 64 32 ≤ 458752)),
   field 96 (f 96 32 % 256 == 0 && decide (f 96 32 ≤ 2 ^ 20)),
   field 128 (f 128 32 % 4 == 0 || f 128 32 == 0xffffffff), lowBit d 169 23,
   field 224 (decide (f 224 16 ≤ 256)), lowBit d 240 16, field 256 (f 256 64 % 64 == 0),
   lowBit d 320 192].filterMap id

/-- A kernel descriptor (R10). -/
def descRead (d : List Byte) : Desc :=
  let f := bitsOf d
  { vregs := f 0 16, sregs := f 16 8, pregs := f 24 8, warps := f 32 16, bars := f 48 16, spad := f 64 32
    cstack := f 96 32, trapent := BitVec.ofNat 32 (f 128 32), rlimit := f 160 8, det := f 168 1 == 1
    quota := f 192 32, tlrcnt := f 224 16, tlroff := f 256 64 }

/-- A tensor layout record (R13). -/
def tlrOf (t : List Byte) : Tlr :=
  let f := bitsOf t
  { base := f 0 57, dims := (List.range 5).map fun k => f (64 + 32 * k) 32
    strides := (List.range 4).map fun k => f (224 + 40 * k) 40
    fmt := f 384 8, ndim := f 392 3, trows := f 400 16, tcols := f 416 16, clamp := f 432 16
    scale := f 448 57, scl := f 505 3, xs := f 508 2 }

/-- The largest clamp code of a format; none for an unlisted code (R14). -/
def clampMax (fmt : Nat) : Option Nat :=
  match fmt with
  | 0x01 => some 3
  | 0x02 => some 63
  | 0x03 => some 16383
  | _ => if (0x10 ≤ fmt ∧ fmt ≤ 0x13) ∨ (0x20 ≤ fmt ∧ fmt ≤ 0x29) then some 0 else none

/-- Whether a tensor layout record passes the checks of R15. -/
def tlrLegal (raw : List Byte) (t : Tlr) : Bool :=
  match clampMax t.fmt with
  | none => false
  | some top =>
    let sb := decide (t.fmt ≤ 3)
    let size := Nat.max 1 (fmtHalfBytes t.fmt / 2)
    decide (1 ≤ t.ndim) && decide (t.ndim ≤ 5) &&
      ((List.range 5).all fun k => if k < t.ndim then decide (1 ≤ t.dims.getD k 0)
        else t.dims.getD k 0 == 0 && (k == 0 || t.strides.getD (k - 1) 0 == 0)) &&
      t.base % size == 0 && decide (t.clamp ≤ top) &&
      (if sb then (t.scl == 1 || t.scl == 2) && t.dims.getD 0 0 % 32 == 0 && t.tcols % 32 == 0 &&
          t.scale % 2 == 0
        else t.scl == 0 && t.xs == 0 && t.scale == 0 && t.clamp == 0) &&
      decide (1 ≤ t.trows) && decide (t.trows ≤ 1024) && decide (1 ≤ t.tcols) &&
      bitsOf raw 57 7 == 0 && bitsOf raw 395 5 == 0 && bitsOf raw 510 2 == 0

/-- What reading and checking an image comes to. -/
inductive Accepted where
  | ok (s : State) (img : Image)
  | reject (e : Ending)
  | waits (s : State)

/-- The cached image of a context at an address (R42). -/
def State.cached (s : State) (die ctx : Nat) (a : DWord) : Option Image :=
  ((smGet [] s.acache die).find? fun (e : Cached) => e.ctx == ctx && e.img.addr == a).map (·.img)

/-- The acceptance cache with an image most recent; 16 images at most (R42). -/
def State.cacheImage (s : State) (die ctx : Nat) (img : Image) : State :=
  let l := (smGet [] s.acache die).filter fun (e : Cached) => !(e.ctx == ctx && e.img.addr == img.addr)
  { s with acache := smSet [] s.acache die ((⟨ctx, img⟩ :: l).take 16) }

/-- The image of entry `entry` read and checked in the order of R17. The whole entry table is read in step 2, so bytes
of another entry that cannot be read reject the LAUNCH too (log entry 60: DESIGN CHOICE). -/
def State.readImage (s : State) (c : Ctx) (die entry : Nat) (a : DWord) : Accepted :=
  let addr := a.toNat
  let bad (b : Bad) : Accepted :=
    match b with
    | .cause _ f => .reject (rejected 0x24 0 f)
    | .pri k f => .waits (s.request c.num true (.pri k f))
  let checkEntry (entOff cnt : Nat) (es : List KEntry) (codeLen : Nat) : Option Ending :=
    match es[entry]? with
    | some e =>
      if cnt ≤ entry ∨ !e.launchable ∨ e.code.toNat % 4 ≠ 0 ∨ codeLen ≤ e.code.toNat ∨ e.rsv then
        some (rejected 0x28 entry (addr + entOff))
      else none
    | none => some (rejected 0x28 entry (addr + entOff))
  match s.cached die c.num a with
  | some img =>
    (match checkEntry img.entOff img.entries.length img.entries img.codeLen with
    | some e => .reject e
    | none => .ok (s.cacheImage die c.num img) img)
  | none =>
    if addr % 256 ≠ 0 ∨ 2 ^ 56 ≤ addr then .reject (rejected 0x24 0 addr)
    else
      match s.readVa c addr 64 with
      | .error b => bad b
      | .ok h =>
        let f := bitsOf h
        let entOff := f 128 32
        let cnt := f 160 16
        let descOff := f 192 32
        if !imageHeaderLegal h then .reject (rejected 0x24 0 addr)
        else
          if cnt ≤ entry then .reject (rejected 0x28 entry (addr + entOff))
          else match s.readVa c (addr + entOff) (16 * cnt) with
          | .error b => bad b
          | .ok eb =>
            let entries := (List.range cnt).map fun k => entryOf ((eb.drop (16 * k)).take 16)
            match checkEntry entOff cnt entries (f 96 32) with
            | some e => .reject e
            | none =>
              match s.readVa c (addr + descOff) 64 with
              | .error b => bad b
              | .ok db =>
                let d := descRead db
                match descFaults db with
                | n :: _ => .reject (rejected 0x25 n (addr + descOff))
                | [] =>
                  if 393216 < d.warps * (d.vregs * 128 + d.pregs * 4 + d.sregs * 8) then
                    .reject (rejected 0x26 0 (addr + descOff))
                  else
                    match s.readVa c (addr + d.tlroff) (64 * d.tlrcnt) with
                    | .error b => bad b
                    | .ok tb =>
                      let raws := (List.range d.tlrcnt).map fun k => (tb.drop (64 * k)).take 64
                      match (List.range d.tlrcnt).find? fun k =>
                          !tlrLegal (raws.getD k []) (tlrOf (raws.getD k [])) with
                      | some k => .reject (rejected 0x27 k (addr + d.tlroff + 64 * k))
                      | none =>
                        let img : Image :=
                          { addr := a, codeOff := f 64 32, codeLen := f 96 32
                            check := BitVec.ofNat 64 (f 320 64), entOff := entOff, descOff := descOff
                            entries := entries, desc := d, tlrs := raws.map tlrOf }
                        .ok (s.cacheImage die c.num img) img

/- ### Packets (R20 to R23) -/

/-- A field of a packet's body: its tag, the address of its head, and its value. -/
structure Field where
  tag : Nat
  head : Nat
  val : List Byte
deriving DecidableEq, Repr

/-- The header of a packet (R20). -/
structure PktHead where
  seq : Word
  type : Nat
  slots : Nat
  fence : Bool
  irq : Bool
  len : Nat
deriving DecidableEq, Repr

/-- A header's fields. -/
def headOf (h : List Byte) : PktHead :=
  { seq := BitVec.ofNat 32 (bitsOf h 0 32), type := bitsOf h 32 8, slots := bitsOf h 40 8
    fence := bitsOf h 48 1 == 1, irq := bitsOf h 49 1 == 1, len := bitsOf h 64 16 }

/-- The first failure of a header (R20); `at_` gives the address of a byte of the packet. -/
def headFault (h : List Byte) (maxSlots : Nat) (at_ : Nat → Nat) : Option Ending :=
  let p := headOf h
  if bitsOf h 50 14 ≠ 0 then some (rejected 0x22 0 (at_ 6))
  else if bitsOf h 80 48 ≠ 0 then some (rejected 0x22 0 (at_ 10))
  else if p.slots < 1 ∨ 16 < p.slots ∨ maxSlots < p.slots then some (rejected 0x22 0 (at_ 5))
  else if p.type < 1 ∨ 9 < p.type then some (rejected 0x20 p.type (at_ 0))
  else if p.slots * 256 - 16 < p.len then some (rejected 0x22 0 (at_ 8))
  else none

/-- The fields of a packet type: tag, least and greatest LEN, how often it may stand, whether it must
(R23). -/
def fieldTable : Nat → List (Nat × Nat × Nat × Nat × Bool)
  | 1 => [(1, 8, 8, 1, true), (2, 4, 4, 1, false), (3, 12, 12, 1, true), (4, 1, 4032, 1, false),
          (5, 4, 4, 1, false)]
  | 2 => [(0x10, 8, 8, 1, false), (0x11, 8, 8, 1, false), (0x12, 8, 8, 1, false), (0x13, 8, 8, 1, false)]
  | 3 => [(0x20, 8, 8, 1, true), (0x21, 8, 8, 1, true), (0x22, 1, 1, 1, true), (0x23, 4, 4, 1, false)]
  | 4 => [(0x30, 8, 8, 1, true), (0x31, 8, 8, 1, true), (0x32, 1, 1, 1, false), (0x33, 12, 12, 1, false)]
  | 5 => [(0x40, 8, 8, 1, true), (0x41, 16, 16, 32, false), (0x42, 4, 4, 1, true)]
  | 6 => [(0x50, 8, 8, 16, false)]
  | 7 => [(0x60, 16, 16, 1, true), (0x61, 1, 1, 1, false)]
  | 8 => [(0x60, 16, 16, 1, true), (0x61, 1, 1, 1, false)]
  | 9 => [(0x70, 8, 8, 1, false)]
  | _ => []

/-- The failure of a field's value (R23): its class. `known` says whether a queue number is registered in
the packet's context. -/
def valueFault (type tag : Nat) (v : List Byte) (known : Nat → Bool) : Option (BitVec 8) :=
  let f := bitsOf v
  let form (bad : Bool) : Option (BitVec 8) := if bad then some 0x22 else none
  let range (bad : Bool) : Option (BitVec 8) := if bad then some 0x25 else none
  match tag with
  | 0x03 => range (f 0 32 == 0 || f 32 32 == 0 || f 64 32 == 0)
  | 0x05 => (form (f 24 8 != 0)).orElse fun _ =>
      range (f 0 16 == 0 || decide (256 < f 0 16) || f 16 8 == 0 || decide (8 < f 16 8))
  | 0x12 => range (f 0 64 == 0 || decide (2 ^ 40 < f 0 64))
  | 0x20 => form (f 0 64 % 8 != 0)
  | 0x22 => form (decide (5 < f 0 8))
  | 0x30 => form (f 0 64 % 8 != 0)
  | 0x32 => form (decide (3 < f 0 8))
  | 0x33 => (form (f 8 24 != 0)).orElse fun _ => range (decide (63 < f 0 8))
  | 0x41 => form (decide (5 < f 0 8) || f 8 24 != 0)
  | 0x50 => form (!known (f 0 32))
  | 0x61 => form (if type = 7 then f 0 8 != 0 else decide (1 < f 0 8))
  | _ => none

/-- The fields of a body from offset `pos` on, or the first failure (R21). A field's value is checked as the field is
read, before the fields after it, and padding or an unknown optional field that runs past BODYLEN ends the body (log
entry 60: DESIGN CHOICE). -/
def parseBody (type : Nat) (body : List Byte) (at_ : Nat → Nat) (known : Nat → Bool) :
    Nat → Nat → List Field → Except Ending (List Field)
  | 0, _, fs => .ok fs
  | fuel + 1, pos, fs =>
    let left := body.length - pos
    let addr := at_ (16 + pos)
    if left = 0 then .ok fs
    else if left < 4 then .error (rejected 0x22 0 addr)
    else
      let h := (body.drop pos).take 4
      let tag := bitsOf h 0 15
      let mand := bitsOf h 15 1 == 1
      let len := bitsOf h 16 16
      let next := pos + 4 + (len + 3) / 4 * 4
      match (fieldTable type).find? fun r => r.1 == tag with
      | none =>
        if mand then .error (rejected 0x21 tag addr) else parseBody type body at_ known fuel next fs
      | some (_, lo, hi, rep, _) =>
        let v := (body.drop (pos + 4)).take len
        if len < lo ∨ hi < len ∨ v.length < len ∨ rep ≤ (fs.filter fun f => f.tag == tag).length then
          .error (rejected 0x22 tag addr)
        else
          match valueFault type tag v known with
          | some c => .error (rejected c tag addr)
          | none => parseBody type body at_ known fuel next (fs ++ [⟨tag, addr, v⟩])

/-- The field with a tag. -/
def fieldOf (fs : List Field) (tag : Nat) : Option Field := fs.find? fun f => f.tag == tag

/-- The number in the field with a tag, or a default. -/
def fieldNum (fs : List Field) (tag dflt : Nat) : Nat :=
  ((fieldOf fs tag).map fun f => leNat f.val).getD dflt

/-- The failures that the body as a whole shows: a missing field, or a COPY combination (R21, R23). -/
def bodyFault (type : Nat) (fs : List Field) (slot : Nat) : Option Ending :=
  match (fieldTable type).find? fun r => r.2.2.2.2 && (fieldOf fs r.1).isNone with
  | some r => some (rejected 0x23 r.1 slot)
  | none =>
    if type = 2 then
      let have_ (t : Nat) : Bool := (fieldOf fs t).isSome
      match fieldOf fs 0x13 with
      | some f =>
        if have_ 0x10 || have_ 0x11 || have_ 0x12 then some (rejected 0x22 0x13 f.head) else none
      | none => ([0x10, 0x11, 0x12].find? fun t => !have_ t).map fun t => rejected 0x22 t slot
    else none

/-- A packet's body checked whole (R21 to R23). -/
def checkBody (p : PktHead) (body : List Byte) (at_ : Nat → Nat) (known : Nat → Bool) :
    Except Ending (List Field) :=
  match parseBody p.type body at_ known (body.length + 1) 0 [] with
  | .error e => .error e
  | .ok fs =>
    match bodyFault p.type fs (at_ 0) with
    | some e => .error e
    | none => .ok fs

/- ### Grids -/

/-- First address of the argument range (R210). -/
def argBase : Nat := 0x7f4000000000

/-- The first address for an argument copy of n bytes: 64-byte aligned, whole within the argument range,
and off the live copies of the context's grids (R19, R210; log entry 39: DESIGN CHOICE). -/
def State.argPlace (s : State) (c : Ctx) (n : Nat) : Option Nat :=
  let live := (s.grids.filter fun g => g.ctx == c.num && decide (0 < g.argLen)).map fun g =>
    (g.args.toNat, g.argLen)
  (argBase :: live.map fun r => (r.1 + r.2 + 63) / 64 * 64).find? fun a =>
    decide (a % 64 = 0 ∧ argBase ≤ a ∧ a + n ≤ argBase + 2 ^ 32) &&
      live.all fun r => decide (a + n ≤ r.1 ∨ r.1 + r.2 ≤ a)

/-- An argument copy in the context pool and its address (R19, R89); nothing for no arguments. -/
def State.argCopy (s : State) (c : Ctx) (bytes : List Byte) : Option (State × Nat × Nat) :=
  if bytes.isEmpty then some (s, 0, 0)
  else
    match s.argPlace c bytes.length with
    | none => none
    | some va =>
      (c.alloc bytes.length 64).map fun r => ((s.setCtx r.2).putDram r.1 bytes, r.1, va)

/-- CTX_POOL (R89). -/
def poolEnding (c : Ctx) (need : Nat) : Ending := rejected 0x2b c.c need

/-- A grid as accepted (R17, R19), before its identifier and place in the pod. -/
def newGrid (c : Ctx) (img : Image) (fs : List Field) (phys va : Nat) : Grid :=
  let args := ((fieldOf fs 4).map (·.val)).getD []
  let ext := ((fieldOf fs 3).map (·.val)).getD []
  { id := 0, pod := false, ctx := c.num, queue := none, owner := .nobody, img := img
    entry := fieldNum fs 2 0
    args := BitVec.ofNat 64 va
    argPhys := phys, argLen := args.length, gx := bitsOf ext 0 32, gy := bitsOf ext 32 32
    gz := bitsOf ext 64 32, rank := 0, nrank := 1, parcels := 0xff, nextQuartet := 0, ahead := [], takeover := 0
    offered := true, stopped := false, ending := none, complete := false, podArrived := [], podSent := [], park := 0 }

/-- The identifier of the n-th local grid: bit 31 is set (R34). -/
def localGrid (n : Nat) : Nat := 2 ^ 31 + n % 2 ^ 31

/-- A local grid started for an owner, or why it is rejected (R17, R19, R89). -/
def State.startLocal (s : State) (c : Ctx) (img : Image) (fs : List Field) (queue : Option Nat)
    (owner : Owner) : Except Ending (State × Nat) :=
  let need := img.desc.area
  if c.poolSize < need then .error (poolEnding c need)
  else
    match s.argCopy c (((fieldOf fs 4).map (·.val)).getD []) with
    | none => .error (poolEnding c need)
    | some (s, phys, va) =>
      let id := localGrid s.fresh
      .ok ({ s with
        fresh := s.fresh + 1
        grids := s.grids ++ [{ newGrid c img fs phys va with id := id, queue := queue, owner := owner }] }, id)

/- ### Submitting a pod grid (R51, R65) -/

/-- The launch record of R65. -/
def launchRecord (img : Image) (fs : List Field) : List Byte :=
  let args := ((fieldOf fs 4).map (·.val)).getD []
  let ext := ((fieldOf fs 3).map (·.val)).getD []
  leBytes 8 (1 + fieldNum fs 2 0 * 2 ^ 16 + args.length * 2 ^ 32) ++ leBytes 8 img.addr.toNat ++ ext ++
    zeros 4 ++ leBytes 8 img.check.toNat ++ zeros 24 ++ args ++ zeros (4032 - args.length) ++ zeros 4096

/-- The lowest launch handle not in use. -/
def State.freeHandle (s : State) : Nat :=
  ((List.range 65536).find? fun h => !s.podCmds.any fun p => p.handle == h).getD 0

/-- A pod grid submitted: its record in the context's pool, its SUBMIT handed to the traverse; or why it
is rejected (R65, R75, R89). A fenced package's never orders (R74). -/
def State.submitPod (s : State) (c : Ctx) (img : Image) (fs : List Field) (owner : Owner) :
    Except Ending State :=
  match s.inPod, c.pctx with
  | true, some x =>
    if s.trav.role == .fenced then
      .error ⟨stAborted, 0x42, BitVec.ofNat 16 s.pkg, platGet s.plat 0⟩
    else
      (match if c.poolSize < img.desc.area then none else c.alloc 8192 8 with
      | none => .error (poolEnding c (if c.poolSize < img.desc.area then img.desc.area else 8192))
      | some (a, c) =>
        let h := s.freeHandle
        let pod := fieldNum fs 5 0
        let s := (s.setCtx c).putDram a (launchRecord img fs)
        let s := { s with podCmds := s.podCmds ++
            [(⟨h, c.num, owner, none, noStation, a⟩ : PodCmd)] }
        .ok (s.raiseEvent 1 0 0
          (BitVec.ofNat 64 (x.toNat + pod % 2 ^ 9 * 2 ^ 16 + pod / 2 ^ 16 % 16 * 2 ^ 25 + h * 2 ^ 32))
          img.check))
  | _, _ =>
    .error ⟨stRejected, 0x45, BitVec.ofNat 16 (if s.inPod then s.pkg else 0), noStation⟩

end Sys2Proof.Machine
end

