-- ==== Sys2Proof/Machine/Access.lean ====
section
/-! DEFINITION. What the lanes of a load, store or atomic come to: the checks of R242 lane by lane,
the outcome of the instruction (R217), and the landing of loaded values. -/

namespace Sys2Proof.Machine

/- ### Lane addresses (R240) -/

/-- The address of lane l. -/
def Warp.addr (w : Warp) (sp : Bool) (a : Addr) (l : Nat) : DWord :=
  match a with
  | .vec r off => (if sp then 0#32 ++ w.vget r.toNat l else w.vget64 r.toNat l) + offVal off
  | .sca s b sc off =>
    (if sp then 0#32 ++ (w.sget s.toNat).extractLsb' 0 32 else w.sget s.toNat) +
      ((w.vget b.toNat l).signExtend 64 <<< sc.toNat) + offVal off

/-- What the checks of R242 make of one lane's access. -/
inductive LaneAcc where
  | good (ls : List Loc) (ord : BitVec 2)
  | trap (c : Cause)
  | bad (b : Bad)
deriving DecidableEq, Repr

/-- The checks SPAD, ALIGN and translation of one lane (R242). -/
def Site.access (x : Site) (k : Ctx) (sp : Bool) (addr : DWord) (n : Nat) (acc : Access)
    (aligned : Bool) : LaneAcc :=
  let turn (r : Except Bad (List Loc × BitVec 2)) : LaneAcc :=
    if aligned && addr.toNat % n != 0 then .trap (Cause.one .align addr)
    else
      match r with
      | .ok (ls, ord) => .good ls ord
      | .error b => .bad b
  match x.locs k sp addr n acc with
  | none => .trap (Cause.one .spad addr)
  | some r => turn r

/-- The lanes of an access with what the checks made of them, in ascending order. -/
abbrev Accs := List (Nat × LaneAcc)

/-- The accesses of the lanes of m. -/
def accsOf (m : Mask) (f : Nat → LaneAcc) : Accs :=
  (lanes.filter fun l => m.getLsbD l).map fun l => (l, f l)

/-- The lanes for which f holds. -/
def Accs.mask (a : Accs) (f : LaneAcc → Bool) : Mask :=
  a.foldl (fun m p => if f p.2 then m ||| laneBit p.1 else m) 0

/-- The lanes that go on, with their bytes. -/
def Accs.good (a : Accs) : List (Nat × List Loc) :=
  a.filterMap fun p =>
    match p.2 with
    | .good ls _ => some (p.1, ls)
    | _ => none

/-- Whether a lane touches a strongly ordered page (R214). -/
def Accs.strong (a : Accs) : Bool :=
  a.any fun p =>
    match p.2 with
    | .good _ ord => ord == 1
    | _ => false

/-- Whether a lane raises this trap. -/
def LaneAcc.isTrap (t : TrapCode) : LaneAcc → Bool
  | .trap c => c.code == t
  | _ => false

/-- Whether a lane fails to translate. -/
def LaneAcc.isBad : LaneAcc → Bool
  | .bad _ => true
  | _ => false

/-- The lanes that raise a trap, with the trap of the lowest (R122, R338). -/
def Accs.trapPart (a : Accs) (t : TrapCode) : Mask × Move :=
  (a.mask (LaneAcc.isTrap t),
    match a.find? fun p => p.2.isTrap t with
    | some (_, .trap c) => .trap c
    | _ => .next)

/-- The cause of the lowest lane that fails to translate. -/
def Accs.badCause (a : Accs) : Option Cause :=
  a.findSome? fun p =>
    match p.2 with
    | .bad b => some b.toCause
    | _ => none

/-- The parts of the entry that trap in the checks (R217, R242); a load in exposed code waits for its
replay. -/
def Accs.parts (a : Accs) (replay : Bool) : List (Mask × Move) :=
  [a.trapPart .spad, a.trapPart .align,
    (a.mask LaneAcc.isBad,
      match a.badCause with
      | some c => if replay then .replay c else .trap c
      | none => .next)]

/-- An access that a wake cell does not take is counted in the context's log (R31). -/
def State.countWake (s : State) (n : Nat) (b : Bad) : State :=
  match b with
  | .cause _ va =>
    if inWake va then s.logCtx n kDenied TrapCode.page.num ((va - wakeBase) / 64) (BitVec.ofNat 64 va) else s
  | .pri _ _ => s

/-- The page requests that the failing lanes call for (R218), and the refused wake-cell accesses (R31). -/
def Site.requests (x : Site) (k : Ctx) (a : Accs) : Site :=
  { x with s := a.foldl (fun s p =>
      match p.2 with
      | .bad b => (s.request k.num false b).countWake k.num b
      | _ => s) x.s }

/- ### Poisoned memory (R365 to R367) -/

/-- The key of a consumed memory granule (R366), distinct from every register's. -/
def memKey : Loc → Nat
  | .sp o => 2 ^ 64 + 3 * 2 ^ 60 + o / 4
  | .mem t o => 2 ^ 64 + t * 2 ^ 60 + o / 8
  | _ => 0

/-- The first poisoned byte that a lane reads: its place and the address of its granule (R367). Bytes
that the region store buffer holds are not read from memory; `b` is the block whose scratchpad is
read. -/
def Site.poisonedByte (x : Site) (b : Block) (k : Ctx) (addr : DWord) (ls : List Loc) :
    Option (Nat × DWord) :=
  if x.s.poison.isEmpty && b.spadPoison.isEmpty then none
  else
    (((List.range ls.length).zip ls).find? fun p => locPoisoned x.s b p.2 &&
      !(b.key == x.b.key && (heldByte x.s k x.g.img.desc.spad x.w.stores p.2).isSome)).map fun p =>
      let a := addr + BitVec.ofNat 64 p.1
      (memKey p.2, match p.2 with
        | .sp _ => a &&& ~~~3#64
        | _ => a &&& ~~~7#64)

/- ### The outcome of an instruction that accesses memory -/

/-- The lanes that consume poison, in ascending order. -/
def Site.poisonedLanes (x : Site) (b : Block) (k : Ctx) (addr : Nat → DWord)
    (good : List (Nat × List Loc)) : List Consumed :=
  good.filterMap fun p => (x.poisonedByte b k (addr p.1) p.2).map fun e => ⟨p.1, e.1, e.2⟩

/-- The lanes of a list of consumed errors. -/
def consumedMask (cs : List Consumed) : Mask := cs.foldl (fun m c => m ||| laneBit c.lane) 0

/-- The site with the consumptions in the context's log (R368). -/
def Site.logAll (x : Site) (cs : List Consumed) : Site := (cs.map (·.word)).eraseDups.foldl Site.logConsumed x

/-- The part of the entry that parks with ECCU: the consuming lanes, with the word of the lowest (R366). -/
def eccuPart (cs : List Consumed) : Mask × Move :=
  (consumedMask cs, .trap (Cause.one .eccu ((cs.head?.map (·.word)).getD 0)))

/-- How the instruction leaves: a strongly ordered access in exposed code is a commit point (R324). -/
def Site.leaveAccess (x : Site) (strong : Bool) (w0 : DWord) (parts : List (Mask × Move)) : State :=
  if strong && !x.inRegion then x.leaveCommit false w0 parts else x.leave w0 parts

/-- An access whose lanes are checked (R214, R217, R242, R365): in a region a strongly ordered page
raises REGSIDE, in exposed code it waits first for the warp's pod-window stores (R214, R236) and a translation failure discards the region; in exposed code the good lanes go on
through `go` and the others park. `reads` is the block whose poison is consumed, none for a store;
`replay` says whether faulting lanes replay. -/
def Site.accessAll (x0 : Site) (i : Instr) (k : Ctx) (addr : Nat → DWord) (a : Accs)
    (reads : Option Block) (replay : Bool) (go : Site → List (Nat × List Loc) → Site) : State :=
  let w0 := instrW0 i
  let x := x0.requests k a
  if x.inRegion && a.strong then x0.precise i (Cause.one .regside w0)
  else if a.strong && x.w.acks != 0 then x0.s
  else
    let cs := match reads with
      | some b => x.poisonedLanes b k addr a.good
      | none => []
    let act (x : Site) : State :=
      let x := x.logAll cs
      let parts := a.parts replay ++ [eccuPart cs]
      let out := parts.foldl (fun m q => m ||| q.1) 0
      (go x (a.good.filter fun q => !(consumedMask cs).getLsbD q.1)).leaveAccess a.strong w0
        (parts ++ [(x.mask &&& ~~~out, .next)])
    match a.badCause with
    | some c => if x.inRegion then x.faultInRegion (a.mask LaneAcc.isBad) c else act x
    | none => if x.inRegion && !cs.isEmpty then x.consumeInRegion cs else act x

/- ### Loaded values -/

/-- The bytes of a vector load (R243). -/
def ldBytes : LdSz → Nat
  | .n8 => 1
  | .s8 => 1
  | .n16 => 2
  | .s16 => 2
  | .b32 => 4
  | .b64 => 8
  | .b128 => 16

/-- The bytes of a store (R243). -/
def stBytes : StSz → Nat
  | .b8 => 1
  | .b16 => 2
  | .b32 => 4
  | .b64 => 8
  | .b128 => 16

/-- The bytes of `sld` (R166). -/
def sldBytes : SldSz → Nat
  | .b64 => 8
  | .n32 => 4
  | .s32 => 4
  | .n16 => 2
  | .s16 => 2
  | .n8 => 1
  | .s8 => 1

/-- The first word that a vector load writes (R244). -/
def ldWord (sz : LdSz) (v : Nat) : Word :=
  match sz with
  | .s8 => (BitVec.ofNat 8 v).signExtend 32
  | .s16 => (BitVec.ofNat 16 v).signExtend 32
  | _ => BitVec.ofNat 32 v

/-- The value that `sld` writes (R166). -/
def sldWord (sz : SldSz) (v : Nat) : DWord :=
  match sz with
  | .s8 => (BitVec.ofNat 8 v).signExtend 64
  | .s16 => (BitVec.ofNat 16 v).signExtend 64
  | .s32 => (BitVec.ofNat 32 v).signExtend 64
  | _ => BitVec.ofNat 64 v

/-- A load's bytes written to its registers in lane l (R166, R244, R247). -/
def Warp.land (w : Warp) (l : Nat) (d : LoadDst) (bytes : List Byte) : Warp :=
  let v := leNat bytes
  match d with
  | .vec r sz =>
    (List.range (sz.regs - 1)).foldl
      (fun w k => w.vset (r.toNat + k + 1) l (BitVec.ofNat 32 (v / 2 ^ (32 * (k + 1)))))
      (w.vset r.toNat l (ldWord sz v))
  | .sca r sz => w.sset r.toNat (sldWord sz v)
  | .old r w64 =>
    if w64 then w.vset64 r.toNat l (BitVec.ofNat 64 v) else w.vset r.toNat l (BitVec.ofNat 32 v)

/-- A load of lane l whose bytes lie at these places: its value lands at once, in a later step
(R331), or when another package has answered (R236). `bytes` are the local ones, `held` those that the region
store buffer holds (R235). -/
def Site.loadLane (x : Site) (k : Ctx) (l : Nat) (sp : Bool) (addr : DWord) (n : Nat) (d : LoadDst)
    (ls : List Loc) (bytes : List Byte) (held : List (Option Byte)) : Site :=
  let out (x : Site) (v : Option (List Byte)) (r : Option Nat) : Site :=
    { x with
      s := { x.s with fresh := x.s.fresh + 1 }
      w := { x.w with loads := x.w.loads ++
        [⟨x.s.fresh, l, x.pc, sp, addr, n, d, x.inRegion, v, r, held⟩] } }
  match ls with
  | .win va :: _ =>
    let s := x.s.remote k va (if x.inRegion then .readRgn n else .read n)
      (.load x.b.key x.w.num l (x.s.fresh + 1))
    out { x with s := s } none (some x.s.fresh)
  | _ => if x.s.slowLoads then out x (some bytes) none else x.withW (x.w.land l d bytes)

end Sys2Proof.Machine
end

