-- ==== Sys2Proof/Machine/LoadStore.lean ====
section
/-! DEFINITION. Loads, stores, atomics, waits on memory, fences and host-cache operations: `sld`
(R166) and groups 0x2c to 0x30 (R240 to R252), with the events LOAD_COMPLETION and WAITV_RECHECK. -/

namespace Sys2Proof.Machine

/- ### Loads -/

/-- sld (R166). -/
def execSld (wk : BitVec 8) (d a : BitVec 5) (b : SOpB) (sz : SldSz) (s : State) : Out :=
  issue (.sld wk d a b sz) s fun x =>
    match x.ctx? with
    | none => x.s
    | some k =>
      let addr := (x.w.sget a.toNat + x.w.sopb b) &&& (2#64 ^ 57 - 1)
      let r := x.access k false addr (sldBytes sz) .load false
      let accs := accsOf x.mask fun _ => r
      x.accessAll (.sld wk d a b sz) k (fun _ => addr) accs (some x.b) false fun x good =>
        match good with
        | (l, ls) :: _ => x.loadLane k l false addr (sldBytes sz) (.sca d sz) ls (x.readLocs k ls)
            (x.heldBytes k ls)
        | [] => x

/-- The vector load of a lane's bytes (R244). -/
def Site.loadLanes (x : Site) (i : Instr) (k : Ctx) (sp : Bool) (addr : Nat → DWord) (n : Nat)
    (d : LoadDst) (src : Block) (f : Nat → LaneAcc) (read : Site → List Loc → List Byte) (m : Mask) : State :=
  x.accessAll i k addr (accsOf m f) (some src) true fun x good =>
    good.foldl (fun x p => x.loadLane k p.1 sp (addr p.1) n d p.2 (read x p.2) (x.heldBytes k p.2)) x

/-- ld (R243, R244). -/
def execLd (c : Ctl) (d : BitVec 8) (addr : Addr) (sp : Bool) (ann : Ann) (sz : LdSz) (s : State) :
    Out :=
  issue (.ld c d addr sp ann sz) s fun x =>
    match x.ctx? with
    | none => x.s
    | some k =>
      let at_ := x.w.addr sp addr
      x.loadLanes (.ld c d addr sp ann sz) k sp at_ (ldBytes sz) (.vec d sz) x.b
        (fun l => x.access k sp (at_ l) (ldBytes sz) .load false) (fun x ls => x.readLocs k ls)
        (x.acting c)

/-- The block with a member number in the same quartet (R84). -/
def State.member? (s : State) (b : Block) (m : Nat) : Option Block :=
  if b.spawned then none
  else s.blocks.find? fun p => p.grid == b.grid && !p.spawned && p.quartet == b.quartet && p.member == m

/-- ldq (R84, R244, R245). -/
def execLdq (c : Ctl) (d : BitVec 8) (addr : Addr) (m : BitVec 2) (sz : LdSz) (s : State) : Out :=
  issue (.ldq c d addr m sz) s fun x =>
    match x.ctx? with
    | none => x.s
    | some k =>
      let at_ := x.w.addr true addr
      let from_ := x.s.member? x.b m.toNat
      x.loadLanes (.ldq c d addr m sz) k true at_ (ldBytes sz) (.vec d sz) (from_.getD x.b)
        (fun l =>
          match from_ with
          | none => .trap (Cause.one .spad (at_ l))
          | some _ => x.access k true (at_ l) (ldBytes sz) .load false)
        (fun x ls =>
          match from_ with
          | some p => if p.key = x.b.key then x.readLocs k ls else ls.map (readLoc x.s p)
          | none => [])
        (x.acting c)

/-- LOAD_COMPLETION: an outstanding load whose bytes are read writes its registers (R331). -/
def execLoadCompletion (b w id : Nat) (s : State) : Out :=
  .next (match s.block? b with
  | none => s
  | some bl =>
    match bl.warp? w with
    | none => s
    | some wa =>
      match wa.loads.find? fun o => o.id == id with
      | none => s
      | some o =>
        match o.val with
        | none => s
        | some bytes =>
          s.setBlock (bl.setWarp
            { (wa.land o.lane o.dst bytes) with loads := wa.loads.filter fun p => p.id != id }))

/- ### Stores -/

/-- The bytes that lane l stores (R243). -/
def Warp.storeBytes (w : Warp) (d : BitVec 8) (sz : StSz) (l : Nat) : List Byte :=
  match sz with
  | .b64 => leBytes 8 (w.vget64 d.toNat l).toNat
  | .b128 =>
    leBytes 8 (w.vget64 d.toNat l).toNat ++ leBytes 8 (w.vget64 (d.toNat + 2) l).toNat
  | _ => leBytes (stBytes sz) (w.vget d.toNat l).toNat

/-- The effect of `st` (R244): one entry of the region store buffer, or the bytes lane by lane. -/
def Site.storeLanes (x : Site) (i : Instr) (k : Ctx) (d : BitVec 8) (addr : Nat → DWord) (sp : Bool)
    (sz : StSz) (m : Mask) : State :=
  if x.inRegion && decide (16 ≤ x.w.stores.length) then x.precise i (Cause.one .regovf 0)
  else
    x.accessAll i k addr (accsOf m fun l => x.access k sp (addr l) (stBytes sz) .store false) none false
      fun y good =>
        let lane (l : Nat) : StoreLane := ⟨l, sp, addr l, x.w.storeBytes d sz l⟩
        if y.inRegion then y.withW { y.w with stores := y.w.stores ++ [good.map fun p => lane p.1] }
        else good.foldl (fun y p => y.storeLane k (lane p.1) p.2) y

/-- Whether an annotation releases. A release at any scope waits for the acknowledgements of the warp's pod-window
stores, so that one that follows it at `.pod` in another warp orders them too (R227, R229, R236; log entry 58:
DESIGN CHOICE). -/
def releases : Ann → Bool
  | .rel _ => true
  | .ar _ => true
  | _ => false

/-- st (R243, R244); `st.rel` is a commit point (R245). -/
def execSt (c : Ctl) (d : BitVec 8) (addr : Addr) (sp : Bool) (ann : Ann) (sz : StSz) (s : State) :
    Out :=
  let i := Instr.st c d addr sp ann sz
  let body (x : Site) : State :=
    match x.ctx? with
    | none => x.s
    | some k => x.storeLanes i k d (x.w.addr sp addr) sp sz (x.acting c)
  match ann with
  | .relaxed => issue i s body
  | _ =>
    issueCommitWhen i s (fun x => releases ann && x.w.acks != 0) fun x =>
      match x.ctx? with
      | none => x.s
      | some k =>
        let at_ := x.w.addr sp addr
        let a := accsOf (x.acting c) fun l => x.access k sp (at_ l) (stBytes sz) .store false
        let y := x.requests k a
        let y := a.good.foldl (fun y p =>
          y.storeLane k ⟨p.1, sp, at_ p.1, x.w.storeBytes d sz p.1⟩ p.2) y
        let out := (a.parts false).foldl (fun m q => m ||| q.1) 0
        y.leaveCommit false (instrW0 i) (a.parts false ++ [(x.mask &&& ~~~out, .next)])

/- ### Atomics -/

/-- The new value of a memory word (R247). -/
def atomNew {n : Nat} (op : AtomOp) (sg : Bool) (m b c : BitVec n) : BitVec n :=
  match op with
  | .add => m + b
  | .min => if (if sg then decide (m.toInt ≤ b.toInt) else decide (m.toNat ≤ b.toNat)) then m else b
  | .max => if (if sg then decide (b.toInt ≤ m.toInt) else decide (b.toNat ≤ m.toNat)) then m else b
  | .and => m &&& b
  | .or => m ||| b
  | .xor => m ^^^ b
  | .exch => b
  | .cas => if m = b then c else m
  | .incwrap => if b.toNat ≤ m.toNat then 0 else m + 1

/-- The bytes of a word after an atomic operation with operands b and c (R247). -/
def atomBytes (op : AtomOp) (w64 sg : Bool) (old : List Byte) (b c : DWord) : List Byte :=
  if w64 then leBytes 8 (atomNew op sg (BitVec.ofNat 64 (leNat old)) b c).toNat
  else
    leBytes 4 (atomNew op sg (BitVec.ofNat 32 (leNat old)) (b.extractLsb' 0 32)
      (c.extractLsb' 0 32)).toNat

/-- Whether an operation is sent to host memory (R232). -/
def hostAtomic : AtomOp → Bool
  | .add => true
  | .exch => true
  | .cas => true
  | _ => false

/-- The access of one lane of an atomic (R232, R242, R247). -/
def Site.atomAccess (x : Site) (k : Ctx) (op : AtomOp) (sp : Bool) (addr : DWord) (n : Nat) :
    LaneAcc :=
  match x.access k sp addr n .atomic true with
  | .good ls ord =>
    match ls with
    | .mem 2 _ :: _ => if hostAtomic op then .good ls ord else .bad (.cause cHOSTOP addr.toNat)
    | _ => .good ls ord
  | r => r

/-- A value as 64 bits: a pair, or one register zero-extended. -/
def Warp.operand (w : Warp) (r : BitVec 8) (w64 : Bool) (l : Nat) : DWord :=
  if w64 then w.vget64 r.toNat l else 0#32 ++ w.vget r.toNat l

/-- One lane of an atomic performed (R247): `dst` is the register of the old value. -/
def Site.atomLane (x : Site) (k : Ctx) (op : AtomOp) (w64 sg sp : Bool) (dst : Option (BitVec 8))
    (addr : DWord) (b c : DWord) (l : Nat) (ls : List Loc) : Site :=
  let n := if w64 then 8 else 4
  match ls with
  | .win va :: _ =>
    let req : ROp := .atomic op w64 sg b c
    match dst with
    | some d =>
      { x with
        s := { x.s.remote k va req (.load x.b.key x.w.num l (x.s.fresh + 1)) with
          fresh := x.s.fresh + 2 }
        w := { x.w with loads := x.w.loads ++
          [⟨x.s.fresh + 1, l, x.pc, sp, addr, n, .old d w64, false, none, some x.s.fresh, []⟩] } }
    | none =>
      { x with
        s := x.s.remote k va req (.store x.b.key x.w.num addr)
        w := { x.w with acks := x.w.acks + 1 } }
  | _ =>
    let old := ls.map (readLoc x.s x.b)
    let y := x.writeLocs ls (atomBytes op w64 sg old b c)
    match dst with
    | some d => y.withW (y.w.land l (.old d w64) old)
    | none => y

/-- Whether an atomic waits for acknowledgements: it releases, or it accesses a strongly ordered page (R214,
R236). -/
def Site.atomWaits (x : Site) (ctl : Ctl) (a : BitVec 8) (off : BitVec 16) (op : AtomOp) (ann : Ann)
    (w64 sp : Bool) : Bool :=
  x.w.acks != 0 && (releases ann ||
    match x.ctx? with
    | none => false
    | some k => Accs.strong (accsOf (x.acting ctl) fun l =>
        x.atomAccess k op sp (x.w.addr sp (.vec a (.imm off)) l) (if w64 then 8 else 4)))

/-- The shared effect of `atom` and `red.m` (R232, R247, R248): the region has committed, the good
lanes perform their operations in ascending order and the others park. -/
def atomCommon (i : Instr) (ctl : Ctl) (dst : Option (BitVec 8)) (a : BitVec 8) (off : BitVec 16)
    (b rc : BitVec 8) (op : AtomOp) (ann : Ann) (w64 sg sp : Bool) (s : State) : Out :=
  issueCommitWhen i s (fun x => x.atomWaits ctl a off op ann w64 sp) fun x =>
    match x.ctx? with
    | none => x.s
    | some k =>
      let n := if w64 then 8 else 4
      let at_ := x.w.addr sp (.vec a (.imm off))
      let accs := accsOf (x.acting ctl) fun l => x.atomAccess k op sp (at_ l) n
      let y := x.requests k accs
      let cs := y.poisonedLanes x.b k at_ accs.good
      let y := y.logAll cs
      let y := (accs.good.filter fun q => !(consumedMask cs).getLsbD q.1).foldl (fun y q =>
        y.atomLane k op w64 sg sp dst (at_ q.1) (x.w.operand b w64 q.1) (x.w.operand rc w64 q.1)
          q.1 q.2) y
      let parts := accs.parts false ++ [eccuPart cs]
      let out := parts.foldl (fun m q => m ||| q.1) 0
      y.leaveCommit false (instrW0 i) (parts ++ [(x.mask &&& ~~~out, .next)])

/-- atom (R246 to R248). -/
def execAtom (c : Ctl) (d a : BitVec 8) (off : BitVec 16) (b rc : BitVec 8) (op : AtomOp) (ann : Ann)
    (w64 sg sp : Bool) (s : State) : Out :=
  atomCommon (.atom c d a off b rc op ann w64 sg sp) c (some d) a off b rc op ann w64 sg sp s

/-- red.m (R246 to R248). -/
def execRedM (c : Ctl) (a : BitVec 8) (off : BitVec 16) (b : BitVec 8) (op : AtomOp) (ann : Ann)
    (w64 sg sp : Bool) (s : State) : Out :=
  atomCommon (.redM c a off b op ann w64 sg sp) c none a off b b op ann w64 sg sp s

/- ### waitv (R249) -/

/-- A condition of R24 on words of one width. -/
def wcondHolds {n : Nat} (c : WCond) (x y : BitVec n) : Bool :=
  match c with
  | .eq => x == y
  | .ne => x != y
  | .ltu => decide (x.toNat < y.toNat)
  | .geu => decide (y.toNat ≤ x.toNat)
  | .andnz => x &&& y != 0
  | .andz => x &&& y == 0

/-- A condition on the bytes read and the lane's own value. -/
def wcondBytes (c : WCond) (w64 : Bool) (bytes : List Byte) (y : DWord) : Bool :=
  if w64 then wcondHolds c (BitVec.ofNat 64 (leNat bytes)) y
  else wcondHolds c (BitVec.ofNat 32 (leNat bytes)) (y.extractLsb' 0 32)

/-- The access of a `waitv` lane: a strongly ordered page raises PAGE with cause PERM (R249). -/
def Site.waitAccess (x : Site) (k : Ctx) (sp : Bool) (addr : DWord) (n : Nat) : LaneAcc :=
  match x.access k sp addr n .load true with
  | .good ls ord => if ord = 1 then .bad (.cause cPERM addr.toNat) else .good ls ord
  | r => r

/-- A `waitv` lane whose word lies in the pod window asks for it again. -/
def Site.askWord (x : Site) (k : Ctx) (n l : Nat) (ls : List Loc) : Site :=
  match ls with
  | .win va :: _ => { x with s := x.s.remote k va (.read n) (.waitv x.b.key x.w.num l) }
  | _ => x

/-- waitv (R249). -/
def execWaitv (c : Ctl) (a : BitVec 8) (off : Off) (b : BitVec 8) (cond : WCond) (ann : Ann)
    (w64 sp : Bool) (s : State) : Out :=
  let i := Instr.waitv c a off b cond ann w64 sp
  issueCommit i s fun x =>
    match x.ctx? with
    | none => x.s
    | some k =>
      let n := if w64 then 8 else 4
      let at_ := x.w.addr sp (.vec a off)
      let accs := accsOf (x.acting c) fun l => x.waitAccess k sp (at_ l) n
      let y := x.requests k accs
      let cs := y.poisonedLanes x.b k at_ accs.good
      let y := y.logAll cs
      let good := accs.good.filter fun q => !(consumedMask cs).getLsbD q.1
      let fails := good.filter fun q =>
        match q.2 with
        | .win _ :: _ => true
        | _ => !wcondBytes cond w64 (q.2.map (readLoc x.s x.b)) (x.w.operand b w64 q.1)
      let park := fails.foldl (fun m q => m ||| laneBit q.1) 0
      let y := fails.foldl (fun y q => y.askWord k n q.1 q.2) y
      let waits := fails.map fun q => (⟨q.1, x.pc + BitVec.ofNat 64 x.len,
        .waitv sp (at_ q.1) w64 cond (x.w.operand b w64 q.1) ann⟩ : Wait)
      let y := if park = 0 then y
        else y.withW { y.w.endNpe with waits := y.w.waits ++ waits }
      let parts := accs.parts false ++ [eccuPart cs, (park, .park 3)]
      let out := parts.foldl (fun m q => m ||| q.1) 0
      (y.leaveCommit false (instrW0 i) (parts ++ [(x.mask &&& ~~~out, .next)])).notePark x.b.key
        x.w.num

/-- The bytes of the word that a lane waits for. -/
def waitBytes : WaitKind → Nat
  | .waitv _ _ w64 _ _ _ => if w64 then 8 else 4
  | _ => 0

/-- What a new read of a waiting lane's word comes to. -/
inductive Recheck where
  | holds
  | fails
  | ask (ls : List Loc)
  | trap (c : Cause) (bad : Option Bad)
deriving DecidableEq, Repr

/-- The new read of a parked `waitv` lane (R249). -/
def Site.recheck (x : Site) (k : Ctx) (w : Wait) : Recheck :=
  match w.kind with
  | .waitv sp addr w64 cond y _ =>
    match x.waitAccess k sp addr (if w64 then 8 else 4) with
    | .good ls _ =>
      match ls with
      | .win _ :: _ => .ask ls
      | _ =>
        match x.poisonedByte x.b k addr ls with
        | some e => .trap (Cause.one .eccu e.2) none
        | none => if wcondBytes cond w64 (ls.map (readLoc x.s x.b)) y then .holds else .fails
    | .trap c => .trap c none
    | .bad b => .trap b.toCause (some b)
  | _ => .fails

/-- A parked lane that traps: its parked entry's PC is kept (R122). -/
def Warp.trapParked (w : Warp) (g : Grid) (l : Nat) (code : BitVec 4) (c : Cause) : Warp :=
  match w.frontier.find? fun e => e.park == code && e.mask.getLsbD l with
  | none => w
  | some e =>
    { w with
      frontier := dropLanes w.frontier (laneBit l)
      waits := w.waits.filter fun v => v.lane != l }.raise g.cb e.pc e.prio (laneBit l) 0 c

/-- The site of a warp outside issue. -/
def State.warpSite (s : State) (b : Block) (w : Warp) (g : Grid) : Site :=
  ⟨s, b, w, g, g.cb, 0, 0, 0, false⟩

/-- WAITV_RECHECK: the words of a warp's parked lanes are read again (R249). The lanes of the first
parked entry whose conditions hold move on; a lane whose word cannot be read traps. -/
def execWaitvRecheck (b w : Nat) (s : State) : Out :=
  .next (match s.block? b with
  | none => s
  | some bl =>
    match bl.warp? w, s.grid? bl.grid with
    | some wa, some g =>
      match s.ctx? g.ctx with
      | none => s
      | some k =>
        if bl.res != .resident || wa.frame.isSome then s
        else
          let x := s.warpSite bl wa g
          let here := wa.waits.filter fun v => wa.frontier.any fun e =>
            e.park == 3 && e.mask.getLsbD v.lane
          let held := here.filter fun v => x.recheck k v == .holds
          match held with
          | v :: _ =>
            let m := held.foldl (fun m u => if u.next = v.next then m ||| laneBit u.lane else m) 0
            s.releaseLanes bl wa g m 3
          | [] =>
            let y := here.foldl (fun y v =>
              match x.recheck k v with
              | .trap c bad =>
                let y := if c.code = .eccu then y.logConsumed c.w1 else y
                let y := y.withW (y.w.trapParked g v.lane 3 c)
                (match bad with
                | some bd => { y with s := y.s.request k.num false bd }
                | none => y)
              | .ask ls => if s.fabricOut.any fun r => r.owner == .waitv b w v.lane then y
                  else y.askWord k (waitBytes v.kind) v.lane ls
              | _ => y) x
            y.s.putWarp y.b y.w g
    | _, _ => s)

/- ### Fences, prefetch and the host's caches -/

/-- fence (R250, R251): a release waits for the acknowledgements of the warp's pod-window stores (R236; log entry
58: DESIGN CHOICE for scopes below `.pod`); in one total order of memory no fence has another effect (log entry
5: DESIGN CHOICE). -/
def execFence (c : Ctl) (kind : FenceKind) (scope : Scope) (x y : Path) (s : State) : Out :=
  let i := Instr.fence c kind scope x y
  match kind with
  | .acq => issue i s fun z => z.done
  | _ =>
    issueCommitWhen i s (fun z => z.w.acks != 0) fun z =>
      z.leaveCommit false 0 [(z.mask, .next)]

/-- prf (R250, R251): no program-visible state changes. -/
def execPrf (c : Ctl) (l1 : Bool) (addr : Addr) (s : State) : Out :=
  issue (.prf c l1 addr) s fun x => x.done

/-- flush.host (R250, R252): this model holds no dirty copy of a host line, so the flush is complete
once the region has committed (log entry 5: DESIGN CHOICE). -/
def execFlushHost (c : Ctl) (a : BitVec 5) (len : LenOp) (s : State) : Out :=
  issueCommit (.flushHost c a len) s fun x => x.leaveCommit false 0 [(x.mask, .next)]

/-- inval.host (R250, R252): this model holds no copy of a host line (log entry 5: DESIGN CHOICE). -/
def execInvalHost (c : Ctl) (a : BitVec 5) (len : LenOp) (s : State) : Out :=
  issueCommit (.invalHost c a len) s fun x => x.leaveCommit false 0 [(x.mask, .next)]

end Sys2Proof.Machine
end

