-- ==== Sys2Proof/Machine/Packets.lean ====
section
/-! DEFINITION. The packet cores (R20 to R26, R33, R34, R273, R408, R409): reading the packet at HEAD, the
meanings of the packet types, and the events that end a held or running command. -/

namespace Sys2Proof.Machine

/- ### The packet at HEAD (R30, R33) -/

/-- The address of byte k of the packet at HEAD (R30). -/
def Queue.byteAt (q : Queue) (k : Nat) : Nat :=
  q.ringBase.toNat + (256 * q.head.toNat + k) % (256 * 2 ^ q.ringLog2)

/-- n bytes from byte k of the packet at HEAD; the ring wraps (R30). -/
def State.readRing (s : State) (c : Ctx) (q : Queue) (k n : Nat) : Except Bad (List Byte) :=
  let size := 256 * 2 ^ q.ringLog2
  let start := (256 * q.head.toNat + k) % size
  let first := Nat.min n (size - start)
  match s.readVa c (q.ringBase.toNat + start) first with
  | .error b => .error b
  | .ok x =>
    if n ≤ first then .ok x
    else
      match s.readVa c q.ringBase.toNat (n - first) with
      | .error b => .error b
      | .ok y => .ok (x ++ y)

/-- What stands at HEAD: nothing to consume yet, a packet to reject, one to skip, or an accepted body. -/
inductive AtHead where
  | waits (s : State)
  | reject (s : State) (irq : Bool) (e : Ending)
  | skip (p : PktHead)
  | ok (p : PktHead) (fs : List Field)

/-- Whether queue q's slot consumes: mapped, nothing held, no switch of firmware (R25, R39, R390). -/
def State.consuming (s : State) (q : Queue) : Bool :=
  q.state == 3 && q.slot.isSome && q.holding.isNone && !s.fwHeld && s.fw.onlyMailbox == false

/-- The packet at HEAD of a queue (R20 to R23, R26, R33); one that holds an uncorrectable error is rejected with
MEM_UNCORR (R366, R367). -/
def State.atHead (s : State) (q : Queue) : AtHead :=
  match s.ctx? q.ctx with
  | none => .waits s
  | some c =>
    let fault (irq : Bool) (b : Bad) : AtHead :=
      match b with
      | .cause k a =>
        if k = cMEMERR then .reject (s.logUse c.num q.index a) irq (rejected 0x90 0 (a / 8 * 8))
        else .reject s irq (rejected 0x34 0 a)
      | .pri k a => .waits (s.request c.num true (.pri k a))
    if !s.consuming q || decide (q.tail.toNat ≤ q.head.toNat) ||
        decide (q.cqdone.toNat + 2 ^ q.cqLog2 ≤ q.cmdidx.toNat) then .waits s
    else
      match s.readRing c q 0 16 with
      | .error b => fault false b
      | .ok h =>
        let p := headOf h
        if p.seq ≠ q.cmdidx.extractLsb' 0 32 then .waits s
        else
          match headFault h (2 ^ q.ringLog2) q.byteAt with
          | some e => .reject s p.irq e
          | none =>
            if q.tail.toNat < q.head.toNat + p.slots then .waits s
            else if q.skipTo.any fun t => t != p.seq then .skip p
            else
              match s.readRing c q 16 p.len with
              | .error b => fault p.irq b
              | .ok body =>
                let known (n : Nat) : Bool := s.queues.any fun r => r.ctx == q.ctx && r.qnum == n
                match checkBody p body q.byteAt known with
                | .error e => .reject s p.irq e
                | .ok fs => .ok p fs

/-- Whether the slice of a mapped queue counts: a packet that R33 would let it consume, or local blocks on
cores that are not all parked in `waitv` or `uiwait` (R37). -/
def State.sliceCounts (s : State) (q : Queue) : Bool :=
  (match s.atHead { q with holding := none } with
  | .waits _ => false
  | _ => true) ||
  (s.localBlocks q.key).any fun b => b.warps.any fun w => w.frontier.any fun e => e.park != 3 && e.park != 4

/-- SLICE_EXPIRY (R37): the queues that found no victim look again (R38). -/
def execSliceExpiry (q : Nat) (s : State) : Out :=
  .next (match s.queue? q with
  | none => s
  | some u =>
    if u.slot.isSome && !s.fwHeld && s.sliceCounts u then
      let d := s.die u.home
      (s.setDie u.home { d with seeks := d.seeks.filter fun e => e.victim.isSome }).setQueue
        { u with sliceExpired := true }
    else s)

/-- A packet rejected (R22): its entry at the position of CMDIDX, and the queue stops. -/
def State.rejectPkt (s : State) (q : Queue) (irq : Bool) (e : Ending) : State :=
  ((s.priTold q.ctx e.addr).putCqe q.key ⟨q.cmdidx, q.cmdidx.extractLsb' 0 32, irq, e, noGrid, noStation⟩).stopQueue
    q.key e.cls

/-- A packet consumed (R33): HEAD and CMDIDX move, and the command runs. -/
def State.consumePkt (s : State) (q : Queue) (p : PktHead) (grid : Option Nat) : State × Flight :=
  let f : Flight := ⟨q.cmdidx, p.seq, p.irq, grid⟩
  (s.setQueue { q with
    head := q.head + BitVec.ofNat 64 p.slots, cmdidx := q.cmdidx + 1, skipTo := none
    flights := q.flights ++ [f] }, f)

/-- A packet passed over by a BRANCH (R26). -/
def State.skipPkt (s : State) (q : Queue) (p : PktHead) : State :=
  let t := q.skipTo
  let r := s.consumePkt q p none
  match r.1.queue? q.key with
  | some q' => (r.1.setQueue { q' with skipTo := t }).completeCmd q.key r.2 ⟨stSkipped, 0, 0, 0⟩ noGrid
      noStation
  | none => r.1

/-- A packet event of queue k for one TYPE: rejections and skips are the same for every type; `fence`
says that the type acts as if FENCE were set (R25). -/
def packetEvent (k type : Nat) (fence : Bool) (s : State)
    (run : State → Ctx → Queue → PktHead → List Field → State) : Out :=
  .next (match s.queue? k with
  | none => s
  | some q =>
    match s.atHead q with
    | .waits s => s
    | .reject s irq e => s.rejectPkt q irq e
    | .skip p => s.skipPkt q p
    | .ok p fs =>
      match s.ctx? q.ctx with
      | none => s
      | some c =>
        if p.type ≠ type ∨ ((p.fence || fence) && !q.flights.isEmpty) then s else run s c q p fs)

/-- A command that completes as it is consumed. -/
def State.consumeDone (s : State) (q : Queue) (p : PktHead) (e : Ending) : State :=
  let r := s.consumePkt q p none
  r.1.completeCmd q.key r.2 e noGrid noStation

/- ### Launches (R17, R19, R65) -/

/-- LAUNCH: acceptance, then a local grid or a SUBMIT (R17, R65). -/
def execLaunch (q : Nat) (s : State) : Out :=
  packetEvent q 1 false s fun s c q p fs =>
    match s.readImage c q.home (fieldNum fs 2 0) (BitVec.ofNat 64 (fieldNum fs 1 0)) with
    | .waits s => s
    | .reject e => s.rejectPkt q p.irq e
    | .ok s img =>
      let owner := Owner.cmd q.key q.cmdidx p.seq p.irq
      if (fieldOf fs 5).isSome then
        match s.submitPod c img fs owner with
        | .ok s => (s.consumePkt q p none).1
        | .error e => if e.status = stAborted then s.consumeDone q p e else s.rejectPkt q p.irq e
      else
        match s.startLocal c img fs (some q.key) owner with
        | .ok (s, id) => (s.consumePkt q p (some id)).1
        | .error e => s.rejectPkt q p.irq e

/-- LAUNCH_COMPLETE: a local grid whose blocks have all ended, or that has failed, completes once its
pod-window writes are acknowledged (R34, R236). -/
def execLaunchComplete (g : Nat) (s : State) : Out :=
  .next (
    let s := s.sweep g
    match s.grid? g with
    | none => s
    | some gr =>
      if gr.pod then s
      else
        let s := match gr.queue with
          | some k => s.leaveStopRun k
          | none => s
        if s.writesOut g then s
        else
          match gr.ending with
          | some e => s.endLocal gr e
          | none =>
            if gr.allPlaced && s.blocks.all fun b => b.grid != g then s.endLocal gr doneEnding else s)

/- ### Copies (R23, R273) -/

/-- COPY: a transfer or a chain begins (R273). -/
def execCopy (q : Nat) (s : State) : Out :=
  packetEvent q 2 false s fun s _ q p fs =>
    let r := s.consumePkt q p none
    let chain := (fieldOf fs 0x13).isSome
    match r.1.queue? q.key with
    | none => r.1
    | some q => r.1.setQueue { q with copies := q.copies ++
        [(⟨r.2.idx, r.2.seq, r.2.irq, chain,
          BitVec.ofNat 64 (if chain then fieldNum fs 0x13 0 else fieldNum fs 0x10 0),
          BitVec.ofNat 64 (fieldNum fs 0x11 0), fieldNum fs 0x12 0⟩ : CopyJob)] }

/-- A copy command ends. -/
def State.endCopy (s : State) (k : Nat) (j : CopyJob) (e : Ending) : State :=
  match s.queue? k with
  | none => s
  | some q =>
    ((s.priTold q.ctx e.addr).setQueue { q with copies := q.copies.filter fun x => x.idx != j.idx }).completeCmd k
      ⟨j.idx, j.seq, j.irq, none⟩ e noGrid noStation

/-- COPY_FAULT (R273). -/
def copyFault (cause : BitVec 8) (addr : DWord) : Ending := ⟨stFailed, 0x61, 0#8 ++ cause, addr⟩

/-- COPY_COMPLETE: a COPY's transfer runs to its end, or its chain moves one record on and ends when the
chain does (R273). -/
def execCopyComplete (q cmd : Nat) (s : State) : Out :=
  .next (match s.queue? q with
  | none => s
  | some u =>
    match u.copies.find? fun j => j.idx.toNat == cmd, s.ctx? u.ctx with
    | some j, some c =>
      if j.chain then
        match chainStep s Block.blank c none j.src.toNat with
        | .ended => s.endCopy q j doneEnding
        | .moved t _ next _ =>
          (match t.queue? q with
          | some u => t.setQueue { u with copies := u.copies.map fun x =>
              if x.idx = j.idx then { x with src := next } else x }
          | none => t)
        | .faulted t _ cause f _ => t.endCopy q j (copyFault cause f)
        | .waits t => t
      else
        let r := s.copyBytes .cp Block.blank c false false j.src.toNat j.dst.toNat j.len
        (match r.bad with
        | none => r.s.endCopy q j doneEnding
        | some (.cause k a) =>
          (r.s.blame c.num u.index k (BitVec.ofNat 64 a)).endCopy q j (copyFault k (BitVec.ofNat 64 a))
        | some (.pri k a) => s.request c.num true (.pri k a))
    | _, _ => s)

/- ### Words (R24, R25, R409) -/

/-- Where a command's word lies: readable here, in another package, or not readable (R409). -/
inductive WordAt where
  | here (v : DWord)
  | there
  | bad (b : Bad)
deriving DecidableEq, Repr

/-- The 64-bit word of a WAIT, SIGNAL or BRANCH. -/
def State.wordAt (s : State) (c : Ctx) (a : DWord) : WordAt :=
  if s.windowAddr c a.toNat 8 then .there
  else
    match s.readVa c a.toNat 8 with
    | .ok bs => .here (BitVec.ofNat 64 (leNat bs))
    | .error b => .bad b

/-- WORD_FAULT (R35): the packet's TYPE and the word's address. -/
def wordFault (type : Nat) (a : DWord) : Ending := ⟨stFailed, 0x35, BitVec.ofNat 16 type, a⟩

/-- A consumed command fails on its word and the queue stops (R36, R409). -/
def State.failWord (s : State) (k : Nat) (f : Flight) (type : Nat) (a : DWord) : State :=
  match s.queue? k with
  | none => s
  | some q =>
    (((s.priTold q.ctx a).setQueue { q with holding := none }).completeCmd k f (wordFault type a) noGrid
      noStation).stopQueue k 0x35

/-- A held command completes. -/
def State.endHeld (s : State) (k : Nat) (f : Flight) (e : Ending) : State :=
  match s.queue? k with
  | none => s
  | some q => (s.setQueue { q with holding := none }).completeCmd k f e noGrid noStation

/-- A condition code of R24. -/
def condOf (n : Nat) : WCond :=
  match n with
  | 0 => .eq
  | 1 => .ne
  | 2 => .ltu
  | 3 => .geu
  | 4 => .andnz
  | _ => .andz

/-- A command that holds its queue. -/
def State.hold (s : State) (k : Nat) (f : Flight) (h : Holding) : State :=
  match s.queue? k with
  | none => s
  | some q => s.setQueue { q with holding := some (f, h) }

/-- WAIT: consumed; its word is polled from then on (R25). -/
def execWait (q : Nat) (s : State) : Out :=
  packetEvent q 3 false s fun s _ q p fs =>
    let r := s.consumePkt q p none
    r.1.hold q.key r.2 (.wait (BitVec.ofNat 64 (fieldNum fs 0x20 0)) (BitVec.ofNat 64 (fieldNum fs 0x21 0))
      (condOf (fieldNum fs 0x22 0)) (BitVec.ofNat 32 (fieldNum fs 0x23 0)))

/-- WAIT_POLL: a held WAIT reads its word again while its queue is mapped (R25, R40). -/
def execWaitPoll (q : Nat) (s : State) : Out :=
  .next (match s.queue? q with
  | none => s
  | some u =>
    match u.holding, s.ctx? u.ctx with
    | some (f, .wait a y cond _), some c =>
      if u.slot.isNone || u.state == 4 || s.fwHeld then s
      else
        match s.wordAt c a with
        | .here v => if wcondHolds cond v y then s.endHeld q f doneEnding else s
        | .there => if s.fabricOut.any fun r => r.owner == .packet q f.idx then s
            else s.remote c a.toNat (.read 8) (.packet q f.idx)
        | .bad (.pri k v) => s.request c.num true (.pri k v)
        | .bad (.cause _ _) => s.failWord q f 3 a
    | _, _ => s)

/-- WAIT_TIMEOUT: WTIME expires (R25, R36). -/
def execWaitTimeout (q : Nat) (s : State) : Out :=
  .next (match s.queue? q with
  | none => s
  | some u =>
    match u.holding with
    | some (f, .wait a _ _ time) =>
      if time = 0 ∨ u.slot.isNone ∨ u.state = 4 then s
      else (s.endHeld q f ⟨stFailed, 0x2a, 0, a⟩).stopQueue q 0x2a
    | _ => s)

/-- What SIGNAL leaves in its word (R23). -/
def signalOp (op : Nat) (m v : DWord) : DWord :=
  match op with
  | 0 => v
  | 1 => m + v
  | 2 => if m.toNat < v.toNat then v else m
  | _ => m ||| v

/-- SIGNAL's operation on a word of another package. -/
def signalRemote (op : Nat) (v : DWord) : ROp :=
  match op with
  | 0 => .write (leBytes 8 v.toNat)
  | 1 => .atomic .add true false v 0
  | 2 => .atomic .max true false v 0
  | _ => .atomic .or true false v 0

/-- The interrupt that a SIGNAL sends to its own context (R23). -/
def State.signalUi (s : State) (ctx : Nat) (ui : Option (BitVec 6 × DWord)) : State :=
  match ui with
  | some (v, p) => { s with agenda := s.agenda ++ [.uisendReceive ⟨.own, some ctx, 0, v, p⟩] }
  | none => s

/-- SIGNAL: the word is updated and UIVEC sent (R25, R409). -/
def execSignal (q : Nat) (s : State) : Out :=
  packetEvent q 4 true s fun s c q p fs =>
    let a : DWord := BitVec.ofNat 64 (fieldNum fs 0x30 0)
    let v : DWord := BitVec.ofNat 64 (fieldNum fs 0x31 0)
    let op := fieldNum fs 0x32 0
    let ui := (fieldOf fs 0x33).map fun f =>
      (BitVec.ofNat 6 (bitsOf f.val 0 8), BitVec.ofNat 64 (bitsOf f.val 32 64))
    let r := s.consumePkt q p none
    match s.wordAt c a with
    | .bad (.pri k x) => s.request c.num true (.pri k x)
    | .bad (.cause _ _) => r.1.failWord q.key r.2 4 a
    | .there => (r.1.hold q.key r.2 (.signal a ui)).remote c a.toNat (signalRemote op v) (.packet q.key r.2.idx)
    | .here m =>
      match r.1.writeVa c a.toNat (leBytes 8 (signalOp op m v).toNat) with
      | .error (.pri k x) => s.request c.num true (.pri k x)
      | .error (.cause _ _) => r.1.failWord q.key r.2 4 a
      | .ok t => (t.signalUi c.num ui).completeCmd q.key r.2 doneEnding noGrid noStation

/-- The CASE fields of a BRANCH in body order: condition, target, value (R23). -/
def casesOf (fs : List Field) : List (WCond × Word × DWord) :=
  (fs.filter fun f => f.tag == 0x41).map fun f =>
    (condOf (bitsOf f.val 0 8), BitVec.ofNat 32 (bitsOf f.val 32 32), BitVec.ofNat 64 (bitsOf f.val 64 64))

/-- The target that a BRANCH selects (R26). -/
def branchTarget (cases : List (WCond × Word × DWord)) (dflt : Word) (x : DWord) : Word :=
  ((cases.find? fun c => wcondHolds c.1 x c.2.2).map (·.2.1)).getD dflt

/-- A BRANCH completes and the packets before its target are skipped (R26). -/
def State.endBranch (s : State) (k : Nat) (f : Flight) (t : Word) : State :=
  let s := s.endHeld k f doneEnding
  match s.queue? k with
  | none => s
  | some q => s.setQueue { q with skipTo := some t }

/-- BRANCH (R26, R409). -/
def execBranch (q : Nat) (s : State) : Out :=
  packetEvent q 5 true s fun s c q p fs =>
    let a : DWord := BitVec.ofNat 64 (fieldNum fs 0x40 0)
    let dflt : Word := BitVec.ofNat 32 (fieldNum fs 0x42 0)
    let legal (t : Word) : Bool := decide (1 ≤ (t - p.seq).toNat) && decide ((t - p.seq).toNat < 2 ^ 31)
    let target (f : Field) : Word :=
      if f.tag = 0x42 then dflt else BitVec.ofNat 32 (bitsOf f.val 32 32)
    match fs.find? fun f => (f.tag == 0x41 || f.tag == 0x42) && !legal (target f) with
    | some f => s.rejectPkt q p.irq (rejected 0x29 0 f.head)
    | none =>
      let r := s.consumePkt q p none
      match s.wordAt c a with
      | .bad (.pri k x) => s.request c.num true (.pri k x)
      | .bad (.cause _ _) => r.1.failWord q.key r.2 5 a
      | .there => (r.1.hold q.key r.2 (.branch a (casesOf fs) dflt)).remote c a.toNat (.read 8)
          (.packet q.key r.2.idx)
      | .here v => r.1.endBranch q.key r.2 (branchTarget (casesOf fs) dflt v)

/- ### Barriers, caches and marks -/

/-- The command that a QWAIT names (R408); none where the index would be negative, so that there is
nothing to wait for. -/
def qwaitIdx (cmdidx : DWord) (seq : Nat) : Option Nat :=
  let base := cmdidx.toNat + 2 ^ 32 - 2 ^ 31
  let c := base + (seq + 2 ^ 32 - base % 2 ^ 32) % 2 ^ 32
  if c < 2 ^ 32 then none else some (c - 2 ^ 32)

/-- BARRIER: consumed; it waits for its own queue and the commands it names (R25, R408). CMDIDX of its own queue counts
the BARRIER itself (log entry 60: DESIGN CHOICE). -/
def execBarrier (q : Nat) (s : State) : Out :=
  packetEvent q 6 false s fun s _ q p fs =>
    let r := s.consumePkt q p none
    let names := (fs.filter fun f => f.tag == 0x50).filterMap fun f =>
      (s.queues.find? fun u => u.ctx == q.ctx && u.qnum == bitsOf f.val 0 32).bind fun u =>
        (qwaitIdx (if u.key = q.key then q.cmdidx + 1 else u.cmdidx) (bitsOf f.val 32 32)).map fun c =>
          (u.key, BitVec.ofNat 64 c)
    r.1.hold q.key r.2 (.barrier names)

/-- Whether a command of a queue has completed; those of a removed queue have (R408). -/
def State.cmdDone (s : State) (k : Nat) (c : DWord) : Bool :=
  match s.queue? k with
  | none => true
  | some q => decide (c.toNat < q.cmdidx.toNat) && q.flights.all fun f => f.idx != c

/-- BARRIER_SATISFIED (R408). -/
def execBarrierSatisfied (q : Nat) (s : State) : Out :=
  .next (match s.queue? q with
  | none => s
  | some u =>
    match u.holding with
    | some (f, .barrier names) =>
      if (u.flights.all fun x => x.idx == f.idx) && names.all (fun n => s.cmdDone n.1 n.2) && !s.fwHeld then
        s.endHeld q f doneEnding
      else s
    | _ => s)

/-- FLUSH: this model holds no dirty copy of a host line, so it is complete at once (R233; log entry
5). -/
def execFlush (q : Nat) (s : State) : Out :=
  packetEvent q 7 true s fun s _ q p _ => s.consumeDone q p doneEnding

/-- How far an image reaches from its address: past its header, entry table, descriptor, TLR table and code (R8). -/
def Image.extent (i : Image) : Nat :=
  [i.entOff + 16 * i.entries.length, i.descOff + 64, i.desc.tlroff + 64 * i.desc.tlrcnt,
    i.codeOff + i.codeLen].foldl Nat.max 64

/-- The instruction lines of a context over a range dropped from every core (R17, R92), and the accepted
images (R42). -/
def State.invalCode (s : State) (c : Ctx) (a n : Nat) : State :=
  { s with
    cores := s.cores.foldl (fun m e =>
      smSet Core.reset m e.1 { e.2 with icache := e.2.icache.filter fun l =>
        !(l.ctx == c.num && decide (l.va < a + n) && decide (a < l.va + 128)) }) s.cores
    acache := s.acache.foldl (fun m e =>
      smSet [] m e.1 (e.2.filter fun (i : Cached) =>
        let lo := i.img.addr.toNat
        !(i.ctx == c.num && decide (lo < a + n) && decide (a < lo + i.img.extent)))) s.acache }

/-- INVAL: TARGET 1 drops instruction lines; of host lines this model holds no copy (R17, R42, R92,
R233). -/
def execInval (q : Nat) (s : State) : Out :=
  packetEvent q 8 true s fun s c q p fs =>
    let rng := ((fieldOf fs 0x60).map (·.val)).getD []
    let s := if fieldNum fs 0x61 0 = 1 then s.invalCode c (bitsOf rng 0 64) (bitsOf rng 64 64) else s
    s.consumeDone q p doneEnding

/-- MARK: MTAG stands in the entry's address field (R23). -/
def execMark (q : Nat) (s : State) : Out :=
  packetEvent q 9 true s fun s _ q p fs =>
    s.consumeDone q p { doneEnding with addr := BitVec.ofNat 64 (fieldNum fs 0x70 0) }

/- ### Answers from another package -/

/-- The answer to the request of command idx of queue k (R237, R409); one that comes when the command no longer
holds its queue decides nothing. -/
def State.packetAck (s : State) (k : Nat) (idx : DWord) (r : RResp) : State :=
  match s.queue? k with
  | none => s
  | some q =>
    match q.holding.filter fun h => h.1.idx == idx, r with
    | some (f, .wait a _ _ _), .refused => s.failWord k f 3 a
    | some (f, .wait a _ _ _), .poisoned _ => s.failWord k f 3 a
    | some (f, .wait _ y cond _), .data bs =>
      if wcondHolds cond (BitVec.ofNat 64 (leNat bs)) y then s.endHeld k f doneEnding else s
    | some (f, .signal a _), .refused => s.failWord k f 4 a
    | some (f, .signal a _), .poisoned _ => s.failWord k f 4 a
    | some (f, .signal _ ui), _ => (s.signalUi q.ctx ui).endHeld k f doneEnding
    | some (f, .branch a _ _), .refused => s.failWord k f 5 a
    | some (f, .branch a _ _), .poisoned _ => s.failWord k f 5 a
    | some (f, .branch _ cases dflt), .data bs =>
      s.endBranch k f (branchTarget cases dflt (BitVec.ofNat 64 (leNat bs)))
    | _, _ => s

end Sys2Proof.Machine
end

