-- ==== Sys2Proof/Machine/Plat.lean ====
section
/-! DEFINITION. The plat (R52 to R58), the plat engine's events (R50, R51, R54, R61, R62, R69), the rows it
emits (R63), and the completion of pod grids at their origin (R61, R65, R320). -/

namespace Sys2Proof.Machine

/- ### Fields of plat words -/

/-- A field of a word. -/
def fld (w : DWord) (lo n : Nat) : Nat := w.toNat / 2 ^ lo % 2 ^ n
/-- A word with a field written. -/
def setFld (w : DWord) (lo n v : Nat) : DWord :=
  BitVec.ofNat 64 (w.toNat - fld w lo n * 2 ^ lo + v % 2 ^ n * 2 ^ lo)

/-- A plat word (R52). -/
def State.pw (s : State) (k : Nat) : DWord := platGet s.plat k
/-- The state with a plat word written. -/
def State.setPw (s : State) (k : Nat) (v : DWord) : State := { s with plat := platSet s.plat k v }
/-- A field of a plat word. -/
def State.pf (s : State) (k lo n : Nat) : Nat := fld (s.pw k) lo n
/-- The state with a field of a plat word written. -/
def State.setPf (s : State) (k lo n v : Nat) : State := s.setPw k (setFld (s.pw k) lo n v)

/-- The last closed station (R52). -/
def State.station (s : State) : DWord := s.pw 0
/-- A package's membership state: 0 ABSENT, 1 LIVE, 2 FENCED, 3 JOINING (R53). -/
def State.memState (s : State) (p : Nat) : Nat := s.pf (8 + p) 0 2
/-- RESERVE of a package (R53). -/
def State.reserve (s : State) (p : Nat) : Nat := s.pf (8 + p) 32 4
/-- SPARE of a package (R53). -/
def State.isSpare (s : State) (p : Nat) : Bool := s.pf (8 + p) 25 1 == 1

/-- No row (R52). -/
def noRow : Nat := 0xffff
/-- Word i of grid row g (R52, R57). -/
def rowWord (g i : Nat) : Nat := 2344 + 4 * g + i
/-- STATE of a grid row: 0 FREE, 1 WAITING, 2 RUNNING, 3 PARKED (R57). -/
def State.rowState (s : State) (g : Nat) : Nat := s.pf (rowWord g 0) 16 3
/-- ORIGIN of a grid row. -/
def State.rowOrigin (s : State) (g : Nat) : Nat := s.pf (rowWord g 0) 19 8
/-- NPKG of a grid row. -/
def State.rowN (s : State) (g : Nat) : Nat := s.pf (rowWord g 0) 27 9
/-- KPAR of a grid row. -/
def State.rowK (s : State) (g : Nat) : Nat := s.pf (rowWord g 0) 36 4
/-- RAN of a grid row. -/
def State.rowRan (s : State) (g : Nat) : Bool := s.pf (rowWord g 3) 33 1 == 1
/-- GROUP of a grid row. -/
def State.rowGroup (s : State) (g : Nat) : Nat := s.pf (rowWord g 3) 16 8
/-- The grid id of a row: GEN × 2^12 + row (R51). -/
def State.gridId (s : State) (g : Nat) : Nat := s.pf (rowWord g 0) 45 19 * 4096 + g
/-- The row that a grid id names while its GEN matches (R51). -/
def State.rowOf (s : State) (gid : Nat) : Option Nat :=
  if 2 ^ 31 ≤ gid then none
  else if s.gridId (gid % 4096) = gid then some (gid % 4096) else none

/-- Parcel entry j of package p (R58). -/
def State.parcelAt (s : State) (p j : Nat) : Nat := s.pf (18728 + 4 * p + j / 2) (32 * (j % 2)) 32
/-- The state with a parcel entry written. -/
def State.setParcel (s : State) (p j v : Nat) : State :=
  s.setPf (18728 + 4 * p + j / 2) (32 * (j % 2)) 32 v
/-- The parcels that grid row g holds on package p. -/
def State.heldBy (s : State) (g p : Nat) : List Nat :=
  (List.range 8).filter fun j =>
    decide (2 ^ 31 ≤ s.parcelAt p j) && s.parcelAt p j % 4096 == g
/-- The free offered parcels of a package, membership apart (R58, R62). -/
def State.freeParcels (s : State) (p : Nat) : List Nat :=
  (List.range (8 - s.reserve p)).filter fun j => decide (s.parcelAt p j < 2 ^ 31)

/- ### Lists of grid rows (R52) -/

/-- The rows that NEXT chains from a row on. -/
def State.chainFrom (s : State) : Nat → Nat → List Nat
  | 0, _ => []
  | fuel + 1, g => if g = noRow then [] else g :: s.chainFrom fuel (s.pf (rowWord g 1) 0 16)

/-- The NEXT fields of a list's rows. -/
def State.linkRows (s : State) : List Nat → State
  | [] => s
  | [g] => s.setPf (rowWord g 1) 0 16 noRow
  | g :: h :: t => (s.setPf (rowWord g 1) 0 16 h).linkRows (h :: t)

/-- The wait list. -/
def State.waitList (s : State) : List Nat := s.chainFrom 4096 (s.pf 3 0 16)
/-- The state with the wait list written: WAITHEAD, WAITTAIL, WAITCNT and the links. -/
def State.setWaitList (s : State) (l : List Nat) : State :=
  (((s.linkRows l).setPf 3 0 16 (l.headD noRow)).setPf 3 16 16 (l.getLast?.getD noRow)).setPf 3 32 16
    l.length
/-- The grids parked on row g, in parking order. -/
def State.depList (s : State) (g : Nat) : List Nat := s.chainFrom 4096 (s.pf (rowWord g 1) 16 16)
/-- The state with the list of grids parked on row g written. -/
def State.setDepList (s : State) (g : Nat) (l : List Nat) : State :=
  ((s.linkRows l).setPf (rowWord g 1) 16 16 (l.headD noRow)).setPf (rowWord g 1) 32 16
    (l.getLast?.getD noRow)
/-- A row taken off the list it is on: its NEXT is then empty. -/
def State.unlist (s : State) (g : Nat) : State :=
  let s := if s.rowState g = 1 then s.setWaitList (s.waitList.filter fun x => x != g)
    else if s.rowState g = 3 then
      let w := s.pf (rowWord g 1) 48 16
      if w = noRow then s
      else (s.setDepList w ((s.depList w).filter fun x => x != g)).setPf (rowWord g 1) 48 16 noRow
    else s
  s.setPf (rowWord g 1) 0 16 noRow

/- ### Rows for the packages (R63) -/

/-- An enactment row emitted; rows that name another package are discarded (R63). -/
def State.emit (s : State) (kind : RowKind) (g rank mask p lost spare : Nat) : State :=
  if p = s.pkg then
    { s with rows := s.rows ++
        [⟨s.station + 1, kind, rank, BitVec.ofNat 8 mask, p, s.gridId g, lost, spare⟩] }
  else s

/-- The mask of a list of parcels. -/
def maskOfParcels (js : List Nat) : Nat := (js.map fun j => 2 ^ j).sum

/-- The parcels of grid row g on package p freed, with a row of a kind for the package. -/
def State.freeOn (s : State) (g p : Nat) (kind : Option RowKind) : State :=
  let js := s.heldBy g p
  match js with
  | [] => s
  | j :: _ =>
    let rank := s.parcelAt p j / 4096 % 256
    let s' := js.foldl (fun s j => s.setParcel p j 0) s
    match kind with
    | some k => s'.emit k g rank (maskOfParcels js) p 0 0
    | none => s'

/-- The parcels of grid row g on every package freed. -/
def State.freeAll (s : State) (g : Nat) (kind : RowKind) : State :=
  (List.range s.npod).foldl (fun s p => s.freeOn g p (some kind)) s

/- ### Completion at the origin (R61, R65, R320) -/

/-- The bytes of a completion record written; a write that fails is lost and counted in the context's log (R320). -/
def State.writeRecord (s : State) (ctx : Nat) (addr : DWord) (bytes : List Byte) : State :=
  match s.ctx? ctx with
  | none => s
  | some c =>
    match s.writeVa c addr.toNat bytes with
    | .ok s => s
    | .error b => (s.priTold ctx b.addr).logCtx ctx kDenied 0x32 0 b.addr

/-- A completion record of `psub` written at an address of a context; it waits for the end of a firmware
switch (R320, R390). -/
def State.putRecord (s : State) (ctx : Nat) (addr : DWord) (seq : Word) (e : Ending) (grid : Word)
    (station : DWord) : State :=
  let bytes := leBytes 32 (station ++ grid ++ e.addr ++ e.unit ++ e.cls ++ 0#7 ++ 1#1 ++ 0#24 ++
    e.status ++ seq : BitVec 256).toNat
  if s.fwHeld then { s with fw := { s.fw with records := s.fw.records ++ [(ctx, addr, bytes)] } }
  else s.writeRecord ctx addr bytes

/-- A pod command completes: its entry or record, and its launch record back to the pool (R61, R65). -/
def State.endPodCmd (s : State) (p : PodCmd) (e : Ending) (grid : Word) (station : DWord) : State :=
  let s := { s with podCmds := s.podCmds.filter fun x => x.handle != p.handle }
  let s := s.poolFree p.ctx p.record
  match p.owner with
  | .cmd k idx seq irq => s.completeCmd k ⟨idx, seq, irq, none⟩ e grid station
  | .psub a seq => s.putRecord p.ctx a seq e grid station
  | .nobody => s

/-- The completion of grid `gid`, where this package holds the command that submitted it. -/
def State.completePod (s : State) (gid : Nat) (e : Ending) : State :=
  match s.podCmds.find? fun p => p.grid == some gid with
  | some p => s.endPodCmd p e (BitVec.ofNat 32 gid) p.station
  | none => s

/- ### Ending and placing (R61, R62) -/

/-- "End g" (R61); `quiet` for a grid whose origin is lost, of which nothing is written (R69). What this
package still holds of a grid that is not running goes with it. -/
def State.endRow (s : State) (g : Nat) (e : Ending) (quiet : Bool) : State :=
  let gid := s.gridId g
  let s := if s.rowState g = 2 then s
    else { s.dropPod gid (fun _ => true) with rows := s.rows.filter fun (r : Row) => r.grid != gid }
  let s := { s with launches := s.launches.filter fun e => e.1 != gid }
  let s := s.unlist g
  let s := s.freeAll g .finish
  let deps := s.depList g
  let s := s.setDepList g []
  let s := deps.foldl (fun s d => (s.setPf (rowWord d 0) 16 3 1).setPf (rowWord d 1) 48 16 noRow) s
  let s := if deps.isEmpty then s else s.setWaitList (deps ++ s.waitList)
  let s := if s.rowRan g then
      let r := s.rowGroup g
      ((List.range 8).foldl (fun s i => s.setPw (296 + 8 * r + i) 0) s).setPf (rowWord g 3) 16 8 0
    else s
  let s := (s.setPf (rowWord g 0) 16 3 0).setPf (rowWord g 3) 33 1 0
  if quiet then s else s.completePod gid e

/-- `fit_ceiling` (R62). -/
def State.fitCeiling (s : State) (k : Nat) : Nat :=
  ((List.range s.npod).filter fun p =>
    s.memState p == 1 && !s.isSpare p && decide (k ≤ 8 - s.reserve p)).length

/-- `placement_of` (R62): package, mask and rank. -/
def State.placementOf (s : State) (g : Nat) : Option (List (Nat × Nat × Nat)) :=
  let o := s.rowOrigin g
  let k := s.rowK g
  let ring := (List.range s.npod).map fun i => (o + i) % s.npod
  let cand := ring.filter fun p =>
    s.memState p == 1 && !s.isSpare p && decide (k ≤ (s.freeParcels p).length)
  if cand.length < s.rowN g then none
  else some (((cand.take (s.rowN g)).zip (List.range (s.rowN g))).map fun x =>
    (x.1, maskOfParcels ((s.freeParcels x.1).take k), x.2))

/-- The packages in the MASK of a group row (R56). -/
def State.groupMask (s : State) (r : Nat) : List Nat :=
  (List.range 256).filter fun p => s.pf (296 + 8 * r + p / 64) (p % 64) 1 == 1

/-- The state with the MASK of a group row written. -/
def State.setGroupMask (s : State) (r : Nat) (ps : List Nat) : State :=
  (List.range 4).foldl (fun s i =>
    s.setPw (296 + 8 * r + i) (BitVec.ofNat 64 ((ps.filter fun p => p / 64 == i).map fun p => 2 ^ (p % 64)).sum))
    s

/-- `run_wait_list` (R62); each turn takes one grid off the list, so the fuel is its length. -/
def State.runWaitList : Nat → State → State
  | 0, s => s
  | fuel + 1, s =>
    match s.waitList with
    | [] => s
    | g :: _ =>
      let n := s.rowN g
      let k := s.rowK g
      if s.fitCeiling k < n then
        State.runWaitList fuel
          (s.endRow g ⟨stFailed, 0x40, BitVec.ofNat 16 n, BitVec.ofNat 64 k⟩ false)
      else
        let free := (List.range 256).find? fun r => s.pf (296 + 8 * r + 4) 32 1 == 0
        match s.rowRan g, free, s.placementOf g with
        | false, none, _ => s
        | _, _, none => s
        | ran, free, some pl =>
          let s := s.unlist g
          let s := if ran then s
            else (s.setPf (rowWord g 3) 16 8 (free.getD 0)).setPf (296 + 8 * free.getD 0 + 4) 16 8 g
          let r := s.rowGroup g
          let s := s.setGroupMask r (pl.map (·.1))
          let w := 296 + 8 * r + 4
          let s := (pl.head?.map fun x => s.setPf w 24 8 x.1).getD s
          let s := (s.setPf w 0 16 (s.pf w 0 16 + 1)).setPf w 32 1 1
          let s := pl.foldl (fun s x =>
            let s := (List.range 8).foldl (fun s j =>
              if x.2.1 / 2 ^ j % 2 = 1 then s.setParcel x.1 j (2 ^ 31 + x.2.2 * 4096 + g) else s) s
            s.emit (if ran then .resume else .start) g x.2.2 x.2.1 x.1 0 0) s
          State.runWaitList fuel ((s.setPf (rowWord g 0) 16 3 2).setPf (rowWord g 3) 33 1 1)

/-- The wait list run as far as it goes. -/
def State.placeWaiting (s : State) : State := s.runWaitList 8192

/- ### Answers of the mailbox (R381) -/

/-- The mailbox of a function answers: response words 0 and on, BUSY cleared, vector 0 raised. -/
def State.mbAnswer (s : State) (fn status : Nat) (results : List DWord) : State :=
  match s.func? fn with
  | none => s
  | some f =>
    let w0 := smGet 0 f.mbreq 0
    let r0 : DWord := w0.extractLsb' 32 32 ++ 0#16 ++ BitVec.ofNat 8 status ++ w0.extractLsb' 0 8
    let words := r0 :: results
    let rsp := (List.range 8).foldl (fun m k => smSet 0 m k (words.getD k 0)) []
    (s.setFunc { f with mbrsp := rsp, busy := false, await := none }).raiseMsix fn 0

/-- The functions whose mailbox waits for something answered. -/
def State.mbWake (s : State) (what : MbAwait) (status : Nat) (results : List DWord) : State :=
  (s.funcs.filter fun f => f.await == some what).foldl (fun s f => s.mbAnswer f.num status results) s

/-- Mailbox operations that waited for events this package can no longer order are refused (R67, R383). -/
def State.mbGiveUp (s : State) : State :=
  let ordered (a : Option MbAwait) : Bool :=
    match a with
    | some (.rule _) => true
    | some (.unblock _) => true
    | some .join => true
    | _ => false
  (s.funcs.filter fun f => ordered f.await).foldl (fun s f => s.mbAnswer f.num 1 []) s

/- ### Events (R50, R51, R54, R61) -/

/-- Whether a record's type is listed and its reserved bits are zero; a LOSS counts only where the
closing appends it (R50, R51). -/
def evLegal (e : EvRec) (appended : Bool) : Bool :=
  let a := e.paramA
  match e.type.toNat with
  | 0 => true
  | 1 => e.flags == 0 && e.grid == 0 && fld a 29 3 == 0 && fld a 48 16 == 0
  | 2 => e.flags == 0 && a == 0 && e.paramB == 0
  | 3 => e.flags == 0 && fld a 32 32 == 0 && e.paramB == 0
  | 4 => e.flags == 0 && a == 0 && e.paramB == 0
  | 5 => e.flags == 0 && fld a 9 7 == 0 && fld a 32 32 == 0
  | 6 => appended
  | 7 => decide (e.flags.toNat < 3) && e.grid == 0 && fld a 8 56 == 0
  | 8 => e.flags == 0 && e.grid == 0 && fld a 32 32 == 0
  | _ => false

/-- Whether the first n membership rows keep R54. -/
def State.partnersOk (s : State) (n : Nat) : Bool :=
  (List.range n).all fun p =>
    let w := s.pw (8 + p)
    fld w 24 1 == 0 ||
      (let q := fld w 16 8
      fld (s.pw (8 + q)) 8 8 != fld w 8 8 &&
        (fld w 0 2 != 1 || s.memState q == 1 || s.memState q == 3))

/-- Whether a membership row image may be taken over (R54). -/
def State.imageOk (s : State) (v : DWord) : Bool :=
  fld v 36 28 == 0 && fld v 26 6 == 0 && fld v 2 6 == 0 && decide (fld v 32 4 ≤ 8) &&
    (fld v 24 1 == 0 || decide (fld v 16 8 < s.npod))

/-- A membership row with FEED, PARTNER, PARTV, SPARE and RESERVE of an image, and a state. -/
def State.setMember (s : State) (p : Nat) (v : DWord) (st : Nat) : State :=
  s.setPw (8 + p) (BitVec.ofNat 64
    (fld v 32 4 * 2 ^ 32 + fld v 25 1 * 2 ^ 25 + fld v 24 1 * 2 ^ 24 + fld v 16 8 * 2 ^ 16 +
      fld v 8 8 * 2 ^ 8 + st))

/-- PARTV cleared in every row whose partner is p (R54, R69). -/
def State.clearPartners (s : State) (p : Nat) : State :=
  (List.range s.npod).foldl (fun s q =>
    if s.pf (8 + q) 24 1 = 1 ∧ s.pf (8 + q) 16 8 = p then s.setPf (8 + q) 24 1 0 else s) s

/-- SUBMIT (R61). -/
def State.evSubmit (s : State) (st : DWord) (e : EvRec) : State :=
  let a := e.paramA
  let mine := e.origin.toNat == s.pkg
  let cmd := s.podCmds.find? fun p => p.handle == fld a 32 16 && p.grid.isNone
  match (List.range 4096).find? fun g => s.rowState g == 0 with
  | none =>
    (match mine, cmd with
    | true, some p => s.endPodCmd p ⟨stRejected, 0x41, 0, 0⟩ noGrid st
    | _, _ => s)
  | some g =>
    if s.pf 265 0 13 ≤ s.pf 3 32 16 then
      (match mine, cmd with
      | true, some p => s.endPodCmd p ⟨stRejected, 0x41, 0, 0⟩ noGrid st
      | _, _ => s)
    else
      let gen := (s.pf (rowWord g 0) 45 19 + 1) % 2 ^ 19
      let s := s.setPw (rowWord g 0) (BitVec.ofNat 64
        (gen * 2 ^ 45 + fld a 25 4 * 2 ^ 36 + fld a 16 9 * 2 ^ 27 + e.origin.toNat * 2 ^ 19 + 2 ^ 16 +
          fld a 0 16))
      let s := s.setPw (rowWord g 2) e.paramB
      let s := s.setPw (rowWord g 3) (BitVec.ofNat 64 (fld a 32 16))
      let gid := s.gridId g
      let s := match mine, cmd with
        | true, some p =>
          let s := { s with podCmds := s.podCmds.map fun (x : PodCmd) =>
              if x.handle = p.handle then { x with grid := some gid, station := st } else x }
          (match p.owner with
          | .psub addr seq => s.putRecord p.ctx addr seq ⟨0, 0, 0, 0⟩ (BitVec.ofNat 32 gid) st
          | _ => s)
        | _, _ => s
      (s.setWaitList (s.waitList ++ [g])).placeWaiting

/-- FINISH from package p (R61). -/
def State.evFinish (s : State) (p g : Nat) : State :=
  if s.rowState g ≠ 2 ∨ (s.heldBy g p).isEmpty then s
  else
    let gid := s.gridId g
    let s := s.freeOn g p none
    let s := if p = s.pkg then s.dropPod gid (·.complete) else s
    let s := s.setPf (rowWord g 3) 24 9 (s.pf (rowWord g 3) 24 9 + 1)
    let s := if s.pf (rowWord g 3) 24 9 = s.rowN g then s.endRow g doneEnding false else s
    s.placeWaiting

/-- Whether the chain of WAITON from w reaches g. -/
def State.waitsOn (s : State) (g : Nat) : Nat → Nat → Bool
  | 0, _ => false
  | fuel + 1, w =>
    w == g || (s.rowState w == 3 && s.pf (rowWord w 1) 48 16 != noRow &&
      s.waitsOn g fuel (s.pf (rowWord w 1) 48 16))

/-- BLOCK (R61): g parks on w. -/
def State.evBlock (s : State) (g w : Nat) : State :=
  if s.rowState g ≠ 2 ∨ s.rowState w = 0 ∨ w = g ∨ s.waitsOn g 4096 w then s
  else
    let s := s.freeAll g .stop
    let s := (s.setPf (rowWord g 0) 16 3 3).setPf (rowWord g 1) 48 16 w
    (s.setDepList w (s.depList w ++ [g])).placeWaiting

/-- UNBLOCK (R61), with whether the grid was parked. -/
def State.evUnblock (s : State) (g : Nat) : State :=
  if s.rowState g ≠ 3 then s
  else
    let s := (s.unlist g).setPf (rowWord g 0) 16 3 1
    (s.setWaitList (g :: s.waitList)).placeWaiting

/-- The lowest LIVE spare with k free offered parcels (R69). -/
def State.spareFor (s : State) (k : Nat) : Option Nat :=
  (List.range s.npod).find? fun p =>
    s.memState p == 1 && s.isSpare p && decide (k ≤ (s.freeParcels p).length)

/-- A rank of grid row g moved from a lost package to a spare, which takes its place in MASK, and in ROOT
with rank 0 (R56, R69 step 3, R302). -/
def State.moveRank (s : State) (g q t : Nat) : State :=
  let js := s.heldBy g q
  let rank := s.parcelAt q (js.headD 0) / 4096 % 256
  let s := js.foldl (fun s j => s.setParcel q j 0) s
  let new := (s.freeParcels t).take (s.rowK g)
  let s := new.foldl (fun s j => s.setParcel t j (2 ^ 31 + rank * 4096 + g)) s
  let r := s.rowGroup g
  let ps := (List.range 256).filter fun p => p == t || (p != q && (s.groupMask r).contains p)
  let s := s.setGroupMask r ps
  let w := 296 + 8 * r + 4
  let s := s.setPf w 0 16 (s.pf w 0 16 + 1)
  let s := if rank = 0 then s.setPf w 24 8 t else s
  let s := s.emit .takeover g rank (maskOfParcels new) t q t
  let s := ps.foldl (fun s p => if p = t then s else s.emit .notice g rank 0 p q t) s
  s.breakPod (s.gridId g) rank

/-- LOSS of package q at a station (R69). -/
def State.evLoss (s : State) (st : DWord) (q : Nat) : State :=
  let s := (s.setPf (8 + q) 0 2 2).clearPartners q
  let lost : Ending := ⟨stFailed, 0x43, BitVec.ofNat 16 q, st⟩
  let s := (List.range 4096).foldl (fun s g =>
    if (s.rowState g == 1 || s.rowState g == 3) && s.rowOrigin g == q then s.endRow g lost true else s) s
  let s := (List.range 4096).foldl (fun s g =>
    if (s.heldBy g q).isEmpty then s
    else
      match s.spareFor (s.rowK g) with
      | some t => s.moveRank g q t
      | none => s.endRow g lost (s.rowOrigin g == q)) s
  let s := (List.range 4096).foldl (fun s g =>
    if s.rowState g == 2 && s.rowOrigin g == q then
      s.setPf (rowWord g 0) 19 8 (s.pf (296 + 8 * s.rowGroup g + 4) 24 8)
    else s) s
  s.placeWaiting

/-- A JOIN of this package refused by the engine, or its ABANDON processed: the joiner hears of it (R54, R70, R383; log
entry 62: DESIGN CHOICE). -/
def State.joinEnds (s : State) (e : EvRec) (q : Nat) : State :=
  if e.origin.toNat = s.pkg ∧ q ≠ s.pkg then { s with outbox := s.outbox ++ [.join q .abandon] } else s

/-- JOIN (R54, R61). -/
def State.evJoin (s : State) (e : EvRec) : State :=
  let q := fld e.paramA 0 8
  let st := s.memState q
  if s.npod ≤ q then s
  else
    match e.flags.toNat with
    | 0 =>
      if st = 2 then s.setPf (8 + q) 0 2 3
      else if st = 0 then
        (let t := s.setMember q e.paramB 3
        if s.imageOk e.paramB && t.partnersOk s.npod then t else s.joinEnds e q)
      else s
    | 1 =>
      if st = 3 then
        (let t := s.setPf (8 + q) 0 2 1
        if t.partnersOk s.npod then
          (if q = s.pkg then t.mbWake .join 0 [] else t).placeWaiting
        else s.joinEnds e q)
      else s
    | _ =>
      if st = 3 then
        (let t := ((s.setPf (8 + q) 0 2 2).clearPartners q).joinEnds e q
        if q = s.pkg then t.mbWake .join 1 [] else t)
      else s

/-- RULESET (R54, R55, R61): the state, and whether the engine applied it. -/
def State.evRuleset (s : State) (st : DWord) (e : EvRec) : State × Bool :=
  let t := fld e.paramA 16 8
  let p := fld e.paramA 24 8
  let s' := s.setPf 2 0 16 (fld e.paramA 0 16)
  if t < 32 then
    (let v := e.paramB
    let ok := if t = 0 then decide (10 ≤ v.toNat) && decide (v.toNat ≤ 10000)
      else if t = 1 then decide (1 ≤ v.toNat) && decide (v.toNat ≤ 4096)
      else true
    if ok then (s'.setPw (264 + t) v, true) else (s, false))
  else if t = 0x40 then
    (let x := s'.setMember p e.paramB (s.memState p)
    if decide (p < s.npod) && s.imageOk e.paramB && x.partnersOk s.npod then (x.placeWaiting, true)
    else (s, false))
  else if t = 0x41 then
    let x := s'.setPw 4 e.paramB
    (if p = s.pkg ∧ s.fw.state = .verified ∧ s.fw.staged.id = e.paramB then
      x.beginSwitch st
    else x, true)
  else (s, false)

/-- One event of a station applied (R61); an illegal record counts as EMPTY, and its sender logs it (R50). -/
def State.platEvent (s : State) (st : DWord) (appended : Bool) (e : EvRec) : State :=
  if !evLegal e appended then
    (if e.origin.toNat = s.pkg then s.logPkg kDenied 0 s.pkg e.paramA else s)
  else
    let row := s.rowOf e.grid.toNat
    match e.type.toNat, row with
    | 1, _ => s.evSubmit st e
    | 2, some g => s.evFinish e.origin.toNat g
    | 3, some g =>
      (match s.rowOf (fld e.paramA 0 32) with
      | some w => s.evBlock g w
      | none => s)
    | 4, r =>
      let was : Bool := r.any fun g => s.rowState g == 3
      let s := match r with
        | some g => s.evUnblock g
        | none => s
      if e.origin.toNat = s.pkg then s.mbWake (.unblock e.grid.toNat) 0 [if was then 1 else 0] else s
    | 5, some g =>
      if e.grid = 0xffffffff ∨ s.rowState g = 0 then s
      else
        (s.endRow g ⟨if fld e.paramA 8 1 = 1 then stAborted else stFailed,
          BitVec.ofNat 8 (fld e.paramA 0 8), BitVec.ofNat 16 (fld e.paramA 16 16), e.paramB⟩
          false).placeWaiting
    | 6, _ => s.evLoss st (fld e.paramA 0 8)
    | 7, _ => s.evJoin e
    | 8, _ =>
      let r := s.evRuleset st e
      if e.origin.toNat = s.pkg then r.1.mbWake (.rule { e with pclose := 0 }) (if r.2 then 0 else 1) []
      else r.1
    | _, _ => s

end Sys2Proof.Machine
end

