-- ==== Sys2Proof/Machine/Enact.lean ====
section
/-! DEFINITION. Packet core 5 enacts the rows of the plat (R63 to R65, R78, R373, R374): starting, parking,
resuming and ending this package's rank of a pod grid, and the events START_OFFER and RAISE_FINISH. -/

namespace Sys2Proof.Machine

/- ### Launch records (R65) -/

/-- First offset of the launch-record window (R64). -/
def launchBase : Nat := 0x7f0000000000

/-- The HANDLE of a grid row (R57). -/
def State.rowHandle (s : State) (g : Nat) : Nat := s.pf (rowWord g 3) 0 16
/-- The PCTX of a grid row. -/
def State.rowPctx (s : State) (g : Nat) : BitVec 16 := BitVec.ofNat 16 (s.pf (rowWord g 0) 0 16)

/-- The physical address of the launch record of a handle, where this package is the origin that holds
it. -/
def State.recordAt (s : State) (h : Nat) : Option Nat :=
  (s.podCmds.find? fun p => p.handle == h).map (·.record)

/-- The launch record of a handle as this package serves it: its own, or the copy that it kept (R373). -/
def State.recordBytes (s : State) (h : Nat) : Option (List Byte) :=
  match s.recordAt h with
  | some a => some (s.dram.bytes a 8192)
  | none => (s.launches.find? fun e => (s.rowOf e.1).any fun r =>
      s.rowHandle r == h && s.rowOrigin r == s.pkg).map (·.2)

/-- A launch record that this package has read kept until the grid ends (R373). -/
def State.keepLaunch (s : State) (gid : Nat) (bs : List Byte) : State :=
  { s with launches := (s.launches.filter fun e => e.1 != gid) ++ [(gid, bs)] }

/-- Bytes written to a launch record of this package at an offset within it. -/
def State.putLaunch (s : State) (h off : Nat) (bs : List Byte) : State :=
  match s.recordAt h with
  | some a => s.putDram (a + off) bs
  | none =>
    let mine (gid : Nat) : Bool := (s.rowOf gid).any fun r => s.rowHandle r == h && s.rowOrigin r == s.pkg
    { s with launches := s.launches.map fun e =>
        if mine e.1 then (e.1, e.2.take off ++ bs ++ e.2.drop (off + bs.length)) else e }

/-- The directory entry of a rank written at the origin: here, or by a request (R65). -/
def State.putDirectory (s : State) (c : Ctx) (row rank w0 w1 : Nat) : State :=
  let bs := leBytes 8 w0 ++ leBytes 8 w1
  let off := 0x1000 + 16 * rank
  if s.rowOrigin row = s.pkg then s.putLaunch (s.rowHandle row) off bs
  else
    s.remote c (2 ^ 56 + s.rowOrigin row * 2 ^ 47 + launchBase + 0x2000 * s.rowHandle row + off)
      (.write bs) (.row (s.gridId row))

/-- The context bound to a pod context on this package (R64). -/
def State.podCtx (s : State) (x : BitVec 16) : Option Ctx := s.ctxs.find? fun c => c.pctx == some x

/-- FAULT raised for a grid (R51). -/
def State.raiseFault (s : State) (gid : Nat) (e : Ending) : State :=
  s.raiseEvent 5 0 (BitVec.ofNat 32 gid) (0#32 ++ e.unit ++ 0#7 ++ bit (e.status == stAborted) ++ e.cls)
    e.addr

/-- POD_LOSS of a row that cannot be read from its origin or its image's package (R64, R75). -/
def State.raiseLoss (s : State) (gid p : Nat) : State :=
  s.raiseFault gid ⟨stFailed, 0x43, BitVec.ofNat 16 p, s.station⟩

/- ### START, TAKEOVER and RESUME (R64, R65, R373) -/

/-- The takeover word of R373. -/
def State.takeoverWord (s : State) (q : Nat) : DWord :=
  BitVec.ofNat 64 (q % 256 + s.pf (8 + q) 16 8 * 2 ^ 8 + s.pf (8 + q) 24 1 * 2 ^ 16 + 2 ^ 17)

/-- The fields of a launch record in the form of a packet's (R65). -/
def recordFields (bs : List Byte) : List Field :=
  let n := bitsOf bs 32 16
  [⟨2, 0, (bs.drop 2).take 2⟩, ⟨3, 0, (bs.drop 16).take 12⟩] ++
    if n = 0 then [] else [⟨4, 0, (bs.drop 64).take n⟩]

/-- The local blocks on claimed parcels are pre-empted with code 3 (R78). -/
def State.claim (s : State) (mask : BitVec 8) : State :=
  s.preempt ((s.blocks.filter fun b => b.res == .resident && !b.ended &&
    mask.getLsbD (2 * b.die + b.quad / 24) &&
    (match s.grid? b.grid with
    | some g => !g.pod
    | none => false)).map (·.key)) 3 2

/-- What enacting a row comes to: enacted, or waiting. -/
inductive Enacted where
  | gone (s : State)
  | waits (s : State)

/-- The words of the traps that parked the lanes of a warp of the k-th block of a park list, seven words a trap (R345;
log entry 19: DESIGN CHOICE). A COPYF is raised again from its transfer's entry (R354). -/
def trapWords (k : Nat) (w : Warp) : List Nat :=
  let put (user : Nat) (t : Trap) : List Nat :=
    [t.lanes.toNat + t.len % 2 ^ 8 * 2 ^ 32 + w.num * 2 ^ 40 + user * 2 ^ 48, k, t.pc.toNat,
      t.words.w0.toNat, t.words.w1.toNat, t.words.w2.toNat, t.words.w3.toNat]
  (w.straps.map (put 0) ++ (w.utraps.filter fun t => t.xfer.isNone).map (put 1)).flatten

/-- The traps of a park list's k-th block given back to its warps. -/
def Block.withTraps (b : Block) (k : Nat) (ws : List Nat) : Block :=
  (List.range (ws.length / 7)).foldl (fun b i =>
    let get (j : Nat) : Nat := ws.getD (7 * i + j) 0
    let word (j : Nat) : DWord := BitVec.ofNat 64 (get j)
    if get 1 ≠ k then b
    else
      match b.warp? (get 0 / 2 ^ 40 % 2 ^ 8) with
      | none => b
      | some w =>
        let t : Trap := ⟨⟨word 3, word 4, word 5, word 6⟩, BitVec.ofNat 32 (get 0), word 2, get 0 / 2 ^ 32 % 2 ^ 8,
          none⟩
        b.setWarp (if get 0 / 2 ^ 48 % 2 = 1 then { w with utraps := w.utraps ++ [t] }
          else { w with straps := w.straps ++ [t] })) b

/-- How far dispatch of a grid's quartets had come, as a word: the lowest not placed, and whether the last one is
(R65, R81; log entry 19: DESIGN CHOICE). -/
def Grid.dispatchWord (g : Grid) : Nat := g.nextQuartet + if g.ahead.isEmpty then 0 else 2 ^ 63

/-- A grid with the dispatch that such a word tells. -/
def Grid.withDispatch (g : Grid) (v : Nat) : Grid :=
  { g with nextQuartet := v % 2 ^ 63, ahead := if 2 ^ 63 ≤ v then [g.quartets - 1] else [] }

/-- The words of a park list (R65): NBLK and the save layout, the blocks' areas, and then what the model's own park
list holds besides, which is how far dispatch has come and the traps of parked lanes (log entry 19: DESIGN CHOICE). -/
def State.parkList (s : State) (g : Grid) (bs : List Block) : List Nat :=
  let traps := (((List.range bs.length).zip bs).map fun x => (x.2.warps.map (trapWords x.1)).flatten).flatten
  (bs.length + s.saveLayout * 2 ^ 32) :: bs.map (·.key) ++ [g.dispatchWord, traps.length] ++ traps

/-- The record of a pod grid's rank that this package runs or restores (R64). -/
def State.rankHere (s : State) (gid rank : Nat) : Option Grid :=
  s.grids.find? fun g => g.pod && g.pid == gid && g.rank == rank && g.park == 0

/-- The record of a rank whose park list at `list` this package holds (R65). -/
def State.parkedAs (s : State) (gid list : Nat) : Option Grid :=
  s.grids.find? fun g => g.pod && g.pid == gid && g.park == list

/-- The identifier of a new record of pod grid `gid`: another record's is not free (R64; log entry 59: DESIGN
CHOICE). -/
def State.recordId (s : State) (gid : Nat) : Nat :=
  (((List.range (s.grids.length + 1)).map fun k => gid + 2 ^ 32 * k).find? fun i => (s.grid? i).isNone).getD gid

/-- This package's record of a grid for its rank, from a launch record; the row waits for a host page, or
FAULT says why the grid cannot run here (R18, R64, R89). A RESUME makes an argument copy too, at an address of its
own (R19; log entry 60: DESIGN CHOICE). -/
def State.admitGrid (s : State) (r : Row) (row : Nat) (bs : List Byte) (c : Ctx) : Enacted :=
  let fs := recordFields bs
  match s.readImage c 5 (fieldNum fs 2 0) (BitVec.ofNat 64 (bitsOf bs 64 64)) with
  | .waits s => .waits s
  | .reject e => .gone ((s.priTold c.num e.addr).raiseFault r.grid { e with status := stFailed })
  | .ok s img =>
    if img.check ≠ s.pw (rowWord row 2) then
      .gone (s.raiseFault r.grid ⟨stFailed, 0x44, BitVec.ofNat 16 s.pkg, img.check⟩)
    else if c.poolSize < img.desc.area then
      .gone (s.raiseFault r.grid { poolEnding c img.desc.area with status := stFailed })
    else
      match s.argCopy c (((fieldOf fs 4).map (·.val)).getD []) with
      | none => .gone (s.raiseFault r.grid { poolEnding c img.desc.area with status := stFailed })
      | some (s, phys, va) =>
        .gone ({ s with grids := s.grids ++ [{ newGrid c img fs phys va with
            id := s.recordId r.grid, pod := true, rank := r.rank, nrank := s.rowN row, parcels := r.mask
            takeover := if r.kind = RowKind.takeover then s.takeoverWord r.lost else 0
            offered := false }] }.claim r.mask)

/-- A block that returns from a park image: its record before its image is read (R65). -/
def parkedBlock (s : State) (g : Grid) (key : Nat) : Block :=
  let h (off n : Nat) : Nat := leNat (s.dram.bytes (key + off) n)
  let lin := h 32 4 + g.gx * (h 36 4 + g.gy * h 40 4)
  let k := lin - g.rankFirst g.rank
  let spawned := bitsOf (s.dram.bytes key 8) 27 1 == 1
  { Block.blank with
    key := key, grid := g.id, rank := g.rank, lin := lin, quartet := k / 4, member := k % 4
    bx := BitVec.ofNat 32 (h 32 4), by_ := BitVec.ofNat 32 (h 36 4), bz := BitVec.ofNat 32 (h 40 4)
    spawned := spawned, parent := h 48 8, det := g.img.desc.det, res := .swapped, valid := true
    die := nowhere, begun := true
    warps := (List.range g.img.desc.warps).map fun w => Warp.start w 0 g.cb 0 0 }

/-- What the lanes of a parked entry wait for, as the instruction at which they stand says (R249, R313, R329, R352; log
entry 18: DEDUCED). -/
def State.parkedWaits (s : State) (c : Ctx) (w : Warp) (e : Entry) : List Wait :=
  let ls := lanes.filter fun l => e.mask.getLsbD l
  match e.park.toNat, decode (s.codeWords c e.pc) with
  | 3, .ok (.waitv k a off b cond ann w64 sp) =>
    ls.map fun l => (⟨l, e.pc + BitVec.ofNat 64 (Instr.waitv k a off b cond ann w64 sp).bytes,
      .waitv sp (w.addr sp (.vec a off) l) w64 cond (w.operand b w64 l) ann⟩ : Wait)
  | 4, .ok (.uiwait wk) => ls.map fun l => (⟨l, e.pc + BitVec.ofNat 64 (Instr.uiwait wk).bytes, .uiwait⟩ : Wait)
  | 5, .ok (.bar wk sc slot n pv) =>
    ls.map fun l => (⟨l, e.pc + BitVec.ofNat 64 (Instr.bar wk sc slot n pv).bytes,
      .bar slot.toNat sc n.toNat pv⟩ : Wait)
  | _, _ => []

/-- A warp read from a park image: its frontier stands as saved, and its lanes wait for what they waited for (R349). -/
def State.rebuildWarp (s : State) (c : Ctx) (w : Warp) : Warp :=
  let w := { w with waits := (w.frontier.map (s.parkedWaits c w)).flatten }
  if w.arrival.isSome then w.countArrival else w

/-- The blocks of park images that have arrived, with the traps of their parked lanes (R65, R140, R345). -/
def State.addParked (s : State) (c : Ctx) (g : Grid) (keys traps : List Nat) : State :=
  ((List.range keys.length).zip keys).foldl (fun s x =>
    match s.loadBlock (parkedBlock s g x.2) g with
    | .ok b =>
      let b := { b with warps := b.warps.map fun (w : Warp) =>
          let w := s.rebuildWarp c w
          { w with hasEnded := w.frontier.isEmpty } }
      { s with blocks := s.blocks ++ [({ b with ended := b.warps.all fun w => w.hasEnded } : Block).withTraps x.1 traps] }
    | .form w a => s.raiseFault g.pid ⟨stFailed, 0x50, BitVec.ofNat 16 w, BitVec.ofNat 64 a⟩
    | .uncorr a => (s.logUse c.num 0 a).raiseFault g.pid ⟨stFailed, 0x90, 0, BitVec.ofNat 64 a⟩) s

/-- A parked rank of this package goes on with new parcels (R65). -/
def State.unparkHere (s : State) (r : Row) (c : Ctx) (row list : Nat) (g : Grid) : State :=
  let s := (s.poolFree c.num list).setGrid { g with
    stopped := false, park := 0, parcels := r.mask, offered := false }
  (s.putDirectory c row r.rank 0 0).claim r.mask

/-- A row that starts or resumes this package's rank, once its launch record is read (R64, R65). -/
def State.enactRecord (s : State) (r : Row) (row : Nat) (bs : List Byte) : Enacted :=
  match s.podCtx (s.rowPctx row) with
  | none => .gone (s.raiseFault r.grid ⟨stFailed, 0x45, BitVec.ofNat 16 s.pkg, 0#48 ++ s.rowPctx row⟩)
  | some c =>
    let s := s.keepLaunch r.grid bs
    if r.kind ≠ .resume then s.admitGrid r row bs c
    else
      let w0 := bitsOf bs ((0x1000 + 16 * r.rank) * 8) 64
      let list := bitsOf bs ((0x1008 + 16 * r.rank) * 8) 64
      let p := w0 % 256
      if w0 / 256 % 2 = 0 then .waits s
      else if p = s.pkg then
        .gone (match s.parkedAs r.grid list with
        | some g => s.unparkHere r c row list g
        | none => s)
      else
        let id := s.recordId r.grid
        match s.admitGrid r row bs c with
        | .waits s => .waits s
        | .gone t =>
          match t.grid? id with
          | none => .gone t
          | some g =>
            .gone (({ t with parked := t.parked ++ [(⟨id, p, list, [], [], none, []⟩ : Parked)] }.setGrid
              { g with stopped := true }).remote c (2 ^ 56 + p * 2 ^ 47) (.park list 8) (.row id))

/-- The area of a member that has ended and whose quartet goes on, for a park list (R65, R84). -/
def State.endedArea (s : State) (g : Grid) (k : Nat) : Option State :=
  match s.block? k, s.ctx? g.ctx with
  | some b, some c =>
    if b.key < 2 ^ 64 then some ((s.saveBlock b g 0).setBlock { b with res := .swapped, valid := true })
    else
      (c.alloc g.img.desc.area 4096).map fun r =>
        let b := { b with key := r.1, res := .swapped, valid := true }
        { s.setCtx r.2 with blocks := s.blocks.map fun (x : Block) => if x.key = k then b else x }.saveBlock b g 0
  | _, _ => some s

/-- The park list of a stopped rank and its directory entry (R65); none while the pool lacks room. -/
def State.parkRank (s : State) (row : Nat) (g : Grid) : Option State :=
  let gone := s.blocks.filter fun b => b.grid == g.id && b.ended
  (gone.foldl (fun o b => o.bind fun s => s.endedArea g b.key) (some s)).bind fun s =>
    let words := s.parkList g (s.blocks.filter fun b => b.grid == g.id)
    (s.ctx? g.ctx).bind fun c => (c.alloc (8 * words.length) 8).map fun r =>
      (((s.setCtx r.2).putDram r.1 ((words.map (leBytes 8)).flatten)).setGrid { g with park := r.1 }).putDirectory
        r.2 row g.rank (s.pkg + 256) r.1

/-- One row at the head enacted as far as it can be (R64). -/
def State.enactRow (s : State) (r : Row) : Enacted :=
  match r.kind, s.rowOf r.grid, s.rankHere r.grid r.rank with
  | .finish, _, _ => .gone (s.dropPod r.grid fun _ => true)
  | .notice, some row, _ =>
    .gone (match s.podCtx (s.rowPctx row) with
    | some c => { s with agenda := s.agenda ++ [.uisendReceive ⟨.own, some c.num, 0, 63,
        BitVec.ofNat 64 (r.lost % 256 + r.spare % 256 * 2 ^ 8 + r.rank % 256 * 2 ^ 16 + r.grid * 2 ^ 32)⟩] }
    | none => s)
  | .stop, some _, none => .gone s
  | .stop, some row, some g =>
    if s.parked.any fun p => p.grid == g.id then .waits s
    else if !g.stopped then
      .waits ((s.setGrid { g with stopped := true }).preempt
        ((s.blocks.filter fun b => b.grid == g.id && b.res == .resident).map (·.key)) 2 2)
    else
      let s := s.sweep g.id
      if s.blocks.all fun b => b.grid != g.id || b.ended || (b.res == .swapped && b.valid) then
        (match s.parkRank row g with
        | some s => .gone s
        | none => .waits s)
      else .waits s
  | _, none, _ => .gone s
  | _, some row, _ =>
    if s.rowState row ≠ 2 then .gone s
    else if s.rowOrigin row = s.pkg then
      (match s.recordBytes (s.rowHandle row) with
      | some bs => s.enactRecord r row bs
      | none => .gone (s.raiseLoss r.grid s.pkg))
    else if s.fabricOut.any fun (o : ROut) => o.owner == .row r.grid && (match o.req.op with
        | .read _ => true
        | _ => false) then .waits s
    else
      match s.podCtx (s.rowPctx row) with
      | none =>
        .gone (s.raiseFault r.grid ⟨stFailed, 0x45, BitVec.ofNat 16 s.pkg, 0#48 ++ s.rowPctx row⟩)
      | some c =>
        .waits (s.remote c (2 ^ 56 + s.rowOrigin row * 2 ^ 47 + launchBase + 0x2000 * s.rowHandle row)
          (.read 8192) (.row r.grid))

/-- The rows enacted in order until one waits (R64). A fenced package enacts nothing (R67). -/
def State.enactRows : Nat → State → State
  | 0, s => s
  | fuel + 1, s =>
    match s.rows with
    | [] => s
    | r :: rest =>
      if s.trav.role = .fenced ∨ s.fwHeld then s
      else
        match s.enactRow r with
        | .gone t => State.enactRows fuel { t with rows := rest }
        | .waits t => t

/-- The rows enacted as far as they go. -/
def State.enact (s : State) : State := s.enactRows (s.rows.length + 1)

/-- Barrier arrivals that came before this package knew the grid, taken up again (R301). -/
def State.takeHeld (s : State) (gid : Nat) : State :=
  let mine (r : RReq) : Bool :=
    match r.op with
    | .arrive g _ _ => g == gid
    | _ => false
  { s with
    agenda := s.agenda ++ (s.heldRemote.filter mine).map Instr.remoteAccess
    heldRemote := s.heldRemote.filter fun r => !mine r }

/-- START_OFFER: the claimed parcels hold no local block, and the rank's blocks are offered (R64, R78); a
row that waited is tried again. -/
def execStartOffer (g : Nat) (s : State) : Out :=
  .next (
    let s := s.enact
    match s.grid? g with
    | none => s
    | some gr =>
      let local_ := s.blocks.any fun b => b.res == .resident && !b.ended &&
        gr.parcels.getLsbD (2 * b.die + b.quad / 24) &&
        (match s.grid? b.grid with
        | some h => !h.pod
        | none => false)
      if !gr.pod || gr.offered || gr.ending.isSome || local_ then s
      else (s.setGrid { gr with offered := true }).takeHeld gr.pid)

/-- RAISE_FINISH: a rank whose blocks have all ended raises FINISH (R51, R79). -/
def execRaiseFinish (g : Nat) (s : State) : Out :=
  .next (
    let s := s.sweep g
    match s.grid? g with
    | none => s
    | some gr =>
      if gr.pod && gr.offered && !gr.complete && !gr.stopped && gr.ending.isNone && gr.allPlaced &&
          s.blocks.all fun b => b.grid != g then
        (s.setGrid { gr with complete := true }).raiseEvent 2 0 (BitVec.ofNat 32 gr.pid) 0 0
      else s)

/- ### Answers to a row's requests -/

/-- A park image read: the next one is asked for; after the last the rank's blocks stand swapped out here
and the images are released (R65). -/
def State.parkNext (s : State) (c : Ctx) (g : Grid) (p : Parked) : State :=
  let others := s.parked.filter fun x => x.grid != p.grid
  match p.areas with
  | a :: _ =>
    { s with parked := others ++ [p] }.remote c (2 ^ 56 + p.pkg * 2 ^ 47) (.park a g.img.desc.area)
      (.row g.id)
  | [] =>
    let s := { s with parked := others }.addParked c g p.got p.traps
    let s := s.setGrid { g with stopped := false }
    let s := match s.rowOf g.pid with
      | some row => s.putDirectory c row g.rank 0 0
      | none => s
    s.remote c (2 ^ 56 + p.pkg * 2 ^ 47) (.unpark g.pid p.list) (.row g.id)

/-- Bytes of a park image in an area of this package's pool, with their poison (R65, R363); none without room. -/
def State.takeImage (s : State) (c : Ctx) (bs : List Byte) (bad : List Nat) (al : Nat) : Option (State × Nat × Ctx) :=
  (c.alloc bs.length al).map fun r =>
    let s := (s.setCtx r.2).putDram r.1 bs
    let marks := bad.map fun k => ((0 : Nat), (r.1 + 8 * k) / 8)
    ({ s with poison := s.poison ++ marks.filter fun m => !s.poison.contains m }, r.1, r.2)

/-- A part of a rank's park images read (R65): the head of the park list, the list with what stands behind the areas, an
area, or the stopped-transfer list that an area names (R354). -/
def State.parkPart (s : State) (c : Ctx) (g : Grid) (p : Parked) (addr n : Nat) (bs : List Byte) (bad : List Nat) :
    State :=
  let ask (s : State) (p : Parked) (c : Ctx) (a n : Nat) : State :=
    { s with parked := (s.parked.filter fun (x : Parked) => x.grid != p.grid) ++ [p] }.remote c (2 ^ 56 + p.pkg * 2 ^ 47)
      (.park a n) (.row g.id)
  let blk := bitsOf bs 0 32
  let word (k : Nat) : Nat := bitsOf bs (64 * k) 64
  let room (r : Option (State × Nat × Ctx)) (go : State → Nat → Ctx → State) : State :=
    match r with
    | none => s.raiseFault g.pid { poolEnding c g.img.desc.area with status := stFailed }
    | some (s, a, c) => go s a c
  if addr = p.list then
    (if n = 8 then ask s p c p.list (8 * (3 + blk))
    else if n < 8 * (3 + blk + word (blk + 2)) then ask s p c p.list (8 * (3 + blk + word (blk + 2)))
    else
      let g := g.withDispatch (word (blk + 1))
      (s.setGrid g).parkNext c g { p with
        areas := (List.range blk).map fun k => word (k + 1)
        traps := (List.range (word (blk + 2))).map fun k => word (blk + 3 + k) })
  else
    match p.xfers with
    | none =>
      room (s.takeImage c bs bad 4096) fun s a c =>
        let p := { p with areas := p.areas.drop 1, got := p.got ++ [a] }
        let cnt := bitsOf bs (0x4414 * 8) 32
        let list := bitsOf bs (0x4418 * 8) 64
        if cnt = 0 then s.parkNext c g p else ask s { p with xfers := some list } c list (64 * cnt)
    | some _ =>
      room (s.takeImage c bs bad 256) fun s a c =>
        (s.putDram (p.got.getLast?.getD 0 + 0x4418) (leBytes 8 a)).parkNext c g { p with xfers := none }

/-- The answer to a row's request: a launch record, a park list, or a park image; a refusal is POD_LOSS
(R64, R65). -/
def State.rowAck (s : State) (gid : Nat) (op : ROp) (dst : Nat) (r : RResp) : State :=
  match op, r with
  | .read _, .data bs =>
    (match s.rows, s.rowOf gid with
    | h :: rest, some row =>
      if h.grid ≠ gid then s
      else
        (match s.enactRecord h row bs with
        | .gone t => { t with rows := rest }.enact
        | .waits t => t)
    | _, _ => s)
  | .read _, _ =>
    (match s.rows with
    | h :: rest => if h.grid = gid then { (s.raiseLoss gid dst) with rows := rest }.enact else s
    | [] => s)
  | .park addr n, .image bs bad =>
    (match s.parked.find? fun p => p.grid == gid, s.grid? gid with
    | some p, some g =>
      (match s.ctx? g.ctx with
      | none => s
      | some c => s.parkPart c g p addr n bs bad)
    | _, _ => s)
  | .park _ _, _ => { s.raiseLoss (gid % 2 ^ 32) dst with parked := s.parked.filter fun p => p.grid != gid }
  | _, _ => s

end Sys2Proof.Machine
end

