-- ==== Sys2Proof/Machine/Traverse.lean ====
section
/-! DEFINITION. The traverse (R46 to R50, R59, R60, R66, R67, R70 to R72): batches, closing a station,
votes, exclusion, joining, and the instructions `psub` and `pyld` (R320, R321). -/

namespace Sys2Proof.Machine

/- ### Members and batches -/

/-- The members of the open station (R46). -/
def State.members (s : State) : List Nat := (List.range s.npod).filter fun p => s.memState p == 1

/-- The batch held from a member for the open station. -/
def State.batchOf (s : State) (p : Nat) : Option Batch := s.trav.batches.find? fun b => b.sender == p

/-- The members whose batch is missing. -/
def State.missing (s : State) : List Nat := s.members.filter fun p => (s.batchOf p).isNone

/-- The closure word that a batch carries (R47). -/
def Batch.pclose (b : Batch) : DWord := (b.recs.head?.map (·.pclose)).getD 0

/-- The EMPTY record of a package with nothing to send (R47, R51). -/
def emptyRec (p : Nat) : EvRec := ⟨0, BitVec.ofNat 8 p, 0, 0, 0, 0, 0⟩

/-- Whether this package may send batches. -/
def State.isMember (s : State) : Bool := s.trav.role == .member && s.memState s.pkg == 1

/- ### Votes (R66, R67) -/

/-- The mask of packages. -/
def pkgMask (ps : List Nat) : BitVec 256 := BitVec.ofNat 256 (ps.map fun p => 2 ^ p).sum

/-- A vote kept; a later one of the same voter replaces it (R66). -/
def State.keepVote (s : State) (voter : Nat) (m : BitVec 256) : State :=
  { s with trav := { s.trav with
      votes := (s.trav.votes.filter fun (v : Vote) => v.voter != voter) ++ [⟨voter, m⟩] } }

/-- This package's vote against the members whose batches it lacks (R66). -/
def State.castVote (s : State) (ps : List Nat) : State :=
  { s.keepVote s.pkg (pkgMask ps) with
    outbox := s.outbox ++ [.vote (s.station + 1) (pkgMask ps)] }

/-- BATCH_SEND: the oldest 64 events, or EMPTY, go to every member with this package's closure word; one
batch a station (R47, R48). A member found unreachable before then is voted against now (R66). -/
def execBatchSend (s : State) : Out :=
  .next (
    let t := s.trav
    if !s.isMember || t.sent || (t.pend.isEmpty && t.batches.isEmpty && t.suspects.isEmpty) then s
    else
      let recs := (if t.pend.isEmpty then [emptyRec s.pkg] else t.pend.take 64).map fun e =>
        { e with pclose := s.pw 1 }
      let s := { s with
        trav := { t with sent := true, pend := t.pend.drop 64, batches := t.batches ++ [⟨s.pkg, recs⟩] }
        outbox := s.outbox ++ [.batch (s.station + 1) recs] }
      if t.suspects.any s.missing.contains then s.castVote s.missing else s)

/-- The members that the latest votes of more than half of the members name (R67). -/
def State.outvoted (s : State) : List Nat :=
  s.missing.filter fun q =>
    decide (s.members.length <
      2 * (s.trav.votes.filter fun v => s.members.contains v.voter && v.suspect.getLsbD q).length)

/-- SUSPECT_TIMEOUT (R66): a vote against every member whose batch is missing. -/
def execSuspectTimeout (s : State) : Out :=
  .next (
    if !s.isMember || !s.trav.sent || s.missing.isEmpty then s else s.castVote s.missing)

/-- Batches that a vote names forwarded to the voter (R66). -/
def State.forwardNamed (s : State) (voter : Nat) (station : BitVec 64) (m : BitVec 256)
    (held : List Batch) : State :=
  { s with outbox := s.outbox ++ (held.filter fun b => m.getLsbD b.sender).map fun b =>
      .forward voter station b.sender b.recs }

/-- A vote for a later station kept until that station opens. -/
def State.keepLater (s : State) (voter : Nat) (station : BitVec 64) (m : BitVec 256) : State :=
  { s with trav := { s.trav with
      laterVotes := (s.trav.laterVotes.filter fun p => p.1 != station || p.2.voter != voter) ++
        [(station, ⟨voter, m⟩)] } }

/-- VOTE_RECEIVE: the vote is kept, and batches that it names and this package holds are forwarded, those
of the station closed last too (R66). -/
def execVoteReceive (voter : Nat) (station : BitVec 64) (suspect : BitVec 256) (s : State) : Out :=
  .next (
    if !s.isMember || !s.members.contains voter then s
    else if station = s.station + 1 then
      (s.keepVote voter suspect).forwardNamed voter station suspect s.trav.batches
    else if station = s.station then s.forwardNamed voter station suspect s.trav.closed
    else if s.station.toNat < station.toNat then
      (s.keepLater voter station suspect).forwardNamed voter station suspect
        ((s.trav.later.filter fun p => p.1 == station).map (·.2))
    else s)

/-- BATCH_RECEIVE: a member's batch for the open or a later station is held; a batch that this package's
vote named brings a new vote (R47, R66, R70). A package outside the pod that asked no sponsor receives
none (R46). -/
def execBatchReceive (station : BitVec 64) (sender : Nat) (recs : List EvRec) (s : State) : Out :=
  .next (
    let b : Batch := ⟨sender, recs.take 64⟩
    let inside := s.trav.role == .member || s.trav.role == .replaying
    if recs.isEmpty || (if inside then station != s.station + 1 && decide (station.toNat ≤ s.station.toNat)
        else s.trav.sponsor.isNone) then s
    else if station = s.station + 1 ∧ inside then
      (if !s.members.contains sender || (s.batchOf sender).isSome then s
      else
        let s := { s with trav := { s.trav with batches := s.trav.batches ++ [b] } }
        match s.trav.votes.find? fun v => v.voter == s.pkg with
        | some v => if v.suspect.getLsbD sender then s.castVote s.missing else s
        | none => s)
    else if s.trav.later.any fun p => p.1 == station && p.2.sender == sender then s
    else { s with trav := { s.trav with later := s.trav.later ++ [(station, b)] } })

/- ### Closing (R49, R59, R60) -/

/-- A word rotated left. -/
def rotl (v : DWord) (n : Nat) : DWord := v.rotateLeft (n % 64)

/-- The words of two plats that differ, but for words 0 and 1, ascending (R60). -/
def changedWords (p q : List (Nat × DWord)) : List Nat :=
  let keys := (p ++ q).foldl (fun (m : List (Nat × Nat)) e => smSet 0 m e.1 1) []
  (keys.map (·.1)).filter fun k => decide (2 ≤ k) && platGet p k != platGet q k

/-- fold(k) over the words in order (R60). -/
def foldWords (ws : List DWord) : DWord :=
  ((List.range ws.length).zip ws).foldl (fun v e => v ^^^ rotl e.2 e.1) 0

/-- The winning PCLOSE of a station's batches (R60). -/
def winning (bs : List Batch) : DWord :=
  let votes (v : DWord) : Nat := (bs.filter fun b => b.pclose == v).length
  (bs.foldl (fun (m : DWord × Nat) b => if m.2 < votes b.pclose then (b.pclose, votes b.pclose) else m)
    (0, 0)).1

/-- A fenced package stops: its row is FENCED, its pod grids are reset and its own pod commands end with
POD_FENCED (R67, R74, R75). -/
def State.fenceSelf (s : State) (st : DWord) : State :=
  let s := s.setPf (8 + s.pkg) 0 2 2
  let s := { s with rows := [], parked := [], launches := [], trav := { Traverse.reset with role := .fenced } }
  let s := (s.grids.filter (·.pod)).foldl (fun s g => s.dropGrid g.id) s.mbGiveUp
  s.podCmds.foldl (fun s p => s.endPodCmd p ⟨stAborted, 0x42, BitVec.ofNat 16 s.pkg, st⟩
    ((p.grid.map fun g => BitVec.ofNat 32 g).getD noGrid) (if p.grid.isSome then p.station else noStation)) s

/-- The LOSS record that the closing appends (R49, R51). -/
def lossRec (p : Nat) (byVote : Bool) : EvRec :=
  ⟨6, BitVec.ofNat 8 p, if byVote then 1 else 2, 0, BitVec.ofNat 64 p, 0, 0⟩

/-- Requests to packages that the plat now fences count as refused (R237). -/
def State.refuseFenced (s : State) : State :=
  { s with agenda := s.agenda ++ (s.fabricOut.filter fun r => s.memState r.req.dst == 2).map fun r =>
      .remoteAck r.req.id .refused }

/-- The state after steps 3 and 4 of R59 with the given events. -/
def State.applyStation (s : State) (st : DWord) (evs : List (Bool × EvRec)) : State :=
  let before := s.plat
  let s := evs.foldl (fun s e => s.platEvent st e.1 e.2) s
  let ds := (changedWords before s.plat).map fun k => s.pw k
  (s.setPw 1 (rotl (s.pw 1) 1 ^^^ foldWords ds)).setPw 0 st

/-- The packages whose JOIN OPEN this package raised and a station has just ordered (R70 step 3). -/
def State.opened (s : State) (evs : List (Bool × EvRec)) : List Nat :=
  evs.filterMap fun e =>
    let q := fld e.2.paramA 0 8
    if e.2.type = 7 ∧ e.2.flags = 0 ∧ e.2.origin.toNat = s.pkg ∧ s.memState q = 3 then some q else none

/-- The next station open: the batches and votes held for it, nothing sent (R48, R59 step 6, R66). -/
def State.openNext (s : State) : State :=
  let k := s.station + 1
  let now := (s.trav.later.filter fun p => p.1 == k).map (·.2)
  { s with trav := { s.trav with
      sent := false, suspects := []
      votes := ((s.trav.laterVotes.filter fun p => p.1 == k).map (·.2)).filter fun v =>
        s.memState v.voter == 1
      laterVotes := s.trav.laterVotes.filter fun p => p.1 != k
      closed := s.trav.batches
      batches := now.filter fun b => s.memState b.sender == 1
      later := s.trav.later.filter fun p => p.1 != k } }

/-- A joiner's closing (R70 step 4): no row is enacted; its closure word is checked against the winning
one; with its own row LIVE it is a member. -/
def State.replayClose (s : State) (st : DWord) (win : DWord) (evs : List (Bool × EvRec)) : State :=
  if win ≠ s.pw 1 then
    { s with
      trav := { Traverse.reset with role := .fenced, sponsor := s.trav.sponsor }
      outbox := s.outbox ++ (s.trav.sponsor.map fun p => Msg.join p .abandon).toList }
  else
    let first := !s.trav.matched
    let s := { s with trav := { s.trav with matched := true }
                      outbox := s.outbox ++ (if first then (s.trav.sponsor.map fun p =>
                        Msg.join p .allow).toList else []) }
    let t : State := { s.applyStation st evs with rows := [] }
    let role : PodRole := if t.memState t.pkg = 1 then .member
      else if t.memState t.pkg = 2 then .fenced else .replaying
    { t with trav := { t.trav with role := role } }.openNext

/-- STATION_CLOSE (R49, R59, R60, R67). Where a record's ORIGIN is not its batch's sender, the sender counts (log entry
62: DESIGN CHOICE). -/
def execStationClose (s : State) : Out :=
  .next (
    let st := s.station + 1
    let out := if s.trav.role = .member then s.outvoted else []
    let held := s.members.filterMap s.batchOf
    let ready := s.missing.all fun p => out.contains p
    if !(s.trav.role == .member || s.trav.role == .replaying) || held.isEmpty || !ready ||
        s.fwHeld && s.trav.role == .replaying then s
    else
      let win := winning held
      let losers := (held.filter fun b => b.pclose != win).map (·.sender)
      if losers.contains s.pkg then s.fenceSelf st
      else
        let good := held.filter fun b => b.pclose == win
        let lost := s.members.filter fun p => out.contains p || losers.contains p
        let evs := (good.map fun b => b.recs.map fun e =>
            (false, { e with origin := BitVec.ofNat 8 b.sender })).flatten ++
          lost.map fun p => (true, lossRec p (out.contains p))
        if s.trav.role = .replaying then s.replayClose st win evs
        else
          let t := s.applyStation st evs
          if t.memState t.pkg = 2 then t.fenceSelf st
          else
            let open_ := t.opened evs
            let t := { t with
              outbox := t.outbox ++ open_.map fun q => Msg.snapshot q st t.plat
              trav := { t.trav with joins := (t.trav.joins ++ open_).filter fun q => t.memState q == 3 } }
            t.refuseFenced.openNext.enact)

/- ### Joining (R70) -/

/-- SNAPSHOT_LOAD: the sponsor's plat is loaded and this package replays (R70 step 4). -/
def execSnapshotLoad (station : BitVec 64) (words : List (Nat × BitVec 64)) (s : State) : Out :=
  .next (
    if s.trav.sponsor.isNone || s.trav.role == .member || s.trav.role == .replaying then s
    else
      let plat := words.foldl (fun m e => if e.1 < 19752 then platSet m e.1 e.2 else m) []
      { s with
        plat := platSet plat 0 station
        trav := { s.trav with
          role := .replaying, matched := false
          later := s.trav.later.filter fun p => decide (station.toNat < p.1.toNat) } }.openNext)

/-- JOIN raised by a sponsor (R51). -/
def State.raiseJoin (s : State) (p : Nat) (flags : BitVec 16) (row : DWord) : State :=
  s.raiseEvent 7 flags 0 (BitVec.ofNat 64 p) row

/-- A rejoining package asks this package, its sponsor (R70); to the rejoining package itself its sponsor says that the
JOIN was refused or abandoned (R54, R383). -/
def execJoinRequest (p : Nat) (ask : JoinAsk) (s : State) : Out :=
  .next (
    if !s.isMember then
      (if s.trav.sponsor = some p ∧ ask = .abandon then
        { s with trav := { s.trav with sponsor := none } }.mbWake .join 1 []
      else s)
    else
      match ask with
      | .openRow row => s.raiseJoin p 0 (if s.memState p = 0 then row else 0)
      | .allow => if s.trav.joins.contains p then s.raiseJoin p 1 0 else s
      | .abandon => if s.trav.joins.contains p then s.raiseJoin p 2 0 else s)

/-- JOIN_PROGRESS_CHECK: a joiner without progress is abandoned (R70). -/
def execJoinProgressCheck (p : Nat) (s : State) : Out :=
  .next (if s.isMember && s.trav.joins.contains p && s.memState p == 3 then s.raiseJoin p 2 0 else s)

/-- A member reported unreachable by the link layer: this package votes against the members whose batches it lacks, once
its own batch is sent (R48, R66, R371). -/
def execUnreachableReport (p : Nat) (s : State) : Out :=
  .next (
    if !s.isMember || p == s.pkg || !s.members.contains p then s
    else
      let s := { s with trav := { s.trav with
        suspects := if s.trav.suspects.contains p then s.trav.suspects else s.trav.suspects ++ [p] } }
      if (s.batchOf p).isSome || !s.trav.sent then s else s.castVote s.missing)

/- ### psub and pyld (R320, R321) -/

/-- The packet of a `psub` checked as a LAUNCH is, then submitted; a failure is written to the record
(R320). One whose packet or image waits for a host page is kept until the host answers (R218). -/
def State.podSubmit (s : State) (c : Ctx) (a rec_ : DWord) : State :=
  let at_ (k : Nat) : Nat := a.toNat + k
  let fail (s : State) (seq : Word) (e : Ending) : State :=
    (s.priTold c.num e.addr).putRecord c.num rec_ seq e noGrid noStation
  let later (s : State) : State := { s with psubs := s.psubs ++ [⟨c.num, a, rec_⟩] }
  let bad (seq : Word) (b : Bad) : State :=
    match b with
    | .cause _ v => fail s seq (rejected 0x24 0 v)
    | .pri k v => later (s.request c.num true (.pri k v))
  match s.readVa c a.toNat 16 with
  | .error b => bad 0 b
  | .ok h =>
    let p := headOf h
    match headFault h 16 at_ with
    | some e => fail s p.seq e
    | none =>
      if p.type ≠ 1 then fail s p.seq (rejected 0x20 p.type a.toNat)
      else
        match s.readVa c (at_ 16) p.len with
        | .error b => bad p.seq b
        | .ok body =>
          match checkBody p body at_ (fun _ => true) with
          | .error e => fail s p.seq e
          | .ok fs =>
            if (fieldOf fs 5).isNone then fail s p.seq (rejected 0x23 5 a.toNat)
            else
              match s.readImage c 5 (fieldNum fs 2 0) (BitVec.ofNat 64 (fieldNum fs 1 0)) with
              | .reject e => fail s p.seq e
              | .waits s => later s
              | .ok s img =>
                match s.submitPod c img fs (.psub rec_ p.seq) with
                | .ok s => s
                | .error e => fail s p.seq e

/-- The submissions that waited for a host page checked anew (R218, R320). -/
def State.psubsGo (s : State) : State :=
  s.psubs.foldl (fun s p =>
    match s.ctx? p.ctx with
    | some c => s.podSubmit c p.pkt p.record
    | none => s) { s with psubs := [] }

/-- psub (R320): performed once when lanes act. -/
def execPsub (c : Ctl) (a b : BitVec 5) (s : State) : Out :=
  issue (.psub c a b) s fun x =>
    let pa := x.w.sget a.toNat
    let pb := x.w.sget b.toNat
    if x.acting c = 0 then x.done
    else if pa.toNat % 256 ≠ 0 then x.precise (.psub c a b) (Cause.one .align pa)
    else if pb.toNat % 32 ≠ 0 then x.precise (.psub c a b) (Cause.one .align pb)
    else
      match x.ctx? with
      | none => x.done
      | some k => ({ x with s := x.s.podSubmit k pa pb }).done

/-- pyld (R321): BLOCK raised; the predicate says that it was handed to the traverse. -/
def execPyld (c : Ctl) (pd : BitVec 6) (a : BitVec 5) (s : State) : Out :=
  issue (.pyld c pd a) s fun x =>
    if x.acting c = 0 then x.done
    else
      let ok := x.g.pod && x.s.isMember
      let w := (x.w.sget a.toNat).extractLsb' 0 32
      let y := if ok then
          { x with s := x.s.raiseEvent 3 0 (BitVec.ofNat 32 x.g.pid) (0#32 ++ w) 0 }
        else x
      (y.withW (y.w.pset pd.toNat (x.acting c) (if ok then x.acting c else 0))).done

end Sys2Proof.Machine
end

