-- ==== Sys2Proof/Machine/Remote.lean ====
section
/-! DEFINITION. The fabric's requests and answers (R209, R236, R237), host pages (R218) and shootdowns
(R216). -/

namespace Sys2Proof.Machine

/- ### Serving another package -/

/-- What serving a request comes to: an answer, no answer yet, or no answer at all. -/
inductive Served where
  | answer (s : State) (r : RResp)
  | held (s : State)
  | silent (s : State)

/-- The barrier arrival of another rank (R301); one of a grid that this package does not know yet is
kept. -/
def State.takeArrive (s : State) (r : RReq) (g slot rank : Nat) : Served :=
  let grs := s.grids.filter fun h => h.pod && h.pid == g && h.rank != rank
  if grs.isEmpty then
    (if (s.rowOf g).isSome then .held { s with heldRemote := s.heldRemote ++ [r] } else .silent s)
  else
    let slots := if slot = endedSlot then List.range 16 else [slot]
    .silent (grs.foldl (fun s gr =>
      let s := s.setGrid { gr with podArrived := gr.podArrived ++ [(slot, rank)] }
      (s.blocks.filter fun b => b.grid == gr.id && !b.ended && !b.spawned).foldl (fun s b =>
        slots.foldl (fun s n =>
          match s.block? b.key with
          | some b => if (b.bar n).passed = some .pod then s.barCheck barFuel b.key n else s
          | none => s) s) s) s)

/-- A rank's park images given up: the rank goes on elsewhere (R65). -/
def State.giveUpPark (s : State) (gid list : Nat) : State :=
  match s.parkedAs gid list with
  | none => s
  | some g => s.dropGrid g.id

/-- A part of a park image as it stands in bonded DRAM, with its poisoned granules counted from its start (R65, R363). -/
def State.imagePart (s : State) (a n : Nat) : RResp :=
  .image (s.dram.bytes a n) (if s.poison.isEmpty then []
    else (List.range ((n + 7) / 8)).filter fun k => s.poison.contains (0, (a + 8 * k) / 8))

/-- The first of these bytes that is poisoned. -/
def State.firstPoison (s : State) (ls : List Loc) : Option Nat := ls.findIdx? (locPoisoned s Block.blank)

/-- Whether an operation comes from the CP path. -/
def opCopies : ROp → Bool
  | .get _ => true
  | .put _ => true
  | _ => false

/-- Whether an operation is a load of a region. -/
def opInRegion : ROp → Bool
  | .readRgn _ => true
  | _ => false

/-- An access to memory served in the tables of the context that this package binds (R209, R236): a
failed translation, a page that the CP path does not reach or an operation that host memory does not have is
refused (R214, R232, R237), a region's load of a strongly ordered page is told so (R214), and so is a poisoned
source (R365). -/
def State.serveAccess (s : State) (r : RReq) (c : Ctx) (n : Nat) (acc : Access)
    (go : State → List Loc → State × RResp) : Served :=
  match s.resolve c (BitVec.ofNat 64 r.off) n acc with
  | .error (.cause _ v) => .answer (s.priReported c v) .refused
  | .error (.pri k v) => .held { s.request c.num true (.pri k v) with heldRemote := s.heldRemote ++ [r] }
  | .ok (ls, ord) =>
    if ord = 1 && opCopies r.op then .answer s .refused
    else if ord = 1 && opInRegion r.op then .answer s .strong
    else
      match (if acc = .store then none else s.firstPoison ls) with
      | some k => .answer s (.poisoned k)
      | none =>
        let a := go s ls
        .answer a.1 a.2

/-- First address after the window of launch records (R65, R210). -/
def launchEnd : Nat := launchBase + 0x20000000

/-- A read or write of a launch record (R65). -/
def State.serveLaunch (s : State) (r : RReq) : Served :=
  let h := (r.off - launchBase) / 0x2000
  let off := (r.off - launchBase) % 0x2000
  match r.op, s.recordBytes h with
  | .read n, some bs => .answer s (.data ((bs.drop off).take n))
  | .write bytes, some _ => .answer (s.putLaunch h off bytes) .done
  | _, _ => .answer s .refused

/-- A user-level interrupt of another package (R308, R311): data 2 says that it was denied. -/
def State.serveSend (s : State) (r : RReq) (vec : BitVec 6) (payload : BitVec 64) : Served :=
  let a := s.uiReceive ⟨.peer r.src r.pctx, none, r.pctx, vec, payload⟩
  .answer a.1 (match a.2 with
    | .recorded => .done
    | .denied => .data [2]
    | .refused => .refused)

/-- A request served (R68, R209, R236, R237); a fenced package has stopped and answers nothing (R67). -/
def State.serve (s : State) (r : RReq) : Served :=
  if s.trav.role = .fenced then .silent s
  else if s.memState r.src = 2 ∨ s.memState r.src = 0 then .answer s .refused
  else
    match r.op with
    | .arrive g slot rank => s.takeArrive r g slot rank
    | .park addr n => .answer s (s.imagePart addr n)
    | .unpark g list => .answer (s.giveUpPark g list) .done
    | op =>
      if launchBase ≤ r.off ∧ r.off < launchEnd then s.serveLaunch r
      else
        match s.podCtx r.pctx with
        | none => .answer s .refused
        | some c =>
          match op with
          | .read n => s.serveAccess r c n .load fun s ls => (s, .data (ls.map (readLoc s Block.blank)))
          | .readRgn n => s.serveAccess r c n .load fun s ls => (s, .data (ls.map (readLoc s Block.blank)))
          | .get n => s.serveAccess r c n .load fun s ls => (s, .data (ls.map (readLoc s Block.blank)))
          | .put bytes => s.serveAccess r c bytes.length .store fun s ls => (s.writeLocs ls bytes, .done)
          | .write bytes =>
            s.serveAccess r c bytes.length .store fun s ls =>
              (match ls with
              | .wake _ _ :: _ => s.wakeStore ls bytes
              | _ => s.writeLocs ls bytes, .done)
          | .atomic o w64 sg b k =>
            s.serveAccess r c (if w64 then 8 else 4) .atomic fun s ls =>
              let old := ls.map (readLoc s Block.blank)
              (match ls with
              | .mem 2 _ :: _ =>
                if hostAtomic o then (s.writeLocs ls (atomBytes o w64 sg old b k), .data old)
                else (s, .refused)
              | _ => (s.writeLocs ls (atomBytes o w64 sg old b k), .data old))
          | .send vec payload =>
            if s.fwHeld then .held { s with heldRemote := s.heldRemote ++ [r] } else s.serveSend r vec payload
          | _ => .answer s .refused

/-- REMOTE_ACCESS: a request of another package, or of this one through its own window, reaches this package (R209,
R236, R237). -/
def execRemoteAccess (r : RReq) (s : State) : Out :=
  .next (
    if r.dst ≠ s.pkg then s
    else
      match s.serve r with
      | .answer t a =>
        if r.src = s.pkg then { t with agenda := t.agenda ++ [.remoteAck r.id a] }
        else { t with outbox := t.outbox ++ [.answer r.src r.id a] }
      | .held t => t
      | .silent t => t)

/- ### Answers to this package's requests -/

/-- PAGE with cause REMOTE (R237). -/
def remoteCause (va : DWord) : Cause := ⟨.page, cREMOTE, va, 0, 0, false, none⟩

/-- Whether a load writes a scalar register, so that its fault parks the warp (R166). -/
def LoadDst.scalar : LoadDst → Bool
  | .sca _ _ => true
  | _ => false

/-- A load that traps on its answer: its lane, or the warp's for `sld`, stands at the load again, parked (R166,
R237, R365). Where a region has begun at another lane's release since, its image follows the lane. -/
def Warp.refuseLane (w : Warp) (g : Grid) (o : OutLoad) (c : Cause) : Warp :=
  match w.frontier.find? fun e => e.mask.getLsbD o.lane with
  | none => w
  | some e =>
    let m := if o.dst.scalar then e.mask else laneBit o.lane
    let w := { w with
      frontier := dropLanes w.frontier m
      waits := w.waits.filter fun v => v.lane != o.lane
      }.raise g.cb o.pc e.prio m 0 c
    if w.rgn.inrgn && !w.rgn.iss then
      { w with rgn := { w.rgn with image := clearParks w.straps w.frontier } }
    else w

/-- A load of a handler instruction that traps on its answer: the handler stands at the load again and the warp is held
(log entry 7: DEDUCED). -/
def Warp.refuseHandler (w : Warp) (g : Grid) (o : OutLoad) (f : Frame) (c : Cause) : Warp :=
  { w with
    frame := some { f with hoff := (o.pc - g.cb).extractLsb' 0 32 }
    straps := w.straps ++ [mkTrap g.cb o.pc (laneBit o.lane) 0 false c]
    st := { w.st with hold := true } }

/-- The bytes of a load from another package, under those that the region store buffer held (R235). -/
def OutLoad.merge (o : OutLoad) (bytes : List Byte) : List Byte :=
  if o.held.isEmpty then bytes else (bytes.zip o.held).map fun p => p.2.getD p.1

/-- A load of warp w that traps on its answer, outside a region's own rule (R237, R365). -/
def State.loadTrap (s : State) (b : Block) (w : Warp) (g : Grid) (o : OutLoad) (c : Cause) : State :=
  match w.frame with
  | some f => s.setBlock (b.setWarp (w.refuseHandler g o f c))
  | none => s.putWarp b (w.refuseLane g o c) g

/-- The key of a granule that lies in another package (R366). -/
def farKey (va : DWord) : Nat := 2 ^ 68 + va.toNat / 8

/-- The answer to a load or an atomic with a result (R214, R236, R237, R365). -/
def State.loadAck (s : State) (k n id : Nat) (r : RResp) : State :=
  match s.block? k with
  | none => s
  | some b =>
    match b.warp? n, s.grid? b.grid with
    | some w, some g =>
      match w.loads.find? fun o => o.id == id with
      | none => s
      | some o =>
        match r with
        | .data bytes =>
          s.setBlock (b.setWarp { w with loads := w.loads.map fun (p : OutLoad) =>
            if p.id = id then { p with val := some (p.merge bytes), remote := none } else p })
        | .poisoned k =>
          let w := { w with loads := w.loads.filter fun p => p.id != id }
          let a := (o.addr + BitVec.ofNat 64 k) &&& ~~~7#64
          if o.rgn && w.rgn.inrgn then (s.warpSite b w g).consumeInRegion [⟨o.lane, farKey a, a⟩]
          else
            (s.logCtx g.ctx kConsumed 0x11 b.coreNum a).loadTrap b w g o (Cause.one .eccu a)
        | .strong =>
          let w0 : DWord := match s.ctx? g.ctx with
            | some c => 0#32 ++ (s.codeWords c o.pc).headD 0
            | none => 0
          s.loadTrap b { w with loads := w.loads.filter fun p => p.id != id } g o (Cause.one .regside w0)
        | _ =>
          let w := { w with loads := w.loads.filter fun p => p.id != id }
          if o.rgn && w.rgn.inrgn then
            (s.warpSite b w g).faultInRegion (laneBit o.lane) (remoteCause o.addr)
          else s.loadTrap b w g o (remoteCause o.addr)
    | _, _ => s

/-- The answer to a store or `red.m` (R236, R237). -/
def State.storeAck (s : State) (k n : Nat) (va : DWord) (dst : Nat) (r : RResp) : State :=
  match s.block? k with
  | none => s
  | some b =>
    match b.warp? n with
    | none => s
    | some w =>
      let s := (s.setBlock (b.setWarp { w with acks := w.acks - 1 })).barExamine k n
      let s := match r with
        | .refused => s.endGrid b.grid ⟨stFailed, 0x60, BitVec.ofNat 16 dst, va⟩
        | .poisoned k => s.endGrid b.grid ⟨stFailed, 0x90, 0, (va + BitVec.ofNat 64 k) &&& ~~~7#64⟩
        | _ => s
      s.sweep b.grid

/-- The answer to the read of a `waitv` lane's word (R237, R249). -/
def State.waitAck (s : State) (k n l : Nat) (r : RResp) : State :=
  match s.block? k with
  | none => s
  | some b =>
    match b.warp? n, s.grid? b.grid with
    | some w, some g =>
      (match w.waits.find? fun v => v.lane == l with
      | some ⟨_, _, .waitv _ addr w64 cond y _⟩ =>
        if !w.frontier.any fun e => e.park == 3 && e.mask.getLsbD l then s
        else
          (match r with
          | .data bytes =>
            if wcondBytes cond w64 bytes y then s.releaseLanes b w g (laneBit l) 3 else s
          | .poisoned k =>
            let a := (addr + BitVec.ofNat 64 k) &&& ~~~7#64
            (s.logCtx g.ctx kConsumed 0x11 b.coreNum a).putWarp b (w.trapParked g l 3 (Cause.one .eccu a)) g
          | _ => s.putWarp b (w.trapParked g l 3 (remoteCause addr)) g)
      | _ => s)
    | _, _ => s

/-- The answer to a request of an `rput` or `rget` (R236, R237, R263). -/
def State.xferAck (s : State) (k id : Nat) (op : ROp) (r : RResp) : State :=
  match s.block? k with
  | none => s
  | some b =>
    match b.xfers.find? fun x => x.id == id, s.grid? b.grid with
    | some x, some g =>
      (match s.ctx? g.ctx with
      | none => s
      | some c =>
        let x := { x with remote := none }
        let q := x.req
        let moved (s : State) (b : Block) (n : Nat) : State :=
          let x := { x with pos := x.pos + n }
          s.setBlock (if q.len ≤ x.pos then b.finishXfer x else b.setXfer x)
        match r, op with
        | .done, .put bytes => moved s b bytes.length
        | .data bytes, _ =>
          (match engineWrite s b c .cp q.dstSp (q.dst.toNat + x.pos) bytes with
          | .ok (s, b) => moved s b bytes.length
          | .error e => s.xferStop b c g x e)
        | .poisoned k, _ => s.copyfRaise b g x cMEMERR (q.src + BitVec.ofNat 64 (x.pos + k))
        | _, _ =>
          s.copyfRaise b g x cREMOTE
            ((if q.kind = .rput then q.dst else q.src) + BitVec.ofNat 64 x.pos))
    | _, _ => s

/-- The answer to a UISEND command: its result entry (R271, R311). -/
def State.sendAck (s : State) (k : Nat) (tag : Word) (r : RResp) : State :=
  match s.block? k with
  | none => s
  | some b =>
    let w0 : DWord := tag ++ 0x30#32
    let res := match r with
      | .done => resultWords w0 1 0 1 0 0
      | .data _ => resultWords w0 2 cPERM 0 0 0
      | _ => resultWords w0 2 cREMOTE 0 0 0
    match s.grid? b.grid with
    | some g => s.setBlock (b.post (if b.res == .resident then g.img.desc.quota else 0) 7 res)
    | none => s

/-- REMOTE_ACK: the answer to a request of this package (R236, R237). -/
def execRemoteAck (id : Nat) (r : RResp) (s : State) : Out :=
  .next (match s.fabricOut.find? fun o => o.req.id == id with
  | none => s
  | some o =>
    let s := { s with fabricOut := s.fabricOut.filter fun o => o.req.id != id }
    match o.owner with
    | .load b w _ l => s.loadAck b w l r
    | .store b w va => s.storeAck b w va o.req.dst r
    | .waitv b w l => s.waitAck b w l r
    | .xfer b x => s.xferAck b x o.req.op r
    | .send b tag => s.sendAck b tag r
    | .note c =>
      (match r with
      | .done => s
      | .data _ => s.logCtx c kDenied cPERM 0 0
      | _ => s.logCtx c kDenied cREMOTE 0 0)
    | .coll b => s.collAck b r
    | .row g => s.rowAck g o.req.op o.req.dst r
    | .packet q idx => s.packetAck q idx r)

/- ### Host pages (R218) -/

/-- Whether a trap is a lane's wait for a host page that now translates, or whose request failed: PAGE
with SUB 0 (log entry 10: DEDUCED). -/
def Trap.pending (t : Trap) : Bool :=
  t.words.w0.extractLsb' 0 8 == TrapCode.page.num && t.words.w0.extractLsb' 16 8 == 0

/-- Whether the address of a PAGE record translates, or waits for no host page. -/
def State.settled (s : State) (c : Ctx) (t : Trap) : Bool :=
  match s.page c (t.words.w1.toNat) .load with
  | .error (.pri _ _) => false
  | _ => true

/-- A warp whose page waits are examined: those that are over go, their lanes replay or run the
instruction again, and a warp that was held for nothing else re-enters (R217, R218, R331). -/
def Warp.pagesIn (w : Warp) (over_ : Trap → Bool) : Warp :=
  let done := w.straps.filter fun t => t.pending && over_ t
  if done.isEmpty then w
  else
    let left := w.straps.filter fun t => !(t.pending && over_ t)
    let w := done.foldl (fun w t =>
      { w with frontier := unpark (unpark w.frontier t.lanes 6 id) t.lanes 2 id })
      { w with straps := left }
    if done.any (fun t => t.lanes == 0 || w.frame.isSome) && left.isEmpty then
      { w with st := { w.st with hold := false } }
    else w

/-- A warp with page waits whose request failed: PAGE with cause PRIFAIL (R213, R218). -/
def Warp.pagesFail (w : Warp) (hit : Trap → Bool) : Warp :=
  w.straps.foldl (fun w t =>
    if !(t.pending && hit t) then { w with straps := w.straps ++ [t] }
    else
      let w0 := (t.words.w0 &&& ~~~(0xff#64 <<< 16)) ||| (0#56 ++ cPRIFAIL) <<< 16
      let moving := w.frontier.filter fun e => e.park == 6 && e.mask &&& t.lanes != 0
      let fr := (w.frontier.map fun e =>
        if e.park = 6 then { e with mask := e.mask &&& ~~~t.lanes } else e).filter fun e => e.mask != 0
      { w with
        frontier := moving.foldl (fun fr e =>
          addEntry fr { e with mask := e.mask &&& t.lanes, park := 2 }) fr
        straps := w.straps ++ [{ t with words := { t.words with w0 := w0 } }] })
    { w with straps := [] }

/-- Whether a page wait is for this host page. -/
def State.awaitsPage (s : State) (c : Ctx) (page : Nat) (t : Trap) : Bool :=
  match s.page c t.words.w1.toNat .load with
  | .error (.pri k _) => k == page
  | _ => false

/-- Every warp of resident blocks changed, with its context. -/
def State.mapWarps (s : State) (f : Ctx → Warp → Warp) : State :=
  { s with blocks := s.blocks.map fun (b : Block) =>
      match (s.grid? b.grid).bind fun g => s.ctx? g.ctx with
      | none => b
      | some c => { b with warps := b.warps.map (f c) } }

/-- A transfer that waited for this page goes on (R218). -/
def Xfer.pageIn (x : Xfer) (page : Nat) : Xfer := if x.pri = some page then { x with pri := none } else x

/-- Transfers that waited for a page go on (R218). -/
def State.xfersGo (s : State) (page : Nat) : State :=
  { s with blocks := s.blocks.map fun (b : Block) =>
      { b with xfers := b.xfers.map fun (x : Xfer) => x.pageIn page } }

/-- Requests that waited for a host page are served again. -/
def State.remoteGo (s : State) : State :=
  let waits (r : RReq) : Bool :=
    match r.op with
    | .arrive _ _ _ => true
    | _ => false
  { s with
    agenda := s.agenda ++ (s.heldRemote.filter fun r => !waits r).map Instr.remoteAccess
    heldRemote := s.heldRemote.filter waits }

/-- Registrations that waited for a host page are tried again (R382). -/
def State.mailGo (s : State) : State :=
  let waits (f : Func) : Bool :=
    match f.await with
    | some (.page _) => true
    | _ => false
  { s with
    funcs := s.funcs.map fun f => if waits f then { f with await := none } else f
    agenda := s.agenda ++ (s.funcs.filter waits).map fun f => .qReg f.num }

/-- PRI_RESPONSE: the host answers a page request (R218). `page` is the request's key, `target` the host
page that ATS now gives. -/
def execPriResponse (page : Nat) (ok : Bool) (target : Nat) (s : State) : Out :=
  .next (match s.priReqs.find? fun r => r.page == page with
  | none => s
  | some r =>
    let fail := s.mapWarps fun c w => w.pagesFail (s.awaitsPage c page)
    let s := if ok then { s with ats := s.ats ++ [(page, target)] }
      else { fail with priFailed := if r.agent then s.priFailed ++ [page] else s.priFailed }
    let s := { s with priReqs := s.priReqs.filter fun r => r.page != page }
    let s := s.mapWarps fun c w => w.pagesIn (s.settled c)
    let s := (s.queues.map (·.key)).foldl (fun s k => s.flushCqes k) (s.xfersGo page)
    s.psubsGo.mailGo.remoteGo)

/- ### Shootdowns (R216, R218) -/

/-- ATS_INVALIDATION: the host takes a page's translation back; a shootdown begins (R218). -/
def execAtsInvalidation (page : Nat) (s : State) : Out :=
  .next { s with
    ats := s.ats.filter fun p => p.1 != page
    shoots := s.shoots ++ [⟨s.fresh, page / 2 ^ 48, BitVec.ofNat 64 (page % 2 ^ 48 * 2 ^ 16), 2 ^ 16, none⟩]
    fresh := s.fresh + 1 }

/-- Whether an access made under an old translation of a context is still outstanding (R216): in this
model accesses translate as they are performed, so that only loads remain whose bytes are read and not yet
written. -/
def State.oldAccess (s : State) (ctx : Nat) : Bool :=
  s.blocks.any fun b =>
    ((s.grid? b.grid).map (·.ctx)) == some ctx &&
      b.warps.any fun w => w.loads.any fun o => o.val.isSome

/-- SHOOTDOWN_COMPLETE: every access under the old translation has been performed (R216); a mailbox
operation that waited is answered, and so is the host after an ATS invalidation (R218). -/
def execShootdownComplete (id : Nat) (s : State) : Out :=
  .next (match s.shoots.find? fun x => x.id == id with
  | none => s
  | some x =>
    if s.oldAccess x.ctx then s
    else
      let s := { s with shoots := s.shoots.filter fun y => y.id != id }
      if x.fn.isSome then s.mbWake (.shoot id) 0 []
      else { s with outbox := s.outbox ++ [.atsDone (atsKey x.ctx (x.addr.toNat / 2 ^ 16))] })

end Sys2Proof.Machine
end

