-- ==== Sys2Proof/Machine/Supervisor.lean ====
section
/-! DEFINITION. The supervisor core's control window (R341), the actions of SACT (R342), and the release of
a context's warps that its debug word orders (R343). -/

namespace Sys2Proof.Machine

/- ### The selected warp -/

/-- The warp that SWSEL selects on a core (R341). -/
def State.selected (s : State) (core : Nat) : Option (Block × Warp × Grid) :=
  s.blocks.findSome? fun b =>
    if b.on core then
      (b.warps.find? fun w => w.slot == (s.core core).swsel && !w.hasEnded).bind fun w =>
        (s.grid? b.grid).map fun g => (b, w, g)
    else none

/-- Whether data registers respond: all live lanes parked, or HOLD or HALT set (R341). -/
def Warp.isStopped (w : Warp) : Bool := w.st.hold || w.st.halt || w.frontier.all fun e => e.park != 0

/-- An access to the control window that has no effect, logged (R341, R342). -/
def State.logControl (s : State) (core off : Nat) : State :=
  s.logPkg kDenied 0 core (BitVec.ofNat 64 (0x10000000 + off))

/- ### The frontier written through SFRONT -/

/-- The key under which a core's selected slot keeps words written through SFRONT. -/
def State.frontKey (s : State) (core : Nat) : Nat := core * 64 + (s.core core).swsel

/-- The offset of the frontier image in a warp's save area (R352). -/
def frontOff : Nat := 0x280

/-- The frontier of the selected warp once the words written through SFRONT are in it, checked as R140; an
illegal image ends the grid with SAVE_FORM (R341). -/
def State.takeFront (s : State) (core : Nat) : State :=
  let key := s.frontKey core
  let ws := s.svec.filter fun e => e.1.1 == key
  let s := { s with svec := s.svec.filter fun e => e.1.1 != key }
  if ws.isEmpty then s
  else
    match s.selected core with
    | none => s
    | some (b, w, g) =>
      let old := frontierImage g.cb w.frontier w.exited
      let img := ws.foldl (fun (img : List Byte) e =>
        img.take (8 * e.1.2) ++ leBytes 8 e.2.toNat ++ img.drop (8 * e.1.2 + 8)) old
      match frontierOf g.cb g.img.codeLen img with
      | some (es, ex) => s.setBlock (b.setWarp { w with frontier := es, exited := ex })
      | none => s.endGrid g.id ⟨stFailed, 0x50, BitVec.ofNat 16 w.num,
          BitVec.ofNat 64 (b.key + areaWarp w.num + frontOff)⟩

/- ### SACT (R342) -/

/-- Whether an entry is parked for the supervisor core: PARK 2, the replay of a faulted load, or the
debugger's halt (R122, R341; log entry 20: DEDUCED). -/
def Entry.supPark (e : Entry) : Bool := e.park == 2 || e.park == 6 || e.park == 7

/-- The lanes parked for the supervisor core. -/
def Warp.supLanes (w : Warp) : Mask := liveLanes (w.frontier.filter Entry.supPark)

/-- The lanes that MASK selects; 0 selects all. -/
def Warp.chosen (w : Warp) (mask : Mask) : Mask := if mask = 0 then w.supLanes else w.supLanes &&& mask

/-- The supervisor records without the lanes of m; records that had lanes and have none left go. -/
def Warp.settleTraps (w : Warp) (m : Mask) : Warp :=
  let left := w.straps.filter fun t => t.lanes == 0 || t.lanes &&& ~~~m != 0
  { w with straps := left.map fun (t : Trap) => { t with lanes := t.lanes &&& ~~~m } }

/-- The parts of the supervisor-parked entries that the lanes of m make up. -/
def Warp.chosenEntries (w : Warp) (m : Mask) : List Entry :=
  ((w.frontier.filter Entry.supPark).map fun e => { e with mask := e.mask &&& m }).filter
    fun e => e.mask != 0

/-- The warp with the lanes of m taken out of their entries and waits. -/
def Warp.takeOut (w : Warp) (m : Mask) : Warp :=
  { w with
    frontier := dropLanes w.frontier m
    waits := (w.waits.filter fun v => !m.getLsbD v.lane) }.settleTraps m

/-- RESUME: the lanes run their instructions again (R342). -/
def Warp.sactResume (w : Warp) (g : Grid) (m : Mask) : Warp :=
  (w.chosenEntries m).foldl (fun w e => w.standAt g e.pc e.prio e.mask) (w.takeOut m)

/-- Where lanes skipped at an entry go on: the next instruction, as long as the code reaches (R117,
R342). -/
def State.skipPc (s : State) (w : Warp) (g : Grid) (e : Entry) : DWord :=
  let n := match w.straps.find? fun t => t.lanes &&& e.mask != 0 && t.len != 0 with
    | some t => t.len
    | none => 4 * (((s.ctx? g.ctx).map fun c => (s.codeWords c e.pc).length).getD 1)
  let next := e.pc + BitVec.ofNat 64 n
  if e.pc = g.codeEnd ∨ !g.legalPc next then g.codeEnd else next

/-- SKIP: the lanes go on at the next instruction (R342). -/
def State.sactSkip (s : State) (w : Warp) (g : Grid) (m : Mask) : Warp :=
  (w.chosenEntries m).foldl (fun v e => v.standAt g (s.skipPc w g e) e.prio e.mask) (w.takeOut m)

/-- UTRAP: the lanes stand parked with PARK 1 under a user trap CODE with the words of the oldest
supervisor record (R342). -/
def Warp.sactUtrap (w : Warp) (g : Grid) (m : Mask) (code : BitVec 8) : Warp :=
  let old := (w.straps.head?.map (·.words)).getD ⟨0, 0, 0, 0⟩
  (w.chosenEntries m).foldl (fun (v : Warp) e =>
    let len := ((w.straps.find? fun t => t.lanes &&& e.mask != 0).map (·.len)).getD 0
    { v with
      frontier := addEntry v.frontier ⟨e.pc, e.prio, e.mask, 1⟩
      utraps := v.utraps ++ [(⟨⟨trapWord0 ((e.pc - g.cb).extractLsb' 0 32) 0 v.rgn.inrgn false
        (lowestLane e.mask) code, old.w1, old.w2, old.w3⟩, e.mask, e.pc, len, none⟩ : Trap)] })
    (w.takeOut m)

/-- RELEASE: HOLD and HALT are cleared, so that a discarded region re-enters, and PARK 7 lanes resume
(R342). Records that no parked lane stands behind go. -/
def Warp.sactRelease (w : Warp) (g : Grid) : Warp :=
  let m := liveLanes (w.frontier.filter fun e => e.park == 7)
  let w := { w.sactResume g m with st := { w.st with hold := false, halt := false } }
  { w with straps := w.straps.filter fun t => t.lanes &&& w.supLanes != 0 }

/-- An action on the selected warp of a core: a frontier written before is taken first, and without a
warp nothing happens and the access is logged. -/
def sact (core : Nat) (s : State) (run : State → Block → Warp → Grid → State) : Out :=
  .next (
    let t := s.takeFront core
    match t.selected core with
    | none => t.logControl core 0x30
    | some (b, w, g) => if g.ending.isSome then t else run t b w g)

/-- SACT RESUME. -/
def execSactResume (core : Nat) (mask : BitVec 32) (s : State) : Out :=
  sact core s fun s b w g => s.putWarp b (w.sactResume g (w.chosen mask)) g

/-- SACT SKIP. -/
def execSactSkip (core : Nat) (mask : BitVec 32) (s : State) : Out :=
  sact core s fun s b w g => s.putWarp b (s.sactSkip w g (w.chosen mask)) g

/-- SACT KILL: the lanes exit (R132). -/
def execSactKill (core : Nat) (mask : BitVec 32) (s : State) : Out :=
  sact core s fun s b w g =>
    let m := w.chosen mask
    if m = 0 then s
    else (s.putWarp b ((w.takeOut m).exitLanes m) g).settle b.key w.num

/-- SACT END: the grid ends with SUPER_END (R340). -/
def execSactEnd (core : Nat) (_mask : BitVec 32) (code : BitVec 8) (s : State) : Out :=
  sact core s fun s _ w g =>
    let poff := ((w.straps.head?.map fun t => t.words.w0.extractLsb' 32 32).getD 0)
    s.endGrid g.id ⟨stFailed, 0x83, 0#8 ++ code, g.cb + (0#32 ++ poff)⟩

/-- SACT UTRAP. -/
def execSactUtrap (core : Nat) (mask : BitVec 32) (code : BitVec 8) (s : State) : Out :=
  sact core s fun s b w g => s.putWarp b (w.sactUtrap g (w.chosen mask) code) g

/-- SACT RELEASE. -/
def execSactRelease (core : Nat) (_mask : BitVec 32) (s : State) : Out :=
  sact core s fun s b w g =>
    s.putWarp b (w.sactRelease g) g

/-- SACT HALT: PDBG is set (R343). -/
def execSactHalt (core : Nat) (s : State) : Out :=
  sact core s fun s b w _ => s.setBlock (b.setWarp { w with st := { w.st with pdbg := true } })

/-- SACT with ACT 7: ignored and logged. -/
def execSactReserved (core : Nat) (s : State) : Out :=
  .next ((s.takeFront core).logControl core 0x30)

/- ### Data registers -/

/-- A write through the control window to a data register of the selected warp, which takes effect only
while the warp is stopped (R341). -/
def State.dataWrite (s : State) (core off : Nat) (f : Grid → Warp → Warp) : State :=
  match s.selected core with
  | none => s.logControl core off
  | some (b, w, g) =>
    if w.isStopped then s.setBlock (b.setWarp (f g w)) else s.logControl core off

/-- Two lanes of a vector register written; the write clears their poison (R341, R363). -/
def State.svecPut (s : State) (core off : Nat) (v : DWord) : State :=
  s.dataWrite core off fun g w =>
    let n := (off - 0x1000) / 128
    let l := (off - 0x1000) % 128 / 4
    if g.img.desc.vregs ≤ n then w
    else (w.vset n l (v.extractLsb' 0 32)).vset n (l + 1) (v.extractLsb' 32 32)

/-- SVEC_WRITE (R341). -/
def execSvecWrite (core off : Nat) (v : BitVec 64) (s : State) : Out :=
  .next (if off < 0x1000 ∨ 0x9000 ≤ off ∨ off % 8 ≠ 0 then s.logControl core off else s.svecPut core off v)

/-- The predicates of lane l from a word (R136, R341). -/
def Warp.setPreds (w : Warp) (pregs l : Nat) (v : DWord) : Warp :=
  (List.range pregs).foldl (fun (w : Warp) n =>
    { (w.pset n (laneBit l) (if v.getLsbD n then laneBit l else 0)) with
      pPoison := w.pPoison.erase (vkey n l) }) w

/-- The event of a write to SACT (R342). -/
def sactEvent (core : Nat) (v : DWord) : Instr :=
  let mask := v.extractLsb' 32 32
  let code := v.extractLsb' 16 8
  match (v.extractLsb' 0 3).toNat with
  | 0 => .sactResume core mask
  | 1 => .sactSkip core mask
  | 2 => .sactKill core mask
  | 3 => .sactEnd core mask code
  | 4 => .sactUtrap core mask code
  | 5 => .sactRelease core mask
  | 6 => .sactHalt core
  | _ => .sactReserved core

/-- A word written through SFRONT, kept until the next SACT (R341). -/
def State.keepFront (s : State) (core off : Nat) (v : DWord) : State :=
  let k := (s.frontKey core, (off - 0x40) / 8)
  match s.selected core with
  | none => s.logControl core off
  | some (_, w, _) =>
    if w.isStopped then { s with svec := (s.svec.filter fun e => e.1 != k) ++ [(k, v)] }
    else s.logControl core off

/-- A write of n bytes through the control window (R341): only aligned 8-byte writes are accepted, others are logged, and
writes to read-only registers are ignored. -/
def State.controlWrite (s : State) (core off n : Nat) (v : DWord) : State :=
  if n ≠ 8 ∨ off % 8 ≠ 0 then s.logControl core off
  else if off = 0 then
    s.setCore core { s.core core with swsel := (v.extractLsb' 0 6).toNat }
  else if off = 0x30 then { s with agenda := s.agenda ++ [sactEvent core v] }
  else if 0x40 ≤ off ∧ off < 0x168 then s.keepFront core off v
  else if 0x200 ≤ off ∧ off < 0x2c0 then
    s.dataWrite core off fun g w =>
      if (off - 0x200) / 8 < g.img.desc.sregs then w.sset ((off - 0x200) / 8) v else w
  else if 0x300 ≤ off ∧ off < 0x400 then
    s.dataWrite core off fun g w => w.setPreds g.img.desc.pregs ((off - 0x300) / 8) v
  else if 0x400 ≤ off ∧ off < 0x420 then
    s.dataWrite core off fun _ w => w.ckset ((off - 0x400) / 8) v
  else if 0x1000 ≤ off ∧ off < 0x9000 then s.svecPut core off v
  else s

/-- The 64-bit word at an offset of a byte string; zero past its end. -/
def wordIn (bs : List Byte) (off : Nat) : DWord := BitVec.ofNat 64 (numAt bs off 8)

/-- The frontier image of the selected warp as the supervisor core reads it, with the words that it has written since
the last SACT (R134, R341). -/
def State.frontWord (s : State) (core : Nat) (w : Warp) (g : Grid) (k : Nat) : DWord :=
  match s.svec.find? fun e => e.1 == (s.frontKey core, k) with
  | some e => e.2
  | none => wordIn (frontierImage g.cb w.frontier w.exited) (8 * k)

/-- What a data register of the selected warp reads as (R136, R341). -/
def State.dataWord (s : State) (core off : Nat) (w : Warp) (g : Grid) : DWord :=
  if 0x40 ≤ off ∧ off < 0x168 then s.frontWord core w g ((off - 0x40) / 8)
  else if 0x200 ≤ off ∧ off < 0x2c0 then
    (if (off - 0x200) / 8 < g.img.desc.sregs then w.sget ((off - 0x200) / 8) else 0)
  else if 0x300 ≤ off ∧ off < 0x400 then w.predWord ((off - 0x300) / 8)
  else if 0x400 ≤ off ∧ off < 0x420 then smGet 0 w.ck ((off - 0x400) / 8)
  else if 0x1000 ≤ off ∧ off < 0x9000 then
    (let n := (off - 0x1000) / 128
    let l := (off - 0x1000) % 128 / 4
    if g.img.desc.vregs ≤ n then 0 else w.vget n (l + 1) ++ w.vget n l)
  else 0

/-- Whether an offset of the control window belongs to a data register (R341; log entry 20: DEDUCED). -/
def isData (off : Nat) : Bool :=
  decide (0x40 ≤ off ∧ off < 0x168) || decide (0x200 ≤ off ∧ off < 0x2c0) || decide (0x300 ≤ off ∧ off < 0x400) ||
    decide (0x400 ≤ off ∧ off < 0x420) || decide (0x1000 ≤ off ∧ off < 0x9000)

/-- A read of n bytes through the control window (R5, R330, R337, R341, R351): the state it leaves and the value. A data
register of a warp that is not stopped reads as zero, and the access is logged. -/
def State.controlRead (s : State) (core off n : Nat) : State × DWord :=
  if n ≠ 8 ∨ off % 8 ≠ 0 then (s.logControl core off, 0)
  else if off = 0 then (s, BitVec.ofNat 64 (s.core core).swsel)
  else
    match s.selected core with
    | none => (if isData off then s.logControl core off else s, 0)
    | some (_, w, g) =>
      if isData off then (if w.isStopped then (s, s.dataWord core off w g) else (s.logControl core off, 0))
      else
        (s, match off, w.straps.head? with
          | 0x08, _ => w.statusWord
          | 0x10, some t => t.words.w0
          | 0x18, some t => t.words.w1
          | 0x20, some t => t.words.w2
          | 0x28, some t => t.words.w3
          | 0x38, _ => rctlWord w
          | _, _ => 0)

/-- FENCE.I of a supervisor core: its core's instruction cache is dropped (R92). -/
def execFenceI (core : Nat) (s : State) : Out :=
  .next (s.setCore core { s.core core with icache := [] })

end Sys2Proof.Machine
end

