-- ==== Sys2Proof/Machine/Mailbox.lean ====
section
/-! DEFINITION. The mailbox of a function (R381) and its operations (R382, R383, R386, R387), but those of
the firmware update. Argument k of R382 stands in request word k, result k in response word k (log entry
21). -/

namespace Sys2Proof.Machine

/- ### Requests and answers (R381) -/

/-- Request word k. -/
def Func.req (f : Func) (k : Nat) : DWord := smGet 0 f.mbreq k

/-- What an operation comes to: DONE with results, REFUSED, or an answer that waits. -/
inductive MbOut where
  | done (s : State) (results : List DWord)
  | refused
  | later (s : State)

/-- A mailbox operation (R381, R382): the function's mailbox is busy with a request of this OP. `pf` marks an
operation of the physical function alone. When neither bank boots, only staging and status are accepted
(R394). -/
def mailbox (fn op : Nat) (pf : Bool) (s : State) (run : State → Func → MbOut) : Out :=
  .next (match s.func? fn with
  | none => s
  | some f =>
    if !f.busy || f.await.isSome || ((f.req 0).extractLsb' 0 8).toNat != op then s
    else if pf && fn != 0 then s.mbAnswer fn 2 []
    else if s.fw.onlyMailbox && !(op == 0x20 || op == 0x22) then s.mbAnswer fn 1 []
    else
      match run s f with
      | .done t rs => t.mbAnswer fn 0 rs
      | .refused => s.mbAnswer fn 1 []
      | .later t => t)

/-- A function's mailbox waits for an event. -/
def State.awaitFor (s : State) (fn : Nat) (a : MbAwait) : State :=
  match s.func? fn with
  | some f => s.setFunc { f with await := some a }
  | none => s

/-- The context of a function that an argument names (R382). -/
def State.ctxArg (s : State) (fn : Nat) (v : DWord) : Option Ctx :=
  s.ctxs.find? fun c => c.fn == fn && c.c == v.toNat

/- ### Contexts -/

/-- Whether a function's FAULTs of a reset are still to be ordered (R387 step 4). -/
def State.resetPending (s : State) (fn : Nat) : Bool :=
  let ends := ((s.func? fn).map (·.ends)).getD []
  let mine (e : EvRec) : Bool := e.type == 5 && fld e.paramA 0 8 == 0xa0 && ends.contains e.grid.toNat
  s.trav.pend.any mine || s.trav.batches.any fun b => b.sender == s.pkg && b.recs.any mine

/-- Whether a context pool breaks R89 or overlaps another context's. -/
def State.poolBad (s : State) (off size : Nat) : Bool :=
  off % 65536 != 0 || size % 65536 != 0 || decide (size < 4194304) ||
    decide (Config.dramSize < off + size) ||
    s.ctxs.any fun c => decide (c.poolOff < off + size) && decide (off < c.poolOff + c.poolSize)

/-- The tier of a translation root; a set bit outside its fields makes it one that every walk refuses
(R211). -/
def rootTierOf (root : DWord) : BitVec 2 :=
  if root.extractLsb' 60 4 = 0 ∧ root.extractLsb' 56 2 = 0 ∧ root.extractLsb' 0 8 = 0 then
    root.extractLsb' 58 2
  else 3

/-- CTX_NEW (R382). -/
def execCtxNew (fn : Nat) (s : State) : Out :=
  mailbox fn 0x01 false s fun s f =>
    let root := f.req 1
    let off := (f.req 2).toNat
    let size := (f.req 3).toNat
    match (List.range 256).find? fun c => !s.ctxs.any fun x => x.fn == fn && x.c == c with
    | none => .refused
    | some c =>
      if 4096 ≤ s.ctxs.length ∨ s.poolBad off size ∨ s.resetPending fn then .refused
      else
        let n := 256 * fn + c
        .done { s with ctxs := s.ctxs ++
            [{ num := n, fn := fn, c := c, rootTier := rootTierOf root
               rootOff := (root.extractLsb' 8 48).toNat * 2 ^ 8, poolOff := off, poolSize := size
               allocs := [], pctx := none, iblk := none, brken := false, halt := false
               log := ⟨none, 0, []⟩ }] }
          [BitVec.ofNat 64 c, 0#44 ++ Config.pasid n, BitVec.ofNat 64 n]

/-- VF_RESET is raised for every pod grid of a pod context (R382, R387). -/
def State.faultPodGrids (s : State) (fn : Nat) (x : BitVec 16) : State :=
  (List.range 4096).foldl (fun s g =>
    if s.rowState g != 0 && s.rowPctx g == x then
      s.raiseFault (s.gridId g) ⟨stAborted, 0xa0, BitVec.ofNat 16 fn, 0⟩
    else s) s

/-- A context goes with its queues, its pod grids' ends ordered, its translations and instruction lines
dropped (R382, R387). -/
def State.freeCtx (s : State) (c : Ctx) : State :=
  let s := (s.queues.filter fun q => q.ctx == c.num).foldl (fun s q => s.removeQueue q.key) s
  let s := match c.pctx with
    | some x => s.faultPodGrids c.fn x
    | none => s
  { s with
    ctxs := s.ctxs.filter fun x => x.num != c.num
    ats := s.ats.filter fun p => p.1 / 2 ^ 48 != c.num
    priReqs := s.priReqs.filter fun r => r.ctx != c.num
    psubs := s.psubs.filter fun p => p.ctx != c.num
    acache := s.acache.foldl (fun m e =>
      smSet [] m e.1 (e.2.filter fun (i : Cached) => i.ctx != c.num)) s.acache
    cores := s.cores.foldl (fun m e =>
      smSet Core.reset m e.1 { e.2 with icache := e.2.icache.filter fun l => l.ctx != c.num }) s.cores }

/-- CTX_FREE (R382). -/
def execCtxFree (fn : Nat) (s : State) : Out :=
  mailbox fn 0x02 false s fun s f =>
    match s.ctxArg fn (f.req 1) with
    | none => .refused
    | some c => .done (s.freeCtx c) []

/-- IBLK (R306, R382): the header's fields that the device writes take their reset values (log entry 21: DESIGN CHOICE). -/
def execIblk (fn : Nat) (s : State) : Out :=
  mailbox fn 0x05 false s fun s f =>
    match s.ctxArg fn (f.req 1) with
    | none => .refused
    | some c =>
      if (f.req 2).toNat % 256 ≠ 0 ∨ c.iblk.isSome then .refused
      else
        let c := { c with iblk := some (f.req 2) }
        let s := (s.setCtx c).ibPut c 0 8 0
        let s := (s.ibPut c 8 8 0).ibPut c 16 8 0
        .done (s.ibPut c 44 4 0) []

/-- PODBIND (R64, R382). -/
def execPodbind (fn : Nat) (s : State) : Out :=
  mailbox fn 0x07 false s fun s f =>
    match s.ctxArg fn (f.req 1) with
    | none => .refused
    | some c =>
      let x := (f.req 2).extractLsb' 0 16
      if (f.req 2).toNat ≠ x.toNat ∨ s.ctxs.any fun d => d.num != c.num && d.pctx == some x then .refused
      else .done (s.setCtx { c with pctx := some x }) []

/-- LOG (R384): 0xffff names the package's log, which only the physical function places. -/
def execLog (fn : Nat) (s : State) : Out :=
  mailbox fn 0x08 false s fun s f =>
    let a := (f.req 2).toNat
    let l := (f.req 3).toNat
    if f.req 1 = 0xffff then
      (if fn ≠ 0 then .later (s.mbAnswer fn 2 [])
      else if l < 4 ∨ 16 < l then .refused
      else .done (s.placeLog none a l) [])
    else
      match s.ctxArg fn (f.req 1) with
      | none => .refused
      | some c => if l < 4 ∨ 16 < l then .refused else .done (s.placeLog (some c.num) a l) []

/-- SHOOT (R216): answered when the shootdown is complete. -/
def execShoot (fn : Nat) (s : State) : Out :=
  mailbox fn 0x06 false s fun s f =>
    match s.ctxArg fn (f.req 1) with
    | none => .refused
    | some c =>
      if f.req 3 = 0 then .refused
      else
        let id := s.fresh
        .later ({ s with
          shoots := s.shoots ++ [(⟨id, c.num, f.req 2, (f.req 3).toNat, some fn⟩ : Shootdown)]
          fresh := id + 1 }.awaitFor fn (.shoot id))

/- ### Queues (R29, R39) -/

/-- Whether a queue header's fields are in range and its reserved fields zero (R29). -/
def queueLegal (h : List Byte) : Bool :=
  let f := bitsOf h
  f 16 16 == 0 && f 48 16 == 0 && f 121 7 == 0 && f 185 7 == 0 && f 195 5 == 0 && f 205 3 == 0 &&
    f 213 43 == 0 && f 260 124 == 0 && f 776 248 == 0 && decide (f 32 16 < 1024) &&
    f 64 12 == 0 && f 128 12 == 0 && decide (4 ≤ f 200 5) && decide (f 200 5 ≤ 16) &&
    decide (4 ≤ f 208 5) && decide (f 208 5 ≤ 16)

/-- A queue as registration leaves it (R29): HEAD, CMDIDX and the other device fields zero, IDLE. -/
def newQueue (c : Ctx) (h : List Byte) (index : Nat) (header : DWord) (home : Nat) : Queue :=
  let f := bitsOf h
  { key := 512 * c.fn + index, ctx := c.num, fn := c.fn, index := index, header := header, home := home
    qnum := f 0 16, msixv := f 32 16, ringBase := BitVec.ofNat 64 (f 64 57)
    cqBase := BitVec.ofNat 64 (f 128 57), prio := f 192 3, ringLog2 := f 200 5, cqLog2 := f 208 5
    state := 0, slot := none, head := 0, cmdidx := 0, cqdone := 0, tail := 0, wakelatch := 0
    uilatch := false, saveptr := 0, stopclass := 0, sliceExpired := false, toStopped := false
    unmapStep := 0, swapped := [], flights := [], holding := none, copies := [], skipTo := none
    kept := [], saveKept := false, cqPend := [], abortDue := false, rangeLatched := none }

/-- Q_REG (R29, R382). -/
def execQReg (fn : Nat) (s : State) : Out :=
  mailbox fn 0x03 false s fun s f =>
    match s.ctxArg fn (f.req 1) with
    | none => .refused
    | some c =>
      if (f.req 2).toNat % 128 ≠ 0 then .refused
      else
        match s.readVa c (f.req 2).toNat 128,
            (List.range 512).find? fun i => !s.queues.any fun q => q.fn == fn && q.index == i with
        | .error (.pri k a), _ => .later ((s.request c.num true (.pri k a)).awaitFor fn (.page k))
        | .ok h, some i =>
          let home := (Config.homeDie s.free).toNat
          let q := newQueue c h i (f.req 2) home
          if !queueLegal h || s.queues.any fun p => p.ctx == c.num && p.qnum == q.qnum then .refused
          else
            match ({ s with free := s.free + 1, queues := s.queues ++ [q] }.putQueue q).saveHeader q with
            | .error (.pri k a) => .later ((s.request c.num true (.pri k a)).awaitFor fn (.page k))
            | .error _ => .refused
            | .ok s =>
              .done s [BitVec.ofNat 64 i, BitVec.ofNat 64 home, BitVec.ofNat 64 (0x7f8000000000 + 64 * i)]
        | _, _ => .refused

/-- Q_DEL (R39). -/
def execQDel (fn : Nat) (s : State) : Out :=
  mailbox fn 0x04 false s fun s f =>
    match s.queues.find? fun q => q.fn == fn && q.index == (f.req 1).toNat with
    | none => .refused
    | some q => .done (s.removeQueue q.key) []

/- ### Shares, limits and the debug word -/

/-- SHARE (R386). -/
def execShare (fn : Nat) (s : State) : Out :=
  mailbox fn 0x09 true s fun s f =>
    match s.func? (f.req 1).toNat with
    | none => .refused
    | some t =>
      if f.req 2 = 0 ∨ 0xff < (f.req 2).toNat then .refused
      else
        .done (s.setFunc { t with
          share := (f.req 2).extractLsb' 0 8, maxprio := Nat.min (f.req 3).toNat 7 }) []

/-- A limit of SCHED: the value asked for, the current one for 0xffff_ffff, none outside its range. -/
def limitOf (v : DWord) (cur lo hi unit : Nat) : Option Nat :=
  if v = 0xffffffff then some cur
  else if lo ≤ v.toNat ∧ v.toNat ≤ hi then some (v.toNat * unit)
  else none

/-- A die with the limits that SCHED asks for (R37, R347, R356, R383). -/
def Die.withLimits (d : Die) (f : Func) : Option Die :=
  match limitOf (f.req 2) d.slice 50 100000 1, limitOf (f.req 3) d.drain 0 100000 1,
      limitOf (f.req 4) d.stop 10 10000 1, limitOf (f.req 5) d.testdl 1 100 1000 with
  | some a, some b, some c, some e => some { d with slice := a, drain := b, stop := c, testdl := e }
  | _, _, _, _ => none

/-- SCHED (R383). -/
def execSched (fn : Nat) (s : State) : Out :=
  mailbox fn 0x14 true s fun s f =>
    if 15 < (f.req 1).toNat ∨ (Die.reset.withLimits f).isNone then .refused
    else
      .done ((List.range 4).foldl (fun s k =>
        if (f.req 1).getLsbD k then
          match (s.die k).withLimits f with
          | some d => s.setDie k d
          | none => s
        else s) s) []

/-- A warp of a context under its debug word (R343): RESUME clears HALT and PDBG and
releases its PARK 7 lanes, and a held region stays held; HALT asks it to stop. -/
def Warp.debugged (w : Warp) (g : Grid) (halt resume : Bool) : Warp :=
  if w.hasEnded then w
  else
    let w := if resume then
        (let m := liveLanes (w.frontier.filter fun e => e.park == 7)
        let w := w.sactResume g m
        { w with
          st := { w.st with halt := false, pdbg := false }
          straps := w.straps.filter fun t =>
            t.words.w0.extractLsb' 0 8 != (TrapCode.debug).num || t.lanes &&& w.supLanes != 0 })
      else w
    if halt && !w.st.halt then { w with st := { w.st with pdbg := true } } else w

/-- DEBUG (R343, R383). -/
def execDebug (fn : Nat) (s : State) : Out :=
  mailbox fn 0x0a false s fun s f =>
    match s.ctxArg fn (f.req 1) with
    | none => .refused
    | some c =>
      let v := f.req 2
      let halt := v.getLsbD 1 && !v.getLsbD 2
      let s := s.setCtx { c with brken := v.getLsbD 0, halt := halt }
      .done { s with blocks := s.blocks.map fun (b : Block) =>
          match s.grid? b.grid with
          | none => b
          | some g =>
            if g.ctx ≠ c.num then b
            else
              { b with
                brken := if b.res == .resident then v.getLsbD 0 else b.brken
                warps := b.warps.map fun (w : Warp) =>
                  w.debugged g (halt && b.res == .resident) (v.getLsbD 2) } } []

/- ### The pod (R71, R383) -/

/-- Bytes of a formation image. -/
def formationSize : Nat := 2368

/-- The plat words of a formation image (R383). -/
def formationWords (bs : List Byte) : List DWord :=
  (List.range 296).map fun k => BitVec.ofNat 64 (leNat ((bs.drop (8 * k)).take 8))

/-- The state with a formation image's words as its plat, every other word at its reset value (R71). -/
def State.loadFormation (s : State) (ws : List DWord) : State :=
  let ps := ((List.range ws.length).zip ws).filter fun p => p.1 == 2 || p.1 == 4 || decide (8 ≤ p.1)
  { s with plat := ps.foldl (fun m p => platSet m p.1 p.2) [] }

/-- Whether a formation image is refused (R383); `t` has its words loaded. -/
def State.formationBad (t : State) (ws : List DWord) (n : Nat) : Bool :=
  let w (k : Nat) : DWord := ws.getD k 0
  [0, 1, 3, 5, 6, 7].any (fun k => w k != 0) || fld (w 2) 25 39 != 0 || t.npod == 0 ||
    decide (256 < t.npod) || decide (t.npod ≤ n) ||
    ((List.range 256).any fun p =>
      let v := w (8 + p)
      fld v 36 28 != 0 || fld v 26 6 != 0 || fld v 2 6 != 0 || fld v 0 2 == 2 || fld v 0 2 == 3 ||
        decide (8 < fld v 32 4) || (decide (t.npod ≤ p) && fld v 0 2 != 0) ||
        (fld v 24 1 == 1 && decide (t.npod ≤ fld v 16 8))) ||
    decide ((w 264).toNat < 10) || decide (10000 < (w 264).toNat) || decide ((w 265).toNat < 1) ||
    decide (4096 < (w 265).toNat) || !t.partnersOk 256 || w 4 != t.fw.active.id

/-- C(0) (R60, R71). -/
def State.firstClosure (s : State) : DWord :=
  foldWords ((List.range (19752 - 2)).map fun i => s.pw (i + 2))

/-- A measurement register extended (R395). -/
def State.extendMr (s : State) (k : Nat) (digest : BitVec 512) : State :=
  let old := smGet 0 s.mr k
  { s with mr := smSet 0 s.mr k (Config.sha3 (leBytes 64 old.toNat ++ leBytes 64 digest.toNat)) }

/-- POD_FORM (R71, R383). A package whose own row is ABSENT does not take part (log entry 21: DESIGN CHOICE). -/
def execPodForm (fn : Nat) (s : State) : Out :=
  mailbox fn 0x10 true s fun s f =>
    let bs := s.hostMem.bytes (f.req 1).toNat formationSize
    let ws := formationWords bs
    let n := (f.req 2).toNat
    let t := { s with pkg := n }.loadFormation ws
    if s.trav.role ≠ .none ∨ t.formationBad ws n then .refused
    else
      let t := t.setPw 1 t.firstClosure
      let role : PodRole := if t.memState n = 1 then .member else .fenced
      .done ({ t with trav := { Traverse.reset with role := role } }.extendMr 4 (Config.sha3 bs)) []

/-- POD_JOIN (R70, R383). -/
def execPodJoin (fn : Nat) (s : State) : Out :=
  mailbox fn 0x11 true s fun s f =>
    let p := (f.req 1).toNat
    if s.trav.role ≠ .fenced ∨ !(s.memState s.pkg == 0 || s.memState s.pkg == 2) ∨ s.npod ≤ p ∨
        s.memState p ≠ 1 then .refused
    else
      .later ({ s with
        trav := { s.trav with sponsor := some p }
        outbox := s.outbox ++ [Msg.join p (.openRow (f.req 2))] }.awaitFor fn .join)

/-- The RULESET record that this package raises next (R51, R383). -/
def State.rulesetRec (s : State) (target p : Nat) (v : DWord) : EvRec :=
  ⟨8, BitVec.ofNat 8 s.pkg, 0, 0, 0#32 ++ BitVec.ofNat 8 p ++ BitVec.ofNat 8 target ++ s.nextRsid, v, 0⟩

/-- POD_RULE (R383): outside a pod no plat engine can apply it. -/
def execPodRule (fn : Nat) (s : State) : Out :=
  mailbox fn 0x12 true s fun s f =>
    let target := (f.req 1).toNat
    let p := (f.req 2).toNat
    if target = 0x41 ∨ 255 < target ∨ 255 < p ∨ !s.isMember then .refused
    else
      let e := s.rulesetRec target p (f.req 3)
      .later ((s.raiseEvent 8 0 0 e.paramA e.paramB).awaitFor fn (.rule e))

/-- UNBLOCK (R383). -/
def execMailboxUnblock (fn : Nat) (s : State) : Out :=
  mailbox fn 0x13 false s fun s f =>
    match s.ctxArg fn (f.req 1), s.rowOf (f.req 2).toNat with
    | some c, some g =>
      if s.rowState g = 0 ∨ s.rowOrigin g ≠ s.pkg ∨ c.pctx ≠ some (s.rowPctx g) ∨ !s.isMember then .refused
      else
        .later ((s.raiseEvent 4 0 ((f.req 2).extractLsb' 0 32) 0 0).awaitFor fn
          (.unblock (f.req 2).toNat))
    | _, _ => .refused

/- ### Function-level reset (R387) -/

/-- A function reset: its queues act as under ABORT, its pod grids' ends are ordered, its contexts, share
and registers go. -/
def State.resetFunc (s : State) (fn : Nat) : State :=
  let cs := s.ctxs.filter fun c => c.fn == fn
  let ends := (List.range 4096).filter fun g =>
    s.rowState g != 0 && cs.any fun c => c.pctx == some (s.rowPctx g)
  let s := cs.foldl (fun s c => s.freeCtx c) s
  s.setFunc { Func.reset fn with ends := ends.map s.gridId }

/-- A function-level reset; that of the physical function resets every function. -/
def State.levelReset (s : State) (fn : Nat) : State :=
  if fn = 0 then (s.funcs.map (·.num)).foldl (fun s n => s.resetFunc n) s else s.resetFunc fn

/-- FUNCTION_LEVEL_RESET (R387); during a firmware switch it is held (R393). -/
def execFunctionLevelReset (fn : Nat) (s : State) : Out :=
  .next (
    if (s.func? fn).isNone then s
    else if s.fwHeld then { s with fw := { s.fw with held := s.fw.held ++ [fn] } }
    else s.levelReset fn)

end Sys2Proof.Machine
end

