-- ==== Sys2Proof/Machine/Firmware.lean ====
section
/-! DEFINITION. Firmware (R388 to R394): staging, activation, the hand-over record, the watchdog, rollback,
boot and the loss of power. -/

namespace Sys2Proof.Machine

/- ### Staging and status (R388, R389) -/

/-- The number of an update state (R388). -/
def FwState.num : FwState → Nat
  | .idle => 0
  | .staging => 1
  | .verified => 2
  | .verifyFail => 3
  | .deferred => 4
  | .switching => 5
  | .probation => 6
  | .active => 7
  | .rolledBack => 8

/-- Whether an update is in progress (R382, R393). -/
def FwState.busy (f : FwState) : Bool :=
  f == .staging || f == .deferred || f == .switching || f == .probation

/-- The inactive bank written; it is not proven (R388, R394). -/
def Firmware.putStaged (f : Firmware) (i : FwImage) : Firmware :=
  if f.bank then { f with image0 := i, proven0 := false } else { f with image1 := i, proven1 := false }

/-- The manifest values of an image's bytes (R388; log entry 6: DESIGN CHOICE). -/
def imageOf (bs : List Byte) : FwImage :=
  { id := Config.fwId bs, secver := Config.fwSecver bs, accepts := Config.fwAccepts bs
    writes := Config.fwWrites bs, digest := Config.sha3 bs }

/-- Whether a staged image verifies (R388). -/
def Firmware.verifies (f : Firmware) (i : FwImage) (bs : List Byte) : Bool :=
  Config.mlDsaVerifies i.digest (Config.fwSignature bs) && decide (f.minSecver.toNat ≤ i.secver.toNat) &&
    i.accepts.contains f.active.writes

/-- FW_STAGE (R388): the image is copied from host memory and verified. -/
def execFwStage (fn : Nat) (s : State) : Out :=
  mailbox fn 0x20 true s fun s f =>
    let n := (f.req 2).toNat
    if s.fw.state.busy ∨ 67108864 < n then .refused
    else
      let bs := s.hostMem.bytes (f.req 1).toNat n
      let i := imageOf bs
      let ok := s.fw.verifies i bs
      .done { s with fw := { s.fw.putStaged i with state := if ok then .verified else .verifyFail } } []

/-- FW_ACTIVATE (R389). -/
def execFwActivate (fn : Nat) (s : State) : Out :=
  mailbox fn 0x21 true s fun s _ =>
    if s.fw.state ≠ .verified then .refused else .done s.activate []

/-- FW_STATUS (R382). -/
def execFwStatus (fn : Nat) (s : State) : Out :=
  mailbox fn 0x22 true s fun s _ =>
    .done s [BitVec.ofNat 64 (s.fw.state.num + (if s.fw.bank then 16 else 0)), s.fw.active.id,
      s.fw.staged.id, BitVec.ofNat 64 (s.fw.record.getD 0)]

/- ### The watchdog and rollback (R390, R392) -/

/-- What a switch held goes on: completion entries and records, wakes, sends and requests, and function-level resets
(R390, R393). -/
def State.actHeld (s : State) : State :=
  let f := s.fw
  let s := { s with fw := { f with held := [], port := [], records := [] }, agenda := s.agenda ++ f.port }
  let s := (s.queues.map (·.key)).foldl (fun s k => s.flushCqes k) s
  let s := f.records.foldl (fun s r => s.writeRecord r.1 r.2.1 r.2.2) s
  f.held.foldl (fun s fn => s.levelReset fn) s.remoteGo

/-- WATCHDOG_PET: the first pet ends the switch, and the second makes the new image the active and a proven one (R390,
R394, R395). -/
def execWatchdogPet (s : State) : Out :=
  .next (match s.fw.state with
  | .switching =>
    { s with fw := { s.fw with state := .probation } }.actHeld
  | .probation =>
    let i := s.fw.staged
    let f := { s.fw with state := .active, bank := !s.fw.bank }
    let f := if f.bank then { f with proven1 := true } else { f with proven0 := true }
    { s with fw := f }.extendMr 5 i.digest
  | _ => s)

/-- The prior bank runs again (R392): FW_ROLLBACK is raised as a package notice and, in a pod, the prior
image id ordered as FWW. -/
def State.rollBack (s : State) : State :=
  let bad := s.fw.staged.id
  let prior := s.fw.prior
  let s := { s with fw := { s.fw with state := .rolledBack } }
  let s := s.raiseFault 0xffffffff ⟨stFailed, 0xa1, BitVec.ofNat 16 s.pkg, bad⟩
  let s := if s.inPod then s.raiseEvent 8 0 0 (s.rulesetRec 0x41 s.pkg prior).paramA prior else s
  s.actHeld

/-- WATCHDOG_EXPIRY: 500 ms have passed before the first pet (R392). -/
def execWatchdogExpiry (s : State) : Out :=
  .next (if s.fw.state = .switching then s.rollBack else s)

/-- PROBATION_TIMEOUT: step 7 has not come within 10 s of step 3 (R392). -/
def execProbationTimeout (s : State) : Out :=
  .next (if s.fw.state = .probation then s.rollBack else s)

/- ### Boot and power (R393 to R395) -/

/-- A bank's stages checked in order, each extending its measurement register before it runs; whether all
verified. -/
def State.runStages (s : State) (d : BitVec 512) : State × Bool :=
  [1, 2, 3].foldl (fun (r : State × Bool) k =>
    if r.2 && Config.stageVerifies k d then (r.1.extendMr k (Config.stageDigest k d), true)
    else (r.1, false)) (s, true)

/-- A bank tried at boot (R394): one that fails is marked unproven, one that runs becomes the active and a
proven one. -/
def State.tryBank (s : State) (b : Bool) : State × Bool :=
  let d := if b then s.fw.image1.digest else s.fw.image0.digest
  let r := s.runStages d
  let f := r.1.fw
  let f := if b then { f with proven1 := r.2 } else { f with proven0 := r.2 }
  ({ r.1 with fw := if r.2 then { f with bank := b } else f }, r.2)

/-- BOOT (R394, R395): at reset, when no measurement has been made. -/
def execBoot (s : State) : Out :=
  .next (
    if !s.mr.isEmpty then s
    else
      let s := { s with off := false }.extendMr 0 (Config.stageDigest 0 0)
      let proven := if s.fw.bank then s.fw.proven1 else s.fw.proven0
      let first := if proven then s.fw.bank else !s.fw.bank
      let r := s.tryBank first
      if r.2 then r.1
      else
        let r := r.1.tryBank (!first)
        if r.2 then r.1 else { r.1 with fw := { r.1.fw with onlyMailbox := true } })

/-- POWER_LOSS: everything volatile is lost; the firmware banks and the host's memory stay, and a staged bank
that a switch had started counts as unproven (R393). -/
def execPowerLoss (s : State) : Out :=
  .next (
    let f := if s.fw.state = .switching ∨ s.fw.state = .probation then s.fw.putStaged s.fw.staged else s.fw
    { State.reset with
      hostMem := s.hostMem
      fw := { f with state := .idle, station := 0, record := none, held := [], port := [], records := [], onlyMailbox := false }
      off := true })

end Sys2Proof.Machine
end

