-- ==== Sys2Proof/Machine/Management.lean ====
section
/-! DEFINITION. The package's edges and its management: register writes (R5, R379), the aperture (R380), copy
channels (R385), monitors (R396, R397), SPDM (R395), scrubbing (R364), links (R371), power and temperature
(R398). -/

namespace Sys2Proof.Machine

/-- An access that is ignored or fails, counted in a function's error log (R379, R380). -/
def State.countError (s : State) (fn : Nat) : State :=
  match s.func? fn with
  | some f => s.setFunc { f with errCount := f.errCount + 1 }
  | none => s

/- ### Copy channels (R385) -/

/-- A copy channel at reset. -/
def Channel.reset : Channel :=
  { ctx := 0, run := 0, busy := false, addr := 0, status := 0, cause := 0, done := 0, last := 0 }

/-- Channel n of a function. -/
def Func.chan (f : Func) (n : Nat) : Channel := smGet Channel.reset f.chans n
/-- The function with channel n written. -/
def Func.setChan (f : Func) (n : Nat) (c : Channel) : Func :=
  { f with chans := smSet Channel.reset f.chans n c }

/-- A write to CHHEAD: the chain starts; while BUSY, or for an unused context, it is ignored and logged. -/
def State.chanHead (s : State) (fn n : Nat) (v : DWord) : State :=
  match s.func? fn with
  | none => s
  | some f =>
    let c := f.chan n
    if 4 ≤ n ∨ c.busy ∨ (s.ctxArg fn c.ctx).isNone then s.countError fn
    else s.setFunc (f.setChan n { c with
      busy := true, run := c.ctx, addr := v, status := 0, cause := 0, done := 0, last := 0 })

/-- CHHEAD (R385). -/
def execChhead (fn n : Nat) (v : BitVec 64) (s : State) : Out := .next (s.chanHead fn n v)

/-- A channel's chain ends: its status stands, CHLAST names the record at which it stopped, the last one where NEXT was
0, and vector 1 + n is raised. -/
def State.chanEnd (s : State) (fn n : Nat) (status cause : BitVec 8) : State :=
  match s.func? fn with
  | none => s
  | some f =>
    let c := f.chan n
    (s.setFunc (f.setChan n { c with
      busy := false, status := status, cause := cause, last := if c.addr = 0 then c.last else c.addr })).raiseMsix fn
      (1 + n)

/-- A channel's chain moves one record on, or ends (R273, R385). -/
def State.chainChannel (s : State) (fn n : Nat) : State :=
  match s.func? fn with
  | none => s
  | some f =>
    let ch := f.chan n
    match s.ctxArg fn ch.run with
    | none => if ch.busy then s.chanEnd fn n 2 cPERM else s
    | some c =>
      if !ch.busy then s
      else
        match chainStep s Block.blank c none ch.addr.toNat with
        | .ended => s.chanEnd fn n 1 0
        | .faulted t _ cause _ _ => t.chanEnd fn n 2 cause
        | .waits t => t
        | .moved t _ next _ =>
          (match t.func? fn with
          | some g => t.setFunc (g.setChan n { ch with addr := next, last := ch.addr, done := ch.done + 1 })
          | none => t)

/-- CHAIN_RECORD_DONE: a chain moves one record on (R273, R385). -/
def execChainRecordDone (at_ : ChainAt) (s : State) : Out :=
  .next (match at_ with
  | .queue b => s.chainQueue b
  | .channel fn n => s.chainChannel fn n)

/- ### The aperture (R380) -/

/-- Where a host request at an aperture offset acts; none where it has no effect. -/
def State.apertureLocs (s : State) (fn off n : Nat) (acc : Access) : Option (List Loc) :=
  match s.func? fn with
  | none => none
  | some f =>
    if !f.apctl.getLsbD 8 then none
    else
      let va := f.apbase.toNat + off
      match s.ctxArg fn (f.apctl &&& 0xff#64) with
      | none => none
      | some c =>
        if inDevice va || inDevice (va + n - 1) then none
        else
          match s.resolve c (BitVec.ofNat 64 va) n acc with
          | .ok r => some r.1
          | .error _ => none

/-- Whether an access has 1, 2, 4 or 8 bytes and is naturally aligned. -/
def natural (off n : Nat) : Bool := (n == 1 || n == 2 || n == 4 || n == 8) && off % n == 0

/-- An unsupported request (R380). -/
def State.refuseHost (s : State) (fn : Nat) : State :=
  { s.countError fn with outbox := s.outbox ++ [.unsupported fn] }

/-- APERTURE_READ: the bytes, or all ones, to the root complex alone (R380). -/
def execApertureRead (req : HostReq) (off n : Nat) (s : State) : Out :=
  .next (
    let fn := req.fn
    if !req.rc || !natural off n || decide (2 ^ 32 < off + n) then s.refuseHost fn
    else
      match s.apertureLocs fn off n .load with
      | some ls =>
        if (s.firstPoison ls).isSome then
          { s.countError fn with outbox := s.outbox ++ [.hostData fn (List.replicate n 0xff)] }
        else { s with outbox := s.outbox ++ [.hostData fn (ls.map (readLoc s Block.blank))] }
      | none => { s.countError fn with outbox := s.outbox ++ [.hostData fn (List.replicate n 0xff)] })

/-- APERTURE_WRITE: the bytes are written, or the request has no effect; the root complex alone may
ask (R380). -/
def execApertureWrite (req : HostReq) (off : Nat) (bytes : List Byte) (s : State) : Out :=
  .next (
    let fn := req.fn
    let n := bytes.length
    let line := decide (1 ≤ n) && decide (off / 64 = (off + n - 1) / 64)
    if !req.rc || !(natural off n || line) || decide (2 ^ 32 < off + n) then s.refuseHost fn
    else
      match s.apertureLocs fn off n .store with
      | some ls => s.writeLocs ls bytes
      | none => s.countError fn)

/- ### Monitors (R396, R397) -/

/-- A monitor at reset. -/
def Monitor.reset : Monitor :=
  { source := 0, en := false, min := 0xffffffff, max := 0, cnt := 0, edges := [], bins := [] }

/-- Monitor m of the package: 32 × die + number. -/
def State.monitor (s : State) (m : Nat) : Monitor := smGet Monitor.reset s.mons m
/-- The state with a monitor written. -/
def State.setMonitor (s : State) (m : Nat) (x : Monitor) : State :=
  { s with mons := smSet Monitor.reset s.mons m x }

/-- The counts, minimum and maximum zeroed. -/
def Monitor.clear (m : Monitor) : Monitor := { m with min := 0, max := 0, cnt := 0, bins := [] }

/-- MCTL_CLEAR (R396). -/
def execMctlClear (m : Nat) (s : State) : Out := .next (s.setMonitor m (s.monitor m).clear)

/-- Edge i. -/
def Monitor.edge (m : Monitor) (i : Nat) : Word := smGet 0 m.edges i

/-- The bin of a sample. -/
def Monitor.binOf (m : Monitor) (x : Word) : Nat :=
  if (List.range 14).all fun i => decide ((m.edge i).toNat < (m.edge (i + 1)).toNat) then
    ((List.range 15).find? fun i => decide (x.toNat < (m.edge i).toNat)).getD 15
  else 15

/-- A sample taken. -/
def Monitor.sample (m : Monitor) (x : Word) : Monitor :=
  let b := m.binOf x
  let n := smGet 0 m.bins b
  { m with
    min := if x.toNat < m.min.toNat then x else m.min
    max := if m.max.toNat < x.toNat then x else m.max
    cnt := if m.cnt = 0xffffffffffffffff then m.cnt else m.cnt + 1
    bins := smSet 0 m.bins b (if n = 0xffffffff then n else n + 1) }

/-- MONITOR_SAMPLE: an enabled monitor with a listed source takes a sample (R396, R397). -/
def execMonitorSample (m : Nat) (x : BitVec 32) (s : State) : Out :=
  .next (
    let o := s.monitor m
    if o.en && decide (1 ≤ o.source) && decide (o.source ≤ 8) then s.setMonitor m (o.sample x) else s)

/-- A write to a monitor's registers (R396). -/
def State.monitorWrite (s : State) (m off : Nat) (v : DWord) : State :=
  let o := s.monitor m
  if off = 0 then
    let o := { o with source := (v.extractLsb' 2 6).toNat, en := v.getLsbD 0 }
    s.setMonitor m (if v.getLsbD 1 then o.clear else o)
  else if 0x20 ≤ off ∧ off < 0x60 then
    let i := (off - 0x20) / 4
    let e := smSet 0 o.edges i (v.extractLsb' 0 32)
    s.setMonitor m { o with edges := if i < 14 then smSet 0 e (i + 1) (v.extractLsb' 32 32) else e }
  else s

/- ### Register writes (R5, R379) -/

/-- The event of a request in a mailbox (R382); none for an unlisted OP. -/
def mailboxEvent (fn op : Nat) : Option Instr :=
  match op with
  | 0x01 => some (.ctxNew fn)
  | 0x02 => some (.ctxFree fn)
  | 0x03 => some (.qReg fn)
  | 0x04 => some (.qDel fn)
  | 0x05 => some (.iblk fn)
  | 0x06 => some (.shoot fn)
  | 0x07 => some (.podbind fn)
  | 0x08 => some (.log fn)
  | 0x09 => some (.share fn)
  | 0x0a => some (.debug fn)
  | 0x10 => some (.podForm fn)
  | 0x11 => some (.podJoin fn)
  | 0x12 => some (.podRule fn)
  | 0x13 => some (.mailboxUnblock fn)
  | 0x14 => some (.sched fn)
  | 0x20 => some (.fwStage fn)
  | 0x21 => some (.fwActivate fn)
  | 0x22 => some (.fwStatus fn)
  | _ => none

/-- MBDOOR (R381): the request is taken up, after a firmware switch but for staging and status (R390, R391, R393); an
unlisted OP is refused (log entry 21: DESIGN CHOICE). -/
def State.ringDoor (s : State) (f : Func) : State :=
  if f.busy then s.countError f.num
  else
    let s := s.setFunc { f with busy := true }
    match mailboxEvent f.num ((f.req 0).extractLsb' 0 8).toNat with
    | some i =>
      let op := ((f.req 0).extractLsb' 0 8).toNat
      if s.fwHeld ∧ op ≠ 0x20 ∧ op ≠ 0x22 then s.holdAtPort i else { s with agenda := s.agenda ++ [i] }
    | none => s.mbAnswer f.num 1 []

/-- The wake cell of a queue index written through the wake window (R31, R379). -/
def State.wakeWindow (s : State) (fn off : Nat) (v : DWord) : State :=
  match s.queues.find? fun q => q.fn == fn && q.index == off / 64 with
  | some q => s.wakeStore [.wake q.key (off % 64)] (leBytes 8 v.toNat)
  | none => s.countError fn

/-- A word of the MSI-X table written: a pending vector whose mask bit is cleared is raised, as in PCIe. -/
def State.msixWrite (s : State) (f : Func) (k : Nat) (v : DWord) : State :=
  let f := { f with msixTable := smSet (if k % 2 = 1 then 0x100000000 else 0) f.msixTable k v }
  if k % 2 = 1 ∧ !v.getLsbD 32 ∧ f.msixPend.contains (k / 2) then
    (s.setFunc { f with msixPend := f.msixPend.filter fun n => n != k / 2 }).raiseMsix f.num (k / 2)
  else s.setFunc f

/-- A write to BAR 0 of a function (R379 to R381, R385, R396). -/
def State.barWrite (s : State) (f : Func) (off : Nat) (v : DWord) : State :=
  if off < 0x40 then s.setFunc { f with mbreq := smSet 0 f.mbreq (off / 8) v }
  else if off = 0x80 then s.ringDoor f
  else if 0x1000 ≤ off ∧ off < 0x1100 then
    let n := (off - 0x1000) / 0x40
    if off % 0x40 = 0 then s.setFunc (f.setChan n { f.chan n with ctx := v &&& 0xff#64 })
    else if off % 0x40 = 8 then s.chanHead f.num n v
    else s
  else if off = 0x2000 then s.setFunc { f with apctl := v &&& 0x1ff#64 }
  else if off = 0x2008 then s.setFunc { f with apbase := v &&& 0x00ffffff00000000#64 }
  else if 0x8000 ≤ off ∧ off < 0x10000 then s.wakeWindow f.num (off - 0x8000) v
  else if 0x20000 ≤ off ∧ off < 0x40000 then
    { s with agenda := s.agenda ++ [.hostInterruptSend f.num (off - 0x20000) v] }
  else if 0x40000 ≤ off ∧ off < 0x44000 then s.msixWrite f ((off - 0x40000) / 8) v
  else if 0x50000 ≤ off ∧ off < 0x58000 ∧ f.num = 0 then
    s.monitorWrite ((off - 0x50000) / 0x100) (off % 0x100) v
  else s

/-- Whether an access of n bytes at an offset lies in the MSI-X table and is one that PCIe allows there (R379). -/
def inMsix (off n : Nat) : Bool :=
  decide (0x40000 ≤ off ∧ off < 0x44000) && (n == 4 || n == 8) && off % n == 0

/-- Whether a BAR 0 access is an aligned 8-byte access within the BAR (R379). -/
def barAligned (off n : Nat) : Bool := n == 8 && off % 8 == 0 && decide (off < 0x80000)

/-- A 32-bit half of a word replaced. -/
def putHalf (w : DWord) (high : Bool) (v : DWord) : DWord :=
  if high then v.extractLsb' 0 32 ++ w.extractLsb' 0 32 else w.extractLsb' 32 32 ++ v.extractLsb' 0 32

/-- REGISTER_WRITE: a write of n bytes to a function's BAR 0 or to a supervisor core's control window; the MSI-X table
takes 4-byte writes too, any other access that is not an aligned 8-byte one is ignored and counted, and a host's AtomicOp
on a BAR is an unsupported request (R5, R341, R378, R379). -/
def execRegisterWrite (r : RegSel) (v : BitVec 64) (s : State) : Out :=
  .next (match r with
  | .bar0 fn off n =>
    (match s.func? fn with
    | none => s
    | some f =>
      if inMsix off n && n == 4 then
        s.msixWrite f ((off - 0x40000) / 8) (putHalf (f.msixWord ((off - 0x40000) / 8)) (off % 8 == 4) v)
      else if barAligned off n then s.barWrite f off v
      else s.countError fn)
  | .control core off n => s.controlWrite core off n v
  | .atomicOp fn => s.refuseHost fn)

/-- The word of a monitor's registers at an offset (R396). -/
def Monitor.word (m : Monitor) (off : Nat) : DWord :=
  let pair (get : Nat → Word) (i : Nat) : DWord := get (i + 1) ++ get i
  if off = 0 then BitVec.ofNat 64 (m.source * 4) ||| (0#63 ++ bit m.en)
  else if off = 8 then 0#32 ++ m.min
  else if off = 0x10 then 0#32 ++ m.max
  else if off = 0x18 then m.cnt
  else if 0x20 ≤ off ∧ off < 0x60 then pair (fun i => if i < 15 then m.edge i else 0) ((off - 0x20) / 4)
  else if 0x60 ≤ off ∧ off < 0xa0 then pair (fun i => smGet 0 m.bins i) ((off - 0x60) / 4)
  else 0

/-- CHSTAT (R385). -/
def Channel.stat (c : Channel) : DWord := c.done ++ 0#8 ++ c.cause ++ c.status ++ 0#7 ++ bit c.busy

/-- What a word of BAR 0 of a function reads as: write-only registers, reserved places, the wake and interrupt windows
that a function does not hold and, in a virtual function, the management region read as zero (R5, R31, R310, R379 to
R381, R385, R396). -/
def State.barWord (s : State) (f : Func) (off : Nat) : DWord :=
  if off < 0x40 then smGet 0 f.mbreq (off / 8)
  else if off < 0x80 then smGet 0 f.mbrsp (off / 8 - 8)
  else if off = 0x88 then 0#63 ++ bit f.busy
  else if 0x1000 ≤ off ∧ off < 0x1100 then
    (let c := f.chan ((off - 0x1000) / 0x40)
    if off % 0x40 = 0 then c.ctx
    else if off % 0x40 = 0x10 then c.stat
    else if off % 0x40 = 0x18 then c.last
    else 0)
  else if off = 0x2000 then f.apctl
  else if off = 0x2008 then f.apbase
  else if 0x8000 ≤ off ∧ off < 0x10000 then
    (match s.queues.find? fun q => q.fn == f.num && q.index == (off - 0x8000) / 64 with
    | some q => wakeRead q (off % 64)
    | none => 0)
  else if 0x40000 ≤ off ∧ off < 0x44000 then f.msixWord ((off - 0x40000) / 8)
  else if 0x44000 ≤ off ∧ off < 0x44080 then
    (List.range 64).foldl (fun v k =>
      if f.msixPend.contains ((off - 0x44000) * 8 + k) then v ||| (1#64 <<< k) else v) 0
  else if 0x50000 ≤ off ∧ off < 0x58000 ∧ f.num = 0 then
    (s.monitor ((off - 0x50000) / 0x100)).word (off % 0x100)
  else 0

/-- A read of n bytes of a function's BAR 0: the state it leaves and the value (R5, R379). An access that is not an
aligned 8-byte one, nor a 4-byte one of the MSI-X table, is counted and reads as zero (log entry 3: DESIGN CHOICE). -/
def State.barRead (s : State) (fn off n : Nat) : State × DWord :=
  match s.func? fn with
  | none => (s, 0)
  | some f =>
    if inMsix off n && n == 4 then
      (s, 0#32 ++ (s.barWord f (off / 8 * 8)).extractLsb' (if off % 8 = 4 then 32 else 0) 32)
    else if barAligned off n then (s, s.barWord f off)
    else (s.countError fn, 0)

/- ### The SPDM responder (R395) -/

/-- An answer of the responder, with the bytes that the manual does not give. -/
def State.spdmSay (s : State) (f : List Byte → SpdmReply) : Out :=
  .next { s with spdm := s.spdm ++ [f (Config.spdmReply s.free)], free := s.free + 1 }

/-- GET_VERSION. -/
def execGetVersion (s : State) : Out := s.spdmSay .version
/-- GET_CAPABILITIES. -/
def execGetCapabilities (s : State) : Out := s.spdmSay .capabilities
/-- NEGOTIATE_ALGORITHMS: with ML-DSA-87 and SHA3-512 only. -/
def execNegotiateAlgorithms (mlDsa87 sha3 _other : Bool) (s : State) : Out :=
  s.spdmSay fun b => if mlDsa87 && sha3 then .algorithms b else .unsupportedRequest
/-- GET_DIGESTS. -/
def execGetDigests (s : State) : Out := s.spdmSay .digests
/-- GET_CERTIFICATE. -/
def execGetCertificate (s : State) : Out := s.spdmSay .certificate
/-- CHALLENGE. -/
def execChallenge (s : State) : Out := s.spdmSay .challengeAuth
/-- GET_MEASUREMENTS: indices 1 to 8 give registers 0 to 7. -/
def execGetMeasurements (index : Nat) (s : State) : Out :=
  s.spdmSay fun _ =>
    if 1 ≤ index ∧ index ≤ 8 then .measurements (index - 1) (smGet 0 s.mr (index - 1))
    else .unsupportedRequest
/-- Any other request. -/
def execSpdmUnsupported (_code : BitVec 8) (s : State) : Out := s.spdmSay fun _ => .unsupportedRequest

/- ### Errors, links, power -/

/-- The warp of an error site. -/
def State.warpFull (s : State) (b w : Nat) : Option (Block × Warp × Grid) :=
  (s.block? b).bind fun bl => (bl.warp? w).bind fun wa => (s.grid? bl.grid).map fun g => (bl, wa, g)

/-- A poisoned word: its key joins a list once. -/
def markIn (l : List Nat) (k : Nat) : List Nat := if l.contains k then l else l ++ [k]

/-- An uncorrectable error found where a program can reach: the word or granule is poisoned, a line of an instruction
cache is refilled, and in the plat, event and batch buffers the package fences itself (R363, R377). A granule of an
image in the shadow store is poisoned in the image that a resume reads (log entry 7: DESIGN CHOICE). -/
def State.poisonSite (s : State) (e : ErrSite) (at_ : Nat) : State :=
  match e with
  | .mem t =>
    let k := (match t with
      | .dram => 0
      | .lpddr => 1, at_)
    if s.poison.contains k then s else { s with poison := s.poison ++ [k] }
  | .vreg b w r =>
    (match s.warpFull b w with
    | some (bl, wa, g) =>
      if r < g.img.desc.vregs ∧ at_ < 32 then s.setBlock (bl.setWarp { wa with poison := markIn wa.poison (vkey r at_) })
      else s
    | none => s)
  | .sreg b w r =>
    (match s.warpFull b w with
    | some (bl, wa, g) =>
      if r < g.img.desc.sregs then s.setBlock (bl.setWarp { wa with sPoison := markIn wa.sPoison r }) else s
    | none => s)
  | .preg b w r =>
    (match s.warpFull b w with
    | some (bl, wa, g) =>
      if r < g.img.desc.pregs ∧ at_ < 32 then
        s.setBlock (bl.setWarp { wa with pPoison := markIn wa.pPoison (vkey r at_) })
      else s
    | none => s)
  | .spad b =>
    (match s.block? b with
    | some bl =>
      if ((s.grid? bl.grid).map (·.img.desc.spad)).getD 0 ≤ 4 * at_ then s
      else s.setBlock { bl with spadPoison := markIn bl.spadPoison at_ }
    | none => s)
  | .acc core =>
    let c := s.core core
    if at_ < 32768 then s.setCore core { c with mx := { c.mx with accPoison := markIn c.mx.accPoison at_ } } else s
  | .plane core =>
    let c := s.core core
    if at_ < 16384 then
      s.setCore core { c with mx := { c.mx with planePoison := markIn c.mx.planePoison at_ } }
    else s
  | .shadow b =>
    (match s.block? b with
    | some bl =>
      (match s.grid? bl.grid with
      | some g =>
        if !s.shadowed bl bl.coreNum ∨ g.img.desc.area ≤ 8 * at_ then s
        else
          let s := if bl.valid then s else s.copyArea bl g
          let k := ((0 : Nat), (b + 8 * at_) / 8)
          { s.dropShadow bl with poison := if s.poison.contains k then s.poison else s.poison ++ [k] }
      | none => s)
    | none => s)
  | .iline core ctx => s.setCore core ((s.core core).dropLine ctx at_)
  | .plat => if s.trav.role = .member ∨ s.trav.role = .replaying then s.fenceSelf s.station else s

/-- The log's UNIT and ADDR of an error site (R368). -/
def siteLog (k : Nat) : ErrSite → Nat × Nat
  | .mem t => (match t with
    | .dram => k * 8 / 2 ^ 35
    | .lpddr => 0, k * 8)
  | .vreg b _ r => (0, b + r * 128 + k * 4)
  | .sreg b _ r => (0, b + r * 8 + k * 4)
  | .preg b _ _ => (0, b + k * 8)
  | .spad b => (0, b + 4 * k)
  | .acc c => (c, 4 * k)
  | .plane c => (c, 4 * k)
  | .shadow b => (0, b + 8 * k)
  | .iline c _ => (c, k)
  | .plat => (0, 0)

/-- Whether a granule of memory lies in its tier. -/
def siteExists (k : Nat) : ErrSite → Bool
  | .mem .dram => decide (k * 8 < Config.dramSize)
  | .mem .lpddr => decide (k * 8 < Config.lpddrSize)
  | _ => true

/-- SCRUB: an error found by the scrub, or by the read that meets it, is corrected and logged, or poisons what it stands
in; a granule that the scrub poisons is logged as such (R363, R364, R368). -/
def execScrub (found : ErrSite) (at_ : Nat) (uncorrectable : Bool) (s : State) : Out :=
  .next (
    let u := siteLog at_ found
    let line : Bool := match found with
      | .iline _ _ => true
      | _ => false
    let mem : Bool := match found with
      | .mem _ => true
      | _ => false
    if !siteExists at_ found then s
    else if !uncorrectable then
      (if line then s.poisonSite found at_ else s).logPkg kCorrected 0 u.1 (BitVec.ofNat 64 u.2)
    else if mem then (s.poisonSite found at_).logPkg kScrub 0 u.1 (BitVec.ofNat 64 u.2)
    else s.poisonSite found at_)

/-- A link at reset: 2 spare lanes in each direction, full width (R371). -/
def Link.reset : Link :=
  { sparesOut := 2, sparesIn := 2, halfOut := false, halfIn := false, down := false, retries := 0 }
/-- A link. -/
def State.link (s : State) (n : Nat) : Link := smGet Link.reset s.links n
/-- The state with a link written. -/
def State.setLink (s : State) (n : Nat) (l : Link) : State :=
  { s with links := smSet Link.reset s.links n l }

/-- A link goes down, which is logged: traffic takes the package's other links (R371). -/
def State.linkGoesDown (s : State) (n : Nat) : State :=
  (s.setLink n { s.link n with down := true }).logPkg kLink 0 n 0

/-- FLIT_RETRANSMIT: the link layer sends a flit again; programs see only delay. After 32 retransmissions of one flit
without success the link is down (R371). -/
def execFlitRetransmit (f : FlitTry) (s : State) : Out :=
  .next (
    let l := s.link f.link
    if l.down then s
    else if f.ok then s.setLink f.link { l with retries := 0 }
    else if 31 ≤ l.retries then s.linkGoesDown f.link
    else s.setLink f.link { l with retries := l.retries + 1 })

/-- A link whose lane fails in one direction: a spare of that direction replaces it, or the link runs at half width
there (R371). -/
def Link.retrained (l : Link) (outward : Bool) : Link :=
  if outward then
    (if l.sparesOut = 0 then { l with halfOut := true } else { l with sparesOut := l.sparesOut - 1 })
  else if l.sparesIn = 0 then { l with halfIn := true } else { l with sparesIn := l.sparesIn - 1 }

/-- LANE_RETRAIN: a spare replaces the failing lane; with none left the link runs at half width (R371). -/
def execLaneRetrain (f : LaneFail) (s : State) : Out :=
  .next (
    let l := s.link f.link
    if l.down then s else (s.setLink f.link (l.retrained f.outward)).logPkg kLink 0 f.link 0)

/-- LINK_DOWN: the link carries no more flits; traffic takes the package's other links (R371). -/
def execLinkDown (link : Nat) (s : State) : Out :=
  .next (if (s.link link).down then s else s.linkGoesDown link)

/-- THERMAL_THROTTLE: a die's core clock moves one step of 50 MHz between 550 and 1,100 MHz; the change is
logged (R398). -/
def execThermalThrottle (die : Nat) (raise : Bool) (s : State) : Out :=
  .next (
    let d := s.die die
    let c := if raise then Nat.min (d.clock + 50) 1100 else Nat.max (d.clock - 50) 550
    if 4 ≤ die ∨ c = d.clock then s
    else (s.setDie die { d with clock := c }).logPkg Config.clockKind 0 die (BitVec.ofNat 64 c))

/-- THERMAL_SHUTDOWN: the package stops every core, then its links (R398). -/
def execThermalShutdown (s : State) : Out := .next { s with off := true }

end Sys2Proof.Machine
end

