-- ==== Sys2Proof/Machine/Dispatch.lean ====
section
/-! DEFINITION. One arm per row of spec/opcode_table.json: one direct call of its meaning. -/

namespace Sys2Proof.Machine

def exec (i : Instr) (s : State) : Host.Outcome State Fault Refusal :=
  match i with
  | .braShort a0 => Sys2Proof.Machine.execBraShort a0 s
  | .braLit a0 => Sys2Proof.Machine.execBraLit a0 s
  | .bra a0 a1 a2 => Sys2Proof.Machine.execBra a0 a1 a2 s
  | .callShort a0 => Sys2Proof.Machine.execCallShort a0 s
  | .callLit a0 => Sys2Proof.Machine.execCallLit a0 s
  | .call a0 a1 a2 => Sys2Proof.Machine.execCall a0 a1 a2 s
  | .jmp a0 a1 a2 => Sys2Proof.Machine.execJmp a0 a1 a2 s
  | .brx a0 a1 a2 a3 a4 => Sys2Proof.Machine.execBrx a0 a1 a2 a3 a4 s
  | .retShort => Sys2Proof.Machine.execRetShort s
  | .ret a0 => Sys2Proof.Machine.execRet a0 s
  | .callx a0 a1 a2 => Sys2Proof.Machine.execCallx a0 a1 a2 s
  | .nopShort => Sys2Proof.Machine.execNopShort s
  | .nop a0 => Sys2Proof.Machine.execNop a0 s
  | .join a0 a1 => Sys2Proof.Machine.execJoin a0 a1 s
  | .yield a0 => Sys2Proof.Machine.execYield a0 s
  | .exitShort => Sys2Proof.Machine.execExitShort s
  | .exit a0 => Sys2Proof.Machine.execExit a0 s
  | .trap a0 a1 => Sys2Proof.Machine.execTrap a0 a1 s
  | .brk a0 a1 => Sys2Proof.Machine.execBrk a0 a1 s
  | .spawn a0 a1 a2 a3 => Sys2Proof.Machine.execSpawn a0 a1 a2 a3 s
  | .addShort a0 a1 a2 => Sys2Proof.Machine.execAddShort a0 a1 a2 s
  | .addLit a0 a1 a2 => Sys2Proof.Machine.execAddLit a0 a1 a2 s
  | .add a0 a1 a2 a3 a4 a5 => Sys2Proof.Machine.execAdd a0 a1 a2 a3 a4 a5 s
  | .sub a0 a1 a2 a3 a4 a5 => Sys2Proof.Machine.execSub a0 a1 a2 a3 a4 a5 s
  | .add3 a0 a1 a2 a3 a4 a5 a6 => Sys2Proof.Machine.execAdd3 a0 a1 a2 a3 a4 a5 a6 s
  | .mulLo a0 a1 a2 a3 a4 => Sys2Proof.Machine.execMulLo a0 a1 a2 a3 a4 s
  | .mulHi a0 a1 a2 a3 a4 => Sys2Proof.Machine.execMulHi a0 a1 a2 a3 a4 s
  | .mad a0 a1 a2 a3 a4 a5 => Sys2Proof.Machine.execMad a0 a1 a2 a3 a4 a5 s
  | .madWide a0 a1 a2 a3 a4 a5 => Sys2Proof.Machine.execMadWide a0 a1 a2 a3 a4 a5 s
  | .min a0 a1 a2 a3 a4 => Sys2Proof.Machine.execMin a0 a1 a2 a3 a4 s
  | .max a0 a1 a2 a3 a4 => Sys2Proof.Machine.execMax a0 a1 a2 a3 a4 s
  | .abs a0 a1 a2 a3 a4 => Sys2Proof.Machine.execAbs a0 a1 a2 a3 a4 s
  | .neg a0 a1 a2 a3 a4 => Sys2Proof.Machine.execNeg a0 a1 a2 a3 a4 s
  | .andShort a0 a1 a2 => Sys2Proof.Machine.execAndShort a0 a1 a2 s
  | .andLit a0 a1 a2 => Sys2Proof.Machine.execAndLit a0 a1 a2 s
  | .and a0 a1 a2 a3 a4 => Sys2Proof.Machine.execAnd a0 a1 a2 a3 a4 s
  | .or a0 a1 a2 a3 a4 => Sys2Proof.Machine.execOr a0 a1 a2 a3 a4 s
  | .xor a0 a1 a2 a3 a4 => Sys2Proof.Machine.execXor a0 a1 a2 a3 a4 s
  | .not a0 a1 a2 a3 => Sys2Proof.Machine.execNot a0 a1 a2 a3 s
  | .tern a0 a1 a2 a3 a4 a5 a6 => Sys2Proof.Machine.execTern a0 a1 a2 a3 a4 a5 a6 s
  | .shlShort a0 a1 a2 => Sys2Proof.Machine.execShlShort a0 a1 a2 s
  | .shlLit a0 a1 a2 => Sys2Proof.Machine.execShlLit a0 a1 a2 s
  | .shl a0 a1 a2 a3 a4 => Sys2Proof.Machine.execShl a0 a1 a2 a3 a4 s
  | .shr a0 a1 a2 a3 a4 => Sys2Proof.Machine.execShr a0 a1 a2 a3 a4 s
  | .sar a0 a1 a2 a3 a4 => Sys2Proof.Machine.execSar a0 a1 a2 a3 a4 s
  | .bfe a0 a1 a2 a3 a4 => Sys2Proof.Machine.execBfe a0 a1 a2 a3 a4 s
  | .bfi a0 a1 a2 a3 a4 a5 => Sys2Proof.Machine.execBfi a0 a1 a2 a3 a4 a5 s
  | .popc a0 a1 a2 a3 => Sys2Proof.Machine.execPopc a0 a1 a2 a3 s
  | .clz a0 a1 a2 a3 => Sys2Proof.Machine.execClz a0 a1 a2 a3 s
  | .brev a0 a1 a2 a3 => Sys2Proof.Machine.execBrev a0 a1 a2 a3 s
  | .sel a0 a1 a2 a3 a4 a5 => Sys2Proof.Machine.execSel a0 a1 a2 a3 a4 a5 s
  | .cmp a0 a1 a2 a3 a4 a5 => Sys2Proof.Machine.execCmp a0 a1 a2 a3 a4 a5 s
  | .lea a0 a1 a2 a3 a4 a5 => Sys2Proof.Machine.execLea a0 a1 a2 a3 a4 a5 s
  | .movShort a0 a1 => Sys2Proof.Machine.execMovShort a0 a1 s
  | .movLit a0 a1 => Sys2Proof.Machine.execMovLit a0 a1 s
  | .mov a0 a1 a2 a3 => Sys2Proof.Machine.execMov a0 a1 a2 a3 s
  | .movk a0 a1 a2 a3 a4 => Sys2Proof.Machine.execMovk a0 a1 a2 a3 a4 s
  | .cvtI a0 a1 a2 a3 a4 => Sys2Proof.Machine.execCvtI a0 a1 a2 a3 a4 s
  | .pand a0 a1 a2 a3 a4 a5 => Sys2Proof.Machine.execPand a0 a1 a2 a3 a4 a5 s
  | .por a0 a1 a2 a3 a4 a5 => Sys2Proof.Machine.execPor a0 a1 a2 a3 a4 a5 s
  | .pxor a0 a1 a2 a3 a4 a5 => Sys2Proof.Machine.execPxor a0 a1 a2 a3 a4 a5 s
  | .pnot a0 a1 a2 a3 => Sys2Proof.Machine.execPnot a0 a1 a2 a3 s
  | .pmov a0 a1 a2 a3 => Sys2Proof.Machine.execPmov a0 a1 a2 a3 s
  | .vote a0 a1 a2 a3 => Sys2Proof.Machine.execVote a0 a1 a2 a3 s
  | .pcnt a0 a1 a2 a3 a4 => Sys2Proof.Machine.execPcnt a0 a1 a2 a3 a4 s
  | .saddShort a0 a1 a2 => Sys2Proof.Machine.execSaddShort a0 a1 a2 s
  | .saddLit a0 a1 a2 => Sys2Proof.Machine.execSaddLit a0 a1 a2 s
  | .sadd a0 a1 a2 a3 => Sys2Proof.Machine.execSadd a0 a1 a2 a3 s
  | .ssub a0 a1 a2 a3 => Sys2Proof.Machine.execSsub a0 a1 a2 a3 s
  | .smul a0 a1 a2 a3 => Sys2Proof.Machine.execSmul a0 a1 a2 a3 s
  | .sand a0 a1 a2 a3 => Sys2Proof.Machine.execSand a0 a1 a2 a3 s
  | .sor a0 a1 a2 a3 => Sys2Proof.Machine.execSor a0 a1 a2 a3 s
  | .sxor a0 a1 a2 a3 => Sys2Proof.Machine.execSxor a0 a1 a2 a3 s
  | .sshl a0 a1 a2 a3 => Sys2Proof.Machine.execSshl a0 a1 a2 a3 s
  | .sshr a0 a1 a2 a3 a4 => Sys2Proof.Machine.execSshr a0 a1 a2 a3 a4 s
  | .scmp a0 a1 a2 a3 a4 a5 => Sys2Proof.Machine.execScmp a0 a1 a2 a3 a4 a5 s
  | .smov a0 a1 a2 => Sys2Proof.Machine.execSmov a0 a1 a2 s
  | .sld a0 a1 a2 a3 a4 => Sys2Proof.Machine.execSld a0 a1 a2 a3 a4 s
  | .bcast a0 a1 a2 a3 => Sys2Proof.Machine.execBcast a0 a1 a2 a3 s
  | .lane a0 a1 a2 a3 a4 => Sys2Proof.Machine.execLane a0 a1 a2 a3 a4 s
  | .sreg a0 a1 a2 => Sys2Proof.Machine.execSreg a0 a1 a2 s
  | .sbra a0 a1 a2 a3 => Sys2Proof.Machine.execSbra a0 a1 a2 a3 s
  | .faddShort a0 a1 a2 => Sys2Proof.Machine.execFaddShort a0 a1 a2 s
  | .faddLit a0 a1 a2 => Sys2Proof.Machine.execFaddLit a0 a1 a2 s
  | .fadd a0 a1 a2 a3 a4 a5 => Sys2Proof.Machine.execFadd a0 a1 a2 a3 a4 a5 s
  | .fsub a0 a1 a2 a3 a4 a5 => Sys2Proof.Machine.execFsub a0 a1 a2 a3 a4 a5 s
  | .fmul a0 a1 a2 a3 a4 a5 => Sys2Proof.Machine.execFmul a0 a1 a2 a3 a4 a5 s
  | .fma a0 a1 a2 a3 a4 a5 a6 => Sys2Proof.Machine.execFma a0 a1 a2 a3 a4 a5 a6 s
  | .fmin a0 a1 a2 a3 a4 a5 => Sys2Proof.Machine.execFmin a0 a1 a2 a3 a4 a5 s
  | .fmax a0 a1 a2 a3 a4 a5 => Sys2Proof.Machine.execFmax a0 a1 a2 a3 a4 a5 s
  | .fcmp a0 a1 a2 a3 a4 a5 a6 => Sys2Proof.Machine.execFcmp a0 a1 a2 a3 a4 a5 a6 s
  | .frcp a0 a1 a2 a3 a4 a5 => Sys2Proof.Machine.execFrcp a0 a1 a2 a3 a4 a5 s
  | .frsq a0 a1 a2 a3 a4 => Sys2Proof.Machine.execFrsq a0 a1 a2 a3 a4 s
  | .fsqrt a0 a1 a2 a3 a4 a5 => Sys2Proof.Machine.execFsqrt a0 a1 a2 a3 a4 a5 s
  | .fex2 a0 a1 a2 a3 a4 => Sys2Proof.Machine.execFex2 a0 a1 a2 a3 a4 s
  | .flg2 a0 a1 a2 a3 a4 => Sys2Proof.Machine.execFlg2 a0 a1 a2 a3 a4 s
  | .fsin a0 a1 a2 a3 a4 => Sys2Proof.Machine.execFsin a0 a1 a2 a3 a4 s
  | .fcos a0 a1 a2 a3 a4 => Sys2Proof.Machine.execFcos a0 a1 a2 a3 a4 s
  | .frnd a0 a1 a2 a3 a4 a5 => Sys2Proof.Machine.execFrnd a0 a1 a2 a3 a4 a5 s
  | .fcls a0 a1 a2 a3 a4 => Sys2Proof.Machine.execFcls a0 a1 a2 a3 a4 s
  | .fsgn a0 a1 a2 a3 a4 a5 => Sys2Proof.Machine.execFsgn a0 a1 a2 a3 a4 a5 s
  | .hfma2 a0 a1 a2 a3 a4 a5 a6 a7 => Sys2Proof.Machine.execHfma2 a0 a1 a2 a3 a4 a5 a6 a7 s
  | .hadd2 a0 a1 a2 a3 a4 a5 a6 => Sys2Proof.Machine.execHadd2 a0 a1 a2 a3 a4 a5 a6 s
  | .hmul2 a0 a1 a2 a3 a4 a5 a6 => Sys2Proof.Machine.execHmul2 a0 a1 a2 a3 a4 a5 a6 s
  | .dfma a0 a1 a2 a3 a4 a5 => Sys2Proof.Machine.execDfma a0 a1 a2 a3 a4 a5 s
  | .dadd a0 a1 a2 a3 a4 => Sys2Proof.Machine.execDadd a0 a1 a2 a3 a4 s
  | .dmul a0 a1 a2 a3 a4 => Sys2Proof.Machine.execDmul a0 a1 a2 a3 a4 s
  | .cvtF a0 a1 a2 a3 a4 a5 a6 => Sys2Proof.Machine.execCvtF a0 a1 a2 a3 a4 a5 a6 s
  | .cvtSb a0 a1 a2 a3 a4 a5 a6 a7 a8 a9 => Sys2Proof.Machine.execCvtSb a0 a1 a2 a3 a4 a5 a6 a7 a8 a9 s
  | .cvtXsb a0 a1 a2 a3 a4 a5 a6 a7 a8 => Sys2Proof.Machine.execCvtXsb a0 a1 a2 a3 a4 a5 a6 a7 a8 s
  | .xlane a0 a1 a2 a3 a4 a5 a6 => Sys2Proof.Machine.execXlane a0 a1 a2 a3 a4 a5 a6 s
  | .matchLanes a0 a1 a2 a3 a4 => Sys2Proof.Machine.execMatchLanes a0 a1 a2 a3 a4 s
  | .red a0 a1 a2 a3 => Sys2Proof.Machine.execRed a0 a1 a2 a3 s
  | .scan a0 a1 a2 a3 a4 => Sys2Proof.Machine.execScan a0 a1 a2 a3 a4 s
  | .ckacc a0 a1 a2 a3 a4 => Sys2Proof.Machine.execCkacc a0 a1 a2 a3 a4 s
  | .ckchk a0 a1 a2 a3 => Sys2Proof.Machine.execCkchk a0 a1 a2 a3 s
  | .ckclr a0 a1 a2 => Sys2Proof.Machine.execCkclr a0 a1 a2 s
  | .ckrd a0 a1 a2 a3 => Sys2Proof.Machine.execCkrd a0 a1 a2 a3 s
  | .ld a0 a1 a2 a3 a4 a5 => Sys2Proof.Machine.execLd a0 a1 a2 a3 a4 a5 s
  | .ldq a0 a1 a2 a3 a4 => Sys2Proof.Machine.execLdq a0 a1 a2 a3 a4 s
  | .st a0 a1 a2 a3 a4 a5 => Sys2Proof.Machine.execSt a0 a1 a2 a3 a4 a5 s
  | .atom a0 a1 a2 a3 a4 a5 a6 a7 a8 a9 a10 => Sys2Proof.Machine.execAtom a0 a1 a2 a3 a4 a5 a6 a7 a8 a9 a10 s
  | .redM a0 a1 a2 a3 a4 a5 a6 a7 a8 => Sys2Proof.Machine.execRedM a0 a1 a2 a3 a4 a5 a6 a7 a8 s
  | .waitv a0 a1 a2 a3 a4 a5 a6 a7 => Sys2Proof.Machine.execWaitv a0 a1 a2 a3 a4 a5 a6 a7 s
  | .fence a0 a1 a2 a3 a4 => Sys2Proof.Machine.execFence a0 a1 a2 a3 a4 s
  | .prf a0 a1 a2 => Sys2Proof.Machine.execPrf a0 a1 a2 s
  | .flushHost a0 a1 a2 => Sys2Proof.Machine.execFlushHost a0 a1 a2 s
  | .invalHost a0 a1 a2 => Sys2Proof.Machine.execInvalHost a0 a1 a2 s
  | .tcfg a0 a1 a2 a3 a4 a5 => Sys2Proof.Machine.execTcfg a0 a1 a2 a3 a4 a5 s
  | .tstat a0 a1 a2 => Sys2Proof.Machine.execTstat a0 a1 a2 s
  | .tfree a0 a1 => Sys2Proof.Machine.execTfree a0 a1 s
  | .tload a0 a1 a2 a3 a4 a5 => Sys2Proof.Machine.execTload a0 a1 a2 a3 a4 a5 s
  | .tstore a0 a1 a2 a3 a4 a5 => Sys2Proof.Machine.execTstore a0 a1 a2 a3 a4 a5 s
  | .cp a0 a1 a2 a3 a4 a5 => Sys2Proof.Machine.execCp a0 a1 a2 a3 a4 a5 s
  | .waitk a0 a1 => Sys2Proof.Machine.execWaitk a0 a1 s
  | .qpush a0 a1 a2 => Sys2Proof.Machine.execQpush a0 a1 a2 s
  | .qpop a0 a1 a2 => Sys2Proof.Machine.execQpop a0 a1 a2 s
  | .rput a0 a1 a2 a3 a4 a5 => Sys2Proof.Machine.execRput a0 a1 a2 a3 a4 a5 s
  | .rget a0 a1 a2 a3 a4 a5 => Sys2Proof.Machine.execRget a0 a1 a2 a3 a4 a5 s
  | .mrsv a0 a1 => Sys2Proof.Machine.execMrsv a0 a1 s
  | .mrel a0 => Sys2Proof.Machine.execMrel a0 s
  | .mgang a0 a1 => Sys2Proof.Machine.execMgang a0 a1 s
  | .mstat a0 a1 => Sys2Proof.Machine.execMstat a0 a1 s
  | .mlds a0 a1 a2 a3 a4 => Sys2Proof.Machine.execMlds a0 a1 a2 a3 a4 s
  | .mswp a0 => Sys2Proof.Machine.execMswp a0 s
  | .mstr a0 a1 a2 a3 a4 a5 a6 a7 => Sys2Proof.Machine.execMstr a0 a1 a2 a3 a4 a5 a6 a7 s
  | .mrd a0 a1 a2 a3 a4 => Sys2Proof.Machine.execMrd a0 a1 a2 a3 a4 s
  | .mwr a0 a1 a2 a3 a4 => Sys2Proof.Machine.execMwr a0 a1 a2 a3 a4 s
  | .mst a0 a1 a2 a3 a4 a5 a6 a7 => Sys2Proof.Machine.execMst a0 a1 a2 a3 a4 a5 a6 a7 s
  | .mstM a0 a1 a2 a3 a4 a5 a6 a7 => Sys2Proof.Machine.execMstM a0 a1 a2 a3 a4 a5 a6 a7 s
  | .mclr a0 a1 => Sys2Proof.Machine.execMclr a0 a1 s
  | .bar a0 a1 a2 a3 a4 => Sys2Proof.Machine.execBar a0 a1 a2 a3 a4 s
  | .barArr a0 a1 a2 a3 a4 => Sys2Proof.Machine.execBarArr a0 a1 a2 a3 a4 s
  | .barWt a0 a1 a2 a3 a4 => Sys2Proof.Machine.execBarWt a0 a1 a2 a3 a4 s
  | .psub a0 a1 a2 => Sys2Proof.Machine.execPsub a0 a1 a2 s
  | .pyld a0 a1 a2 => Sys2Proof.Machine.execPyld a0 a1 a2 s
  | .uibind a0 a1 a2 a3 => Sys2Proof.Machine.execUibind a0 a1 a2 a3 s
  | .uisend a0 a1 a2 => Sys2Proof.Machine.execUisend a0 a1 a2 s
  | .uiwait a0 => Sys2Proof.Machine.execUiwait a0 s
  | .uimask a0 a1 a2 a3 => Sys2Proof.Machine.execUimask a0 a1 a2 a3 s
  | .uiret a0 a1 => Sys2Proof.Machine.execUiret a0 a1 s
  | .rgnShort => Sys2Proof.Machine.execRgnShort s
  | .rgn a0 => Sys2Proof.Machine.execRgn a0 s
  | .rgnx a0 => Sys2Proof.Machine.execRgnx a0 s
  | .npe a0 => Sys2Proof.Machine.execNpe a0 s
  | .pe a0 => Sys2Proof.Machine.execPe a0 s
  | .lnrd a0 a1 a2 a3 => Sys2Proof.Machine.execLnrd a0 a1 a2 a3 s
  | .lnwr a0 a1 a2 a3 => Sys2Proof.Machine.execLnwr a0 a1 a2 a3 s
  | .tret a0 a1 a2 a3 a4 => Sys2Proof.Machine.execTret a0 a1 a2 a3 a4 s
  | .csrr a0 a1 a2 => Sys2Proof.Machine.execCsrr a0 a1 a2 s
  | .csrw a0 a1 a2 a3 => Sys2Proof.Machine.execCsrw a0 a1 a2 a3 s
  | .launch a0 => Sys2Proof.Machine.execLaunch a0 s
  | .copy a0 => Sys2Proof.Machine.execCopy a0 s
  | .wait a0 => Sys2Proof.Machine.execWait a0 s
  | .signal a0 => Sys2Proof.Machine.execSignal a0 s
  | .branch a0 => Sys2Proof.Machine.execBranch a0 s
  | .barrier a0 => Sys2Proof.Machine.execBarrier a0 s
  | .flush a0 => Sys2Proof.Machine.execFlush a0 s
  | .inval a0 => Sys2Proof.Machine.execInval a0 s
  | .mark a0 => Sys2Proof.Machine.execMark a0 s
  | .barrierSatisfied a0 => Sys2Proof.Machine.execBarrierSatisfied a0 s
  | .waitPoll a0 => Sys2Proof.Machine.execWaitPoll a0 s
  | .launchComplete a0 => Sys2Proof.Machine.execLaunchComplete a0 s
  | .copyComplete a0 a1 => Sys2Proof.Machine.execCopyComplete a0 a1 s
  | .wtail a0 a1 => Sys2Proof.Machine.execWtail a0 a1 s
  | .wcqdone a0 a1 => Sys2Proof.Machine.execWcqdone a0 a1 s
  | .wctlRestart a0 => Sys2Proof.Machine.execWctlRestart a0 s
  | .wctlRestartSkip a0 => Sys2Proof.Machine.execWctlRestartSkip a0 s
  | .wctlAbort a0 => Sys2Proof.Machine.execWctlAbort a0 s
  | .latchedTailRangeEntry a0 => Sys2Proof.Machine.execLatchedTailRangeEntry a0 s
  | .slotGrant a0 => Sys2Proof.Machine.execSlotGrant a0 s
  | .slotLoaded a0 => Sys2Proof.Machine.execSlotLoaded a0 s
  | .unmapSave a0 => Sys2Proof.Machine.execUnmapSave a0 s
  | .batchSend => Sys2Proof.Machine.execBatchSend s
  | .stationClose => Sys2Proof.Machine.execStationClose s
  | .startOffer a0 => Sys2Proof.Machine.execStartOffer a0 s
  | .raiseFinish a0 => Sys2Proof.Machine.execRaiseFinish a0 s
  | .quartetPlace a0 => Sys2Proof.Machine.execQuartetPlace a0 s
  | .blockSwapOut a0 => Sys2Proof.Machine.execBlockSwapOut a0 s
  | .contextAreaCopy a0 => Sys2Proof.Machine.execContextAreaCopy a0 s
  | .blockResume a0 => Sys2Proof.Machine.execBlockResume a0 s
  | .waiterSwitch a0 => Sys2Proof.Machine.execWaiterSwitch a0 s
  | .warpHalt a0 a1 => Sys2Proof.Machine.execWarpHalt a0 a1 s
  | .eccReentry a0 a1 => Sys2Proof.Machine.execEccReentry a0 a1 s
  | .shootdownComplete a0 => Sys2Proof.Machine.execShootdownComplete a0 s
  | .waitvRecheck a0 a1 => Sys2Proof.Machine.execWaitvRecheck a0 a1 s
  | .remoteAccess a0 => Sys2Proof.Machine.execRemoteAccess a0 s
  | .remoteAck a0 a1 => Sys2Proof.Machine.execRemoteAck a0 a1 s
  | .transferComplete a0 a1 => Sys2Proof.Machine.execTransferComplete a0 a1 s
  | .copyf a0 a1 => Sys2Proof.Machine.execCopyf a0 a1 s
  | .engineResult a0 a1 a2 => Sys2Proof.Machine.execEngineResult a0 a1 a2 s
  | .chainRecordDone a0 => Sys2Proof.Machine.execChainRecordDone a0 s
  | .matrixOpExecute a0 => Sys2Proof.Machine.execMatrixOpExecute a0 s
  | .barFitDetect a0 a1 => Sys2Proof.Machine.execBarFitDetect a0 a1 s
  | .uisendReceive a0 => Sys2Proof.Machine.execUisendReceive a0 s
  | .hostInterruptSend a0 a1 a2 => Sys2Proof.Machine.execHostInterruptSend a0 a1 a2 s
  | .ctxNew a0 => Sys2Proof.Machine.execCtxNew a0 s
  | .ctxFree a0 => Sys2Proof.Machine.execCtxFree a0 s
  | .qReg a0 => Sys2Proof.Machine.execQReg a0 s
  | .qDel a0 => Sys2Proof.Machine.execQDel a0 s
  | .iblk a0 => Sys2Proof.Machine.execIblk a0 s
  | .shoot a0 => Sys2Proof.Machine.execShoot a0 s
  | .podbind a0 => Sys2Proof.Machine.execPodbind a0 s
  | .log a0 => Sys2Proof.Machine.execLog a0 s
  | .share a0 => Sys2Proof.Machine.execShare a0 s
  | .debug a0 => Sys2Proof.Machine.execDebug a0 s
  | .podForm a0 => Sys2Proof.Machine.execPodForm a0 s
  | .podJoin a0 => Sys2Proof.Machine.execPodJoin a0 s
  | .podRule a0 => Sys2Proof.Machine.execPodRule a0 s
  | .mailboxUnblock a0 => Sys2Proof.Machine.execMailboxUnblock a0 s
  | .sched a0 => Sys2Proof.Machine.execSched a0 s
  | .fwStage a0 => Sys2Proof.Machine.execFwStage a0 s
  | .fwActivate a0 => Sys2Proof.Machine.execFwActivate a0 s
  | .fwStatus a0 => Sys2Proof.Machine.execFwStatus a0 s
  | .sactResume a0 a1 => Sys2Proof.Machine.execSactResume a0 a1 s
  | .sactSkip a0 a1 => Sys2Proof.Machine.execSactSkip a0 a1 s
  | .sactKill a0 a1 => Sys2Proof.Machine.execSactKill a0 a1 s
  | .sactEnd a0 a1 a2 => Sys2Proof.Machine.execSactEnd a0 a1 a2 s
  | .sactUtrap a0 a1 a2 => Sys2Proof.Machine.execSactUtrap a0 a1 a2 s
  | .sactRelease a0 a1 => Sys2Proof.Machine.execSactRelease a0 a1 s
  | .sactHalt a0 => Sys2Proof.Machine.execSactHalt a0 s
  | .sactReserved a0 => Sys2Proof.Machine.execSactReserved a0 s
  | .loadCompletion a0 a1 a2 => Sys2Proof.Machine.execLoadCompletion a0 a1 a2 s
  | .waitTimeout a0 => Sys2Proof.Machine.execWaitTimeout a0 s
  | .sliceExpiry a0 => Sys2Proof.Machine.execSliceExpiry a0 s
  | .batchReceive a0 a1 a2 => Sys2Proof.Machine.execBatchReceive a0 a1 a2 s
  | .suspectTimeout => Sys2Proof.Machine.execSuspectTimeout s
  | .voteReceive a0 a1 a2 => Sys2Proof.Machine.execVoteReceive a0 a1 a2 s
  | .snapshotLoad a0 a1 => Sys2Proof.Machine.execSnapshotLoad a0 a1 s
  | .joinProgressCheck a0 => Sys2Proof.Machine.execJoinProgressCheck a0 s
  | .drainDeadline a0 => Sys2Proof.Machine.execDrainDeadline a0 s
  | .stopDeadline a0 => Sys2Proof.Machine.execStopDeadline a0 s
  | .testDue a0 a1 => Sys2Proof.Machine.execTestDue a0 a1 s
  | .testDeadline a0 a1 => Sys2Proof.Machine.execTestDeadline a0 a1 s
  | .testComplete a0 a1 a2 a3 => Sys2Proof.Machine.execTestComplete a0 a1 a2 a3 s
  | .priResponse a0 a1 a2 => Sys2Proof.Machine.execPriResponse a0 a1 a2 s
  | .atsInvalidation a0 => Sys2Proof.Machine.execAtsInvalidation a0 s
  | .watchdogPet => Sys2Proof.Machine.execWatchdogPet s
  | .watchdogExpiry => Sys2Proof.Machine.execWatchdogExpiry s
  | .probationTimeout => Sys2Proof.Machine.execProbationTimeout s
  | .apertureRead a0 a1 a2 => Sys2Proof.Machine.execApertureRead a0 a1 a2 s
  | .apertureWrite a0 a1 a2 => Sys2Proof.Machine.execApertureWrite a0 a1 a2 s
  | .monitorSample a0 a1 => Sys2Proof.Machine.execMonitorSample a0 a1 s
  | .registerWrite a0 a1 => Sys2Proof.Machine.execRegisterWrite a0 a1 s
  | .boot => Sys2Proof.Machine.execBoot s
  | .getVersion => Sys2Proof.Machine.execGetVersion s
  | .getCapabilities => Sys2Proof.Machine.execGetCapabilities s
  | .negotiateAlgorithms a0 a1 a2 => Sys2Proof.Machine.execNegotiateAlgorithms a0 a1 a2 s
  | .getDigests => Sys2Proof.Machine.execGetDigests s
  | .getCertificate => Sys2Proof.Machine.execGetCertificate s
  | .challenge => Sys2Proof.Machine.execChallenge s
  | .getMeasurements a0 => Sys2Proof.Machine.execGetMeasurements a0 s
  | .spdmUnsupported a0 => Sys2Proof.Machine.execSpdmUnsupported a0 s
  | .scrub a0 a1 a2 => Sys2Proof.Machine.execScrub a0 a1 a2 s
  | .flitRetransmit a0 => Sys2Proof.Machine.execFlitRetransmit a0 s
  | .laneRetrain a0 => Sys2Proof.Machine.execLaneRetrain a0 s
  | .linkDown a0 => Sys2Proof.Machine.execLinkDown a0 s
  | .unreachableReport a0 => Sys2Proof.Machine.execUnreachableReport a0 s
  | .thermalThrottle a0 a1 => Sys2Proof.Machine.execThermalThrottle a0 a1 s
  | .thermalShutdown => Sys2Proof.Machine.execThermalShutdown s
  | .fenceI a0 => Sys2Proof.Machine.execFenceI a0 s
  | .joinRequest a0 a1 => Sys2Proof.Machine.execJoinRequest a0 a1 s
  | .powerLoss => Sys2Proof.Machine.execPowerLoss s
  | .functionLevelReset a0 => Sys2Proof.Machine.execFunctionLevelReset a0 s
  | .mctlClear a0 => Sys2Proof.Machine.execMctlClear a0 s
  | .chhead a0 a1 a2 => Sys2Proof.Machine.execChhead a0 a1 a2 s
  | .svecWrite a0 a1 a2 => Sys2Proof.Machine.execSvecWrite a0 a1 a2 s

end Sys2Proof.Machine
end

