-- ==== Sys2Proof/Machine/Schedule.lean ====
section
/-! DEFINITION. Who acts next: the warps in round robin (R126), and the placing of an instruction
where the next fetch reads it. -/

namespace Sys2Proof.Machine

/-- Where a warp stands in the order in which warps are served: core number, then slot (R126). -/
def serveKey (b : Block) (w : Warp) : Nat := b.coreNum * 64 + w.slot

/-- The warps that have an entry to issue, with their serving keys. -/
def State.ready (s : State) : List (Nat × (Nat × Nat)) :=
  (s.blocks.map fun b => b.warps.filterMap fun w =>
    if ({ s with cur := (b.key, w.num) }.site 0).isSome then
      some (serveKey b w, (b.key, w.num))
    else none).flatten

/-- The entry with the lowest key. -/
def leastKey (l : List (Nat × (Nat × Nat))) : Option (Nat × (Nat × Nat)) :=
  l.foldl (fun m e =>
    match m with
    | some f => if e.1 < f.1 then some e else some f
    | none => some e) none

/-- The issue partition of a serving key: core × 4 + slot mod 4 (R126). -/
def partOf (key : Nat) : Nat := key / 64 * 4 + key % 4

/-- The first entry in order from key k on, else the first of all. -/
def firstFrom (k : Nat) (l : List (Nat × (Nat × Nat))) : Option (Nat × (Nat × Nat)) :=
  (leastKey (l.filter fun e => decide (k ≤ e.1))).orElse fun _ => leastKey l

/-- The warp served next with its serving key: the partitions take turns, and each serves its warps in round
robin, starting after the warp it last served (R126). -/
def State.nextServed (s : State) : Option (Nat × (Nat × Nat)) :=
  let r := s.ready
  (firstFrom s.part (r.map fun e => (partOf e.1, e.2))).bind fun p =>
    let last := smGet 0 s.turns p.1
    firstFrom (p.1 / 4 * 64 + last) (r.filter fun e => partOf e.1 == p.1)

/-- The warp served next (R126). -/
def State.nextWarp (s : State) : Option (Nat × Nat) := s.nextServed.map (·.2)

/-- The state as a warp is served: its partition goes on after it (R126). -/
def State.serveWarp (s : State) (e : Nat × (Nat × Nat)) : State :=
  { s with
    cur := e.2, engineTurn := true, part := partOf e.1 + 1
    turns := smSet 0 s.turns (partOf e.1) (e.1 % 64 + 1) }

/- ### What the package does on its own -/

/-- The work that may be due in a block: loads, transfers, engine commands, waits, halts, moves; `coll` says whether its
oldest collective moves on without a part of another member (R222). -/
def Block.work (b : Block) (coll : Bool) : List Instr :=
  (b.warps.map fun w =>
    (w.loads.filter fun o => o.val.isSome).map (fun o => Instr.loadCompletion b.key w.num o.id) ++
      (if w.waits.isEmpty then [] else [Instr.waitvRecheck b.key w.num]) ++
      (if w.st.pdbg then [Instr.warpHalt b.key w.num] else []) ++
      (if w.st.hold then [Instr.eccReentry b.key w.num] else [])).flatten ++
    (b.xfers.map fun x => [Instr.transferComplete b.key x.id, Instr.copyf b.key x.id]).flatten ++
    (([0, 2, 4, 6].filter fun q => (!(b.queue q).isEmpty && (q != 4 || coll)) ||
        b.results.any fun r => r.1 == q + 1).map fun q =>
      Instr.engineResult b.key (BitVec.ofNat 3 q) []) ++
    (if (b.queue 0).isEmpty then [] else [Instr.chainRecordDone (.queue b.key)]) ++
    [Instr.matrixOpExecute b.coreNum, Instr.blockSwapOut b.key, Instr.contextAreaCopy b.key,
      Instr.blockResume b.key] ++
    (if b.res == .resident then [Instr.waiterSwitch b.coreNum] else [])

/-- The work that may be due for a queue: its packet at HEAD, a held command, copies, its slot. -/
def Queue.work (q : Queue) : List Instr :=
  [.launch q.key, .copy q.key, .wait q.key, .signal q.key, .branch q.key, .barrier q.key, .flush q.key,
    .inval q.key, .mark q.key, .barrierSatisfied q.key, .waitPoll q.key, .slotLoaded q.key,
    .unmapSave q.key, .latchedTailRangeEntry q.key] ++
    q.copies.map fun j => Instr.copyComplete q.key j.idx.toNat

/-- The work that may be due for a grid: placing, completion, the barrier that cannot complete. -/
def Grid.work (g : Grid) : List Instr :=
  [.quartetPlace g.id, .startOffer g.id, .launchComplete g.id, .raiseFinish g.id] ++
    (List.range 16).map fun n => Instr.barFitDetect g.id n

/-- The work of a function's copy channels. -/
def Func.work (f : Func) : List Instr :=
  f.chans.map fun c => Instr.chainRecordDone (.channel f.num c.1)

/-- Everything that the package may have to do on its own, enabled or not; a request to a fenced package
counts as refused (R237). -/
def State.works (s : State) : List Instr :=
  (s.blocks.map fun b => b.work (match s.grid? b.grid with
    | some g => !g.pod || s.collMoves b g
    | none => true)).flatten ++
    (s.queues.map Queue.work).flatten ++ (s.grids.map Grid.work).flatten ++
    (s.funcs.map Func.work).flatten ++ ((List.range 4).map fun d => Instr.slotGrant d) ++
    (s.rows.map fun r => Instr.startOffer r.grid) ++
    (s.shoots.map fun x => Instr.shootdownComplete x.id) ++
    ((s.fabricOut.filter fun o => s.memState o.req.dst == 2).map fun o => .remoteAck o.req.id .refused) ++
    [.batchSend, .stationClose]

/-- A piece of work tried: it counts only where it changes the state. -/
def State.tryWork (s : State) (n : Nat) (i : Instr) : Option (Host.Outcome State Fault Refusal) :=
  match exec i s with
  | .next t => if t = s then none else some (.next { t with engineTurn := false, rotor := n + 1 })
  | o => some o

/-- The next piece of the package's own work that changes the state, each in its turn. -/
def State.ownWork (s : State) : Option (Host.Outcome State Fault Refusal) :=
  if s.off then none
  else
    let ws := s.works
    let k := if s.rotor < ws.length then s.rotor else 0
    ((((List.range ws.length).zip ws).drop k) ++ (((List.range ws.length).zip ws).take k)).findSome?
      fun p => s.tryWork p.1 p.2

/- ### Placing an instruction -/

/-- The bytes of a number stored where the current warp fetches, in the pages that its PC's
addresses translate to; the lines that held them are dropped. -/
def State.pokeCode (s : State) (n w : Nat) : State :=
  match s.site 0 with
  | none => s
  | some x =>
    match x.ctx? with
    | none => s
    | some c =>
      let pc := x.pc.toNat
      let s' := ((List.range n).zip (leBytes n w)).foldl (fun s p =>
        match s.fetchPage c (pc + p.1) with
        | .ok pg => writeMem s (.mem pg.tier (pg.base + (pc + p.1) % 2 ^ 16)) p.2
        | .error _ => s) s
      let k := x.b.coreNum
      s'.setCore k (((s'.core k).dropLine c.num pc).dropLine c.num (pc + n - 1))

/-- An entry of a translation table that points to a table in bonded DRAM (R211). -/
def tablePointer (off : Nat) : DWord := BitVec.ofNat 64 (off + 1)

/-- The context of a loaded program: its root table lies at 0x10000 (R211). -/
def programCtx : Ctx :=
  { num := 0, fn := 0, c := 0, rootTier := 0, rootOff := 0x10000, poolOff := 0x1000000,
    poolSize := 0x1000000, allocs := [(0x1000000, 0x51000)], pctx := none, iblk := none, brken := false,
    halt := false, log := ⟨none, 0, []⟩ }

/-- The grid of a loaded program: one block of one warp, every register declared, its code at
0x100 (R8 to R10). -/
def programGrid : Grid :=
  { id := 0, pod := false, ctx := 0, queue := none, owner := .nobody
    img := { addr := 0, codeOff := 0x100, codeLen := 0xf000, check := 0, entOff := 0, descOff := 0,
             entries := [],
             desc := { vregs := 256, sregs := 24, pregs := 64, warps := 1, bars := 16,
                       spad := 0x10000, cstack := 4096, trapent := 0xffffffff, rlimit := 15,
                       det := false, quota := 0, tlrcnt := 0, tlroff := 0 },
             tlrs := [] }
    entry := 0, args := 0x7f4000000000, argPhys := 0x30000, argLen := 0, gx := 1, gy := 1, gz := 1,
    rank := 0, nrank := 1, parcels := 0xff, nextQuartet := 1, ahead := [], takeover := 0, offered := false,
    stopped := false, ending := none, complete := false, podArrived := [], podSent := [], park := 0 }

/-- The block of a loaded program. -/
def programBlock : Block := { Block.blank with begun := true, warps := [Warp.start 0 0 0x100 0x80 0] }

/-- The machine with a program loaded from outside it: context, tables, grid and block of one warp
(log entry 13: DESIGN CHOICE). -/
def State.loadProgram (s : State) : State :=
  { s with
    ctxs := [programCtx], grids := [programGrid], blocks := [programBlock], cores := []
    dram := ((((s.dram.setWord64 0x10000 (tablePointer 0x11000)).setWord64 0x11000
      (tablePointer 0x12000)).setWord64 0x12000 (tablePointer 0x13000)).setWord64 0x13000
      (tablePointer 0x14000)).setWord64 0x14000 0x2000b }

/-- The warp that fetches next becomes the current one; without one a program is loaded. -/
def State.aim (s : State) : State :=
  match s.nextWarp with
  | some k => { s with cur := k }
  | none => { s.loadProgram with cur := (0x1000000, 0) }

end Sys2Proof.Machine
end

