-- ==== Sys2Proof/Machine/Step.lean ====
section
/-! DEFINITION. One step of the machine: an input that waits, then in turn the work of an engine or
the next instruction of a warp; and the placing of an instruction at the next fetch. -/

namespace Sys2Proof.Machine

/-- The current warp goes on with a commit under way, or fetches and runs its next instruction, or takes the
fetch's trap. -/
def State.stepWarp (s : State) : Out :=
  match s.commitPending with
  | some (.point i) => exec i s
  | some (.lanes off) => .next (((s.site 0).map fun x => x.continueCommit off).getD s)
  | none =>
    match s.fetchNext with
    | (s, some (.run i)) => s.begins i (exec i s)
    | (s, some (.trap _ len c)) => .next (s.fetchTrap len c)
    | (s, none) => .next s

/-- Whether a package that is off takes an input: only power and boot reach it. -/
def wakes (i : Instr) : Bool := i == .boot || i == .powerLoss

/-- The next instruction of the warp whose turn it is; none where no warp can issue. -/
def State.warpTurn (s : State) : Option Out :=
  s.nextServed.map fun e => (s.serveWarp e).stepWarp

/-- One step (R126, R331): an input that waits; else in turn the next warp and the package's own work. -/
def step (s : State) : Out :=
  match s.agenda with
  | i :: rest => if s.off && !wakes i then .next { s with agenda := rest } else exec i { s with agenda := rest }
  | [] =>
    if s.engineTurn then (s.ownWork.orElse fun _ => s.warpTurn).getD (.fault .idle)
    else (s.warpTurn.orElse fun _ => s.ownWork).getD (.fault .idle)

/-- The state with the instruction of the given bits placed where the next step fetches (R95); the
bits above nbits are zero up to the longest instruction. -/
def State.withFetchWord (s : State) (nbits w : Nat) : State :=
  let t := { s with agenda := [], engineTurn := false }.aim
  { t.pokeCode 20 (w % 2 ^ nbits) with cur := if s.nextWarp.isSome then s.cur else t.cur }

end Sys2Proof.Machine
end

