-- ==== Sys2Proof/Safety.lean ====
section
/-! DEFINITION. The terms in which claims are stated: when an instruction issues and completes, where
lanes stand, what an instruction leaves as it was, and the well-formed memory of the machine. -/

namespace Sys2Proof.Machine

/-- Every memory of the machine is in canonical form. -/
def State.memWf (s : State) : Bool := s.dram.wf && s.lpddr.wf && s.hostMem.wf

/-- The warp of this number in the block of this key. -/
def State.warpAt (s : State) (k : Nat × Nat) : Option Warp :=
  (s.block? k.1).bind fun b => b.warp? k.2

/-- Instruction i of the current warp issues at site x and nothing keeps it from its own effect: no
commit is unfinished, it does not stall (R101, R119, R264), no check of R144 and R108 traps, and no lane
consumes poison (R365). -/
structure Issues (i : Instr) (s : State) (x : Site) : Prop where
  site : s.site i.bytes = some x
  pending : x.pending = none
  stalled : x.stalled i = false
  engine : x.mxStalled i = false
  check : x.check i = none
  clean : x.poisonMask i = 0

/-- Where a lane stands in a frontier: the PC and the park code of its entry (R118). -/
def standsIn (fr : List Entry) (l : Nat) : Option (DWord × BitVec 4) :=
  (fr.find? fun e => e.mask.getLsbD l).map fun e => (e.pc, e.park)

/-- Where a lane of a warp stands. -/
def Warp.stands (w : Warp) (l : Nat) : Option (DWord × BitVec 4) := standsIn w.frontier l

/-- The address after the instruction at a site. -/
def Site.after (x : Site) : DWord := x.pc + BitVec.ofNat 64 x.len

/-- The lanes of m stand at an address, ready to issue; at or beyond the end of the code they are
parked there for the supervisor core (R117, R122). -/
def Warp.standAll (w : Warp) (g : Grid) (m : Mask) (pc : DWord) : Prop :=
  ∀ l, l < 32 → m.getLsbD l = true →
    w.stands l = if g.codeEnd.toNat ≤ pc.toNat then some (g.codeEnd, 2) else some (pc, 0)

/-- The lanes outside m stand where they stood. -/
def Warp.standKept (w w' : Warp) (m : Mask) : Prop :=
  ∀ l, l < 32 → m.getLsbD l = false → w'.stands l = w.stands l

/-- The instruction at x has been passed: outside a handler every lane of the entry stands at the next
instruction and the other lanes stand where they stood; in a handler its PC moves on (R117, R119, R120,
R336). -/
def Site.passed (x : Site) (w : Warp) : Prop :=
  if x.handler then
    w.frontier = x.w.frontier ∧
      (x.g.legalPc x.after = true → w.frame.map (fun f => f.hoff) = some (x.off x.after))
  else w.standAll x.g x.mask x.after ∧ x.w.standKept w x.mask

/-- A warp without what control flow and traps move: frontier, trap frame, pending traps, the status
bits HOLD and NPELEFT, and the region's record of registers read and written (R118, R328, R335, R353,
R355). -/
def Warp.others (w : Warp) : Warp :=
  { w with
    frontier := [], frame := none, utraps := [], straps := []
    st := { w.st with npeleft := 0, hold := false }
    rgn := { w.rgn with rf := RegSet.empty, wr := RegSet.empty, iss := false } }

/-- A block without its warps. -/
def Block.apart (b : Block) : Block := { b with warps := [] }

/-- A grid without its end, which a trap that no handler takes writes (R340). -/
def Grid.apart (g : Grid) : Grid := { g with ending := none }

/-- A state without its blocks, its grids, the events that wait for the traverse and the counter of free
values. -/
def State.apart (s : State) : State :=
  { s with blocks := [], grids := [], trav := { s.trav with pend := [] }, free := 0 }

/-- t agrees with s in everything but the current warp: all memory, every register of every other
warp, scratchpads, tiles, queues, contexts and all else; a grid can only have ended (R340). -/
structure OthersKept (s t : State) : Prop where
  rest : t.apart = s.apart
  grids : ∀ g, (t.grid? g).map Grid.apart = (s.grid? g).map Grid.apart
  blocks : ∀ k, k ≠ s.cur.1 → t.block? k = s.block? k
  block : (t.block? s.cur.1).map Block.apart = (s.block? s.cur.1).map Block.apart
  warps : ∀ n, n ≠ s.cur.2 → t.warpAt (s.cur.1, n) = s.warpAt (s.cur.1, n)

/-- Instruction i completes: wherever it issues, `exec` answers a next state in which the current warp
is some w' with the property given, the instruction has been passed, and all else is kept. -/
def Completes (i : Instr) (post : Site → Warp → Prop) : Prop :=
  ∀ s x, Issues i s x →
    ∃ t w', exec i s = .next t ∧ t.warpAt s.cur = some w' ∧ post x w' ∧ x.passed w' ∧ OthersKept s t

/-- Instruction i has this effect: wherever it issues, `exec` answers a next state in which the current
warp is some w' with the property given, and all else is kept. -/
def Does (i : Instr) (post : Site → Warp → Prop) : Prop :=
  ∀ s x, Issues i s x →
    ∃ t w', exec i s = .next t ∧ t.warpAt s.cur = some w' ∧ post x w' ∧ OthersKept s t

/-- The same for the sites with a property. -/
def DoesIf (i : Instr) (pre : Site → Prop) (post : Site → Warp → Prop) : Prop :=
  ∀ s x, Issues i s x → pre x →
    ∃ t w', exec i s = .next t ∧ t.warpAt s.cur = some w' ∧ post x w' ∧ OthersKept s t

/-- The acting lanes of an instruction at a site (R99). -/
def Site.act (x : Site) (i : Instr) : Mask := x.acting (instrCtl i)

/-- w' is w with the vector registers d, d + 1, ... (k of them) of the lanes of m holding the words f
gives, and nothing else written. -/
structure VWritten (w w' : Warp) (d k : Nat) (m : Mask) (f : Nat → Nat → Word) : Prop where
  new : ∀ l j, l < 32 → m.getLsbD l = true → j < k → w'.vget (d + j) l = f l j
  old : ∀ n l, l < 32 → (m.getLsbD l = false ∨ n < d ∨ d + k ≤ n) → w'.vget n l = w.vget n l
  rest : w'.others = { w with v := w'.v, poison := w'.poison }.others

/-- w' is w with predicate register d of the lanes of m holding the bits f gives, and nothing else
written. -/
structure PWritten (w w' : Warp) (d : Nat) (m : Mask) (f : Nat → Bool) : Prop where
  new : ∀ l, l < 32 → m.getLsbD l = true → w'.pbit d l = f l
  old : ∀ n l, l < 32 → (m.getLsbD l = false ∨ n ≠ d) → w'.pbit n l = w.pbit n l
  rest : w'.others = { w with p := w'.p, pPoison := w'.pPoison }.others

/-- w' is w with scalar register d holding v, and nothing else written. -/
structure SWritten (w w' : Warp) (d : Nat) (v : DWord) : Prop where
  new : w'.sget d = v
  old : ∀ n, n ≠ d → w'.sget n = w.sget n
  rest : w'.others = { w with s := w'.s, sPoison := w'.sPoison }.others

/-- Instruction i writes f's value to vector register d in each acting lane, and nothing else. -/
def Writes32 (i : Instr) (d : BitVec 8) (f : Warp → Nat → Word) : Prop :=
  Completes i fun x w' => VWritten x.w w' d.toNat 1 (x.act i) fun l _ => f x.w l

/-- Instruction i writes f's value to the pair d, d + 1 in each acting lane, low word first (R142), and
nothing else. -/
def Writes64 (i : Instr) (d : BitVec 8) (f : Warp → Nat → DWord) : Prop :=
  Completes i fun x w' => VWritten x.w w' d.toNat 2 (x.act i) fun l j => (f x.w l).extractLsb' (32 * j) 32

/-- Instruction i writes f's value to predicate register d in each acting lane, and nothing else. -/
def WritesP (i : Instr) (d : BitVec 6) (f : Warp → Nat → Bool) : Prop :=
  Completes i fun x w' => PWritten x.w w' d.toNat (x.act i) (f x.w)

/-- Instruction i writes f's value to scalar register d, and nothing else. -/
def WritesS (i : Instr) (d : BitVec 5) (f : Warp → DWord) : Prop :=
  Completes i fun x w' => SWritten x.w w' d.toNat (f x.w)

/- ### Values that the rules name -/

/-- The position that a bit-field control gives (R157). -/
def fieldPos (c : Word) : Nat := c.toNat % 256
/-- n of R157: the bits of the field that lie in a w-bit value. -/
def fieldBits (w : Nat) (c : Word) : Nat := if fieldPos c < w then min (c.toNat / 256 % 256) (w - fieldPos c) else 0

/-- The lowest value of a type (R143, R176). -/
def typeLow : Ty8 → Int
  | .s32 => -2147483648
  | .s64 => -9223372036854775808
  | .s16 => -32768
  | .s8 => -128
  | _ => 0
/-- The highest value of a type (R143, R176). -/
def typeHigh : Ty8 → Int
  | .s32 => 2147483647
  | .n32 => 4294967295
  | .s64 => 9223372036854775807
  | .n64 => 18446744073709551615
  | .s16 => 32767
  | .n16 => 65535
  | .s8 => 127
  | .n8 => 255
/-- The integer that a register, or a pair for a 64-bit type, holds under a type: the low 8 or 16 bits
alone for the narrow ones (R161). -/
def typeRead (t : Ty8) (x : Word) (y : DWord) : Int :=
  match t with
  | .s32 => x.toInt
  | .n32 => x.toNat
  | .s64 => y.toInt
  | .n64 => y.toNat
  | .s16 => (x.setWidth 16).toInt
  | .n16 => (x.setWidth 16).toNat
  | .s8 => (x.setWidth 8).toInt
  | .n8 => (x.setWidth 8).toNat

/-- The acting lanes of a site in which a predicate source is true, inverted under `neg`, in ascending
order (R163, R164). -/
def Site.trueLanes (x : Site) (c : Ctl) (p : BitVec 6) (neg : Bool) : List Nat :=
  (List.range 32).filter fun l => (x.acting c).getLsbD l && (x.w.pbit p.toNat l != neg)

/-- The special registers whose value is the same in every lane and fixed by the state, with that value
(R168). -/
def specialRegisters : List (BitVec 16 × (Site → DWord)) :=
  [(0x01, fun x => BitVec.ofNat 64 x.w.num), (0x02, fun x => x.b.bx.setWidth 64),
    (0x03, fun x => x.b.by_.setWidth 64), (0x04, fun x => x.b.bz.setWidth 64),
    (0x05, fun x => BitVec.ofNat 64 x.g.gx), (0x06, fun x => BitVec.ofNat 64 x.g.gy),
    (0x07, fun x => BitVec.ofNat 64 x.g.gz), (0x08, fun x => BitVec.ofNat 64 x.b.rank),
    (0x09, fun x => BitVec.ofNat 64 x.g.nrank), (0x10, fun x => BitVec.ofNat 64 x.b.core),
    (0x11, fun x => BitVec.ofNat 64 x.b.quad), (0x12, fun x => BitVec.ofNat 64 x.b.die),
    (0x13, fun x => BitVec.ofNat 64 x.s.pkg), (0x20, fun x => x.w.rgn.rgnoff.setWidth 64),
    (0x21, fun x => x.w.rgn.reent.setWidth 64),
    (0x22, fun x => match x.w.frame with | some f => f.trap.words.w0 | none => 0),
    (0x23, fun x => match x.w.frame with | some f => f.trap.words.w1 | none => 0),
    (0x24, fun x => match x.w.frame with | some f => f.trap.words.w2 | none => 0),
    (0x25, fun x => match x.w.frame with | some f => f.trap.words.w3 | none => 0),
    (0x26, fun x => if x.b.rsv then x.b.gang.setWidth 64 else 0)]

/-- The control and status registers that `csrr` reads, with their values; an npe section has counted the
`csrr` itself (R355, R362). -/
def controlRegisters : List (BitVec 16 × (Site → DWord)) :=
  [(0x000, fun x => (x.w.flags ||| x.w.rgn.hflags).setWidth 64),
    (0x001, fun x => x.w.ckmode.setWidth 64),
    (0x002, fun x => BitVec.ofNat 64 ((List.range 8).map fun k => (x.w.token k).toNat * 64 ^ k).sum),
    (0x003, fun x => BitVec.ofNat 64 ((if x.w.st.npe then x.w.st.npeleft - 1 else x.w.st.npeleft).toNat +
      x.w.st.npe.toNat * 2 ^ 17 + x.w.frame.isSome.toNat * 2 ^ 18 + x.w.rgn.inrgn.toNat * 2 ^ 19)),
    (0x004, fun x => BitVec.ofNat 64
      (if x.g.img.desc.rlimit = 0 then 15 else x.g.img.desc.rlimit)),
    (0x010, fun x => match x.w.frame with | some f => f.tmask.setWidth 64 | none => 0)]

/- ### Floating point -/

/-- The flags that the lanes of m raise together (R182). -/
def flagsOf (m : Mask) (f : Nat → BitVec 5) : BitVec 5 :=
  ((List.range 32).filter fun l => m.getLsbD l).foldl (fun a l => a ||| f l) 0

/-- The flags that the lanes of m raise are set: in FLAGS in exposed code, in the flags held with the
region inside one (R182). -/
def Site.flagged (x : Site) (w' : Warp) (m : Mask) (f : Nat → BitVec 5) : Prop :=
  if x.inRegion then w'.flags = x.w.flags ∧ w'.rgn.hflags = x.w.rgn.hflags ||| flagsOf m f
  else w'.flags = x.w.flags ||| flagsOf m f ∧ w'.rgn.hflags = x.w.rgn.hflags

/-- The vector registers d to d + k - 1 of the lanes of m hold the words of f's patterns, f's flags are
set, and nothing else is written. -/
structure FWritten (x : Site) (w' : Warp) (d k : Nat) (m : Mask) (f : Nat → Nat × BitVec 5) : Prop where
  new : ∀ l j, l < 32 → m.getLsbD l = true → j < k →
    w'.vget (d + j) l = BitVec.ofNat 32 ((f l).1 / 2 ^ (32 * j))
  old : ∀ n l, l < 32 → (m.getLsbD l = false ∨ n < d ∨ d + k ≤ n) → w'.vget n l = x.w.vget n l
  flags : x.flagged w' m fun l => (f l).2
  rest : w'.others = { x.w with
    v := w'.v, poison := w'.poison, flags := w'.flags
    rgn := { x.w.rgn with hflags := w'.rgn.hflags } }.others

/-- Predicate register d of the lanes of m holds f's truths, f's flags are set, and nothing else is
written. -/
structure FPWritten (x : Site) (w' : Warp) (d : Nat) (m : Mask) (f : Nat → Bool × BitVec 5) : Prop where
  new : ∀ l, l < 32 → m.getLsbD l = true → w'.pbit d l = (f l).1
  old : ∀ n l, l < 32 → (m.getLsbD l = false ∨ n ≠ d) → w'.pbit n l = x.w.pbit n l
  flags : x.flagged w' m fun l => (f l).2
  rest : w'.others = { x.w with
    p := w'.p, pPoison := w'.pPoison, flags := w'.flags, rgn := { x.w.rgn with hflags := w'.rgn.hflags } }.others

/-- Instruction i writes f's binary32 patterns to D, or with w64 its binary64 patterns to the pair D, and
sets the flags. -/
def WritesF (i : Instr) (w64 : Bool) (d : BitVec 8) (f : Warp → Nat → Nat × BitVec 5) : Prop :=
  Completes i fun x w' => FWritten x w' d.toNat (if w64 then 2 else 1) (x.act i) (f x.w)

/-- Instruction i writes f's truths to predicate D and sets the flags. -/
def WritesFP (i : Instr) (d : BitVec 6) (f : Warp → Nat → Bool × BitVec 5) : Prop :=
  Completes i fun x w' => FPWritten x w' d.toNat (x.act i) (f x.w)

/-- The pattern that a single register or a pair holds (R187). -/
def Warp.pat (w : Warp) (w64 : Bool) (r : BitVec 8) (l : Nat) : Nat :=
  if w64 then (w.vget64 r.toNat l).toNat else (w.vget r.toNat l).toNat

/-- The pattern of operand B. -/
def Warp.patB (w : Warp) (w64 : Bool) (b : OpB) (l : Nat) : Nat :=
  if w64 then (w.opb64 b l).toNat else (w.opb32 b l).toNat

/- ### Cross-lane values -/

/-- tree_value of R199 over the 2^n lanes from lo: the halves' values combined, an absent half passing the
other on; with the flags of the combining steps. -/
def treeValue (op : RedOp) (v : Nat → Option Nat) : Nat → Nat → Option Nat × BitVec 5
  | 0, lo => (v lo, 0)
  | n + 1, lo =>
    let a := treeValue op v n lo
    let b := treeValue op v n (lo + 2 ^ n)
    match a.1, b.1 with
    | some p, some q => (some (combine op p q).1, (combine op p q).2 ||| a.2 ||| b.2)
    | some p, none => (some p, a.2 ||| b.2)
    | none, y => (y, a.2 ||| b.2)

/-- The combination of values in order, none of no value, with the flags of the steps (R199). -/
def runValue (op : RedOp) : List Nat → Option (Nat × BitVec 5)
  | [] => none
  | v :: t => some (t.foldl (fun a y => ((combine op a.1 y).1, a.2 ||| (combine op a.1 y).2)) (v, 0))

/-- The values of the acting lanes of a site that p picks, in ascending order. -/
def Site.laneValues (x : Site) (c : Ctl) (w64 : Bool) (a : BitVec 8) (p : Nat → Bool) : List Nat :=
  ((List.range 32).filter fun l => (x.acting c).getLsbD l && p l).map fun l => x.w.pat w64 a l

/-- The lane that `xlane` reads for lane l, none where a shift leaves 0 to 31 (R198). -/
def xlaneFrom (w : Warp) (mode : XMode) (b : XCount) (l : Nat) : Option Nat :=
  let u : Nat := match b with
    | .reg r => (w.vget r.toNat l).toNat
    | .imm i => i.toNat
  let sh : Int := match b with
    | .reg r => (w.vget r.toNat l).toInt
    | .imm i => i.toInt
  match mode with
  | .get => some (u % 32)
  | .fly => some (Nat.xor l (u % 32))
  | .rot => some ((l + u) % 32)
  | .sft => if 0 ≤ (l : Int) - sh ∧ (l : Int) - sh ≤ 31 then some ((l : Int) - sh).toNat else none

/- ### Control transfers, commit points and traps -/

/-- The acting lanes of m have gone to their targets: outside a handler a lane with a legal target stands
there, one with an illegal target is parked at the instruction for the supervisor core, a lane of the
entry that does not act stands at the next instruction, and the other lanes stand where they stood; a
handler's PC moves to its target (R117, R120, R336). -/
def Site.went (x : Site) (w' : Warp) (m : Mask) (t : Nat → DWord) : Prop :=
  if x.handler then
    w'.frontier = x.w.frontier ∧ ∀ l, x.mask = laneBit l → l < 32 →
      let a := if m.getLsbD l then t l else x.after
      x.g.legalPc a = true → w'.frame.map (fun f => f.hoff) = some (x.off a)
  else
    (∀ l, l < 32 → x.mask.getLsbD l = true → w'.stands l =
      if m.getLsbD l then (if x.g.legalPc (t l) then some (t l, 0) else some (x.pc, 2))
      else if x.g.codeEnd.toNat ≤ x.after.toNat then some (x.g.codeEnd, 2) else some (x.after, 0)) ∧
    x.w.standKept w' x.mask

/-- A warp without what a commit also moves: flags, region record, held stores and commands, and the
region mark of outstanding loads (R324, R325, R330). -/
def Warp.base (w : Warp) : Warp :=
  { w.others with
    flags := 0, rgn := Region.exposed, stores := [], cmds := [], consumed := [], loads := []
    pendCommit := none }

/-- The open region of a site commits without a held store or command, or there is none (R325). -/
def Site.light (x : Site) : Prop :=
  x.inRegion = true → x.ctx?.isSome = true ∧ x.w.stores = [] ∧ x.w.cmds = []

/-- A commit point outside a handler has committed: the held flags are in FLAGS, nothing is held, and a
region begins at the address given, or exposed code (R325, R329, R330). -/
structure Site.committed (x : Site) (w' : Warp) (next : Option DWord) : Prop where
  flags : w'.flags = x.w.flags ||| (if x.inRegion then x.w.rgn.hflags else 0)
  stores : w'.stores = []
  cmds : w'.cmds = []
  pend : w'.pendCommit = none
  loads : w'.loads = x.w.loads.map fun o => { o with rgn := false }
  region : w'.rgn = match next with
    | some a =>
      { image := clearParks w'.straps w'.frontier, ck := w'.ck, ckm := w'.ckmode, rf := RegSet.empty,
        wr := RegSet.empty, rgnoff := x.off a, reent := 0, hflags := 0, iss := false, inrgn := true }
    | none => Region.exposed

/-- What a lane's calls in the core return to, newest first: PRIO and RETOFF (R129). -/
def Warp.calls (w : Warp) (l : Nat) : List (BitVec 8 × Word) :=
  (w.cs.filter fun e => e.pend.getLsbD l).map fun e => (e.prio, smGet 0 e.retoff l)

/-- The four words of the record of a trap (R337): word 0 from its fields, then words 1 to 3. -/
def recordWords (poff : Word) (sub : BitVec 8) (inrgn async : Bool) (elane : Nat) (code : BitVec 8)
    (w1 w2 w3 : DWord) : TrapRec :=
  ⟨BitVec.ofNat 64 (code.toNat + elane * 2 ^ 8 + async.toNat * 2 ^ 13 + inrgn.toNat * 2 ^ 14 +
    sub.toNat * 2 ^ 16 + poff.toNat * 2 ^ 32), w1, w2, w3⟩

/-- A user trap of the lanes of m at a site outside a handler, in a warp without a pending one, and with a
handler: the frame holds the record, the trap entry, the trapped lanes and the scalars, and the lanes are
parked at the instruction with PARK 1 (R122, R335, R337, R353). -/
structure Site.tookTrap (x : Site) (w' : Warp) (m : Mask) (code : BitVec 8) (w1 w2 w3 : DWord) : Prop where
  frame : ∃ f, w'.frame = some f ∧ f.hoff = x.g.img.desc.trapent ∧ f.tmask = m ∧ f.saved = x.w.s ∧
    f.trap.lanes = m ∧ f.trap.pc = x.pc ∧
    f.trap.words = recordWords (x.off x.pc) 0 x.w.rgn.inrgn false (lowestLane m) code w1 w2 w3
  parked : ∀ l, l < 32 → m.getLsbD l = true → w'.stands l = some (x.pc, 1)
  nonePending : w'.utraps = []

/-- A trap of the lanes of m for the supervisor core: its record joins the warp's, and the lanes are
parked at the instruction with its code (R122, R337, R341). -/
structure Site.handedOver (x : Site) (w' : Warp) (m : Mask) (park : BitVec 4) (sub code : BitVec 8)
    (w1 w2 w3 : DWord) : Prop where
  record : ∃ t more, w'.straps = x.w.straps ++ t :: more ∧ t.lanes = m ∧ t.pc = x.pc ∧
    t.words = recordWords (x.off x.pc) sub x.w.rgn.inrgn false (lowestLane m) code w1 w2 w3
  parked : ∀ l, l < 32 → m.getLsbD l = true → w'.stands l = some (x.pc, park)

/- ### Effects beside the warp -/

/-- t agrees with s in everything but the current warp and what fs blanks of the state and fb of the
current warp's block; a grid can only have ended. -/
structure KeptBut (fs : State → State) (fb : Block → Block) (s t : State) : Prop where
  rest : fs t.apart = fs s.apart
  grids : ∀ g, (t.grid? g).map Grid.apart = (s.grid? g).map Grid.apart
  blocks : ∀ k, k ≠ s.cur.1 → t.block? k = s.block? k
  block : (t.block? s.cur.1).map (fun b => fb b.apart) = (s.block? s.cur.1).map fun b => fb b.apart
  warps : ∀ n, n ≠ s.cur.2 → t.warpAt (s.cur.1, n) = s.warpAt (s.cur.1, n)

/-- Instruction i has this effect on the sites with a property: `exec` answers a next state that holds
what post says, and all else but what fs and fb blank is kept. -/
def Effect (i : Instr) (pre : Site → Prop) (fs : State → State) (fb : Block → Block)
    (post : Site → State → Warp → Prop) : Prop :=
  ∀ s x, Issues i s x → pre x →
    ∃ t w', exec i s = .next t ∧ t.warpAt s.cur = some w' ∧ post x t w' ∧ KeptBut fs fb s t

/-- A state without what stores write: the memories and the poison that whole granules lose (R363). -/
def State.noMemory (s : State) : State := { s with dram := [], lpddr := [], hostMem := [], poison := [] }
/-- A block without its scratchpad. -/
def Block.noSpad (b : Block) : Block := { b with spad := [], spadPoison := [] }
/-- A state without the counter of identifiers. -/
def State.noFresh (s : State) : State := { s with fresh := 0 }

/-- A lane's access passes the checks of R242 and touches these bytes, which lie in memory of this package
or of the host, or in scratchpad, on no strongly ordered page and free of poison. -/
def Site.plain (x : Site) (b : Block) (a : LaneAcc) (ls : List Loc) : Prop :=
  (∃ ord, ord ≠ 1 ∧ a = .good ls ord) ∧
    ∀ q ∈ ls, ((∃ o, q = .sp o) ∨ ∃ t o, t ≤ 2 ∧ q = .mem t o) ∧ locPoisoned x.s b q = false

/-- The byte that a load of the site's warp reads at a place: the newest that the region's store buffer
holds, or what lies there (R235). -/
def Site.sees (x : Site) (cx : Ctx) (q : Loc) : Byte :=
  (heldByte x.s cx x.g.img.desc.spad x.w.stores q).getD (readLoc x.s x.b q)

/-- Word j of what a vector load of v writes to its registers (R243, R244). -/
def loadedWord (sz : LdSz) (v j : Nat) : Word :=
  match sz with
  | .s8 => BitVec.ofInt 32 (if v % 256 < 128 then v % 256 else (v % 256 : Nat) - 256)
  | .s16 => BitVec.ofInt 32 (if v % 65536 < 32768 then v % 65536 else (v % 65536 : Nat) - 65536)
  | _ => BitVec.ofNat 32 (v / 2 ^ (32 * j))

/-- What `sld` writes of v (R166). -/
def loadedScalar (sz : SldSz) (v : Nat) : DWord :=
  match sz with
  | .s8 => BitVec.ofInt 64 (if v % 256 < 128 then v % 256 else (v % 256 : Nat) - 256)
  | .s16 => BitVec.ofInt 64 (if v % 65536 < 32768 then v % 65536 else (v % 65536 : Nat) - 65536)
  | .s32 => BitVec.ofInt 64 (if v % 2 ^ 32 < 2 ^ 31 then v % 2 ^ 32 else (v % 2 ^ 32 : Nat) - 2 ^ 32)
  | _ => BitVec.ofNat 64 v

/-- The byte that the last of some writes leaves at a place. -/
def lastWrite (ws : List (Loc × Byte)) (q : Loc) : Option Byte :=
  (ws.reverse.find? fun p => p.1 == q).map (·.2)

/-- t holds in memory, and in the scratchpad of the current warp's block, what s held with these bytes
written in order, and nothing else has been written there. -/
structure Wrote (s t : State) (ws : List (Loc × Byte)) : Prop where
  memory : ∀ k a, k ≤ 2 → (t.tier k).byte a = (lastWrite ws (.mem k a)).getD ((s.tier k).byte a)
  scratch : ∀ b b', s.block? s.cur.1 = some b → t.block? s.cur.1 = some b' →
    ∀ a, b'.spad.byte a = (lastWrite ws (.sp a)).getD (b.spad.byte a)

/-- The writes of the lanes of m in ascending lane order: the bytes of each at its places (R225, R244). -/
def laneWrites (m : Mask) (at_ : Nat → List Loc) (bytes : Nat → List Byte) : List (Loc × Byte) :=
  ((List.range 32).filter fun l => m.getLsbD l).flatMap fun l => (at_ l).zip (bytes l)

/-- The word of w bits that an atomic operation leaves for m, with operand b and new value c (R247). -/
def atomResult (w : Nat) (op : AtomOp) (sg : Bool) (m b c : Nat) : Nat :=
  let value (v : Nat) : Int := if sg && decide (2 ^ (w - 1) ≤ v) then (v : Int) - 2 ^ w else v
  match op with
  | .add => (m + b) % 2 ^ w
  | .min => if value m ≤ value b then m else b
  | .max => if value b ≤ value m then m else b
  | .and => Nat.land m b
  | .or => Nat.lor m b
  | .xor => Nat.xor m b
  | .exch => b
  | .cas => if m = b then c else m
  | .incwrap => if b ≤ m then 0 else m + 1

/-- The atomic operations of lanes in order, each on what the one before left (R225, R247): for each lane
the value that it reads, and the writes. `read` is what the places hold before, `opnd` gives operand and new
value. -/
def atomRun (w : Nat) (op : AtomOp) (sg : Bool) (opnd : Nat → Nat × Nat) (read : Loc → Byte) :
    List (Nat × List Loc) → List (Loc × Byte) → List (Nat × Nat) × List (Loc × Byte)
  | [], ws => ([], ws)
  | (l, ls) :: rest, ws =>
    let m := leNat (ls.map fun q => (lastWrite ws q).getD (read q))
    let r := atomRun w op sg opnd read rest
      (ws ++ ls.zip (leBytes (w / 8) (atomResult w op sg m (opnd l).1 (opnd l).2)))
    ((l, m) :: r.1, r.2)

/-- Whether x stands to y as a condition of R24 says, on words of w bits. -/
def condTrue (c : WCond) (x y : Nat) : Bool :=
  match c with
  | .eq => x == y
  | .ne => x != y
  | .ltu => decide (x < y)
  | .geu => decide (y ≤ x)
  | .andnz => Nat.land x y != 0
  | .andz => Nat.land x y == 0

/-- Where an annotation releases, the warp's pod-window stores have been acknowledged (R236; log entry 58). -/
def Site.released (x : Site) (ann : Ann) : Prop := releases ann = true → x.w.acks = 0

/- ### Tiles, transfers and queues -/

/-- A block without its tile table. -/
def Block.noTiles (b : Block) : Block := { b with tiles := [] }
/-- A block without its tile table and its transfers. -/
def Block.noXfers (b : Block) : Block := { b with tiles := [], xfers := [] }
/-- A block without its queues. -/
def Block.noQueues (b : Block) : Block := { b with queues := [] }

/-- A transfer r has been issued in exposed code (R260, R261, R263): it is the block's newest, its token
counts one more, its tile's entry is e, and no register is written. -/
structure Site.sent (x : Site) (t : State) (w' : Warp) (r : XferReq) (e : Tile) : Prop where
  block : ∃ b', t.block? x.b.key = some b' ∧
    b'.xfers = x.b.xfers ++ [⟨x.s.fresh, r, 0, none, false, none, none⟩] ∧
    ∀ n, b'.tile n = if r.tile = some n then e else x.b.tile n
  tokens : ∀ n, w'.token n = if r.tok.map (·.toNat) = some n then x.w.token n + 1 else x.w.token n
  rest : w'.others = { x.w with tokens := w'.tokens }.others
  passed : x.passed w'

/-- A command has been held in the region (R235, R260). -/
def Site.held (x : Site) (w' : Warp) (c : Cmd) : Prop :=
  w'.others = { x.w with cmds := x.w.cmds ++ [c] }.others

/-- The warp's token can count one more (R261). -/
def Site.tokenRoom (x : Site) (tok : Option (BitVec 3)) : Prop :=
  ∀ k, tok = some k → x.w.token k.toNat ≠ 63

/-- The request that a byte transfer of a site makes (R263). -/
def Site.byteReq (x : Site) (c : Ctl) (kind : XferKind) (opc fn : Nat) (d a : BitVec 5) (len : LenOp)
    (ssp dsp : Bool) (tok : BitVec 3) : XferReq :=
  { kind := kind, warp := x.w.num, lane := lowestLane (x.acting c), srcSp := ssp, dstSp := dsp
    src := x.w.sget a.toNat, dst := x.w.sget d.toNat
    len := match len with
      | .imm i => i.toNat
      | .reg r => (x.w.sget r.toNat).toNat % 2 ^ 40
    tile := none, tlr := none, tr := .none, coords := [], tok := some tok, ioff := x.off x.pc
    opc := opc, fn := fn, rows := 0, gap := 0, buf := [], flags := 0, members := 0 }

/-- The request that a tile transfer of a site makes (R259). -/
def Site.tileReq (x : Site) (c : Ctl) (load : Bool) (t : BitVec 4) (h : BitVec 8) (a : BitVec 5) (tr : Tr)
    (tok : Option (BitVec 3)) : XferReq :=
  let e := x.b.tile t.toNat
  let word (n : Nat) : DWord := x.w.sget (a.toNat + n)
  { kind := if load then .tload else .tstore, warp := x.w.num, lane := lowestLane (x.acting c)
    srcSp := !load, dstSp := load, src := if load then 0 else BitVec.ofNat 64 e.base
    dst := if load then BitVec.ofNat 64 e.base else 0, len := e.rowbytes, tile := some t.toNat
    tlr := some h.toNat, tr := tr
    coords := [(word 0).setWidth 32, (word 0 >>> 32).setWidth 32, (word 1).setWidth 32,
      (word 1 >>> 32).setWidth 32, (word 2).setWidth 32]
    tok := tok, ioff := x.off x.pc, opc := 0x32, fn := if load then 0 else 1, rows := 0, gap := 0
    buf := [], flags := 0, members := 0 }

/- ### The matrix engine -/

/-- A state without its cores. -/
def State.noCores (s : State) : State := { s with cores := [] }

/-- t holds matrix engine e in a core, the rest of that core and the other cores are those of s. -/
def State.engineIs (s t : State) (core : Nat) (e : Engine) : Prop :=
  ∀ n, t.core n = if n = core then { s.core n with mx := e } else s.core n

/-- The gang is the site's warp alone, holds the engine, and nothing waits at the latch or for a new gang
(R280, R281). -/
def Site.alone (x : Site) : Prop :=
  x.b.rsv = true ∧ x.w.num < 32 ∧ x.b.gang = laneBit x.w.num ∧ (x.s.core x.b.coreNum).mx.latch = none ∧
    (x.s.core x.b.coreNum).mx.gangDue = false

/-- The scalars that a matrix instruction hands to the engine (R281, R292, R294). -/
def mxScalars (w : Warp) : Instr → List DWord
  | .mgang _ a => [w.sget a.toNat]
  | .mstM _ _ _ a _ _ _ _ => (List.range 3).map fun k => w.sget (a.toNat + k)
  | _ => []

/-- What a matrix instruction hands to the engine at its release: the scalars, the tile and the vector
registers of the leader that it reads. -/
structure Hands where
  scalars : List DWord
  tile : Option Nat
  regs : List Nat

/-- The instruction i of a gang of one warp is released (R281, R284): it is the engine's newest, with the
operands h names, and the warp has moved past it. -/
structure Site.released1 (x : Site) (i : Instr) (h : Hands) (t : State) (w' : Warp) : Prop where
  engine : x.s.engineIs t x.b.coreNum
    { (x.s.core x.b.coreNum).mx with
      ops := (x.s.core x.b.coreNum).mx.ops ++
        [{ instr := i, scalars := h.scalars, leader := x.w.num, members := [(x.w.num, x.mask)]
           off := x.off x.pc, tile := h.tile.map x.b.tile
           data := h.regs.map fun r => (List.range 32).map fun l => x.w.vget r l }] }
  passed : x.passed w'

/-- Word n of the accumulator row of an engine. -/
def Engine.accAt (e : Engine) (acc row col : Nat) : Word := smGet 0 e.acc (accKey acc row col)

/-- Element (i, j) of the plane with index k, as its image word (R296). -/
def Engine.planeAt (e : Engine) (k : Bool) (i j : Nat) : Word := smGet 0 (e.plane k) (128 * i + j)

/- ### Barriers and interrupt blocks -/

/-- A block without its barrier counters. -/
def Block.noBars (b : Block) : Block := { b with bars := [] }
/-- A block without its interrupt binding. -/
def Block.noBinding (b : Block) : Block := { b with ib := ⟨0, 0, false⟩ }

/-- The counter of slot n in t is c, the other counters of the block are those of b. -/
def Block.counterIs (b : Block) (t : State) (n : Nat) (c : BarCtr) : Prop :=
  ∃ b', t.block? b.key = some b' ∧ ∀ k, b'.bar k = if k = n then c else b.bar k

/-- n bytes at va of a context lie at p in bonded DRAM, none is poisoned, and they stay there whatever the
ranges listed hold, address and length: no table of the walk lies among them (R211). -/
def State.steadyOver (s : State) (rs : List (Nat × Nat)) (c : Ctx) (va n p : Nat) : Prop :=
  s.poison = [] ∧ ∀ s' : State, s'.poison = [] → s'.lpddr = s.lpddr → s'.ats = s.ats →
    s'.priFailed = s.priFailed →
    (∀ a, (∀ r ∈ rs, a < r.1 ∨ r.1 + r.2 ≤ a) → s'.dram.byte a = s.dram.byte a) →
    ∀ via off len acc, 0 < len → off + len ≤ n → (acc = .load ∨ acc = .store) →
      ∃ ord, s'.pieces c via acc (pageFuel len) (va + off) len = ([⟨0, p + off, len, ord⟩], none)

/-- The same for the n bytes themselves. -/
def State.steady (s : State) (c : Ctx) (va n p : Nat) : Prop := s.steadyOver [(p, n)] c va n p

/-- The interrupt block of a context lies at p in bonded DRAM (R306). -/
def State.ibAt (s : State) (c : Ctx) (p : Nat) : Prop :=
  ∃ a, c.iblk = some a ∧ s.steady c a.toNat 0x1500 p

/-- n bytes of memory as a number. -/
def State.num (s : State) (a n : Nat) : Nat := leNat (s.dram.bytes a n)

/-- Bonded DRAM of t is that of s but in the ranges listed, address and length. -/
def dramBut (s t : State) (rs : List (Nat × Nat)) : Prop :=
  ∀ a, (∀ r ∈ rs, a < r.1 ∨ r.1 + r.2 ≤ a) → t.dram.byte a = s.dram.byte a

/-- A state without bonded DRAM. -/
def State.noDram (s : State) : State := { s with dram := [] }

/- ### Events (R4, R5) -/

/-- In every state with a property, event i answers a next state that stands to it as post says. -/
def Event (i : Instr) (pre : State → Prop) (post : State → State → Prop) : Prop :=
  ∀ s, pre s → ∃ t, exec i s = .next t ∧ post s t

/-- The mailbox of function fn, which is f, holds a request of an operation that waits to be handled
(R381). -/
structure State.asked (s : State) (fn op : Nat) (f : Func) : Prop where
  func : s.func? fn = some f
  busy : f.busy = true
  await : f.await = none
  code : (f.req 0).toNat % 256 = op

/-- The mailbox of a function has answered, beside u: response word 0 has OP, STATUS and TAG of the
request, words 1 to 7 the results, BUSY is clear, and vector 0 is raised or pending (R379, R381). -/
structure MbAnswered (u t : State) (f : Func) (status : Nat) (results : List DWord) : Prop where
  rest : { t with funcs := [], msix := [] } = { u with funcs := [], msix := [] }
  others : ∀ n, n ≠ f.num → t.func? n = u.func? n
  mailbox : ∃ e g, u.func? f.num = some e ∧ t.func? f.num = some g ∧ g.busy = false ∧ g.await = none ∧
    (∀ k, k < 7 → smGet 0 g.mbrsp (k + 1) = results.getD k 0) ∧
    smGet 0 g.mbrsp 0 = BitVec.ofNat 64 ((f.req 0).toNat % 256 + status * 2 ^ 8 +
      (f.req 0).toNat / 2 ^ 32 * 2 ^ 32) ∧
    { g with busy := true, await := none, mbrsp := [], msixPend := [] } =
      { e with busy := true, await := none, mbrsp := [], msixPend := [] } ∧
    (if (e.msixWord 1).getLsbD 32 then t.msix = u.msix ∧ 0 ∈ g.msixPend
    else t.msix = u.msix ++ [(f.num, 0)] ∧ g.msixPend = e.msixPend)

/-- Operation op of the mailbox (R381, R382): while it is not asked for nothing changes; one of the
physical function alone answers NOT_PF to others; where it is refused nothing else changes; and where it
runs, its effect and its results are as said. When neither bank boots, only staging and status are
accepted (R394). -/
structure MbOp (op : Nat) (pf : Bool) (i : Nat → Instr) (refused : State → Nat → Func → Prop)
    (runs : State → Nat → Func → Prop) (done : State → Nat → Func → State → List DWord → Prop) : Prop where
  idle : ∀ s fn, (∀ f, ¬ s.asked fn op f) → exec (i fn) s = .next s
  notPf : ∀ s fn f, s.asked fn op f → pf = true → fn ≠ 0 →
    ∃ t, exec (i fn) s = .next t ∧ MbAnswered s t f 2 []
  shut : ∀ s fn f, s.asked fn op f → (pf = true → fn = 0) → s.fw.onlyMailbox = true → op ≠ 0x20 →
    op ≠ 0x22 → ∃ t, exec (i fn) s = .next t ∧ MbAnswered s t f 1 []
  refused : ∀ s fn f, s.asked fn op f → (pf = true → fn = 0) → refused s fn f →
    ∃ t, exec (i fn) s = .next t ∧ MbAnswered s t f 1 []
  done : ∀ s fn f, s.asked fn op f → (pf = true → fn = 0) →
    (s.fw.onlyMailbox = false ∨ op = 0x20 ∨ op = 0x22) → runs s fn f →
    ∃ t u rs, exec (i fn) s = .next t ∧ done s fn f u rs ∧ MbAnswered u t f 0 rs

/-- An operation of the mailbox that is answered later: where it runs, the mailbox waits, and the rest of the
state is what is said. -/
structure MbWait (op : Nat) (pf : Bool) (i : Nat → Instr) (refused runs : State → Nat → Func → Prop)
    (await : State → Func → MbAwait) (effect : State → Nat → Func → State) : Prop where
  answered : MbOp op pf i refused (fun _ _ _ => False) fun _ _ _ _ _ => False
  waits : ∀ s fn f, s.asked fn op f → (pf = true → fn = 0) → s.fw.onlyMailbox = false → runs s fn f →
    ∃ t, exec (i fn) s = .next t ∧ { t with funcs := s.funcs } = effect s fn f ∧
      ∀ n, t.func? n = if n = fn then some { f with await := some (await s f) } else s.func? n

/-- u is s but for its contexts, of which the one with c's number is c. -/
def State.withCtx (s u : State) (c : Ctx) : Prop :=
  { u with ctxs := s.ctxs } = s ∧
    ∀ n, u.ctx? n = if n = c.num then some c else s.ctx? n

/-- u is s but for its functions, of which the one with f's number is f. -/
def State.withFunc (s u : State) (f : Func) : Prop :=
  { u with funcs := s.funcs } = s ∧
    ∀ n, u.func? n = if n = f.num then some f else s.func? n

/-- A context is unused in a function (R382). -/
def State.unused (s : State) (fn : Nat) (v : DWord) : Prop := ∀ c ∈ s.ctxs, ¬ (c.fn = fn ∧ c.c = v.toNat)

/-- The context that an argument of a function's mailbox names (R382). -/
def State.names (s : State) (fn : Nat) (v : DWord) (c : Ctx) : Prop :=
  s.ctxArg fn v = some c ∧ s.ctx? c.num = some c ∧ c.num = 256 * fn + v.toNat

/-- FAULT with class VF_RESET stands in the traverse for every pod grid of the pod context that c is
bound to (R387). -/
def State.podEnds (s t : State) (fn : Nat) (c : Ctx) : Prop :=
  ∀ x g, c.pctx = some x → g < 4096 → s.rowState g ≠ 0 → s.rowPctx g = x →
    (⟨5, BitVec.ofNat 8 s.pkg, 0, BitVec.ofNat 32 (s.gridId g),
      BitVec.ofNat 64 (0xa0 + 2 ^ 8 + fn % 2 ^ 16 * 2 ^ 16), 0, 0⟩ : EvRec) ∈ t.trav.pend

/-- The events that this package raises stand in the traverse (R47). -/
def State.raised (s : State) (es : List EvRec) : State :=
  { s with trav := { s.trav with pend := s.trav.pend ++ es } }

/-- MR(k) after the digests listed by register number have been extended in order (R395). -/
def extended (old : BitVec 512) (ds : List (Nat × BitVec 512)) (k : Nat) : BitVec 512 :=
  (ds.filter fun e => e.1 == k).foldl
    (fun v e => Config.sha3 (leBytes 64 v.toNat ++ leBytes 64 e.2.toNat)) old

/-- t agrees with s in everything but warp n of the block with key k; a grid can only have ended. -/
structure OnlyWarp (s t : State) (k n : Nat) : Prop where
  rest : t.apart = s.apart
  grids : ∀ g, (t.grid? g).map Grid.apart = (s.grid? g).map Grid.apart
  blocks : ∀ j, j ≠ k → t.block? j = s.block? j
  block : (t.block? k).map Block.apart = (s.block? k).map Block.apart
  warps : ∀ i, i ≠ n → t.warpAt (k, i) = s.warpAt (k, i)

/-- The package error log has one more event of a KIND, CLASS, UNIT and ADDR (R368, R384): without a ring
the held record of its KIND counts one more, or there is one; in a ring its record lies at the next place,
whatever its TIME, and the count of records has risen. No other byte is written. -/
structure PkgLogged (s t : State) (kind : Nat) (cls : BitVec 8) (unit : Nat) (addr : DWord) : Prop where
  held : s.plog.ring = none → t.plog.ring = none ∧ t.plog.count = s.plog.count ∧ t.dram = s.dram ∧
    ∀ k, t.plog.held.find? (fun r => r.kind == k) =
      if k = kind then some (match s.plog.held.find? fun r => r.kind == kind with
        | some r => { r with count := min (r.count + 1) 0xffffffff }
        | none => ⟨kind, cls, BitVec.ofNat 16 unit, addr, 0xffff, 1⟩)
      else s.plog.held.find? fun r => r.kind == k
  ring : ∀ a l, s.plog.ring = some (a, l) →
    let p := a + 64 + 32 * (s.plog.count % 2 ^ l)
    t.plog = { s.plog with count := s.plog.count + 1 } ∧ dramBut s t [(p, 32), (a, 8)] ∧
    t.num a 8 = (s.plog.count + 1) % 2 ^ 64 ∧ t.num p 8 = 0xffff ∧ t.num (p + 8) 4 = 1 ∧
    t.num (p + 12) 1 = kind % 2 ^ 8 ∧ t.num (p + 13) 1 = cls.toNat ∧ t.num (p + 14) 2 = unit % 2 ^ 16 ∧
    t.num (p + 24) 8 = addr.toNat

/-- A state without what a record of the package error log writes. -/
def State.noLog (s : State) : State :=
  { s with plog := ⟨none, 0, []⟩, dram := [], poison := [], free := 0 }

/-- SWSEL of a core selects warp w of block b, which runs grid g (R341). -/
def State.picks (s : State) (core : Nat) (b : Block) (w : Warp) (g : Grid) : Prop :=
  s.selected core = some (b, w, g) ∧ s.block? b.key = some b ∧ b.warp? w.num = some w

/-- The selected warp's data registers respond: HOLD or HALT is set, or every live lane is parked
(R341). -/
def Warp.responds (w : Warp) : Prop := w.st.hold = true ∨ w.st.halt = true ∨ ∀ e ∈ w.frontier, e.park ≠ 0

/-- A lane stands in one place only (R118). -/
def Warp.once (w : Warp) (l : Nat) : Prop :=
  ∀ e ∈ w.frontier, e.mask.getLsbD l = true → w.stands l = some (e.pc, e.park)

/-- Nothing of a context is left (R382, R387): no context of its number, no queue, no host page, no
accepted image and no instruction line. -/
structure State.ctxGone (t : State) (n : Nat) : Prop where
  ctx : t.ctx? n = none
  queues : ∀ q ∈ t.queues, q.ctx ≠ n
  pages : ∀ p ∈ t.ats, p.1 / 2 ^ 48 ≠ n
  images : ∀ k, ∀ e ∈ smGet [] t.acache k, e.ctx ≠ n
  lines : ∀ k, ∀ l ∈ (t.core k).icache, l.ctx ≠ n

/- ### Queues and packets -/

/-- u is s but for its queues, of which the one with q's number is q. -/
def State.withQueue (s u : State) (q : Queue) : Prop :=
  { u with queues := s.queues } = s ∧
    ∀ k, u.queue? k = if k = q.key then some q else s.queue? k

/-- Queue q of context c has the header at h of bonded DRAM and room for completion entry idx at p; the two
are apart and no table of a walk lies there or in the ranges listed (R29, R34, R211). -/
structure State.queueMem (s : State) (q : Queue) (c : Ctx) (idx : DWord) (p h : Nat)
    (rs : List (Nat × Nat)) : Prop where
  queue : s.queue? q.key = some q
  ctx : s.ctx? q.ctx = some c
  ring : q.cqPend = []
  entry : s.steadyOver ((p, 32) :: (h, 128) :: rs) c (q.cqAddr idx) 32 p
  header : s.steadyOver ((p, 32) :: (h, 128) :: rs) c q.header.toNat 128 h
  apart : p + 32 ≤ h ∨ h + 128 ≤ p
  clear : ∀ r ∈ rs, p + 32 ≤ r.1 ∨ r.1 + r.2 ≤ p

/-- Completion entry idx of queue q lies at p (R34); PHASE is 1 on the ring's first pass. -/
structure State.entryAt (t : State) (q : Queue) (p : Nat) (idx : DWord) (seq : Word) (e : Ending)
    (grid : Word) (station : DWord) : Prop where
  seq : t.num p 4 = seq.toNat
  status : t.num (p + 4) 1 = e.status.toNat
  phase : t.num (p + 8) 1 = if idx.toNat / 2 ^ q.cqLog2 % 2 = 0 then 1 else 0
  cls : t.num (p + 9) 1 = e.cls.toNat
  unit : t.num (p + 10) 2 = e.unit.toNat
  addr : t.num (p + 12) 8 = e.addr.toNat
  grid : t.num (p + 20) 4 = grid.toNat
  station : t.num (p + 24) 8 = station.toNat
  zero : t.num (p + 5) 3 = 0

/-- Vector v of a function has been raised, or is pending where it is masked (R379). -/
def Vectored (s t : State) (fn v : Nat) : Prop :=
  ∀ f, s.func? fn = some f → if (f.msixWord (2 * v + 1)).getLsbD 32 then
    t.msix = s.msix ∧ ∃ g, t.func? fn = some g ∧ v ∈ g.msixPend
    else t.msix = s.msix ++ [(fn, v)] ∧ t.funcs = s.funcs

/-- A command of a queue has completed with an entry at p, and the queue is q' (R25, R34); beside that
entry, its vector, the queue and the ranges of memory listed nothing has changed. -/
structure State.completed (s t : State) (q' : Queue) (p : Nat) (rs : List (Nat × Nat)) (f : Flight)
    (e : Ending) (grid : Word) (station : DWord) : Prop where
  queue : s.withQueue { t with dram := s.dram, funcs := s.funcs, msix := s.msix } q'
  entry : t.entryAt q' p f.idx f.seq e grid station
  memory : dramBut s t ((p, 32) :: rs)
  vector : if f.irq then Vectored s t q'.fn q'.msixv else t.funcs = s.funcs ∧ t.msix = s.msix

/-- Nothing of queue q is in flight with a packet core, and no host has answered for a page that is to be told (R39,
R40, R218). -/
def State.idleQ (s : State) (q : Queue) : Prop := s.queueBusy q = false ∧ s.priFailed = []

/-- A queue has stopped with a class, with an entry at p and its header at h (R22, R36, R39): with a block of a local
grid left in STOPRUN, in its slot, else in STOPPED, without one; STATE and STOPCLASS are in the header. -/
structure State.stoppedQ (s t : State) (q' : Queue) (p h : Nat) (f : Flight) (e : Ending) (cls : BitVec 8) :
    Prop where
  queue : ∃ r, s.withQueue { t with dram := s.dram, funcs := s.funcs, msix := s.msix } r ∧
    r.stopclass = cls ∧ r.head = q'.head ∧ r.cmdidx = q'.cmdidx ∧ r.tail = q'.tail ∧
    r.holding = q'.holding ∧ r.flights = q'.flights ∧
    (if s.localLive q'.key = false then r.state = 5 ∧ r.slot = none else r.state = 6 ∧ r.slot = q'.slot) ∧
    t.num (h + 32) 1 % 8 = r.state
  entry : t.entryAt q' p f.idx f.seq e noGrid noStation
  header : t.num (h + 96) 1 = cls.toNat
  memory : dramBut s t [(p, 32), (h, 128)]
  vector : if f.irq then Vectored s t q'.fn q'.msixv else t.funcs = s.funcs ∧ t.msix = s.msix

/-- Queue q once the packet at its HEAD has been consumed (R33). -/
def Queue.consumed (q : Queue) (p : PktHead) : Queue :=
  { q with head := q.head + BitVec.ofNat 64 p.slots, cmdidx := q.cmdidx + 1, skipTo := none }

/-- The packet at HEAD of queue q, of context c, is accepted with the fields given (R20 to R23, R33). -/
structure State.accepts (s : State) (q : Queue) (c : Ctx) (p : PktHead) (fs : List Field) (type : Nat)
    (fence : Bool) : Prop where
  queue : s.queue? q.key = some q
  ctx : s.ctx? q.ctx = some c
  head : s.atHead q = .ok p fs
  type : p.type = type
  fence : (p.fence = true ∨ fence = true) → q.flights = []

end Sys2Proof.Machine
end

