-- ==== Sys2Proof/Certificates/Slice0/Obligations.lean ====
section
/-! DEFINITION. The statements put to the provers, in the order of the opcode table's families. A statement of
several parts names each of them as a proposition Claims.<Part>. -/

open Sys2Proof Sys2Proof.Machine

/-- R155: `add`, `sub` and `add3` in every form: exact in the type's width, clamped to the type's range
with SAT, else reduced modulo 2^w; D in the acting lanes is written and nothing else. -/
def Claims.AdditionResults : Prop :=
  ∀ (c : Ctl) (d a e : BitVec 8) (b : OpB),
    (∀ r : BitVec 8, Writes32 (.addShort d a r) d fun w l => w.vget a.toNat l + w.vget r.toNat l) ∧
    (∀ i : BitVec 32, Writes32 (.addLit d a i) d fun w l => w.vget a.toNat l + i) ∧
    (∀ ty : Ty, ty.w64 = false →
      Writes32 (.add c d a b ty false) d (fun w l => w.vget a.toNat l + w.opb32 b l) ∧
      Writes32 (.sub c d a b ty false) d (fun w l => w.vget a.toNat l - w.opb32 b l) ∧
      Writes32 (.add3 c d a b e ty false) d
        (fun w l => w.vget a.toNat l + w.opb32 b l + w.vget e.toNat l)) ∧
    (∀ ty : Ty, ty.w64 = true →
      Writes64 (.add c d a b ty false) d (fun w l => w.vget64 a.toNat l + w.opb64 b l) ∧
      Writes64 (.sub c d a b ty false) d (fun w l => w.vget64 a.toNat l - w.opb64 b l) ∧
      Writes64 (.add3 c d a b e ty false) d
        (fun w l => w.vget64 a.toNat l + w.opb64 b l + w.vget64 e.toNat l)) ∧
    (∀ (f : Int → Int → Int → Int) (i : Ty → Instr),
      (f = (fun p q _ => p + q) ∧ i = (fun ty => .add c d a b ty true)) ∨
      (f = (fun p q _ => p - q) ∧ i = (fun ty => .sub c d a b ty true)) ∨
      (f = (fun p q r => p + q + r) ∧ i = (fun ty => .add3 c d a b e ty true)) →
      Writes32 (i .s32) d (fun w l => BitVec.ofInt 32 (max (-2147483648) (min 2147483647
        (f (w.vget a.toNat l).toInt (w.opb32 b l).toInt (w.vget e.toNat l).toInt)))) ∧
      Writes32 (i .n32) d (fun w l => BitVec.ofInt 32 (max 0 (min 4294967295
        (f (w.vget a.toNat l).toNat (w.opb32 b l).toNat (w.vget e.toNat l).toNat)))) ∧
      Writes64 (i .s64) d (fun w l => BitVec.ofInt 64 (max (-9223372036854775808)
        (min 9223372036854775807
          (f (w.vget64 a.toNat l).toInt (w.opb64 b l).toInt (w.vget64 e.toNat l).toInt)))) ∧
      Writes64 (i .n64) d (fun w l => BitVec.ofInt 64 (max 0 (min 18446744073709551615
        (f (w.vget64 a.toNat l).toNat (w.opb64 b l).toNat (w.vget64 e.toNat l).toNat)))))

/-- R155: the multiplications. `mul.lo` and `mad` modulo 2^w; `mul.hi` the product's high half, which is
the floor of the exact product over 2^w; `mad.wide` 32-bit factors and a 64-bit addend. -/
def Claims.MultiplicationResults : Prop :=
  ∀ (c : Ctl) (d a e : BitVec 8) (b : OpB),
    (∀ ty : Ty, ty.w64 = false →
      Writes32 (.mulLo c d a b ty) d (fun w l => w.vget a.toNat l * w.opb32 b l) ∧
      Writes32 (.mad c d a b e ty) d
        (fun w l => w.vget a.toNat l * w.opb32 b l + w.vget e.toNat l)) ∧
    (∀ ty : Ty, ty.w64 = true →
      Writes64 (.mulLo c d a b ty) d (fun w l => w.vget64 a.toNat l * w.opb64 b l) ∧
      Writes64 (.mad c d a b e ty) d
        (fun w l => w.vget64 a.toNat l * w.opb64 b l + w.vget64 e.toNat l)) ∧
    Writes32 (.mulHi c d a b .s32) d (fun w l =>
      ((w.vget a.toNat l).signExtend 64 * (w.opb32 b l).signExtend 64).extractLsb' 32 32) ∧
    Writes32 (.mulHi c d a b .n32) d (fun w l =>
      ((w.vget a.toNat l).setWidth 64 * (w.opb32 b l).setWidth 64).extractLsb' 32 32) ∧
    Writes64 (.mulHi c d a b .s64) d (fun w l =>
      ((w.vget64 a.toNat l).signExtend 128 * (w.opb64 b l).signExtend 128).extractLsb' 64 64) ∧
    Writes64 (.mulHi c d a b .n64) d (fun w l =>
      ((w.vget64 a.toNat l).setWidth 128 * (w.opb64 b l).setWidth 128).extractLsb' 64 64) ∧
    Writes64 (.madWide c d a b e true) d (fun w l =>
      (w.vget a.toNat l).signExtend 64 * (w.opb32 b l).signExtend 64 + w.vget64 e.toNat l) ∧
    Writes64 (.madWide c d a b e false) d (fun w l =>
      (w.vget a.toNat l).setWidth 64 * (w.opb32 b l).setWidth 64 + w.vget64 e.toNat l)

/-- R155: `min` and `max` pick an operand by the order that TY gives; `abs` and `neg` are exact, modulo
2^w without SAT (the lowest value stays itself) and clamped with it (the lowest gives the highest). -/
def Claims.OrderAndSignResults : Prop :=
  ∀ (c : Ctl) (d a : BitVec 8) (b : OpB),
    Writes32 (.min c d a b .s32) d (fun w l =>
      if (w.opb32 b l).slt (w.vget a.toNat l) then w.opb32 b l else w.vget a.toNat l) ∧
    Writes32 (.min c d a b .n32) d (fun w l =>
      if (w.opb32 b l).ult (w.vget a.toNat l) then w.opb32 b l else w.vget a.toNat l) ∧
    Writes64 (.min c d a b .s64) d (fun w l =>
      if (w.opb64 b l).slt (w.vget64 a.toNat l) then w.opb64 b l else w.vget64 a.toNat l) ∧
    Writes64 (.min c d a b .n64) d (fun w l =>
      if (w.opb64 b l).ult (w.vget64 a.toNat l) then w.opb64 b l else w.vget64 a.toNat l) ∧
    Writes32 (.max c d a b .s32) d (fun w l =>
      if (w.vget a.toNat l).slt (w.opb32 b l) then w.opb32 b l else w.vget a.toNat l) ∧
    Writes32 (.max c d a b .n32) d (fun w l =>
      if (w.vget a.toNat l).ult (w.opb32 b l) then w.opb32 b l else w.vget a.toNat l) ∧
    Writes64 (.max c d a b .s64) d (fun w l =>
      if (w.vget64 a.toNat l).slt (w.opb64 b l) then w.opb64 b l else w.vget64 a.toNat l) ∧
    Writes64 (.max c d a b .n64) d (fun w l =>
      if (w.vget64 a.toNat l).ult (w.opb64 b l) then w.opb64 b l else w.vget64 a.toNat l) ∧
    Writes32 (.neg c d a false false) d (fun w l => -w.vget a.toNat l) ∧
    Writes64 (.neg c d a true false) d (fun w l => -w.vget64 a.toNat l) ∧
    Writes32 (.abs c d a false false) d
      (fun w l => if (w.vget a.toNat l).msb then -w.vget a.toNat l else w.vget a.toNat l) ∧
    Writes64 (.abs c d a true false) d
      (fun w l => if (w.vget64 a.toNat l).msb then -w.vget64 a.toNat l else w.vget64 a.toNat l) ∧
    Writes32 (.neg c d a false true) d (fun w l =>
      if w.vget a.toNat l = 0x80000000 then 0x7fffffff else -w.vget a.toNat l) ∧
    Writes64 (.neg c d a true true) d (fun w l =>
      if w.vget64 a.toNat l = 0x8000000000000000 then 0x7fffffffffffffff else -w.vget64 a.toNat l) ∧
    Writes32 (.abs c d a false true) d (fun w l =>
      if w.vget a.toNat l = 0x80000000 then 0x7fffffff
      else if (w.vget a.toNat l).msb then -w.vget a.toNat l else w.vget a.toNat l) ∧
    Writes64 (.abs c d a true true) d (fun w l =>
      if w.vget64 a.toNat l = 0x8000000000000000 then 0x7fffffffffffffff
      else if (w.vget64 a.toNat l).msb then -w.vget64 a.toNat l else w.vget64 a.toNat l)

/-- Integer arithmetic is exact, then clamped or reduced; frame: Claims.AdditionResults,
Claims.MultiplicationResults and Claims.OrderAndSignResults. -/
def Obligations.IntegerArithmeticResults : Prop :=
  Claims.AdditionResults ∧ Claims.MultiplicationResults ∧ Claims.OrderAndSignResults

/-- R156: the bitwise operations, `tern` bit by bit from its table, and the shifts: a count of w or more
gives 0, or all sign bits from `sar`. -/
def Obligations.LogicAndShiftResults : Prop :=
  ∀ (c : Ctl) (d a e : BitVec 8) (b : OpB),
    (∀ r : BitVec 8, Writes32 (.andShort d a r) d fun w l => w.vget a.toNat l &&& w.vget r.toNat l) ∧
    (∀ i : BitVec 32, Writes32 (.andLit d a i) d fun w l => w.vget a.toNat l &&& i) ∧
    Writes32 (.and c d a b false) d (fun w l => w.vget a.toNat l &&& w.opb32 b l) ∧
    Writes64 (.and c d a b true) d (fun w l => w.vget64 a.toNat l &&& w.opb64 b l) ∧
    Writes32 (.or c d a b false) d (fun w l => w.vget a.toNat l ||| w.opb32 b l) ∧
    Writes64 (.or c d a b true) d (fun w l => w.vget64 a.toNat l ||| w.opb64 b l) ∧
    Writes32 (.xor c d a b false) d (fun w l => w.vget a.toNat l ^^^ w.opb32 b l) ∧
    Writes64 (.xor c d a b true) d (fun w l => w.vget64 a.toNat l ^^^ w.opb64 b l) ∧
    Writes32 (.not c d a false) d (fun w l => ~~~w.vget a.toNat l) ∧
    Writes64 (.not c d a true) d (fun w l => ~~~w.vget64 a.toNat l) ∧
    (∀ t : BitVec 8,
      (∃ f, Writes32 (.tern c d a b e t false) d f ∧ ∀ w l k, k < 32 →
        (f w l).getLsbD k = t.getLsbD (((w.vget e.toNat l).extractLsb' k 1 ++
          (w.opb32 b l).extractLsb' k 1 ++ (w.vget a.toNat l).extractLsb' k 1).toNat)) ∧
      (∃ f, Writes64 (.tern c d a b e t true) d f ∧ ∀ w l k, k < 64 →
        (f w l).getLsbD k = t.getLsbD (((w.vget64 e.toNat l).extractLsb' k 1 ++
          (w.opb64 b l).extractLsb' k 1 ++ (w.vget64 a.toNat l).extractLsb' k 1).toNat))) ∧
    (∀ r : BitVec 8, Writes32 (.shlShort d a r) d fun w l =>
      if 32 ≤ (w.vget r.toNat l).toNat % 256 then 0
      else w.vget a.toNat l <<< ((w.vget r.toNat l).toNat % 256)) ∧
    (∀ i : BitVec 32, Writes32 (.shlLit d a i) d fun w l =>
      if 32 ≤ i.toNat % 256 then 0 else w.vget a.toNat l <<< (i.toNat % 256)) ∧
    Writes32 (.shl c d a b false) d (fun w l =>
      if 32 ≤ (w.opb32 b l).toNat % 256 then 0
      else w.vget a.toNat l <<< ((w.opb32 b l).toNat % 256)) ∧
    Writes64 (.shl c d a b true) d (fun w l =>
      if 64 ≤ (w.opb32 b l).toNat % 256 then 0
      else w.vget64 a.toNat l <<< ((w.opb32 b l).toNat % 256)) ∧
    Writes32 (.shr c d a b false) d (fun w l =>
      if 32 ≤ (w.opb32 b l).toNat % 256 then 0
      else w.vget a.toNat l >>> ((w.opb32 b l).toNat % 256)) ∧
    Writes64 (.shr c d a b true) d (fun w l =>
      if 64 ≤ (w.opb32 b l).toNat % 256 then 0
      else w.vget64 a.toNat l >>> ((w.opb32 b l).toNat % 256)) ∧
    Writes32 (.sar c d a b false) d (fun w l =>
      if 32 ≤ (w.opb32 b l).toNat % 256 then (if (w.vget a.toNat l).msb then 0xffffffff else 0)
      else (w.vget a.toNat l).sshiftRight ((w.opb32 b l).toNat % 256)) ∧
    Writes64 (.sar c d a b true) d (fun w l =>
      if 64 ≤ (w.opb32 b l).toNat % 256 then
        (if (w.vget64 a.toNat l).msb then 0xffffffffffffffff else 0)
      else (w.vget64 a.toNat l).sshiftRight ((w.opb32 b l).toNat % 256))

/-- R157: bit by bit. `bfe` moves the field of n = min(len, w - pos) bits down and fills above it with 0
or with the field's top bit; `bfi` replaces that field of C by the low bits of A; `brev` reverses;
`popc` counts ones and `clz` the zeros above the highest one. -/
def Obligations.BitFieldResults : Prop :=
  ∀ (c : Ctl) (d a e : BitVec 8) (b : OpB),
    (∀ (ty : Ty) (sg : Bool), (ty = .s32 ∧ sg = true) ∨ (ty = .n32 ∧ sg = false) →
      ∃ f, Writes32 (.bfe c d a b ty) d f ∧ ∀ w l k, k < 32 →
        (f w l).getLsbD k =
          (if k < fieldBits 32 (w.opb32 b l) then
            (w.vget a.toNat l).getLsbD (fieldPos (w.opb32 b l) + k)
          else sg && decide (0 < fieldBits 32 (w.opb32 b l)) && (w.vget a.toNat l).getLsbD
            (fieldPos (w.opb32 b l) + fieldBits 32 (w.opb32 b l) - 1))) ∧
    (∀ (ty : Ty) (sg : Bool), (ty = .s64 ∧ sg = true) ∨ (ty = .n64 ∧ sg = false) →
      ∃ f, Writes64 (.bfe c d a b ty) d f ∧ ∀ w l k, k < 64 →
        (f w l).getLsbD k =
          (if k < fieldBits 64 (w.opb32 b l) then
            (w.vget64 a.toNat l).getLsbD (fieldPos (w.opb32 b l) + k)
          else sg && decide (0 < fieldBits 64 (w.opb32 b l)) && (w.vget64 a.toNat l).getLsbD
            (fieldPos (w.opb32 b l) + fieldBits 64 (w.opb32 b l) - 1))) ∧
    (∃ f, Writes32 (.bfi c d a b e false) d f ∧ ∀ w l k, k < 32 →
      (f w l).getLsbD k =
        if fieldPos (w.opb32 b l) ≤ k ∧ k < fieldPos (w.opb32 b l) + fieldBits 32 (w.opb32 b l) then
          (w.vget a.toNat l).getLsbD (k - fieldPos (w.opb32 b l))
        else (w.vget e.toNat l).getLsbD k) ∧
    (∃ f, Writes64 (.bfi c d a b e true) d f ∧ ∀ w l k, k < 64 →
      (f w l).getLsbD k =
        if fieldPos (w.opb32 b l) ≤ k ∧ k < fieldPos (w.opb32 b l) + fieldBits 64 (w.opb32 b l) then
          (w.vget64 a.toNat l).getLsbD (k - fieldPos (w.opb32 b l))
        else (w.vget64 e.toNat l).getLsbD k) ∧
    (∃ f, Writes32 (.brev c d a false) d f ∧ ∀ w l k, k < 32 →
      (f w l).getLsbD k = (w.vget a.toNat l).getLsbD (31 - k)) ∧
    (∃ f, Writes64 (.brev c d a true) d f ∧ ∀ w l k, k < 64 →
      (f w l).getLsbD k = (w.vget64 a.toNat l).getLsbD (63 - k)) ∧
    (∃ f, Writes32 (.popc c d a false) d f ∧ ∀ w l, (f w l).toNat =
      ((List.range 32).map fun k => ((w.vget a.toNat l).getLsbD k).toNat).sum) ∧
    (∃ f, Writes32 (.popc c d a true) d f ∧ ∀ w l, (f w l).toNat =
      ((List.range 64).map fun k => ((w.vget64 a.toNat l).getLsbD k).toNat).sum) ∧
    (∃ f, Writes32 (.clz c d a false) d f ∧ ∀ w l, (f w l).toNat ≤ 32 ∧
      (w.vget a.toNat l).toNat < 2 ^ (32 - (f w l).toNat) ∧
      ((f w l).toNat < 32 → 2 ^ (31 - (f w l).toNat) ≤ (w.vget a.toNat l).toNat)) ∧
    (∃ f, Writes32 (.clz c d a true) d f ∧ ∀ w l, (f w l).toNat ≤ 64 ∧
      (w.vget64 a.toNat l).toNat < 2 ^ (64 - (f w l).toNat) ∧
      ((f w l).toNat < 64 → 2 ^ (63 - (f w l).toNat) ≤ (w.vget64 a.toNat l).toNat))

/-- R158: `sel` takes A where the predicate is true and B elsewhere; `cmp` writes the condition on the
operands read under TY. -/
def Claims.SelectAndCompareResults : Prop :=
  ∀ (c : Ctl) (d a : BitVec 8) (b : OpB) (p : BitVec 6),
    Writes32 (.sel c d a b p false) d
      (fun w l => if w.pbit p.toNat l then w.vget a.toNat l else w.opb32 b l) ∧
    Writes64 (.sel c d a b p true) d
      (fun w l => if w.pbit p.toNat l then w.vget64 a.toNat l else w.opb64 b l) ∧
    (∀ ty : Ty, ty.w64 = false →
      WritesP (.cmp c p a b .eq ty) p (fun w l => w.vget a.toNat l == w.opb32 b l) ∧
      WritesP (.cmp c p a b .ne ty) p (fun w l => w.vget a.toNat l != w.opb32 b l)) ∧
    (∀ ty : Ty, ty.w64 = true →
      WritesP (.cmp c p a b .eq ty) p (fun w l => w.vget64 a.toNat l == w.opb64 b l) ∧
      WritesP (.cmp c p a b .ne ty) p (fun w l => w.vget64 a.toNat l != w.opb64 b l)) ∧
    WritesP (.cmp c p a b .lt .s32) p (fun w l => (w.vget a.toNat l).slt (w.opb32 b l)) ∧
    WritesP (.cmp c p a b .le .s32) p (fun w l => (w.vget a.toNat l).sle (w.opb32 b l)) ∧
    WritesP (.cmp c p a b .gt .s32) p (fun w l => (w.opb32 b l).slt (w.vget a.toNat l)) ∧
    WritesP (.cmp c p a b .ge .s32) p (fun w l => (w.opb32 b l).sle (w.vget a.toNat l)) ∧
    WritesP (.cmp c p a b .lt .n32) p (fun w l => (w.vget a.toNat l).ult (w.opb32 b l)) ∧
    WritesP (.cmp c p a b .le .n32) p (fun w l => (w.vget a.toNat l).ule (w.opb32 b l)) ∧
    WritesP (.cmp c p a b .gt .n32) p (fun w l => (w.opb32 b l).ult (w.vget a.toNat l)) ∧
    WritesP (.cmp c p a b .ge .n32) p (fun w l => (w.opb32 b l).ule (w.vget a.toNat l)) ∧
    WritesP (.cmp c p a b .lt .s64) p (fun w l => (w.vget64 a.toNat l).slt (w.opb64 b l)) ∧
    WritesP (.cmp c p a b .le .s64) p (fun w l => (w.vget64 a.toNat l).sle (w.opb64 b l)) ∧
    WritesP (.cmp c p a b .gt .s64) p (fun w l => (w.opb64 b l).slt (w.vget64 a.toNat l)) ∧
    WritesP (.cmp c p a b .ge .s64) p (fun w l => (w.opb64 b l).sle (w.vget64 a.toNat l)) ∧
    WritesP (.cmp c p a b .lt .n64) p (fun w l => (w.vget64 a.toNat l).ult (w.opb64 b l)) ∧
    WritesP (.cmp c p a b .le .n64) p (fun w l => (w.vget64 a.toNat l).ule (w.opb64 b l)) ∧
    WritesP (.cmp c p a b .gt .n64) p (fun w l => (w.opb64 b l).ult (w.vget64 a.toNat l)) ∧
    WritesP (.cmp c p a b .ge .n64) p (fun w l => (w.opb64 b l).ule (w.vget64 a.toNat l))

/-- R159 to R161: `lea` in both base forms, `mov`, `movk` halfword by halfword, and `cvt.i`: the source
read under its type, clamped to the destination's range. -/
def Claims.MoveAndConvertResults : Prop :=
  ∀ (c : Ctl) (d a : BitVec 8) (b : OpB) (r : BitVec 5) (sh : BitVec 4),
    Writes64 (.lea c d (.v a) b sh true) d
      (fun w l => w.vget64 a.toNat l + ((w.opb32 b l).signExtend 64 <<< sh.toNat)) ∧
    Writes64 (.lea c d (.v a) b sh false) d
      (fun w l => w.vget64 a.toNat l + ((w.opb32 b l).setWidth 64 <<< sh.toNat)) ∧
    Writes64 (.lea c d (.s r) b sh true) d
      (fun w l => w.sget r.toNat + ((w.opb32 b l).signExtend 64 <<< sh.toNat)) ∧
    Writes64 (.lea c d (.s r) b sh false) d
      (fun w l => w.sget r.toNat + ((w.opb32 b l).setWidth 64 <<< sh.toNat)) ∧
    Writes32 (.movShort d a) d (fun w l => w.vget a.toNat l) ∧
    (∀ i : BitVec 32, Writes32 (.movLit d i) d fun _ _ => i) ∧
    Writes32 (.mov c d b false) d (fun w l => w.opb32 b l) ∧
    Writes64 (.mov c d b true) d (fun w l => w.opb64 b l) ∧
    (∀ (v : BitVec 16) (h : BitVec 2), h.toNat < 2 →
      ∃ f, Writes32 (.movk c d v h false) d f ∧ ∀ w l k, k < 32 → (f w l).getLsbD k =
        if k / 16 = h.toNat then v.getLsbD (k % 16) else (w.vget d.toNat l).getLsbD k) ∧
    (∀ (v : BitVec 16) (h : BitVec 2),
      ∃ f, Writes64 (.movk c d v h true) d f ∧ ∀ w l k, k < 64 → (f w l).getLsbD k =
        if k / 16 = h.toNat then v.getLsbD (k % 16) else (w.vget64 d.toNat l).getLsbD k) ∧
    (∀ dt st : Ty8, dt.w64 = false →
      Writes32 (.cvtI c d a dt st) d (fun w l => BitVec.ofInt 32
        (max (typeLow dt) (min (typeHigh dt) (typeRead st (w.vget a.toNat l) (w.vget64 a.toNat l)))))) ∧
    (∀ dt st : Ty8, dt.w64 = true →
      Writes64 (.cvtI c d a dt st) d (fun w l => BitVec.ofInt 64
        (max (typeLow dt) (min (typeHigh dt) (typeRead st (w.vget a.toNat l) (w.vget64 a.toNat l))))))

/-- Selection, comparison, addresses, moves and integer conversion; frame: Claims.SelectAndCompareResults
and Claims.MoveAndConvertResults. -/
def Obligations.SelectCompareMoveResults : Prop :=
  Claims.SelectAndCompareResults ∧ Claims.MoveAndConvertResults

/-- R162: each predicate operation on the bits of its sources, inverted where NA or NB says so. -/
def Claims.PredicateResults : Prop :=
  ∀ (c : Ctl) (d a b : BitVec 6) (na nb : Bool),
    WritesP (.pand c d a b na nb) d
      (fun w l => (w.pbit a.toNat l != na) && (w.pbit b.toNat l != nb)) ∧
    WritesP (.por c d a b na nb) d
      (fun w l => (w.pbit a.toNat l != na) || (w.pbit b.toNat l != nb)) ∧
    WritesP (.pxor c d a b na nb) d
      (fun w l => (w.pbit a.toNat l != na) != (w.pbit b.toNat l != nb)) ∧
    WritesP (.pnot c d a na) d (fun w l => !(w.pbit a.toNat l != na)) ∧
    WritesP (.pmov c d a na) d (fun w l => w.pbit a.toNat l != na)

/-- R163, R164: `vote` over the acting lanes alone, and `pcnt`: the acting lanes in which a is true, all
of them or those below the lane. -/
def Claims.VoteAndCountResults : Prop :=
  ∀ (c : Ctl) (a p : BitVec 6) (r : BitVec 5) (v : BitVec 8) (na pre : Bool),
    Completes (.vote c (.any p) a na) (fun x w' =>
      PWritten x.w w' p.toNat (x.acting c) fun _ => (x.trueLanes c a na).length != 0) ∧
    Completes (.vote c (.all p) a na) (fun x w' =>
      PWritten x.w w' p.toNat (x.acting c) fun _ => (x.trueLanes c a (!na)).length == 0) ∧
    Completes (.vote c (.ballot r) a na) (fun x w' => ∃ m : DWord, SWritten x.w w' r.toNat m ∧
      ∀ l, m.getLsbD l = decide (l ∈ x.trueLanes c a na)) ∧
    Completes (.vote c (.vballot v) a na) (fun x w' => ∃ m : Word,
      VWritten x.w w' v.toNat 1 (x.acting c) (fun _ _ => m) ∧
      ∀ l, m.getLsbD l = decide (l ∈ x.trueLanes c a na)) ∧
    Completes (.pcnt c v a na pre) (fun x w' =>
      VWritten x.w w' v.toNat 1 (x.acting c) fun l _ =>
        BitVec.ofNat 32 ((x.trueLanes c a na).filter fun k => !pre || decide (k < l)).length)

/-- Predicate operations, votes and counts over the acting lanes; frame: Claims.PredicateResults and
Claims.VoteAndCountResults. -/
def Obligations.PredicateAndVoteResults : Prop :=
  Claims.PredicateResults ∧ Claims.VoteAndCountResults

/-- R165: the scalar operations on 64-bit values, with shift counts of 64 or more. -/
def Claims.ScalarResults : Prop :=
  ∀ (wk : BitVec 8) (d a : BitVec 5) (b : SOpB),
    (∀ r : BitVec 5, WritesS (.saddShort d a r) d fun w => w.sget a.toNat + w.sget r.toNat) ∧
    (∀ i : BitVec 64, WritesS (.saddLit d a i) d fun w => w.sget a.toNat + i) ∧
    WritesS (.sadd wk d a b) d (fun w => w.sget a.toNat + w.sopb b) ∧
    WritesS (.ssub wk d a b) d (fun w => w.sget a.toNat - w.sopb b) ∧
    WritesS (.smul wk d a b) d (fun w => w.sget a.toNat * w.sopb b) ∧
    WritesS (.sand wk d a b) d (fun w => w.sget a.toNat &&& w.sopb b) ∧
    WritesS (.sor wk d a b) d (fun w => w.sget a.toNat ||| w.sopb b) ∧
    WritesS (.sxor wk d a b) d (fun w => w.sget a.toNat ^^^ w.sopb b) ∧
    WritesS (.sshl wk d a b) d (fun w =>
      if 64 ≤ (w.sopb b).toNat % 256 then 0 else w.sget a.toNat <<< ((w.sopb b).toNat % 256)) ∧
    WritesS (.sshr wk d a b false) d (fun w =>
      if 64 ≤ (w.sopb b).toNat % 256 then 0 else w.sget a.toNat >>> ((w.sopb b).toNat % 256)) ∧
    WritesS (.sshr wk d a b true) d (fun w =>
      if 64 ≤ (w.sopb b).toNat % 256 then (if (w.sget a.toNat).msb then 0xffffffffffffffff else 0)
      else (w.sget a.toNat).sshiftRight ((w.sopb b).toNat % 256)) ∧
    (∀ u : Bool,
      WritesS (.scmp wk d a b .eq u) d (fun w => if w.sget a.toNat = w.sopb b then 1 else 0) ∧
      WritesS (.scmp wk d a b .ne u) d (fun w => if w.sget a.toNat = w.sopb b then 0 else 1)) ∧
    WritesS (.scmp wk d a b .lt false) d
      (fun w => if (w.sget a.toNat).slt (w.sopb b) then 1 else 0) ∧
    WritesS (.scmp wk d a b .le false) d
      (fun w => if (w.sget a.toNat).sle (w.sopb b) then 1 else 0) ∧
    WritesS (.scmp wk d a b .gt false) d
      (fun w => if (w.sopb b).slt (w.sget a.toNat) then 1 else 0) ∧
    WritesS (.scmp wk d a b .ge false) d
      (fun w => if (w.sopb b).sle (w.sget a.toNat) then 1 else 0) ∧
    WritesS (.scmp wk d a b .lt true) d
      (fun w => if (w.sget a.toNat).ult (w.sopb b) then 1 else 0) ∧
    WritesS (.scmp wk d a b .le true) d
      (fun w => if (w.sget a.toNat).ule (w.sopb b) then 1 else 0) ∧
    WritesS (.scmp wk d a b .gt true) d
      (fun w => if (w.sopb b).ult (w.sget a.toNat) then 1 else 0) ∧
    WritesS (.scmp wk d a b .ge true) d
      (fun w => if (w.sopb b).ule (w.sget a.toNat) then 1 else 0) ∧
    WritesS (.smov wk d b) d (fun w => w.sopb b)

/-- R167, R168, R202, R362: the instructions that carry values between the scalar, vector, special,
checksum and control registers. `cycle` gives a value that the manual does not fix (a free value, log entry
4). -/
def Claims.SpecialRegisterReads : Prop :=
  ∀ (c : Ctl) (wk : BitVec 8) (d a : BitVec 5) (v : BitVec 8) (b : SOpB) (k : BitVec 2),
    Writes32 (.bcast c v a false) v (fun w _ => (w.sget a.toNat).setWidth 32) ∧
    Writes64 (.bcast c v a true) v (fun w _ => w.sget a.toNat) ∧
    WritesS (.lane wk d v b false) d
      (fun w => (w.vget v.toNat ((w.sopb b).toNat % 32)).setWidth 64) ∧
    WritesS (.lane wk d v b true) d (fun w =>
      w.vget (v.toNat + 1) ((w.sopb b).toNat % 32) ++ w.vget v.toNat ((w.sopb b).toNat % 32)) ∧
    WritesS (.ckrd wk d k false) d (fun w => w.ckget k.toNat) ∧
    WritesS (.ckrd wk d k true) d (fun w => if w.ckmode.getLsbD k.toNat then 1 else 0) ∧
    (∀ (n : BitVec 16) (f : Site → DWord), (n, f) ∈ specialRegisters →
      Completes (.sreg c (.s d) n) (fun x w' => SWritten x.w w' d.toNat (f x)) ∧
      (sregW64 n = false → Completes (.sreg c (.v v) n) fun x w' =>
        VWritten x.w w' v.toNat 1 (x.acting c) fun _ _ => (f x).setWidth 32) ∧
      (sregW64 n = true → Completes (.sreg c (.v v) n) fun x w' =>
        VWritten x.w w' v.toNat 2 (x.acting c) fun _ j => (f x).extractLsb' (32 * j) 32)) ∧
    Completes (.sreg c (.v v) 0) (fun x w' =>
      VWritten x.w w' v.toNat 1 (x.acting c) fun l _ => BitVec.ofNat 32 l) ∧
    Completes (.sreg c (.s d) 0x14) (fun x w' => ∃ u, SWritten x.w w' d.toNat u) ∧
    Completes (.sreg c (.v v) 0x14) (fun x w' => ∃ u : DWord,
      VWritten x.w w' v.toNat 2 (x.acting c) fun _ j => u.extractLsb' (32 * j) 32) ∧
    (∀ (n : BitVec 16) (f : Site → DWord), (n, f) ∈ controlRegisters →
      Completes (.csrr wk d n) fun x w' => SWritten x.w w' d.toNat (f x))

/-- Scalar operations and the carrying of values between register classes; frame: Claims.ScalarResults and
Claims.SpecialRegisterReads. -/
def Obligations.ScalarPipeResults : Prop :=
  Claims.ScalarResults ∧ Claims.SpecialRegisterReads

/-- R202: `ckacc` folds the acting lanes into one checksum register in ascending order, in integer mode
modulo 2^64, in FP64 mode by binary64 additions; `ckclr` clears one register and sets its mode. -/
def Claims.ChecksumResults : Prop :=
  ∀ (c : Ctl) (wk : BitVec 8) (k : BitVec 2) (a : BitVec 8) (ty : CkTy) (neg : Bool),
    Completes (.ckacc c k a ty neg) (fun x w' =>
      (x.w.ckmode.getLsbD k.toNat = false → w'.ckget k.toNat =
        ((List.range 32).filter fun l => (x.acting c).getLsbD l).foldl (fun s l =>
          let v : DWord := match ty with
            | .s32 => (x.w.vget a.toNat l).signExtend 64
            | .n32 => (x.w.vget a.toNat l).setWidth 64
            | .b64 => x.w.vget64 a.toNat l
            | .f32 => (x.w.vget a.toNat l).setWidth 64
          if neg then s - v else s + v) (x.w.ckget k.toNat)) ∧
      (x.w.ckmode.getLsbD k.toNat = true → w'.ckget k.toNat =
        ((List.range 32).filter fun l => (x.acting c).getLsbD l).foldl (fun s l =>
          let v : Nat := match ty with
            | .s32 => (convIF F64 .rn false (x.w.vget a.toNat l).toInt).1
            | .n32 => (convIF F64 .rn false (x.w.vget a.toNat l).toNat).1
            | .b64 => (x.w.vget64 a.toNat l).toNat
            | .f32 => (convFF F32 F64 .rn false false (x.w.vget a.toNat l).toNat).1
          BitVec.ofNat 64 (if neg then (F64.sub .rn false s.toNat v).1
            else (F64.add .rn false s.toNat v).1)) (x.w.ckget k.toNat)) ∧
      (∀ n, n ≠ k.toNat → w'.ckget n = x.w.ckget n) ∧
      w'.others = { x.w with ck := w'.ck }.others) ∧
    (∀ f64 : Bool, Completes (.ckclr wk k f64) fun x w' =>
      w'.ckget k.toNat = 0 ∧ (∀ n, n ≠ k.toNat → w'.ckget n = x.w.ckget n) ∧
      (∀ n, n < 4 → w'.ckmode.getLsbD n = if n = k.toNat then f64 else x.w.ckmode.getLsbD n) ∧
      w'.others = { x.w with ck := w'.ck, ckmode := w'.ckmode }.others)

/-- R187 to R194: every floating-point instruction applies its function of R188 to R194 lane by lane, to D
in the acting lanes alone, and gathers the lanes' flags (R182). The functions' own rules are the
obligations that follow. -/
def Obligations.FloatInstructionsComplete : Prop :=
  ∀ (c : Ctl) (d a e : BitVec 8) (p : BitVec 6) (b : OpB) (rm : Rm) (z w64 bf : Bool),
    (∀ r : BitVec 8, WritesF (.faddShort d a r) false d
      fun w l => F32.add .rn false (w.pat false a l) (w.pat false r l)) ∧
    (∀ i : BitVec 32, WritesF (.faddLit d a i) false d
      fun w l => F32.add .rn false (w.pat false a l) i.toNat) ∧
    WritesF (.fadd c d a b rm z) false d
      (fun w l => F32.add rm z (w.pat false a l) (w.patB false b l)) ∧
    WritesF (.fsub c d a b rm z) false d
      (fun w l => F32.sub rm z (w.pat false a l) (w.patB false b l)) ∧
    WritesF (.fmul c d a b rm z) false d
      (fun w l => F32.mul rm z (w.pat false a l) (w.patB false b l)) ∧
    WritesF (.fma c d a b e rm z) false d
      (fun w l => F32.fma rm z (w.pat false a l) (w.patB false b l) (w.pat false e l)) ∧
    WritesF (.dadd c d a b rm) true d
      (fun w l => F64.add rm false (w.pat true a l) (w.patB true b l)) ∧
    WritesF (.dmul c d a b rm) true d
      (fun w l => F64.mul rm false (w.pat true a l) (w.patB true b l)) ∧
    WritesF (.dfma c d a b e rm) true d
      (fun w l => F64.fma rm false (w.pat true a l) (w.patB true b l) (w.pat true e l)) ∧
    WritesF (.fmin c d a b w64 z) w64 d
      (fun w l => (fmtOf w64).minmax false z (w.pat w64 a l) (w.patB w64 b l)) ∧
    WritesF (.fmax c d a b w64 z) w64 d
      (fun w l => (fmtOf w64).minmax true z (w.pat w64 a l) (w.patB w64 b l)) ∧
    (∀ cond : FCond, WritesFP (.fcmp c p a b cond w64 z) p
      fun w l => (fmtOf w64).compare cond z (w.pat w64 a l) (w.patB w64 b l)) ∧
    WritesF (.frcp c d a w64 rm z) w64 d (fun w l => (fmtOf w64).rcp rm z (w.pat w64 a l)) ∧
    WritesF (.frsq c d a rm z) false d (fun w l => F32.rsq rm z (w.pat false a l)) ∧
    WritesF (.fsqrt c d a w64 rm z) w64 d (fun w l => (fmtOf w64).sqrt rm z (w.pat w64 a l)) ∧
    WritesF (.fex2 c d a rm z) false d (fun w l => F32.ex2 rm z (w.pat false a l)) ∧
    WritesF (.flg2 c d a rm z) false d (fun w l => F32.lg2 rm z (w.pat false a l)) ∧
    WritesF (.fsin c d a rm z) false d (fun w l => F32.sin rm z (w.pat false a l)) ∧
    WritesF (.fcos c d a rm z) false d (fun w l => F32.cos rm z (w.pat false a l)) ∧
    WritesF (.frnd c d a w64 rm z) w64 d (fun w l => (fmtOf w64).rnd rm z (w.pat w64 a l)) ∧
    (∀ m : BitVec 10, WritesFP (.fcls c p a w64 m) p
      fun w l => (m.getLsbD ((fmtOf w64).cls (w.pat w64 a l)), 0)) ∧
    (∀ op : SgnOp, WritesF (.fsgn c d a b w64 op) w64 d
      fun w l => ((fmtOf w64).sgn op (w.pat w64 a l) (w.patB w64 b l), 0)) ∧
    WritesF (.hfma2 c d a b e bf rm z) false d (fun w l => packHalves fun k =>
      (halfFmt bf).fma rm z (halfOf (w.pat false a l) k) (halfOf (w.patB false b l) k)
        (halfOf (w.pat false e l) k)) ∧
    WritesF (.hadd2 c d a b bf rm z) false d (fun w l => packHalves fun k =>
      (halfFmt bf).add rm z (halfOf (w.pat false a l) k) (halfOf (w.patB false b l) k)) ∧
    WritesF (.hmul2 c d a b bf rm z) false d (fun w l => packHalves fun k =>
      (halfFmt bf).mul rm z (halfOf (w.pat false a l) k) (halfOf (w.patB false b l) k)) ∧
    (∀ dt st : CvtTy, WritesF (.cvtF c d a dt st rm z) dt.w64 d
      fun w l => cvtVal dt st rm z (BitVec.ofNat 64 (w.pat st.w64 a l)))

/-- R195, R196: `cvt.sb` packs the 32 lanes as one block, zeros for the lanes that do not act, writes each
acting lane's element to D and the exponent pair into the scale register's two bytes; `cvt.xsb` unpacks
one element per acting lane with the exponent bytes that h and xs select. -/
def Obligations.SelectorBlockConversions : Prop :=
  ∀ (c : Ctl) (d a e : BitVec 8) (fmt : SbFmt) (src : SbSrc) (gap : BitVec 4) (clamp : BitVec 14)
    (h : Bool) (xs : BitVec 2) (dt : SbDst) (rm : Rm),
    WritesF (.cvtXsb c d a e fmt dt rm h xs) (dt == .f64) d (fun w l =>
      let r := sbResolve fmt ((w.vget a.toNat l).toNat % 2 ^ (sbMBits fmt + 2))
        (((w.vget e.toNat l) >>> (8 * ((2 * h.toNat + xs.toNat) % 4))).toNat % 256)
        (((w.vget e.toNat l) >>> (8 * ((2 * h.toNat + 1 + xs.toNat) % 4))).toNat % 256)
      let v := roundFP (sbDstFmt dt) rm (.fin r.1.1 r.1.2.1 (r.1.2.2 - (sbK fmt : Int)))
      (v.1, v.2 ||| r.2)) ∧
    (d ≠ e → Completes (.cvtSb c d a e fmt src gap clamp h xs) fun x w' =>
      let r := packBlock fmt (if clamp = 0 then fmt.maxM else clamp.toNat) gap.toNat
        ((List.range 32).map fun l =>
          if (x.acting c).getLsbD l then sbSrcVal src (x.w.vget a.toNat l).toNat
          else .fin false 0 0)
      (∀ l, l < 32 → (x.acting c).getLsbD l = true →
        w'.vget d.toNat l = BitVec.ofNat 32 ((r.2.2.1[l]?).getD 0) ∧
        (w'.vget e.toNat l).toNat / 256 ^ ((2 * h.toNat + xs.toNat) % 4) % 256 = r.1 % 256 ∧
        (w'.vget e.toNat l).toNat / 256 ^ ((2 * h.toNat + 1 + xs.toNat) % 4) % 256 = r.2.1 % 256 ∧
        ∀ k, k < 4 → k ≠ (2 * h.toNat + xs.toNat) % 4 → k ≠ (2 * h.toNat + 1 + xs.toNat) % 4 →
          (w'.vget e.toNat l).toNat / 256 ^ k % 256 = (x.w.vget e.toNat l).toNat / 256 ^ k % 256) ∧
      (∀ n l, l < 32 → ((x.acting c).getLsbD l = false ∨ (n ≠ d.toNat ∧ n ≠ e.toNat)) →
        w'.vget n l = x.w.vget n l) ∧
      x.flagged w' (x.acting c) (fun _ => r.2.2.2) ∧
      w'.others = { x.w with
        v := w'.v, poison := w'.poison, flags := w'.flags
        rgn := { x.w.rgn with hflags := w'.rgn.hflags } }.others)

/-- The value of a finite pattern (R175), as an exact rational. -/
def FpValue (f : Fmt) (x : Nat) (v : ℚ) : Prop :=
  ∃ neg m e, f.decode x = .fin neg m e ∧ v = (if neg then -1 else 1) * (m : ℚ) * (2 : ℚ) ^ e

/-- R178, R177: an exact nonzero value m × 2^e is rounded once. What is delivered is a value of the
format; under `.rn` none is nearer, of two as near the even one is taken, under `.rz`, `.ru` and `.rd` it is the nearest towards zero, upward
and downward; INX is set exactly if it differs from the exact value; past the largest value OVF and INX
are set. -/
def Claims.RoundingIsCorrect : Prop :=
  ∀ f ∈ [F16, BF16, F32, F64], ∀ (rm : Rm) (neg : Bool) (m : Nat) (e : Int), 0 < m →
    ∀ x : ℚ, x = (if neg then -1 else 1) * (m : ℚ) * (2 : ℚ) ^ e →
    ((f.round rm neg m e false).2.getLsbD 1 = false →
      ∃ v, FpValue f (f.round rm neg m e false).1 v ∧
        ((f.round rm neg m e false).2.getLsbD 3 = true ↔ v ≠ x) ∧
        ∀ y u, FpValue f y u →
          match rm with
          | .rn => |v - x| ≤ |u - x| ∧
            (|u - x| = |v - x| → u ≠ v → (f.round rm neg m e false).1 % 2 = 0)
          | .rz => |v| ≤ |x| ∧ (|u| ≤ |x| → |u| ≤ |v|)
          | .ru => x ≤ v ∧ (x ≤ u → v ≤ u)
          | .rd => v ≤ x ∧ (u ≤ x → u ≤ v)) ∧
    ((f.round rm neg m e false).2.getLsbD 1 = true →
      (f.round rm neg m e false).2.getLsbD 3 = true ∧ ∀ y u, FpValue f y u → |u| < |x|)

/-- R188: on finite operands `add`, `sub`, `mul` and `fma` round the exact result once; an exact zero sum
takes the sign that R178 gives; invalid operations and NaN operands give the default NaN, with INV for
the invalid ones and for a signalling operand. -/
def Claims.FloatArithmeticIsExact : Prop :=
  ∀ f ∈ [F16, BF16, F32, F64], ∀ (rm : Rm) (a b c : Nat) (u v t : ℚ),
    (FpValue f a u → FpValue f b v →
      (∃ n e : Int, (n : ℚ) * (2 : ℚ) ^ e = u + v ∧ ∃ z, f.add rm false a b = f.roundInt rm false n e z) ∧
      (∃ n e : Int, (n : ℚ) * (2 : ℚ) ^ e = u - v ∧ ∃ z, f.sub rm false a b = f.roundInt rm false n e z) ∧
      (∃ n e : Int, (n : ℚ) * (2 : ℚ) ^ e = u * v ∧ ∃ z, f.mul rm false a b = f.roundInt rm false n e z) ∧
      (FpValue f c t → ∃ n e : Int, (n : ℚ) * (2 : ℚ) ^ e = u * v + t ∧
        ∃ z, f.fma rm false a b c = f.roundInt rm false n e z) ∧
      (u + v = 0 → u ≠ 0 → f.add rm false a b = (if rm = .rd then f.signW else 0, 0))) ∧
    ((f.decode a).isNan = true ∨ (f.decode b).isNan = true →
      f.add rm false a b =
        (f.nanBits, if (f.decode a).isSnan || (f.decode b).isSnan then fINV else 0) ∧
      f.mul rm false a b =
        (f.nanBits, if (f.decode a).isSnan || (f.decode b).isSnan then fINV else 0)) ∧
    (∀ s, f.decode a = .inf s → f.decode b = .inf (!s) → f.add rm false a b = (f.nanBits, fINV)) ∧
    (∀ s, f.decode a = .inf s → FpValue f b 0 → f.mul rm false a b = (f.nanBits, fINV))

/-- R189, R190: `fmin` and `fmax` on two finite patterns give one of them, by value with -0 below +0; a
single NaN gives the other operand; `fcmp` is the order of the values, -0 equal to +0, and a NaN is
unordered with INV under the four ordered conditions. -/
def Claims.FloatOrder : Prop :=
  ∀ f ∈ [F32, F64], ∀ (a b : Nat) (u v : ℚ), a < 2 * f.signW → b < 2 * f.signW →
    (FpValue f a u → FpValue f b v →
      (u < v → f.minmax false false a b = (a, 0) ∧ f.minmax true false a b = (b, 0) ∧
        f.minmax false false b a = (a, 0) ∧ f.minmax true false b a = (b, 0)) ∧
      f.compare .eq false a b = (decide (u = v), 0) ∧ f.compare .ne false a b = (decide (u ≠ v), 0) ∧
      f.compare .lt false a b = (decide (u < v), 0) ∧ f.compare .le false a b = (decide (u ≤ v), 0) ∧
      f.compare .gt false a b = (decide (v < u), 0) ∧ f.compare .ge false a b = (decide (v ≤ u), 0) ∧
      f.compare .un false a b = (false, 0) ∧ f.compare .num false a b = (true, 0)) ∧
    f.minmax false false f.signW 0 = (f.signW, 0) ∧ f.minmax true false f.signW 0 = (0, 0) ∧
    (∀ q, f.decode b = .nan q → (f.decode a).isNan = false →
      f.minmax false false a b = (a, if q then fINV else 0) ∧
      f.minmax true false b a = (a, if q then fINV else 0) ∧
      f.compare .eq false a b = (false, if q then fINV else 0) ∧
      f.compare .ne false a b = (true, if q then fINV else 0) ∧
      f.compare .lt false a b = (false, fINV) ∧ f.compare .le false a b = (false, fINV) ∧
      f.compare .gt false a b = (false, fINV) ∧ f.compare .ge false a b = (false, fINV) ∧
      f.compare .un false a b = (true, if q then fINV else 0) ∧
      f.compare .num false a b = (false, if q then fINV else 0))

/-- Floating-point results are the exact results rounded once; order and NaNs: Claims.RoundingIsCorrect,
Claims.FloatArithmeticIsExact and Claims.FloatOrder. -/
def Obligations.FloatArithmeticIsRounded : Prop :=
  Claims.RoundingIsCorrect ∧ Claims.FloatArithmeticIsExact ∧ Claims.FloatOrder

/-- R198: `xlane` reads every source lane, acting or not, before it writes; a lane whose source lies
outside 0 to 31 keeps its own value; the predicate says whether the source acts. `match` compares each
acting lane with the acting lanes. -/
def Obligations.LaneExchangeResults : Prop :=
  ∀ (c : Ctl) (d a : BitVec 8) (b : XCount) (mode : XMode) (w64 : Bool) (p : BitVec 6),
    Completes (.xlane c d a b mode w64 none) (fun x w' =>
      VWritten x.w w' d.toNat (if w64 then 2 else 1) (x.acting c)
        fun l j => x.w.vget (a.toNat + j) ((xlaneFrom x.w mode b l).getD l)) ∧
    Completes (.xlane c d a b mode w64 (some p)) (fun x w' =>
      (∀ l j, l < 32 → (x.acting c).getLsbD l = true → j < (if w64 then 2 else 1) →
        w'.vget (d.toNat + j) l = x.w.vget (a.toNat + j) ((xlaneFrom x.w mode b l).getD l)) ∧
      (∀ l, l < 32 → (x.acting c).getLsbD l = true → w'.pbit p.toNat l =
        match xlaneFrom x.w mode b l with
        | some k => (x.acting c).getLsbD k
        | none => false) ∧
      (∀ n l, l < 32 → ((x.acting c).getLsbD l = false ∨ n < d.toNat ∨
        d.toNat + (if w64 then 2 else 1) ≤ n) → w'.vget n l = x.w.vget n l) ∧
      (∀ n l, l < 32 → ((x.acting c).getLsbD l = false ∨ n ≠ p.toNat) →
        w'.pbit n l = x.w.pbit n l) ∧
      w'.others = { x.w with v := w'.v, poison := w'.poison, p := w'.p, pPoison := w'.pPoison }.others) ∧
    Completes (.matchLanes c d a false w64) (fun x w' => ∃ f : Nat → Word,
      VWritten x.w w' d.toNat 1 (x.acting c) (fun l _ => f l) ∧
      ∀ l k, l < 32 → k < 32 → (f l).getLsbD k =
        ((x.acting c).getLsbD k && x.w.pat w64 a k == x.w.pat w64 a l)) ∧
    Completes (.matchLanes c d a true w64) (fun x w' => ∃ v : Word,
      VWritten x.w w' d.toNat 1 (x.acting c) (fun _ _ => v) ∧
      ((∀ k l, k < 32 → l < 32 → (x.acting c).getLsbD k = true → (x.acting c).getLsbD l = true →
        x.w.pat w64 a k = x.w.pat w64 a l) → v = x.acting c) ∧
      (∀ k l, k < 32 → l < 32 → (x.acting c).getLsbD k = true → (x.acting c).getLsbD l = true →
        x.w.pat w64 a k ≠ x.w.pat w64 a l → v = 0))

/-- R199: `red` gives every acting lane the value of the fixed tree over the acting lanes; `scan` gives
lane l the combination, in ascending order, of the acting lanes up to l, or below l under EXCL; the flags
are those of the combining steps. -/
def Obligations.ReductionResults : Prop :=
  ∀ (c : Ctl) (d a : BitVec 8) (op : RedOp),
    Completes (.red c d a op) (fun x w' =>
      FWritten x w' d.toNat (if op.w64 then 2 else 1) (x.acting c) fun _ =>
        let r := treeValue op
          (fun l => if (x.acting c).getLsbD l then some (x.w.pat op.w64 a l) else none) 5 0
        (r.1.getD 0, r.2)) ∧
    Completes (.scan c d a op false) (fun x w' =>
      FWritten x w' d.toNat (if op.w64 then 2 else 1) (x.acting c) fun l =>
        (((runValue op (x.laneValues c op.w64 a fun k => decide (k ≤ l))).map (·.1)).getD 0,
          ((runValue op (x.laneValues c op.w64 a fun _ => true)).map (·.2)).getD 0)) ∧
    Completes (.scan c d a op true) (fun x w' =>
      FWritten x w' d.toNat (if op.w64 then 2 else 1) (x.acting c) fun l =>
        (((runValue op (x.laneValues c op.w64 a fun k => decide (k < l))).map (·.1)).getD
            (match op with
            | .minS32 => 0x7fffffff
            | .minN32 => 0xffffffff
            | .maxS32 => 0x80000000
            | .and => 0xffffffff
            | .fmin => 0x7f800000
            | .fmax => 0xff800000
            | _ => 0),
          ((runValue op (x.laneValues c op.w64 a fun _ => true)).map (·.2)).getD 0))

/-- R105, R117, R120, R146, R169: where the branches send lanes. A target outside the code or not at a
multiple of 4 parks its lanes at the branch; lanes that are not taken stand at the next instruction. No
register changes. -/
def Claims.BranchTargets : Prop :=
  ∀ (c : Ctl) (off : Off) (o24 : BitVec 24) (o32 : BitVec 32) (a n : BitVec 8) (r : BitVec 5)
    (wk : BitVec 8) (z : Bool) (p : Option (BitVec 8)),
    Does (.braShort o24) (fun x w' => w'.others = x.w.others ∧
      x.went w' x.mask fun _ => x.after + (o24.signExtend 64 <<< 2)) ∧
    Does (.braLit o32) (fun x w' => w'.others = x.w.others ∧
      x.went w' x.mask fun _ => x.after + o32.signExtend 64) ∧
    Does (.bra c off p) (fun x w' => w'.others = x.w.others ∧
      x.went w' (x.acting c) fun _ => x.after + branchOff off) ∧
    Does (.jmp c a p) (fun x w' => w'.others = x.w.others ∧
      x.went w' (x.acting c) fun l => x.g.cb + (x.w.vget a.toNat l).setWidth 64) ∧
    Does (.brx c a n off p) (fun x w' => w'.others = x.w.others ∧
      ∃ m : Mask, x.went w' m (fun l =>
        x.after + branchOff off + 16 * (x.w.vget a.toNat l).setWidth 64) ∧
        ∀ l, l < 32 → m.getLsbD l =
          ((x.acting c).getLsbD l && decide ((x.w.vget a.toNat l).toNat < n.toNat + 1))) ∧
    Does (.sbra wk r off z) (fun x w' => w'.others = x.w.others ∧
      x.went w' (if (x.w.sget r.toNat == 0) = z then x.mask else 0)
        fun _ => x.after + branchOff off)

/-- R120, R146, R150: the priorities. In a converged warp an unguarded branch to a legal target gives its
entry the priority it names, or leaves it; `join` without an issuable entry of lower PC passes with its
own priority, and otherwise stays at the instruction with priority 0. -/
def Claims.BranchPriorities : Prop :=
  ∀ (wk : BitVec 8) (off : Off) (p : Option (BitVec 8)) (q : BitVec 8),
    Does (.bra ⟨none, wk⟩ off p) (fun x w' => ∀ e, x.w.frontier = [e] → e.mask ≠ 0 → x.handler = false →
      x.g.legalPc (x.after + branchOff off) = true →
      w'.frontier = [⟨x.after + branchOff off, p.getD e.prio, e.mask, 0⟩]) ∧
    Does (.join wk q) (fun x w' => w'.others = x.w.others ∧
      (x.handler = true → x.passed w') ∧
      (x.handler = false →
        ((∃ e ∈ x.w.frontier, e.park = 0 ∧ e.pc.toNat < x.pc.toNat) →
          ∀ l, l < 32 → x.mask.getLsbD l = true → w'.stands l = some (x.pc, 0)) ∧
        ((∀ e ∈ x.w.frontier, e.park = 0 → x.pc.toNat ≤ e.pc.toNat) → x.passed w') ∧
        ∀ e, x.w.frontier = [e] → e.mask ≠ 0 → x.after.toNat < x.g.codeEnd.toNat →
          w'.frontier = [⟨x.after, q, e.mask, 0⟩]))

/-- Where branches and joins send lanes and with which priority; frame: Claims.BranchTargets and
Claims.BranchPriorities. -/
def Obligations.BranchTargetsAndPriorities : Prop :=
  Claims.BranchTargets ∧ Claims.BranchPriorities

/-- R151, R152, R335: `nop`, `yield`, and `brk` without BRKEN only pass; `trap` parks its lanes and takes
TRAPI with its code in word 1; `brk` under BRKEN hands DEBUG to the supervisor core. -/
def Obligations.NopsAndSoftwareTraps : Prop :=
  ∀ (c : Ctl) (code : BitVec 16),
    Completes .nopShort (fun x w' => w'.others = x.w.others) ∧
    Completes (.nop c) (fun x w' => w'.others = x.w.others) ∧
    Completes (.yield c) (fun x w' => w'.others = x.w.others) ∧
    Does (.brk c code) (fun x w' =>
      (x.b.brken = false ∨ x.acting c = 0 → w'.others = x.w.others ∧ x.passed w') ∧
      (x.b.brken = true → x.acting c ≠ 0 → x.handler = false →
        w'.others = x.w.others ∧ x.w.standKept w' x.mask ∧
        x.handedOver w' (x.acting c) 7 0 0x13 (code.setWidth 64) 0 0)) ∧
    Does (.trap c code) (fun x w' =>
      (x.acting c = 0 → w'.others = x.w.others ∧ x.passed w') ∧
      (x.acting c ≠ 0 → x.handler = false → x.w.utraps = [] →
        x.g.img.desc.trapent ≠ 0xffffffff →
        w'.others = x.w.others ∧ x.w.standKept w' x.mask ∧
        x.tookTrap w' (x.acting c) 0x0f (code.setWidth 64) 0 0))

/-- R130, R147, R325: the calls, with room in the core for an entry. Each acting lane whose target is legal
gets the return offset and the priority on its call stack and stands at its target; the call commits, and a
region begins after it. -/
def Claims.CallsPush : Prop :=
  ∀ (c : Ctl) (off : Off) (o24 : BitVec 24) (o32 : BitVec 32) (a : BitVec 8) (p : Option (BitVec 8)),
    let pushes (x : Site) (w' : Warp) (m : Mask) (t : Nat → DWord) : Prop :=
      x.went w' m t ∧ x.committed w' (some x.after) ∧ w'.base = { x.w with cs := w'.cs }.base ∧
      ∀ l, l < 32 → w'.calls l =
        if m.getLsbD l && x.g.legalPc (t l) then (x.prio, x.off x.after) :: x.w.calls l
        else x.w.calls l
    let room (x : Site) : Prop := x.light ∧ x.w.csM = 0 ∧ x.w.cs.length < 4
    DoesIf (.callShort o24) room (fun x w' =>
      pushes x w' x.mask fun _ => x.after + (o24.signExtend 64 <<< 2)) ∧
    DoesIf (.callLit o32) room (fun x w' => pushes x w' x.mask fun _ => x.after + o32.signExtend 64) ∧
    DoesIf (.call c off p) room (fun x w' =>
      pushes x w' (x.acting c) fun _ => x.after + branchOff off) ∧
    DoesIf (.callx c a p) room (fun x w' =>
      pushes x w' (x.acting c) fun l => x.g.cb + (x.w.vget a.toNat l).setWidth 64)

/-- R116, R131, R132, R148: `ret` with no entry in the area. Each acting lane goes to the return offset of
its newest entry with that entry's priority and the entry holds it no more, where that lies in the code; a lane that
no entry holds exits, and the call commits; a live lane of the warp remains that does not wait in `waitv`. -/
def Claims.ReturnsPop : Prop :=
  ∀ c : Ctl,
    let pops (x : Site) (w' : Warp) (m : Mask) : Prop :=
      (∀ l, l < 32 → x.mask.getLsbD l = true → w'.stands l =
        if m.getLsbD l then
          ((x.w.calls l).head?.map fun r =>
            if x.g.legalPc (x.g.cb + r.2.setWidth 64) then (x.g.cb + r.2.setWidth 64, 0) else (x.pc, 2))
        else if x.g.codeEnd.toNat ≤ x.after.toNat then some (x.g.codeEnd, 2) else some (x.after, 0)) ∧
      x.w.standKept w' x.mask ∧ x.committed w' (some x.after) ∧
      w'.base = { x.w with cs := w'.cs, exited := w'.exited }.base ∧
      (∀ l, l < 32 → w'.exited.getLsbD l = (x.w.exited.getLsbD l || (m.getLsbD l && (x.w.calls l).isEmpty))) ∧
      ∀ l, l < 32 → w'.calls l =
        if m.getLsbD l && (x.w.calls l).head?.any (fun r => x.g.legalPc (x.g.cb + r.2.setWidth 64)) then
          (x.w.calls l).tail
        else x.w.calls l
    let room (x : Site) (m : Mask) : Prop := x.light ∧ x.w.csM = 0 ∧ x.w.waits = [] ∧
      ∃ l r, l < 32 ∧ x.w.stands l = some r ∧ r.2 ≠ 3 ∧ (m.getLsbD l = true → x.w.calls l ≠ [])
    DoesIf .retShort (fun x => room x x.mask) (fun x w' => pops x w' x.mask) ∧
    DoesIf (.ret c) (fun x => room x (x.acting c)) (fun x w' => pops x w' (x.acting c))

/-- Calls push and returns pop, lane by lane; both commit: Claims.CallsPush and Claims.ReturnsPop. -/
def Obligations.CallsAndReturns : Prop :=
  Claims.CallsPush ∧ Claims.ReturnsPop

/-- R116, R132, R149: `exit`. Its lanes exit, leave every entry of the call stack, and the region commits;
the lanes that do not act move on, and a live lane of the warp remains that does not wait in `waitv`; no entry is
in the area. -/
def Claims.ExitsEndLanes : Prop :=
  ∀ c : Ctl,
    let exits (x : Site) (w' : Warp) (m : Mask) : Prop :=
      (∀ l, l < 32 → x.mask.getLsbD l = true → w'.stands l =
        if m.getLsbD l then none
        else if x.g.codeEnd.toNat ≤ x.after.toNat then some (x.g.codeEnd, 2) else some (x.after, 0)) ∧
      x.w.standKept w' x.mask ∧ x.committed w' (some x.after) ∧
      w'.base = { x.w with cs := w'.cs, exited := w'.exited }.base ∧ w'.exited = x.w.exited ||| m ∧
      ∀ l, l < 32 → w'.calls l = if m.getLsbD l then [] else x.w.calls l
    let room (x : Site) (m : Mask) : Prop := x.light ∧ x.w.waits = [] ∧ x.w.csM = 0 ∧
      ∃ l r, l < 32 ∧ x.w.stands l = some r ∧ r.2 ≠ 3 ∧ m.getLsbD l = false
    DoesIf .exitShort (fun x => room x x.mask) (fun x w' => exits x w' x.mask) ∧
    DoesIf (.exit c) (fun x => room x (x.acting c)) (fun x w' => exits x w' (x.acting c))

/-- R202, R203: `ckchk`. Integer checksums pass when equal and fail otherwise with reason 1, different
modes fail with reason 2; a failure traps CHECK in the acting lanes with the reason, the register numbers
and both values. -/
def Claims.ChecksumTest : Prop :=
  ∀ (c : Ctl) (a b : BitVec 2) (e : BitVec 16),
    Does (.ckchk c a b e) (fun x w' =>
      let fails (reason : Nat) : Prop :=
        x.acting c ≠ 0 → x.handler = false → x.w.utraps = [] → x.g.img.desc.trapent ≠ 0xffffffff →
          w'.others = x.w.others ∧ x.w.standKept w' x.mask ∧
          x.tookTrap w' (x.acting c) 0x09
            (BitVec.ofNat 64 (reason + a.toNat * 2 ^ 8 + b.toNat * 2 ^ 16))
            (x.w.ckget a.toNat) (x.w.ckget b.toNat)
      let ma := x.w.ckmode.getLsbD a.toNat
      let mb := x.w.ckmode.getLsbD b.toNat
      (x.acting c = 0 → w'.others = x.w.others ∧ x.passed w') ∧
      (ma ≠ mb → fails 2) ∧
      (ma = false → mb = false → x.w.ckget a.toNat ≠ x.w.ckget b.toNat → fails 1) ∧
      (ma = false → mb = false → x.w.ckget a.toNat = x.w.ckget b.toNat →
        w'.others = x.w.others ∧ x.passed w'))

/-- Checksums accumulate in lane order, clear, pass and trap; frame: Claims.ChecksumResults and
Claims.ChecksumTest. -/
def Obligations.ChecksumInstructions : Prop :=
  Claims.ChecksumResults ∧ Claims.ChecksumTest

/-- R85, R153: `spawn`. Without an acting lane nothing happens; where the core or the context pool has no
room the acting lanes read false; otherwise one block joins the issuing core, child of the issuing block and
with its index and rank, its warps at the entry with the caller's scalar in `s0`, and the acting lanes read
true. -/
def Claims.SpawnAsks : Prop :=
  ∀ (c : Ctl) (pd : BitVec 6) (sa : BitVec 5) (entry : BitVec 16) (s : State) (x : Site),
    Issues (.spawn c pd sa entry) s x →
      ∃ t w', exec (.spawn c pd sa entry) s = .next t ∧ t.warpAt s.cur = some w' ∧ x.passed w' ∧
        (x.acting c = 0 → w'.others = x.w.others ∧ OthersKept s t) ∧
        (x.acting c ≠ 0 → s.fits x.b.coreNum x.g.img.desc true = none →
          PWritten x.w w' pd.toNat (x.acting c) (fun _ => false) ∧ OthersKept s t) ∧
        ∀ off cx key ke, x.acting c ≠ 0 → s.fits x.b.coreNum x.g.img.desc true = some off →
          s.ctx? x.g.ctx = some cx → cx.poolFind x.g.img.desc.area 256 = some key →
          s.block? key = none →
          x.g.img.entries[entry.toNat]? = some ke →
          PWritten x.w w' pd.toNat (x.acting c) (fun _ => true) ∧
          ∃ nb, t.blocks.map (·.key) = s.blocks.map (·.key) ++ [nb.key] ∧ nb ∈ t.blocks ∧
            nb.key = key ∧ nb.grid = x.g.id ∧ nb.spawned = true ∧ nb.parent = x.b.key ∧
            nb.bx = x.b.bx ∧ nb.by_ = x.b.by_ ∧ nb.bz = x.b.bz ∧ nb.rank = x.b.rank ∧
            nb.coreNum = x.b.coreNum ∧ nb.spadOff = off ∧ nb.warps.length = x.g.img.desc.warps ∧
            ∀ w ∈ nb.warps,
              w.frontier = [⟨x.g.cb + ke.code.setWidth 64, ke.prio, 0xffffffff, 0⟩] ∧
              w.sget 0 = x.w.sget sa.toNat ∧ (∀ n, n ≠ 0 → w.sget n = 0) ∧
              (∀ n l, w.vget n l = 0) ∧ ∀ n, w.pget n = 0

/-- exit ends lanes; spawn asks for a block: Claims.ExitsEndLanes and Claims.SpawnAsks. -/
def Obligations.ExitsAndSpawns : Prop :=
  Claims.ExitsEndLanes ∧ Claims.SpawnAsks

/-- R329, R330, R355, R358, R359: `rgn` and `rgnx` commit a region that holds no store or command and begin
a region, or exposed code, at the next instruction; `npe` opens a section of 65,536 instructions and does
nothing in one; `pe` ends it. -/
def Claims.RegionsAndSections : Prop :=
  ∀ wk : BitVec 8,
    DoesIf .rgnShort Site.light (fun x w' => x.committed w' (some x.after) ∧ x.passed w' ∧ w'.base = x.w.base) ∧
    DoesIf (.rgn wk) Site.light (fun x w' => x.committed w' (some x.after) ∧ x.passed w' ∧ w'.base = x.w.base) ∧
    DoesIf (.rgnx wk) Site.light (fun x w' => x.committed w' none ∧ x.passed w' ∧ w'.base = x.w.base) ∧
    Completes (.npe wk) (fun x w' => w'.others = { x.w with st := { x.w.st with npe := true } }.others ∧
      w'.st.npeleft = if x.w.st.npe then x.w.st.npeleft - 1 else 65536) ∧
    Completes (.pe wk) (fun x w' => w'.others = { x.w with st := { x.w.st with npe := false } }.others ∧
      w'.st.npeleft = 0)

/-- R235, R325: a commit performs held stores. A region that holds one store of one lane to bytes of bonded
DRAM is left by `rgn`: the bytes are stored, every other byte of memory reads as before, nothing is held any
more, and the region that begins is at the next instruction. -/
def Claims.CommitStores : Prop :=
  ∀ (s : State) (x : Site) (cx : Ctx) (st : StoreLane) (a : Nat) (ord : BitVec 2),
    Issues .rgnShort s x → x.inRegion = true → x.ctx? = some cx → x.w.stores = [[st]] → x.w.cmds = [] →
    st.sp = false → st.bytes ≠ [] →
    s.resolve cx st.addr st.bytes.length .store =
      .ok ((List.range st.bytes.length).map fun k => .mem 0 (a + k), ord) →
      ∃ t w', exec .rgnShort s = .next t ∧ t.warpAt s.cur = some w' ∧
        x.committed w' (some x.after) ∧ x.passed w' ∧ w'.base = x.w.base ∧
        t.lpddr = s.lpddr ∧ t.hostMem = s.hostMem ∧
        (∀ k, k < st.bytes.length → t.dram.byte (a + k) = st.bytes.getD k 0) ∧
        ∀ b, (b < a ∨ a + st.bytes.length ≤ b) → t.dram.byte b = s.dram.byte b

/-- Regions begin and commit, sections open and end, a commit performs held stores:
Claims.RegionsAndSections and Claims.CommitStores. -/
def Obligations.RegionsAndCommits : Prop :=
  Claims.RegionsAndSections ∧ Claims.CommitStores

/-- R360, R362: `lnrd` and `lnwr` reach a register of one lane, or the frame's copy of a scalar; `csrw`
writes FLAGS alone. -/
def Claims.LanesAndFlags : Prop :=
  ∀ (wk : BitVec 8) (sd sa : BitVec 5) (r : BitVec 8) (p : BitVec 6) (f : BitVec 5) (ln : LaneOp)
    (op : MaskOp),
    let lane (w : Warp) : Nat := match ln with
      | .imm l => l.toNat
      | .reg q => (w.sget q.toNat).toNat % 32
    WritesS (.lnrd wk sd (.v r false) ln) sd (fun w => (w.vget r.toNat (lane w)).setWidth 64) ∧
    WritesS (.lnrd wk sd (.v r true) ln) sd (fun w =>
      (w.vget r.toNat (lane w)).setWidth 64 + (w.vget (r.toNat + 1) (lane w)).setWidth 64 * 2 ^ 32) ∧
    WritesS (.lnrd wk sd (.p p) ln) sd (fun w => if w.pbit p.toNat (lane w) then 1 else 0) ∧
    Completes (.lnrd wk sd (.f f) ln) (fun x w' => ∀ fr, x.w.frame = some fr →
      SWritten x.w w' sd.toNat (smGet 0 fr.saved f.toNat)) ∧
    Completes (.lnwr wk (.v r false) sa ln) (fun x w' =>
      VWritten x.w w' r.toNat 1 (laneBit (lane x.w)) fun _ _ => (x.w.sget sa.toNat).setWidth 32) ∧
    Completes (.lnwr wk (.v r true) sa ln) (fun x w' =>
      VWritten x.w w' r.toNat 2 (laneBit (lane x.w)) fun _ j => (x.w.sget sa.toNat).extractLsb' (32 * j) 32) ∧
    Completes (.lnwr wk (.p p) sa ln) (fun x w' =>
      (∀ n l, l < 32 → w'.pbit n l =
        if n = p.toNat ∧ l = lane x.w then (x.w.sget sa.toNat).getLsbD 0 else x.w.pbit n l) ∧
      w'.others = { x.w with p := w'.p, pPoison := w'.pPoison }.others) ∧
    Completes (.lnwr wk (.f f) sa ln) (fun x w' => w'.others = x.w.others ∧ ∀ fr, x.w.frame = some fr →
      ∃ fr', w'.frame = some fr' ∧ fr'.trap = fr.trap ∧ fr'.tmask = fr.tmask ∧
        ∀ n, smGet 0 fr'.saved n = if n = f.toNat then x.w.sget sa.toNat else smGet 0 fr.saved n) ∧
    Completes (.csrw wk 0 sa op) (fun x w' =>
      let v := (x.w.sget sa.toNat).setWidth 5
      w'.others = { x.w with flags := match op with
        | .wr => v
        | .set => x.w.flags ||| v
        | .clr => x.w.flags &&& ~~~v }.others)

/-- R335, R361: `tret` without CMT of a trap that is no COPYF, with no other trap pending and no call-stack entry in
the area. The scalars come
back from the frame, handler mode ends, and the acted lanes that stand parked at POFF are issuable there
(RESUME), issuable after the instruction (SKIP) or exited (KILL), the other lanes of TMASK issuable at POFF;
`tret.end` ends the grid with USER_TRAP. -/
def Claims.ReturnFromTrap : Prop :=
  ∀ (wk : BitVec 8) (act : TretAct) (m : Option (BitVec 5)) (s : State) (x : Site) (f : Frame)
    (pre post : List Entry) (q : BitVec 8),
    let acted : Mask := f.tmask &&& match m with
      | some r => (x.w.sget r.toNat).setWidth 32
      | none => 0xffffffff
    Issues (.tret wk act false false m) s x → x.w.frame = some f → f.trap.xfer = none → f.trap.len ≠ 0 →
    x.w.utraps = [] → x.w.waits = [] → x.w.csM = 0 →
    x.w.frontier = pre ++ ⟨f.trap.pc, q, f.tmask, 1⟩ :: post → (∀ e ∈ pre ++ post, e.mask &&& f.tmask = 0) →
    (∃ l r, l < 32 ∧ x.w.stands l = some r ∧ r.2 ≠ 3 ∧ (act = .kill → acted.getLsbD l = false)) →
    f.trap.pc.toNat + f.trap.len < x.g.codeEnd.toNat →
      ∃ t w', exec (.tret wk act false false m) s = .next t ∧ t.warpAt s.cur = some w' ∧ OthersKept s t ∧
        (act ≠ .stop → w'.s = f.saved ∧ w'.frame = none ∧
          (∀ l, l < 32 → w'.stands l =
            if acted.getLsbD l then
              match act with
              | .resume => some (f.trap.pc, 0)
              | .skip => some (f.trap.pc + BitVec.ofNat 64 f.trap.len, 0)
              | _ => none
            else if f.tmask.getLsbD l then some (f.trap.pc, 0) else x.w.stands l) ∧
          (∀ n l, w'.vget n l = x.w.vget n l) ∧ (∀ n, w'.pget n = x.w.pget n) ∧ w'.flags = x.w.flags ∧
          w'.exited = if act = .kill then x.w.exited ||| acted else x.w.exited) ∧
        (act = .stop → x.g.ending = none →
          ∃ g', t.grid? x.g.id = some g' ∧ g'.ending = some ⟨4, 0x80,
            (f.trap.words.w0.extractLsb' 0 8).setWidth 16,
            x.g.cb + (f.trap.words.w0.extractLsb' 32 32).setWidth 64⟩)

/-- Lane and flag access, and the return from a trap: Claims.LanesAndFlags and Claims.ReturnFromTrap. -/
def Obligations.TrapHandlerInstructions : Prop :=
  Claims.LanesAndFlags ∧ Claims.ReturnFromTrap

/-- R107, R128, R144, R336, R344, R355, R356: the checks that come before an instruction's own. Where one
applies the whole entry traps with its code and no register, memory or other lane changes: instructions of
handler mode outside it, and those that handler mode forbids, raise ILLOP; an instruction of the scalar pipe
or one that needs a converged warp raises DIVSCALAR in a diverged one; a spent section raises NPELIM. -/
def Obligations.ChecksTrap : Prop :=
  (∀ (i : Instr) (s : State) (x : Site) (c : Cause), s.site i.bytes = some x → x.pending = none →
    x.stalled i = false → x.mxStalled i = false → x.check i = some c → x.handler = false →
      ∃ t w', exec i s = .next t ∧ t.warpAt s.cur = some w' ∧ OthersKept s t ∧
        w'.others = { x.w with st := { x.w.st with npe := x.w.st.npe && c.code != TrapCode.npelim } }.others ∧
        x.w.standKept w' x.mask ∧
        ∀ l, l < 32 → x.mask.getLsbD l = true → w'.stands l = some (x.pc, c.code.park)) ∧
  (∀ (i : Instr) (x : Site), (if x.handler then handlerIllegal i else handlerOnly i) = true →
    (x.check i).map (·.code) = some .illop) ∧
  (∀ (i : Instr) (x : Site), illegalHere x i = false → x.w.st.npe = false → needsConv i = true →
    x.conv = false → (x.check i).map (·.code) = some .divscalar) ∧
  ∀ (wk : BitVec 8) (x : Site), x.w.st.npe = true → x.w.st.npeleft = 0 → x.handler = false →
    (x.check .nopShort).map (·.code) = some .npelim ∧ (x.check (.pe wk)).map (·.code) ≠ some .npelim

/-- R166, R235, R240, R243, R244: the loads, where every acting lane passes the checks, no byte lies in
another package and loads land at issue. Each acting lane's registers hold the bytes at its address, zero-
or sign-extended, `ldq` those of the member's scratchpad; nothing else changes. -/
def Claims.LoadsRead : Prop :=
  (∀ (c : Ctl) (d : BitVec 8) (addr : Addr) (sp : Bool) (ann : Ann) (sz : LdSz) (s : State) (x : Site)
    (cx : Ctx) (at_ : Nat → List Loc), Issues (.ld c d addr sp ann sz) s x → x.ctx? = some cx →
    s.slowLoads = false →
    (∀ l, l < 32 → (x.acting c).getLsbD l = true →
      x.plain x.b (x.access cx sp (x.w.addr sp addr l) (ldBytes sz) .load false) (at_ l)) →
      ∃ t w', exec (.ld c d addr sp ann sz) s = .next t ∧ t.warpAt s.cur = some w' ∧
        VWritten x.w w' d.toNat sz.regs (x.acting c)
          (fun l j => loadedWord sz (leNat ((at_ l).map (x.sees cx))) j) ∧
        x.passed w' ∧ OthersKept s t) ∧
  (∀ (c : Ctl) (d : BitVec 8) (addr : Addr) (m : BitVec 2) (sz : LdSz) (s : State) (x : Site) (cx : Ctx)
    (p : Block) (at_ : Nat → List Loc), Issues (.ldq c d addr m sz) s x → x.ctx? = some cx →
    s.slowLoads = false → s.member? x.b m.toNat = some p →
    (∀ l, l < 32 → (x.acting c).getLsbD l = true →
      x.plain p (x.access cx true (x.w.addr true addr l) (ldBytes sz) .load false) (at_ l)) →
      ∃ t w', exec (.ldq c d addr m sz) s = .next t ∧ t.warpAt s.cur = some w' ∧
        VWritten x.w w' d.toNat sz.regs (x.acting c)
          (fun l j => loadedWord sz (leNat ((at_ l).map fun q =>
            if p.key = x.b.key then x.sees cx q else readLoc s p q)) j) ∧
        x.passed w' ∧ OthersKept s t) ∧
  ∀ (wk : BitVec 8) (d a : BitVec 5) (b : SOpB) (sz : SldSz) (s : State) (x : Site) (cx : Ctx)
    (ls : List Loc), Issues (.sld wk d a b sz) s x → x.ctx? = some cx → s.slowLoads = false →
    x.mask ≠ 0 →
    x.plain x.b (x.access cx false ((x.w.sget a.toNat + x.w.sopb b) &&& (2#64 ^ 57 - 1)) (sldBytes sz)
      .load false) ls →
      ∃ t w', exec (.sld wk d a b sz) s = .next t ∧ t.warpAt s.cur = some w' ∧
        SWritten x.w w' d.toNat (loadedScalar sz (leNat (ls.map (x.sees cx)))) ∧
        x.passed w' ∧ OthersKept s t

/-- R225, R244, R245: `st`. In exposed code the lanes' bytes are written in ascending lane order and no
register changes; in a region one entry with every lane's bytes is held and memory is as before; `st.rel`
commits first. Nothing else of memory changes. -/
def Claims.StoresWrite : Prop :=
  ∀ (c : Ctl) (d : BitVec 8) (addr : Addr) (sp : Bool) (ann : Ann) (sz : StSz) (at_ : Site → Nat → List Loc),
    let bytes (x : Site) (l : Nat) : List Byte :=
      leBytes (stBytes sz) (leNat (((List.range sz.regs).map fun j =>
        leBytes 4 (x.w.vget (d.toNat + j) l).toNat).flatten))
    let fine (x : Site) : Prop := ∃ cx, x.ctx? = some cx ∧
      ∀ l, l < 32 → (x.acting c).getLsbD l = true →
        ∃ ord, ord ≠ 1 ∧ x.access cx sp (x.w.addr sp addr l) (stBytes sz) .store false = .good (at_ x l) ord ∧
          ∀ q ∈ at_ x l, (∃ o, q = .sp o) ∨ ∃ t o, t ≤ 2 ∧ q = .mem t o
    Effect (.st c d addr sp .relaxed sz) (fun x => x.inRegion = false ∧ fine x) State.noMemory Block.noSpad
      (fun x t w' => w'.others = x.w.others ∧ x.passed w' ∧
        Wrote x.s t (laneWrites (x.acting c) (at_ x) (bytes x))) ∧
    DoesIf (.st c d addr sp .relaxed sz) (fun x => x.inRegion = true ∧ x.w.stores.length < 16 ∧ fine x)
      (fun x w' => x.passed w' ∧
        w'.others = { x.w with stores := x.w.stores ++
          [((List.range 32).filter fun l => (x.acting c).getLsbD l).map fun l =>
            (⟨l, sp, x.w.addr sp addr l, bytes x l⟩ : StoreLane)] }.others) ∧
    Effect (.st c d addr sp ann sz) (fun x => ann ≠ .relaxed ∧ x.light ∧ x.released ann ∧ fine x)
      State.noMemory Block.noSpad
      (fun x t w' => (x.handler = false → x.committed w' (some x.after)) ∧ x.passed w' ∧
        w'.base = x.w.base ∧ Wrote x.s t (laneWrites (x.acting c) (at_ x) (bytes x)))

/-- Loads read and stores write exactly the bytes at their addresses; frame: Claims.LoadsRead and
Claims.StoresWrite. -/
def Obligations.LoadsAndStores : Prop :=
  Claims.LoadsRead ∧ Claims.StoresWrite

/-- R122, R217, R242: an access of exposed code outside a handler in which lanes fail the checks. A lane
whose scratchpad bytes lie outside the allocation or whose address is misaligned parks with PARK 1, a lane
of a load that does not translate with PARK 6, of a store with PARK 2, all at the instruction; the lanes that
pass, and those that do not act, go on. -/
def Obligations.AccessFaultsPark : Prop :=
  ∀ (c : Ctl) (d : BitVec 8) (addr : Addr) (sp : Bool) (ann : Ann) (lz : LdSz) (sz : StSz)
    (cx : Ctx) (x : Site),
    let went (w' : Warp) (acc : Nat → LaneAcc) (bad : BitVec 4) : Prop :=
      x.w.standKept w' x.mask ∧ ∀ l, l < 32 → x.mask.getLsbD l = true → w'.stands l =
        if (x.acting c).getLsbD l then
          match acc l with
          | .trap _ => some (x.pc, 1)
          | .bad _ => some (x.pc, bad)
          | .good _ _ => if x.g.codeEnd.toNat ≤ x.after.toNat then some (x.g.codeEnd, 2) else some (x.after, 0)
        else if x.g.codeEnd.toNat ≤ x.after.toNat then some (x.g.codeEnd, 2) else some (x.after, 0)
    let free (acc : Nat → LaneAcc) : Prop := x.s.poison = [] ∧ x.b.spadPoison = [] ∧
      ∀ l ls ord, (x.acting c).getLsbD l = true → acc l = .good ls ord → ord ≠ 1
    x.ctx? = some cx → x.inRegion = false → x.handler = false →
      (∀ s, Issues (.ld c d addr sp ann lz) s x →
        free (fun l => x.access cx sp (x.w.addr sp addr l) (ldBytes lz) .load false) →
        ∃ t w', exec (.ld c d addr sp ann lz) s = .next t ∧ t.warpAt s.cur = some w' ∧
          went w' (fun l => x.access cx sp (x.w.addr sp addr l) (ldBytes lz) .load false) 6) ∧
      (∀ s, Issues (.st c d addr sp .relaxed sz) s x →
        free (fun l => x.access cx sp (x.w.addr sp addr l) (stBytes sz) .store false) →
        ∃ t w', exec (.st c d addr sp .relaxed sz) s = .next t ∧ t.warpAt s.cur = some w' ∧
          went w' (fun l => x.access cx sp (x.w.addr sp addr l) (stBytes sz) .store false) 2)

/-- R225, R247, R248: `atom` and `red.m`, where every acting lane passes the checks and no byte lies in
another package. The lanes perform their operations in ascending order, each on what the one before left;
`atom` writes each lane's old value; the instruction commits and nothing else changes. -/
def Obligations.AtomicsPerform : Prop :=
  ∀ (c : Ctl) (d a : BitVec 8) (off : BitVec 16) (b rc : BitVec 8) (op : AtomOp) (ann : Ann)
    (w64 sg sp : Bool) (at_ : Site → Nat → List Loc),
    let w := if w64 then 64 else 32
    let fine (x : Site) : Prop := x.light ∧ x.released ann ∧ ∃ cx, x.ctx? = some cx ∧
      ∀ l, l < 32 → (x.acting c).getLsbD l = true →
        x.plain x.b (x.atomAccess cx op sp (x.w.addr sp (.vec a (.imm off)) l) (w / 8)) (at_ x l)
    let run (x : Site) (rc : BitVec 8) : List (Nat × Nat) × List (Loc × Byte) :=
      atomRun w op sg
        (fun l => (if w64 then (x.w.vget64 b.toNat l).toNat else (x.w.vget b.toNat l).toNat,
          if w64 then (x.w.vget64 rc.toNat l).toNat else (x.w.vget rc.toNat l).toNat))
        (readLoc x.s x.b)
        (((List.range 32).filter fun l => (x.acting c).getLsbD l).map fun l => (l, at_ x l)) []
    let left (x : Site) (w' : Warp) : Prop :=
      (x.handler = false → x.committed w' (some x.after)) ∧ x.passed w'
    Effect (.atom c d a off b rc op ann w64 sg sp) fine State.noMemory Block.noSpad
      (fun x t w' => left x w' ∧ Wrote x.s t (run x rc).2 ∧
        (∀ l v, (l, v) ∈ (run x rc).1 → w'.vget d.toNat l = BitVec.ofNat 32 v ∧
          (w64 = true → w'.vget (d.toNat + 1) l = BitVec.ofNat 32 (v / 2 ^ 32))) ∧
        (∀ n l, l < 32 → ((x.acting c).getLsbD l = false ∨ n < d.toNat ∨
          d.toNat + (if w64 then 2 else 1) ≤ n) → w'.vget n l = x.w.vget n l) ∧
        w'.base = { x.w with v := w'.v, poison := w'.poison }.base) ∧
    Effect (.redM c a off b op ann w64 sg sp) fine State.noMemory Block.noSpad
      (fun x t w' => left x w' ∧ Wrote x.s t (run x b).2 ∧ w'.base = x.w.base)

/-- R249: `waitv`. Each acting lane compares its naturally aligned word with its own value: where the
condition holds it stands at the next instruction, otherwise it parks with PARK 3 and its wait is held; the
instruction commits, ends an npe section where a lane parks, and writes nothing else. -/
def Claims.WaitvParks : Prop :=
  ∀ (c : Ctl) (a : BitVec 8) (off : Off) (b : BitVec 8) (cond : WCond) (ann : Ann) (w64 sp : Bool)
    (at_ : Site → Nat → List Loc),
    Effect (.waitv c a off b cond ann w64 sp)
      (fun x => x.light ∧ ∃ cx, x.ctx? = some cx ∧ ∀ l, l < 32 → (x.acting c).getLsbD l = true →
        x.plain x.b (x.waitAccess cx sp (x.w.addr sp (.vec a off) l) (if w64 then 8 else 4)) (at_ x l))
      State.noFresh id
      (fun x _ w' =>
        let holds (l : Nat) : Bool := condTrue cond (leNat ((at_ x l).map (readLoc x.s x.b)))
          (if w64 then (x.w.vget64 b.toNat l).toNat else (x.w.vget b.toNat l).toNat)
        x.committed w' (some x.after) ∧ x.w.standKept w' x.mask ∧
        (∀ l, l < 32 → x.mask.getLsbD l = true → w'.stands l =
          if (x.acting c).getLsbD l && !holds l then some (x.pc, 3)
          else if x.g.codeEnd.toNat ≤ x.after.toNat then some (x.g.codeEnd, 2) else some (x.after, 0)) ∧
        (∀ l, l < 32 → (x.acting c).getLsbD l = true → holds l = false →
          ∃ v ∈ w'.waits, v.lane = l ∧ v.next = x.after) ∧
        ((∀ l, l < 32 → (x.acting c).getLsbD l = true → holds l = true) → w'.waits = x.w.waits) ∧
        w'.base = { x.w with
          waits := w'.waits, parkedAt := w'.parkedAt, st := { x.w.st with npe := w'.st.npe } }.base)

/-- R223, R236, R250 to R252: fences, the prefetch and the host's caches. An acquire fence and `prf` pass
and change nothing; the other fences, `flush.host` and `inval.host` commit and change nothing else, a fence once
the warp's pod-window stores are acknowledged (log entry 58: the model's choice for scopes below `.pod`). In one total order of memory a fence has no other effect (log
entry 5: the model's choice). -/
def Claims.FencesPass : Prop :=
  ∀ (c : Ctl) (k : FenceKind) (sc : Scope) (p q : Path) (l1 : Bool) (addr : Addr) (a : BitVec 5)
    (len : LenOp),
    let commits (x : Site) (w' : Warp) : Prop :=
      (x.handler = false → x.committed w' (some x.after)) ∧ x.passed w' ∧ w'.base = x.w.base
    Completes (.fence c .acq sc p q) (fun x w' => w'.others = x.w.others) ∧
    (k ≠ .acq → DoesIf (.fence c k sc p q) (fun x => x.light ∧ x.w.acks = 0) commits) ∧
    Completes (.prf c l1 addr) (fun x w' => w'.others = x.w.others) ∧
    DoesIf (.flushHost c a len) Site.light commits ∧ DoesIf (.invalHost c a len) Site.light commits

/-- waitv compares and parks; fences and cache operations pass or commit: Claims.WaitvParks and
Claims.FencesPass. -/
def Obligations.WaitsAndFencesPass : Prop :=
  Claims.WaitvParks ∧ Claims.FencesPass

/-- R253, R254, R256 to R258: the tile table. `tcfg` writes the entry from its scalars, `tfree` clears it,
once no tile is busy and the matrix engine is idle; a busy entry makes both wait; a bad shape traps SPAD in
every lane; `tstat` reports the state. No register but `tstat`'s destination, and no scratchpad byte,
changes. -/
def Claims.TileTable : Prop :=
  ∀ (c : Ctl) (t : BitVec 4) (a b : BitVec 5) (fmt : BitVec 8) (rdy : Bool) (p : BitVec 6) (v : BitVec 8),
    let base (x : Site) : Nat := (x.w.sget a.toNat).toNat % 2 ^ 32
    let rows (x : Site) : Nat := (x.w.sget b.toNat).toNat % 2 ^ 16
    let rowb (x : Site) : Nat := (x.w.sget b.toNat).toNat / 2 ^ 32
    let good (x : Site) : Prop := base x % 64 = 0 ∧ 1 ≤ rows x ∧ rows x ≤ 1024 ∧ 4 ≤ rowb x ∧
      rowb x % 4 = 0 ∧ base x + rows x * rowb x ≤ x.g.img.desc.spad
    let quiet (x : Site) : Prop := x.acting c ≠ 0 ∧
      (∀ n, n < 16 → (x.b.tile n).st = .empty ∨ (x.b.tile n).st = .ready) ∧
      (x.s.core x.b.coreNum).mx.ops = [] ∧ x.w.cmds = []
    let entry (x : Site) (u : State) (e : Tile) : Prop :=
      ∃ b', u.block? x.b.key = some b' ∧ ∀ n, b'.tile n = if n = t.toNat then e else x.b.tile n
    Effect (.tcfg c t a b fmt rdy) (fun x => quiet x ∧ good x) id Block.noTiles (fun x u w' =>
      w'.others = x.w.others ∧ x.passed w' ∧
        entry x u ⟨fmt, 0, true, false, if rdy then .ready else .empty, rowb x, rows x, base x⟩) ∧
    DoesIf (.tcfg c t a b fmt rdy) (fun x => x.acting c ≠ 0 ∧ ¬ good x ∧ x.handler = false ∧
        x.w.utraps = [] ∧ x.g.img.desc.trapent ≠ 0xffffffff) (fun x w' =>
      w'.others = x.w.others ∧ x.tookTrap w' x.mask 0x03 (BitVec.ofNat 64 (base x)) 0 0) ∧
    Effect (.tfree c t) quiet id Block.noTiles (fun x u w' =>
      w'.others = x.w.others ∧ x.passed w' ∧ entry x u ⟨0, 0, false, false, .empty, 0, 0, 0⟩) ∧
    (∀ s x, Issues (.tfree c t) s x → x.acting c ≠ 0 →
      ((x.b.tile t.toNat).st = .filling ∨ (x.b.tile t.toNat).st = .draining) →
        exec (.tfree c t) s = .next s) ∧
    (∀ i, i = .tcfg c t a b fmt rdy ∨ i = .tfree c t →
      DoesIf i (fun x => x.acting c = 0) (fun x w' => w'.others = x.w.others ∧ x.passed w')) ∧
    DoesIf (.tstat c (.p p) t) (fun x => x.g.img.desc.det = false) (fun x w' => x.passed w' ∧
      PWritten x.w w' p.toNat (x.acting c) fun _ => decide ((x.b.tile t.toNat).st = .ready)) ∧
    DoesIf (.tstat c (.v v) t) (fun x => x.g.img.desc.det = false) (fun x w' => x.passed w' ∧
      VWritten x.w w' v.toNat 1 (x.acting c) fun _ _ =>
        let e := x.b.tile t.toNat
        BitVec.ofNat 32 (e.fmt.toNat * 2 ^ 16 + e.pend % 256 * 2 ^ 8 + e.cfg.toNat * 8 + e.fault.toNat * 4 +
          match e.st with
          | .empty => 0
          | .filling => 1
          | .ready => 2
          | .draining => 3))

/-- R254, R259 to R263: `tload`, `tstore`, `cp`, `rput` and `rget`. Each issues one transfer with the
operands its scalars give, raises its token and moves its tile to filling or draining; in a region the
command is held and nothing is counted; without an acting lane, or with a length of 0, it only passes. -/
def Claims.TransfersIssue : Prop :=
  ∀ (c : Ctl) (t : BitVec 4) (h : BitVec 8) (a d : BitVec 5) (tr : Tr) (ot : Option (BitVec 3))
    (len : LenOp) (dir : CpDir) (sp : Bool) (tok : BitVec 3),
    let issues (i : Instr) (r : Site → XferReq) (ok : Site → Prop) (e : Site → Tile) : Prop :=
      Effect i (fun x => x.inRegion = false ∧ x.acting c ≠ 0 ∧ ok x ∧ x.tokenRoom (r x).tok)
        State.noFresh Block.noXfers (fun x u w' => x.sent u w' (r x) (e x) ∧ u.fresh = x.s.fresh + 1) ∧
      DoesIf i (fun x => x.inRegion = true ∧ x.acting c ≠ 0 ∧ ok x ∧ x.w.cmds.length < 16)
        (fun x w' => x.held w' (.xfer (r x)) ∧ x.passed w') ∧
      DoesIf i (fun x => x.acting c = 0) (fun x w' => w'.others = x.w.others ∧ x.passed w')
    let tile (x : Site) : Tile := x.b.tile t.toNat
    let fits (x : Site) : Prop := (x.s.core x.b.coreNum).mx.ops = [] ∧
      ∃ l, x.g.img.tlrs[h.toNat]? = some l ∧ tileFits (tile x) l tr = true
    let inSp (x : Site) (sp : Bool) (v : DWord) (n : Nat) : Prop :=
      sp = true → v.toNat + n ≤ x.g.img.desc.spad ∧ v.toNat < 2 ^ 32
    let bytes (i : Instr) (kind : XferKind) (opc fn : Nat) (ssp dsp : Bool) : Prop :=
      issues i (fun x => x.byteReq c kind opc fn d a len ssp dsp tok)
        (fun x =>
          let n := (x.byteReq c kind opc fn d a len ssp dsp tok).len
          n ≠ 0 ∧ inSp x ssp (x.w.sget a.toNat) n ∧ inSp x dsp (x.w.sget d.toNat) n) tile ∧
      DoesIf i (fun x => (x.byteReq c kind opc fn d a len ssp dsp tok).len = 0)
        (fun x w' => w'.others = x.w.others ∧ x.passed w')
    issues (.tload c t h a tr ot) (fun x => x.tileReq c true t h a tr ot)
      (fun x => fits x ∧ (tile x).st ≠ .draining)
      (fun x => { tile x with
        st := .filling, pend := (tile x).pend + 1
        fmt := BitVec.ofNat 8 (((x.g.img.tlrs[h.toNat]?).map (·.fmt)).getD 0) }) ∧
    issues (.tstore c t h a tr ot) (fun x => x.tileReq c false t h a tr ot)
      (fun x => fits x ∧ ((tile x).st = .ready ∨ (tile x).st = .draining))
      (fun x => { tile x with st := .draining, pend := (tile x).pend + 1 }) ∧
    bytes (.cp c d a len dir tok) .cp 0x33 0 (dir == .sg || dir == .ss) (dir == .gs || dir == .ss) ∧
    bytes (.rput c d a len sp tok) .rput 0x35 0 sp false ∧
    bytes (.rget c d a len sp tok) .rget 0x35 1 false sp

/-- The tile table, and transfers that issue one command with a token: Claims.TileTable and
Claims.TransfersIssue. -/
def Obligations.TilesAndTransfers : Prop :=
  Claims.TileTable ∧ Claims.TransfersIssue

/-- R264, R268, R269: `qpush` appends the eight scalars to its queue, or holds them in a region, and traps
QUOTA in every lane where the ring has no room; `qpop` takes the oldest entry into its eight scalars and
waits on an empty queue; `waitk` commits the region before it, waits in exposed code (log entry 15: DEDUCED) until no
token of its mask counts more than n, and begins a region after it. -/
def Obligations.QueuesAndTokens : Prop :=
  ∀ (c : Ctl) (q : BitVec 3) (a d : BitVec 5) (n : BitVec 6),
    let words (x : Site) : List DWord := (List.range 8).map fun k => x.w.sget (a.toNat + k)
    Effect (.qpush c q a) (fun x => x.inRegion = false ∧ x.acting c ≠ 0 ∧ x.w.cmds = [] ∧
        x.b.roomFor x.g.img.desc.quota q.toNat = true) id Block.noQueues
      (fun x u w' => w'.others = x.w.others ∧ x.passed w' ∧ ∃ b', u.block? x.b.key = some b' ∧
        ∀ k, b'.queue k = if k = q.toNat then x.b.queue k ++ [words x] else x.b.queue k) ∧
    DoesIf (.qpush c q a) (fun x => x.inRegion = true ∧ x.acting c ≠ 0 ∧ x.w.cmds.length < 16 ∧
        (x.b.withHeld x.w.cmds).roomFor x.g.img.desc.quota q.toNat = true)
      (fun x w' => x.held w' (.qpush q (words x)) ∧ x.passed w') ∧
    DoesIf (.qpush c q a) (fun x => x.inRegion = false ∧ x.acting c ≠ 0 ∧ x.w.cmds = [] ∧
        x.b.roomFor x.g.img.desc.quota q.toNat = false ∧ x.handler = false ∧ x.w.utraps = [] ∧
        x.g.img.desc.trapent ≠ 0xffffffff)
      (fun x w' => w'.others = x.w.others ∧
        x.tookTrap w' x.mask 0x0e (BitVec.ofNat 64 x.g.img.desc.quota) 0 0) ∧
    Effect (.qpop c d q) (fun x => x.acting c ≠ 0 ∧ x.b.queue q.toNat ≠ []) id Block.noQueues
      (fun x u w' => x.passed w' ∧
        (∀ k, k < 8 → w'.sget (d.toNat + k) = ((x.b.queue q.toNat).headD []).getD k 0) ∧
        (∀ k, k < d.toNat ∨ d.toNat + 8 ≤ k → w'.sget k = x.w.sget k) ∧
        w'.others = { x.w with s := w'.s, sPoison := w'.sPoison }.others ∧
        ∃ b', u.block? x.b.key = some b' ∧
          ∀ k, b'.queue k = if k = q.toNat then (x.b.queue k).tail else x.b.queue k) ∧
    (∀ s x, Issues (.qpop c d q) s x → x.acting c ≠ 0 → x.b.queue q.toNat = [] →
      exec (.qpop c d q) s = .next s) ∧
    (∀ i, i = .qpush c q a ∨ i = .qpop c d q →
      DoesIf i (fun x => x.acting c = 0) (fun x w' => w'.others = x.w.others ∧ x.passed w')) ∧
    DoesIf (.waitk c n) (fun x => x.light ∧
        ∀ k, k < 8 → c.waitk.getLsbD k = true → (x.w.token k).toNat ≤ n.toNat)
      (fun x w' => (x.handler = false → x.committed w' (some x.after)) ∧ x.passed w' ∧
        w'.base = x.w.base) ∧
    (∀ k, DoesIf (.waitk c n) (fun x => x.inRegion = true ∧ x.light ∧ k < 8 ∧ c.waitk.getLsbD k = true ∧
        n.toNat < (x.w.token k).toNat)
      (fun x w' => x.committed w' none ∧ w'.base = x.w.base ∧ ∀ l, l < 32 → w'.stands l = x.w.stands l)) ∧
    ∀ s x k, Issues (.waitk c n) s x → x.inRegion = false → k < 8 → c.waitk.getLsbD k = true →
      n.toNat < (x.w.token k).toNat → exec (.waitk c n) s = .next s

/-- R277, R278, R293: `mrsv` takes an unreserved engine fresh for the issuing warp alone, answers true to its
holder, and false where another block holds it outside deterministic mode, where it waits in that mode;
`mstat` reports the engine's state in the lanes of E. -/
def Claims.MatrixReservation : Prop :=
  ∀ (wk d : BitVec 8) (pd : BitVec 6),
    let e (x : Site) : Engine := (x.s.core x.b.coreNum).mx
    Effect (.mrsv wk pd) (fun x => (e x).holder = none) State.noCores
      (fun b => { b with rsv := false, gang := 0 }) (fun x t w' =>
        PWritten x.w w' pd.toNat x.mask (fun _ => true) ∧ x.passed w' ∧
        x.s.engineIs t x.b.coreNum ⟨some x.b.key, [], [], 0, 0, false, [], none, [], [], []⟩ ∧
        ∃ b', t.block? x.b.key = some b' ∧ b'.rsv = true ∧ b'.gang = laneBit x.w.num) ∧
    DoesIf (.mrsv wk pd) (fun x => (e x).holder = some x.b.key) (fun x w' =>
      PWritten x.w w' pd.toNat x.mask (fun _ => true) ∧ x.passed w') ∧
    DoesIf (.mrsv wk pd) (fun x => (∃ k, (e x).holder = some k ∧ k ≠ x.b.key) ∧ x.g.img.desc.det = false)
      (fun x w' => PWritten x.w w' pd.toNat x.mask (fun _ => false) ∧ x.passed w') ∧
    (∀ s x, Issues (.mrsv wk pd) s x → (∃ k, (e x).holder = some k ∧ k ≠ x.b.key) →
      x.g.img.desc.det = true → exec (.mrsv wk pd) s = .next s) ∧
    DoesIf (.mstat wk d) (fun x => x.g.img.desc.det = false) (fun x w' => x.passed w' ∧
      VWritten x.w w' d.toNat 1 x.mask fun _ _ =>
        let mine := decide ((e x).holder = some x.b.key)
        let other := (e x).holder.isSome && !mine
        let shadow := if (e x).act then (e x).fmt0 else (e x).fmt1
        let active := if (e x).act then (e x).fmt1 else (e x).fmt0
        BitVec.ofNat 32 (mine.toNat + (!mine || (e x).ops.isEmpty).toNat * 2 +
          (mine && x.b.gang.getLsbD x.w.num).toNat * 4 + (mine && (x.s.latchNow x.b).isSome).toNat * 8 +
          (if mine then active % 4 * 16 + shadow % 4 * 64 else 0) + other.toNat * 256))

/-- R281, R284: the rendezvous of a gang of one warp. A matrix instruction that none of the checks at its
release stops goes to the engine, once no earlier one may still poison what it reads (log entry 56), with its scalars, its tile's entry and the leader's registers, and the warp
moves past it with no register changed; `mst.m` raises its token. -/
def Claims.MatrixRelease : Prop :=
  ∀ (wk : BitVec 8) (a : BitVec 5) (t : BitVec 4) (b d h : BitVec 8) (tr za : Bool) (xs acc cb : BitVec 2)
    (n1 a0 row : BitVec 6) (gap : BitVec 4) (tok : BitVec 3) (oa : Option (BitVec 2)),
    let releases (i : Instr) (hands : Site → Hands) (room : Site → Prop) (after : Site → Warp → Warp) :
        Prop :=
      Effect i (fun x => x.alone ∧ room x ∧ mxUnsettled (x.s.core x.b.coreNum).mx x.b i = false ∧
          releaseCheck (x.s.core x.b.coreNum).mx x i (hands x).scalars (x.off x.pc) = none)
        State.noCores id (fun x u w' => x.released1 i (hands x) u w' ∧ w'.others = (after x w').others)
    let any (_ : Site) : Prop := True
    let same (x : Site) (_ : Warp) : Warp := x.w
    releases (.mrel wk) (fun _ => ⟨[], none, []⟩) any same ∧
    releases (.mgang wk a) (fun x => ⟨[x.w.sget a.toNat], none, []⟩) any same ∧
    releases (.mlds wk t b tr xs) (fun _ => ⟨[], some t.toNat, (List.range 4).map (b.toNat + ·)⟩) any same ∧
    releases (.mswp wk) (fun _ => ⟨[], none, []⟩) any same ∧
    releases (.mstr wk acc t b n1 a0 xs za) (fun _ => ⟨[], some t.toNat,
      (List.range (if 32 < n1.toNat + 1 then 2 else 1)).map (b.toNat + ·)⟩) any same ∧
    releases (.mrd wk d acc row cb) (fun _ => ⟨[], none, []⟩) any same ∧
    releases (.mwr wk acc b row cb) (fun _ => ⟨[], none, [b.toNat]⟩) any same ∧
    releases (.mst wk acc t b n1 a0 xs gap) (fun _ => ⟨[], some t.toNat, []⟩) any same ∧
    releases (.mstM wk acc h a n1 a0 gap tok)
      (fun x => ⟨(List.range 3).map fun k => x.w.sget (a.toNat + k), none, []⟩)
      (fun x => x.w.token tok.toNat ≠ 63) (fun x w' => { x.w with tokens := w'.tokens }) ∧
    releases (.mclr wk oa) (fun _ => ⟨[], none, []⟩) any same ∧
    Effect (.mstM wk acc h a n1 a0 gap tok) (fun x => x.alone ∧ x.w.token tok.toNat ≠ 63 ∧
        mxUnsettled (x.s.core x.b.coreNum).mx x.b (.mstM wk acc h a n1 a0 gap tok) = false ∧
        releaseCheck (x.s.core x.b.coreNum).mx x (.mstM wk acc h a n1 a0 gap tok)
          ((List.range 3).map fun k => x.w.sget (a.toNat + k)) (x.off x.pc) = none)
      State.noCores id (fun x _ w' => ∀ n, w'.token n =
        if n = tok.toNat then x.w.token n + 1 else x.w.token n)

/-- R281, R282, R284: a matrix instruction of a block without a reservation traps GANG with reason NORSV, of
a warp outside the gang with reason NOTMEMBER, in the lanes of E; the first arrival of a larger gang is
recorded at the latch and waits there; while a new gang or the reservation's end is due, an instruction
that asks for the gang waits (log entry 56: the model's reading). -/
def Claims.MatrixGang : Prop :=
  ∀ (wk : BitVec 8) (t : BitVec 4) (b : BitVec 8) (xs acc : BitVec 2) (n1 a0 : BitVec 6) (za : Bool),
    let i : Instr := .mstr wk acc t b n1 a0 xs za
    let takes (x : Site) : Prop := x.w.utraps = [] ∧ x.g.img.desc.trapent ≠ 0xffffffff
    let word1 (x : Site) (reason : Nat) : DWord := BitVec.ofNat 64 (x.b.gang.toNat * 2 ^ 32 + reason)
    DoesIf i (fun x => takes x ∧ x.b.rsv = false) (fun x w' => w'.others = x.w.others ∧
      x.tookTrap w' x.mask 0x0d (word1 x 1) (BitVec.ofNat 64 (0xffffffff * 2 ^ 32 + (x.off x.pc).toNat)) 0) ∧
    DoesIf i (fun x => takes x ∧ x.b.rsv = true ∧ (x.s.core x.b.coreNum).mx.gangDue = false ∧
        x.b.gang.getLsbD x.w.num = false)
      (fun x w' => w'.others = x.w.others ∧ x.tookTrap w' x.mask 0x0d (word1 x 2)
        (BitVec.ofNat 64 ((((x.s.latchNow x.b).map Latch.off).getD 0xffffffff).toNat * 2 ^ 32 +
          (x.off x.pc).toNat)) 0) ∧
    (∀ s x, Issues i s x → x.b.rsv = true → (x.s.core x.b.coreNum).mx.gangDue = true →
      exec i s = .next s) ∧
    ∀ s x m, Issues i s x → x.b.rsv = true → x.b.gang.getLsbD x.w.num = true →
      (s.core x.b.coreNum).mx.latch = none → (s.core x.b.coreNum).mx.gangDue = false → m < 32 →
      m ≠ x.w.num → x.b.gang.getLsbD m = true →
      ∃ u, exec i s = .next u ∧ u.warpAt s.cur = s.warpAt s.cur ∧ u.blocks = s.blocks ∧
        s.engineIs u x.b.coreNum { (s.core x.b.coreNum).mx with
          latch := some ⟨i, [], [⟨x.w.num, x.pc, x.handler⟩], x.off x.pc⟩ }

/-- Reserving the matrix engine, its state, gangs and their traps: Claims.MatrixReservation and
Claims.MatrixGang. -/
def Obligations.MatrixReservationAndGangs : Prop :=
  Claims.MatrixReservation ∧ Claims.MatrixGang

/-- R279, R285, R288 to R292, R294: the engine performs its oldest instruction. Planes, accumulators, the
members' registers and the gang take the values that the instruction's rule gives; what the rule does not
name keeps its value. -/
def Claims.MatrixPerforms : Prop :=
  ∀ (s : State) (core k : Nat) (b : Block) (g : Grid) (op : MOp) (rest : List MOp),
    let e := (s.core core).mx
    let tile := op.tile.getD ⟨0, 0, false, false, .empty, 0, 0, 0⟩
    e.holder = some k → s.block? k = some b → b.coreNum = core → s.grid? b.grid = some g →
    e.ops = op :: rest → mxReady b op = true → b.gang ≠ 0 →
      ∃ t b', exec (.matrixOpExecute core) s = .next t ∧ t.block? k = some b' ∧
        (∀ n, n ≠ core → t.core n = s.core n) ∧
        let e' := (t.core core).mx
        ((∀ wk, op.instr ≠ .mrel wk) → b'.gang ≠ 0 → e'.holder = some k ∧ e'.ops = rest) ∧
        match op.instr with
        | .mrel _ => e' = ⟨none, [], [], 0, 0, false, [], none, [], [], []⟩ ∧ b'.rsv = false ∧ b'.gang = 0
        | .mgang _ _ => ∀ n, n < 32 → b'.gang.getLsbD n =
            ((op.scalars.getD 0 0).getLsbD n && (b.warp? n).any fun w => !w.hasEnded)
        | .mswp _ => e'.act = !e.act ∧ e'.plane0 = e.plane0 ∧ e'.plane1 = e.plane1 ∧ e'.acc = e.acc ∧
            e'.fmt0 = e.fmt0 ∧ e'.fmt1 = e.fmt1
        | .mlds _ _ _ tr xs => e'.acc = e.acc ∧ e'.act = e.act ∧ e'.plane e.act = e.plane e.act ∧
            e'.fmt (!e.act) = tile.fmt.toNat ∧ e'.fmt e.act = e.fmt e.act ∧
            ∀ i j, i < 64 → j < 128 → e'.planeAt (!e.act) i j =
              planeWord (if tr then tileElem b tile op.data xs.toNat (2 * j + i / 32) j i
                else tileElem b tile op.data xs.toNat (4 * i + j / 32) i j).1
        | .mstr _ acc _ _ n1 a0 xs za => e'.plane0 = e.plane0 ∧ e'.plane1 = e.plane1 ∧
            ∀ a r j, r < 64 → j < 128 → e'.accAt a r j =
              if a = acc.toNat ∧ a0.toNat ≤ r ∧ r < a0.toNat + n1.toNat + 1 then
                BitVec.ofNat 32 (columnSum (sbOfCode tile.fmt.toNat)
                  (if za then 0 else (e.accAt a r j).toNat)
                  ((List.range 64).map fun i =>
                    (tileElem b tile op.data xs.toNat (2 * (r - a0.toNat) + i / 32) (r - a0.toNat) i).1)
                  ((List.range 64).map fun i => planeElem (e.planeAt e.act i j))).1
              else e.accAt a r j
        | .mrd _ d acc row cb => e'.acc = e.acc ∧
            ∀ n m w, op.members = [(n, m)] → b.warp? n = some w →
              ∃ w', b'.warp? n = some w' ∧ VWritten w w' d.toNat 1 m fun l _ =>
                e.accAt acc.toNat row.toNat (32 * cb.toNat + l)
        | .mwr _ acc _ row cb => ∀ a r j, r < 64 → j < 128 → op.data.map List.length = [32] → e'.accAt a r j =
            if a = acc.toNat ∧ r = row.toNat ∧ j / 32 = cb.toNat then (op.data.getD 0 []).getD (j % 32) 0
            else e.accAt a r j
        | .mclr _ acc => ∀ a r j, r < 64 → j < 128 → e'.accAt a r j =
            if acc = none ∨ acc.map (·.toNat) = some a then 0 else e.accAt a r j
        | .mst _ acc _ _ n1 a0 _ _ => e'.acc = e.acc ∧
            (tile.fmt = 0x12 → 512 ≤ tile.rowbytes → ∀ r j, r < n1.toNat + 1 → j < 128 →
              b'.spad.bytes (tile.base + r * tile.rowbytes + 4 * j) 4 =
                leBytes 4 (e.accAt acc.toNat (a0.toNat + r) j).toNat)
        | .mstM _ _ h _ _ _ _ tok => e'.acc = e.acc ∧ ((g.img.tlrs[h.toNat]?).isSome = true →
            ∃ xf, b'.xfers = b.xfers ++ [xf] ∧ xf.req.kind = .mstM ∧ xf.req.warp = op.leader ∧
              xf.req.tok = some tok ∧ xf.req.tlr = some h.toNat)
        | _ => True

/-- The release of a matrix instruction and what the engine performs: Claims.MatrixRelease and
Claims.MatrixPerforms. -/
def Obligations.MatrixReleaseAndPerformance : Prop :=
  Claims.MatrixRelease ∧ Claims.MatrixPerforms

/-- R299, R303, R304: `bar`. A warp with other live lanes away from the barrier parks its lanes of E with
PARK 5 and commits; the only live warp of a block that arrives whole, its pod-window stores acknowledged,
completes the generation: GEN rises, the lanes stand at the next instruction and their predicate reads true. -/
def Claims.BarrierParks : Prop :=
  ∀ (wk : BitVec 8) (scope : Scope) (slot : BitVec 4) (count : BitVec 6) (pv : Option (BitVec 6)),
    DoesIf (.bar wk scope slot count pv) (fun x => x.light ∧
        ∃ l q k, l < 32 ∧ x.mask.getLsbD l = false ∧ x.w.stands l = some (q, k) ∧ k ≠ 5)
      (fun x w' => x.committed w' (some x.after) ∧ x.w.standKept w' x.mask ∧
        (∀ l, l < 32 → x.mask.getLsbD l = true → w'.stands l = some (x.pc, 5) ∧
          ∃ v ∈ w'.waits, v.lane = l ∧ v.next = x.after) ∧
        w'.base = { x.w with waits := w'.waits, st := { x.w.st with npe := false } }.base) ∧
    Effect (.bar wk .core slot count pv) (fun x => x.light ∧ x.ctx?.isSome = true ∧ x.w.waits = [] ∧ x.w.acks = 0 ∧
        (∃ e, x.w.frontier = [e] ∧ e.mask ≠ 0) ∧ x.after.toNat < x.g.codeEnd.toNat ∧
        x.b.warps = [x.w] ∧ x.w.hasEnded = false ∧ x.b.res = .resident ∧ x.b.ended = false ∧
        count.toNat ≤ 1 ∧ (x.b.bar slot.toNat).first = none ∧ (x.b.bar slot.toNat).passed = none ∧
        (x.b.bar slot.toNat).arrived = 0)
      id Block.noBars (fun x t w' =>
        x.b.counterIs t slot.toNat { x.b.bar slot.toNat with
          gen := (x.b.bar slot.toNat).gen + 1, broken := false } ∧
        (∀ l, l < 32 → x.mask.getLsbD l = true → w'.stands l = some (x.after, 0)) ∧ w'.waits = [] ∧
        ∀ n l, l < 32 → w'.pbit n l =
          if pv.map (·.toNat) = some n ∧ x.mask.getLsbD l = true then true else x.w.pbit n l)

/-- R299, R300, R304: `bar.arr` writes the generation to its scalar, commits and, its pod-window stores acknowledged,
counts one arrival; with the target reached at `.core` the generation completes instead, GEN rises and the count returns to 0. -/
def Claims.BarrierArrives : Prop :=
  ∀ (wk : BitVec 8) (sd : BitVec 5) (scope : Scope) (slot : BitVec 4) (count : BitVec 6),
    let c (x : Site) : BarCtr := x.b.bar slot.toNat
    let first (x : Site) : Nat × Scope := (c x).first.getD (count.toNat, scope)
    let target (x : Site) : Nat :=
      if (first x).2 = .core ∧ (first x).1 ≠ 0 then (first x).1
      else (x.b.warps.filter fun w => !w.hasEnded).length
    let passes (x : Site) (w' : Warp) : Prop :=
      x.committed w' (some x.after) ∧ x.passed w' ∧ w'.sget sd.toNat = (c x).gen.setWidth 64 ∧
      (∀ n, n ≠ sd.toNat → w'.sget n = x.w.sget n) ∧
      w'.base = { x.w with s := w'.s, sPoison := w'.sPoison }.base
    Effect (.barArr wk sd scope slot count) (fun x => x.light ∧ x.w.acks = 0 ∧ (c x).passed = none ∧
        (c x).arrived + 1 < target x)
      id Block.noBars (fun x t w' => passes x w' ∧ x.b.counterIs t slot.toNat { c x with
        arrived := (c x).arrived + 1, first := some (first x) }) ∧
    Effect (.barArr wk sd scope slot count) (fun x => x.light ∧ x.w.acks = 0 ∧ (c x).passed = none ∧
        (first x).2 = .core ∧ target x ≤ (c x).arrived + 1 ∧ x.b.res = .resident ∧ x.b.ended = false ∧
        ∀ w ∈ x.b.warps, w.waits = [])
      id Block.noBars (fun x t w' => passes x w' ∧ x.b.counterIs t slot.toNat { c x with
        gen := (c x).gen + 1, arrived := 0, first := none, passed := none, broken := false })

/-- R304: `bar.wt` moves on at once where the generation differs from its scalar, writing whether it was
not broken under PV, and otherwise parks the lanes of E with PARK 5. -/
def Claims.BarrierWaits : Prop :=
  ∀ (wk : BitVec 8) (scope : Scope) (slot : BitVec 4) (a : BitVec 5) (pv : Option (BitVec 6)),
    let c (x : Site) : BarCtr := x.b.bar slot.toNat
    DoesIf (.barWt wk scope slot a pv) (fun x => x.light ∧ (c x).gen ≠ (x.w.sget a.toNat).setWidth 32)
      (fun x w' => x.committed w' (some x.after) ∧ x.passed w' ∧
        (∀ n l, l < 32 → w'.pbit n l = if pv.map (·.toNat) = some n ∧ x.mask.getLsbD l = true
          then !(c x).broken else x.w.pbit n l) ∧
        w'.base = { x.w with p := w'.p, pPoison := w'.pPoison }.base) ∧
    DoesIf (.barWt wk scope slot a pv) (fun x => x.light ∧ (c x).gen = (x.w.sget a.toNat).setWidth 32)
      (fun x w' => x.committed w' (some x.after) ∧ x.w.standKept w' x.mask ∧
        (∀ l, l < 32 → x.mask.getLsbD l = true → w'.stands l = some (x.pc, 5) ∧
          ∃ v ∈ w'.waits, v.lane = l ∧ v.next = x.after) ∧
        w'.base = { x.w with waits := w'.waits, st := { x.w.st with npe := false } }.base)

/-- R65, R320, R321: `psub` of a packet that passes its checks keeps a pod command with a launch handle and
hands SUBMIT to the traverse; `pyld` in a pod grid of a member hands BLOCK with the grid that its scalar
names and reads true, elsewhere false; a misaligned `psub` traps ALIGN in every lane. -/
def Claims.PodInstructions : Prop :=
  ∀ (c : Ctl) (a b : BitVec 5) (pd : BitVec 6),
    let pa (x : Site) : DWord := x.w.sget a.toNat
    let pb (x : Site) : DWord := x.w.sget b.toNat
    (∀ s x k h p body fs s2 img s3, Issues (.psub c a b) s x → x.acting c ≠ 0 → x.w.utraps = [] →
      (pa x).toNat % 256 = 0 → (pb x).toNat % 32 = 0 → x.ctx? = some k →
      s.readVa k (pa x).toNat 16 = .ok h → headOf h = p →
      headFault h 16 (fun j => (pa x).toNat + j) = none → p.type = 1 →
      s.readVa k ((pa x).toNat + 16) p.len = .ok body →
      checkBody p body (fun j => (pa x).toNat + j) (fun _ => true) = .ok fs → (fieldOf fs 5).isSome = true →
      s.readImage k 5 (fieldNum fs 2 0) (BitVec.ofNat 64 (fieldNum fs 1 0)) = .ok s2 img →
      s2.submitPod k img fs (.psub (pb x) p.seq) = .ok s3 →
      ∃ t w', exec (.psub c a b) s = .next t ∧ t.warpAt s.cur = some w' ∧
        w'.others = x.w.others ∧ x.passed w' ∧
        ∃ (pc : PodCmd) (ev : EvRec), t.podCmds = s2.podCmds ++ [pc] ∧ pc.owner = .psub (pb x) p.seq ∧ pc.ctx = k.num ∧
          t.trav.pend = s2.trav.pend ++ [ev] ∧ ev.type = 1 ∧ ev.paramB = img.check ∧
          ev.origin = BitVec.ofNat 8 s2.pkg ∧ (ev.paramA >>> 32).setWidth 16 = BitVec.ofNat 16 pc.handle) ∧
    (∀ v, v = pa ∨ v = pb → DoesIf (.psub c a b) (fun x => x.acting c ≠ 0 ∧ x.w.utraps = [] ∧
        x.g.img.desc.trapent ≠ 0xffffffff ∧
        ((v = pa ∧ (pa x).toNat % 256 ≠ 0) ∨ ((pa x).toNat % 256 = 0 ∧ v = pb ∧ (pb x).toNat % 32 ≠ 0)))
      (fun x w' => w'.others = x.w.others ∧ x.tookTrap w' x.mask 0x04 (v x) 0 0)) ∧
    Effect (.pyld c pd a) (fun x => x.acting c ≠ 0 ∧ x.w.utraps = [] ∧ x.g.pod = true ∧
        x.s.isMember = true) id id (fun x t w' =>
      PWritten x.w w' pd.toNat (x.acting c) (fun _ => true) ∧ x.passed w' ∧
        t.trav.pend = x.s.trav.pend ++
          [⟨3, BitVec.ofNat 8 x.s.pkg, 0, BitVec.ofNat 32 x.g.id, (pa x) &&& 0xffffffff, 0, 0⟩]) ∧
    DoesIf (.pyld c pd a) (fun x => x.acting c ≠ 0 ∧ (x.g.pod = false ∨ x.s.isMember = false))
      (fun x w' => PWritten x.w w' pd.toNat (x.acting c) (fun _ => false) ∧ x.passed w') ∧
    ∀ i, i = .psub c a b ∨ i = .pyld c pd a →
      DoesIf i (fun x => x.acting c = 0) (fun x w' => w'.others = x.w.others ∧ x.passed w')

/-- Barriers park, count arrivals, complete generations and let waiters pass; psub and pyld:
Claims.BarrierParks, Claims.BarrierArrives, Claims.BarrierWaits and Claims.PodInstructions. -/
def Obligations.BarrierAndPodInstructions : Prop :=
  Claims.BarrierParks ∧ Claims.BarrierArrives ∧ Claims.BarrierWaits ∧ Claims.PodInstructions

/-- R306, R315, R316: `uibind` binds the unbound vectors of its mask to the issuing warp: BOUND and HANDLER in
the interrupt block, the block's binding, and the vectors it could not bind in its scalar; `uibind.u` unbinds
the warp's own. Without an interrupt block nothing changes and the scalar is the mask. -/
def Claims.UserInterruptBinding : Prop :=
  ∀ (wk : BitVec 8) (d a : BitVec 5) (p : Nat) (cx : Ctx),
    let want (x : Site) : DWord := x.w.sget a.toNat
    let bound (x : Site) : DWord := BitVec.ofNat 64 (x.s.num (p + 16) 8)
    (∀ u, DoesIf (.uibind wk d a u) (fun x => ∀ c, x.ctx? = some c → c.iblk = none)
      (fun x w' => SWritten x.w w' d.toNat (want x) ∧ x.passed w')) ∧
    Effect (.uibind wk d a false) (fun x => x.ctx? = some cx ∧ x.s.ibAt cx p ∧
        (x.b.ib.valid = false ∨ x.b.ib.warp = x.w.num) ∧ want x &&& ~~~(bound x) ≠ 0)
      State.noDram Block.noBinding (fun x t w' =>
        let vs := want x &&& ~~~(bound x)
        SWritten x.w w' d.toNat (want x &&& ~~~vs) ∧ x.passed w' ∧
        t.num (p + 16) 8 = (bound x ||| vs).toNat ∧
        (∀ v, v < 64 → t.num (p + 0x2c0 + 8 * v) 8 =
          if vs.getLsbD v then x.b.key % 2 ^ 64 else x.s.num (p + 0x2c0 + 8 * v) 8) ∧
        dramBut x.s t [(p + 16, 8), (p + 0x2c0, 512)] ∧
        ∃ b', t.block? x.b.key = some b' ∧ b'.ib = ⟨x.b.ib.vecs ||| vs, x.w.num, true⟩) ∧
    Effect (.uibind wk d a true) (fun x => x.ctx? = some cx ∧ x.s.ibAt cx p ∧
        x.b.ib.valid = true ∧ x.b.ib.warp = x.w.num)
      State.noDram Block.noBinding (fun x t w' =>
        let vs := want x &&& x.b.ib.vecs &&& bound x
        let left := x.b.ib.vecs &&& ~~~vs
        SWritten x.w w' d.toNat (want x &&& ~~~vs) ∧ x.passed w' ∧
        t.num (p + 16) 8 = (bound x &&& ~~~vs).toNat ∧
        (∀ v, v < 64 → t.num (p + 0x2c0 + 8 * v) 8 =
          if vs.getLsbD v then 0 else x.s.num (p + 0x2c0 + 8 * v) 8) ∧
        dramBut x.s t [(p + 16, 8), (p + 0x2c0, 512)] ∧
        ∃ b', t.block? x.b.key = some b' ∧ b'.ib = ⟨left, if left = 0 then 0 else x.w.num, left != 0⟩)

/-- R309, R313, R315 to R319: `uisend` to the own context goes to the interrupt unit, or is held in a
region; `uiwait` of a warp without a bound vector writes all ones to `s0` and moves on, and otherwise parks
its lanes with PARK 4 while nothing bound is pending; `uimask` writes the old MASK and sets the new one;
`uiret` takes the lowest deliverable vector into `s0` to `s2`, or answers false. -/
def Claims.UserInterruptInstructions : Prop :=
  ∀ (c : Ctl) (wk : BitVec 8) (d a b : BitVec 5) (op : MaskOp) (pd : BitVec 6) (p : Nat) (cx : Ctx),
    let mask (x : Site) : DWord := BitVec.ofNat 64 (x.s.num p 8)
    let pend (x : Site) : DWord := BitVec.ofNat 64 (x.s.num (p + 8) 8)
    let bound (x : Site) : DWord := BitVec.ofNat 64 (x.s.num (p + 16) 8)
    let mine (x : Site) : Prop := x.b.ib.valid = true ∧ x.b.ib.warp = x.w.num
    Effect (.uisend c a b) (fun x => x.inRegion = false ∧ x.acting c ≠ 0 ∧ x.ctx? = some cx ∧
        (x.w.sget a.toNat).toNat < 64) (fun s => { s with agenda := [] }) id (fun x t w' =>
      w'.others = x.w.others ∧ x.passed w' ∧ t.agenda = x.s.agenda ++ [.uisendReceive
        ⟨.own, some cx.num, 0, (x.w.sget a.toNat).setWidth 6, x.w.sget b.toNat⟩]) ∧
    DoesIf (.uisend c a b) (fun x => x.inRegion = true ∧ x.acting c ≠ 0 ∧ x.w.cmds.length < 16)
      (fun x w' => x.held w' (.uisend (x.w.sget a.toNat) (x.w.sget b.toNat)) ∧ x.passed w') ∧
    DoesIf (.uisend c a b) (fun x => x.acting c = 0) (fun x w' => w'.others = x.w.others ∧ x.passed w') ∧
    DoesIf (.uiwait wk) (fun x => x.light ∧ ¬ mine x) (fun x w' =>
      x.committed w' (some x.after) ∧ x.passed w' ∧ w'.sget 0 = 0xffffffffffffffff ∧
      (∀ n, n ≠ 0 → w'.sget n = x.w.sget n) ∧
      w'.base = { x.w with s := w'.s, sPoison := w'.sPoison }.base) ∧
    DoesIf (.uiwait wk) (fun x => x.light ∧ mine x ∧ x.ctx? = some cx ∧ x.s.ibAt cx p ∧
        pend x &&& bound x = 0) (fun x w' =>
      x.committed w' (some x.after) ∧ x.w.standKept w' x.mask ∧
      (∀ l, l < 32 → x.mask.getLsbD l = true → w'.stands l = some (x.pc, 4) ∧
        ∃ v ∈ w'.waits, v.lane = l ∧ v.next = x.after) ∧
      w'.base = { x.w with waits := w'.waits, st := { x.w.st with npe := false } }.base) ∧
    Effect (.uimask wk d a op) (fun x => x.ctx? = some cx ∧ x.s.ibAt cx p ∧ pend x &&& bound x = 0)
      State.noDram id (fun x t w' => SWritten x.w w' d.toNat (mask x) ∧ x.passed w' ∧
        t.num p 8 = (match op with
          | .wr => x.w.sget a.toNat
          | .set => mask x ||| x.w.sget a.toNat
          | .clr => mask x &&& ~~~(x.w.sget a.toNat)).toNat ∧ dramBut x.s t [(p, 8)]) ∧
    DoesIf (.uimask wk d a op) (fun x => ∀ c, x.ctx? = some c → c.iblk = none)
      (fun x w' => SWritten x.w w' d.toNat 0 ∧ x.passed w') ∧
    DoesIf (.uiret wk pd) (fun x => ¬ mine x ∨ ∀ c, x.ctx? = some c → c.iblk = none)
      (fun x w' => PWritten x.w w' pd.toNat x.mask (fun _ => false) ∧ x.passed w') ∧
    ∀ v, v < 64 → Effect (.uiret wk pd) (fun x => x.ctx? = some cx ∧ x.s.ibAt cx p ∧ mine x ∧
        x.b.res = .resident ∧ (x.b.warp? x.w.num).isSome = true ∧ x.b.ib.vecs.getLsbD v = true ∧
        (pend x &&& ~~~(mask x) &&& bound x).getLsbD v = true ∧
        x.s.num (p + 0x2c0 + 8 * v) 8 = x.b.key ∧
        ∀ u, u < v → (pend x &&& ~~~(mask x) &&& bound x).getLsbD u = false)
      State.noDram id (fun x t w' => x.passed w' ∧
        w'.sget 0 = BitVec.ofNat 64 v ∧ w'.sget 1 = BitVec.ofNat 64 (x.s.num (p + 0xc0 + 8 * v) 8) ∧
        w'.sget 2 = BitVec.ofNat 64 (x.s.num (p + 0x40 + 2 * v) 2) ∧
        (∀ n, 2 < n → w'.sget n = x.w.sget n) ∧
        (∀ n l, l < 32 → w'.pbit n l =
          if n = pd.toNat ∧ x.mask.getLsbD l = true then true else x.w.pbit n l) ∧
        t.num (p + 8) 8 = (pend x &&& ~~~(1#64 <<< v)).toNat ∧ t.num (p + 0xc0 + 8 * v) 8 = 0 ∧
        t.num (p + 0x40 + 2 * v) 2 = 0 ∧
        dramBut x.s t [(p + 8, 8), (p + 0xc0 + 8 * v, 8), (p + 0x40 + 2 * v, 2)])

/-- Binding, sending, awaiting, masking and taking user-level interrupts: Claims.UserInterruptBinding and
Claims.UserInterruptInstructions. -/
def Obligations.UserInterrupts : Prop :=
  Claims.UserInterruptBinding ∧ Claims.UserInterruptInstructions

/-- R277, R281, R284, R293, R294, R299, R304, R320, R321: `mrsv`, `mstat`, `mrel`, `mgang`, `mlds`, `mswp`, `mstr`,
`mrd`, `mwr`, `mst`, `mst.m`, `mclr`, `bar`, `bar.arr`, `bar.wt`, `psub` and `pyld` complete: under conditions on
the state and the operands alone, `exec` answers a next state in which the warp has passed the instruction
and its effect has been had. -/
def Obligations.MatrixBarrierPodFormsComplete : Prop :=
  ∀ (wk d b h : BitVec 8) (pd row n1 a0 count : BitVec 6) (a pb sd : BitVec 5) (t slot gap : BitVec 4)
    (tok : BitVec 3) (acc xs cb : BitVec 2) (tr za : Bool) (oa : Option (BitVec 2)) (scope : Scope)
    (pv : Option (BitVec 6)) (c : Ctl) (s : State) (x : Site),
    let e := (s.core x.b.coreNum).mx
    let bar := x.b.bar slot.toNat
    (Issues (.mrsv wk pd) s x → (e.holder = none ∨ e.holder = some x.b.key) →
      ∃ u w', exec (.mrsv wk pd) s = .next u ∧ u.warpAt s.cur = some w' ∧ x.passed w' ∧
        (u.core x.b.coreNum).mx.holder = some x.b.key ∧
        ∀ l, l < 32 → x.mask.getLsbD l = true → w'.pbit pd.toNat l = true) ∧
    (Issues (.mstat wk d) s x → x.g.img.desc.det = false →
      ∃ u w', exec (.mstat wk d) s = .next u ∧ u.warpAt s.cur = some w' ∧ x.passed w' ∧
        ∀ l, l < 32 → x.mask.getLsbD l = true →
          (w'.vget d.toNat l).getLsbD 0 = decide (e.holder = some x.b.key)) ∧
    (∀ i : Instr, (i = .mrel wk ∨ i = .mgang wk a ∨ i = .mlds wk t b tr xs ∨ i = .mswp wk ∨
        i = .mstr wk acc t b n1 a0 xs za ∨ i = .mrd wk d acc row cb ∨ i = .mwr wk acc b row cb ∨
        i = .mst wk acc t b n1 a0 xs gap ∨ i = .mstM wk acc h a n1 a0 gap tok ∨ i = .mclr wk oa) →
      Issues i s x → x.alone → mxUnsettled e x.b i = false →
      (i = .mstM wk acc h a n1 a0 gap tok → x.w.token tok.toNat ≠ 63) →
      releaseCheck e x i (mxScalars x.w i) (x.off x.pc) = none →
      ∃ u w' op, exec i s = .next u ∧ u.warpAt s.cur = some w' ∧ x.passed w' ∧
        (u.core x.b.coreNum).mx.ops = e.ops ++ [op] ∧ op.instr = i ∧ op.scalars = mxScalars x.w i ∧
        op.leader = x.w.num ∧ op.members = [(x.w.num, x.mask)]) ∧
    (Issues (.bar wk .core slot count pv) s x → x.light → x.ctx?.isSome = true → x.w.waits = [] →
      x.w.acks = 0 → (∃ f, x.w.frontier = [f] ∧ f.mask ≠ 0) → x.after.toNat < x.g.codeEnd.toNat →
      x.b.warps = [x.w] → x.w.hasEnded = false → x.b.res = .resident → x.b.ended = false →
      count.toNat ≤ 1 → bar.first = none → bar.passed = none → bar.arrived = 0 →
      ∃ u w', exec (.bar wk .core slot count pv) s = .next u ∧ u.warpAt s.cur = some w' ∧
        (∀ l, l < 32 → x.mask.getLsbD l = true → w'.stands l = some (x.after, 0)) ∧
        (u.block? x.b.key).map (fun b' => (b'.bar slot.toNat).gen) = some (bar.gen + 1)) ∧
    (Issues (.barArr wk sd scope slot count) s x → x.light → x.w.acks = 0 → bar.passed = none →
      bar.arrived + 1 < (if (bar.first.getD (count.toNat, scope)).2 = .core ∧
          (bar.first.getD (count.toNat, scope)).1 ≠ 0 then (bar.first.getD (count.toNat, scope)).1
        else (x.b.warps.filter fun w => !w.hasEnded).length) →
      ∃ u w', exec (.barArr wk sd scope slot count) s = .next u ∧ u.warpAt s.cur = some w' ∧ x.passed w' ∧
        w'.sget sd.toNat = bar.gen.setWidth 64 ∧
        (u.block? x.b.key).map (fun b' => (b'.bar slot.toNat).arrived) = some (bar.arrived + 1)) ∧
    (Issues (.barWt wk scope slot a pv) s x → x.light → bar.gen ≠ (x.w.sget a.toNat).setWidth 32 →
      ∃ u w', exec (.barWt wk scope slot a pv) s = .next u ∧ u.warpAt s.cur = some w' ∧ x.passed w' ∧
        ∀ p l, pv = some p → l < 32 → x.mask.getLsbD l = true → w'.pbit p.toNat l = !bar.broken) ∧
    (∀ k hd p body fs s2 img s3, Issues (.psub c a pb) s x → x.acting c ≠ 0 → x.w.utraps = [] →
      (x.w.sget a.toNat).toNat % 256 = 0 → (x.w.sget pb.toNat).toNat % 32 = 0 → x.ctx? = some k →
      s.readVa k (x.w.sget a.toNat).toNat 16 = .ok hd → headOf hd = p →
      headFault hd 16 (fun j => (x.w.sget a.toNat).toNat + j) = none → p.type = 1 →
      s.readVa k ((x.w.sget a.toNat).toNat + 16) p.len = .ok body →
      checkBody p body (fun j => (x.w.sget a.toNat).toNat + j) (fun _ => true) = .ok fs →
      (fieldOf fs 5).isSome = true →
      s.readImage k 5 (fieldNum fs 2 0) (BitVec.ofNat 64 (fieldNum fs 1 0)) = .ok s2 img →
      s2.submitPod k img fs (.psub (x.w.sget pb.toNat) p.seq) = .ok s3 →
      ∃ u w', exec (.psub c a pb) s = .next u ∧ u.warpAt s.cur = some w' ∧ x.passed w' ∧
        ∃ (pc : PodCmd) (ev : EvRec), u.podCmds = s2.podCmds ++ [pc] ∧
          u.trav.pend = s2.trav.pend ++ [ev] ∧ ev.type = 1 ∧ ev.paramB = img.check) ∧
    (Issues (.pyld c pd a) s x → x.acting c ≠ 0 → x.w.utraps = [] → x.g.pod = true → s.isMember = true →
      ∃ u w', exec (.pyld c pd a) s = .next u ∧ u.warpAt s.cur = some w' ∧ x.passed w' ∧
        (∀ l, l < 32 → (x.acting c).getLsbD l = true → w'.pbit pd.toNat l = true) ∧
        ∃ ev : EvRec, u.trav.pend = s.trav.pend ++ [ev] ∧ ev.type = 3)

/- ### The mailbox -/

/-- R382: CTX_NEW creates a context under the lowest free index, CTX_FREE drops one with its queues, its
host pages, its images and its instruction lines, and PODBIND binds one to a pod context; each refuses what
the table of R382 says. PASIDs are the configuration's. -/
def Claims.ContextOperations : Prop :=
  MbOp 0x01 false .ctxNew
    (fun s fn f =>
      (∀ c, c < 256 → ∃ x ∈ s.ctxs, x.fn = fn ∧ x.c = c) ∨ 4096 ≤ s.ctxs.length ∨
      (f.req 2).toNat % 65536 ≠ 0 ∨ (f.req 3).toNat % 65536 ≠ 0 ∨ (f.req 3).toNat < 4194304 ∨
      Config.dramSize < (f.req 2).toNat + (f.req 3).toNat ∨
      ∃ x ∈ s.ctxs, x.poolOff < (f.req 2).toNat + (f.req 3).toNat ∧ (f.req 2).toNat < x.poolOff + x.poolSize)
    (fun s fn f => s.ctxs.length < 4096 ∧ s.poolBad (f.req 2).toNat (f.req 3).toNat = false ∧
      s.resetPending fn = false ∧ ∃ c, c < 256 ∧ ∀ x ∈ s.ctxs, ¬ (x.fn = fn ∧ x.c = c))
    (fun s fn f u rs => ∃ c k, c < 256 ∧ (∀ x ∈ s.ctxs, ¬ (x.fn = fn ∧ x.c = c)) ∧
      (∀ d, d < c → ∃ x ∈ s.ctxs, x.fn = fn ∧ x.c = d) ∧ u = { s with ctxs := s.ctxs ++ [k] } ∧
      rs = [BitVec.ofNat 64 c, (Config.pasid (256 * fn + c)).setWidth 64, BitVec.ofNat 64 (256 * fn + c)] ∧
      k.num = 256 * fn + c ∧ k.fn = fn ∧ k.c = c ∧ k.poolOff = (f.req 2).toNat ∧
      k.poolSize = (f.req 3).toNat ∧ k.allocs = [] ∧ k.pctx = none ∧ k.iblk = none ∧ k.brken = false ∧
      k.halt = false ∧ k.log = ⟨none, 0, []⟩ ∧ k.rootOff = (f.req 1).toNat / 2 ^ 8 % 2 ^ 48 * 2 ^ 8 ∧
      ((f.req 1).toNat % 2 ^ 8 = 0 → (f.req 1).toNat / 2 ^ 60 = 0 → (f.req 1).toNat / 2 ^ 56 % 4 = 0 →
        k.rootTier = BitVec.ofNat 2 ((f.req 1).toNat / 2 ^ 58))) ∧
  MbOp 0x02 false .ctxFree (fun s fn f => s.unused fn (f.req 1)) (fun s fn f => ∃ c, s.names fn (f.req 1) c)
    (fun s fn f u rs => rs = [] ∧ ∃ c, s.names fn (f.req 1) c ∧ u.ctxGone c.num ∧ s.podEnds u fn c ∧
      ∀ d ∈ s.ctxs, d.num ≠ c.num → ∃ e ∈ u.ctxs, e.num = d.num) ∧
  MbOp 0x07 false .podbind
    (fun s fn f => s.unused fn (f.req 1) ∨ 2 ^ 16 ≤ (f.req 2).toNat ∨
      ∃ c d x, s.names fn (f.req 1) c ∧ d ∈ s.ctxs ∧ d.num ≠ c.num ∧ d.pctx = some x ∧
        x.toNat = (f.req 2).toNat)
    (fun s fn f => (f.req 2).toNat < 2 ^ 16 ∧ ∃ c, s.names fn (f.req 1) c ∧
      ∀ d ∈ s.ctxs, d.num ≠ c.num → d.pctx ≠ some ((f.req 2).setWidth 16))
    (fun s fn f u rs => rs = [] ∧ ∃ c, s.names fn (f.req 1) c ∧
      s.withCtx u { c with pctx := some ((f.req 2).setWidth 16) })

/-- R29, R39, R382: Q_REG registers a queue of a context under the function's lowest free index, IDLE and
with every field that the device writes 0, and answers the index, the home die and the wake cell's address;
Q_DEL removes one. The home die is the configuration's (log entry 6). -/
def Claims.QueueOperations : Prop :=
  let used (s : State) (fn i : Nat) : Prop := ∃ q ∈ s.queues, q.fn = fn ∧ q.index = i
  MbOp 0x03 false .qReg
    (fun s fn f => s.unused fn (f.req 1) ∨ (f.req 2).toNat % 128 ≠ 0 ∨
      ∃ c p, s.names fn (f.req 1) c ∧ (f.req 2).toNat % 128 = 0 ∧ s.steady c (f.req 2).toNat 128 p ∧
        ((∀ i, i < 512 → used s fn i) ∨ queueLegal (s.dram.bytes p 128) = false ∨
          ∃ q ∈ s.queues, q.ctx = c.num ∧ q.qnum = s.num p 2))
    (fun s fn f => ∃ c p, s.names fn (f.req 1) c ∧ (f.req 2).toNat % 128 = 0 ∧
      s.steady c (f.req 2).toNat 128 p ∧ (∃ i, i < 512 ∧ ¬ used s fn i) ∧
      queueLegal (s.dram.bytes p 128) = true ∧ ∀ q ∈ s.queues, q.ctx = c.num → q.qnum ≠ s.num p 2)
    (fun s fn f u rs => ∃ c p i q, s.names fn (f.req 1) c ∧ s.steady c (f.req 2).toNat 128 p ∧ i < 512 ∧
      (∀ j, j < i → used s fn j) ∧ ¬ used s fn i ∧ rs = [BitVec.ofNat 64 i, BitVec.ofNat 64 q.home,
        BitVec.ofNat 64 (0x7f8000000000 + 64 * i)] ∧
      (∀ x ∈ s.queues, x.key ≠ 512 * fn + i → x ∈ u.queues) ∧ q ∈ u.queues ∧
      q.home = (Config.homeDie s.free).toNat ∧ q.key = 512 * fn + i ∧ q.ctx = c.num ∧ q.fn = fn ∧
      q.index = i ∧ q.header = f.req 2 ∧ q.qnum = s.num p 2 ∧ q.msixv = s.num (p + 4) 2 ∧
      q.ringBase.toNat = s.num (p + 8) 8 % 2 ^ 57 ∧ q.cqBase.toNat = s.num (p + 16) 8 % 2 ^ 57 ∧
      q.prio = s.num (p + 24) 1 % 8 ∧ q.ringLog2 = s.num (p + 25) 1 % 32 ∧ q.cqLog2 = s.num (p + 26) 1 % 32 ∧
      q.state = 0 ∧ q.slot = none ∧ q.head = 0 ∧ q.cmdidx = 0 ∧ q.cqdone = 0 ∧ q.tail = 0 ∧
      q.wakelatch = 0 ∧ q.uilatch = false ∧ q.saveptr = 0 ∧ q.stopclass = 0 ∧
      u.num (p + 32) 1 = 0 ∧ u.num (p + 48) 48 = 0 ∧ u.num (p + 96) 1 = 0 ∧
      dramBut s u [(p + 32, 1), (p + 48, 48), (p + 96, 1)]) ∧
  MbOp 0x04 false .qDel (fun s fn f => ¬ used s fn (f.req 1).toNat)
    (fun s fn f => used s fn (f.req 1).toNat)
    (fun s fn f u rs => rs = [] ∧ ∃ q ∈ s.queues, q.fn = fn ∧ q.index = (f.req 1).toNat ∧
      ∀ p, p ∈ u.queues → p.key ≠ q.key)

/-- Mailbox operations on contexts and queues: Claims.ContextOperations and Claims.QueueOperations. -/
def Obligations.ContextAndQueueOperations : Prop :=
  Claims.ContextOperations ∧ Claims.QueueOperations

/-- R92, R216, R218, R306, R382, R384: IBLK registers a 256-byte aligned interrupt block and zeroes the
fields that the device writes (log entry 21); LOG places a ring; SHOOT begins a shootdown and is answered
when it is complete, as a page that the host takes back begins one. -/
def Claims.MemoryOperations : Prop :=
  MbOp 0x05 false .iblk
    (fun s fn f => s.unused fn (f.req 1) ∨
      ∃ c, s.names fn (f.req 1) c ∧ ((f.req 2).toNat % 256 ≠ 0 ∨ c.iblk.isSome = true))
    (fun s fn f => ∃ c p, s.names fn (f.req 1) c ∧ (f.req 2).toNat % 256 = 0 ∧ c.iblk = none ∧
      s.steady { c with iblk := some (f.req 2) } (f.req 2).toNat 0x1500 p)
    (fun s fn f u rs => rs = [] ∧ ∃ c p, s.names fn (f.req 1) c ∧
      s.steady { c with iblk := some (f.req 2) } (f.req 2).toNat 0x1500 p ∧
      u.ctx? c.num = some { c with iblk := some (f.req 2) } ∧ u.num p 24 = 0 ∧ u.num (p + 44) 4 = 0 ∧
      dramBut s u [(p, 24), (p + 44, 4)]) ∧
  MbOp 0x08 false .log
    (fun s fn f => ((f.req 1 = 0xffff ∧ fn = 0) ∨ f.req 1 ≠ 0xffff) ∧
      ((f.req 1 ≠ 0xffff ∧ s.unused fn (f.req 1)) ∨ (f.req 3).toNat < 4 ∨ 16 < (f.req 3).toNat))
    (fun s fn f => 4 ≤ (f.req 3).toNat ∧ (f.req 3).toNat ≤ 16 ∧
      ((f.req 1 = 0xffff ∧ fn = 0) ∨ (f.req 1 ≠ 0xffff ∧ ∃ c, s.names fn (f.req 1) c)))
    (fun s fn f u rs => rs = [] ∧
      (f.req 1 = 0xffff → u.plog = ⟨some ((f.req 2).toNat, (f.req 3).toNat), s.plog.held.length, []⟩) ∧
      (f.req 1 ≠ 0xffff → ∃ c d, s.names fn (f.req 1) c ∧ u.ctx? c.num = some d ∧
        d.log.ring = some ((f.req 2).toNat, (f.req 3).toNat) ∧
        (c.log.held = [] → s.withCtx u { c with log := ⟨some ((f.req 2).toNat, (f.req 3).toNat), 0, []⟩ }))) ∧
  (∀ s fn f, s.asked fn 0x08 f → s.fw.onlyMailbox = false → f.req 1 = 0xffff → fn ≠ 0 →
    ∃ t, exec (.log fn) s = .next t ∧ MbAnswered s t f 2 []) ∧
  MbWait 0x06 false .shoot (fun s fn f => s.unused fn (f.req 1) ∨ f.req 3 = 0)
    (fun s fn f => (∃ c, s.names fn (f.req 1) c) ∧ f.req 3 ≠ 0) (fun s _ => .shoot s.fresh)
    (fun s fn f => { s with
      shoots := s.shoots ++
        [⟨s.fresh, 256 * fn + (f.req 1).toNat, f.req 2, (f.req 3).toNat, some fn⟩]
      fresh := s.fresh + 1 }) ∧
  (∀ page, Event (.atsInvalidation page) (fun _ => True) fun s t =>
    t = { s with
      ats := s.ats.filter fun p => p.1 != page
      shoots := s.shoots ++ [⟨s.fresh, page / 2 ^ 48, BitVec.ofNat 64 (page % 2 ^ 48 * 2 ^ 16), 2 ^ 16, none⟩]
      fresh := s.fresh + 1 }) ∧
  (∀ x : Shootdown, Event (.shootdownComplete x.id)
    (fun s => s.shoots.find? (fun y => y.id == x.id) = some x ∧ x.fn = none ∧
      ∀ b ∈ s.blocks, ∀ g, s.grid? b.grid = some g → g.ctx = x.ctx →
        ∀ w ∈ b.warps, ∀ o ∈ w.loads, o.val = none)
    fun s t => t = { s with shoots := s.shoots.filter fun y => y.id != x.id }) ∧
  ∀ x : Shootdown, ∀ fn f, Event (.shootdownComplete x.id)
    (fun s => s.shoots.find? (fun y => y.id == x.id) = some x ∧ x.fn = some fn ∧
      s.funcs.filter (fun g => g.await == some (.shoot x.id)) = [f] ∧ s.func? fn = some f ∧ f.num = fn ∧
      ∀ b ∈ s.blocks, ∀ g, s.grid? b.grid = some g → g.ctx = x.ctx →
        ∀ w ∈ b.warps, ∀ o ∈ w.loads, o.val = none)
    fun s t => MbAnswered { s with shoots := s.shoots.filter fun y => y.id != x.id } t f 0 []

/-- R37, R343, R347, R356, R382, R383, R386: SHARE sets a function's parcels and highest priority, SCHED the
limits of the dies in its mask, each within its range, and DEBUG a context's debug word, which stops or
releases the warps of its blocks. -/
def Claims.LimitOperations : Prop :=
  let off (v : DWord) (lo hi : Nat) : Prop := v ≠ 0xffffffff ∧ (v.toNat < lo ∨ hi < v.toNat)
  let pick (v : DWord) (cur unit : Nat) : Nat := if v = 0xffffffff then cur else v.toNat * unit
  MbOp 0x09 true .share
    (fun s _ f => s.func? (f.req 1).toNat = none ∨ f.req 2 = 0 ∨ 0xff < (f.req 2).toNat)
    (fun s _ f => (s.func? (f.req 1).toNat).isSome = true ∧ f.req 2 ≠ 0 ∧ (f.req 2).toNat ≤ 0xff)
    (fun s _ f u rs => rs = [] ∧ ∃ g, s.func? (f.req 1).toNat = some g ∧ s.withFunc u { g with
      share := (f.req 2).setWidth 8, maxprio := min (f.req 3).toNat 7 }) ∧
  MbOp 0x14 true .sched
    (fun _ _ f => 15 < (f.req 1).toNat ∨ off (f.req 2) 50 100000 ∨ off (f.req 3) 0 100000 ∨
      off (f.req 4) 10 10000 ∨ off (f.req 5) 1 100)
    (fun _ _ f => (f.req 1).toNat ≤ 15 ∧ ¬ off (f.req 2) 50 100000 ∧ ¬ off (f.req 3) 0 100000 ∧
      ¬ off (f.req 4) 10 10000 ∧ ¬ off (f.req 5) 1 100)
    (fun s _ f u rs => rs = [] ∧ { u with dies := s.dies } = s ∧
      ∀ d, u.die d = if d < 4 ∧ (f.req 1).getLsbD d then { s.die d with
          slice := pick (f.req 2) (s.die d).slice 1, drain := pick (f.req 3) (s.die d).drain 1
          stop := pick (f.req 4) (s.die d).stop 1, testdl := pick (f.req 5) (s.die d).testdl 1000 }
        else s.die d) ∧
  MbOp 0x0a false .debug (fun s fn f => s.unused fn (f.req 1)) (fun s fn f => ∃ c, s.names fn (f.req 1) c)
    (fun s fn f u rs => rs = [] ∧ ∃ c, s.names fn (f.req 1) c ∧
      let resume := (f.req 2).getLsbD 2
      let halt := (f.req 2).getLsbD 1 && !resume
      s.withCtx { u with blocks := s.blocks } { c with brken := (f.req 2).getLsbD 0, halt := halt } ∧
      ∀ k b g, s.block? k = some b → s.grid? b.grid = some g → ∃ b', u.block? k = some b' ∧
        if g.ctx = c.num then
          b'.brken = (if b.res = .resident then (f.req 2).getLsbD 0 else b.brken) ∧
          ∀ n w, b.warp? n = some w → ∃ w', b'.warp? n = some w' ∧
            if w.hasEnded then w' = w
            else
              (resume = true → w'.st.halt = false ∧ w'.st.pdbg = false ∧
                ∀ l, l < 32 → w.once l → (∃ p, w.stands l = some (p, 7) ∧ p.toNat < g.codeEnd.toNat) →
                  w'.stands l = (w.stands l).map fun q => (q.1, 0)) ∧
              (resume = false → w' = { w with st := { w.st with
                pdbg := w.st.pdbg || (halt && b.res == .resident && !w.st.halt) } })
        else b' = b)

/-- Mailbox operations on interrupt blocks, rings, pages, shares and limits: Claims.MemoryOperations and
Claims.LimitOperations. -/
def Obligations.MemoryAndLimitOperations : Prop :=
  Claims.MemoryOperations ∧ Claims.LimitOperations

/- ### The pod's operations, the firmware, boot and attestation -/

/-- R70, R71, R383: POD_FORM loads a formation image, computes C(0) and makes the package a member, POD_JOIN
asks the sponsor, POD_RULE raises RULESET with the next RSID, and UNBLOCK raises UNBLOCK; the last three are
answered when the event is ordered. A package whose own row is not LIVE in the image takes no part (log
entry 21). -/
def Obligations.PodOperations : Prop :=
  let word (s : State) (f : Func) (k : Nat) : DWord :=
    BitVec.ofNat 64 (leNat (s.hostMem.bytes ((f.req 1).toNat + 8 * k) 8))
  let words (s : State) (f : Func) : List DWord := (List.range 296).map (word s f)
  let loaded (s : State) (f : Func) : State := { s with pkg := (f.req 2).toNat }.loadFormation (words s f)
  let npod (s : State) (f : Func) : Nat := (word s f 2).toNat / 2 ^ 16 % 2 ^ 9
  MbOp 0x10 true .podForm
    (fun s _ f => s.trav.role ≠ .none ∨ npod s f = 0 ∨ 256 < npod s f ∨ npod s f ≤ (f.req 2).toNat ∨
      word s f 4 ≠ s.fw.active.id ∨ (∃ k, k ∈ [0, 1, 3, 5, 6, 7] ∧ word s f k ≠ 0) ∨
      2 ^ 25 ≤ (word s f 2).toNat ∨
      (∃ p, p < 256 ∧ (2 ≤ (word s f (8 + p)).toNat % 4 ∨ 2 ^ 36 ≤ (word s f (8 + p)).toNat ∨
        8 < (word s f (8 + p)).toNat / 2 ^ 32 % 16 ∨
        (npod s f ≤ p ∧ (word s f (8 + p)).toNat % 4 ≠ 0))) ∨
      (word s f 264).toNat < 10 ∨ 10000 < (word s f 264).toNat ∨ (word s f 265).toNat < 1 ∨
      4096 < (word s f 265).toNat)
    (fun s _ f => s.trav.role = .none ∧ (loaded s f).formationBad (words s f) (f.req 2).toNat = false)
    (fun s _ f u rs => rs = [] ∧ u.pkg = (f.req 2).toNat ∧
      { u with plat := s.plat, pkg := s.pkg, trav := s.trav, mr := s.mr } = s ∧
      (∀ k, k < 19752 → k ≠ 1 → u.pw k =
        if k = 2 ∨ k = 4 ∨ (8 ≤ k ∧ k < 296) then word s f k else platReset k) ∧
      u.pw 1 = foldWords ((List.range 19750).map fun i => u.pw (i + 2)) ∧
      u.trav = { Traverse.reset with
        role := if u.memState (f.req 2).toNat = 1 then .member else .fenced } ∧
      ∀ k, smGet 0 u.mr k = if k = 4 then
        extended (smGet 0 s.mr 4) [(4, Config.sha3 (s.hostMem.bytes (f.req 1).toNat 2368))] 4
        else smGet 0 s.mr k) ∧
  MbWait 0x11 true .podJoin
    (fun s _ f => s.trav.role ≠ .fenced ∨ s.npod ≤ (f.req 1).toNat ∨ s.memState (f.req 1).toNat ≠ 1 ∨
      (s.memState s.pkg ≠ 0 ∧ s.memState s.pkg ≠ 2))
    (fun s _ f => s.trav.role = .fenced ∧ (f.req 1).toNat < s.npod ∧ s.memState (f.req 1).toNat = 1 ∧
      (s.memState s.pkg = 0 ∨ s.memState s.pkg = 2)) (fun _ _ => .join)
    (fun s _ f => { s with
      trav := { s.trav with sponsor := some (f.req 1).toNat }
      outbox := s.outbox ++ [.join (f.req 1).toNat (.openRow (f.req 2))] }) ∧
  (let rule (s : State) (f : Func) : EvRec := ⟨8, BitVec.ofNat 8 s.pkg, 0, 0,
      BitVec.ofNat 64 ((s.pw 2 + 1).toNat % 2 ^ 16 + (f.req 1).toNat % 256 * 2 ^ 16 +
        (f.req 2).toNat % 256 * 2 ^ 24), f.req 3, 0⟩
  MbWait 0x12 true .podRule (fun _ _ f => f.req 1 = 0x41)
    (fun s _ f => s.isMember = true ∧ (f.req 1).toNat < 256 ∧ f.req 1 ≠ 0x41 ∧ (f.req 2).toNat < 256)
    (fun s f => .rule (rule s f)) (fun s _ f => s.raised [rule s f])) ∧
  MbWait 0x13 false .mailboxUnblock
    (fun s fn f => s.unused fn (f.req 1) ∨ s.rowOf (f.req 2).toNat = none ∨
      ∃ c g, s.names fn (f.req 1) c ∧ s.rowOf (f.req 2).toNat = some g ∧
        (s.rowOrigin g ≠ s.pkg ∨ c.pctx ≠ some (s.rowPctx g)))
    (fun s fn f => s.isMember = true ∧ ∃ c g, s.names fn (f.req 1) c ∧
      s.rowOf (f.req 2).toNat = some g ∧ s.rowState g ≠ 0 ∧ s.rowOrigin g = s.pkg ∧
      c.pctx = some (s.rowPctx g))
    (fun _ f => .unblock (f.req 2).toNat)
    (fun s _ f => s.raised [⟨4, BitVec.ofNat 8 s.pkg, 0, (f.req 2).setWidth 32, 0, 0, 0⟩])

/-- R388 to R394: staging writes and verifies the inactive bank; activation defers, asks the pod, or begins the
switch, whose hand-over record is written then; the first pet of the watchdog begins probation, the second makes
the staged bank the active and a proven one, expiry rolls back, all with nothing held by the switch; FW_STATUS
tells, and power loss leaves the banks. NLAYOUT of 16 layouts reads 0 (log entry 22: the model's choice). The
manifest, the check of signatures and the record's place are the configuration's (log entry 6); a staged
image's bank is not proven until it runs (log entry 24). -/
def Obligations.FirmwareUpdate : Prop :=
  let accepted (s : State) : Prop := ∀ q ∈ s.queues, q.saveptr ≠ 0 →
    (s.dram.word64 q.saveptr.toNat).toNat % 2 ^ 16 ∈ s.fw.staged.accepts
  let bytes (s : State) (f : Func) : List Byte := s.hostMem.bytes (f.req 1).toNat (f.req 2).toNat
  let image (s : State) (f : Func) : FwImage :=
    ⟨Config.fwId (bytes s f), Config.fwSecver (bytes s f), Config.fwAccepts (bytes s f),
      Config.fwWrites (bytes s f), Config.sha3 (bytes s f)⟩
  let calm (s : State) : Prop := s.fw.held = [] ∧ s.fw.port = [] ∧ s.fw.records = [] ∧ s.heldRemote = [] ∧
    (∀ q ∈ s.queues, q.cqPend = []) ∧ (s.queues.map (·.key)).Nodup
  let rolled (s t : State) : Prop :=
    { t with fw := s.fw, trav := s.trav } = s ∧ t.fw = { s.fw with state := .rolledBack } ∧
      t.trav = (s.raised (⟨5, BitVec.ofNat 8 s.pkg, 0, 0xffffffff,
          BitVec.ofNat 64 (0xa1 + s.pkg % 2 ^ 16 * 2 ^ 16), s.fw.staged.id, 0⟩ ::
        if s.trav.role = .none then [] else [⟨8, BitVec.ofNat 8 s.pkg, 0, 0,
          BitVec.ofNat 64 ((s.pw 2 + 1).toNat % 2 ^ 16 + 0x41 * 2 ^ 16 + s.pkg % 256 * 2 ^ 24),
          s.fw.prior, 0⟩])).trav
  let begins (s t : State) : Prop :=
    let a := recordAddr
    let n := s.queues.length
    let wakes := s.queues.filter fun q => q.wakelatch != 0 || q.uilatch
    let lay := s.fw.staged.accepts.take 16
    t.fw = { s.fw with state := .switching, prior := s.fw.active.id, record := some a } ∧
    { t with fw := s.fw, dram := s.dram, poison := [] } = { s with poison := [] } ∧
    dramBut s t [(a, 1280 + 16 * n + 16 * wakes.length)] ∧
    t.num a 8 = 1 + lay.length % 16 * 2 ^ 16 ∧ t.num (a + 8) 8 = s.fw.staged.id.toNat ∧
    t.num (a + 16) 8 = s.fw.active.id.toNat ∧ t.num (a + 24) 8 = s.fw.station.toNat ∧
    t.num (a + 32) 8 = (a + 1280) % 2 ^ 64 ∧ t.num (a + 40) 8 = n % 2 ^ 64 ∧
    t.num (a + 48) 8 = (a + 1280 + 16 * n) % 2 ^ 64 ∧ t.num (a + 56) 8 = wakes.length % 2 ^ 64 ∧
    (∀ k, k < 16 → t.num (a + 64 + 2 * k) 2 = lay.getD k 0 % 2 ^ 16) ∧ t.num (a + 96) 32 = 0 ∧
    (∀ d i, d < 4 → i < 64 → t.num (a + 128 + 4 * (64 * d + i)) 4 =
      match s.queues.find? fun q => q.home == d && q.slot == some i with
      | some q => 2 ^ 31 + (s.queues.findIdx fun p => p.key == q.key) % 2 ^ 16
      | none => 0) ∧ t.num (a + 1152) 128 = 0 ∧
    (∀ j q, s.queues[j]? = some q → t.num (a + 1280 + 16 * j) 8 = q.header.toNat ∧
      t.num (a + 1280 + 16 * j + 8) 8 = (q.fn % 128 + ((s.ctx? q.ctx).map (·.c)).getD 0 * 2 ^ 8 +
        q.home * 2 ^ 24 + q.index * 2 ^ 32) % 2 ^ 64) ∧
    ∀ j q, wakes[j]? = some q →
      t.num (a + 1280 + 16 * n + 16 * j) 8 =
        (s.queues.findIdx fun p => p.key == q.key) % 2 ^ 16 + q.uilatch.toNat * 2 ^ 16 ∧
      t.num (a + 1280 + 16 * n + 16 * j + 8) 8 = q.wakelatch.toNat
  MbOp 0x20 true .fwStage
    (fun s _ f => 67108864 < (f.req 2).toNat ∨ s.fw.state = .staging ∨ s.fw.state = .deferred ∨
      s.fw.state = .switching ∨ s.fw.state = .probation)
    (fun s _ f => (f.req 2).toNat ≤ 67108864 ∧ s.fw.state ≠ .staging ∧ s.fw.state ≠ .deferred ∧
      s.fw.state ≠ .switching ∧ s.fw.state ≠ .probation)
    (fun s _ f u rs => rs = [] ∧ { u with fw := s.fw } = s ∧ u.fw.staged = image s f ∧
      u.fw.active = s.fw.active ∧ u.fw.bank = s.fw.bank ∧
      u.fw.state = (if Config.mlDsaVerifies (image s f).digest (Config.fwSignature (bytes s f)) = true ∧
        s.fw.minSecver.toNat ≤ (image s f).secver.toNat ∧ s.fw.active.writes ∈ (image s f).accepts
        then .verified else .verifyFail) ∧
      (if s.fw.bank then u.fw.proven1 = s.fw.proven1 ∧ u.fw.proven0 = false
        else u.fw.proven0 = s.fw.proven0 ∧ u.fw.proven1 = false)) ∧
  MbOp 0x21 true .fwActivate (fun s _ _ => s.fw.state ≠ .verified) (fun s _ _ => s.fw.state = .verified)
    (fun s _ _ u rs => rs = [] ∧
      (¬ accepted s → u = { s with fw := { s.fw with state := .deferred } }) ∧
      (accepted s → s.trav.role = .none → begins s u) ∧
      (accepted s → s.trav.role ≠ .none → u = s.raised [⟨8, BitVec.ofNat 8 s.pkg, 0, 0,
        BitVec.ofNat 64 ((s.pw 2 + 1).toNat % 2 ^ 16 + 0x41 * 2 ^ 16 + s.pkg % 256 * 2 ^ 24),
        s.fw.staged.id, 0⟩])) ∧
  MbOp 0x22 true .fwStatus (fun _ _ _ => False) (fun _ _ _ => True) (fun s _ _ u rs => u = s ∧
    ∃ code, ([(.idle, 0), (.staging, 1), (.verified, 2), (.verifyFail, 3), (.deferred, 4),
      (.switching, 5), (.probation, 6), (.active, 7), (.rolledBack, 8)] :
        List (FwState × Nat)).lookup s.fw.state = some code ∧
      rs = [BitVec.ofNat 64 (code + s.fw.bank.toNat * 2 ^ 4), s.fw.active.id, s.fw.staged.id,
        BitVec.ofNat 64 (s.fw.record.getD 0)]) ∧
  Event .watchdogPet (fun s => s.fw.state = .switching ∧ calm s)
    (fun s t => t = { s with fw := { s.fw with state := .probation } }) ∧
  Event .watchdogPet (fun s => s.fw.state = .probation) (fun s t =>
    { t with fw := s.fw, mr := s.mr } = s ∧
    t.fw = { s.fw with
      state := .active, bank := !s.fw.bank, proven0 := s.fw.bank || s.fw.proven0
      proven1 := !s.fw.bank || s.fw.proven1 } ∧
    ∀ k, smGet 0 t.mr k = extended (smGet 0 s.mr k) [(5, s.fw.staged.digest)] k) ∧
  Event .watchdogExpiry (fun s => s.fw.state = .switching ∧ calm s) rolled ∧
  Event .probationTimeout (fun s => s.fw.state = .probation ∧ calm s) rolled ∧
  Event .watchdogPet (fun s => s.fw.state ≠ .switching ∧ s.fw.state ≠ .probation) (fun s t => t = s) ∧
  Event .watchdogExpiry (fun s => s.fw.state ≠ .switching) (fun s t => t = s) ∧
  Event .probationTimeout (fun s => s.fw.state ≠ .probation) (fun s t => t = s) ∧
  Event .powerLoss (fun _ => True) (fun s t => t.hostMem = s.hostMem ∧ t.off = true ∧
    { t with hostMem := [], fw := State.reset.fw, off := false } = State.reset ∧ t.fw.state = .idle ∧
    t.fw.bank = s.fw.bank ∧ t.fw.image0 = s.fw.image0 ∧ t.fw.image1 = s.fw.image1 ∧
    t.fw.minSecver = s.fw.minSecver ∧
    let started := s.fw.state = .switching ∨ s.fw.state = .probation
    (t.fw.proven0 = true ↔ s.fw.proven0 = true ∧ ¬ (started ∧ s.fw.bank = true)) ∧
    (t.fw.proven1 = true ↔ s.fw.proven1 = true ∧ ¬ (started ∧ s.fw.bank = false)))

/-- R387, R393: a function-level reset returns a function to its reset state, in which it notes the pod grids that it
ends, and drops its contexts, that of the physical function those of every function, and one during a switch of
firmware is held. -/
def Claims.FunctionResets : Prop :=
  ∀ fn, Event (.functionLevelReset fn) (fun s => (s.func? fn).isSome = true ∧ s.fw.state = .switching)
      (fun s t => t = { s with fw := { s.fw with held := s.fw.held ++ [fn] } }) ∧
    Event (.functionLevelReset fn) (fun s => fn ≠ 0 ∧ (s.func? fn).isSome = true ∧ s.fw.state ≠ .switching)
      (fun s t => (∃ es, t.func? fn = some { Func.reset fn with ends := es } ∧
          ∀ n, n ∈ es ↔ ∃ g, g < 4096 ∧ s.rowState g ≠ 0 ∧ n = s.gridId g ∧
            ∃ c ∈ s.ctxs, c.fn = fn ∧ c.pctx = some (s.rowPctx g)) ∧
        ∀ c ∈ s.ctxs, c.fn = fn → t.ctxGone c.num ∧ s.podEnds t fn c) ∧
    Event (.functionLevelReset fn) (fun s => fn = 0 ∧ (s.func? fn).isSome = true ∧ s.fw.state ≠ .switching)
      (fun s t => ∀ c ∈ t.ctxs, s.func? c.fn = none)

/-- R394, R395: at boot the active bank, or the other one where that is marked unproven, runs once its stages
verify, and else the other bank; the measurement registers are extended with the digests of the stages that
ran, and the physical function keeps only its mailbox where both fail. The digests and the check of
signatures are the configuration's (log entry 6). -/
def Claims.Boot : Prop :=
  Event .boot (fun s => s.mr = []) fun s t =>
    let digest (b : Bool) : BitVec 512 := if b then s.fw.image1.digest else s.fw.image0.digest
    let proven (b : Bool) : Bool := if b then s.fw.proven1 else s.fw.proven0
    let ran (b : Bool) : List Nat := [1, 2, 3].takeWhile fun k => Config.stageVerifies k (digest b)
    let ok (b : Bool) : Bool := (ran b).length == 3
    let first := if proven s.fw.bank then s.fw.bank else !s.fw.bank
    let steps (b : Bool) : List (Nat × BitVec 512) :=
      (ran b).map fun k => (k, Config.stageDigest k (digest b))
    let now (b : Bool) : Bool := if b = first then ok b else if ok first then proven b else ok b
    { t with fw := s.fw, mr := [], off := s.off } = s ∧ t.off = false ∧
    t.fw = { s.fw with
      bank := if ok first then first else if ok (!first) then !first else s.fw.bank
      proven0 := now false, proven1 := now true
      onlyMailbox := s.fw.onlyMailbox || (!ok first && !ok (!first)) } ∧
    ∀ k, smGet 0 t.mr k = extended 0 ((0, Config.stageDigest 0 0) :: steps first ++
      if ok first then [] else steps (!first)) k

/-- R395: the SPDM responder's answers. The bytes that the manual does not give are free values (log entry
6). -/
def Claims.Attestation : Prop :=
  let tells (i : Instr) (f : State → List Byte → SpdmReply) : Prop :=
    Event i (fun _ => True) fun s t => ∃ b, t = { s with spdm := s.spdm ++ [f s b], free := s.free + 1 }
  tells .getVersion (fun _ => .version) ∧ tells .getCapabilities (fun _ => .capabilities) ∧
  (∀ ml sha other, tells (.negotiateAlgorithms ml sha other)
    fun _ b => if ml = true ∧ sha = true then .algorithms b else .unsupportedRequest) ∧
  tells .getDigests (fun _ => .digests) ∧ tells .getCertificate (fun _ => .certificate) ∧
  tells .challenge (fun _ => .challengeAuth) ∧
  (∀ i, tells (.getMeasurements i) fun s _ => if 1 ≤ i ∧ i ≤ 8 then .measurements (i - 1) (smGet 0 s.mr (i - 1))
    else .unsupportedRequest) ∧
  ∀ code, tells (.spdmUnsupported code) fun _ _ => .unsupportedRequest

/-- Function-level reset, boot with measurements, and attestation: Claims.FunctionResets, Claims.Boot and
Claims.Attestation. -/
def Obligations.ResetsBootAttestation : Prop :=
  Claims.FunctionResets ∧ Claims.Boot ∧ Claims.Attestation

/- ### Registers, the aperture, monitors, links and errors -/

/-- R5, R31, R310, R378 to R381, R385, R396: what an aligned write to BAR 0 does, and what its write-only registers
and a virtual function's management region read as. An access of another size or alignment is counted in the
function's error log, but for 4-byte ones of the MSI-X table, and a host's AtomicOp is an unsupported request.
Which register word lies where is as the tables of R379 to R396 give it; the vectors follow PCIe. -/
def Obligations.HostRegisterWrites : Prop :=
  ∀ (fn off : Nat) (v : DWord),
    let writes (pre : State → Func → Prop) (post : State → Func → State → Prop) : Prop :=
      ∀ f, Event (.registerWrite (.bar0 fn off 8) v) (fun s => s.func? fn = some f ∧ f.num = fn ∧ pre s f)
        fun s t => post s f t
    let aligned := off % 8 = 0
    writes (fun _ _ => off % 8 ≠ 0 ∨ 0x80000 ≤ off)
      (fun s f t => s.withFunc t { f with errCount := f.errCount + 1 }) ∧
    writes (fun _ _ => aligned ∧ off < 0x40)
      (fun s f t => ∃ g, s.withFunc t g ∧ { g with mbreq := f.mbreq } = f ∧
        ∀ k, g.req k = if k = off / 8 then v else f.req k) ∧
    writes (fun _ f => off = 0x80 ∧ f.busy = true)
      (fun s f t => s.withFunc t { f with errCount := f.errCount + 1 }) ∧
    (∀ n f, (n ≠ 8 ∨ off % 8 ≠ 0 ∨ 0x80000 ≤ off) → ¬ (n = 4 ∧ off % 4 = 0 ∧ 0x40000 ≤ off ∧ off < 0x44000) →
      Event (.registerWrite (.bar0 fn off n) v) (fun s => s.func? fn = some f ∧ f.num = fn)
        fun s t => s.withFunc t { f with errCount := f.errCount + 1 }) ∧
    (∀ f, Event (.registerWrite (.bar0 fn off 4) v) (fun s => s.func? fn = some f ∧ f.num = fn ∧ off % 8 = 0 ∧
        0x40000 ≤ off ∧ off < 0x44000 ∧ (off - 0x40000) / 16 ∉ f.msixPend)
      fun s t => ∃ g, s.withFunc t g ∧ { g with msixTable := f.msixTable } = f ∧
        ∀ k, g.msixWord k = if k = (off - 0x40000) / 8
          then (f.msixWord k).extractLsb' 32 32 ++ v.setWidth 32 else f.msixWord k) ∧
    (∀ f, Event (.registerWrite (.atomicOp fn) v) (fun s => s.func? fn = some f ∧ f.num = fn)
      fun s t => t.outbox = s.outbox ++ [.unsupported fn] ∧
        s.withFunc { t with outbox := s.outbox } { f with errCount := f.errCount + 1 }) ∧
    (∀ (s : State) (f : Func), s.func? fn = some f → f.num = fn →
      (off = 0x80 ∨ (aligned ∧ 0x20000 ≤ off ∧ off < 0x40000) ∨
        (aligned ∧ 0x1000 ≤ off ∧ off < 0x1100 ∧ off % 0x40 = 8) ∨
        (aligned ∧ fn ≠ 0 ∧ 0x50000 ≤ off ∧ off < 0x80000)) → s.barRead fn off 8 = (s, 0)) ∧
    (∀ op i, mailboxEvent fn op = some i →
      writes (fun s f => off = 0x80 ∧ f.busy = false ∧ (f.req 0).toNat % 256 = op ∧
          (s.fw.state ≠ .switching ∨ op = 0x20 ∨ op = 0x22))
        fun s f t => t.agenda = s.agenda ++ [i] ∧
          s.withFunc { t with agenda := s.agenda } { f with busy := true }) ∧
    writes (fun _ _ => aligned ∧ 0x1000 ≤ off ∧ off < 0x1100 ∧ off % 0x40 = 0)
      (fun s f t => ∃ g, s.withFunc t g ∧ { g with chans := f.chans } = f ∧
        ∀ n, g.chan n = if n = (off - 0x1000) / 0x40 then
          { f.chan n with ctx := BitVec.ofNat 64 (v.toNat % 256) } else f.chan n) ∧
    writes (fun _ _ => off = 0x2000)
      (fun s f t => s.withFunc t { f with apctl := BitVec.ofNat 64 (v.toNat % 2 ^ 9) }) ∧
    writes (fun _ _ => off = 0x2008)
      (fun s f t => s.withFunc t
        { f with apbase := BitVec.ofNat 64 (v.toNat / 2 ^ 32 % 2 ^ 24 * 2 ^ 32) }) ∧
    (∀ q : Queue, ∀ i, ((off % 64 = 0 ∧ i = Instr.wtail q.key v) ∨ (off % 64 = 8 ∧ i = .wcqdone q.key v) ∨
        (off % 64 = 0x10 ∧ v.getLsbD 2 = true ∧ i = .wctlAbort q.key) ∨
        (off % 64 = 0x10 ∧ v.getLsbD 2 = false ∧ v.getLsbD 0 = true ∧ v.getLsbD 1 = false ∧
          i = .wctlRestart q.key) ∨
        (off % 64 = 0x10 ∧ v.getLsbD 2 = false ∧ v.getLsbD 0 = true ∧ v.getLsbD 1 = true ∧
          i = .wctlRestartSkip q.key)) →
      writes (fun s _ => aligned ∧ 0x8000 ≤ off ∧ off < 0x10000 ∧
        s.queues.find? (fun p => p.fn == fn && p.index == (off - 0x8000) / 64) = some q)
        fun s _ t => t = { s with agenda := s.agenda ++ [i] }) ∧
    writes (fun _ _ => aligned ∧ 0x20000 ≤ off ∧ off < 0x40000)
      (fun s _ t => t = { s with agenda := s.agenda ++ [.hostInterruptSend fn (off - 0x20000) v] }) ∧
    writes (fun _ f => aligned ∧ 0x40000 ≤ off ∧ off < 0x44000 ∧
        ((off - 0x40000) / 8 / 2 ∉ f.msixPend ∨ off % 16 = 0 ∨ v.getLsbD 32 = true))
      (fun s f t => ∃ g, s.withFunc t g ∧ { g with msixTable := f.msixTable } = f ∧
        ∀ k, g.msixWord k = if k = (off - 0x40000) / 8 then v else f.msixWord k) ∧
    writes (fun _ f => off % 16 = 8 ∧ 0x40000 ≤ off ∧ off < 0x44000 ∧ v.getLsbD 32 = false ∧
        (off - 0x40000) / 8 / 2 ∈ f.msixPend)
      (fun s f t => t.msix = s.msix ++ [(fn, (off - 0x40000) / 16)] ∧
        ∃ g, s.withFunc { t with msix := s.msix } g ∧
          { g with msixTable := f.msixTable, msixPend := f.msixPend } = f ∧
          g.msixPend = f.msixPend.filter (fun n => n != (off - 0x40000) / 16)) ∧
    (let m := (off - 0x50000) / 0x100
    writes (fun _ _ => fn = 0 ∧ aligned ∧ 0x50000 ≤ off ∧ off < 0x58000 ∧ off % 0x100 = 0)
      (fun s _ t => { t with mons := s.mons } = s ∧ ∀ n, t.monitor n = if n = m then
        (let o := { s.monitor m with source := v.toNat / 4 % 64, en := v.getLsbD 0 }
        if v.getLsbD 1 then { o with min := 0, max := 0, cnt := 0, bins := [] } else o)
        else s.monitor n) ∧
    writes (fun _ _ => fn = 0 ∧ aligned ∧ 0x50000 ≤ off ∧ off < 0x58000 ∧ 0x20 ≤ off % 0x100 ∧
        off % 0x100 < 0x60)
      (fun s _ t => { t with mons := s.mons } = s ∧ (∀ n, n ≠ m → t.monitor n = s.monitor n) ∧
        { t.monitor m with edges := [] } = { s.monitor m with edges := [] } ∧
        let i := (off % 0x100 - 0x20) / 4
        ∀ k, k < 15 → (t.monitor m).edge k = if k = i then v.setWidth 32
          else if k = i + 1 then (v >>> 32).setWidth 32 else (s.monitor m).edge k))

/-- R273, R385: a write to CHHEAD starts the chain of an idle channel and is else ignored and counted; the
chain moves record by record in the context it started in, copying what a record that DEVOWN says is the
device's names, and ends at the null address with DONE, CHLAST the last record, and vector 1 + n. -/
def Claims.CopyChannels : Prop :=
  ∀ (fn n : Nat) (v : DWord),
    (∀ f c, Event (.chhead fn n v) (fun s => s.func? fn = some f ∧ f.num = fn ∧ n < 4 ∧
        (f.chan n).busy = false ∧ s.ctxArg fn (f.chan n).ctx = some c)
      fun s t => ∃ g, s.withFunc t g ∧ { g with chans := f.chans } = f ∧ ∀ k, g.chan k =
        if k = n then { f.chan n with
          busy := true, run := (f.chan n).ctx, addr := v, status := 0, cause := 0, done := 0, last := 0 }
        else f.chan k) ∧
    (∀ f, Event (.chhead fn n v) (fun s => s.func? fn = some f ∧ f.num = fn ∧
        (4 ≤ n ∨ (f.chan n).busy = true ∨ s.unused fn (f.chan n).ctx))
      fun s t => s.withFunc t { f with errCount := f.errCount + 1 }) ∧
    (∀ f c, Event (.chainRecordDone (.channel fn n)) (fun s => s.func? fn = some f ∧ f.num = fn ∧
        (f.chan n).busy = true ∧ s.ctxArg fn (f.chan n).run = some c ∧ (f.chan n).addr = 0)
      fun s t => { t with funcs := s.funcs, msix := s.msix } = s ∧ ∃ g, t.func? fn = some g ∧
        (∀ k, k ≠ n → g.chan k = f.chan k) ∧
        g.chan n = { f.chan n with busy := false, status := 1, cause := 0 } ∧
        if (f.msixWord (2 * (1 + n) + 1)).getLsbD 32 then t.msix = s.msix ∧ (1 + n) ∈ g.msixPend
        else t.msix = s.msix ++ [(fn, 1 + n)]) ∧
    ∀ f c a src dst len, Event (.chainRecordDone (.channel fn n)) (fun s => s.func? fn = some f ∧
        f.num = fn ∧ (f.chan n).busy = true ∧ s.ctxArg fn (f.chan n).run = some c ∧
        (f.chan n).addr ≠ 0 ∧ s.steadyOver [(a, 64), (dst, len)] c (f.chan n).addr.toNat 64 a ∧
        s.num (a + 24) 8 = len ∧ 0 < len ∧ len < 2 ^ 40 ∧ s.num (a + 32) 1 % 8 = 1 ∧
        s.num (a + 32) 1 < 8 ∧ s.num (a + 35) 29 = 0 ∧
        s.steadyOver [(a, 64), (dst, len)] c (s.num (a + 8) 8) len src ∧
        s.steadyOver [(a, 64), (dst, len)] c (s.num (a + 16) 8) len dst ∧
        (src + len ≤ dst ∨ dst + len ≤ src) ∧ (a + 64 ≤ dst ∨ dst + len ≤ a))
      fun s t => dramBut s t [(dst, len), (a + 32, 3)] ∧
        (∀ k, k < len → t.dram.byte (dst + k) = s.dram.byte (src + k)) ∧
        t.num (a + 32) 3 = 2 ^ 8 ∧
        ∃ g, s.withFunc { t with dram := s.dram } g ∧ { g with chans := f.chans } = f ∧
          ∀ k, g.chan k = if k = n then { f.chan n with
            addr := BitVec.ofNat 64 (s.num a 8), last := (f.chan n).addr, done := (f.chan n).done + 1 }
          else f.chan k

/-- R234, R380: a host's read through the aperture returns the bytes of the context's memory, or all ones and a
count in the error log where it is not allowed; a write stores them, or has no effect and is counted; another
size or alignment, or another requester than the root complex, is an unsupported request. -/
def Claims.ApertureAccesses : Prop :=
  ∀ (fn off : Nat),
    let good (s : State) (f : Func) (c : Ctx) (n p : Nat) (acc : Access) : Prop :=
      let va := f.apbase.toNat + off
      s.func? fn = some f ∧ f.num = fn ∧ f.apctl.getLsbD 8 = true ∧ s.ctxArg fn (f.apctl &&& 0xff) = some c ∧
      off + n ≤ 2 ^ 32 ∧ va + n ≤ 0x7f0000000000 ∧
      ∃ ord, s.resolve c (BitVec.ofNat 64 va) n acc =
        .ok ((List.range n).map fun k => Loc.mem 0 (p + k), ord)
    let shut (s : State) (f : Func) : Prop := s.func? fn = some f ∧ f.num = fn ∧
      (f.apctl.getLsbD 8 = false ∨ s.unused fn (f.apctl &&& 0xff))
    (∀ n f c p, (n = 1 ∨ n = 2 ∨ n = 4 ∨ n = 8) → off % n = 0 → Event (.apertureRead ⟨true, fn⟩ off n)
      (fun s => good s f c n p .load ∧ s.poison = []) fun s t =>
        t = { s with outbox := s.outbox ++ [.hostData fn (s.dram.bytes p n)] }) ∧
    (∀ n f, (n = 1 ∨ n = 2 ∨ n = 4 ∨ n = 8) → off % n = 0 → off + n ≤ 2 ^ 32 →
      Event (.apertureRead ⟨true, fn⟩ off n) (fun s => shut s f) fun s t =>
        t.outbox = s.outbox ++ [.hostData fn (List.replicate n 0xff)] ∧
        s.withFunc { t with outbox := s.outbox } { f with errCount := f.errCount + 1 }) ∧
    (∀ rc n f, (rc = false ∨ ¬ ((n = 1 ∨ n = 2 ∨ n = 4 ∨ n = 8) ∧ off % n = 0)) → Event (.apertureRead ⟨rc, fn⟩ off n)
      (fun s => s.func? fn = some f ∧ f.num = fn) fun s t => t.outbox = s.outbox ++ [.unsupported fn] ∧
        s.withFunc { t with outbox := s.outbox } { f with errCount := f.errCount + 1 }) ∧
    (∀ bs f c p, 0 < bs.length → off % 64 + bs.length ≤ 64 → Event (.apertureWrite ⟨true, fn⟩ off bs)
      (fun s => good s f c bs.length p .store) fun s t =>
        { t with dram := s.dram, poison := [] } = { s with poison := [] } ∧
        t.dram.bytes p bs.length = bs ∧ dramBut s t [(p, bs.length)]) ∧
    (∀ bs f, 0 < bs.length → off % 64 + bs.length ≤ 64 → off + bs.length ≤ 2 ^ 32 →
      Event (.apertureWrite ⟨true, fn⟩ off bs) (fun s => shut s f) fun s t =>
        s.withFunc t { f with errCount := f.errCount + 1 }) ∧
    ∀ rc bs f, (rc = false ∨ 64 < bs.length) → Event (.apertureWrite ⟨rc, fn⟩ off bs)
      (fun s => s.func? fn = some f ∧ f.num = fn) fun s t => t.outbox = s.outbox ++ [.unsupported fn] ∧
        s.withFunc { t with outbox := s.outbox } { f with errCount := f.errCount + 1 }

/-- Host copy channels and accesses through the aperture: Claims.CopyChannels and Claims.ApertureAccesses.
-/
def Obligations.HostCopiesAndAperture : Prop :=
  Claims.CopyChannels ∧ Claims.ApertureAccesses

/-- R92, R363, R364, R371, R396 to R398: scrubbing, link and clock events and monitors. A scrub's unit and
a clock record's KIND, and that CLEAR zeroes minimum and maximum, are readings (log entries 4, 11, 25). -/
def Obligations.DeviceEvents : Prop :=
  (∀ tier gr, Event (.scrub (.mem tier) gr true)
    (fun _ => gr * 8 < if tier = .dram then Config.dramSize else Config.lpddrSize) fun s t =>
      let k := if tier = .dram then 0 else 1
      t.noLog = s.noLog ∧ PkgLogged s t 0x02 0 (if tier = .dram then gr * 8 / 2 ^ 35 else 0)
        (BitVec.ofNat 64 (gr * 8)) ∧
      (s.plog.ring = none → (k, gr) ∈ t.poison ∧ ∀ g, g ∈ t.poison ↔ g = (k, gr) ∨ g ∈ s.poison)) ∧
  (∀ tier gr, Event (.scrub (.mem tier) gr false)
    (fun _ => gr * 8 < if tier = .dram then Config.dramSize else Config.lpddrSize) fun s t =>
      t.noLog = s.noLog ∧ PkgLogged s t 0x01 0 (if tier = .dram then gr * 8 / 2 ^ 35 else 0)
        (BitVec.ofNat 64 (gr * 8))) ∧
  (∀ n ok, Event (.flitRetransmit ⟨n, ok⟩) (fun s => (s.link n).down = true ∨ ok = true ∨ (s.link n).retries < 31)
    fun s t => { t with links := s.links } = s ∧
      ∀ k, ({ t.link k with retries := 0 } : Link) = { s.link k with retries := 0 }) ∧
  (∀ n, Event (.flitRetransmit ⟨n, false⟩) (fun s => (s.link n).down = false ∧ 31 ≤ (s.link n).retries) fun s t =>
    { t.noLog with links := s.links } = s.noLog ∧ PkgLogged s t 0x07 0 n 0 ∧
    ∀ k, t.link k = if k = n then { s.link n with down := true } else s.link k) ∧
  (∀ n out, Event (.laneRetrain ⟨n, out⟩) (fun s => (s.link n).down = false) fun s t =>
    { t.noLog with links := s.links } = s.noLog ∧ PkgLogged s t 0x07 0 n 0 ∧
    let l := s.link n
    ∀ k, t.link k = if k = n then (if out then { l with
        sparesOut := l.sparesOut - 1, halfOut := l.halfOut || l.sparesOut == 0 }
      else { l with sparesIn := l.sparesIn - 1, halfIn := l.halfIn || l.sparesIn == 0 }) else s.link k) ∧
  (∀ n, Event (.linkDown n) (fun s => (s.link n).down = false) fun s t =>
    { t.noLog with links := s.links } = s.noLog ∧ PkgLogged s t 0x07 0 n 0 ∧
    ∀ k, t.link k = if k = n then { s.link n with down := true } else s.link k) ∧
  (∀ d up, Event (.thermalThrottle d up) (fun s => d < 4 ∧ 550 ≤ (s.die d).clock ∧ (s.die d).clock ≤ 1100 ∧
      (s.die d).clock % 50 = 0 ∧ (s.die d).clock ≠ if up then 1100 else 550) fun s t =>
    let c := if up then (s.die d).clock + 50 else (s.die d).clock - 50
    { t.noLog with dies := s.dies } = s.noLog ∧
    PkgLogged s t Config.clockKind 0 d (BitVec.ofNat 64 c) ∧ 550 ≤ c ∧ c ≤ 1100 ∧
    ∀ k, t.die k = if k = d then { s.die d with clock := c } else s.die k) ∧
  Event .thermalShutdown (fun _ => True) (fun s t => t = { s with off := true }) ∧
  (∀ m, Event (.mctlClear m) (fun _ => True) fun s t => { t with mons := s.mons } = s ∧
    ∀ k, t.monitor k = if k = m then { s.monitor m with min := 0, max := 0, cnt := 0, bins := [] }
      else s.monitor k) ∧
  (∀ m x, Event (.monitorSample m x)
    (fun s => (s.monitor m).en = true ∧ 1 ≤ (s.monitor m).source ∧ (s.monitor m).source ≤ 8) fun s t =>
      let o := s.monitor m
      let e (i : Nat) : Nat := (o.edge i).toNat
      let o' := t.monitor m
      { t with mons := s.mons } = s ∧ (∀ k, k ≠ m → t.monitor k = s.monitor k) ∧
      o'.source = o.source ∧ o'.en = o.en ∧ o'.edges = o.edges ∧ o'.min.toNat = min x.toNat o.min.toNat ∧
      o'.max.toNat = max x.toNat o.max.toNat ∧ o'.cnt.toNat = min (o.cnt.toNat + 1) (2 ^ 64 - 1) ∧
      ∃ b, b < 16 ∧
        ((∀ i j, i < j → j < 15 → e i < e j) → (b = 0 ∨ e (b - 1) ≤ x.toNat) ∧ (b = 15 ∨ x.toNat < e b)) ∧
        (¬ (∀ i, i < 14 → e i < e (i + 1)) → b = 15) ∧
        ∀ i, (smGet 0 o'.bins i).toNat = if i = b then min ((smGet 0 o.bins i).toNat + 1) (2 ^ 32 - 1)
          else (smGet 0 o.bins i).toNat) ∧
  (∀ m x, Event (.monitorSample m x) (fun s => (s.monitor m).en = false ∨ (s.monitor m).source = 0 ∨
    8 < (s.monitor m).source) fun s t => t = s) ∧
  ∀ c, Event (.fenceI c) (fun _ => True) fun s t => { t with cores := s.cores } = s ∧
    ∀ k, t.core k = if k = c then { s.core c with icache := [] } else s.core k

/- ### The supervisor core -/

/-- R341: the control window of a core. SWSEL selects a slot, SACT takes an action, a word of SFRONT is kept
until the next action, and the data registers of the selected warp are read and written while it responds; else
the access is logged, a write is ignored and a read gives zero. An access that is not an aligned 8-byte one is
logged, and writes to read-only offsets are ignored. -/
def Obligations.ControlWindow : Prop :=
  ∀ (core off : Nat) (v : DWord),
    let put : Instr := .registerWrite (.control core off 8) v
    let data (i : Instr) (pre : Prop) (post : Grid → Warp → Warp → Prop) : Prop :=
      ∀ b w g, pre → Event i (fun s => s.picks core b w g ∧ w.responds) fun s t =>
        ∃ w', t.warpAt (b.key, w.num) = some w' ∧ post g w w' ∧ OnlyWarp s t b.key w.num
    let mute (i : Instr) (pre : Prop) : Prop :=
      pre → Event i (fun s => s.selected core = none ∨
          ∃ b w g, s.selected core = some (b, w, g) ∧ ¬ w.responds) fun s t =>
        t.noLog = s.noLog ∧ PkgLogged s t 0x04 0 core (BitVec.ofNat 64 (0x10000000 + off))
    let vector (i : Instr) : Prop :=
      data i (0x1000 ≤ off ∧ off < 0x9000 ∧ off % 8 = 0) fun g w w' =>
        let n := (off - 0x1000) / 128
        let l := (off - 0x1000) % 128 / 4
        if n < g.img.desc.vregs then VWritten w w' n 1 (laneBit l ||| laneBit (l + 1)) fun k _ =>
          if k = l then v.setWidth 32 else (v >>> 32).setWidth 32
        else w' = w
    (∀ n, (n ≠ 8 ∨ off % 8 ≠ 0) → Event (.registerWrite (.control core off n) v) (fun _ => True) fun s t =>
      t.noLog = s.noLog ∧ PkgLogged s t 0x04 0 core (BitVec.ofNat 64 (0x10000000 + off))) ∧
    Event put (fun _ => off % 8 = 0 ∧ ((0x08 ≤ off ∧ off < 0x30) ∨ (0x38 ≤ off ∧ off < 0x40) ∨ 0x9000 ≤ off))
      (fun s t => t = s) ∧
    (∀ s b w g, s.picks core b w g → off % 8 = 0 →
      (off = 0x08 → s.controlRead core off 8 = (s, w.statusWord)) ∧
      (w.responds → 0x200 ≤ off → off < 0x2c0 → (off - 0x200) / 8 < g.img.desc.sregs →
        s.controlRead core off 8 = (s, w.sget ((off - 0x200) / 8))) ∧
      (¬ w.responds → isData off = true → let r := s.controlRead core off 8
        r.2 = 0 ∧ r.1.noLog = s.noLog ∧ PkgLogged s r.1 0x04 0 core (BitVec.ofNat 64 (0x10000000 + off)))) ∧
    Event put (fun _ => off = 0) (fun s t => { t with cores := s.cores } = s ∧
      ∀ k, t.core k = if k = core then { s.core core with swsel := v.toNat % 64 } else s.core k) ∧
    (∀ i, (v.toNat % 8, i) ∈ [(0, Instr.sactResume core ((v >>> 32).setWidth 32)), (1, .sactSkip core
        ((v >>> 32).setWidth 32)), (2, .sactKill core ((v >>> 32).setWidth 32)),
        (3, .sactEnd core ((v >>> 32).setWidth 32) ((v >>> 16).setWidth 8)),
        (4, .sactUtrap core ((v >>> 32).setWidth 32) ((v >>> 16).setWidth 8)),
        (5, .sactRelease core ((v >>> 32).setWidth 32)), (6, .sactHalt core), (7, .sactReserved core)] →
      Event put (fun _ => off = 0x30) fun s t => t = { s with agenda := s.agenda ++ [i] }) ∧
    (∀ b w g, Event put (fun s => off % 8 = 0 ∧ 0x40 ≤ off ∧ off < 0x168 ∧ s.selected core = some (b, w, g) ∧
        w.responds) fun s t => { t with svec := s.svec } = s ∧
      ∀ k x, (k, x) ∈ t.svec ↔ if k = (core * 64 + (s.core core).swsel, (off - 0x40) / 8) then x = v
        else (k, x) ∈ s.svec) ∧
    data put (0x200 ≤ off ∧ off < 0x2c0 ∧ off % 8 = 0) (fun g w w' =>
      if (off - 0x200) / 8 < g.img.desc.sregs then SWritten w w' ((off - 0x200) / 8) v else w' = w) ∧
    data put (0x300 ≤ off ∧ off < 0x400 ∧ off % 8 = 0) (fun g w w' =>
      w'.others = { w with p := w'.p, pPoison := w'.pPoison }.others ∧
      ∀ n l, l < 32 → w'.pbit n l =
        if n < g.img.desc.pregs ∧ l = (off - 0x300) / 8 then v.getLsbD n else w.pbit n l) ∧
    data put (0x400 ≤ off ∧ off < 0x420 ∧ off % 8 = 0) (fun _ w w' =>
      w'.others = { w with ck := w'.ck }.others ∧
      ∀ n, w'.ckget n = if n = (off - 0x400) / 8 then v else w.ckget n) ∧
    vector put ∧ vector (.svecWrite core off v) ∧
    mute put (off % 8 = 0 ∧ ((0x40 ≤ off ∧ off < 0x168) ∨ (0x200 ≤ off ∧ off < 0x2c0) ∨
      (0x300 ≤ off ∧ off < 0x420) ∨ (0x1000 ≤ off ∧ off < 0x9000))) ∧
    mute (.svecWrite core off v) (0x1000 ≤ off ∧ off < 0x9000 ∧ off % 8 = 0)

/-- R117, R122, R132, R340 to R343: the actions of SACT on the lanes that the mask selects among those parked
for the supervisor core (PARK 2, 6 and 7: log entry 20). They act once a frontier written through SFRONT has
been taken; without a warp, and for action 7, the write is logged. -/
def Obligations.SupervisorActions : Prop :=
  ∀ (core : Nat) (mask : Mask) (code : BitVec 8),
    let acts (i : Instr) (pre : State → Block → Warp → Grid → Prop)
        (post : State → State → Block → Warp → Grid → Prop) : Prop :=
      ∀ b w g, Event i (fun s => (s.takeFront core).picks core b w g ∧ g.ending = none ∧
        (∀ l, l < 32 → w.once l) ∧ pre (s.takeFront core) b w g) fun s t => post (s.takeFront core) t b w g
    let only (s t : State) (b : Block) (w : Warp) (post : Warp → Prop) : Prop :=
      ∃ w', t.warpAt (b.key, w.num) = some w' ∧ post w' ∧ OnlyWarp s t b.key w.num
    let parked (w : Warp) (l : Nat) (p : DWord) : Prop :=
      ∃ k, (k = 2 ∨ k = 6 ∨ k = 7) ∧ w.stands l = some (p, k)
    let chosen (w : Warp) (l : Nat) (p : DWord) : Prop :=
      (mask = 0 ∨ mask.getLsbD l = true) ∧ parked w l p
    let others (w w' : Warp) : Prop := ∀ l, l < 32 → (∀ p, ¬ chosen w l p) → w'.stands l = w.stands l
    let stand (g : Grid) (p : DWord) : DWord × BitVec 4 :=
      if g.codeEnd.toNat ≤ p.toNat then (g.codeEnd, 2) else (p, 0)
    let logs (i : Instr) : Prop := Event i (fun s => (s.takeFront core).selected core = none) fun s t =>
      t.noLog = (s.takeFront core).noLog ∧ PkgLogged (s.takeFront core) t 0x04 0 core 0x10000030
    acts (.sactResume core mask) (fun _ _ w _ => w.utraps = []) (fun s t b w g => only s t b w fun w' =>
      w'.others = { w with waits := w'.waits }.others ∧ others w w' ∧
      ∀ l p, l < 32 → chosen w l p → w'.stands l = some (stand g p)) ∧
    acts (.sactSkip core mask) (fun _ _ w _ => w.utraps = []) (fun s t b w g => only s t b w fun w' =>
      w'.others = { w with waits := w'.waits }.others ∧ others w w' ∧
      ∀ l p u, l < 32 → chosen w l p → w.straps = [u] → u.lanes.getLsbD l = true → u.len ≠ 0 →
        w'.stands l = some (if p = g.codeEnd ∨ g.legalPc (p + BitVec.ofNat 64 u.len) = false
          then (g.codeEnd, 2) else (p + BitVec.ofNat 64 u.len, 0))) ∧
    acts (.sactKill core mask) (fun _ _ w _ => w.utraps = [] ∧ w.waits = [] ∧
        w.csM = 0 ∧ (∃ l p, l < 32 ∧ chosen w l p) ∧
        ∃ l k, l < 32 ∧ w.stands l = some k ∧ k.2 ≠ 3 ∧ ∀ p, ¬ chosen w l p)
      (fun s t b w _ => only s t b w fun w' => others w w' ∧
        w'.others = { w with exited := w'.exited, cs := w'.cs }.others ∧
        (∀ l, l < 32 → w'.exited.getLsbD l = true ↔ w.exited.getLsbD l = true ∨ ∃ p, chosen w l p) ∧
        ∀ l p, l < 32 → chosen w l p → w'.stands l = none) ∧
    acts (.sactEnd core mask code) (fun _ _ _ _ => True) (fun s t _ w g =>
      let poff := ((w.straps.head?.map fun u => u.words.w0.toNat / 2 ^ 32).getD 0)
      t.blocks = s.blocks ∧ t.grid? g.id = some { g with
        ending := some ⟨stFailed, 0x83, code.setWidth 16, g.cb + BitVec.ofNat 64 poff⟩ } ∧
      ∀ k, k ≠ g.id → t.grid? k = s.grid? k) ∧
    acts (.sactUtrap core mask code) (fun _ _ w _ => w.utraps = [] ∧ w.straps ≠ [])
      (fun s t b w g => only s t b w fun w' => others w w' ∧
        w'.others = { w with waits := w'.waits }.others ∧
        ∀ l p, l < 32 → chosen w l p → w'.stands l = some (p, 1) ∧
          ∃ u ∈ (w'.frame.map (·.trap)).toList ++ w'.utraps, u.lanes.getLsbD l = true ∧ u.pc = p ∧
            ∃ old, w.straps.head? = some old ∧ u.words = recordWords ((p - g.cb).setWidth 32) 0
              w.rgn.inrgn false (lowestLane u.lanes) code old.words.w1 old.words.w2 old.words.w3) ∧
    acts (.sactRelease core mask) (fun _ _ w _ => w.utraps = []) (fun s t b w g => only s t b w fun w' =>
      w'.st.hold = false ∧ w'.others = { w with
        waits := w'.waits, st := { w.st with halt := false } }.others ∧
      (∀ l, l < 32 → (∀ p, w.stands l ≠ some (p, 7)) → w'.stands l = w.stands l) ∧
      ∀ l p, l < 32 → w.stands l = some (p, 7) → w'.stands l = some (stand g p)) ∧
    acts (.sactHalt core) (fun _ _ _ _ => True) (fun s t b w _ => only s t b w fun w' =>
      w' = { w with st := { w.st with pdbg := true } }) ∧
    (∀ i, i ∈ [.sactResume core mask, .sactSkip core mask, .sactKill core mask, .sactEnd core mask code,
      .sactUtrap core mask code, .sactRelease core mask, .sactHalt core] → logs i) ∧
    Event (.sactReserved core) (fun _ => True) (fun s t => t.noLog = (s.takeFront core).noLog ∧
      PkgLogged (s.takeFront core) t 0x04 0 core 0x10000030) ∧
    ∀ s : State, s.svec = [] → s.takeFront core = s

/- ### Packets and commands -/

/-- R20 to R23, R26, R33, R36: what stands at HEAD of a queue. Until there is a packet to consume, a packet
event changes nothing; one that fails a check stops the queue with its class and a REJECTED entry at the place
of CMDIDX; one that a BRANCH passes over is consumed and completes SKIPPED. -/
def Claims.PacketsAtHead : Prop :=
  ∀ (k : Nat) (i : Instr), i ∈ [Instr.launch k, .copy k, .wait k, .signal k, .branch k, .barrier k,
      .flush k, .inval k, .mark k] →
    (∀ s q u, s.queue? k = some q → s.atHead q = .waits u → exec i s = .next u) ∧
    (∀ q c p h irq e, Event i (fun s => q.key = k ∧ s.atHead q = .reject s irq e ∧
        s.queueMem q c q.cmdidx p h [] ∧ s.idleQ q ∧ q.swapped = [] ∧ s.fw.state ≠ .deferred) fun s t =>
      s.stoppedQ t q p h ⟨q.cmdidx, q.cmdidx.setWidth 32, irq, none⟩ e e.cls) ∧
    ∀ q c p h head, Event i (fun s => q.key = k ∧ s.atHead q = .skip head ∧
        s.queueMem q c q.cmdidx p h []) fun s t =>
      s.completed t { q.consumed head with
        skipTo := q.skipTo, flights := q.flights.filter fun f => f.idx != q.cmdidx } p []
        ⟨q.cmdidx, head.seq, head.irq, none⟩ ⟨stSkipped, 0, 0, 0⟩ noGrid noStation

/-- R17, R19, R34, R65, R89: LAUNCH of an accepted image. Without a POD field a local grid begins, with its
arguments copied into the context's pool; a pool too small for one block rejects any launch; a pod launch hands its
record to the traverse in a SUBMIT. A local grid of which every block has been placed and has ended, or which
has an ending, completes once its pod-window writes are acknowledged. -/
def Obligations.LaunchCommands : Prop :=
  let launch (pre : State → Queue → Ctx → PktHead → List Field → State → Image → Prop)
      (post : State → State → Queue → Ctx → PktHead → List Field → Image → Prop) : Prop :=
    ∀ q c p fs img, Event (.launch q.key) (fun s => s.accepts q c p fs 1 false ∧ ∃ u,
        s.readImage c q.home (fieldNum fs 2 0) (BitVec.ofNat 64 (fieldNum fs 1 0)) = .ok u img ∧
        pre s q c p fs u img) fun s t => post s t q c p fs img
  let taken (q : Queue) (p : PktHead) (g : Option Nat) : Queue :=
    { q.consumed p with flights := q.flights ++ [⟨q.cmdidx, p.seq, p.irq, g⟩] }
  let args (fs : List Field) : List Byte := ((fieldOf fs 4).map fun f => f.val).getD []
  let grid (q : Queue) (c : Ctx) (p : PktHead) (fs : List Field) (img : Image) (g : Grid) : Prop :=
    g.pod = false ∧ g.ctx = c.num ∧ g.queue = some q.key ∧
    g.owner = .cmd q.key q.cmdidx p.seq p.irq ∧ g.img = img ∧ g.entry = fieldNum fs 2 0 ∧
    g.argLen = (args fs).length ∧ g.nextQuartet = 0 ∧ g.ending = none ∧ 2 ^ 31 ≤ g.id ∧
    g.gx = bitsOf (((fieldOf fs 3).map fun f => f.val).getD []) 0 32 ∧
    g.gy = bitsOf (((fieldOf fs 3).map fun f => f.val).getD []) 32 32 ∧
    g.gz = bitsOf (((fieldOf fs 3).map fun f => f.val).getD []) 64 32
  launch (fun _ _ c _ fs _ img => fieldOf fs 5 = none ∧ img.desc.area ≤ c.poolSize ∧ args fs = [])
    (fun s t q c p fs img => ∃ g, grid q c p fs img g ∧ g.args = 0 ∧
      ({ s with grids := s.grids ++ [g], fresh := s.fresh + 1, acache := t.acache } : State).withQueue t
        (taken q p (some g.id))) ∧
  (∀ a va c', launch (fun s _ c _ fs _ img => fieldOf fs 5 = none ∧ img.desc.area ≤ c.poolSize ∧
      args fs ≠ [] ∧ s.argPlace c (args fs).length = some va ∧ c.alloc (args fs).length 64 = some (a, c') ∧ c'.num = c.num)
    (fun s t q c p fs img => ∃ g, grid q c p fs img g ∧
      g.args = BitVec.ofNat 64 va ∧ va % 64 = 0 ∧ 0x7f4000000000 ≤ va ∧
      va + (args fs).length ≤ 0x7f4100000000 ∧ (∀ x ∈ s.grids, x.ctx = c.num → 0 < x.argLen →
        va + (args fs).length ≤ x.args.toNat ∨ x.args.toNat + x.argLen ≤ va) ∧ g.argPhys = a ∧
      t.dram.bytes a (args fs).length = args fs ∧ dramBut s t [(a, (args fs).length)] ∧
      ({ s.setCtx c' with
        grids := s.grids ++ [g], fresh := s.fresh + 1, acache := t.acache, dram := t.dram
        poison := t.poison } : State).withQueue t (taken q p (some g.id)))) ∧
  (∀ a h, launch (fun s q c _ fs _ img => (fieldOf fs 5 = none ∨
        (s.trav.role ≠ .none ∧ s.trav.role ≠ .fenced ∧ c.pctx.isSome = true)) ∧ c.poolSize < img.desc.area ∧
      s.queueMem q c q.cmdidx a h [] ∧ s.idleQ q ∧ q.swapped = [] ∧ s.fw.state ≠ .deferred)
    (fun s t q c p _ img => ({ s with acache := t.acache } : State).stoppedQ t q a h
      ⟨q.cmdidx, q.cmdidx.setWidth 32, p.irq, none⟩
      (rejected 0x2b c.c img.desc.area) 0x2b)) ∧
  (∀ a c' x, launch (fun s _ c _ fs _ img => img.desc.area ≤ c.poolSize ∧ fieldOf fs 5 ≠ none ∧ s.trav.role ≠ .none ∧ s.trav.role ≠ .fenced ∧
      c.pctx = some x ∧ c.alloc 8192 8 = some (a, c') ∧ c'.num = c.num ∧
      ∃ n, n < 65536 ∧ ∀ l ∈ s.podCmds, l.handle ≠ n)
    (fun s t q c p fs img => ∃ n, n < 65536 ∧ (∀ l ∈ s.podCmds, l.handle ≠ n) ∧
      t.dram.bytes a (launchRecord img fs).length = launchRecord img fs ∧
      dramBut s t [(a, (launchRecord img fs).length)] ∧
      ({ s.setCtx c' with
        podCmds := s.podCmds ++ [⟨n, c.num, .cmd q.key q.cmdidx p.seq p.irq, none, noStation, a⟩]
        trav := { s.trav with
          pend := s.trav.pend ++ [⟨1, BitVec.ofNat 8 s.pkg, 0, 0,
            BitVec.ofNat 64 (x.toNat + fieldNum fs 5 0 % 2 ^ 9 * 2 ^ 16 +
              fieldNum fs 5 0 / 2 ^ 16 % 16 * 2 ^ 25 + n * 2 ^ 32), img.check, 0⟩] }
        acache := t.acache, dram := t.dram, poison := t.poison } : State).withQueue t (taken q p none))) ∧
  (∀ g q c n idx seq irq p h e, Event (.launchComplete n) (fun s =>
      let u := if g.argLen = 0 then s else s.poolFree g.ctx g.argPhys
      s.grid? n = some g ∧ g.id = n ∧ g.pod = false ∧ g.owner = .cmd q.key idx seq irq ∧ q.state ≠ 6 ∧
      g.queue = some q.key ∧ g.park = 0 ∧ (∀ x ∈ s.parked, x.grid ≠ n) ∧ (∀ r ∈ s.fabricOut, r.grid ≠ some n) ∧
      s.fw.state ≠ .switching ∧
      (∀ b ∈ s.blocks, b.grid ≠ n) ∧ u.queueMem q c idx p h [] ∧
      (g.ending = some e ∨ (g.ending = none ∧ g.quartets ≤ g.nextQuartet ∧ e = ⟨stDone, 0, 0, 0⟩)))
    fun s t =>
      let u := if g.argLen = 0 then s else s.poolFree g.ctx g.argPhys
      ({ u with grids := s.grids.filter fun x => x.id != n } : State).completed t
        { q with flights := q.flights.filter fun f => f.idx != idx } p [] ⟨idx, seq, irq, some n⟩ e
        (BitVec.ofNat 32 (2 ^ 31 + n % 2 ^ 31)) noStation) ∧
  ∀ n, Event (.launchComplete n) (fun s => (∀ b ∈ s.blocks, b.grid ≠ n) ∧ (∀ q ∈ s.queues, q.state ≠ 6) ∧
    ∀ g, s.grid? n = some g → g.pod = true ∨ (g.ending = none ∧ g.nextQuartet < g.quartets)) fun s t => t = s

/-- R23, R25, R26, R273, R408, R409: the other commands once accepted. FLUSH, INVAL and MARK complete at
once, MARK with its tag; INVAL of code drops the instruction lines; SIGNAL updates its word, BRANCH selects
a target from its word; COPY, WAIT and BARRIER run on. A word that cannot be accessed fails the command and
stops the queue. -/
def Obligations.CommandPackets : Prop :=
  let packet (i : Nat → Instr) (type : Nat) (fence : Bool)
      (pre : State → Queue → Ctx → PktHead → List Field → Prop)
      (post : State → State → Queue → Ctx → PktHead → List Field → Prop) : Prop :=
    ∀ q c p fs, Event (i q.key) (fun s => s.accepts q c p fs type fence ∧ pre s q c p fs) fun s t =>
      post s t q c p fs
  let flight (q : Queue) (p : PktHead) : Flight := ⟨q.cmdidx, p.seq, p.irq, none⟩
  let taken (q : Queue) (p : PktHead) : Queue :=
    { q.consumed p with flights := q.flights ++ [flight q p] }
  let ended (s t : State) (q : Queue) (p : PktHead) (at_ : Nat) (rs : List (Nat × Nat)) (e : Ending) :
      Prop := s.completed t (q.consumed p) at_ rs (flight q p) e noGrid noStation
  let done : Ending := ⟨stDone, 0, 0, 0⟩
  let word (fs : List Field) (tag : Nat) : DWord := BitVec.ofNat 64 (fieldNum fs tag 0)
  ∀ (at_ h : Nat),
    let room (s : State) (q : Queue) (c : Ctx) (rs : List (Nat × Nat)) : Prop :=
      s.queueMem q c q.cmdidx at_ h rs ∧ s.idleQ q
    let stops (i : Nat → Instr) (type tag : Nat) (pre : PktHead → List Field → Prop) : Prop :=
      ∀ k x, packet i type true (fun s q c p fs => room s q c [] ∧ q.swapped = [] ∧
          s.fw.state ≠ .deferred ∧ pre p fs ∧ s.wordAt c (word fs tag) = .bad (.cause k x))
        fun s t q _ p fs => s.stoppedQ t (q.consumed p) at_ h (flight q p)
          ⟨stFailed, 0x35, BitVec.ofNat 16 type, word fs tag⟩ 0x35
    let forward (p : PktHead) (x : Word) : Prop := 1 ≤ (x - p.seq).toNat ∧ (x - p.seq).toNat < 2 ^ 31
    let branch (p : PktHead) (fs : List Field) : Prop :=
      forward p (BitVec.ofNat 32 (fieldNum fs 0x42 0)) ∧ ∀ f ∈ fs, f.tag = 0x41 →
        forward p (BitVec.ofNat 32 (bitsOf f.val 32 32))
    packet .flush 7 true (fun s q c _ _ => room s q c []) (fun s t q _ p _ => ended s t q p at_ [] done) ∧
    packet .mark 9 true (fun s q c _ _ => room s q c [])
      (fun s t q _ p fs => ended s t q p at_ [] { done with addr := word fs 0x70 }) ∧
    packet .inval 8 true (fun s q c _ fs => room s q c [] ∧ fieldNum fs 0x61 0 ≠ 1)
      (fun s t q _ p _ => ended s t q p at_ [] done) ∧
    packet .inval 8 true (fun s q c _ fs => room s q c [] ∧ fieldNum fs 0x61 0 = 1 ∧
        (s.cores.map fun e => e.1).Nodup)
      (fun s t q c p fs =>
        let v := ((fieldOf fs 0x60).map fun f => f.val).getD []
        let a := bitsOf v 0 64
        let n := bitsOf v 64 64
        ended { s with cores := t.cores, acache := t.acache } t q p at_ [] done ∧
        ∀ k, { t.core k with icache := [] } = { s.core k with icache := [] } ∧
          ∀ l, l ∈ (t.core k).icache ↔ l ∈ (s.core k).icache ∧
            ¬ (l.ctx = c.num ∧ l.va < a + n ∧ a < l.va + 128)) ∧
    (∀ m w, packet .signal 4 true (fun s q c _ fs =>
        room s q c [(w, 8)] ∧ s.windowAddr c (word fs 0x30).toNat 8 = false ∧
        s.steadyOver ((at_, 32) :: (h, 128) :: [(w, 8)]) c (word fs 0x30).toNat 8 w ∧ s.num w 8 = m)
      (fun s t q c p fs =>
        let op := fieldNum fs 0x32 0
        let v := fieldNum fs 0x31 0 % 2 ^ 64
        ended { s with agenda := t.agenda } t q p at_ [(w, 8)] done ∧
        t.num w 8 = (if op = 0 then v else if op = 1 then (m + v) % 2 ^ 64 else if op = 2 then max m v
          else m ||| v) ∧
        t.agenda = s.agenda ++ match fieldOf fs 0x33 with
          | none => []
          | some f => [.uisendReceive ⟨.own, some c.num, 0, BitVec.ofNat 6 (bitsOf f.val 0 8),
            BitVec.ofNat 64 (bitsOf f.val 32 64)⟩])) ∧
    (∀ x, packet .branch 5 true (fun s q c p fs => room s q c [] ∧ branch p fs ∧
        s.wordAt c (word fs 0x40) = .here x)
      (fun s t q _ p fs => s.completed t { q.consumed p with
        skipTo := some (branchTarget (casesOf fs) (BitVec.ofNat 32 (fieldNum fs 0x42 0)) x) } at_ []
        (flight q p) done noGrid noStation)) ∧
    stops .signal 4 0x30 (fun _ _ => True) ∧ stops .branch 5 0x40 branch ∧
    packet .wait 3 false (fun _ _ _ _ _ => True) (fun s t q _ p fs => s.withQueue t { taken q p with
      holding := some (flight q p, .wait (word fs 0x20) (word fs 0x21) (condOf (fieldNum fs 0x22 0))
        (BitVec.ofNat 32 (fieldNum fs 0x23 0))) }) ∧
    packet .copy 2 false (fun _ _ _ _ _ => True) (fun s t q _ p fs =>
      let chain := (fieldOf fs 0x13).isSome
      s.withQueue t { taken q p with
        copies := q.copies ++ [⟨q.cmdidx, p.seq, p.irq, chain,
          if chain then word fs 0x13 else word fs 0x10, word fs 0x11, fieldNum fs 0x12 0⟩] }) ∧
    packet .barrier 6 false (fun _ _ _ _ _ => True) (fun s t q _ p fs => ∃ names,
      s.withQueue t { taken q p with holding := some (flight q p, .barrier names) } ∧
      ∀ n x, (n, x) ∈ names ↔ ∃ f ∈ fs, f.tag = 0x50 ∧ ∃ u, n = u.key ∧
        s.queues.find? (fun u => u.ctx == q.ctx && u.qnum == bitsOf f.val 0 32) = some u ∧
        let base := (if u.key = q.key then q.cmdidx + 1 else u.cmdidx).toNat
        ∃ m, x = BitVec.ofNat 64 m ∧ m % 2 ^ 32 = bitsOf f.val 32 32 ∧ base ≤ m + 2 ^ 31 ∧
          m < base + 2 ^ 31)

/-- R25, R34, R35, R273, R408: the ends of commands that run on. A held WAIT completes once its condition
holds, fails with WAIT_TIMEOUT when its time expires, and with WORD_FAULT where its word cannot be read; a
BARRIER completes once the rest of its queue and the commands that it names have; a COPY completes with its
bytes copied. -/
def Claims.CommandsEnd : Prop :=
  ∀ (q : Queue) (c : Ctx) (p h : Nat),
    let held (s : State) (f : Flight) (x : Holding) (rs : List (Nat × Nat)) : Prop :=
      s.queueMem q c f.idx p h rs ∧ q.holding = some (f, x)
    let rest (f : Flight) : Queue :=
      { q with holding := none, flights := q.flights.filter fun x => x.idx != f.idx }
    let ends (s t : State) (f : Flight) : Prop :=
      s.completed t (rest f) p [] f ⟨stDone, 0, 0, 0⟩ noGrid noStation
    (∀ f a y cond time, Event (.waitPoll q.key) (fun s => held s f (.wait a y cond time) [] ∧
        q.slot.isSome = true ∧ q.state ≠ 4 ∧ s.fw.state ≠ .switching ∧
        ∃ v, s.wordAt c a = .here v ∧ wcondHolds cond v y = true) fun s t => ends s t f) ∧
    (∀ f a y cond time, Event (.waitPoll q.key) (fun s => held s f (.wait a y cond time) [] ∧
        (q.slot = none ∨ q.state = 4 ∨ s.fw.state = .switching ∨
        ∃ v, s.wordAt c a = .here v ∧ wcondHolds cond v y = false)) fun s t => t = s) ∧
    (∀ f a y cond time k x, Event (.waitPoll q.key) (fun s => held s f (.wait a y cond time) [] ∧
        s.idleQ q ∧ q.slot.isSome = true ∧ q.state = 3 ∧ s.fw.state = .idle ∧ q.swapped = [] ∧
        s.wordAt c a = .bad (.cause k x)) fun s t =>
      s.stoppedQ t (rest f) p h f ⟨stFailed, 0x35, 3, a⟩ 0x35) ∧
    (∀ f a y cond time, Event (.waitTimeout q.key) (fun s => held s f (.wait a y cond time) [] ∧
        s.idleQ q ∧ time ≠ 0 ∧ q.slot.isSome = true ∧ q.state = 3 ∧ q.swapped = [] ∧ s.fw.state ≠ .switching ∧
        s.fw.state ≠ .deferred) fun s t =>
      s.stoppedQ t (rest f) p h f ⟨stFailed, 0x2a, 0, a⟩ 0x2a) ∧
    (∀ f a y cond time, Event (.waitTimeout q.key) (fun s => held s f (.wait a y cond time) [] ∧
        (time = 0 ∨ q.slot = none ∨ q.state = 4)) fun s t => t = s) ∧
    (let waits (s : State) (f : Flight) (names : List (Nat × DWord)) : Prop :=
      (∃ x ∈ q.flights, x.idx ≠ f.idx) ∨ ∃ n ∈ names, ∃ u, s.queue? n.1 = some u ∧
        (u.cmdidx.toNat ≤ n.2.toNat ∨ ∃ x ∈ u.flights, x.idx = n.2)
    (∀ f names, Event (.barrierSatisfied q.key) (fun s => held s f (.barrier names) [] ∧
        s.fw.state ≠ .switching ∧ ¬ waits s f names) fun s t => ends s t f) ∧
    (∀ f names, Event (.barrierSatisfied q.key) (fun s => held s f (.barrier names) [] ∧
        (s.fw.state = .switching ∨ waits s f names)) fun s t => t = s)) ∧
    ∀ j src dst, Event (.copyComplete q.key j.idx.toNat) (fun s =>
        s.queueMem q c j.idx p h [(dst, j.len)] ∧ q.copies.find? (fun x => x.idx == j.idx) = some j ∧
        j.chain = false ∧ 0 < j.len ∧ s.priFailed = [] ∧ s.fw.state ≠ .switching ∧
        s.steadyOver ((p, 32) :: (h, 128) :: [(dst, j.len)]) c j.src.toNat j.len src ∧
        s.steadyOver ((p, 32) :: (h, 128) :: [(dst, j.len)]) c j.dst.toNat j.len dst ∧
        (src + j.len ≤ dst ∨ dst + j.len ≤ src)) fun s t =>
      s.completed t { q with
        copies := q.copies.filter fun x => x.idx != j.idx
        flights := q.flights.filter fun x => x.idx != j.idx } p [(dst, j.len)]
        ⟨j.idx, j.seq, j.irq, none⟩ ⟨stDone, 0, 0, 0⟩ noGrid noStation ∧
      ∀ k, k < j.len → t.dram.byte (dst + k) = s.dram.byte (src + k)

/-- Packets at the head of a queue: checks, rejection, skipping; ends of commands: Claims.PacketsAtHead and
Claims.CommandsEnd. -/
def Obligations.PacketsAndTheirEnds : Prop :=
  Claims.PacketsAtHead ∧ Claims.CommandsEnd

/- ### Queues and slots -/

/-- R31, R32, R35, R39, R40, R44: WTAIL and WCQDONE keep the largest value written. A redirected tail is
latched in the header and makes an idle queue ready; a tail beyond range stops the queue, with its entry
written at once in MAPPED and later by LATCHED_TAIL_RANGE_ENTRY otherwise. While the firmware switches, the port
holds the largest tail of each queue. -/
def Obligations.WakePort : Prop :=
  ∀ (q : Queue) (v : DWord),
    let ready (s : State) : Prop := s.queue? q.key = some q ∧ s.fw.state ≠ .switching
    let beyond : Prop := q.head.toNat + 2 ^ q.ringLog2 < v.toNat
    let away : Prop := q.slot = none ∨ 2 < q.unmapStep
    let header (s : State) (h : Nat) : Prop := ∃ c, s.ctx? q.ctx = some c ∧
      s.steadyOver [(h, 128)] c q.header.toNat 128 h
    let range (q : Queue) : Flight := ⟨q.cmdidx, q.cmdidx.setWidth 32, false, none⟩
    let entry : Ending := ⟨stRejected, 0x30, 0, v⟩
    Event (.wtail q.key v) (fun s => ready s ∧ ¬ beyond ∧ ¬ away)
      (fun s t => s.withQueue t { q with tail := if v.toNat ≤ q.tail.toNat then q.tail else v }) ∧
    Event (.wtail q.key v) (fun s => ready s ∧ ¬ beyond ∧ away ∧
        v.toNat ≤ max q.tail.toNat q.wakelatch.toNat)
      (fun s t => t = s) ∧
    (∀ h, Event (.wtail q.key v) (fun s => ready s ∧ ¬ beyond ∧ away ∧
        max q.tail.toNat q.wakelatch.toNat < v.toNat ∧ q.state ≠ 0 ∧ header s h) fun s t => dramBut s t [(h, 128)] ∧ t.num (h + 80) 8 = v.toNat ∧
      ({ s with dram := t.dram } : State).withQueue t { q with wakelatch := v }) ∧
    (∀ h, Event (.wtail q.key v) (fun s => ready s ∧ ¬ beyond ∧ away ∧
        max q.tail.toNat q.wakelatch.toNat < v.toNat ∧ q.state = 0 ∧ q.head.toNat < v.toNat ∧ header s h) fun s t => dramBut s t [(h, 128)] ∧
      t.num (h + 80) 8 = v.toNat ∧ t.num (h + 32) 1 % 8 = 1 ∧ q.key ∈ (t.die q.home).ready ∧
      (∀ d, d ≠ q.home → t.die d = s.die d) ∧
      ({ s with dram := t.dram, dies := t.dies } : State).withQueue t
        { q with wakelatch := v, state := 1 }) ∧
    Event (.wtail q.key v) (fun s => ready s ∧ beyond ∧ (q.state = 5 ∨ q.state = 6 ∨ q.toStopped = true))
      (fun s t => t.queues = s.queues) ∧
    (∀ c p h, Event (.wtail q.key v) (fun s => s.queueMem q c q.cmdidx p h [] ∧ beyond ∧ q.state = 3 ∧ s.idleQ q ∧
        q.toStopped = false ∧ q.swapped = [] ∧ s.fw.state ≠ .switching ∧ s.fw.state ≠ .deferred) fun s t => s.stoppedQ t q p h (range q) entry 0x30) ∧
    Event (.wtail q.key v) (fun s => ready s ∧ beyond ∧ q.state = 2 ∧ q.toStopped = false)
      (fun s t => s.withQueue t { q with rangeLatched := some v }) ∧
    (∀ h, Event (.wtail q.key v) (fun s => ready s ∧ beyond ∧ (q.state = 0 ∨ q.state = 1) ∧
        q.toStopped = false ∧ header s h)
      fun s t => dramBut s t [(h, 128)] ∧ t.num (h + 32) 1 % 8 = 5 ∧ t.num (h + 96) 1 = 0x30 ∧
      ({ s with dram := t.dram } : State).withQueue t
        { q with rangeLatched := some v, stopclass := 0x30, state := 5 }) ∧
    (∀ c p h, Event (.latchedTailRangeEntry q.key) (fun s => s.queueMem q c q.cmdidx p h [] ∧
        s.fw.state ≠ .switching ∧ q.state ≠ 2 ∧ q.rangeLatched = some v) fun s t =>
      s.completed t { q with rangeLatched := none } p [] (range q) entry noGrid noStation) ∧
    Event (.latchedTailRangeEntry q.key) (fun s => s.queue? q.key = some q ∧ (q.rangeLatched = none ∨ q.state = 2))
      (fun s t => t = s) ∧
    Event (.wtail q.key v) (fun s => s.queue? q.key = some q ∧ s.fw.state = .switching) (fun s t =>
      ({ t with fw := s.fw } : State) = s ∧ t.fw = { s.fw with port := t.fw.port } ∧
      ∃ x : DWord, .wtail q.key x ∈ t.fw.port ∧ v.toNat ≤ x.toNat ∧
        ∀ y : DWord, .wtail q.key y ∈ s.fw.port → y.toNat ≤ x.toNat) ∧
    Event (.wcqdone q.key v) ready
      (fun s t => s.withQueue t { q with cqdone := if v.toNat ≤ q.cqdone.toNat then q.cqdone else v })

/-- R29, R36, R44: RESTART acts on a stopped queue alone. It clears STOPCLASS and WAKELATCH, sets the kept tail
to HEAD and leads to IDLE or MAPPED; with SKIP after a rejection it passes the packet at HEAD; after CQ_FAULT
the kept entry is written again or dropped; after SAVE_FAULT the queue state is written again. ABORT ends the
local grids and completes every other command. -/
def Obligations.QueueControl : Prop :=
  ∀ (q : Queue) (c : Ctx) (h : Nat) (i : Instr),
    let both : Prop := i = .wctlRestart q.key ∨ i = .wctlRestartSkip q.key
    let stopped (s : State) : Prop := s.queue? q.key = some q ∧ s.ctx? q.ctx = some c ∧
      s.fw.state ≠ .switching ∧ (q.state = 5 ∨ q.state = 6) ∧ q.unmapStep = 0 ∧ q.swapped = []
    let header (s : State) (rs : List (Nat × Nat)) : Prop :=
      s.steadyOver ((h, 128) :: rs) c q.header.toNat 128 h
    let again (s t : State) (q : Queue) : Prop :=
      ({ s with dram := t.dram } : State).withQueue t { q with
        stopclass := 0, wakelatch := 0, uilatch := false, tail := q.head, rangeLatched := none
        state := if q.state = 6 then 3 else 0 } ∧
      t.num (h + 32) 1 % 8 = (if q.state = 6 then 3 else 0) ∧ t.num (h + 80) 8 = 0 ∧
      t.num (h + 96) 1 = 0
    let plain : List (BitVec 8) := [0, 0x2a, 0x30, 0x31, 0x32, 0x33, 0x35]
    (both ∨ i = .wctlAbort q.key → Event i (fun s => s.queue? q.key = some q ∧ s.fw.state = .switching)
      fun s t => t = { s with fw := { s.fw with port := s.fw.port ++ [i] } }) ∧
    (both → Event i (fun s => s.queue? q.key = some q ∧ s.fw.state ≠ .switching ∧
      ((q.state ≠ 5 ∧ q.state ≠ 6) ∨ q.unmapStep ≠ 0)) fun s t => t = s) ∧
    (both → Event i (fun s => stopped s ∧ header s [] ∧ q.stopclass ≠ 0x32 ∧ q.stopclass ≠ 0x33 ∧
      (i = .wctlRestart q.key ∨ q.stopclass ∈ plain)) fun s t =>
      again s t q ∧ dramBut s t [(h, 128)]) ∧
    (∀ r, Event (.wctlRestartSkip q.key) (fun s => stopped s ∧ header s [] ∧ q.stopclass ∉ plain ∧
        s.steady c (q.ringBase.toNat + 256 * (q.head.toNat % 2 ^ q.ringLog2)) 16 r) fun s t =>
      let n := s.num (r + 5) 1
      let k := if 1 ≤ n ∧ n ≤ 2 ^ q.ringLog2 then n else 1
      again s t { q with
        head := q.head + BitVec.ofNat 64 k, cmdidx := q.cmdidx + 1
        skipTo := q.skipTo.filter fun x => x != q.cmdidx.setWidth 32 } ∧
      dramBut s t [(h, 128)]) ∧
    (Event (.wctlRestartSkip q.key) (fun s => stopped s ∧ header s [] ∧ q.stopclass = 0x32)
      fun s t => again s t { q with kept := [] } ∧ dramBut s t [(h, 128)]) ∧
    (∀ e p, Event (.wctlRestart q.key) (fun s => stopped s ∧ header s [(p, 32)] ∧ q.stopclass = 0x32 ∧
        q.kept = [e] ∧ e.bytes.length = 32 ∧ (p + 32 ≤ h ∨ h + 128 ≤ p) ∧
        s.steadyOver ((h, 128) :: [(p, 32)]) c (q.cqAddr e.idx) 32 p) fun s t =>
      t.dram.bytes p 32 = e.bytes ∧ dramBut s t [(p, 32), (h, 128)] ∧
      (if e.irq then Vectored s t q.fn q.msixv else t.funcs = s.funcs ∧ t.msix = s.msix) ∧
      again { s with funcs := t.funcs, msix := t.msix } t { q with kept := [] }) ∧
    (both → Event i (fun s => stopped s ∧ header s [] ∧ q.stopclass = 0x33) fun s t =>
      again s t { q with saveKept := false } ∧ dramBut s t [(h, 128)] ∧
      t.num (h + 48) 8 = q.head.toNat ∧ t.num (h + 56) 8 = q.cmdidx.toNat ∧
      t.num (h + 64) 8 = q.cqdone.toNat) ∧
    Event (.wctlAbort q.key) (fun s => s.queue? q.key = some q ∧ s.fw.state ≠ .switching ∧ q.unmapStep ≠ 0)
      (fun s t => s.withQueue t { q with abortDue := true }) ∧
    Event (.wctlAbort q.key) (fun s => s.queue? q.key = some q ∧ s.fw.state ≠ .switching ∧ q.unmapStep = 0)
      (fun s t => ∀ g ∈ s.grids, g.queue = some q.key → g.pod = false → g.complete = false →
        (∀ r ∈ s.fabricOut, r.grid ≠ some g.id) → t.grid? g.id = none) ∧
    ∀ f p, Event (.wctlAbort q.key) (fun s => s.queueMem q c f.idx p h [] ∧ q.unmapStep = 0 ∧
        q.flights = [f] ∧ s.fw.state ≠ .switching ∧ s.fw.state ≠ .deferred ∧
        ∀ g ∈ s.grids, ¬ (g.queue = some q.key ∧ g.pod = false ∧ g.complete = false)) fun s t =>
      t.entryAt q p f.idx f.seq ⟨stAborted, 0x31, 0, 0⟩ noGrid noStation ∧
      dramBut s t [(p, 32), (h, 128)] ∧
      (if f.irq then Vectored s t q.fn q.msixv else t.funcs = s.funcs ∧ t.msix = s.msix) ∧
      ∃ r, ({ s with
        dram := t.dram, funcs := t.funcs, msix := t.msix, podCmds := t.podCmds
        fabricOut := t.fabricOut } : State).withQueue t r ∧
        r.state = 5 ∧ r.slot = none ∧ r.stopclass = 0x31 ∧ r.flights = [] ∧ r.holding = none ∧
        r.copies = [] ∧ r.swapped = [] ∧ r.head = q.head ∧ r.cmdidx = q.cmdidx ∧
        t.num (h + 32) 1 % 8 = 5 ∧ t.num (h + 96) 1 = 0x31

/-- R29, R37 to R40, R44: a slot expiry, the grant of a slot, its load, the start of an unmapping and its
save. Ready queues are granted the lowest free slot in descending priority; one that finds none free chooses a
victim, or waits until a slot frees or a slice expires (log entry 57: the model's reading); a queue without blocks on cores is
saved and leaves its slot for READY, IDLE or STOPPED. -/
def Obligations.SlotScheduling : Prop :=
  (∀ (s : State) (die : Nat) (q r : Queue), s.nextReady die = some q → s.queue? r.key = some r → r ∈ s.queues → r.home = die →
    s.competes r = true → s.queuePrio r ≤ s.queuePrio q) ∧
  (∀ (s : State) (die k : Nat), s.freeSlot die = some k ↔ k < Config.slotsPerDie ∧
    (∀ q ∈ s.queues, ¬ (q.home = die ∧ q.slot = some k)) ∧
    ∀ j, j < k → ∃ q ∈ s.queues, q.home = die ∧ q.slot = some j) ∧
  ∀ (q : Queue) (c : Ctx) (h die : Nat),
    let mapped (s : State) : Prop := s.queue? q.key = some q ∧ s.fw.state ≠ .switching
    let header (s : State) : Prop := s.ctx? q.ctx = some c ∧ s.steady c q.header.toNat 128 h
    let becomes (s t : State) (r : Queue) : Prop :=
      ({ s with dram := t.dram, dies := t.dies } : State).withQueue t r ∧ dramBut s t [(h, 128)] ∧
      t.num (h + 32) 1 % 8 = r.state
    Event (.sliceExpiry q.key) (fun s => mapped s ∧ q.slot.isSome = true ∧
        ((∃ b ∈ s.localBlocks q.key, ∃ w ∈ b.warps, ∃ e ∈ w.frontier, e.park ≠ 3 ∧ e.park ≠ 4) ∨
          ∃ p fs, s.atHead q = .ok p fs))
      (fun s t => ({ s with dies := t.dies } : State).withQueue t { q with sliceExpired := true } ∧
        ∀ d, t.die d = if d = q.home then { s.die d with
          seeks := (s.die d).seeks.filter fun e => e.victim.isSome } else s.die d) ∧
    Event (.sliceExpiry q.key) (fun s => s.queue? q.key = some q ∧
      (q.slot = none ∨ s.fw.state = .switching ∨ (q.tail.toNat ≤ q.head.toNat ∧
        ∀ b ∈ s.localBlocks q.key, ∀ w ∈ b.warps, ∀ e ∈ w.frontier, e.park = 3 ∨ e.park = 4)))
      (fun s t => t = s) ∧
    Event (.slotGrant die) (fun s => s.fw.state = .switching ∨ s.nextReady die = none)
      (fun s t => t = s) ∧
    (∀ k, Event (.slotGrant die) (fun s => mapped s ∧ header s ∧ q.saveptr = 0 ∧
        s.fw.state ≠ .deferred ∧ s.nextReady die = some q ∧ s.freeSlot die = some k ∧ q.state < 8)
      fun s t => becomes s t { q with
        slot := some k, sliceExpired := false, wakelatch := 0, uilatch := false
        tail := if q.tail.toNat < q.wakelatch.toNat then q.wakelatch else q.tail
        state := if q.state = 5 then 6 else 2 } ∧ t.num (h + 80) 8 = 0 ∧ q.key ∉ (t.die die).ready ∧
        (t.die die).seeks = ((s.die die).seeks.filter fun e => e.queue != q.key && e.victim.isSome) ∧ ∀ d, d ≠ die → t.die d = s.die d) ∧
    (∀ r, Event (.slotGrant die) (fun s => mapped s ∧ header s ∧ s.nextSeeker die = some r ∧
        s.freeSlot die = none ∧ s.victim die (s.queuePrio r) = some q ∧ s.localBlocks q.key = []) fun s t =>
      becomes s t { q with state := 4, unmapStep := 2, toStopped := q.state == 6 } ∧
      (t.die die).lastVictim = q.slot.getD 0 ∧
      Seek.mk r.key (s.queuePrio r) (some q.key) ∈ (t.die die).seeks) ∧
    (∀ r, Event (.slotGrant die) (fun s => s.fw.state ≠ .switching ∧ s.nextSeeker die = some r ∧
        s.freeSlot die = none ∧ s.victim die (s.queuePrio r) = none) fun s t =>
      { s with dies := t.dies } = t ∧ (∀ d, d ≠ die → t.die d = s.die d) ∧
      t.die die = { s.die die with seeks :=
        ((s.die die).seeks.filter fun e => e.queue != r.key) ++ [⟨r.key, s.queuePrio r, none⟩] }) ∧
    Event (.slotGrant die) (fun s => s.freeSlot die = none ∧ ∀ r ∈ s.candidates die,
        ∃ e ∈ (s.die die).seeks, e.queue = r.key ∧ ((e.victim = none ∧ s.queuePrio r ≤ e.prio) ∨
          ∃ v u, e.victim = some v ∧ s.queue? v = some u ∧ u.state = 4 ∧ u.slot.isSome = true))
      (fun s t => t = s) ∧
    Event (.slotLoaded q.key) (fun s => mapped s ∧ header s ∧ q.state = 2 ∧ q.stopclass = 0 ∧
        q.rangeLatched = none) (fun s t => t.dies = s.dies ∧ becomes s t { q with state := 3 }) ∧
    Event (.slotLoaded q.key) (fun s => mapped s ∧ header s ∧ q.state = 2 ∧ q.stopclass ≠ 0 ∧
        s.localLive q.key = true) (fun s t => t.dies = s.dies ∧ becomes s t { q with state := 6 }) ∧
    (∀ p v, Event (.slotLoaded q.key) (fun s => s.queueMem q c q.cmdidx p h [] ∧ q.state = 2 ∧
        s.fw.state = .idle ∧ s.idleQ q ∧ q.stopclass = 0 ∧ q.rangeLatched = some v ∧ q.swapped = []) fun s t =>
      s.stoppedQ t { q with rangeLatched := none } p h ⟨q.cmdidx, q.cmdidx.setWidth 32, false, none⟩
        ⟨stRejected, 0x30, 0, v⟩ 0x30) ∧
    Event (.slotLoaded q.key) (fun s => s.queue? q.key = some q ∧
      (q.state ≠ 2 ∨ s.fw.state = .switching)) (fun s t => t = s) ∧
    Event (.unmapSave q.key) (fun s => mapped s ∧ header s ∧ s.fw.state ≠ .deferred ∧ q.unmapStep ≠ 0 ∧
        s.localBlocks q.key = [] ∧ s.queueBusy q = false ∧ q.swapped = [] ∧ q.abortDue = false ∧ q.state < 8)
      (fun s t =>
        let stop : Prop := q.toStopped = true ∨ q.state = 5
        let more : Prop := q.head.toNat < max q.tail.toNat q.wakelatch.toNat ∨ q.uilatch = true
        (stop → becomes s t { q with
          slot := none, saveptr := 0, unmapStep := 0, toStopped := false, state := 5 }) ∧
        (¬ stop → becomes s t { q with
          slot := none, saveptr := 0, unmapStep := 0, toStopped := false
          state := if q.head.toNat < max q.tail.toNat q.wakelatch.toNat ∨ q.uilatch = true then 1
            else 0 }) ∧
        (¬ stop → more → q.key ∈ (t.die q.home).ready) ∧ t.num (h + 48) 8 = q.head.toNat ∧
        t.num (h + 56) 8 = q.cmdidx.toNat ∧ t.num (h + 64) 8 = q.cqdone.toNat ∧
        t.num (h + 72) 8 = q.tail.toNat ∧ t.num (h + 88) 8 = 0) ∧
    Event (.unmapSave q.key) (fun s => s.queue? q.key = some q ∧ (q.unmapStep = 0 ∨
      s.fw.state = .switching ∨ s.localBlocks q.key ≠ [] ∨ s.queueBusy q = true)) (fun s t => t = s)

/- ### The traverse and the pod -/

/-- R47 to R49, R59, R60, R66, R67: batches, votes and the closing of a station. A member sends one batch a
station, votes against the members whose batch it lacks once its own is sent, forwards what a vote names (of the
station closed last too), closes once every batch is there, and fences itself where its closure word loses. -/
def Claims.Stations : Prop :=
  let own (s : State) : Prop := s.trav.role = .member ∧ s.memState s.pkg = 1
  let next (s : State) : DWord := s.station + 1
  let due (s : State) : Prop := s.trav.sent = false ∧
    (s.trav.pend ≠ [] ∨ s.trav.batches ≠ [] ∨ s.trav.suspects ≠ [])
  let voted (s t : State) (lost : Nat → Prop) (rest : Traverse → Traverse) : Prop :=
    ∃ m : BitVec 256, (∀ p, p < 256 → (m.getLsbD p = true ↔ lost p)) ∧
      t = { s with
        outbox := s.outbox ++ [.vote (next s) m]
        trav := rest { s.trav with
          votes := (s.trav.votes.filter fun v => v.voter != s.pkg) ++ [⟨s.pkg, m⟩] } }
  let recs (s : State) : List EvRec :=
    (if s.trav.pend = [] then [emptyRec s.pkg] else s.trav.pend.take 64).map fun e => { e with pclose := s.pw 1 }
  let suspected (s : State) : Prop := ∃ q ∈ s.trav.suspects, q ∈ s.missing ∧ q ≠ s.pkg
  Event .batchSend (fun s => own s ∧ due s ∧ ¬ suspected s) (fun s t => t = { s with
      trav := { s.trav with
        sent := true, pend := s.trav.pend.drop 64
        batches := s.trav.batches ++ [⟨s.pkg, recs s⟩] }
      outbox := s.outbox ++ [.batch (next s) (recs s)] } ∧ 0 < (recs s).length ∧ (recs s).length ≤ 64) ∧
  Event .batchSend (fun s => own s ∧ due s ∧ suspected s) (fun s t => ∃ m : BitVec 256,
    (∀ p, p < 256 → (m.getLsbD p = true ↔ p ∈ s.missing ∧ p ≠ s.pkg)) ∧ t = { s with
      trav := { s.trav with
        sent := true, pend := s.trav.pend.drop 64
        batches := s.trav.batches ++ [⟨s.pkg, recs s⟩]
        votes := (s.trav.votes.filter fun v => v.voter != s.pkg) ++ [⟨s.pkg, m⟩] }
      outbox := s.outbox ++ [.batch (next s) (recs s)] ++ [.vote (next s) m] }) ∧
  Event .batchSend (fun s => ¬ (own s ∧ due s)) (fun s t => t = s) ∧
  (∀ sender recs st, Event (.batchReceive st sender recs) (fun s => s.trav.role = .member ∧ recs ≠ [] ∧
      st = next s ∧ sender ∈ s.members ∧ (s.batchOf sender).isSome = false ∧
      ∀ v ∈ s.trav.votes, v.voter ≠ s.pkg) fun s t =>
    t = { s with trav := { s.trav with batches := s.trav.batches ++ [⟨sender, recs.take 64⟩] } }) ∧
  (∀ sender recs st, Event (.batchReceive st sender recs) (fun s => s.trav.role = .member ∧ st = next s ∧
      (recs = [] ∨ sender ∉ s.members ∨ (s.batchOf sender).isSome = true)) fun s t => t = s) ∧
  (∀ sender recs st, Event (.batchReceive st sender recs) (fun s => s.trav.role = .member ∧ st ≠ next s ∧
      st.toNat ≤ s.station.toNat) fun s t => t = s) ∧
  (∀ sender recs st, Event (.batchReceive st sender recs) (fun s => s.trav.role = .member ∧ recs ≠ [] ∧
      st ≠ next s ∧ s.station.toNat < st.toNat ∧ ∀ p ∈ s.trav.later, ¬ (p.1 = st ∧ p.2.sender = sender)) fun s t =>
    t = { s with trav := { s.trav with later := s.trav.later ++ [(st, ⟨sender, recs.take 64⟩)] } }) ∧
  Event .suspectTimeout (fun s => own s ∧ s.trav.sent = true ∧ s.missing ≠ [])
    (fun s t => voted s t (fun p => p ∈ s.missing) id) ∧
  Event .suspectTimeout (fun s => ¬ (own s ∧ s.trav.sent = true ∧ s.missing ≠ [])) (fun s t => t = s) ∧
  (∀ q, Event (.unreachableReport q) (fun s => own s ∧ q ≠ s.pkg ∧ q ∈ s.missing ∧
      q ∉ s.trav.suspects ∧ s.trav.sent = true) fun s t => voted s t (fun p => p ∈ s.missing)
    fun r => { r with suspects := s.trav.suspects ++ [q] }) ∧
  (∀ q, Event (.unreachableReport q) (fun s => own s ∧ q ≠ s.pkg ∧ q ∈ s.missing ∧
      q ∉ s.trav.suspects ∧ s.trav.sent = false) fun s t =>
    t = { s with trav := { s.trav with suspects := s.trav.suspects ++ [q] } }) ∧
  (∀ q, Event (.unreachableReport q) (fun s => ¬ own s ∨ q = s.pkg ∨ q ∉ s.members) fun s t => t = s) ∧
  (∀ voter st m, Event (.voteReceive voter st m) (fun s => own s ∧ voter ∈ s.members)
    fun s t => if st = next s then t = { s with
        trav := { s.trav with
          votes := (s.trav.votes.filter fun v => v.voter != voter) ++ [⟨voter, m⟩] }
        outbox := s.outbox ++ (s.trav.batches.filter fun b => m.getLsbD b.sender).map fun b =>
          Msg.forward voter st b.sender b.recs }
      else if st = s.station then t = { s with
        outbox := s.outbox ++ (s.trav.closed.filter fun b => m.getLsbD b.sender).map fun b =>
          Msg.forward voter st b.sender b.recs }
      else if s.station.toNat < st.toNat then t = { s with
        trav := { s.trav with
          laterVotes := (s.trav.laterVotes.filter fun p => p.1 != st || p.2.voter != voter) ++
            [(st, ⟨voter, m⟩)] }
        outbox := s.outbox ++ (((s.trav.later.filter fun p => p.1 == st).map fun p => p.2).filter fun b =>
          m.getLsbD b.sender).map fun b => Msg.forward voter st b.sender b.recs }
      else t = s) ∧
  Event .stationClose (fun s => s.trav.role = .member ∧ (∀ v ∈ s.trav.votes, v.suspect = 0) ∧
    s.missing ≠ []) (fun s t => t = s) ∧
  (∀ v, Event .stationClose (fun s => own s ∧ s.pkg ∈ s.members ∧ s.missing = [] ∧ s.rows = [] ∧
      s.fabricOut = [] ∧
      s.trav.joins = [] ∧ ∀ p ∈ s.members, ∀ b, s.batchOf p = some b →
        ∃ e, b.recs = [e] ∧ e.type = 0 ∧ e.pclose = v) fun s t =>
    { t with plat := s.plat, trav := s.trav } = s ∧ t.pw 0 = next s ∧
    t.pw 1 = (s.pw 1).rotateLeft 1 ∧ (∀ k, 1 < k → t.pw k = s.pw k) ∧
    t.trav = { s.trav with
      sent := false, suspects := [], closed := s.trav.batches
      votes := ((s.trav.laterVotes.filter fun p => p.1 == next s + 1).map fun p => p.2).filter fun v =>
        s.memState v.voter == 1
      laterVotes := s.trav.laterVotes.filter fun p => p.1 != next s + 1
      batches := ((s.trav.later.filter fun p => p.1 == next s + 1).map fun p => p.2).filter fun b =>
        s.memState b.sender == 1
      later := s.trav.later.filter fun p => p.1 != next s + 1 }) ∧
  ∀ a v, a ≠ v → Event .stationClose (fun s => own s ∧ s.pkg ∈ s.members ∧ s.missing = [] ∧
      3 ≤ s.members.length ∧ ∀ p ∈ s.members, ∀ b, s.batchOf p = some b →
        b.pclose = if p = s.pkg then a else v) fun _ t =>
    t.trav.role = .fenced ∧ t.memState t.pkg = 2 ∧ t.rows = [] ∧ t.podCmds = [] ∧
    ∀ g ∈ t.grids, g.pod = false

/-- R51, R64, R65, R70, R78, R79: joining, and the ranks of pod grids. A sponsor raises JOIN records for the
package that asks, and tells a refused joiner so; a snapshot starts the replay; a START row gives this package's rank its record, which is
offered once no local block holds its parcels; a rank whose blocks have ended raises FINISH. -/
def Claims.PodGrids : Prop :=
  let own (s : State) : Prop := s.trav.role = .member ∧ s.memState s.pkg = 1
  let raises (s : State) (type : BitVec 8) (flags : BitVec 16) (grid : BitVec 32) (a b : DWord) : State :=
    s.raised [⟨type, BitVec.ofNat 8 s.pkg, flags, grid, a, b, 0⟩]
  (∀ p row, Event (.joinRequest p (.openRow row)) own fun s t =>
    t = raises s 7 0 0 (BitVec.ofNat 64 p) (if s.memState p = 0 then row else 0)) ∧
  (∀ p, Event (.joinRequest p .allow) (fun s => own s ∧ p ∈ s.trav.joins) fun s t =>
    t = raises s 7 1 0 (BitVec.ofNat 64 p) 0) ∧
  (∀ p, Event (.joinRequest p .abandon) (fun s => own s ∧ p ∈ s.trav.joins) fun s t =>
    t = raises s 7 2 0 (BitVec.ofNat 64 p) 0) ∧
  (∀ p ask, Event (.joinRequest p ask) (fun s =>
    (¬ own s ∧ ¬ (s.trav.sponsor = some p ∧ ask = .abandon)) ∨
      (own s ∧ p ∉ s.trav.joins ∧ (ask = .allow ∨ ask = .abandon))) fun s t => t = s) ∧
  (∀ p, Event (.joinRequest p .abandon) (fun s => ¬ own s ∧ s.trav.sponsor = some p) fun s t =>
    t.trav = { s.trav with sponsor := none } ∧
    ((∀ f ∈ s.funcs, f.await ≠ some .join) → t = { s with trav := t.trav })) ∧
  (∀ p, Event (.joinProgressCheck p) (fun s => own s ∧ p ∈ s.trav.joins ∧ s.memState p = 3) fun s t =>
    t = raises s 7 2 0 (BitVec.ofNat 64 p) 0) ∧
  (∀ p, Event (.joinProgressCheck p) (fun s => ¬ (own s ∧ p ∈ s.trav.joins ∧ s.memState p = 3))
    fun s t => t = s) ∧
  (∀ st words, Event (.snapshotLoad st words) (fun s => s.trav.sponsor ≠ none ∧
      s.trav.role ≠ .member ∧ s.trav.role ≠ .replaying ∧ (words.map fun e => e.1).Nodup) fun s t =>
    { t with plat := s.plat, trav := s.trav } = s ∧ t.trav.role = .replaying ∧ t.trav.sent = false ∧
    t.pw 0 = st ∧ (∀ e ∈ words, 0 < e.1 → e.1 < 19752 → t.pw e.1 = e.2) ∧
    ∀ k, 0 < k → (∀ e ∈ words, e.1 ≠ k) → t.pw k = platReset k) ∧
  (∀ st words, Event (.snapshotLoad st words) (fun s => s.trav.sponsor = none ∨
    s.trav.role = .member ∨ s.trav.role = .replaying) fun s t => t = s) ∧
  (∀ r row bs c img, Event (.startOffer r.grid) (fun s => s.rows = [r] ∧ r.kind = .start ∧
      s.rowOf r.grid = some row ∧ s.rowState row = 2 ∧ s.rowOrigin row = s.pkg ∧
      s.recordBytes (s.rowHandle row) = some bs ∧ s.podCtx (s.rowPctx row) = some c ∧
      img.check = s.pw (rowWord row 2) ∧ img.desc.area ≤ c.poolSize ∧ bitsOf bs 32 16 = 0 ∧
      s.blocks = [] ∧ s.heldRemote = [] ∧ s.trav.role ≠ .fenced ∧ s.fw.state ≠ .switching ∧
      s.grid? r.grid = none ∧ ∃ u, (s.keepLaunch r.grid bs).readImage c 5 (leNat ((bs.drop 2).take 2))
        (BitVec.ofNat 64 (bitsOf bs 64 64)) = .ok u img) fun s t =>
    ∃ g, g.id = r.grid ∧ g.pod = true ∧ g.ctx = c.num ∧ g.img = img ∧ g.rank = r.rank ∧
      g.nrank = s.rowN row ∧ g.parcels = r.mask ∧ g.offered = true ∧ g.ending = none ∧
      g.entry = leNat ((bs.drop 2).take 2) ∧
      t = { s with
        rows := [], acache := t.acache, grids := s.grids ++ [g]
        launches := (s.launches.filter fun e => e.1 != r.grid) ++ [(r.grid, bs)] }) ∧
  (∀ g, Event (.startOffer g.id) (fun s => s.rows = [] ∧ s.heldRemote = [] ∧ s.grid? g.id = some g ∧
      g.pod = true ∧ g.offered = false ∧ g.ending = none ∧ ∀ b ∈ s.blocks, b.ended = false →
        b.res = .resident → g.parcels.getLsbD (2 * b.die + b.quad / 24) = true →
        ∃ h, s.grid? b.grid = some h ∧ h.pod = true) fun s t => { t with grids := s.grids } = s ∧
    ∀ n, t.grid? n = if n = g.id then some { g with offered := true } else s.grid? n) ∧
  (∀ g h b, Event (.startOffer g.id) (fun s => s.rows = [] ∧ s.grid? g.id = some g ∧ b ∈ s.blocks ∧
      b.ended = false ∧ b.res = .resident ∧ g.parcels.getLsbD (2 * b.die + b.quad / 24) = true ∧
      s.grid? b.grid = some h ∧ h.pod = false) fun s t => t = s) ∧
  (∀ g, Event (.raiseFinish g.id) (fun s => s.grid? g.id = some g ∧ (∀ b ∈ s.blocks, b.grid ≠ g.id) ∧
      g.pod = true ∧ g.offered = true ∧ g.complete = false ∧ g.stopped = false ∧ g.ending = none ∧
      g.quartets ≤ g.nextQuartet) fun s t =>
    { t with grids := s.grids } = raises s 2 0 (BitVec.ofNat 32 g.id) 0 0 ∧
    ∀ n, t.grid? n = if n = g.id then some { g with complete := true } else s.grid? n) ∧
  ∀ g, Event (.raiseFinish g.id) (fun s => s.grid? g.id = some g ∧ (∀ b ∈ s.blocks, b.grid ≠ g.id) ∧
      (g.pod = false ∨ g.offered = false ∨ g.complete = true ∨ g.stopped = true ∨ g.ending ≠ none ∨
      g.nextQuartet < g.quartets)) fun s t => t = s

/-- Stations of the pod's traverse, joining, and the ranks of pod grids: Claims.Stations and
Claims.PodGrids. -/
def Obligations.PodStationsAndGrids : Prop :=
  Claims.Stations ∧ Claims.PodGrids

/- ### Placing, stopping and moving blocks -/

/-- R19, R38, R43, R80, R81, R89: QUARTET_PLACE gives the next quartet of a grid that may be placed to one
logical quad, whole, on which every member fits; in normal mode the last quartet may go before it. Each member is a
new block with its own index, and its warps stand at the entry with every lane and with the argument address in `s0`.
A local grid waits until its queue's slot is served; the slot served asks with the highest priority. Otherwise nothing
changes. -/
def Obligations.QuartetPlacement : Prop :=
  (∀ (s : State) (die k : Nat), s.servedSlot die = some k →
    ∃ r ∈ s.newRequests die, r.1 = k ∧ ∀ x ∈ s.newRequests die, x.2.1 ≤ r.2.1) ∧
  ∀ (n : Nat) (g : Grid) (e : KEntry),
    let turn (s : State) : Prop := ∀ k q, g.queue = some k → s.queue? k = some q →
      q.slot.isSome = true ∧ q.slot = s.servedSlot q.home
    let last (q : Nat) : Prop := q + 1 = g.quartets ∧ g.img.desc.det = false ∧ q ∉ g.ahead
    Event (.quartetPlace n) (fun s => s.grid? n = some g ∧ (s.placeable g = false ∨ ¬ turn s ∨
      (s.placeQuartet g g.nextQuartet = none ∧ ∀ q, last q → s.placeQuartet g q = none)))
      (fun s t => t = s) ∧
    ∀ q, Event (.quartetPlace n) (fun s => s.grid? n = some g ∧ g.id = n ∧ s.placeable g = true ∧
        g.img.entries[g.entry]? = some e ∧ turn s ∧ (s.placeQuartet g q).isSome = true ∧
        (q = g.nextQuartet ∨ (last q ∧ s.placeQuartet g g.nextQuartet = none))) fun s t =>
      let first := g.rankFirst g.rank + 4 * q
      (∀ k, k ≠ n → t.grid? k = s.grid? k) ∧
      (q = g.nextQuartet → g.ahead = [] →
        t.grid? n = some { g with nextQuartet := g.nextQuartet + 1 }) ∧
      (q ≠ g.nextQuartet → t.grid? n = some { g with ahead := g.ahead ++ [q] }) ∧
      ∃ die quad bs, (die, quad) ∈ s.quadsFor g ∧ t.blocks = s.blocks ++ bs ∧
        bs.length = min 4 (g.rankBlocks - 4 * q) ∧
        ∀ m b, bs[m]? = some b → b.grid = n ∧ b.lin = first + m ∧ b.quartet = q ∧
          b.member = m ∧ b.bx = BitVec.ofNat 32 ((first + m) % g.gx) ∧
          b.by_ = BitVec.ofNat 32 ((first + m) / g.gx % g.gy) ∧
          b.bz = BitVec.ofNat 32 ((first + m) / g.gx / g.gy) ∧ b.rank = g.rank ∧ b.spawned = false ∧
          b.res = .resident ∧ b.die = die ∧ b.quad = quad ∧ b.core < 4 ∧ b.ended = false ∧
          b.warps.length = g.img.desc.warps ∧
          ∀ (w : Nat) (x : Warp), b.warps[w]? = some x → x.num = w ∧
            x.frontier = [⟨g.cb + e.code.setWidth 64, e.prio, 0xffffffff, 0⟩] ∧
            x.sget 0 = (if g.argLen = 0 then 0 else g.args) ∧ x.sget 1 = g.takeover

/-- R302, R305, R346 to R350: requests and moves. A unit is a quartet, or a spawned block alone. The drain
deadline moves requests of step 1 to step 2; the stop deadline ends the grid with FORCED_RESET; a stopped unit
leaves its cores, for their shadow stores or straight for its context area; its image reaches the context area; the switch of waiters begins pre-emption with code 4;
a barrier that cannot complete ends its grid with BAR_FIT. -/
def Obligations.BlockMoves : Prop :=
  let distinct (s : State) : Prop := (s.blocks.map fun b => b.key).Nodup
  let pre (w : Warp) : Prop := w.st.ppre = true
  let live (s : State) (b : Block) : Prop := b ∈ s.blocks ∧ b.ended = false ∧ b.res = .resident
  let draining (die : Nat) (b : Block) : Prop := b.die = die ∧ ∃ c, c ≠ 5 ∧ b.stop = some (c, 1)
  let here (s : State) (core : Nat) : List Block := s.blocks.filter fun b => b.on core
  let waiting (s : State) (core : Nat) : Prop :=
    (∃ b ∈ here s core, ∃ w ∈ b.warps, w.hasEnded = false) ∧
    ∀ b ∈ here s core, ∀ w ∈ b.warps, w.hasEnded = false → w.allWait = true
  (∀ die b, Event (.drainDeadline die) (fun s => distinct s ∧ live s b ∧ draining die b) fun _ t =>
    ∃ b', t.block? b.key = some b' ∧ b'.stop = some (1, 2) ∧ ∀ w ∈ b'.warps, pre w) ∧
  (∀ die b, Event (.drainDeadline die) (fun s => distinct s ∧ b ∈ s.blocks ∧
      ∀ p ∈ s.blocks, draining die p → b ∉ s.unitOf p) fun _ t => t.block? b.key = some b) ∧
  (∀ b g c, Event (.stopDeadline b.key) (fun s => s.block? b.key = some b ∧ b.res = .resident ∧
      b.stop = some (c, 2) ∧ s.grid? b.grid = some g ∧ g.ending = none) fun _ t =>
    (∀ p ∈ t.blocks, p.grid ≠ b.grid) ∧ t.grid? b.grid = some { g with
      ending := some ⟨stFailed, 0x81, BitVec.ofNat 16 c, BitVec.ofNat 64 b.lin⟩ }) ∧
  (∀ b, Event (.stopDeadline b.key) (fun s => s.block? b.key = some b ∧ (b.res ≠ .resident ∨
    ∀ c, b.stop ≠ some (c, 2))) fun s t => t = s) ∧
  (∀ b g, Event (.blockSwapOut b.key) (fun s => distinct s ∧ s.block? b.key = some b ∧
      s.grid? b.grid = some g ∧ s.unitStopped (s.unitOf b) = true ∧
      ∃ p ∈ s.unitOf b, p.ended = false) fun s t =>
    (∀ p ∈ s.unitOf b, ∃ p', t.block? p.key = some p' ∧ p'.res = .swapped ∧ p'.stop = none ∧
      (p.ended = true → p'.valid = false) ∧ p'.warps.length = p.warps.length ∧ ∀ w ∈ p'.warps, w.st.ppre = false) ∧
    (∀ p ∈ s.blocks, p ∉ s.unitOf b → t.block? p.key = some p) ∧
    ∀ q k, g.queue = some k → s.queue? k = some q → q.key = k → ∃ q', t.queue? k = some q' ∧
      q'.swapped = q.swapped ++ ((s.unitOf b).filter fun p => !p.ended).map fun p => p.key) ∧
  (∀ b, Event (.blockSwapOut b.key) (fun s => s.block? b.key = some b ∧
    s.unitStopped (s.unitOf b) = false) fun s t => t = s) ∧
  (∀ b g, Event (.contextAreaCopy b.key) (fun s => s.block? b.key = some b ∧ s.grid? b.grid = some g ∧
      b.res = .swapped ∧ b.ended = false ∧ b.valid = false ∧ b.xfers = []) fun s t =>
    { t with blocks := s.blocks, dram := s.dram, poison := s.poison } = s ∧
    (∀ k, t.block? k = if k = b.key then some { b with valid := true } else s.block? k) ∧
    t.num (b.key + 32) 4 = b.bx.toNat ∧ t.num (b.key + 36) 4 = b.by_.toNat ∧
    t.num (b.key + 40) 4 = b.bz.toNat ∧ t.num (b.key + 44) 4 = b.grid % 2 ^ 32) ∧
  (∀ b, Event (.contextAreaCopy b.key) (fun s => s.block? b.key = some b ∧
    (b.res = .resident ∨ b.ended = true ∨ b.valid = true)) fun s t => t = s) ∧
  (∀ b g c u x, Event (.blockResume b.key) (fun s => s.block? b.key = some b ∧ s.grid? b.grid = some g ∧
      b.res = .swapped ∧ b.ended = false ∧ s.unitOf b = [b] ∧ s.resumable g = true ∧
      s.earlier b = false ∧ s.canSeat g [b] = some u ∧ u.block? b.key = some x ∧
      x.coreNum = b.coreNum ∧ x.die = b.die ∧ s.shadowed b b.coreNum = true ∧ b.rsv = false ∧ b.xfers = [] ∧
      (∀ n, n < 16 → (b.bar n).done = 0) ∧
      s.ctx? g.ctx = some c ∧ c.iblk = none) fun _ t =>
    ∃ b', t.block? b.key = some b' ∧ b'.res = .resident ∧ b'.coreNum = b.coreNum ∧ b'.valid = false ∧
      b'.bars = b.bars ∧ b'.tiles = b.tiles ∧ b'.queues = b.queues ∧ b'.spad = b.spad ∧
      ∀ n w, b.warp? n = some w → ∃ w', b'.warp? n = some w' ∧
        { w' with slot := 0, st := w.st } = { w with slot := 0 } ∧
        { w'.st with pdbg := false } = { w.st with pdbg := false }) ∧
  (∀ b g, Event (.blockResume b.key) (fun s => s.block? b.key = some b ∧ s.grid? b.grid = some g ∧
    (b.res = .resident ∨ b.ended = true ∨ s.resumable g = false)) fun s t => t = s) ∧
  (∀ core b, Event (.waiterSwitch core) (fun s => distinct s ∧ here s core = [b] ∧ waiting s core ∧
      s.waitsFor core = true ∧ b.stop = none) fun _ t =>
    ∃ b', t.block? b.key = some b' ∧ b'.stop = some (4, 2) ∧ ∀ w ∈ b'.warps, pre w) ∧
  (∀ core, Event (.waiterSwitch core) (fun s => ¬ waiting s core ∨ s.waitsFor core = false)
    fun s t => t = s) ∧
  ∀ n slot g,
    let stuck (s : State) : Prop := g.nextQuartet < g.quartets ∧ g.complete = false ∧ g.offered = true ∧
      (∃ b ∈ s.blocks, b.grid = n ∧ b.ended = false ∧ b.spawned = false ∧ b.atWide slot = true) ∧
      (∀ b ∈ s.blocks, b.grid = n → b.ended = false → b.spawned = false →
        ∃ k, k < 16 ∧ b.atWide k = true) ∧
      (s.aloneFor n).placeQuartet g g.nextQuartet = none
    Event (.barFitDetect n slot) (fun s => s.grid? n = some g ∧ g.pod = false ∧ g.ending = none ∧
        stuck s) (fun s t => { t with grids := s.grids } = s ∧
      ∀ k, t.grid? k = if k = n then some { g with
        ending := some ⟨stFailed, 0x70, BitVec.ofNat 16 slot,
          BitVec.ofNat 64 (g.rankFirst g.rank + 4 * g.nextQuartet)⟩ } else s.grid? k) ∧
    Event (.barFitDetect n slot) (fun s => s.grid? n = some g ∧ ¬ stuck s) fun s t => t = s

/-- R76, R276, R343, R356, R366, R370: the in-field test of a quad, with the number that a spare takes, a warp's halt, and the re-entry after a
consumed error. UNIT numbers of quads are the model's (log entry 11). -/
def Obligations.TestsAndHalts : Prop :=
  let on (s : State) (die n : Nat) (b : Block) : Prop :=
    b ∈ s.blocks ∧ b.res = .resident ∧ b.die = die ∧ (s.quad die n).logical = some b.quad
  let quads (s t : State) (die n : Nat) (q : Quad) : Prop := ∀ d k, d < 4 → k < 50 →
    t.quad d k = if d = die ∧ k = n then q else s.quad d k
  let distinct (s : State) : Prop := (s.blocks.map fun b => b.key).Nodup
  (∀ die n, Event (.testDue die n) (fun s => 4 ≤ die ∨ 50 ≤ n ∨ (s.quad die n).retired = true ∨
    (s.quad die n).testing = true ∨ (s.quad die n).due = true) fun s t => t = s) ∧
  (∀ die n, die < 4 → n < 50 → Event (.testDue die n) (fun s => distinct s ∧
      (s.quad die n).retired = false ∧ (s.quad die n).testing = false ∧ (s.quad die n).due = false)
    fun s t => { t with quads := s.quads, blocks := s.blocks } = s ∧
      quads s t die n { s.quad die n with due := true } ∧
      ∀ b, on s die n b → b.ended = false → b.stop = none → ∃ b', t.block? b.key = some b' ∧
        b' = { b with stop := some (5, 1) }) ∧
  (∀ die n, Event (.testDeadline die n) (fun s => (s.quad die n).due = false) fun s t => t = s) ∧
  (∀ die n, die < 4 → n < 50 → Event (.testDeadline die n) (fun s => (s.quad die n).due = true ∧
      ∀ b, ¬ on s die n b) fun s t => { t with quads := s.quads } = s ∧
    quads s t die n { s.quad die n with due := false, testing := true, deferrals := 0 }) ∧
  (∀ die n, die < 4 → n < 50 → Event (.testDeadline die n) (fun s => distinct s ∧
      (s.quad die n).due = true ∧ (s.quad die n).deferrals < 2 ∧ ∃ b, on s die n b) fun s t =>
    let d := (s.quad die n).deferrals + 1
    { t.noLog with quads := s.quads, blocks := s.blocks } = s.noLog ∧
    quads s t die n { s.quad die n with due := false, deferrals := d } ∧
    PkgLogged s t 0x06 0 (die * 50 + n) (BitVec.ofNat 64 d) ∧
    ∀ b, on s die n b → (∃ k, b.stop = some (5, k)) → t.block? b.key = some { b with stop := none }) ∧
  (∀ die n, die < 4 → n < 50 → Event (.testDeadline die n) (fun s => (s.quad die n).due = true ∧
      2 ≤ (s.quad die n).deferrals ∧ ∃ b, on s die n b) fun _ t =>
    (t.quad die n).logical = none ∧ (t.quad die n).retired = true ∧ (t.quad die n).due = false) ∧
  (∀ die n rows other, Event (.testComplete die n rows other) (fun s => (s.quad die n).testing = false)
    fun s t => t = s) ∧
  (∀ die n, die < 4 → n < 50 → Event (.testComplete die n [] false) (fun s =>
      (s.quad die n).testing = true ∧ (s.quad die n).rowsOff = [] ∧
      ((s.quad die n).logical ≠ none ∨ (s.quad die n).retired = true ∨
        ∀ l, l < 48 → ∃ k, k < 50 ∧ (s.quad die k).logical = some l)) fun s t =>
    { t.noLog with quads := s.quads } = s.noLog ∧
    quads s t die n { s.quad die n with testing := false, passed := true } ∧
    PkgLogged s t 0x01 0 (die * 50 + n) 0) ∧
  (∀ die n l, die < 4 → n < 50 → l < 48 → Event (.testComplete die n [] false) (fun s =>
      (s.quad die n).testing = true ∧ (s.quad die n).rowsOff = [] ∧ (s.quad die n).logical = none ∧
      (s.quad die n).retired = false ∧ (∀ k, k < 50 → (s.quad die k).logical ≠ some l) ∧
      ∀ j, j < l → ∃ k, k < 50 ∧ (s.quad die k).logical = some j) fun s t =>
    { t.noLog with quads := s.quads } = s.noLog ∧
    quads s t die n { s.quad die n with testing := false, passed := true, logical := some l }) ∧
  (∀ die n rows l, die < 4 → n < 50 → Event (.testComplete die n rows true) (fun s =>
      (s.quad die n).testing = true ∧ (s.quad die n).logical = some l) fun s t =>
    (t.quad die n).logical = none ∧ (t.quad die n).retired = true ∧
    let spare (k : Nat) : Prop := k < 50 ∧ k ≠ n ∧ (s.quad die k).logical = none ∧
      (s.quad die k).passed = true ∧ (s.quad die k).retired = false ∧ (s.quad die k).testing = false
    ∀ k, spare k → (∀ j, j < k → ¬ spare j) → (t.quad die k).logical = some l) ∧
  (∀ b w g, Event (.warpHalt b.key w.num) (fun s => s.block? b.key = some b ∧ b.warp? w.num = some w ∧
      s.grid? b.grid = some g ∧ b.res = .resident ∧ w.st.pdbg = true ∧ w.hasEnded = false ∧
      w.atBoundary = true ∧ w.rgn.inrgn = false ∧
      (∀ x ∈ b.xfers, x.req.warp = w.num → s.copyfDue b.key x.id = none) ∧ (∀ l, l < 32 → w.once l) ∧
      ∃ e ∈ w.frontier, e.park = 0) fun s t =>
    ∃ w', t.warpAt (b.key, w.num) = some w' ∧ OnlyWarp s t b.key w.num ∧
      w'.others = { w with straps := w'.straps, st := { w.st with halt := true, pdbg := false } }.others ∧
      (∀ l, l < 32 → w'.stands l = match w.stands l with
        | some (p, k) => if k = 0 then some (p, 7) else some (p, k)
        | none => none) ∧
      ∃ u, w'.straps = w.straps ++ [u] ∧ u.words.w1 = 0 ∧
        u.words.w0.toNat % 256 = (TrapCode.num .debug).toNat ∧
        ∀ l, l < 32 → (u.lanes.getLsbD l = true ↔ ∃ p, w.stands l = some (p, 0))) ∧
  (∀ b w, Event (.warpHalt b.key w.num) (fun s => s.block? b.key = some b ∧ b.warp? w.num = some w ∧
    (w.st.pdbg = false ∨ w.hasEnded = true ∨ w.atBoundary = false)) fun s t => t = s) ∧
  (∀ b w, Event (.eccReentry b.key w.num) (fun s => s.block? b.key = some b ∧ b.warp? w.num = some w ∧
      w.st.hold = true ∧ w.consumed ≠ [] ∧ w.straps = []) fun s t => OnlyWarp s t b.key w.num ∧
    t.warpAt (b.key, w.num) = some { w with st := { w.st with hold := false } }) ∧
  ∀ b w, Event (.eccReentry b.key w.num) (fun s => s.block? b.key = some b ∧ b.warp? w.num = some w ∧
    (w.st.hold = false ∨ w.consumed = [] ∨ w.straps ≠ [])) fun s t => t = s

/- ### Memory, the fabric, transfers and engines at work -/

/-- R218, R236, R249, R331: a load's bytes land in its registers; the words of a warp's `waitv` lanes are
read again, and the lanes whose condition holds move on in a new region; the host's answer to a page request
lets the lanes that waited run again, or leaves them a record with cause PRIFAIL. -/
def Obligations.WaitsEnd : Prop :=
  ∀ (b : Block) (w : Warp) (g : Grid),
    let here (s : State) : Prop := s.block? b.key = some b ∧ b.warp? w.num = some w
    let only (s t : State) (post : Warp → Prop) : Prop :=
      ∃ w', t.warpAt (b.key, w.num) = some w' ∧ OnlyWarp s t b.key w.num ∧ post w'
    let load (s : State) (o : OutLoad) (bs : List Byte) : Prop :=
      here s ∧ w.loads.find? (fun p => p.id == o.id) = some o ∧ o.val = some bs ∧ o.lane < 32
    let rest (o : OutLoad) : List OutLoad := w.loads.filter fun p => p.id != o.id
    (∀ o bs d sz, Event (.loadCompletion b.key w.num o.id)
      (fun s => load s o bs ∧ o.dst = .vec d sz) fun s t => only s t fun w' =>
        (∀ j, j < sz.regs → w'.vget (d.toNat + j) o.lane = loadedWord sz (leNat bs) j) ∧
        (∀ n l, l < 32 → (l ≠ o.lane ∨ n < d.toNat ∨ d.toNat + sz.regs ≤ n) →
          w'.vget n l = w.vget n l) ∧
        w' = { w with v := w'.v, poison := w'.poison, loads := rest o }) ∧
    (∀ o bs d sz, Event (.loadCompletion b.key w.num o.id)
      (fun s => load s o bs ∧ o.dst = .sca d sz) fun s t => only s t fun w' =>
        w'.sget d.toNat = loadedScalar sz (leNat bs) ∧ (∀ n, n ≠ d.toNat → w'.sget n = w.sget n) ∧
        w' = { w with s := w'.s, sPoison := w'.sPoison, loads := rest o }) ∧
    (∀ id, Event (.loadCompletion b.key w.num id)
      (fun s => here s ∧ ∀ o ∈ w.loads, o.id = id → o.val = none) fun s t => t = s) ∧
    (∀ k n, Event (.waitvRecheck b.key w.num) (fun s => here s ∧ s.grid? b.grid = some g ∧
        s.ctx? g.ctx = some k ∧ b.res = .resident ∧ w.frame = none ∧ w.utraps = [] ∧
        w.rgn.inrgn = false ∧ w.cmds = [] ∧ (∀ l, l < 32 → w.once l) ∧
        (∀ v ∈ w.waits, v.next = n ∧ v.lane < 32 ∧ ∃ p, w.stands v.lane = some (p, 3)) ∧
        ∃ v ∈ w.waits, (s.warpSite b w g).recheck k v = .holds) fun s t =>
      only s t fun w' =>
        let holds (l : Nat) : Prop :=
          ∃ v ∈ w.waits, v.lane = l ∧ (s.warpSite b w g).recheck k v = .holds
        (∀ l, l < 32 → holds l → w'.stands l = if g.codeEnd.toNat ≤ n.toNat then some (g.codeEnd, 2)
          else some (n, 0)) ∧
        (∀ l, l < 32 → ¬ holds l → w'.stands l = w.stands l) ∧
        (∀ v, v ∈ w'.waits ↔ v ∈ w.waits ∧ ¬ holds v.lane) ∧
        w'.rgn.inrgn = true ∧ w'.rgn.rgnoff = (n - g.cb).setWidth 32) ∧
    (∀ k, Event (.waitvRecheck b.key w.num) (fun s => here s ∧ s.grid? b.grid = some g ∧
        s.ctx? g.ctx = some k ∧ w.utraps = [] ∧
        ∀ v ∈ w.waits, (s.warpSite b w g).recheck k v = .fails) fun s t => only s t fun w' => w' = w) ∧
    ∀ page target r c u l p,
      let asked (s : State) : Prop := s.priReqs.find? (fun x => x.page == page) = some r ∧
        (∀ q ∈ s.queues, q.cqPend = []) ∧ s.psubs = [] ∧ here s ∧ s.grid? b.grid = some g ∧ s.ctx? g.ctx = some c ∧
        w.straps = [u] ∧ w.frame = none ∧ u.pending = true ∧ u.lanes = laneBit l ∧ l < 32 ∧
        w.once l ∧ w.stands l = some (p, 6)
      let left (s t : State) : Prop := t.priReqs = s.priReqs.filter fun x => x.page != page
      Event (.priResponse page true target) (fun s => asked s ∧ ({ s with
          ats := s.ats ++ [(page, target)]
          priReqs := s.priReqs.filter fun x => x.page != page } : State).settled c u = true) (fun s t =>
        left s t ∧ t.ats = s.ats ++ [(page, target)] ∧ t.priFailed = s.priFailed ∧
        ∃ w', t.warpAt (b.key, w.num) = some w' ∧ w'.straps = [] ∧ w'.stands l = some (p, 0)) ∧
      Event (.priResponse page false target) (fun s => asked s ∧ s.awaitsPage c page u = true)
        (fun s t => left s t ∧ t.ats = s.ats ∧
          (page ∈ t.priFailed ↔ page ∈ s.priFailed ∨ r.agent = true) ∧
          ∃ w' u', t.warpAt (b.key, w.num) = some w' ∧ w'.straps = [u'] ∧ w'.stands l = some (p, 2) ∧
            u'.words.w0.toNat / 2 ^ 16 % 2 ^ 8 = 0x0a ∧ u'.words.w1 = u.words.w1) ∧
      Event (.priResponse page true target) (fun s => ∀ x ∈ s.priReqs, x.page ≠ page) fun s t => t = s

/-- R209, R214, R236, R237, R247, R311: a request of another package is served in the tables of the context that the
receiver binds, or refused; the CP path and a region's load do not reach a strongly ordered page; an answer completes
what asked. A request through the package's own window is answered within it. -/
def Obligations.RemoteRequests : Prop :=
  (∀ r, Event (.remoteAccess r) (fun s => r.dst ≠ s.pkg) fun s t => t = s) ∧
  (∀ r, Event (.remoteAccess r) (fun s => s.trav.role = .fenced) fun s t => t = s) ∧
  (∀ r, Event (.remoteAccess r) (fun s => r.dst = s.pkg ∧ s.trav.role ≠ .fenced ∧
      (s.memState r.src = 2 ∨ s.memState r.src = 0)) fun s t =>
    if r.src = s.pkg then t = { s with agenda := s.agenda ++ [.remoteAck r.id .refused] }
    else t = { s with outbox := s.outbox ++ [.answer r.src r.id .refused] }) ∧
  (∀ r c p n acc ord,
    let served (s : State) : Prop := r.dst = s.pkg ∧ r.src ≠ s.pkg ∧ s.memState r.src ≠ 2 ∧ s.memState r.src ≠ 0 ∧
      s.trav.role ≠ .fenced ∧ r.off < launchBase ∧ s.podCtx r.pctx = some c ∧ s.poison = [] ∧
      s.resolve c (BitVec.ofNat 64 r.off) n acc =
        .ok ((List.range n).map fun k => Loc.mem 0 (p + k), ord)
    let answers (s t : State) (a : RResp) : Prop := t = { s with
      dram := t.dram, poison := t.poison, outbox := s.outbox ++ [.answer r.src r.id a] }
    Event (.remoteAccess r) (fun s => served s ∧ acc = .load ∧
        (r.op = .read n ∨ (ord ≠ 1 ∧ (r.op = .readRgn n ∨ r.op = .get n))))
      (fun s t => answers s t (.data (s.dram.bytes p n)) ∧ t.dram = s.dram) ∧
    (∀ bs, Event (.remoteAccess r) (fun s => served s ∧ acc = .store ∧
        (r.op = .write bs ∨ (ord ≠ 1 ∧ r.op = .put bs)) ∧ n = bs.length)
      fun s t => answers s t .done ∧ t.dram.bytes p n = bs ∧ dramBut s t [(p, n)]) ∧
    Event (.remoteAccess r) (fun s => served s ∧ acc = .load ∧ ord = 1 ∧ (r.op = .get n ∨ r.op = .readRgn n))
      (fun s t => answers s t (if r.op = .get n then .refused else .strong) ∧ t.dram = s.dram) ∧
    ∀ op sg x y, Event (.remoteAccess r)
      (fun s => served s ∧ acc = .atomic ∧ r.op = .atomic op true sg x y ∧ n = 8) fun s t =>
        answers s t (.data (s.dram.bytes p 8)) ∧ dramBut s t [(p, 8)] ∧
        t.num p 8 = atomResult 64 op sg (s.num p 8) x.toNat y.toNat) ∧
  (∀ id r, Event (.remoteAck id r) (fun s => ∀ o ∈ s.fabricOut, o.req.id ≠ id) fun s t => t = s) ∧
  ∀ (o : ROut) (r : RResp) (b : Block) (w : Warp),
    let sent (s : State) (owner : ROwner) : Prop :=
      s.fabricOut.find? (fun x => x.req.id == o.req.id) = some o ∧ o.owner = owner ∧
      s.block? b.key = some b
    let now (s : State) : State :=
      { s with fabricOut := s.fabricOut.filter fun x => x.req.id != o.req.id }
    (∀ l p bs g, Event (.remoteAck o.req.id (.data bs)) (fun s => sent s (.load b.key w.num l p.id) ∧
        b.warp? w.num = some w ∧ s.grid? b.grid = some g ∧
        w.loads.find? (fun q => q.id == p.id) = some p) fun s t =>
      OnlyWarp (now s) t b.key w.num ∧ ∃ w', t.warpAt (b.key, w.num) = some w' ∧
        w' = { w with loads := w'.loads } ∧
        ∀ id, w'.loads.find? (fun q => q.id == id) = if id = p.id then
          some { p with val := some (p.merge bs), remote := none } else w.loads.find? fun q => q.id == id) ∧
    (∀ va, Event (.remoteAck o.req.id .done) (fun s => sent s (.store b.key w.num va) ∧
        b.warp? w.num = some w ∧ (2 ≤ w.acks ∨ w.arrival = none) ∧ ∀ p ∈ s.blocks, p.ended = false) fun s t =>
      OnlyWarp (now s) t b.key w.num ∧
        t.warpAt (b.key, w.num) = some { w with acks := w.acks - 1 }) ∧
    (∀ va g, Event (.remoteAck o.req.id .refused) (fun s => sent s (.store b.key w.num va) ∧
        b.warp? w.num = some w ∧ s.grid? b.grid = some g ∧ g.ending = none ∧ (2 ≤ w.acks ∨ w.arrival = none) ∧
        ∀ p ∈ s.blocks, p.ended = false) fun _ t =>
      t.grid? b.grid = some { g with
        ending := some ⟨stFailed, 0x60, BitVec.ofNat 16 o.req.dst, va⟩ } ∧
      t.warpAt (b.key, w.num) = some { w with acks := w.acks - 1 }) ∧
    (∀ tag, Event (.remoteAck o.req.id r) (fun s => sent s (.send b.key tag) ∧ b.res = .resident ∧
        ∃ g, s.grid? b.grid = some g ∧ b.roomFor g.img.desc.quota 7 = true) fun s t =>
      { t with blocks := s.blocks } = now s ∧ (∀ k, k ≠ b.key → t.block? k = s.block? k) ∧
      ∃ b', t.block? b.key = some b' ∧ ∀ k, b'.queue k = if k = 7 then b.queue 7 ++
        [match r with
        | .done => [BitVec.ofNat 64 (0x130 + tag.toNat * 2 ^ 32), 1, 0, 0, 0, 0, 0, 0]
        | .data _ => [BitVec.ofNat 64 (0x20230 + tag.toNat * 2 ^ 32), 0, 0, 0, 0, 0, 0, 0]
        | _ => [BitVec.ofNat 64 (0x80230 + tag.toNat * 2 ^ 32), 0, 0, 0, 0, 0, 0, 0]]
        else b.queue k)

/-- R254, R261, R263, R265, R266, R269 to R271: a transfer runs to its end, with its token and tile, or stops
at its failure with a COPYF trap of the lane that issued it; the engine of a queue performs the oldest command
and posts its result. -/
def Obligations.TransfersAndEngines : Prop :=
  ∀ (b : Block) (g : Grid) (c : Ctx),
    let same (s t : State) : Prop := ∀ k, k ≠ b.key → t.block? k = s.block? k
    (∀ (x : Xfer),
      let run (s : State) : Ran := s.runLocal b c g x
      let works (s : State) : Prop := s.xferAt b.key x.id = some (b, x, g, c) ∧
        x.req.kind ≠ .rput ∧ x.req.kind ≠ .rget
      (∀ src dst, Event (.transferComplete b.key x.id) (fun s => works s ∧ x.req.kind = .cp ∧
          x.req.srcSp = false ∧ x.req.dstSp = false ∧ x.pos = 0 ∧ 0 < x.req.len ∧ x.req.tile = none ∧
          s.steadyOver [(dst, x.req.len)] c x.req.src.toNat x.req.len src ∧
          s.steadyOver [(dst, x.req.len)] c x.req.dst.toNat x.req.len dst ∧
          (src + x.req.len ≤ dst ∨ dst + x.req.len ≤ src)) fun s t =>
        dramBut s t [(dst, x.req.len)] ∧ same s t ∧
        (∀ k, k < x.req.len → t.dram.byte (dst + k) = s.dram.byte (src + k)) ∧
        ∃ b', t.block? b.key = some b' ∧ b'.xfers = b.xfers.filter (fun y => y.id != x.id) ∧
          ∀ k w, x.req.tok = some k → b.warp? x.req.warp = some w → ∃ w', b'.warp? x.req.warp = some w' ∧
            w'.token k.toNat = w.token k.toNat - 1) ∧
      (∀ n e, Event (.transferComplete b.key x.id) (fun s => works s ∧ (run s).bad = none ∧
          (run s).b.key = b.key ∧ x.req.tile = some n ∧ (run s).b.tile n = e ∧
          ∃ p, (run s).s.block? b.key = some p) fun _ t =>
        ∃ b', t.block? b.key = some b' ∧ b'.tile n = if e.pend - 1 = 0 then
          { e with pend := 0, st := .ready, fault := false } else { e with pend := e.pend - 1 }) ∧
      Event (.transferComplete b.key x.id) (fun s => works s ∧ (run s).bad ≠ none) (fun s t => t = s) ∧
      Event (.copyf b.key x.id) (fun s => works s ∧ (run s).bad = none) (fun s t => t = s) ∧
      ∀ k a w p, Event (.copyf b.key x.id) (fun s => works s ∧ (run s).bad = some (.cause k a) ∧
          (run s).b.key = b.key ∧ (∃ q, (run s).s.block? b.key = some q) ∧
          (run s).b.warp? x.req.warp = some w ∧ w.num = x.req.warp ∧ w.pendCommit = none ∧ w.frame = none ∧ w.utraps = [] ∧
          g.img.desc.trapent ≠ 0xffffffff ∧ x.req.lane < 32 ∧ w.once x.req.lane ∧
          w.stands x.req.lane = some (p, 0) ∧ x ∈ (run s).b.xfers) fun s t =>
        ∃ b' w' f, t.block? b.key = some b' ∧ b'.warp? x.req.warp = some w' ∧ w'.frame = some f ∧
          b'.xfers.find? (fun y => y.id == x.id) = some { x with
            pos := (run s).pos, stop := some (k, BitVec.ofNat 64 a), undelivered := true
            remote := none, pri := none } ∧
          w'.stands x.req.lane = some (p, 1) ∧ f.trap.lanes = laneBit x.req.lane ∧ f.trap.pc = p ∧
          f.trap.xfer = some x.id ∧ f.trap.words.w1 = BitVec.ofNat 64 a ∧
          f.trap.words.w0.toNat % 256 = TrapCode.copyf.num.toNat) ∧
    ∀ (q : BitVec 3) (rest : List (List DWord)),
      let engine (s : State) (ws : List DWord) : Prop := s.block? b.key = some b ∧
        s.grid? b.grid = some g ∧ s.ctx? g.ctx = some c ∧ b.queue q.toNat = ws :: rest ∧
        q.getLsbD 0 = false ∧ s.engineFree b q.toNat = true
      let room : Prop := (b.setQueue q.toNat rest).roomFor g.img.desc.quota (q.toNat + 1) = true
      let posts (s t : State) (ws : List DWord) : Prop := same s t ∧ ∃ b', t.block? b.key = some b' ∧
        (∀ k, k ≠ q.toNat + 1 → b'.queue k = if k = q.toNat then rest else b.queue k) ∧
        (room → b'.queue (q.toNat + 1) = b.queue (q.toNat + 1) ++ [ws] ∧ b'.results = b.results) ∧
        (¬ room → b'.queue (q.toNat + 1) = b.queue (q.toNat + 1) ∧
          b'.results = b.results ++ [(q.toNat + 1, ws)])
      (∀ tag src dst from_ to_ n, Event (.engineResult b.key q []) (fun s => q = 0 ∧ tag < 2 ^ 32 ∧
          0 < n ∧ n < 2 ^ 40 ∧
          engine s [BitVec.ofNat 64 (1 + tag * 2 ^ 32), src, dst, BitVec.ofNat 64 n, 0, 0, 0, 0] ∧
          s.steadyOver [(to_, n)] c src.toNat n from_ ∧ s.steadyOver [(to_, n)] c dst.toNat n to_ ∧
          (from_ + n ≤ to_ ∨ to_ + n ≤ from_)) fun s t =>
        posts s t [BitVec.ofNat 64 (0x101 + tag * 2 ^ 32), BitVec.ofNat 64 n, 0, 0, 0, 0, 0, 0] ∧
        dramBut s t [(to_, n)] ∧
        ∀ k, k < n → t.dram.byte (to_ + k) = s.dram.byte (from_ + k)) ∧
      (∀ ws ext, Event (.engineResult b.key q ext) (fun s => engine s ws ∧
          (q.toNat, (ws.getD 0 0).toNat % 256) ∉ [(0, 1), (0, 2), (2, 0x10), (4, 0x20), (4, 0x21), (6, 0x30)])
        fun s t => { t with blocks := s.blocks } = s ∧ posts s t [BitVec.ofNat 64
          ((ws.getD 0 0).toNat % 256 + 0x50300 + (ws.getD 0 0).toNat / 2 ^ 32 * 2 ^ 32),
          0, 0, 0, 0, 0, 0, 0]) ∧
      (∀ ws ext, Event (.engineResult b.key q ext) (fun s => s.block? b.key = some b ∧
          s.grid? b.grid = some g ∧ b.res = .resident ∧ b.results = [(q.toNat + 1, ws)] ∧
          b.roomFor g.img.desc.quota (q.toNat + 1) = true) fun s t =>
        { t with blocks := s.blocks } = s ∧ same s t ∧ ∃ b', t.block? b.key = some b' ∧ b'.results = [] ∧
        ∀ k, b'.queue k = if k = q.toNat + 1 then b.queue k ++ [ws] else b.queue k) ∧
      ∀ ext, Event (.engineResult b.key q ext) (fun s => s.block? b.key = some b ∧
        s.grid? b.grid = some g ∧ (b.res ≠ .resident ∨ b.results = [] ∧ (b.queue q.toNat = [] ∨
          q.getLsbD 0 = true ∨ s.engineFree b q.toNat = false))) fun s t => t = s

/-- R306 to R308, R310, R311, R317: a send that reaches its receiver sets PEND, adds to the payload and counts,
while nothing becomes deliverable; a denied one is counted; the port holds what comes while the firmware switches; the host's window sends to a context of its
function, and other writes are counted or logged. -/
def Obligations.InterruptsArrive : Prop :=
  ∀ (c : Ctx) (p v : Nat) (pay : DWord), v < 64 →
    let ready (s : State) : Prop := s.ctx? c.num = some c ∧ s.ibAt c p ∧ s.fw.state ≠ .switching
    let quiet (s : State) : Prop :=
      (BitVec.ofNat 64 (s.num (p + 8) 8) ||| 1#64 <<< v) &&& ~~~(BitVec.ofNat 64 (s.num p 8)) &&&
        BitVec.ofNat 64 (s.num (p + 16) 8) = 0
    let recorded (s t : State) : Prop :=
      { t with dram := s.dram } = s ∧
      t.num (p + 8) 8 = (BitVec.ofNat 64 (s.num (p + 8) 8) ||| 1#64 <<< v).toNat ∧
      t.num (p + 0xc0 + 8 * v) 8 = (BitVec.ofNat 64 (s.num (p + 0xc0 + 8 * v) 8) ||| pay).toNat ∧
      t.num (p + 0x40 + 2 * v) 2 = min (s.num (p + 0x40 + 2 * v) 2 + 1) 0xffff ∧
      dramBut s t [(p + 8, 8), (p + 0xc0 + 8 * v, 8), (p + 0x40 + 2 * v, 2)]
    let send (m : Sender) : Instr := .uisendReceive ⟨m, some c.num, 0, BitVec.ofNat 6 v, pay⟩
    (∀ m, Event (send m) (fun s => ready s ∧ quiet s ∧ s.uiAllowed c m v = true) recorded) ∧
    (∀ m, Event (send m) (fun s => ready s ∧ s.uiAllowed c m v = false ∧ c.log.ring = none ∧
        ∀ k, k ∈ s.ctxs → k.log.ring = none) fun s t =>
      dramBut s t [(p + 44, 4)] ∧ t.num (p + 44) 4 = min (s.num (p + 44) 4 + 1) 0xffffffff ∧
      { t with dram := s.dram, ctxs := s.ctxs } = s) ∧
    (∀ fn, Event (.hostInterruptSend fn (c.c * 0x200 + 8 * v) pay) (fun s => ready s ∧ quiet s ∧
        (s.func? fn).isSome = true ∧ s.ctxs.find? (fun k => k.fn == fn && k.c == c.c) = some c ∧
        c.c < 256 ∧ s.uiAllowed c (.host fn) v = true) recorded) ∧
    (∀ fn off f, Event (.hostInterruptSend fn off pay) (fun s => s.func? fn = some f ∧ f.num = fn ∧
        (off % 8 ≠ 0 ∨ 0x20000 ≤ off)) fun s t => s.withFunc t { f with errCount := f.errCount + 1 }) ∧
    (∀ i, ((∃ m, i = send m) ∨ ∃ fn off, i = .hostInterruptSend fn off pay ∧ off % 8 = 0 ∧ off < 0x20000) →
      Event i (fun s => (∀ fn off x, i = .hostInterruptSend fn off x → (s.func? fn).isSome = true) ∧
        s.fw.state = .switching)
      fun s t => t = { s with fw := { s.fw with port := s.fw.port ++ [i] } }) ∧
    ∀ fn off, Event (.hostInterruptSend fn off pay) (fun s => (s.func? fn).isSome = true ∧ off % 8 = 0 ∧
      s.fw.state ≠ .switching ∧ off < 0x20000 ∧ ∀ k ∈ s.ctxs, ¬ (k.fn = fn ∧ k.c = off / 0x200)) fun s t =>
      t.noLog = s.noLog ∧ PkgLogged s t 0x04 0x02 fn (BitVec.ofNat 64 off)

/- ### The whole machine -/

/-- R95 to R109: every well-formed instruction that has words decodes to itself, whatever its operands. -/
def Obligations.DecodeOfEncode : Prop :=
  ∀ (i : Instr) (ws : List Word), i.wf = true → encode i = some ws → decode ws = .ok i

/-- R98, R102, R106, R107: whatever decodes is well-formed, and its words are the ones that were read: no bit
of them is passed over. Words of another length than the first word announces do not decode, and no words
of an unassigned OPC do. -/
def Obligations.EncodeOfDecode : Prop :=
  (∀ (ws : List Word) (i : Instr), decode ws = .ok i → i.wf = true ∧ encode i = some ws) ∧
  (∀ (w : Word) (ws : List Word) (i : Instr), decode (w :: ws) = .ok i →
    (w :: ws).length = match w.toNat % 4 with
      | 0 => 1
      | 1 => 3
      | 2 => 3
      | _ => 5) ∧
  ∀ (w : Word) (ws : List Word) (i : Instr), decode (w :: ws) = .ok i →
    w.toNat / 4 % 64 ∉ [0x17, 0x27, 0x2b, 0x36, 0x37, 0x3b, 0x3f]

/-- The words that the manual works out for instructions of each family (R96, R104, R105 and the tables of
worked encodings) decode to those instructions; a short `bra` with offset zero and BK = 11 do not decode (R107). -/
def Obligations.WorkedEncodings : Prop :=
  let c : Ctl := ⟨none, 0⟩
  decode [0x02010320] = .ok (.addShort 3 1 2) ∧
  decode [0x00010321, 0x8000c500, 0x00640000] =
    .ok (.add ⟨some ⟨true, 5⟩, 0⟩ 3 1 (.imm 100) .s32 false) ∧
  decode [0xfffff300] = .ok (.braShort 0xfffff3) ∧
  decode [0x00000001, 0x10004200, 0x001d0000] =
    .ok (.bra ⟨some ⟨false, 2⟩, 0⟩ (.imm 0x1d) (some 0x10)) ∧
  decode [0x00040341, 0x92000000, 0] = .ok (.cmp c 3 4 (.imm 0) .lt .s64) ∧
  decode [0x0005021d, 0, 0x00030000] = .ok (.spawn c 2 5 3) ∧
  decode [0x0008027b, 0x82000000, 0, 0x3f000000, 0] =
    .ok (.fcmp c 2 8 (.lit 0x3f000000) .lt false false) ∧
  decode [0x0000074a, 0x12345678, 0] = .ok (.movLit 7 0x12345678) ∧
  decode [0x000000f8] = .ok .rgnShort ∧ (∀ i, decode [0x00000000] ≠ .ok i) ∧
  (∀ i, decode [0x00010321, 0xc000c500, 0x00640000] ≠ .ok i)

/-- R92 to R95, R108, R126, R331 (the order between a warp and the package's own work is the model's: log
entry 2): one step. An input that waits is taken, unless the package is off. Otherwise, when it is a warp's turn
and the bytes at its PC, within its code, decode to an instruction, the step is exec of that instruction at the state
in which that warp is the current one, in which nothing else has changed but what the instruction cache holds. A block
that has not begun begins with it, where it has issued (R90). -/
def Obligations.StepRunsTheInstruction : Prop :=
  (∀ s i rest, s.agenda = i :: rest → (s.off = false ∨ i = .boot ∨ i = .powerLoss) →
    step s = exec i { s with agenda := rest }) ∧
  (∀ s i rest, s.agenda = i :: rest → s.off = true → i ≠ .boot → i ≠ .powerLoss →
    step s = .next { s with agenda := rest }) ∧
  ∀ (s : State) (e : Nat × (Nat × Nat)) (x : Site) (c : Ctx) (pg : Page) (ws : List Word) (i : Instr),
    let u : State := s.serveWarp e
    s.agenda = [] → s.engineTurn = false → s.nextServed = some e → u.commitPending = none →
    u.site 0 = some x → x.ctx? = some c → (u.core x.b.coreNum).icache = [] → u.poison = [] →
    x.pc.toNat % 4 = 0 → x.pc.toNat < x.g.codeEnd.toNat → pg.base % 2 ^ 16 = 0 →
    (∀ j w, ws[j]? = some w → u.fetchPage c (x.pc.toNat + 4 * j) = .ok pg ∧
      w.toNat = leNat ((u.tier pg.tier).bytes (pg.base + (x.pc.toNat + 4 * j) % 2 ^ 16) 4)) →
    decode ws = .ok i →
    ∃ v, (x.b.begun = true → step s = exec i v) ∧
      (∀ t, exec i v = .next t → step s = .next t ∨ step s = .next (t.beginsIn x.b.key)) ∧
      { v with cores := s.cores, free := s.free } = u ∧
      ∀ n, { v.core n with icache := [] } = { s.core n with icache := [] } ∧
        (n ≠ x.b.coreNum → v.core n = s.core n)

/-- R205, R211, R363: every memory keeps its canonical form in every step: addresses rise, and no listed byte
holds what an unlisted one reads as (log entry 1), so that equal memories are equal data. -/
def Obligations.StepKeepsMemoryForm : Prop :=
  ∀ s t : State, s.memWf = true → step s = .next t → t.memWf = true

/-- R1, R37, R347, R356, R395: the machine after reset. What other fields hold is the model's choice (log
entry 3). -/
def Obligations.ResetState : Prop :=
  State.reset.memWf = true ∧ State.reset.blocks = [] ∧ State.reset.grids = [] ∧
  State.reset.queues = [] ∧ State.reset.ctxs = [] ∧ State.reset.trav.role = .none ∧
  (∀ d, d < 4 → (State.reset.die d).slice = 1000 ∧ (State.reset.die d).drain = 500 ∧
    (State.reset.die d).stop = 200 ∧ (State.reset.die d).testdl = 10000) ∧
  (∀ n, n < 8 → smGet 0 State.reset.mr n = 0) ∧ State.reset.fw.state = .idle ∧
  ∀ n, (State.reset.core n).icache = [] ∧ (State.reset.core n).mx.holder = none
end

