-- ==== Sys2Proof/Laws/Find.lean ====
section
/-! SUPPORT. Finding and replacing blocks, warps, grids and the other records of a state. -/

namespace Sys2Proof.Machine

theorem find_replace_self {α : Type} (key : α → Nat) (l : List α) (b : α) (b0 : α)
    (h : l.find? (fun x => key x == key b) = some b0) :
    (l.map fun x => if key x = key b then b else x).find? (fun x => key x == key b) = some b := by
  induction l with
  | nil => simp at h
  | cons a t ih =>
    by_cases hk : key a = key b
    · simp [hk]
    · simp only [List.map_cons, hk, if_false]
      rw [List.find?_cons_of_neg (by simpa using hk)]
      rw [List.find?_cons_of_neg (by simpa using hk)] at h
      exact ih h

theorem find_replace_other {α : Type} (key : α → Nat) (l : List α) (b : α) (k : Nat)
    (hk : k ≠ key b) :
    (l.map fun x => if key x = key b then b else x).find? (fun x => key x == k) =
      l.find? fun x => key x == k := by
  induction l with
  | nil => rfl
  | cons a t ih =>
    by_cases ha : key a = key b
    · have h1 : ¬ key b = k := fun h => hk h.symm
      have h2 : ¬ key a = k := fun h => hk (by rw [← ha, h])
      simp [ha, h1, ih]
    · simp [ha, List.find?_cons, ih]

theorem find_key {α : Type} (key : α → Nat) (l : List α) (k : Nat) (b : α)
    (h : l.find? (fun x => key x == k) = some b) : key b = k := by
  have := List.find?_some h
  simpa using this

theorem block?_key {s : State} {k : Nat} {b : Block} (h : s.block? k = some b) : b.key = k :=
  find_key Block.key s.blocks k b h

theorem warp?_num {b : Block} {n : Nat} {w : Warp} (h : b.warp? n = some w) : w.num = n :=
  find_key Warp.num b.warps n w h

theorem grid?_id {s : State} {n : Nat} {g : Grid} (h : s.grid? n = some g) : g.id = n :=
  find_key Grid.id s.grids n g h

theorem setBlock_block?_self {s : State} {b b0 : Block} (h : s.block? b.key = some b0) :
    (s.setBlock b).block? b.key = some b := find_replace_self Block.key s.blocks b b0 h

theorem setBlock_block?_other {s : State} {b : Block} {k : Nat} (h : k ≠ b.key) :
    (s.setBlock b).block? k = s.block? k := find_replace_other Block.key s.blocks b k h

theorem setWarp_warp?_self {b : Block} {w w0 : Warp} (h : b.warp? w.num = some w0) :
    (b.setWarp w).warp? w.num = some w := find_replace_self Warp.num b.warps w w0 h

theorem setWarp_warp?_other {b : Block} {w : Warp} {n : Nat} (h : n ≠ w.num) :
    (b.setWarp w).warp? n = b.warp? n := find_replace_other Warp.num b.warps w n h

theorem setGrid_grid?_self {s : State} {g g0 : Grid} (h : s.grid? g.id = some g0) :
    (s.setGrid g).grid? g.id = some g := find_replace_self Grid.id s.grids g g0 h

theorem setGrid_grid?_other {s : State} {g : Grid} {k : Nat} (h : k ≠ g.id) :
    (s.setGrid g).grid? k = s.grid? k := find_replace_other Grid.id s.grids g k h

theorem setQueue_queue?_self {s : State} {q q0 : Queue} (h : s.queue? q.key = some q0) :
    (s.setQueue q).queue? q.key = some q := find_replace_self Queue.key s.queues q q0 h

theorem setQueue_queue?_other {s : State} {q : Queue} {k : Nat} (h : k ≠ q.key) :
    (s.setQueue q).queue? k = s.queue? k := find_replace_other Queue.key s.queues q k h

theorem setCtx_ctx?_self {s : State} {c c0 : Ctx} (h : s.ctx? c.num = some c0) :
    (s.setCtx c).ctx? c.num = some c := find_replace_self Ctx.num s.ctxs c c0 h

theorem setCtx_ctx?_other {s : State} {c : Ctx} {k : Nat} (h : k ≠ c.num) :
    (s.setCtx c).ctx? k = s.ctx? k := find_replace_other Ctx.num s.ctxs c k h

theorem setFunc_func?_self {s : State} {f f0 : Func} (h : s.func? f.num = some f0) :
    (s.setFunc f).func? f.num = some f := find_replace_self Func.num s.funcs f f0 h

theorem setFunc_func?_other {s : State} {f : Func} {k : Nat} (h : k ≠ f.num) :
    (s.setFunc f).func? k = s.func? k := find_replace_other Func.num s.funcs f k h

end Sys2Proof.Machine
end

