-- ==== Sys2Proof/Laws/Map.lean ====
section
/-! SUPPORT. The laws of sparse maps and of byte memory: reading after writing, and the canonical form
that every write keeps. -/

namespace Sys2Proof.Machine

theorem smGet_erase_self {α : Type} (d : α) (m : List (Nat × α)) (k : Nat) :
    smGet d (smErase m k) k = d := by
  induction m with
  | nil => rfl
  | cons e t ih =>
    obtain ⟨k', v⟩ := e
    by_cases h : k' = k <;> simp [smErase, smGet, h, ih]

theorem smGet_erase_ne {α : Type} (d : α) (m : List (Nat × α)) {k j : Nat} (h : j ≠ k) :
    smGet d (smErase m k) j = smGet d m j := by
  induction m with
  | nil => rfl
  | cons e t ih =>
    obtain ⟨k', v⟩ := e
    by_cases h1 : k' = k
    · have : k' ≠ j := fun h2 => h (by rw [← h2, h1])
      simp [smErase, smGet, h1, ih, Ne.symm h]
    · simp only [smErase, h1, if_false, smGet, ih]

theorem smGet_insert_ne {α : Type} (d : α) (m : List (Nat × α)) {k j : Nat} (v : α) (h : j ≠ k) :
    smGet d (smInsert m k v) j = smGet d m j := by
  induction m with
  | nil => simp [smInsert, smGet, Ne.symm h]
  | cons e t ih =>
    obtain ⟨k', v'⟩ := e
    by_cases h1 : k < k' <;> simp [smInsert, smGet, h1, Ne.symm h, ih]

theorem smGet_insert_self {α : Type} (d : α) (m : List (Nat × α)) (k : Nat) (v : α)
    (h : ∀ e ∈ m, e.1 ≠ k) : smGet d (smInsert m k v) k = v := by
  induction m with
  | nil => simp [smInsert, smGet]
  | cons e t ih =>
    obtain ⟨k', v'⟩ := e
    have h0 : k' ≠ k := h (k', v') (by simp)
    by_cases h1 : k < k'
    · simp [smInsert, smGet, h1]
    · simp [smInsert, smGet, h1, h0, ih fun e he => h e (by simp [he])]

theorem smErase_ne {α : Type} (m : List (Nat × α)) (k : Nat) : ∀ e ∈ smErase m k, e.1 ≠ k := by
  induction m with
  | nil => simp [smErase]
  | cons e t ih =>
    obtain ⟨k', v⟩ := e
    by_cases h : k' = k
    · simpa [smErase, h] using ih
    · simp only [smErase, h, if_false, List.mem_cons]
      rintro e (rfl | he)
      · exact h
      · exact ih e he

/-- Reading the key written gives the value written. -/
theorem smGet_set_self {α : Type} [DecidableEq α] (d : α) (m : List (Nat × α)) (k : Nat) (v : α) :
    smGet d (smSet d m k v) k = v := by
  unfold smSet
  split
  · next h => rw [h]; exact smGet_erase_self d m k
  · exact smGet_insert_self d _ k v (smErase_ne m k)

/-- A write leaves every other key alone. -/
theorem smGet_set_ne {α : Type} [DecidableEq α] (d : α) (m : List (Nat × α)) {k j : Nat} (v : α)
    (h : j ≠ k) : smGet d (smSet d m k v) j = smGet d m j := by
  unfold smSet
  split
  · exact smGet_erase_ne d m h
  · rw [smGet_insert_ne d _ v h, smGet_erase_ne d m h]

theorem smGet_set {α : Type} [DecidableEq α] (d : α) (m : List (Nat × α)) (k j : Nat) (v : α) :
    smGet d (smSet d m k v) j = if j = k then v else smGet d m j := by
  split
  · next h => rw [h, smGet_set_self]
  · next h => exact smGet_set_ne d m v h

/- ### The canonical form -/

/-- Every key of the map is above lo. -/
def smAbove {α : Type} (lo : Nat) (m : List (Nat × α)) : Prop := ∀ e ∈ m, lo < e.1

theorem smSorted_cons {α : Type} (k : Nat) (v : α) (t : List (Nat × α)) :
    smSorted ((k, v) :: t) = true ↔ smAbove k t ∧ smSorted t = true := by
  induction t generalizing k v with
  | nil => simp [smSorted, smAbove]
  | cons e t ih =>
    obtain ⟨k', v'⟩ := e
    simp only [smSorted, Bool.and_eq_true, decide_eq_true_eq]
    constructor
    · rintro ⟨h1, h2⟩
      refine ⟨?_, h2⟩
      intro e he
      rcases List.mem_cons.1 he with rfl | he
      · exact h1
      · exact Nat.lt_trans h1 (((ih k' v').1 h2).1 e he)
    · rintro ⟨h1, h2⟩
      exact ⟨h1 (k', v') (by simp), h2⟩

theorem smErase_mem {α : Type} (m : List (Nat × α)) (k : Nat) : ∀ e ∈ smErase m k, e ∈ m := by
  induction m with
  | nil => simp [smErase]
  | cons e t ih =>
    obtain ⟨k', v⟩ := e
    by_cases h : k' = k
    · intro e he
      simp only [smErase, h, if_true] at he
      exact List.mem_cons_of_mem _ (ih e he)
    · simp only [smErase, h, if_false, List.mem_cons]
      rintro e (rfl | he)
      · exact .inl rfl
      · exact .inr (ih e he)

theorem smErase_sorted {α : Type} (m : List (Nat × α)) (k : Nat) (h : smSorted m = true) :
    smSorted (smErase m k) = true := by
  induction m with
  | nil => rfl
  | cons e t ih =>
    obtain ⟨k', v⟩ := e
    have h1 := (smSorted_cons k' v t).1 h
    by_cases hk : k' = k
    · simpa [smErase, hk] using ih h1.2
    · simp only [smErase, hk, if_false]
      exact (smSorted_cons _ _ _).2 ⟨fun e he => h1.1 e (smErase_mem t k e he), ih h1.2⟩

theorem smInsert_mem {α : Type} (m : List (Nat × α)) (k : Nat) (v : α) :
    ∀ e ∈ smInsert m k v, e = (k, v) ∨ e ∈ m := by
  induction m with
  | nil => simp [smInsert]
  | cons e t ih =>
    obtain ⟨k', v'⟩ := e
    by_cases h : k < k'
    · simp [smInsert, h]
    · simp only [smInsert, h, if_false, List.mem_cons]
      rintro e (rfl | he)
      · exact .inr (.inl rfl)
      · rcases ih e he with h1 | h1
        · exact .inl h1
        · exact .inr (.inr h1)

theorem smInsert_sorted {α : Type} (m : List (Nat × α)) (k : Nat) (v : α) (h : smSorted m = true)
    (hk : ∀ e ∈ m, e.1 ≠ k) : smSorted (smInsert m k v) = true := by
  induction m with
  | nil => simp [smInsert, smSorted]
  | cons e t ih =>
    obtain ⟨k', v'⟩ := e
    have h1 := (smSorted_cons k' v' t).1 h
    have h0 : k' ≠ k := hk (k', v') (by simp)
    by_cases hlt : k < k'
    · simp only [smInsert, hlt, if_true]
      refine (smSorted_cons _ _ _).2 ⟨?_, h⟩
      intro e he
      rcases List.mem_cons.1 he with rfl | he
      · exact hlt
      · exact Nat.lt_trans hlt (h1.1 e he)
    · simp only [smInsert, hlt, if_false]
      refine (smSorted_cons _ _ _).2 ⟨?_, ih h1.2 fun e he => hk e (by simp [he])⟩
      intro e he
      rcases smInsert_mem t k v e he with rfl | he
      · exact Nat.lt_of_le_of_ne (Nat.le_of_not_lt hlt) h0
      · exact h1.1 e he

theorem smSet_sorted {α : Type} [DecidableEq α] (d : α) (m : List (Nat × α)) (k : Nat) (v : α)
    (h : smSorted m = true) : smSorted (smSet d m k v) = true := by
  unfold smSet
  split
  · exact smErase_sorted m k h
  · exact smInsert_sorted _ k v (smErase_sorted m k h) (smErase_ne m k)

theorem smNoDefault_iff {α : Type} [DecidableEq α] (d : α) (m : List (Nat × α)) :
    smNoDefault d m = true ↔ ∀ e ∈ m, e.2 ≠ d := by
  simp [smNoDefault, List.all_eq_true]

theorem smSet_noDefault {α : Type} [DecidableEq α] (d : α) (m : List (Nat × α)) (k : Nat) (v : α)
    (h : smNoDefault d m = true) : smNoDefault d (smSet d m k v) = true := by
  rw [smNoDefault_iff] at h ⊢
  unfold smSet
  split
  · exact fun e he => h e (smErase_mem m k e he)
  · next hv =>
    intro e he
    rcases smInsert_mem _ k v e he with rfl | he
    · exact hv
    · exact h e (smErase_mem m k e he)

/- ### Byte memory -/

theorem Memory.byte_setByte (m : Memory) (a b : Nat) (v : Byte) :
    (m.setByte a v).byte b = if b = a then v else m.byte b := smGet_set Memory.unlisted m a b v

theorem Memory.wf_setByte (m : Memory) (a : Nat) (v : Byte) (h : m.wf = true) :
    (m.setByte a v).wf = true := by
  simp only [Memory.wf, Bool.and_eq_true] at h ⊢
  exact ⟨smSet_sorted _ m a v h.1, smSet_noDefault _ m a v h.2⟩

theorem Memory.wf_setBytes (l : List Byte) : ∀ (m : Memory) (a : Nat), m.wf = true →
    (m.setBytes a l).wf = true := by
  induction l with
  | nil => exact fun m a h => h
  | cons b t ih => exact fun m a h => ih _ (a + 1) (Memory.wf_setByte m a b h)

theorem Memory.wf_setWord64 (m : Memory) (a : Nat) (v : DWord) (h : m.wf = true) :
    (m.setWord64 a v).wf = true := Memory.wf_setBytes _ m a h

theorem Memory.byte_setBytes_out (l : List Byte) : ∀ (m : Memory) (a b : Nat),
    b < a ∨ a + l.length ≤ b → (m.setBytes a l).byte b = m.byte b := by
  induction l with
  | nil => exact fun m a b _ => rfl
  | cons x t ih =>
    intro m a b h
    have h' : b < a ∨ a + t.length + 1 ≤ b := by
      simpa [Nat.add_assoc] using h
    rw [Memory.setBytes, ih _ (a + 1) b (by omega), Memory.byte_setByte, if_neg (by omega)]

theorem Memory.byte_setBytes_in (l : List Byte) : ∀ (m : Memory) (a k : Nat) (h : k < l.length),
    (m.setBytes a l).byte (a + k) = l[k] := by
  induction l with
  | nil => intro m a k h; simp at h
  | cons x t ih =>
    intro m a k h
    cases k with
    | zero =>
      rw [Memory.setBytes, Memory.byte_setBytes_out t _ (a + 1) _ (by omega), Memory.byte_setByte]
      simp
    | succ k =>
      have := ih (m.setByte a x) (a + 1) k (by simpa using h)
      rw [Memory.setBytes, show a + (k + 1) = a + 1 + k by omega, this]
      simp

theorem Memory.bytes_setBytes (l : List Byte) : ∀ (m : Memory) (a : Nat),
    (m.setBytes a l).bytes a l.length = l := by
  induction l with
  | nil => intros; rfl
  | cons x t ih =>
    intro m a
    have h0 : (m.setBytes a (x :: t)).byte a = x := by
      have := Memory.byte_setBytes_in (x :: t) m a 0 (by simp)
      simpa using this
    simp only [List.length_cons, Memory.bytes, h0]
    rw [Memory.setBytes, ih]

theorem leBytes_length (n x : Nat) : (leBytes n x).length = n := by
  induction n generalizing x with
  | zero => rfl
  | succ n ih => simp [leBytes, ih]

theorem leNat_leBytes (n : Nat) : ∀ x, leNat (leBytes n x) = x % 256 ^ n := by
  induction n with
  | zero => intro x; simp [leBytes, leNat, Nat.mod_one]
  | succ n ih =>
    intro x
    simp only [leBytes, leNat, ih]
    rw [Nat.pow_succ, Nat.mul_comm (256 ^ n) 256, Nat.mod_mul]
    simp

/-- A 64-bit word reads back as it was written (R3). -/
theorem Memory.word64_setWord64 (m : Memory) (a : Nat) (v : DWord) :
    (m.setWord64 a v).word64 a = v := by
  have h := Memory.bytes_setBytes (leBytes 8 v.toNat) m a
  rw [leBytes_length] at h
  simp only [Memory.word64, Memory.setWord64, h, leNat_leBytes]
  apply BitVec.eq_of_toNat_eq
  have := v.isLt
  simp only [BitVec.toNat_ofNat]
  omega

end Sys2Proof.Machine
end

