-- ==== Sys2Proof/Laws/Warp.lean ====
section
/-! SUPPORT. Reading the registers of a warp after a write: per lane, over all lanes of a mask, and the
fields that each write leaves alone. -/

namespace Sys2Proof.Machine

theorem vkey_inj {n m l k : Nat} (hl : l < 32) (hk : k < 32) :
    vkey n l = vkey m k ↔ n = m ∧ l = k := by
  unfold vkey; omega

theorem vget_vset {w : Warp} {n m l k : Nat} {x : Word} (hl : l < 32) (hk : k < 32) :
    (w.vset n l x).vget m k = if m = n ∧ k = l then x else w.vget m k := by
  have h := smGet_set (0 : Word) w.v (vkey n l) (vkey m k) x
  simp only [vkey_inj hk hl] at h
  exact h

@[simp] theorem others_vset (w : Warp) (n l : Nat) (x : Word) :
    (w.vset n l x).others =
      { w.others with v := (w.vset n l x).v, poison := (w.vset n l x).poison } := rfl

theorem sget_sset (w : Warp) (n m : Nat) (x : DWord) :
    (w.sset n x).sget m = if m = n then x else w.sget m := smGet_set 0 w.s n m x

theorem pget_pset (w : Warp) (n k : Nat) (m x : Mask) :
    (w.pset n m x).pget k = if k = n then (w.pget n &&& ~~~m) ||| (x &&& m) else w.pget k :=
  smGet_set 0 w.p n k _

theorem ckget_ckset (w : Warp) (n k : Nat) (x : DWord) :
    (w.ckset n x).ckget k = if k = n then x else w.ckget k := smGet_set 0 w.ck n k x

theorem token_setToken (w : Warp) (n k : Nat) (x : BitVec 6) :
    (w.setToken n x).token k = if k = n then x else w.token k := smGet_set 0 w.tokens n k x

theorem pbit_pset (w : Warp) (n k l : Nat) (m x : Mask) (hl : l < 32) :
    (w.pset n m x).pbit k l =
      if k = n then (if m.getLsbD l then x.getLsbD l else w.pbit n l) else w.pbit k l := by
  unfold Warp.pbit
  rw [pget_pset]
  split
  · simp only [BitVec.getLsbD_or, BitVec.getLsbD_and, BitVec.getLsbD_not, hl, decide_true,
      Bool.true_and]
    cases m.getLsbD l <;> simp
  · rfl

/- ### Masks of lanes -/

theorem maskOf_foldl (f : Nat → Bool) (ls : List Nat) (m : Mask) (l : Nat) (hl : l < 32)
    (hb : ∀ k ∈ ls, k < 32) :
    (ls.foldl (fun m l => if f l then m ||| laneBit l else m) m).getLsbD l =
      (m.getLsbD l || (decide (l ∈ ls) && f l)) := by
  induction ls generalizing m with
  | nil => simp
  | cons a t ih =>
    have ha : a < 32 := hb a (by simp)
    rw [List.foldl_cons, ih _ fun k hk => hb k (by simp [hk])]
    by_cases hal : l = a
    · subst hal
      by_cases hf : f l <;> simp [hf, laneBit, hl]
    · have h1 : (laneBit a).getLsbD l = false := by
        simp only [laneBit, BitVec.getLsbD_shiftLeft]
        by_cases h2 : l < a
        · simp [h2]
        · have : l - a ≠ 0 := by omega
          simp [hl, h2, BitVec.getLsbD_one, this]
      by_cases hf : f a <;> simp [hf, hal, h1]

/-- Bit l of the mask of the lanes for which f holds. -/
theorem maskOf_bit (f : Nat → Bool) (l : Nat) (hl : l < 32) : (maskOf f).getLsbD l = f l := by
  have h := maskOf_foldl f lanes 0 l hl (by decide)
  unfold maskOf
  rw [h]
  have : l ∈ lanes := by simpa [lanes] using hl
  simp [this]

theorem laneBit_bit (l k : Nat) (hk : k < 32) : (laneBit l).getLsbD k = decide (k = l) := by
  simp only [laneBit, BitVec.getLsbD_shiftLeft]
  by_cases h : k = l
  · subst h; simp [hk]
  · by_cases h2 : k < l
    · simp [h2, h]
    · have : k - l ≠ 0 := by omega
      simp [hk, h2, BitVec.getLsbD_one, this, h]

/- ### A write in each lane of a mask -/

/-- Folding f over lanes keeps a property that each call keeps. -/
theorem eachLane_induct {P : Warp → Prop} (m : Mask) (f : Warp → Nat → Warp) (w : Warp) (h0 : P w)
    (hf : ∀ u l, l < 32 → P u → P (f u l)) : P (w.eachLane m f) := by
  unfold Warp.eachLane
  have hb : ∀ k ∈ lanes, k < 32 := by decide
  generalize lanes = ls at hb ⊢
  induction ls generalizing w with
  | nil => exact h0
  | cons a t ih =>
    rw [List.foldl_cons]
    refine ih _ ?_ fun k hk => hb k (by simp [hk])
    split
    · exact hf w a (hb a (by simp)) h0
    · exact h0

/-- What lane k sees after f in each lane of m, where f in lane l sets lane l's view to `new l` and
leaves the other lanes' views: the new value in the lanes of m, the old one elsewhere. -/
theorem eachLane_view {β : Type} (m : Mask) (f : Warp → Nat → Warp) (view : Warp → Nat → β)
    (new : Nat → β) (w : Warp)
    (hs : ∀ u l, l < 32 → view (f u l) l = new l)
    (ho : ∀ u l k, l < 32 → k < 32 → k ≠ l → view (f u l) k = view u k) (k : Nat) (hk : k < 32) :
    view (w.eachLane m f) k = if m.getLsbD k then new k else view w k := by
  unfold Warp.eachLane
  have hb : ∀ k ∈ lanes, k < 32 := by decide
  have key : ∀ (ls : List Nat) (u : Warp), (∀ j ∈ ls, j < 32) →
      view (ls.foldl (fun w l => if m.getLsbD l then f w l else w) u) k =
        if k ∈ ls ∧ m.getLsbD k = true then new k else view u k := by
    intro ls
    induction ls with
    | nil => intro u _; simp
    | cons a t ih =>
      intro u hls
      have ha : a < 32 := hls a (by simp)
      rw [List.foldl_cons, ih _ fun j hj => hls j (by simp [hj])]
      by_cases hm : k ∈ t ∧ m.getLsbD k = true
      · rw [if_pos hm, if_pos ⟨by simp [hm.1], hm.2⟩]
      · rw [if_neg hm]
        by_cases hka : k = a
        · subst hka
          by_cases hmk : m.getLsbD k = true
          · rw [if_pos hmk, hs u k hk, if_pos ⟨by simp, hmk⟩]
          · rw [if_neg hmk, if_neg fun h => hmk h.2]
        · have h1 : ¬ (k ∈ a :: t ∧ m.getLsbD k = true) := by
            rintro ⟨h2, h3⟩
            rcases List.mem_cons.1 h2 with h4 | h4
            · exact hka h4
            · exact hm ⟨h4, h3⟩
          rw [if_neg h1]
          split
          · exact ho u a k ha hk hka
          · rfl
  have := key lanes w hb
  rw [this]
  have hmem : k ∈ lanes := by simpa [lanes] using hk
  simp [hmem]

/-- A single register written in each lane of m. -/
theorem vwritten_each32 (w : Warp) (m : Mask) (d : Nat) (f : Nat → Word) :
    VWritten w (w.eachLane m fun w l => w.vset d l (f l)) d 1 m fun l _ => f l := by
  refine ⟨?_, ?_, ?_⟩
  · intro l j hl hm hj
    have hj0 : j = 0 := by omega
    subst hj0
    have := eachLane_view m (fun w l => w.vset d l (f l)) (fun w l => w.vget d l) f w
      (fun u l hl => by simp [vget_vset hl hl])
      (fun u l k hl hk hne => by simp [vget_vset hl hk, hne]) l hl
    simpa [hm] using this
  · intro n l hl h
    by_cases hn : n = d
    · subst hn
      have hm : m.getLsbD l = false := by
        rcases h with h | h | h
        · exact h
        · omega
        · omega
      have := eachLane_view m (fun w l => w.vset n l (f l)) (fun w l => w.vget n l) f w
        (fun u l hl => by simp [vget_vset hl hl])
        (fun u l k hl hk hne => by simp [vget_vset hl hk, hne]) l hl
      simpa [hm] using this
    · exact eachLane_induct (P := fun u => u.vget n l = w.vget n l) m _ w rfl
        (fun u k hk hu => by simp [vget_vset hk hl, hn, hu])
  · exact eachLane_induct (P := fun u => u.others = { w with v := u.v, poison := u.poison }.others) m _
      w rfl (fun u k hk hu => by rw [others_vset, hu]; rfl)

theorem vget_vset64 {w : Warp} {n m l k : Nat} {x : DWord} (hl : l < 32) (hk : k < 32) :
    (w.vset64 n l x).vget m k =
      if m = n + 1 ∧ k = l then x.extractLsb' 32 32
      else if m = n ∧ k = l then x.extractLsb' 0 32 else w.vget m k := by
  simp only [Warp.vset64, vget_vset hl hk]

theorem others_vset64 (w : Warp) (n l : Nat) (x : DWord) :
    (w.vset64 n l x).others =
      { w.others with v := (w.vset64 n l x).v, poison := (w.vset64 n l x).poison } := rfl

/-- A register pair written in each lane of m. -/
theorem vwritten_each64 (w : Warp) (m : Mask) (d : Nat) (f : Nat → DWord) :
    VWritten w (w.eachLane m fun w l => w.vset64 d l (f l)) d 2 m
      fun l j => (f l).extractLsb' (32 * j) 32 := by
  refine ⟨?_, ?_, ?_⟩
  · intro l j hl hm hj
    have := eachLane_view m (fun w l => w.vset64 d l (f l)) (fun w l => (w.vget d l, w.vget (d + 1) l))
      (fun l => ((f l).extractLsb' 0 32, (f l).extractLsb' 32 32)) w
      (fun u l hl => by simp [vget_vset64 hl hl])
      (fun u l k hl hk hne => by simp [vget_vset64 hl hk, hne]) l hl
    rw [if_pos hm] at this
    have h1 := congrArg Prod.fst this
    have h2 := congrArg Prod.snd this
    have : j = 0 ∨ j = 1 := by omega
    rcases this with rfl | rfl
    · exact h1
    · exact h2
  · intro n l hl h
    by_cases hn : n = d ∨ n = d + 1
    · have hm : m.getLsbD l = false := by
        rcases h with h | h | h
        · exact h
        · omega
        · omega
      have := eachLane_view m (fun w l => w.vset64 d l (f l))
        (fun w l => (w.vget d l, w.vget (d + 1) l))
        (fun l => ((f l).extractLsb' 0 32, (f l).extractLsb' 32 32)) w
        (fun u l hl => by simp [vget_vset64 hl hl])
        (fun u l k hl hk hne => by simp [vget_vset64 hl hk, hne]) l hl
      rw [hm] at this
      simp only [Bool.false_eq_true, if_false, Prod.mk.injEq] at this
      rcases hn with rfl | rfl
      · exact this.1
      · exact this.2
    · have h1 : n ≠ d := fun e => hn (.inl e)
      have h2 : n ≠ d + 1 := fun e => hn (.inr e)
      exact eachLane_induct (P := fun u => u.vget n l = w.vget n l) m _ w rfl
        (fun u k hk hu => by simp [vget_vset64 hk hl, h1, h2, hu])
  · exact eachLane_induct (P := fun u => u.others = { w with v := u.v, poison := u.poison }.others) m _
      w rfl (fun u k hk hu => by rw [others_vset64, hu]; rfl)

end Sys2Proof.Machine
end

