-- ==== Sys2Proof/Laws/Issue.lean ====
section
/-! SUPPORT. What leaving an instruction can do, said once: where the lanes stand, what the warp holds,
and that all else is kept. -/

namespace Sys2Proof.Machine

/- ### A grid that ends -/

theorem endGrid_blocks (s : State) (n : Nat) (e : Ending) : (s.endGrid n e).blocks = s.blocks := by
  unfold State.endGrid
  split
  · rfl
  · split
    · rfl
    · dsimp only; split <;> rfl

theorem endGrid_apart (s : State) (n : Nat) (e : Ending) : (s.endGrid n e).apart = s.apart := by
  unfold State.endGrid
  split
  · rfl
  · split
    · rfl
    · dsimp only; split <;> rfl

theorem endGrid_grids (s : State) (n : Nat) (e : Ending) (k : Nat) :
    ((s.endGrid n e).grid? k).map Grid.apart = (s.grid? k).map Grid.apart := by
  unfold State.endGrid
  split
  · rfl
  · next g hg =>
    split
    · rfl
    · have hid := grid?_id hg
      have key : ((s.setGrid { g with ending := some e }).grid? k).map Grid.apart =
          (s.grid? k).map Grid.apart := by
        by_cases h : k = g.id
        · subst h
          have h0 : s.grid? g.id = some g := by rw [hid]; exact hg
          have := setGrid_grid?_self (s := s) (g := { g with ending := some e }) (g0 := g) h0
          have h2 : (s.setGrid { g with ending := some e }).grid? g.id =
            some { g with ending := some e } := this
          rw [h2, h0]; rfl
        · have := setGrid_grid?_other (s := s) (g := { g with ending := some e }) (k := k) h
          rw [this]
      dsimp only
      split
      · exact key
      · exact key

/- ### Writing a warp back -/

/-- t is s with warp w of block b written back: that warp is w', the block is b but for it, and all
else is as in s but that a grid can have ended. -/
structure PutBack (s : State) (b : Block) (n : Nat) (w' : Warp) (t : State) : Prop where
  warp : t.warpAt (b.key, n) = some w'
  rest : t.apart = s.apart
  grids : ∀ g, (t.grid? g).map Grid.apart = (s.grid? g).map Grid.apart
  blocks : ∀ k, k ≠ b.key → t.block? k = s.block? k
  block : (t.block? b.key).map Block.apart = some b.apart
  warps : ∀ m, m ≠ n → t.warpAt (b.key, m) = b.warp? m

theorem putBack_setBlock {s : State} {b b0 : Block} {w w0 : Warp}
    (hb : s.block? b.key = some b0) (hw : b.warp? w.num = some w0) :
    PutBack s b w.num w (s.setBlock (b.setWarp w)) := by
  have h1 : (s.setBlock (b.setWarp w)).block? b.key = some (b.setWarp w) :=
    setBlock_block?_self (s := s) (b := b.setWarp w) hb
  refine ⟨?_, rfl, fun _ => rfl, ?_, ?_, ?_⟩
  · simp only [State.warpAt, h1, Option.bind_some]
    exact setWarp_warp?_self hw
  · exact fun k hk => setBlock_block?_other (s := s) (b := b.setWarp w) hk
  · rw [h1]; rfl
  · intro m hm
    simp only [State.warpAt, h1, Option.bind_some]
    exact setWarp_warp?_other hm

theorem putBack_endGrid {s t : State} {b : Block} {n : Nat} {w' : Warp} (h : PutBack s b n w' t)
    (g : Nat) (e : Ending) : PutBack s b n w' (t.endGrid g e) := by
  have hbl : ∀ k, (t.endGrid g e).block? k = t.block? k := by
    intro k; simp only [State.block?, endGrid_blocks]
  have hw : ∀ k, (t.endGrid g e).warpAt k = t.warpAt k := by
    intro k; simp only [State.warpAt, hbl]
  exact ⟨by rw [hw]; exact h.warp, by rw [endGrid_apart]; exact h.rest,
    fun k => by rw [endGrid_grids]; exact h.grids k, fun k hk => by rw [hbl]; exact h.blocks k hk,
    by rw [hbl]; exact h.block, fun m hm => by rw [hw]; exact h.warps m hm⟩

theorem takeTrap_num (w : Warp) (e : Word) : (w.takeTrap e).num = w.num := by
  unfold Warp.takeTrap
  split
  · split <;> rfl
  · rfl

theorem takeTrap_others (w : Warp) (e : Word) : (w.takeTrap e).others = w.others := by
  unfold Warp.takeTrap
  split
  · split <;> rfl
  · rfl

theorem takeTrap_frontier (w : Warp) (e : Word) : (w.takeTrap e).frontier = w.frontier := by
  unfold Warp.takeTrap
  split
  · split <;> rfl
  · rfl

theorem takeTrap_straps (w : Warp) (e : Word) : (w.takeTrap e).straps = w.straps := by
  unfold Warp.takeTrap
  split
  · split <;> rfl
  · rfl

/-- Writing a warp back, with a pending user trap taken. -/
theorem putBack_putWarp {s : State} {b b0 : Block} {w w0 : Warp} (g : Grid)
    (hb : s.block? b.key = some b0) (hw : b.warp? w.num = some w0) :
    PutBack s b w.num (w.takeTrap g.img.desc.trapent) (s.putWarp b w g) := by
  have hn := takeTrap_num w g.img.desc.trapent
  have h : PutBack s b w.num (w.takeTrap g.img.desc.trapent)
      (s.setBlock (b.setWarp (w.takeTrap g.img.desc.trapent))) := by
    have := putBack_setBlock (s := s) (b := b) (w := w.takeTrap g.img.desc.trapent) (w0 := w0) hb
      (by rw [hn]; exact hw)
    rw [hn] at this
    exact this
  unfold State.putWarp
  dsimp only
  split
  · split
    · exact putBack_endGrid h _ _
    · exact h
  · exact h

/- ### Frontiers -/

theorem standsIn_cons_pos {e : Entry} {t : List Entry} {l : Nat} (h : e.mask.getLsbD l = true) :
    standsIn (e :: t) l = some (e.pc, e.park) := by
  simp only [standsIn, List.find?_cons, h, Option.map_some]

theorem standsIn_cons_neg {e : Entry} {t : List Entry} {l : Nat} (h : e.mask.getLsbD l = false) :
    standsIn (e :: t) l = standsIn t l := by
  simp only [standsIn, List.find?_cons, h]

theorem mergeEntry_stands_other (e : Entry) (l : Nat) (h : e.mask.getLsbD l = false) :
    ∀ fr : List Entry, standsIn (mergeEntry e fr) l = standsIn fr l := by
  intro fr
  induction fr with
  | nil => exact standsIn_cons_neg h
  | cons f t ih =>
    unfold mergeEntry
    cases hf : f.mask.getLsbD l
    · split
      · rw [standsIn_cons_neg (by simpa [BitVec.getLsbD_or, h] using hf), standsIn_cons_neg hf]
      · rw [standsIn_cons_neg hf, standsIn_cons_neg hf, ih]
    · split
      · rw [standsIn_cons_pos hf, standsIn_cons_pos (by rw [BitVec.getLsbD_or, hf]; rfl)]
      · rw [standsIn_cons_pos hf, standsIn_cons_pos hf]

theorem mergeEntry_stands_self (e : Entry) (l : Nat) (h : e.mask.getLsbD l = true) :
    ∀ fr : List Entry, (∀ f ∈ fr, f.mask.getLsbD l = false) →
      standsIn (mergeEntry e fr) l = some (e.pc, e.park) := by
  intro fr
  induction fr with
  | nil => exact fun _ => standsIn_cons_pos h
  | cons f t ih =>
    intro hfr
    have hf : f.mask.getLsbD l = false := hfr f (by simp)
    unfold mergeEntry
    split
    · next hm =>
      simp only [Bool.and_eq_true, decide_eq_true_eq] at hm
      rw [standsIn_cons_pos (by rw [BitVec.getLsbD_or, h]; simp)]
      rw [hm.1, hm.2]
    · rw [standsIn_cons_neg hf, ih fun g hg => hfr g (by simp [hg])]

theorem mergeEntry_bit (e : Entry) (l : Nat) (h : e.mask.getLsbD l = false) :
    ∀ fr : List Entry, (∀ f ∈ fr, f.mask.getLsbD l = false) →
      ∀ f ∈ mergeEntry e fr, f.mask.getLsbD l = false := by
  intro fr
  induction fr with
  | nil => intro _ f hf; simp [mergeEntry] at hf; rw [hf]; exact h
  | cons a t ih =>
    intro hfr f hf
    have ha := hfr a (by simp)
    unfold mergeEntry at hf
    split at hf
    · rcases List.mem_cons.1 hf with rfl | hf
      · show (a.mask ||| e.mask).getLsbD l = false
        rw [BitVec.getLsbD_or, ha, h]; rfl
      · exact hfr f (by simp [hf])
    · rcases List.mem_cons.1 hf with rfl | hf
      · exact ha
      · exact ih (fun g hg => hfr g (by simp [hg])) f hf

theorem addEntry_bit (fr : List Entry) (e : Entry) (l : Nat) (h : e.mask.getLsbD l = false)
    (hfr : ∀ f ∈ fr, f.mask.getLsbD l = false) : ∀ f ∈ addEntry fr e, f.mask.getLsbD l = false := by
  unfold addEntry
  split
  · exact hfr
  · exact mergeEntry_bit e l h fr hfr

theorem dropLanes_bit (fr : List Entry) (m : Mask) (l : Nat) (hl : l < 32)
    (hm : m.getLsbD l = true) : ∀ f ∈ dropLanes fr m, f.mask.getLsbD l = false := by
  intro f hf
  simp only [dropLanes, List.mem_filter, List.mem_map] at hf
  obtain ⟨⟨e, _, rfl⟩, _⟩ := hf
  rw [BitVec.getLsbD_and, BitVec.getLsbD_not]
  simp [hm, hl]

theorem dropLanes_cons (e : Entry) (t : List Entry) (m : Mask) :
    dropLanes (e :: t) m =
      if e.mask &&& ~~~m = 0 then dropLanes t m
      else { e with mask := e.mask &&& ~~~m } :: dropLanes t m := by
  unfold dropLanes
  by_cases h : e.mask &&& ~~~m = 0
  · simp [h]
  · rw [if_neg h, List.map_cons, List.filter_cons_of_pos (by simpa using h)]

theorem dropLanes_stands (fr : List Entry) (m : Mask) (l : Nat) (hl : l < 32)
    (hm : m.getLsbD l = false) : standsIn (dropLanes fr m) l = standsIn fr l := by
  induction fr with
  | nil => rfl
  | cons e t ih =>
    have hbit : (e.mask &&& ~~~m).getLsbD l = e.mask.getLsbD l := by
      rw [BitVec.getLsbD_and, BitVec.getLsbD_not, hm]
      simp only [hl, decide_true, Bool.not_false, Bool.and_self, Bool.and_true]
    rw [dropLanes_cons]
    split
    · next h0 =>
      rw [h0] at hbit
      rw [ih, standsIn_cons_neg (by rw [← hbit]; simp)]
    · cases he : e.mask.getLsbD l
      · rw [standsIn_cons_neg (by rw [hbit]; exact he), standsIn_cons_neg he, ih]
      · rw [standsIn_cons_pos (by rw [hbit]; exact he), standsIn_cons_pos he]

theorem addEntry_stands_other (fr : List Entry) (e : Entry) (l : Nat) (h : e.mask.getLsbD l = false) :
    standsIn (addEntry fr e) l = standsIn fr l := by
  unfold addEntry
  split
  · rfl
  · exact mergeEntry_stands_other e l h fr

theorem addEntry_stands_self (fr : List Entry) (e : Entry) (l : Nat) (h : e.mask.getLsbD l = true)
    (hfr : ∀ f ∈ fr, f.mask.getLsbD l = false) :
    standsIn (addEntry fr e) l = some (e.pc, e.park) := by
  unfold addEntry
  split
  · next h0 => rw [h0] at h; simp at h
  · exact mergeEntry_stands_self e l h fr hfr

/- ### The end of an ordinary instruction -/

/-- What `site` gives: the block and the warp it names, by the keys of the current warp. -/
theorem site_spec {s : State} {len : Nat} {x : Site} (h : s.site len = some x) :
    x.s = s ∧ x.len = len ∧ s.block? x.b.key = some x.b ∧ x.b.warp? x.w.num = some x.w ∧
      x.b.key = s.cur.1 ∧ x.w.num = s.cur.2 ∧ s.grid? x.b.grid = some x.g ∧
      (x.handler = x.w.frame.isSome) := by
  unfold State.site at h
  split at h
  · cases h
  · split at h
    · cases h
    · next b hb =>
      have hkb := block?_key hb
      split at h
      · next w g hw hg =>
        have hkw := warp?_num hw
        split at h
        · split at h
          · next f hf =>
            cases h
            exact ⟨rfl, rfl, by rw [hkb]; exact hb, by rw [hkw]; exact hw, hkb, hkw, hg,
              by simp [hf]⟩
          · next hf =>
            split at h
            · cases h
              exact ⟨rfl, rfl, by rw [hkb]; exact hb, by rw [hkw]; exact hw, hkb, hkw, hg,
                by simp [hf]⟩
            · cases h
        · cases h
      · cases h

theorem kept_of_putBack {s s' t : State} {b b0 : Block} {n : Nat} {w' : Warp}
    (h : PutBack s' b n w' t) (hs : s.cur = (b.key, n)) (hb : s.block? b.key = some b0)
    (hap : s'.apart = s.apart) (hgr : s'.grids = s.grids) (hbl : s'.blocks = s.blocks)
    (hba : b.apart = b0.apart) (hbw : ∀ m, m ≠ n → b.warp? m = b0.warp? m) :
    t.warpAt s.cur = some w' ∧ OthersKept s t := by
  refine ⟨by rw [hs]; exact h.warp, ?_, ?_, ?_, ?_, ?_⟩
  · rw [h.rest, hap]
  · intro g
    rw [h.grids]
    simp only [State.grid?, hgr]
  · intro k hk
    rw [hs] at hk
    rw [h.blocks k hk]
    simp only [State.block?, hbl]
  · rw [hs]
    show (t.block? b.key).map _ = (s.block? b.key).map _
    rw [h.block, hb, Option.map_some, hba]
  · intro m hm
    rw [hs] at hm ⊢
    show t.warpAt (b.key, m) = s.warpAt (b.key, m)
    rw [h.warps m hm, hbw m hm]
    simp [State.warpAt, hb]

theorem raise_others (w : Warp) (cb pc : DWord) (prio : BitVec 8) (m : Mask) (len : Nat) (c : Cause) :
    (w.raise cb pc prio m len c).others = w.others := by
  unfold Warp.raise
  dsimp only
  split <;> rfl

theorem raise_frontier (w : Warp) (cb pc : DWord) (prio : BitVec 8) (m : Mask) (len : Nat) (c : Cause) :
    (w.raise cb pc prio m len c).frontier = addEntry w.frontier ⟨pc, prio, m, c.code.park⟩ := by
  unfold Warp.raise
  dsimp only
  split <;> rfl

theorem raise_frame (w : Warp) (cb pc : DWord) (prio : BitVec 8) (m : Mask) (len : Nat) (c : Cause) :
    (w.raise cb pc prio m len c).frame = w.frame := by
  unfold Warp.raise
  dsimp only
  split <;> rfl

/-- Whatever `others` shows of a warp is the same of two warps whose `others` agree. -/
theorem of_others {β : Type} (f : Warp → β) {w w' : Warp} (h : w'.others = w.others)
    (hf : ∀ u : Warp, f u.others = f u := by intro u; rfl) : f w' = f w := by
  rw [← hf w', ← hf w, h]

theorem num_of_others {w w' : Warp} (h : w'.others = w.others) : w'.num = w.num :=
  of_others Warp.num h

/-- Moves that end no lane leave every register as it was. -/
theorem move_others (w : Warp) (g : Grid) (pc : DWord) (prio : BitVec 8) (len : Nat) (w0 : DWord)
    (m : Mask) (mv : Move) (h : mv ≠ .exit) : (w.move g pc prio len w0 m mv).others = w.others := by
  unfold Warp.move
  split
  · rfl
  · cases mv with
    | next => dsimp only; split
              · exact raise_others ..
              · rfl
    | goto t p => dsimp only; split
                  · rfl
                  · exact raise_others ..
    | stay p => rfl
    | park c => rfl
    | exit => exact absurd rfl h
    | trap c => exact raise_others ..
    | replay c => rfl

/-- Where the lanes of a part that moves on come to stand. -/
theorem move_next_stands (w : Warp) (g : Grid) (pc : DWord) (prio : BitVec 8) (len : Nat) (w0 : DWord)
    (m : Mask) (l : Nat) :
    (m.getLsbD l = true → (∀ f ∈ w.frontier, f.mask.getLsbD l = false) →
      (w.move g pc prio len w0 m .next).stands l =
        if g.codeEnd.toNat ≤ (pc + BitVec.ofNat 64 len).toNat then some (g.codeEnd, 2)
        else some (pc + BitVec.ofNat 64 len, 0)) ∧
    (m.getLsbD l = false → (w.move g pc prio len w0 m .next).stands l = w.stands l) := by
  unfold Warp.move
  split
  · next h0 => exact ⟨fun h => by rw [h0] at h; simp at h, fun _ => rfl⟩
  · dsimp only
    split
    · simp only [Warp.stands, raise_frontier]
      refine ⟨fun h hfr => ?_, fun h => ?_⟩
      · exact addEntry_stands_self _ _ l h hfr
      · exact addEntry_stands_other _ _ l h
    · refine ⟨fun h hfr => ?_, fun h => ?_⟩
      · exact addEntry_stands_self _ _ l h hfr
      · exact addEntry_stands_other _ _ l h

/-- A legal target lies before the end of the code (R117). -/
theorem legalPc_inside {g : Grid} {a : DWord} (h : g.legalPc a = true) : a.toNat < g.codeEnd.toNat := by
  simp only [Grid.legalPc, Bool.and_eq_true, decide_eq_true_eq] at h
  omega

/-- In a handler an instruction all of whose lanes go one way leaves that way (R335, R336). -/
theorem leave_handler {x : Site} (h : x.handler = true) (w0 : DWord) (m : Mask) (mv : Move)
    (hm : m ≠ 0 ∨ mv = .next) : x.leave w0 [(m, mv)] = x.leaveHandler w0 mv := by
  unfold Site.leave
  rw [if_pos h]
  by_cases h0 : m = 0
  · rw [List.find?_cons_of_neg (by simp [h0])]
    rcases hm with hm | hm
    · exact absurd h0 hm
    · rw [hm]; rfl
  · rw [List.find?_cons_of_pos (by simpa using h0)]

/-- An instruction that has been performed leaves: the warp that holds its results is written back, the
instruction has been passed, and all else is kept. -/
theorem done_spec_in {s s' : State} {len : Nat} {x : Site} {w : Warp} (hx : s.site len = some x)
    (hap : s'.apart = s.apart) (hgr : s'.grids = s.grids) (hbl : s'.blocks = s.blocks)
    (hn : w.num = x.w.num) (hf : w.frontier = x.w.frontier)
    (hfr : w.frame.isSome = x.w.frame.isSome) :
    ∃ w', (({ x with s := s', w := w } : Site).done).warpAt s.cur = some w' ∧ w'.others = w.others ∧
      x.passed w' ∧ OthersKept s ({ x with s := s', w := w } : Site).done := by
  obtain ⟨-, -, hb, hw, hk, hwn, -, hh⟩ := site_spec hx
  have hb' : s'.block? x.b.key = some x.b := by simp only [State.block?, hbl]; exact hb
  have hcur : s.cur = (x.b.key, x.w.num) := by rw [hk, hwn]
  have fin : ∀ (v w'' : Warp) (t : State), v.num = x.w.num → PutBack s' x.b v.num w'' t →
      t.warpAt s.cur = some w'' ∧ OthersKept s t := by
    intro v w'' t hv h
    rw [hv] at h
    exact kept_of_putBack h hcur hb hap hgr hbl rfl fun _ _ => rfl
  unfold Site.done
  by_cases hhd : x.handler = true
  · have hfx : ∃ f, w.frame = some f := by
      rw [hhd] at hh
      rw [← hfr] at hh
      exact Option.isSome_iff_exists.1 hh.symm
    obtain ⟨f, hff⟩ := hfx
    have com : ∀ v : Warp, v.num = x.w.num →
        PutBack s' x.b v.num v (({ x with s := s', w := v } : Site).commit) := by
      intro v hv
      exact putBack_setBlock hb' (by rw [hv]; exact hw)
    have hhd' : ({ x with s := s', w := w } : Site).handler = true := hhd
    rw [leave_handler hhd' 0 _ _ (.inr rfl)]
    unfold Site.leaveHandler
    simp only [hff]
    by_cases hl : x.g.codeEnd.toNat ≤ (x.pc + BitVec.ofNat 64 x.len).toNat
    · simp only [hl, if_true]
      unfold Site.handlerStop
      simp only [Site.withW]
      have h := fin _ _ _ hn (com { w with
        frame := some { f with hoff := (x.g.codeEnd - x.g.cb).extractLsb' 0 32 }
        straps := w.straps ++ [mkTrap x.g.cb x.g.codeEnd x.mask 0 false (Cause.one .illop 0)],
        st := { w.st with hold := true } } hn)
      refine ⟨_, h.1, rfl, ?_, h.2⟩
      unfold Site.passed
      rw [if_pos hhd]
      exact ⟨hf, fun h' => absurd hl (Nat.not_le.2 (legalPc_inside h'))⟩
    · simp only [hl, if_false]
      have h := fin _ _ _ hn (com { w with frame := some { f with
        hoff := (x.pc + BitVec.ofNat 64 x.len - x.g.cb).extractLsb' 0 32 } } hn)
      refine ⟨_, h.1, rfl, ?_, h.2⟩
      unfold Site.passed
      rw [if_pos hhd]
      exact ⟨hf, fun _ => rfl⟩
  · have hhd0 : x.handler = false := by simpa using hhd
    unfold Site.leave
    simp only [hhd0, Bool.false_eq_true, if_false, List.foldl_cons, List.foldl_nil]
    generalize hu : Warp.move { w with frontier := dropLanes w.frontier x.mask } x.g x.pc x.prio x.len 0
      x.mask Move.next = u
    have hou : u.others = w.others := by
      rw [← hu, move_others _ _ _ _ _ _ _ _ (by simp)]
      rfl
    have hun : u.num = x.w.num := by rw [num_of_others hou, hn]
    have h := fin u _ _ hun (putBack_putWarp x.g hb' (by rw [hun]; exact hw))
    refine ⟨_, h.1, by rw [takeTrap_others, hou], ?_, h.2⟩
    unfold Site.passed
    rw [if_neg (by simp [hhd0])]
    have hst : ∀ l, (u.takeTrap x.g.img.desc.trapent).stands l = u.stands l := by
      intro l; simp only [Warp.stands, takeTrap_frontier]
    have key := fun l => move_next_stands { w with frontier := dropLanes w.frontier x.mask } x.g x.pc
      x.prio x.len 0 x.mask l
    refine ⟨?_, ?_⟩
    · intro l hl hm
      rw [hst, ← hu]
      exact (key l).1 hm (dropLanes_bit _ _ l hl hm)
    · intro l hl hm
      rw [hst, ← hu]
      have h1 := (key l).2 hm
      refine h1.trans ?_
      show standsIn (dropLanes w.frontier x.mask) l = standsIn x.w.frontier l
      rw [dropLanes_stands _ _ l hl hm, hf]

theorem done_spec {s : State} {len : Nat} {x : Site} {w : Warp} (hx : s.site len = some x)
    (hn : w.num = x.w.num) (hf : w.frontier = x.w.frontier)
    (hfr : w.frame.isSome = x.w.frame.isSome) :
    ∃ w', ((x.withW w).done).warpAt s.cur = some w' ∧ w'.others = w.others ∧ x.passed w' ∧
      OthersKept s (x.withW w).done := by
  have h := done_spec_in (s' := x.s) (w := w) hx (by rw [(site_spec hx).1]) (by rw [(site_spec hx).1])
    (by rw [(site_spec hx).1]) hn hf hfr
  exact h

/- ### Issue -/

/-- Issue touches the status and the region record of the warp only (R328, R355). -/
theorem issued_eq (x : Site) (i : Instr) :
    ∃ st rgn, x.issued i = x.withW { x.w with st := st, rgn := rgn } := by
  unfold Site.issued Warp.npeTick
  split <;> split <;> exact ⟨_, _, rfl⟩

/-- An instruction that issues and is kept from nothing has its effect. -/
theorem issue_of_issues {i : Instr} {s : State} {x : Site} (h : Issues i s x) (body : Site → State) :
    issue i s body = .next (body (x.issued i)) := by
  unfold issue
  have hc : (x.issued i).poisonMask i = 0 := by
    rw [← h.clean]
    obtain ⟨st, rgn, he⟩ := issued_eq x i
    rw [he]
    rfl
  simp only [h.site, h.pending, h.stalled, h.engine, h.check, Bool.or_false, Bool.false_eq_true,
    if_false, Site.consume, hc, if_true]

theorem issued_others (x : Site) (i : Instr) : (x.issued i).w.others = x.w.others := by
  unfold Site.issued Warp.npeTick
  split <;> split <;> rfl

theorem npeTick_frontier (w : Warp) : w.npeTick.frontier = w.frontier := by
  unfold Warp.npeTick; split <;> rfl

theorem npeTick_frame (w : Warp) : w.npeTick.frame = w.frame := by
  unfold Warp.npeTick; split <;> rfl

theorem issued_frontier (x : Site) (i : Instr) : (x.issued i).w.frontier = x.w.frontier := by
  unfold Site.issued
  split <;> exact npeTick_frontier x.w

theorem issued_frame (x : Site) (i : Instr) : (x.issued i).w.frame = x.w.frame := by
  unfold Site.issued
  split <;> exact npeTick_frame x.w

/-- An instruction whose whole effect is a new value of the warp completes. -/
theorem completes_of_done {i : Instr} {f : Site → Warp} {post : Site → Warp → Prop}
    (he : ∀ s, exec i s = issue i s fun x => (x.withW (f x)).done)
    (hn : ∀ x : Site, (f x).num = x.w.num) (hf : ∀ x : Site, (f x).frontier = x.w.frontier)
    (hfr : ∀ x : Site, (f x).frame.isSome = x.w.frame.isSome)
    (hp : ∀ (x : Site) (w' : Warp), w'.others = (f (x.issued i)).others → post x w') :
    Completes i post := by
  intro s x h
  have hi := issue_of_issues h fun x => (x.withW (f x)).done
  have e : ((x.issued i).withW (f (x.issued i))) = x.withW (f (x.issued i)) := by
    unfold Site.issued Site.withW
    rfl
  obtain ⟨w', h1, h2, h3, h4⟩ := done_spec (w := f (x.issued i)) h.site
    (by rw [hn]; exact num_of_others (issued_others x i))
    (by rw [hf]; exact issued_frontier x i)
    (by rw [hfr, issued_frame])
  refine ⟨_, w', by rw [he, hi, e], h1, hp x w' h2, h3, h4⟩

/-- The same for an instruction that also changes the state beside the warp, in nothing that `OthersKept`
shows. -/
theorem completes_of_done_in {i : Instr} {f : Site → Warp} {g : Site → State} {post : Site → Warp → Prop}
    (he : ∀ s, exec i s = issue i s fun x => ({ x with s := g x, w := f x } : Site).done)
    (hg : ∀ x : Site, (g x).apart = x.s.apart ∧ (g x).grids = x.s.grids ∧ (g x).blocks = x.s.blocks)
    (hn : ∀ x : Site, (f x).num = x.w.num) (hf : ∀ x : Site, (f x).frontier = x.w.frontier)
    (hfr : ∀ x : Site, (f x).frame.isSome = x.w.frame.isSome)
    (hp : ∀ (x : Site) (w' : Warp), w'.others = (f (x.issued i)).others → post x w') :
    Completes i post := by
  intro s x h
  have hi := issue_of_issues h fun x => ({ x with s := g x, w := f x } : Site).done
  obtain ⟨hs, -⟩ := site_spec h.site
  have h3 := hg (x.issued i)
  have hs' : (x.issued i).s = s := hs
  rw [hs'] at h3
  have e : ({ x.issued i with s := g (x.issued i), w := f (x.issued i) } : Site) =
      { x with s := g (x.issued i), w := f (x.issued i) } := by
    unfold Site.issued Site.withW
    rfl
  obtain ⟨w', h1, h2, h4, h5⟩ := done_spec_in (w := f (x.issued i)) (s' := g (x.issued i)) h.site
    h3.1 h3.2.1 h3.2.2
    (by rw [hn]; exact num_of_others (issued_others x i))
    (by rw [hf]; exact issued_frontier x i)
    (by rw [hfr, issued_frame])
  refine ⟨_, w', by rw [he, hi, e], h1, hp x w' h2, h4, h5⟩

end Sys2Proof.Machine
end

