-- ==== Sys2Proof/Laws/Commit.lean ====
section
/-! SUPPORT. What a commit point can do, said once: the site it acts on, how it leaves, and that a region
without held stores and commands commits at once. -/

namespace Sys2Proof.Machine

/-- The warp after a commit that performs no store and releases no command (R325). -/
def Warp.lightCommit (w : Warp) (inRegion : Bool) : Warp :=
  if inRegion then
    { ({ w with stores := [] }.commitFlags) with cmds := [] }.enterExposed
  else w

/-- The site on which the own effect of a commit point acts, where nothing is held (R325, R355). -/
def Site.afterLight (x : Site) : Site := x.withW (x.w.lightCommit x.inRegion).npeTick

theorem lightCommit_others (w : Warp) (r : Bool) : (w.lightCommit r).base = w.base := by
  cases r <;> rfl

theorem commitHeld_light {x : Site} (h : x.light) (i : Instr) :
    x.commitHeld i = .go (x.withW (x.w.lightCommit x.inRegion)) := by
  unfold Site.commitHeld Warp.lightCommit
  by_cases hr : x.inRegion = true
  · obtain ⟨h1, h2, h3⟩ := h hr
    obtain ⟨c, hc⟩ := Option.isSome_iff_exists.1 h1
    simp only [hr, hc, Bool.not_true, Bool.false_eq_true, if_false, if_true, h2, storeFault,
      List.flatten_nil, List.findSome?_nil, Site.performStores, List.map_nil, List.foldl_nil, Site.releaseCmds,
      Site.withW, Warp.commitFlags, h3, State.releaseAll, List.isEmpty_nil, Warp.enterExposed]
  · have hr0 : x.inRegion = false := by simpa using hr
    simp only [hr0, Bool.not_false, if_true, Bool.false_eq_true, if_false]
    rfl

/-- A commit point of a region that holds nothing goes on to its own effect. -/
theorem issueCommitWhen_light {i : Instr} {s : State} {x : Site} (h : Issues i s x) (hl : x.light)
    (wait : Site → Bool) (body : Site → State) (yields : Bool)
    (hw : wait (x.withW (x.w.lightCommit x.inRegion)) = false) :
    issueCommitWhen i s wait body yields = .next (body x.afterLight) := by
  unfold issueCommitWhen
  simp only [h.site, h.pending, h.stalled, h.engine, h.check, Bool.or_false, Bool.false_eq_true,
    if_false, Site.consume, h.clean, if_true, commitHeld_light hl, Site.effect, hw]
  rfl

/-- A commit point that never waits. -/
theorem issueCommit_light {i : Instr} {s : State} {x : Site} (h : Issues i s x) (hl : x.light)
    (body : Site → State) : issueCommit i s body = .next (body x.afterLight) :=
  issueCommitWhen_light h hl _ body false rfl

theorem npeTick_field {β : Type} (f : Warp → β) (hf : ∀ (w : Warp) (n : BitVec 17),
    f { w with st := { w.st with npeleft := n } } = f w) (w : Warp) : f w.npeTick = f w := by
  unfold Warp.npeTick
  split
  · exact hf _ _
  · rfl

theorem afterLight_field {β : Type} (f : Warp → β) (hf : ∀ (w : Warp) (n : BitVec 17),
    f { w with st := { w.st with npeleft := n } } = f w) (x : Site) :
    f x.afterLight.w = f (x.w.lightCommit x.inRegion) :=
  npeTick_field f hf _

theorem afterLight_frontier (x : Site) : x.afterLight.w.frontier = x.w.frontier := by
  rw [afterLight_field Warp.frontier fun _ _ => rfl]
  cases x.inRegion <;> rfl

theorem afterLight_num (x : Site) : x.afterLight.w.num = x.w.num := by
  rw [afterLight_field Warp.num fun _ _ => rfl]
  cases x.inRegion <;> rfl

/-- How the lanes of a commit point move before the next region begins. -/
def Site.moved (x : Site) (w : Warp) (w0 : DWord) (parts : List (Mask × Move)) : Warp :=
  parts.foldl (fun w p => w.move x.g x.pc x.prio x.len w0 p.1 p.2)
    { w with frontier := dropLanes w.frontier x.mask }

theorem move_num (w : Warp) (g : Grid) (pc : DWord) (prio : BitVec 8) (len : Nat) (w0 : DWord)
    (m : Mask) (mv : Move) : (w.move g pc prio len w0 m mv).num = w.num := by
  by_cases h : mv = .exit
  · subst h
    unfold Warp.move
    split <;> rfl
  · exact num_of_others (move_others w g pc prio len w0 m mv h)

theorem moved_num (x : Site) (w : Warp) (w0 : DWord) (parts : List (Mask × Move)) :
    (x.moved w w0 parts).num = w.num := by
  unfold Site.moved
  suffices h : ∀ (l : List (Mask × Move)) (v : Warp), v.num = w.num →
      (l.foldl (fun w p => w.move x.g x.pc x.prio x.len w0 p.1 p.2) v).num = w.num from h _ _ rfl
  intro l
  induction l with
  | nil => exact fun _ h => h
  | cons p t ih => exact fun v hv => ih _ (by rw [move_num, hv])

/-- Where a lane that moves comes to stand (R117, R120, R122). -/
def Site.landing (x : Site) : Move → Option (DWord × BitVec 4)
  | .next => if x.g.codeEnd.toNat ≤ x.after.toNat then some (x.g.codeEnd, 2) else some (x.after, 0)
  | .goto t _ => if x.g.legalPc t then some (t, 0) else some (x.pc, 2)
  | .stay _ => some (x.pc, 0)
  | .park c => some (x.pc, c)
  | .exit => none
  | .trap c => some (x.pc, c.code.park)
  | .replay _ => some (x.pc, 6)

theorem move_stands_out (w : Warp) (g : Grid) (pc : DWord) (prio : BitVec 8) (len : Nat) (w0 : DWord)
    (m : Mask) (mv : Move) (l : Nat) (h : m.getLsbD l = false) :
    (w.move g pc prio len w0 m mv).stands l = w.stands l := by
  unfold Warp.move Warp.stands
  split
  · rfl
  · cases mv with
    | next =>
      dsimp only
      split
      · rw [raise_frontier]; exact addEntry_stands_other _ _ l h
      · exact addEntry_stands_other _ _ l h
    | goto t p =>
      dsimp only
      split
      · exact addEntry_stands_other _ _ l h
      · rw [raise_frontier]; exact addEntry_stands_other _ _ l h
    | stay p => exact addEntry_stands_other _ _ l h
    | park c => exact addEntry_stands_other _ _ l h
    | exit => rfl
    | trap c => dsimp only; rw [raise_frontier]; exact addEntry_stands_other _ _ l h
    | replay c => exact addEntry_stands_other _ _ l h

theorem move_stands_in (x : Site) (w : Warp) (w0 : DWord) (m : Mask) (mv : Move) (l : Nat)
    (h : m.getLsbD l = true) (hfr : ∀ f ∈ w.frontier, f.mask.getLsbD l = false) :
    (w.move x.g x.pc x.prio x.len w0 m mv).stands l = x.landing mv := by
  have h0 : m ≠ 0 := by
    intro h0
    rw [h0] at h
    simp at h
  have hno : standsIn w.frontier l = none := by
    unfold standsIn
    rw [List.find?_eq_none.2 (by simpa using hfr)]
    rfl
  unfold Warp.move Warp.stands Site.landing
  rw [if_neg h0]
  cases mv with
  | next =>
    by_cases hc : x.g.codeEnd.toNat ≤ (x.pc + BitVec.ofNat 64 x.len).toNat
    · simp only [Site.after, hc, if_true, raise_frontier]
      exact addEntry_stands_self w.frontier ⟨x.g.codeEnd, x.prio, m, 2⟩ l h hfr
    · simp only [Site.after, hc, if_false]
      exact addEntry_stands_self _ _ l h hfr
  | goto t p =>
    dsimp only
    split
    · exact addEntry_stands_self _ _ l h hfr
    · rw [raise_frontier]; exact addEntry_stands_self _ _ l h hfr
  | stay p => exact addEntry_stands_self _ _ l h hfr
  | park c => exact addEntry_stands_self _ _ l h hfr
  | exit => exact hno
  | trap c => dsimp only; rw [raise_frontier]; exact addEntry_stands_self _ _ l h hfr
  | replay c => exact addEntry_stands_self _ _ l h hfr

theorem move_bit (w : Warp) (g : Grid) (pc : DWord) (prio : BitVec 8) (len : Nat) (w0 : DWord)
    (m : Mask) (mv : Move) (l : Nat) (h : m.getLsbD l = false)
    (hfr : ∀ f ∈ w.frontier, f.mask.getLsbD l = false) :
    ∀ f ∈ (w.move g pc prio len w0 m mv).frontier, f.mask.getLsbD l = false := by
  unfold Warp.move
  split
  · exact hfr
  · cases mv with
    | next =>
      dsimp only
      split
      · rw [raise_frontier]; exact addEntry_bit _ _ l h hfr
      · exact addEntry_bit _ _ l h hfr
    | goto t p =>
      dsimp only
      split
      · exact addEntry_bit _ _ l h hfr
      · rw [raise_frontier]; exact addEntry_bit _ _ l h hfr
    | stay p => exact addEntry_bit _ _ l h hfr
    | park c => exact addEntry_bit _ _ l h hfr
    | exit => exact hfr
    | trap c => dsimp only; rw [raise_frontier]; exact addEntry_bit _ _ l h hfr
    | replay c => exact addEntry_bit _ _ l h hfr

/-- Parts that do not hold a lane leave it where it stands. -/
theorem moves_stands_out (x : Site) (w0 : DWord) (l : Nat) :
    ∀ (parts : List (Mask × Move)) (w : Warp), (∀ p ∈ parts, p.1.getLsbD l = false) →
      (parts.foldl (fun w p => w.move x.g x.pc x.prio x.len w0 p.1 p.2) w).stands l = w.stands l := by
  intro parts
  induction parts with
  | nil => exact fun _ _ => rfl
  | cons p t ih =>
    intro w h
    rw [List.foldl_cons, ih _ fun q hq => h q (by simp [hq])]
    exact move_stands_out _ _ _ _ _ _ _ _ l (h p (by simp))

/-- The one part that holds a lane says where it comes to stand. -/
theorem moves_stands_in (x : Site) (w0 : DWord) (l : Nat) (m : Mask) (mv : Move) (b : List (Mask × Move))
    (hm : m.getLsbD l = true) (hb : ∀ p ∈ b, p.1.getLsbD l = false) :
    ∀ (a : List (Mask × Move)) (w : Warp), (∀ p ∈ a, p.1.getLsbD l = false) →
      (∀ f ∈ w.frontier, f.mask.getLsbD l = false) →
      ((a ++ (m, mv) :: b).foldl (fun w p => w.move x.g x.pc x.prio x.len w0 p.1 p.2) w).stands l =
        x.landing mv := by
  intro a
  induction a with
  | nil =>
    intro w _ hfr
    rw [List.nil_append, List.foldl_cons, moves_stands_out x w0 l b _ hb]
    exact move_stands_in x w w0 m mv l hm hfr
  | cons p t ih =>
    intro w ha hfr
    rw [List.cons_append, List.foldl_cons]
    exact ih _ (fun q hq => ha q (by simp [hq])) (move_bit _ _ _ _ _ _ _ _ l (ha p (by simp)) hfr)

/-- A lane of the entry stands where the one part that holds it says. -/
theorem moved_stands_in {x : Site} {w : Warp} {w0 : DWord} {a b : List (Mask × Move)} {m : Mask}
    {mv : Move} {l : Nat} (hl : l < 32) (hx : x.mask.getLsbD l = true) (hm : m.getLsbD l = true)
    (ha : ∀ p ∈ a, p.1.getLsbD l = false) (hb : ∀ p ∈ b, p.1.getLsbD l = false) :
    (x.moved w w0 (a ++ (m, mv) :: b)).stands l = x.landing mv :=
  moves_stands_in x w0 l m mv b hm hb a _ ha (dropLanes_bit _ _ l hl hx)

/-- A lane outside the entry stands where it stood. -/
theorem moved_stands_out {x : Site} {w : Warp} {w0 : DWord} {parts : List (Mask × Move)} {l : Nat}
    (hl : l < 32) (hx : x.mask.getLsbD l = false) (hp : ∀ p ∈ parts, p.1.getLsbD l = false) :
    (x.moved w w0 parts).stands l = w.stands l := by
  unfold Site.moved
  rw [moves_stands_out x w0 l parts _ hp]
  exact dropLanes_stands _ _ l hl hx

/-- A commit point leaves: the warp that its lanes' moves give, with a region begun or exposed code entered,
is written back, a pending trap is taken, and all else is kept. -/
theorem leaveCommit_spec {s : State} {len : Nat} {x : Site} {w : Warp} (hx : s.site len = some x)
    (hh : x.handler = false) (hn : w.num = x.w.num) (ex : Bool) (w0 : DWord)
    (parts : List (Mask × Move)) :
    let u := x.moved w w0 parts
    let v := if ex then u.enterExposed else u.beginRegion (x.off x.after)
    let t := (x.withW w).leaveCommit ex w0 parts
    t.warpAt s.cur = some (v.takeTrap x.g.img.desc.trapent) ∧ OthersKept s t := by
  intro u v t
  obtain ⟨hs, -, hb, hw, hk, hwn, -, -⟩ := site_spec hx
  have hun : u.num = x.w.num := by rw [moved_num, hn]
  have hvn : v.num = x.w.num := by
    show (if ex then u.enterExposed else u.beginRegion (x.off x.after)).num = _
    split
    · exact hun
    · exact hun
  have ht : t = s.putWarp x.b v x.g := by
    show (x.withW w).leaveCommit ex w0 parts = _
    unfold Site.leaveCommit
    simp only [Site.withW, hh, Bool.false_eq_true, if_false, hs]
    rfl
  rw [ht]
  have h := putBack_putWarp (s := s) (b := x.b) (w := v) x.g hb (by rw [hvn]; exact hw)
  rw [hvn] at h
  exact kept_of_putBack h (by rw [hk, hwn]) hb rfl rfl rfl rfl fun _ _ => rfl

/-- What beginning a region or entering exposed code makes of a warp whose lanes have moved. -/
theorem committed_of_moved {x : Site} {u : Warp} (ex : Bool)
    (hf : u.flags = x.w.flags ||| (if x.inRegion then x.w.rgn.hflags else 0))
    (hl : u.loads.map (fun o => { o with rgn := false }) = x.w.loads.map fun o => { o with rgn := false }) :
    x.committed ((if ex then u.enterExposed else u.beginRegion (x.off x.after)).takeTrap
      x.g.img.desc.trapent) (if ex then none else some x.after) := by
  have key : ∀ v : Warp, v.flags = u.flags → v.stores = [] → v.cmds = [] → v.pendCommit = none →
      v.loads = u.loads.map (fun o => { o with rgn := false }) →
      v.rgn = (match (if ex then none else some x.after) with
        | some a =>
          { image := clearParks v.straps v.frontier, ck := v.ck, ckm := v.ckmode, rf := RegSet.empty,
            wr := RegSet.empty, rgnoff := x.off a, reent := 0, hflags := 0, iss := false, inrgn := true }
        | none => Region.exposed) →
      x.committed (v.takeTrap x.g.img.desc.trapent) (if ex then none else some x.after) := by
    intro v h1 h2 h3 h4 h5 h6
    have ho := takeTrap_others v x.g.img.desc.trapent
    have hr : (v.takeTrap x.g.img.desc.trapent).rgn = v.rgn := by
      unfold Warp.takeTrap
      split
      · split <;> rfl
      · rfl
    refine ⟨?_, ?_, ?_, ?_, ?_, ?_⟩
    · rw [of_others Warp.flags ho, h1, hf]
    · rw [of_others Warp.stores ho, h2]
    · rw [of_others Warp.cmds ho, h3]
    · rw [of_others Warp.pendCommit ho, h4]
    · rw [of_others Warp.loads ho, h5, hl]
    · rw [hr, h6, takeTrap_frontier, takeTrap_straps, of_others Warp.ck ho, of_others Warp.ckmode ho] <;> rfl
  cases ex
  · exact key _ rfl rfl rfl rfl rfl rfl
  · exact key _ rfl rfl rfl rfl rfl rfl

theorem afterLight_flags (x : Site) :
    x.afterLight.w.flags = x.w.flags ||| (if x.inRegion then x.w.rgn.hflags else 0) := by
  rw [afterLight_field Warp.flags fun _ _ => rfl]
  cases x.inRegion
  · show x.w.flags = _
    simp
  · rfl

theorem afterLight_loads (x : Site) :
    x.afterLight.w.loads.map (fun o => { o with rgn := false }) =
      x.w.loads.map fun o => { o with rgn := false } := by
  rw [afterLight_field Warp.loads fun _ _ => rfl]
  cases x.inRegion
  · rfl
  · simp [Warp.lightCommit, Warp.enterExposed, Warp.commitFlags]

theorem afterLight_base (x : Site) : x.afterLight.w.base = x.w.base := by
  rw [afterLight_field Warp.base fun _ _ => rfl]
  cases x.inRegion <;> rfl

theorem base_of_others {w w' : Warp} (h : w'.others = w.others) : w'.base = w.base := by
  unfold Warp.base
  rw [h]

theorem begin_base (w : Warp) (ex : Bool) (off : Word) :
    (if ex then w.enterExposed else w.beginRegion off).base = w.base := by
  cases ex <;> rfl

/-- An instruction that handler mode forbids and that issues stands outside a handler (R336). -/
theorem notHandler {i : Instr} {s : State} {x : Site} (h : Issues i s x) (hi : handlerIllegal i = true) :
    x.handler = false := by
  cases hc : x.handler
  · rfl
  · have hill : illegalHere x i = true := by
      unfold illegalHere
      simp [hc, hi]
    have hch := h.check
    unfold Site.check at hch
    simp [hill] at hch

theorem begin_frontier (v : Warp) (ex : Bool) (off : Word) :
    (if ex then v.enterExposed else v.beginRegion off).frontier = v.frontier := by
  cases ex <;> rfl

/-- A commit point all of whose lanes move on: outside a handler it commits, is passed, and the warp holds
what its own effect f gives. -/
theorem commit_passes {s : State} {len : Nat} {x : Site} {w : Warp} (hx : s.site len = some x)
    (hh : x.handler = false) (hn : w.num = x.w.num) (hfr : w.frontier = x.w.frontier)
    (hfl : w.flags = x.w.flags ||| (if x.inRegion then x.w.rgn.hflags else 0))
    (hld : w.loads.map (fun o => { o with rgn := false }) = x.w.loads.map fun o => { o with rgn := false })
    (ex : Bool) (w0 : DWord) :
    ∃ w', ((x.withW w).leaveCommit ex w0 [(x.mask, .next)]).warpAt s.cur = some w' ∧
      x.committed w' (if ex then none else some x.after) ∧ x.passed w' ∧ w'.base = w.base ∧
      OthersKept s ((x.withW w).leaveCommit ex w0 [(x.mask, .next)]) := by
  obtain ⟨h1, h2⟩ := leaveCommit_spec (w := w) hx hh hn ex w0 [(x.mask, .next)]
  have hm : x.moved w w0 [(x.mask, .next)] =
      Warp.move { w with frontier := dropLanes w.frontier x.mask } x.g x.pc x.prio x.len w0 x.mask .next :=
    rfl
  have hu : (x.moved w w0 [(x.mask, .next)]).others = w.others := by
    rw [hm, move_others _ _ _ _ _ _ _ _ (by simp)]
    rfl
  refine ⟨_, h1, ?_, ?_, ?_, h2⟩
  · apply committed_of_moved
    · rw [of_others Warp.flags hu, hfl]
    · rw [of_others Warp.loads hu, hld]
  · unfold Site.passed
    rw [if_neg (by simp [hh])]
    have key := fun l => move_next_stands { w with frontier := dropLanes w.frontier x.mask } x.g x.pc
      x.prio x.len w0 x.mask l
    refine ⟨?_, ?_⟩
    · intro l hlt hm'
      show standsIn _ l = _
      rw [takeTrap_frontier, begin_frontier, hm]
      exact (key l).1 hm' (dropLanes_bit _ _ l hlt hm')
    · intro l hlt hm'
      show standsIn _ l = _
      rw [takeTrap_frontier, begin_frontier, hm]
      refine ((key l).2 hm').trans ?_
      show standsIn (dropLanes _ x.mask) l = standsIn x.w.frontier l
      rw [dropLanes_stands _ _ l hlt hm', hfr]
  · rw [base_of_others (takeTrap_others _ _), begin_base, base_of_others hu]

end Sys2Proof.Machine
end

