-- ==== Sys2Proof/Laws/Vector.lean ====
section
/-! SUPPORT. The shared operations over vector, predicate and scalar registers complete as their
definitions say (R120, R125, R142). -/

namespace Sys2Proof.Machine

theorem acting_issued (x : Site) (i : Instr) (c : Ctl) : (x.issued i).acting c = x.acting c := by
  obtain ⟨st, rgn, h⟩ := issued_eq x i
  rw [h]; rfl

theorem issued_vget (x : Site) (i : Instr) (n l : Nat) : (x.issued i).w.vget n l = x.w.vget n l := by
  obtain ⟨st, rgn, h⟩ := issued_eq x i
  rw [h]; rfl

/-- A function of a warp's registers alone. -/
def RegFun {α : Type} (f : Warp → α) : Prop := ∀ w st rgn, f { w with st := st, rgn := rgn } = f w

/-- A function of a site that reads neither the status nor the region record of its warp. -/
def SiteFun {α : Type} (f : Site → α) : Prop :=
  ∀ x st rgn, f (x.withW { x.w with st := st, rgn := rgn }) = f x

theorem siteFun_issued {α : Type} {f : Site → α} (h : SiteFun f) (x : Site) (i : Instr) :
    f (x.issued i) = f x := by
  obtain ⟨st, rgn, he⟩ := issued_eq x i
  rw [he]
  exact h x st rgn

theorem regFun_site {α : Type} {f : Warp → α} (h : RegFun f) : SiteFun fun x => f x.w :=
  fun x st rgn => h x.w st rgn

theorem vwritten_issued {x : Site} {i : Instr} {w w' : Warp} {d k : Nat} {m : Mask}
    {f : Nat → Nat → Word} (h : VWritten (x.issued i).w w d k m f) (he : w'.others = w.others) :
    VWritten x.w w' d k m f := by
  obtain ⟨st, rgn, hi⟩ := issued_eq x i
  have hv : ∀ n l, w'.vget n l = w.vget n l := fun n l => of_others (fun u => u.vget n l) he
  have hv' : w'.v = w.v := of_others Warp.v he
  have hp' : w'.poison = w.poison := of_others Warp.poison he
  refine ⟨fun l j hl hm hj => by rw [hv]; exact h.new l j hl hm hj, ?_, ?_⟩
  · intro n l hl ho
    rw [hv, h.old n l hl ho, issued_vget]
  · rw [he, h.rest, hv', hp']
    have ho := issued_others x i
    have : ∀ u : Warp, { u with v := w.v, poison := w.poison }.others =
      { u.others with v := w.v, poison := w.poison } := fun _ => rfl
    rw [this, this, ho]

/-- An operation that writes one vector register in the acting lanes completes. -/
theorem completes_vset {i : Instr} {c : Ctl} {d : Nat} {f : Site → Nat → Word}
    (he : ∀ s, exec i s = issue i s fun x =>
      (x.withW (x.w.eachLane (x.acting c) fun w l => w.vset d l (f x l))).done)
    (hf : ∀ l, SiteFun fun x => f x l) :
    Completes i fun x w' => VWritten x.w w' d 1 (x.acting c) fun l _ => f x l := by
  refine completes_of_done (f := fun x => x.w.eachLane (x.acting c) fun w l => w.vset d l (f x l))
    he ?_ ?_ ?_ ?_
  · intro x
    exact eachLane_induct (P := fun u => u.num = x.w.num) _ _ _ rfl fun u l _ h => h
  · intro x
    exact eachLane_induct (P := fun u => u.frontier = x.w.frontier) _ _ _ rfl fun u l _ h => h
  · intro x
    exact eachLane_induct (P := fun u => u.frame.isSome = x.w.frame.isSome) _ _ _ rfl fun u l _ h => h
  · intro x w' h
    have h1 := vwritten_each32 (x.issued i).w ((x.issued i).acting c) d fun l => f (x.issued i) l
    have h2 := vwritten_issued h1 h
    rw [acting_issued] at h2
    have h4 : (fun (l _ : Nat) => f (x.issued i) l) = fun l _ => f x l :=
      funext fun l => funext fun _ => siteFun_issued (hf l) x i
    rw [h4] at h2
    exact h2

/-- An operation that writes a register pair in the acting lanes completes. -/
theorem completes_vset64 {i : Instr} {c : Ctl} {d : Nat} {f : Site → Nat → DWord}
    (he : ∀ s, exec i s = issue i s fun x =>
      (x.withW (x.w.eachLane (x.acting c) fun w l => w.vset64 d l (f x l))).done)
    (hf : ∀ l, SiteFun fun x => f x l) :
    Completes i fun x w' => VWritten x.w w' d 2 (x.acting c) fun l j =>
      (f x l).extractLsb' (32 * j) 32 := by
  refine completes_of_done (f := fun x => x.w.eachLane (x.acting c) fun w l => w.vset64 d l (f x l))
    he ?_ ?_ ?_ ?_
  · intro x
    exact eachLane_induct (P := fun u => u.num = x.w.num) _ _ _ rfl fun u l _ h => h
  · intro x
    exact eachLane_induct (P := fun u => u.frontier = x.w.frontier) _ _ _ rfl fun u l _ h => h
  · intro x
    exact eachLane_induct (P := fun u => u.frame.isSome = x.w.frame.isSome) _ _ _ rfl fun u l _ h => h
  · intro x w' h
    have h1 := vwritten_each64 (x.issued i).w ((x.issued i).acting c) d fun l => f (x.issued i) l
    have h2 := vwritten_issued h1 h
    rw [acting_issued] at h2
    have h4 : (fun (l j : Nat) => (f (x.issued i) l).extractLsb' (32 * j) 32) =
        fun l j => (f x l).extractLsb' (32 * j) 32 :=
      funext fun l => funext fun j => by
        rw [show f (x.issued i) l = f x l from siteFun_issued (hf l) x i]
    rw [h4] at h2
    exact h2

/-- An operation that writes one predicate register in the acting lanes completes. -/
theorem completes_pset {i : Instr} {c : Ctl} {d : Nat} {f : Site → Mask}
    (he : ∀ s, exec i s = issue i s fun x => (x.withW (x.w.pset d (x.acting c) (f x))).done)
    (hf : SiteFun f) :
    Completes i fun x w' => PWritten x.w w' d (x.acting c) fun l => (f x).getLsbD l := by
  refine completes_of_done (f := fun x => x.w.pset d (x.acting c) (f x)) he
    (fun _ => rfl) (fun _ => rfl) (fun _ => rfl) ?_
  intro x w' h
  have hp : ∀ n l, w'.pbit n l =
      ((x.issued i).w.pset d ((x.issued i).acting c) (f (x.issued i))).pbit n l :=
    fun n l => of_others (fun u : Warp => u.pbit n l) h
  have hi : ∀ n l, (x.issued i).w.pbit n l = x.w.pbit n l := by
    intro n l
    obtain ⟨st, rgn, e⟩ := issued_eq x i
    rw [e]; rfl
  rw [acting_issued] at hp
  refine ⟨?_, ?_, ?_⟩
  · intro l hl hm
    rw [hp, pbit_pset _ _ _ _ _ _ hl, if_pos rfl, if_pos hm, siteFun_issued hf]
  · intro n l hl ho
    rw [hp, pbit_pset _ _ _ _ _ _ hl]
    split
    · next hn =>
      have hm : (x.acting c).getLsbD l = false := by
        rcases ho with h1 | h1
        · exact h1
        · exact absurd hn h1
      rw [hm, hn]
      simp only [Bool.false_eq_true, if_false]
      exact hi _ _
    · exact hi _ _
  · have hp' : w'.p = _ := of_others Warp.p h
    have hq' : w'.pPoison = _ := of_others Warp.pPoison h
    have ho := issued_others x i
    rw [h, hp', hq']
    have : ∀ (u : Warp) (q : List (Nat × Mask)) (r : List Nat),
      { u with p := q, pPoison := r }.others = { u.others with p := q, pPoison := r } :=
      fun _ _ _ => rfl
    unfold Warp.pset
    rw [this, this, ho]
    rfl

/-- An operation that writes one scalar register completes. -/
theorem completes_sset {i : Instr} {d : Nat} {f : Site → DWord}
    (he : ∀ s, exec i s = issue i s fun x => (x.withW (x.w.sset d (f x))).done) (hf : SiteFun f) :
    Completes i fun x w' => SWritten x.w w' d (f x) := by
  refine completes_of_done (f := fun x => x.w.sset d (f x)) he
    (fun _ => rfl) (fun _ => rfl) (fun _ => rfl) ?_
  intro x w' h
  have hs : ∀ n, w'.sget n = ((x.issued i).w.sset d (f (x.issued i))).sget n :=
    fun n => of_others (fun u : Warp => u.sget n) h
  have hi : ∀ n, (x.issued i).w.sget n = x.w.sget n := by
    intro n
    obtain ⟨st, rgn, e⟩ := issued_eq x i
    rw [e]; rfl
  refine ⟨?_, ?_, ?_⟩
  · rw [hs, sget_sset, if_pos rfl, siteFun_issued hf]
  · intro n hn
    rw [hs, sget_sset, if_neg hn, hi]
  · have hs' : w'.s = _ := of_others Warp.s h
    have hp' : w'.sPoison = _ := of_others Warp.sPoison h
    have ho := issued_others x i
    rw [h, hs', hp']
    have : ∀ (u : Warp) (q : List (Nat × DWord)) (r : List Nat),
      { u with s := q, sPoison := r }.others = { u.others with s := q, sPoison := r } :=
      fun _ _ _ => rfl
    unfold Warp.sset
    rw [this, this, ho]
    rfl

/-- An operation that changes nothing in the warp completes. -/
theorem completes_pass {i : Instr} (he : ∀ s, exec i s = issue i s fun x => x.done) :
    Completes i fun x w' => w'.others = x.w.others := by
  refine completes_of_done (f := fun x => x.w) he (fun _ => rfl) (fun _ => rfl) (fun _ => rfl) ?_
  intro x w' h
  rw [h]; exact issued_others x i

theorem writes32_of_vec {i : Instr} {d : BitVec 8} {f : Warp → Nat → Word}
    (he : ∀ s, exec i s = vec32 i d f s) (hf : ∀ l, RegFun fun w => f w l) : Writes32 i d f :=
  completes_vset he fun l => regFun_site (hf l)

theorem writes64_of_vec {i : Instr} {d : BitVec 8} {f : Warp → Nat → DWord}
    (he : ∀ s, exec i s = vec64 i d f s) (hf : ∀ l, RegFun fun w => f w l) : Writes64 i d f :=
  completes_vset64 he fun l => regFun_site (hf l)

theorem completes_congr {i : Instr} {p q : Site → Warp → Prop} (h : Completes i p)
    (e : ∀ x w', p x w' → q x w') : Completes i q := by
  intro s x hx
  obtain ⟨t, w', h1, h2, h3, h4⟩ := h s x hx
  exact ⟨t, w', h1, h2, e x w' h3, h4⟩

theorem writesP_of_vecPred {i : Instr} {d : BitVec 6} {f : Warp → Nat → Bool}
    (he : ∀ s, exec i s = vecPred i d f s) (hf : ∀ l, RegFun fun w => f w l) : WritesP i d f := by
  refine completes_congr (completes_pset (f := fun x => maskOf (f x.w)) he ?_) ?_
  · intro x st rgn
    exact congrArg maskOf (funext fun l => hf l x.w st rgn)
  · intro x w' h
    exact ⟨fun l hl hm => (h.new l hl hm).trans (maskOf_bit _ l hl), h.old, h.rest⟩

theorem writesP_of_predOp {i : Instr} {d : BitVec 6} {f : Warp → Mask} {g : Warp → Nat → Bool}
    (he : ∀ s, exec i s = predOp i d f s) (hf : RegFun f)
    (e : ∀ w l, l < 32 → (f w).getLsbD l = g w l) : WritesP i d g := by
  refine completes_congr (completes_pset (f := fun x => f x.w) he (regFun_site hf)) ?_
  intro x w' h
  exact ⟨fun l hl hm => (h.new l hl hm).trans (e _ l hl), h.old, h.rest⟩

theorem writesS_of_scalar {i : Instr} {d : BitVec 5} {f : Warp → DWord}
    (he : ∀ s, exec i s = scalarOp i d f s) (hf : RegFun f) : WritesS i d f :=
  completes_sset he (regFun_site hf)

/- ### Functions of a warp's registers -/

theorem vget_regFun (n l : Nat) : RegFun fun w => w.vget n l := fun _ _ _ => rfl
theorem vget64_regFun (n l : Nat) : RegFun fun w => w.vget64 n l := fun _ _ _ => rfl
theorem sget_regFun (n : Nat) : RegFun fun w => w.sget n := fun _ _ _ => rfl
theorem pget_regFun (n : Nat) : RegFun fun w => w.pget n := fun _ _ _ => rfl
theorem pbit_regFun (n l : Nat) : RegFun fun w => w.pbit n l := fun _ _ _ => rfl
theorem ckget_regFun (n : Nat) : RegFun fun w => w.ckget n := fun _ _ _ => rfl

theorem opb32_regFun (b : OpB) (l : Nat) : RegFun fun w => w.opb32 b l := by
  intro w st rgn; cases b <;> rfl
theorem opb64_regFun (b : OpB) (l : Nat) : RegFun fun w => w.opb64 b l := by
  intro w st rgn; cases b <;> rfl
theorem sopb_regFun (b : SOpB) : RegFun fun w => w.sopb b := by
  intro w st rgn; cases b <;> rfl

@[simp] theorem vget_st (w : Warp) (st : Status) (rgn : Region) (n l : Nat) :
    { w with st := st, rgn := rgn }.vget n l = w.vget n l := rfl
@[simp] theorem vget64_st (w : Warp) (st : Status) (rgn : Region) (n l : Nat) :
    { w with st := st, rgn := rgn }.vget64 n l = w.vget64 n l := rfl
@[simp] theorem sget_st (w : Warp) (st : Status) (rgn : Region) (n : Nat) :
    { w with st := st, rgn := rgn }.sget n = w.sget n := rfl
@[simp] theorem pget_st (w : Warp) (st : Status) (rgn : Region) (n : Nat) :
    { w with st := st, rgn := rgn }.pget n = w.pget n := rfl
@[simp] theorem pbit_st (w : Warp) (st : Status) (rgn : Region) (n l : Nat) :
    { w with st := st, rgn := rgn }.pbit n l = w.pbit n l := rfl
@[simp] theorem ckget_st (w : Warp) (st : Status) (rgn : Region) (n : Nat) :
    { w with st := st, rgn := rgn }.ckget n = w.ckget n := rfl
@[simp] theorem opb32_st (w : Warp) (st : Status) (rgn : Region) (b : OpB) (l : Nat) :
    { w with st := st, rgn := rgn }.opb32 b l = w.opb32 b l := opb32_regFun b l w st rgn
@[simp] theorem opb64_st (w : Warp) (st : Status) (rgn : Region) (b : OpB) (l : Nat) :
    { w with st := st, rgn := rgn }.opb64 b l = w.opb64 b l := opb64_regFun b l w st rgn
@[simp] theorem sopb_st (w : Warp) (st : Status) (rgn : Region) (b : SOpB) :
    { w with st := st, rgn := rgn }.sopb b = w.sopb b := sopb_regFun b w st rgn

/- ### The same with the value written another way -/

theorem writes32_as {i : Instr} {d : BitVec 8} {f g : Warp → Nat → Word}
    (he : ∀ s, exec i s = vec32 i d f s) (hf : ∀ l, RegFun fun w => f w l)
    (e : ∀ w l, f w l = g w l) : Writes32 i d g := by
  have h : f = g := funext fun w => funext fun l => e w l
  rw [← h]; exact writes32_of_vec he hf

theorem writes64_as {i : Instr} {d : BitVec 8} {f g : Warp → Nat → DWord}
    (he : ∀ s, exec i s = vec64 i d f s) (hf : ∀ l, RegFun fun w => f w l)
    (e : ∀ w l, f w l = g w l) : Writes64 i d g := by
  have h : f = g := funext fun w => funext fun l => e w l
  rw [← h]; exact writes64_of_vec he hf

theorem writesP_as {i : Instr} {d : BitVec 6} {f g : Warp → Nat → Bool}
    (he : ∀ s, exec i s = vecPred i d f s) (hf : ∀ l, RegFun fun w => f w l)
    (e : ∀ w l, f w l = g w l) : WritesP i d g := by
  have h : f = g := funext fun w => funext fun l => e w l
  rw [← h]; exact writesP_of_vecPred he hf

theorem writesS_as {i : Instr} {d : BitVec 5} {f g : Warp → DWord}
    (he : ∀ s, exec i s = scalarOp i d f s) (hf : RegFun f)
    (e : ∀ w, f w = g w) : WritesS i d g := by
  have h : f = g := funext e
  rw [← h]; exact writesS_of_scalar he hf

/- ### Clamping (R155, R161) -/

theorem clampInt_eq (lo hi x : Int) (h : lo ≤ hi) : clampInt lo hi x = max lo (min hi x) := by
  unfold clampInt; split <;> (try split) <;> omega

end Sys2Proof.Machine
end

