-- ==== Sys2Proof/Laws/Exec.lean ====
section
/-! SUPPORT. The meaning of each instruction of the integer, predicate and scalar groups in terms of the
shared operation that it calls. -/

namespace Sys2Proof.Machine

theorem exec_addShort (d a b : BitVec 8) (s : State) :
    exec (.addShort d a b) s =
      arith2 (.addShort d a b) d a (.reg b) .s32 false (· + ·) s := rfl

theorem exec_addLit (d a : BitVec 8) (l : BitVec 32) (s : State) :
    exec (.addLit d a l) s =
      arith2 (.addLit d a l) d a (.lit (0#32 ++ l)) .s32 false (· + ·) s := rfl

theorem exec_add (c : Ctl) (d a : BitVec 8) (b : OpB) (ty : Ty) (sat : Bool) (s : State) :
    exec (.add c d a b ty sat) s =
      arith2 (.add c d a b ty sat) d a b ty sat (· + ·) s := rfl

theorem exec_sub (c : Ctl) (d a : BitVec 8) (b : OpB) (ty : Ty) (sat : Bool) (s : State) :
    exec (.sub c d a b ty sat) s =
      arith2 (.sub c d a b ty sat) d a b ty sat (· - ·) s := rfl

theorem exec_add3 (c : Ctl) (d a : BitVec 8) (b : OpB) (rc : BitVec 8) (ty : Ty) (sat : Bool) (s :
    State) :
    exec (.add3 c d a b rc ty sat) s =
      arith3 (.add3 c d a b rc ty sat) d a b rc ty sat (fun p q r => p + q + r) s := rfl

theorem exec_mulLo (c : Ctl) (d a : BitVec 8) (b : OpB) (ty : Ty) (s : State) :
    exec (.mulLo c d a b ty) s =
      arith2 (.mulLo c d a b ty) d a b ty false (· * ·) s := rfl

theorem exec_mulHi (c : Ctl) (d a : BitVec 8) (b : OpB) (ty : Ty) (s : State) :
    exec (.mulHi c d a b ty) s =
      arith2 (.mulHi c d a b ty) d a b ty false
        (fun p q => Int.fdiv (p * q) (2 ^ (if ty.w64 then 64 else 32))) s := rfl

theorem exec_mad (c : Ctl) (d a : BitVec 8) (b : OpB) (rc : BitVec 8) (ty : Ty) (s : State) :
    exec (.mad c d a b rc ty) s =
      arith3 (.mad c d a b rc ty) d a b rc ty false (fun p q r => p * q + r) s := rfl

theorem exec_madWide (c : Ctl) (d a : BitVec 8) (b : OpB) (rc : BitVec 8) (sgn : Bool) (s : State) :
    exec (.madWide c d a b rc sgn) s =
      vec64 (.madWide c d a b rc sgn) d (fun w l =>
        BitVec.ofInt 64 (intOf sgn (w.vget a.toNat l) * intOf sgn (w.opb32 b l) +
          intOf sgn (w.vget64 rc.toNat l))) s := rfl

theorem exec_min (c : Ctl) (d a : BitVec 8) (b : OpB) (ty : Ty) (s : State) :
    exec (.min c d a b ty) s =
      arith2 (.min c d a b ty) d a b ty false (fun p q => if p ≤ q then p else q) s := rfl

theorem exec_max (c : Ctl) (d a : BitVec 8) (b : OpB) (ty : Ty) (s : State) :
    exec (.max c d a b ty) s =
      arith2 (.max c d a b ty) d a b ty false (fun p q => if p ≤ q then q else p) s := rfl

theorem exec_abs (c : Ctl) (d a : BitVec 8) (w64 sat : Bool) (s : State) :
    exec (.abs c d a w64 sat) s =
      arith1 (.abs c d a w64 sat) d a w64 sat (fun p => (p.natAbs : Int)) s := rfl

theorem exec_neg (c : Ctl) (d a : BitVec 8) (w64 sat : Bool) (s : State) :
    exec (.neg c d a w64 sat) s =
      arith1 (.neg c d a w64 sat) d a w64 sat (fun p => -p) s := rfl

theorem exec_andShort (d a b : BitVec 8) (s : State) :
    exec (.andShort d a b) s =
      logic2 (.andShort d a b) d a (.reg b) false (· &&& ·) (· &&& ·) s := rfl

theorem exec_andLit (d a : BitVec 8) (l : BitVec 32) (s : State) :
    exec (.andLit d a l) s =
      logic2 (.andLit d a l) d a (.lit (0#32 ++ l)) false (· &&& ·) (· &&& ·) s := rfl

theorem exec_and (c : Ctl) (d a : BitVec 8) (b : OpB) (w64 : Bool) (s : State) :
    exec (.and c d a b w64) s =
      logic2 (.and c d a b w64) d a b w64 (· &&& ·) (· &&& ·) s := rfl

theorem exec_or (c : Ctl) (d a : BitVec 8) (b : OpB) (w64 : Bool) (s : State) :
    exec (.or c d a b w64) s =
      logic2 (.or c d a b w64) d a b w64 (· ||| ·) (· ||| ·) s := rfl

theorem exec_xor (c : Ctl) (d a : BitVec 8) (b : OpB) (w64 : Bool) (s : State) :
    exec (.xor c d a b w64) s =
      logic2 (.xor c d a b w64) d a b w64 (· ^^^ ·) (· ^^^ ·) s := rfl

theorem exec_not (c : Ctl) (d a : BitVec 8) (w64 : Bool) (s : State) :
    exec (.not c d a w64) s =
      logic1 (.not c d a w64) d a w64 (fun p => ~~~p) (fun p => ~~~p) s := rfl

theorem exec_tern (c : Ctl) (d a : BitVec 8) (b : OpB) (rc : BitVec 8) (table : BitVec 8) (w64 :
    Bool) (s : State) :
    exec (.tern c d a b rc table w64) s =
      if w64 then
        vec64 (.tern c d a b rc table w64) d (fun w l =>
          ternBits table (w.vget64 a.toNat l) (w.opb64 b l) (w.vget64 rc.toNat l)) s
      else
        vec32 (.tern c d a b rc table w64) d (fun w l =>
          ternBits table (w.vget a.toNat l) (w.opb32 b l) (w.vget rc.toNat l)) s := rfl

theorem exec_shlShort (d a b : BitVec 8) (s : State) :
    exec (.shlShort d a b) s =
      control2 (.shlShort d a b) d a (.reg b) false (fun p c => p <<< shiftCount c)
        (fun p c => p <<< shiftCount c) s := rfl

theorem exec_shlLit (d a : BitVec 8) (l : BitVec 32) (s : State) :
    exec (.shlLit d a l) s =
      control2 (.shlLit d a l) d a (.lit (0#32 ++ l)) false (fun p c => p <<< shiftCount c)
        (fun p c => p <<< shiftCount c) s := rfl

theorem exec_shl (c : Ctl) (d a : BitVec 8) (b : OpB) (w64 : Bool) (s : State) :
    exec (.shl c d a b w64) s =
      control2 (.shl c d a b w64) d a b w64 (fun p c => p <<< shiftCount c)
        (fun p c => p <<< shiftCount c) s := rfl

theorem exec_shr (c : Ctl) (d a : BitVec 8) (b : OpB) (w64 : Bool) (s : State) :
    exec (.shr c d a b w64) s =
      control2 (.shr c d a b w64) d a b w64 (fun p c => p >>> shiftCount c)
        (fun p c => p >>> shiftCount c) s := rfl

theorem exec_sar (c : Ctl) (d a : BitVec 8) (b : OpB) (w64 : Bool) (s : State) :
    exec (.sar c d a b w64) s =
      control2 (.sar c d a b w64) d a b w64 (fun p c => p.sshiftRight (shiftCount c))
        (fun p c => p.sshiftRight (shiftCount c)) s := rfl

theorem exec_bfe (c : Ctl) (d a : BitVec 8) (b : OpB) (ty : Ty) (s : State) :
    exec (.bfe c d a b ty) s =
      control2 (.bfe c d a b ty) d a b ty.w64 (bfeVal (tySigned ty)) (bfeVal (tySigned ty)) s := rfl

theorem exec_bfi (c : Ctl) (d a : BitVec 8) (b : OpB) (rc : BitVec 8) (w64 : Bool) (s : State) :
    exec (.bfi c d a b rc w64) s =
      if w64 then
        vec64 (.bfi c d a b rc w64) d (fun w l =>
          bfiVal (w.vget64 a.toNat l) (w.opb32 b l) (w.vget64 rc.toNat l)) s
      else
        vec32 (.bfi c d a b rc w64) d (fun w l =>
          bfiVal (w.vget a.toNat l) (w.opb32 b l) (w.vget rc.toNat l)) s := rfl

theorem exec_popc (c : Ctl) (d a : BitVec 8) (w64 : Bool) (s : State) :
    exec (.popc c d a w64) s =
      vec32 (.popc c d a w64) d (fun w l =>
        BitVec.ofNat 32 (if w64 then popcVal (w.vget64 a.toNat l) else popcVal (w.vget a.toNat l)))
            s := rfl

theorem exec_clz (c : Ctl) (d a : BitVec 8) (w64 : Bool) (s : State) :
    exec (.clz c d a w64) s =
      vec32 (.clz c d a w64) d (fun w l =>
        BitVec.ofNat 32 (if w64 then clzVal (w.vget64 a.toNat l) else clzVal (w.vget a.toNat l))) s
            := rfl

theorem exec_brev (c : Ctl) (d a : BitVec 8) (w64 : Bool) (s : State) :
    exec (.brev c d a w64) s =
      logic1 (.brev c d a w64) d a w64 brevVal brevVal s := rfl

theorem exec_sel (c : Ctl) (d a : BitVec 8) (b : OpB) (pc : BitVec 6) (w64 : Bool) (s : State) :
    exec (.sel c d a b pc w64) s =
      if w64 then
        vec64 (.sel c d a b pc w64) d (fun w l =>
          if w.pbit pc.toNat l then w.vget64 a.toNat l else w.opb64 b l) s
      else
        vec32 (.sel c d a b pc w64) d (fun w l =>
          if w.pbit pc.toNat l then w.vget a.toNat l else w.opb32 b l) s := rfl

theorem exec_cmp (c : Ctl) (pd : BitVec 6) (a : BitVec 8) (b : OpB) (cond : Cond) (ty : Ty) (s :
    State) :
    exec (.cmp c pd a b cond ty) s =
      let sg := tySigned ty
      vecPred (.cmp c pd a b cond ty) pd (fun w l =>
        if ty.w64 then condInt cond (intOf sg (w.vget64 a.toNat l)) (intOf sg (w.opb64 b l))
        else condInt cond (intOf sg (w.vget a.toNat l)) (intOf sg (w.opb32 b l))) s := rfl

theorem exec_lea (c : Ctl) (d : BitVec 8) (base : SVDst) (b : OpB) (sh : BitVec 4) (sgn : Bool) (s
    : State) :
    exec (.lea c d base b sh sgn) s =
      vec64 (.lea c d base b sh sgn) d (fun w l =>
        (match base with
          | .v a => w.vget64 a.toNat l
          | .s a => w.sget a.toNat) +
        ((if sgn then (w.opb32 b l).signExtend 64 else (w.opb32 b l).setWidth 64) <<< sh.toNat)) s
            := rfl

theorem exec_movShort (d b : BitVec 8) (s : State) :
    exec (.movShort d b) s =
      vec32 (.movShort d b) d (fun w l => w.vget b.toNat l) s := rfl

theorem exec_movLit (d : BitVec 8) (l : BitVec 32) (s : State) :
    exec (.movLit d l) s =
      vec32 (.movLit d l) d (fun _ _ => l) s := rfl

theorem exec_mov (c : Ctl) (d : BitVec 8) (b : OpB) (w64 : Bool) (s : State) :
    exec (.mov c d b w64) s =
      if w64 then vec64 (.mov c d b w64) d (fun w l => w.opb64 b l) s
      else vec32 (.mov c d b w64) d (fun w l => w.opb32 b l) s := rfl

theorem exec_movk (c : Ctl) (d : BitVec 8) (v : BitVec 16) (h : BitVec 2) (w64 : Bool) (s : State) :
    exec (.movk c d v h w64) s =
      if w64 then vec64 (.movk c d v h w64) d (fun w l => movkVal (w.vget64 d.toNat l) v h.toNat) s
      else vec32 (.movk c d v h w64) d (fun w l => movkVal (w.vget d.toNat l) v h.toNat) s := rfl

theorem exec_cvtI (c : Ctl) (d a : BitVec 8) (dt st : Ty8) (s : State) :
    exec (.cvtI c d a dt st) s =
      let val (w : Warp) (l : Nat) : Int :=
        clampInt (intLow (ty8Info dt).2 (ty8Info dt).1) (intHigh (ty8Info dt).2 (ty8Info dt).1)
          (readInt (ty8Info st) (if st.w64 then w.vget64 a.toNat l else 0#32 ++ w.vget a.toNat l))
      if dt.w64 then vec64 (.cvtI c d a dt st) d (fun w l => BitVec.ofInt 64 (val w l)) s
      else vec32 (.cvtI c d a dt st) d (fun w l => BitVec.ofInt 32 (val w l)) s := rfl

theorem exec_pand (c : Ctl) (d a b : BitVec 6) (na nb : Bool) (s : State) :
    exec (.pand c d a b na nb) s =
      predOp (.pand c d a b na nb) d (fun w => psrc w a na &&& psrc w b nb) s := rfl

theorem exec_por (c : Ctl) (d a b : BitVec 6) (na nb : Bool) (s : State) :
    exec (.por c d a b na nb) s =
      predOp (.por c d a b na nb) d (fun w => psrc w a na ||| psrc w b nb) s := rfl

theorem exec_pxor (c : Ctl) (d a b : BitVec 6) (na nb : Bool) (s : State) :
    exec (.pxor c d a b na nb) s =
      predOp (.pxor c d a b na nb) d (fun w => psrc w a na ^^^ psrc w b nb) s := rfl

theorem exec_pnot (c : Ctl) (d a : BitVec 6) (na : Bool) (s : State) :
    exec (.pnot c d a na) s =
      predOp (.pnot c d a na) d (fun w => ~~~(psrc w a na)) s := rfl

theorem exec_pmov (c : Ctl) (d a : BitVec 6) (na : Bool) (s : State) :
    exec (.pmov c d a na) s =
      predOp (.pmov c d a na) d (fun w => psrc w a na) s := rfl

theorem exec_vote (c : Ctl) (d : VoteDst) (a : BitVec 6) (na : Bool) (s : State) :
    exec (.vote c d a na) s =
      issue (.vote c d a na) s fun x =>
        let act := x.acting c
        let t := psrc x.w a na &&& act
        (x.withW
          (match d with
          | .any p => x.w.pset p.toNat act (fullMask (t != 0))
          | .all p => x.w.pset p.toNat act (fullMask (t == act))
          | .ballot r => x.w.sset r.toNat (0#32 ++ t)
          | .vballot v => x.w.eachLane act fun w l => w.vset v.toNat l t)).done := rfl

theorem exec_pcnt (c : Ctl) (d : BitVec 8) (a : BitVec 6) (na pre : Bool) (s : State) :
    exec (.pcnt c d a na pre) s =
      issue (.pcnt c d a na pre) s fun x =>
        let t := psrc x.w a na &&& x.acting c
        (x.withW (x.w.eachLane (x.acting c) fun w l =>
          w.vset d.toNat l (BitVec.ofNat 32
            (countLanes (if pre then t &&& maskOf (fun k => decide (k < l)) else t))))).done := rfl

theorem exec_saddShort (d a b : BitVec 5) (s : State) :
    exec (.saddShort d a b) s =
      scalar2 (.saddShort d a b) d a (.reg b) (· + ·) s := rfl

theorem exec_saddLit (d a : BitVec 5) (l : BitVec 64) (s : State) :
    exec (.saddLit d a l) s =
      scalar2 (.saddLit d a l) d a (.lit l) (· + ·) s := rfl

theorem exec_sadd (wk : BitVec 8) (d a : BitVec 5) (b : SOpB) (s : State) :
    exec (.sadd wk d a b) s =
      scalar2 (.sadd wk d a b) d a b (· + ·) s := rfl

theorem exec_ssub (wk : BitVec 8) (d a : BitVec 5) (b : SOpB) (s : State) :
    exec (.ssub wk d a b) s =
      scalar2 (.ssub wk d a b) d a b (· - ·) s := rfl

theorem exec_smul (wk : BitVec 8) (d a : BitVec 5) (b : SOpB) (s : State) :
    exec (.smul wk d a b) s =
      scalar2 (.smul wk d a b) d a b (· * ·) s := rfl

theorem exec_sand (wk : BitVec 8) (d a : BitVec 5) (b : SOpB) (s : State) :
    exec (.sand wk d a b) s =
      scalar2 (.sand wk d a b) d a b (· &&& ·) s := rfl

theorem exec_sor (wk : BitVec 8) (d a : BitVec 5) (b : SOpB) (s : State) :
    exec (.sor wk d a b) s =
      scalar2 (.sor wk d a b) d a b (· ||| ·) s := rfl

theorem exec_sxor (wk : BitVec 8) (d a : BitVec 5) (b : SOpB) (s : State) :
    exec (.sxor wk d a b) s =
      scalar2 (.sxor wk d a b) d a b (· ^^^ ·) s := rfl

theorem exec_sshl (wk : BitVec 8) (d a : BitVec 5) (b : SOpB) (s : State) :
    exec (.sshl wk d a b) s =
      scalar2 (.sshl wk d a b) d a b (fun p q => p <<< scalarCount q) s := rfl

theorem exec_sshr (wk : BitVec 8) (d a : BitVec 5) (b : SOpB) (arith : Bool) (s : State) :
    exec (.sshr wk d a b arith) s =
      scalar2 (.sshr wk d a b arith) d a b
        (fun p q => if arith then p.sshiftRight (scalarCount q) else p >>> scalarCount q) s := rfl

theorem exec_scmp (wk : BitVec 8) (d a : BitVec 5) (b : SOpB) (cond : Cond) (uns : Bool) (s :
    State) :
    exec (.scmp wk d a b cond uns) s =
      scalar2 (.scmp wk d a b cond uns) d a b
        (fun p q => if condInt cond (intOf (!uns) p) (intOf (!uns) q) then 1 else 0) s := rfl

theorem exec_smov (wk : BitVec 8) (d : BitVec 5) (b : SOpB) (s : State) :
    exec (.smov wk d b) s =
      scalarOp (.smov wk d b) d (fun w => w.sopb b) s := rfl

theorem exec_bcast (c : Ctl) (d : BitVec 8) (a : BitVec 5) (w64 : Bool) (s : State) :
    exec (.bcast c d a w64) s =
      if w64 then vec64 (.bcast c d a w64) d (fun w _ => w.sget a.toNat) s
      else vec32 (.bcast c d a w64) d (fun w _ => (w.sget a.toNat).extractLsb' 0 32) s := rfl

theorem exec_lane (wk : BitVec 8) (d : BitVec 5) (a : BitVec 8) (b : SOpB) (w64 : Bool) (s : State)
    :
    exec (.lane wk d a b w64) s =
      scalarOp (.lane wk d a b w64) d (fun w =>
        let l := ((w.sopb b).extractLsb' 0 5).toNat
        if w64 then w.vget64 a.toNat l else 0#32 ++ w.vget a.toNat l) s := rfl

theorem exec_sreg (c : Ctl) (d : SVDst) (num : BitVec 16) (s : State) :
    exec (.sreg c d num) s =
      issue (.sreg c d num) s fun x =>
        ((x.useFree num).withW
          (match d with
          | .s r => x.w.sset r.toNat (sregVal x num 0)
          | .v r => x.w.eachLane (x.acting c) fun w l =>
              if sregW64 num then w.vset64 r.toNat l (sregVal x num l)
              else w.vset r.toNat l ((sregVal x num l).extractLsb' 0 32))).done := rfl

theorem exec_sbra (wk : BitVec 8) (a : BitVec 5) (off : Off) (z : Bool) (s : State) :
    exec (.sbra wk a off z) s =
      issue (.sbra wk a off z) s fun x =>
        if (x.w.sget a.toNat == 0) == z then
          x.leave (instrW0 (.sbra wk a off z))
            [(x.mask, .goto (x.pc + BitVec.ofNat 64 x.len + branchOff off) none)]
        else x.done := rfl

end Sys2Proof.Machine
end

