-- ==== Sys2Proof/Laws/Float.lean ====
section
/-! SUPPORT. What the shared floating-point operations can do: they write one register or pair and gather
the flags of the acting lanes (R182, R186). -/

namespace Sys2Proof.Machine

theorem inRegion_issued (x : Site) (i : Instr) : (x.issued i).inRegion = x.inRegion := by
  unfold Site.issued Site.inRegion Site.withW Warp.npeTick
  split <;> (try split) <;> rfl

theorem laneFlags_eq (m : Mask) (f : Nat → BitVec 5) : laneFlags m f = flagsOf m f := by
  unfold laneFlags flagsOf lanes
  generalize (0 : BitVec 5) = a
  generalize List.range 32 = ls
  induction ls generalizing a with
  | nil => rfl
  | cons l t ih =>
    rw [List.foldl_cons]
    by_cases h : m.getLsbD l = true
    · rw [List.filter_cons_of_pos h, List.foldl_cons, if_pos h]; exact ih _
    · rw [List.filter_cons_of_neg h, if_neg h]; exact ih _

/-- What raising flags does to a warp (R182). -/
theorem raiseFlags_others (w : Warp) (r : Bool) (f : BitVec 5) :
    (w.raiseFlags r f).others =
      { w.others with
        flags := (w.raiseFlags r f).flags
        rgn := { w.others.rgn with hflags := (w.raiseFlags r f).rgn.hflags } } := by
  unfold Warp.raiseFlags; split <;> rfl

theorem raiseFlags_num (w : Warp) (r : Bool) (f : BitVec 5) : (w.raiseFlags r f).num = w.num := by
  unfold Warp.raiseFlags; split <;> rfl
theorem raiseFlags_frontier (w : Warp) (r : Bool) (f : BitVec 5) :
    (w.raiseFlags r f).frontier = w.frontier := by
  unfold Warp.raiseFlags; split <;> rfl
theorem raiseFlags_frame (w : Warp) (r : Bool) (f : BitVec 5) :
    (w.raiseFlags r f).frame = w.frame := by
  unfold Warp.raiseFlags; split <;> rfl

/-- The flags raised at a site, whatever else the warp took on (R182). -/
theorem flagged_of {x : Site} {u w' : Warp} {m : Mask} {f : Nat → BitVec 5}
    (hu : u.flags = x.w.flags) (hr : u.rgn.hflags = x.w.rgn.hflags)
    (h : w'.others = (u.raiseFlags x.inRegion (flagsOf m f)).others) : x.flagged w' m f := by
  have h1 : w'.flags = (u.raiseFlags x.inRegion (flagsOf m f)).flags := of_others Warp.flags h
  have h2 : w'.rgn.hflags = (u.raiseFlags x.inRegion (flagsOf m f)).rgn.hflags :=
    of_others (fun w => w.rgn.hflags) h
  unfold Site.flagged
  unfold Warp.raiseFlags at h1 h2
  split
  · next hi => rw [hi] at h1 h2; exact ⟨by rw [h1]; exact hu, by rw [h2, ← hr]; rfl⟩
  · next hi =>
    simp only [hi] at h1 h2
    exact ⟨by rw [h1, ← hu]; rfl, by rw [h2]; exact hr⟩

/-- A vector operation that raises flags, from the registers it writes. -/
theorem completes_flags {i : Instr} {g : Site → Warp} {m : Site → Mask} {fl : Site → Nat → BitVec 5}
    {post : Site → Warp → Prop}
    (he : ∀ s, exec i s = issue i s fun x =>
      (x.withW ((g x).raiseFlags x.inRegion (laneFlags (m x) (fl x)))).done)
    (hn : ∀ x : Site, (g x).num = x.w.num) (hf : ∀ x : Site, (g x).frontier = x.w.frontier)
    (hfr : ∀ x : Site, (g x).frame.isSome = x.w.frame.isSome)
    (hfl : ∀ x : Site, (g x).flags = x.w.flags) (hrg : ∀ x : Site, (g x).rgn = x.w.rgn)
    (hm : SiteFun m) (hl : SiteFun fl)
    (hp : ∀ (x : Site) (w' : Warp), w'.others = { (g (x.issued i)).others with
        flags := w'.flags, rgn := { (g (x.issued i)).others.rgn with hflags := w'.rgn.hflags } } →
      x.flagged w' (m x) (fl x) → post x w') :
    Completes i post := by
  refine completes_of_done
    (f := fun x => (g x).raiseFlags x.inRegion (laneFlags (m x) (fl x))) he
    (fun x => by rw [raiseFlags_num]; exact hn x)
    (fun x => by rw [raiseFlags_frontier]; exact hf x)
    (fun x => by rw [raiseFlags_frame]; exact hfr x) ?_
  intro x w' h
  have h1 : w'.flags = _ := of_others Warp.flags h
  have h2 : w'.rgn.hflags = _ := of_others (fun w => w.rgn.hflags) h
  refine hp x w' ?_ ?_
  · rw [h1, h2, ← raiseFlags_others]; exact h
  · rw [inRegion_issued, laneFlags_eq] at h
    have hm' : m (x.issued i) = m x := siteFun_issued hm x i
    have hl' : fl (x.issued i) = fl x := siteFun_issued hl x i
    rw [hm', hl'] at h
    refine flagged_of ?_ ?_ h
    · rw [hfl]; exact of_others Warp.flags (issued_others x i)
    · rw [hrg]; exact of_others (fun w => w.rgn.hflags) (issued_others x i)

theorem extract_ofNat (v j : Nat) (hj : j < 2) :
    (BitVec.ofNat 64 v).extractLsb' (32 * j) 32 = BitVec.ofNat 32 (v / 2 ^ (32 * j)) := by
  apply BitVec.eq_of_toNat_eq
  have : j = 0 ∨ j = 1 := by omega
  rcases this with rfl | rfl
  · simp only [BitVec.extractLsb'_toNat, BitVec.toNat_ofNat, Nat.mul_zero, Nat.shiftRight_zero,
      Nat.pow_zero, Nat.div_one]
    omega
  · simp only [BitVec.extractLsb'_toNat, BitVec.toNat_ofNat, Nat.shiftRight_eq_div_pow]
    omega

theorem fwritten_of {x : Site} {u w' : Warp} {i : Instr} {d k : Nat} {m : Mask}
    {f : Nat → Nat × BitVec 5}
    (hv : VWritten (x.issued i).w u d k m fun l j => BitVec.ofNat 32 ((f l).1 / 2 ^ (32 * j)))
    (h : w'.others = { u.others with
      flags := w'.flags, rgn := { u.others.rgn with hflags := w'.rgn.hflags } })
    (hfl : x.flagged w' m fun l => (f l).2) : FWritten x w' d k m f := by
  have hs : ∀ n l, w'.vget n l = u.vget n l := by
    intro n l
    have h1 := congrArg Warp.v h
    have h2 : w'.v = u.v := h1
    unfold Warp.vget
    rw [h2]
  have h1 := congrArg Warp.v h
  have h2 := congrArg Warp.poison h
  have hv1 : w'.v = u.v := h1
  have hv2 : w'.poison = u.poison := h2
  refine ⟨fun l j hl hm hj => by rw [hs]; exact hv.new l j hl hm hj, ?_, hfl, ?_⟩
  · intro n l hl ho
    rw [hs, hv.old n l hl ho, issued_vget]
  · rw [h, hv.rest]
    have ho := issued_others x i
    have key : ∀ (a : Warp) (p : List (Nat × Word)) (q : List Nat) (fl : BitVec 5) (hf : BitVec 5),
        { { a with v := p, poison := q }.others with
          flags := fl, rgn := { { a with v := p, poison := q }.others.rgn with hflags := hf } } =
        { a.others with
          v := p, poison := q, flags := fl, rgn := { a.others.rgn with hflags := hf } } :=
      fun _ _ _ _ _ => rfl
    rw [key, ho, ← hv1, ← hv2]
    rfl

theorem writesF_of_vecF {i : Instr} {w64 : Bool} {d : BitVec 8} {f : Warp → Nat → Nat × BitVec 5}
    (he : ∀ s, exec i s = vecF i w64 d f s) (hf : RegFun f) : WritesF i w64 d f := by
  refine completes_flags (g := fun x => x.w.eachLane (x.acting (instrCtl i)) fun w l =>
      if w64 then w.vset64 d.toNat l (BitVec.ofNat 64 (f x.w l).1)
      else w.vset d.toNat l (BitVec.ofNat 32 (f x.w l).1))
    (m := fun x => x.acting (instrCtl i)) (fl := fun x l => (f x.w l).2) he ?_ ?_ ?_ ?_ ?_ ?_ ?_ ?_
  · exact fun x => eachLane_induct (P := fun u => u.num = x.w.num) _ _ _ rfl fun u l _ h => by
      split <;> exact h
  · exact fun x => eachLane_induct (P := fun u => u.frontier = x.w.frontier) _ _ _ rfl
      fun u l _ h => by split <;> exact h
  · exact fun x => eachLane_induct (P := fun u => u.frame.isSome = x.w.frame.isSome) _ _ _ rfl
      fun u l _ h => by split <;> exact h
  · exact fun x => eachLane_induct (P := fun u => u.flags = x.w.flags) _ _ _ rfl
      fun u l _ h => by split <;> exact h
  · exact fun x => eachLane_induct (P := fun u => u.rgn = x.w.rgn) _ _ _ rfl
      fun u l _ h => by split <;> exact h
  · exact fun x st rgn => rfl
  · exact fun x st rgn => funext fun l => by
      show (f { x.w with st := st, rgn := rgn } l).2 = _
      rw [hf]
  · intro x w' h hfl
    have hfx : f (x.issued i).w = f x.w := siteFun_issued (regFun_site hf) x i
    rw [acting_issued, hfx] at h
    cases w64
    · refine fwritten_of (i := i) (u := x.issued i |>.w.eachLane (x.acting (instrCtl i)) fun w l =>
        w.vset d.toNat l (BitVec.ofNat 32 (f x.w l).1)) ?_ h hfl
      have h2 := vwritten_each32 (x.issued i).w (x.acting (instrCtl i)) d.toNat
        fun l => BitVec.ofNat 32 (f x.w l).1
      refine ⟨fun l j hl hm hj => ?_, h2.old, h2.rest⟩
      have hj0 : j = 0 := by simpa using hj
      subst hj0
      simpa using h2.new l 0 hl hm (by omega)
    · refine fwritten_of (i := i) (u := x.issued i |>.w.eachLane (x.acting (instrCtl i)) fun w l =>
        w.vset64 d.toNat l (BitVec.ofNat 64 (f x.w l).1)) ?_ h hfl
      have h2 := vwritten_each64 (x.issued i).w (x.acting (instrCtl i)) d.toNat
        fun l => BitVec.ofNat 64 (f x.w l).1
      refine ⟨fun l j hl hm hj => ?_, h2.old, h2.rest⟩
      have hj' : j < 2 := hj
      rw [h2.new l j hl hm hj', extract_ofNat _ j hj']

end Sys2Proof.Machine
end

