-- ==== Sys2Proof/Laws/Integer.lean ====
section
/-! SUPPORT. What each shared operation of the integer and scalar groups can do, said once: it completes
and writes one register (R154 to R165). -/

namespace Sys2Proof.Machine

theorem arith2_writes32 {i : Instr} {d a : BitVec 8} {b : OpB} {ty : Ty} {sat : Bool}
    {f : Int → Int → Int} {g : Warp → Nat → Word}
    (he : ∀ s, exec i s = arith2 i d a b ty sat f s) (hw : ty.w64 = false)
    (e : ∀ w l, narrow 32 (tySigned ty) sat
      (f (intOf (tySigned ty) (w.vget a.toNat l)) (intOf (tySigned ty) (w.opb32 b l))) = g w l) :
    Writes32 i d g := by
  refine writes32_as (f := fun w l => narrow 32 (tySigned ty) sat
    (f (intOf (tySigned ty) (w.vget a.toNat l)) (intOf (tySigned ty) (w.opb32 b l))))
    (fun s => ?_) (fun l w st rgn => by simp only [vget_st, opb32_st]) e
  rw [he]; simp only [arith2, hw, Bool.false_eq_true, if_false]

theorem arith2_writes64 {i : Instr} {d a : BitVec 8} {b : OpB} {ty : Ty} {sat : Bool}
    {f : Int → Int → Int} {g : Warp → Nat → DWord}
    (he : ∀ s, exec i s = arith2 i d a b ty sat f s) (hw : ty.w64 = true)
    (e : ∀ w l, narrow 64 (tySigned ty) sat
      (f (intOf (tySigned ty) (w.vget64 a.toNat l)) (intOf (tySigned ty) (w.opb64 b l))) = g w l) :
    Writes64 i d g := by
  refine writes64_as (f := fun w l => narrow 64 (tySigned ty) sat
    (f (intOf (tySigned ty) (w.vget64 a.toNat l)) (intOf (tySigned ty) (w.opb64 b l))))
    (fun s => ?_) (fun l w st rgn => by simp only [vget64_st, opb64_st]) e
  rw [he]; simp only [arith2, hw, if_true]

theorem arith3_writes32 {i : Instr} {d a r : BitVec 8} {b : OpB} {ty : Ty} {sat : Bool}
    {f : Int → Int → Int → Int} {g : Warp → Nat → Word}
    (he : ∀ s, exec i s = arith3 i d a b r ty sat f s) (hw : ty.w64 = false)
    (e : ∀ w l, narrow 32 (tySigned ty) sat
      (f (intOf (tySigned ty) (w.vget a.toNat l)) (intOf (tySigned ty) (w.opb32 b l))
        (intOf (tySigned ty) (w.vget r.toNat l))) = g w l) :
    Writes32 i d g := by
  refine writes32_as (f := fun w l => narrow 32 (tySigned ty) sat
    (f (intOf (tySigned ty) (w.vget a.toNat l)) (intOf (tySigned ty) (w.opb32 b l))
      (intOf (tySigned ty) (w.vget r.toNat l))))
    (fun s => ?_) (fun l w st rgn => by simp only [vget_st, opb32_st]) e
  rw [he]; simp only [arith3, hw, Bool.false_eq_true, if_false]

theorem arith3_writes64 {i : Instr} {d a r : BitVec 8} {b : OpB} {ty : Ty} {sat : Bool}
    {f : Int → Int → Int → Int} {g : Warp → Nat → DWord}
    (he : ∀ s, exec i s = arith3 i d a b r ty sat f s) (hw : ty.w64 = true)
    (e : ∀ w l, narrow 64 (tySigned ty) sat
      (f (intOf (tySigned ty) (w.vget64 a.toNat l)) (intOf (tySigned ty) (w.opb64 b l))
        (intOf (tySigned ty) (w.vget64 r.toNat l))) = g w l) :
    Writes64 i d g := by
  refine writes64_as (f := fun w l => narrow 64 (tySigned ty) sat
    (f (intOf (tySigned ty) (w.vget64 a.toNat l)) (intOf (tySigned ty) (w.opb64 b l))
      (intOf (tySigned ty) (w.vget64 r.toNat l))))
    (fun s => ?_) (fun l w st rgn => by simp only [vget64_st, opb64_st]) e
  rw [he]; simp only [arith3, hw, if_true]

theorem arith1_writes32 {i : Instr} {d a : BitVec 8} {sat : Bool} {f : Int → Int}
    {g : Warp → Nat → Word} (he : ∀ s, exec i s = arith1 i d a false sat f s)
    (e : ∀ w l, narrow 32 true sat (f (w.vget a.toNat l).toInt) = g w l) : Writes32 i d g :=
  writes32_as (f := fun w l => narrow 32 true sat (f (w.vget a.toNat l).toInt)) he
    (fun l w st rgn => by simp only [vget_st]) e

theorem arith1_writes64 {i : Instr} {d a : BitVec 8} {sat : Bool} {f : Int → Int}
    {g : Warp → Nat → DWord} (he : ∀ s, exec i s = arith1 i d a true sat f s)
    (e : ∀ w l, narrow 64 true sat (f (w.vget64 a.toNat l).toInt) = g w l) : Writes64 i d g :=
  writes64_as (f := fun w l => narrow 64 true sat (f (w.vget64 a.toNat l).toInt)) he
    (fun l w st rgn => by simp only [vget64_st]) e

theorem logic2_writes32 {i : Instr} {d a : BitVec 8} {b : OpB} {f : Word → Word → Word}
    {h : DWord → DWord → DWord} {g : Warp → Nat → Word}
    (he : ∀ s, exec i s = logic2 i d a b false f h s)
    (e : ∀ w l, f (w.vget a.toNat l) (w.opb32 b l) = g w l) : Writes32 i d g :=
  writes32_as (f := fun w l => f (w.vget a.toNat l) (w.opb32 b l)) he
    (fun l w st rgn => by simp only [vget_st, opb32_st]) e

theorem logic2_writes64 {i : Instr} {d a : BitVec 8} {b : OpB} {f : Word → Word → Word}
    {h : DWord → DWord → DWord} {g : Warp → Nat → DWord}
    (he : ∀ s, exec i s = logic2 i d a b true f h s)
    (e : ∀ w l, h (w.vget64 a.toNat l) (w.opb64 b l) = g w l) : Writes64 i d g :=
  writes64_as (f := fun w l => h (w.vget64 a.toNat l) (w.opb64 b l)) he
    (fun l w st rgn => by simp only [vget64_st, opb64_st]) e

theorem logic1_writes32 {i : Instr} {d a : BitVec 8} {f : Word → Word} {h : DWord → DWord}
    {g : Warp → Nat → Word} (he : ∀ s, exec i s = logic1 i d a false f h s)
    (e : ∀ w l, f (w.vget a.toNat l) = g w l) : Writes32 i d g :=
  writes32_as (f := fun w l => f (w.vget a.toNat l)) he (fun l w st rgn => by simp only [vget_st]) e

theorem logic1_writes64 {i : Instr} {d a : BitVec 8} {f : Word → Word} {h : DWord → DWord}
    {g : Warp → Nat → DWord} (he : ∀ s, exec i s = logic1 i d a true f h s)
    (e : ∀ w l, h (w.vget64 a.toNat l) = g w l) : Writes64 i d g :=
  writes64_as (f := fun w l => h (w.vget64 a.toNat l)) he
    (fun l w st rgn => by simp only [vget64_st]) e

theorem control2_writes32 {i : Instr} {d a : BitVec 8} {b : OpB} {w64 : Bool} {f : Word → Word → Word}
    {h : DWord → Word → DWord} {g : Warp → Nat → Word}
    (he : ∀ s, exec i s = control2 i d a b w64 f h s) (hw : w64 = false)
    (e : ∀ w l, f (w.vget a.toNat l) (w.opb32 b l) = g w l) : Writes32 i d g := by
  subst hw
  exact writes32_as (f := fun w l => f (w.vget a.toNat l) (w.opb32 b l)) he
    (fun l w st rgn => by simp only [vget_st, opb32_st]) e

theorem control2_writes64 {i : Instr} {d a : BitVec 8} {b : OpB} {w64 : Bool} {f : Word → Word → Word}
    {h : DWord → Word → DWord} {g : Warp → Nat → DWord}
    (he : ∀ s, exec i s = control2 i d a b w64 f h s) (hw : w64 = true)
    (e : ∀ w l, h (w.vget64 a.toNat l) (w.opb32 b l) = g w l) : Writes64 i d g := by
  subst hw
  exact writes64_as (f := fun w l => h (w.vget64 a.toNat l) (w.opb32 b l)) he
    (fun l w st rgn => by simp only [vget64_st, opb32_st]) e

theorem scalar2_writesS {i : Instr} {d a : BitVec 5} {b : SOpB} {f : DWord → DWord → DWord}
    {g : Warp → DWord} (he : ∀ s, exec i s = scalar2 i d a b f s)
    (e : ∀ w, f (w.sget a.toNat) (w.sopb b) = g w) : WritesS i d g :=
  writesS_as (f := fun w => f (w.sget a.toNat) (w.sopb b)) he
    (fun w st rgn => by simp only [sget_st, sopb_st]) e

end Sys2Proof.Machine
end

