-- ==== Sys2Proof/Laws/State.lean ====
section
/-! SUPPORT. What the named updates of a state, a warp and a block leave alone, one lemma per field and update;
what each lookup finds after an update; and that every write keeps the canonical form of the memories. -/

namespace Sys2Proof.Machine

/- What `State.setBlock` leaves alone. -/

@[simp] theorem State.setBlock_dram (s : State) (b : Block) : (s.setBlock b).dram = s.dram := rfl
@[simp] theorem State.setBlock_lpddr (s : State) (b : Block) : (s.setBlock b).lpddr = s.lpddr := rfl
@[simp] theorem State.setBlock_hostMem (s : State) (b : Block) : (s.setBlock b).hostMem = s.hostMem := rfl
@[simp] theorem State.setBlock_poison (s : State) (b : Block) : (s.setBlock b).poison = s.poison := rfl
@[simp] theorem State.setBlock_ctxs (s : State) (b : Block) : (s.setBlock b).ctxs = s.ctxs := rfl
@[simp] theorem State.setBlock_funcs (s : State) (b : Block) : (s.setBlock b).funcs = s.funcs := rfl
@[simp] theorem State.setBlock_queues (s : State) (b : Block) : (s.setBlock b).queues = s.queues := rfl
@[simp] theorem State.setBlock_grids (s : State) (b : Block) : (s.setBlock b).grids = s.grids := rfl
@[simp] theorem State.setBlock_cores (s : State) (b : Block) : (s.setBlock b).cores = s.cores := rfl
@[simp] theorem State.setBlock_dies (s : State) (b : Block) : (s.setBlock b).dies = s.dies := rfl
@[simp] theorem State.setBlock_quads (s : State) (b : Block) : (s.setBlock b).quads = s.quads := rfl
@[simp] theorem State.setBlock_pkg (s : State) (b : Block) : (s.setBlock b).pkg = s.pkg := rfl
@[simp] theorem State.setBlock_plat (s : State) (b : Block) : (s.setBlock b).plat = s.plat := rfl
@[simp] theorem State.setBlock_trav (s : State) (b : Block) : (s.setBlock b).trav = s.trav := rfl
@[simp] theorem State.setBlock_rows (s : State) (b : Block) : (s.setBlock b).rows = s.rows := rfl
@[simp] theorem State.setBlock_podCmds (s : State) (b : Block) : (s.setBlock b).podCmds = s.podCmds := rfl
@[simp] theorem State.setBlock_psubs (s : State) (b : Block) : (s.setBlock b).psubs = s.psubs := rfl
@[simp] theorem State.setBlock_launches (s : State) (b : Block) : (s.setBlock b).launches = s.launches := rfl
@[simp] theorem State.setBlock_parked (s : State) (b : Block) : (s.setBlock b).parked = s.parked := rfl
@[simp] theorem State.setBlock_acache (s : State) (b : Block) : (s.setBlock b).acache = s.acache := rfl
@[simp] theorem State.setBlock_shoots (s : State) (b : Block) : (s.setBlock b).shoots = s.shoots := rfl
@[simp] theorem State.setBlock_ats (s : State) (b : Block) : (s.setBlock b).ats = s.ats := rfl
@[simp] theorem State.setBlock_priReqs (s : State) (b : Block) : (s.setBlock b).priReqs = s.priReqs := rfl
@[simp] theorem State.setBlock_priFailed (s : State) (b : Block) : (s.setBlock b).priFailed = s.priFailed := rfl
@[simp] theorem State.setBlock_outbox (s : State) (b : Block) : (s.setBlock b).outbox = s.outbox := rfl
@[simp] theorem State.setBlock_fabricOut (s : State) (b : Block) : (s.setBlock b).fabricOut = s.fabricOut := rfl
@[simp] theorem State.setBlock_heldRemote (s : State) (b : Block) : (s.setBlock b).heldRemote = s.heldRemote := rfl
@[simp] theorem State.setBlock_msix (s : State) (b : Block) : (s.setBlock b).msix = s.msix := rfl
@[simp] theorem State.setBlock_plog (s : State) (b : Block) : (s.setBlock b).plog = s.plog := rfl
@[simp] theorem State.setBlock_fw (s : State) (b : Block) : (s.setBlock b).fw = s.fw := rfl
@[simp] theorem State.setBlock_mr (s : State) (b : Block) : (s.setBlock b).mr = s.mr := rfl
@[simp] theorem State.setBlock_spdm (s : State) (b : Block) : (s.setBlock b).spdm = s.spdm := rfl
@[simp] theorem State.setBlock_mons (s : State) (b : Block) : (s.setBlock b).mons = s.mons := rfl
@[simp] theorem State.setBlock_links (s : State) (b : Block) : (s.setBlock b).links = s.links := rfl
@[simp] theorem State.setBlock_off (s : State) (b : Block) : (s.setBlock b).off = s.off := rfl
@[simp] theorem State.setBlock_svec (s : State) (b : Block) : (s.setBlock b).svec = s.svec := rfl
@[simp] theorem State.setBlock_agenda (s : State) (b : Block) : (s.setBlock b).agenda = s.agenda := rfl
@[simp] theorem State.setBlock_cur (s : State) (b : Block) : (s.setBlock b).cur = s.cur := rfl
@[simp] theorem State.setBlock_turns (s : State) (b : Block) : (s.setBlock b).turns = s.turns := rfl
@[simp] theorem State.setBlock_part (s : State) (b : Block) : (s.setBlock b).part = s.part := rfl
@[simp] theorem State.setBlock_engineTurn (s : State) (b : Block) : (s.setBlock b).engineTurn = s.engineTurn := rfl
@[simp] theorem State.setBlock_rotor (s : State) (b : Block) : (s.setBlock b).rotor = s.rotor := rfl
@[simp] theorem State.setBlock_free (s : State) (b : Block) : (s.setBlock b).free = s.free := rfl
@[simp] theorem State.setBlock_fresh (s : State) (b : Block) : (s.setBlock b).fresh = s.fresh := rfl
@[simp] theorem State.setBlock_slowLoads (s : State) (b : Block) : (s.setBlock b).slowLoads = s.slowLoads := rfl

/- What `State.setGrid` leaves alone. -/

@[simp] theorem State.setGrid_dram (s : State) (g : Grid) : (s.setGrid g).dram = s.dram := rfl
@[simp] theorem State.setGrid_lpddr (s : State) (g : Grid) : (s.setGrid g).lpddr = s.lpddr := rfl
@[simp] theorem State.setGrid_hostMem (s : State) (g : Grid) : (s.setGrid g).hostMem = s.hostMem := rfl
@[simp] theorem State.setGrid_poison (s : State) (g : Grid) : (s.setGrid g).poison = s.poison := rfl
@[simp] theorem State.setGrid_ctxs (s : State) (g : Grid) : (s.setGrid g).ctxs = s.ctxs := rfl
@[simp] theorem State.setGrid_funcs (s : State) (g : Grid) : (s.setGrid g).funcs = s.funcs := rfl
@[simp] theorem State.setGrid_queues (s : State) (g : Grid) : (s.setGrid g).queues = s.queues := rfl
@[simp] theorem State.setGrid_blocks (s : State) (g : Grid) : (s.setGrid g).blocks = s.blocks := rfl
@[simp] theorem State.setGrid_cores (s : State) (g : Grid) : (s.setGrid g).cores = s.cores := rfl
@[simp] theorem State.setGrid_dies (s : State) (g : Grid) : (s.setGrid g).dies = s.dies := rfl
@[simp] theorem State.setGrid_quads (s : State) (g : Grid) : (s.setGrid g).quads = s.quads := rfl
@[simp] theorem State.setGrid_pkg (s : State) (g : Grid) : (s.setGrid g).pkg = s.pkg := rfl
@[simp] theorem State.setGrid_plat (s : State) (g : Grid) : (s.setGrid g).plat = s.plat := rfl
@[simp] theorem State.setGrid_trav (s : State) (g : Grid) : (s.setGrid g).trav = s.trav := rfl
@[simp] theorem State.setGrid_rows (s : State) (g : Grid) : (s.setGrid g).rows = s.rows := rfl
@[simp] theorem State.setGrid_podCmds (s : State) (g : Grid) : (s.setGrid g).podCmds = s.podCmds := rfl
@[simp] theorem State.setGrid_psubs (s : State) (g : Grid) : (s.setGrid g).psubs = s.psubs := rfl
@[simp] theorem State.setGrid_launches (s : State) (g : Grid) : (s.setGrid g).launches = s.launches := rfl
@[simp] theorem State.setGrid_parked (s : State) (g : Grid) : (s.setGrid g).parked = s.parked := rfl
@[simp] theorem State.setGrid_acache (s : State) (g : Grid) : (s.setGrid g).acache = s.acache := rfl
@[simp] theorem State.setGrid_shoots (s : State) (g : Grid) : (s.setGrid g).shoots = s.shoots := rfl
@[simp] theorem State.setGrid_ats (s : State) (g : Grid) : (s.setGrid g).ats = s.ats := rfl
@[simp] theorem State.setGrid_priReqs (s : State) (g : Grid) : (s.setGrid g).priReqs = s.priReqs := rfl
@[simp] theorem State.setGrid_priFailed (s : State) (g : Grid) : (s.setGrid g).priFailed = s.priFailed := rfl
@[simp] theorem State.setGrid_outbox (s : State) (g : Grid) : (s.setGrid g).outbox = s.outbox := rfl
@[simp] theorem State.setGrid_fabricOut (s : State) (g : Grid) : (s.setGrid g).fabricOut = s.fabricOut := rfl
@[simp] theorem State.setGrid_heldRemote (s : State) (g : Grid) : (s.setGrid g).heldRemote = s.heldRemote := rfl
@[simp] theorem State.setGrid_msix (s : State) (g : Grid) : (s.setGrid g).msix = s.msix := rfl
@[simp] theorem State.setGrid_plog (s : State) (g : Grid) : (s.setGrid g).plog = s.plog := rfl
@[simp] theorem State.setGrid_fw (s : State) (g : Grid) : (s.setGrid g).fw = s.fw := rfl
@[simp] theorem State.setGrid_mr (s : State) (g : Grid) : (s.setGrid g).mr = s.mr := rfl
@[simp] theorem State.setGrid_spdm (s : State) (g : Grid) : (s.setGrid g).spdm = s.spdm := rfl
@[simp] theorem State.setGrid_mons (s : State) (g : Grid) : (s.setGrid g).mons = s.mons := rfl
@[simp] theorem State.setGrid_links (s : State) (g : Grid) : (s.setGrid g).links = s.links := rfl
@[simp] theorem State.setGrid_off (s : State) (g : Grid) : (s.setGrid g).off = s.off := rfl
@[simp] theorem State.setGrid_svec (s : State) (g : Grid) : (s.setGrid g).svec = s.svec := rfl
@[simp] theorem State.setGrid_agenda (s : State) (g : Grid) : (s.setGrid g).agenda = s.agenda := rfl
@[simp] theorem State.setGrid_cur (s : State) (g : Grid) : (s.setGrid g).cur = s.cur := rfl
@[simp] theorem State.setGrid_turns (s : State) (g : Grid) : (s.setGrid g).turns = s.turns := rfl
@[simp] theorem State.setGrid_part (s : State) (g : Grid) : (s.setGrid g).part = s.part := rfl
@[simp] theorem State.setGrid_engineTurn (s : State) (g : Grid) : (s.setGrid g).engineTurn = s.engineTurn := rfl
@[simp] theorem State.setGrid_rotor (s : State) (g : Grid) : (s.setGrid g).rotor = s.rotor := rfl
@[simp] theorem State.setGrid_free (s : State) (g : Grid) : (s.setGrid g).free = s.free := rfl
@[simp] theorem State.setGrid_fresh (s : State) (g : Grid) : (s.setGrid g).fresh = s.fresh := rfl
@[simp] theorem State.setGrid_slowLoads (s : State) (g : Grid) : (s.setGrid g).slowLoads = s.slowLoads := rfl

/- What `State.setCtx` leaves alone. -/

@[simp] theorem State.setCtx_dram (s : State) (c : Ctx) : (s.setCtx c).dram = s.dram := rfl
@[simp] theorem State.setCtx_lpddr (s : State) (c : Ctx) : (s.setCtx c).lpddr = s.lpddr := rfl
@[simp] theorem State.setCtx_hostMem (s : State) (c : Ctx) : (s.setCtx c).hostMem = s.hostMem := rfl
@[simp] theorem State.setCtx_poison (s : State) (c : Ctx) : (s.setCtx c).poison = s.poison := rfl
@[simp] theorem State.setCtx_funcs (s : State) (c : Ctx) : (s.setCtx c).funcs = s.funcs := rfl
@[simp] theorem State.setCtx_queues (s : State) (c : Ctx) : (s.setCtx c).queues = s.queues := rfl
@[simp] theorem State.setCtx_grids (s : State) (c : Ctx) : (s.setCtx c).grids = s.grids := rfl
@[simp] theorem State.setCtx_blocks (s : State) (c : Ctx) : (s.setCtx c).blocks = s.blocks := rfl
@[simp] theorem State.setCtx_cores (s : State) (c : Ctx) : (s.setCtx c).cores = s.cores := rfl
@[simp] theorem State.setCtx_dies (s : State) (c : Ctx) : (s.setCtx c).dies = s.dies := rfl
@[simp] theorem State.setCtx_quads (s : State) (c : Ctx) : (s.setCtx c).quads = s.quads := rfl
@[simp] theorem State.setCtx_pkg (s : State) (c : Ctx) : (s.setCtx c).pkg = s.pkg := rfl
@[simp] theorem State.setCtx_plat (s : State) (c : Ctx) : (s.setCtx c).plat = s.plat := rfl
@[simp] theorem State.setCtx_trav (s : State) (c : Ctx) : (s.setCtx c).trav = s.trav := rfl
@[simp] theorem State.setCtx_rows (s : State) (c : Ctx) : (s.setCtx c).rows = s.rows := rfl
@[simp] theorem State.setCtx_podCmds (s : State) (c : Ctx) : (s.setCtx c).podCmds = s.podCmds := rfl
@[simp] theorem State.setCtx_psubs (s : State) (c : Ctx) : (s.setCtx c).psubs = s.psubs := rfl
@[simp] theorem State.setCtx_launches (s : State) (c : Ctx) : (s.setCtx c).launches = s.launches := rfl
@[simp] theorem State.setCtx_parked (s : State) (c : Ctx) : (s.setCtx c).parked = s.parked := rfl
@[simp] theorem State.setCtx_acache (s : State) (c : Ctx) : (s.setCtx c).acache = s.acache := rfl
@[simp] theorem State.setCtx_shoots (s : State) (c : Ctx) : (s.setCtx c).shoots = s.shoots := rfl
@[simp] theorem State.setCtx_ats (s : State) (c : Ctx) : (s.setCtx c).ats = s.ats := rfl
@[simp] theorem State.setCtx_priReqs (s : State) (c : Ctx) : (s.setCtx c).priReqs = s.priReqs := rfl
@[simp] theorem State.setCtx_priFailed (s : State) (c : Ctx) : (s.setCtx c).priFailed = s.priFailed := rfl
@[simp] theorem State.setCtx_outbox (s : State) (c : Ctx) : (s.setCtx c).outbox = s.outbox := rfl
@[simp] theorem State.setCtx_fabricOut (s : State) (c : Ctx) : (s.setCtx c).fabricOut = s.fabricOut := rfl
@[simp] theorem State.setCtx_heldRemote (s : State) (c : Ctx) : (s.setCtx c).heldRemote = s.heldRemote := rfl
@[simp] theorem State.setCtx_msix (s : State) (c : Ctx) : (s.setCtx c).msix = s.msix := rfl
@[simp] theorem State.setCtx_plog (s : State) (c : Ctx) : (s.setCtx c).plog = s.plog := rfl
@[simp] theorem State.setCtx_fw (s : State) (c : Ctx) : (s.setCtx c).fw = s.fw := rfl
@[simp] theorem State.setCtx_mr (s : State) (c : Ctx) : (s.setCtx c).mr = s.mr := rfl
@[simp] theorem State.setCtx_spdm (s : State) (c : Ctx) : (s.setCtx c).spdm = s.spdm := rfl
@[simp] theorem State.setCtx_mons (s : State) (c : Ctx) : (s.setCtx c).mons = s.mons := rfl
@[simp] theorem State.setCtx_links (s : State) (c : Ctx) : (s.setCtx c).links = s.links := rfl
@[simp] theorem State.setCtx_off (s : State) (c : Ctx) : (s.setCtx c).off = s.off := rfl
@[simp] theorem State.setCtx_svec (s : State) (c : Ctx) : (s.setCtx c).svec = s.svec := rfl
@[simp] theorem State.setCtx_agenda (s : State) (c : Ctx) : (s.setCtx c).agenda = s.agenda := rfl
@[simp] theorem State.setCtx_cur (s : State) (c : Ctx) : (s.setCtx c).cur = s.cur := rfl
@[simp] theorem State.setCtx_turns (s : State) (c : Ctx) : (s.setCtx c).turns = s.turns := rfl
@[simp] theorem State.setCtx_part (s : State) (c : Ctx) : (s.setCtx c).part = s.part := rfl
@[simp] theorem State.setCtx_engineTurn (s : State) (c : Ctx) : (s.setCtx c).engineTurn = s.engineTurn := rfl
@[simp] theorem State.setCtx_rotor (s : State) (c : Ctx) : (s.setCtx c).rotor = s.rotor := rfl
@[simp] theorem State.setCtx_free (s : State) (c : Ctx) : (s.setCtx c).free = s.free := rfl
@[simp] theorem State.setCtx_fresh (s : State) (c : Ctx) : (s.setCtx c).fresh = s.fresh := rfl
@[simp] theorem State.setCtx_slowLoads (s : State) (c : Ctx) : (s.setCtx c).slowLoads = s.slowLoads := rfl

/- What `State.setQueue` leaves alone. -/

@[simp] theorem State.setQueue_dram (s : State) (q : Queue) : (s.setQueue q).dram = s.dram := rfl
@[simp] theorem State.setQueue_lpddr (s : State) (q : Queue) : (s.setQueue q).lpddr = s.lpddr := rfl
@[simp] theorem State.setQueue_hostMem (s : State) (q : Queue) : (s.setQueue q).hostMem = s.hostMem := rfl
@[simp] theorem State.setQueue_poison (s : State) (q : Queue) : (s.setQueue q).poison = s.poison := rfl
@[simp] theorem State.setQueue_ctxs (s : State) (q : Queue) : (s.setQueue q).ctxs = s.ctxs := rfl
@[simp] theorem State.setQueue_funcs (s : State) (q : Queue) : (s.setQueue q).funcs = s.funcs := rfl
@[simp] theorem State.setQueue_grids (s : State) (q : Queue) : (s.setQueue q).grids = s.grids := rfl
@[simp] theorem State.setQueue_blocks (s : State) (q : Queue) : (s.setQueue q).blocks = s.blocks := rfl
@[simp] theorem State.setQueue_cores (s : State) (q : Queue) : (s.setQueue q).cores = s.cores := rfl
@[simp] theorem State.setQueue_dies (s : State) (q : Queue) : (s.setQueue q).dies = s.dies := rfl
@[simp] theorem State.setQueue_quads (s : State) (q : Queue) : (s.setQueue q).quads = s.quads := rfl
@[simp] theorem State.setQueue_pkg (s : State) (q : Queue) : (s.setQueue q).pkg = s.pkg := rfl
@[simp] theorem State.setQueue_plat (s : State) (q : Queue) : (s.setQueue q).plat = s.plat := rfl
@[simp] theorem State.setQueue_trav (s : State) (q : Queue) : (s.setQueue q).trav = s.trav := rfl
@[simp] theorem State.setQueue_rows (s : State) (q : Queue) : (s.setQueue q).rows = s.rows := rfl
@[simp] theorem State.setQueue_podCmds (s : State) (q : Queue) : (s.setQueue q).podCmds = s.podCmds := rfl
@[simp] theorem State.setQueue_psubs (s : State) (q : Queue) : (s.setQueue q).psubs = s.psubs := rfl
@[simp] theorem State.setQueue_launches (s : State) (q : Queue) : (s.setQueue q).launches = s.launches := rfl
@[simp] theorem State.setQueue_parked (s : State) (q : Queue) : (s.setQueue q).parked = s.parked := rfl
@[simp] theorem State.setQueue_acache (s : State) (q : Queue) : (s.setQueue q).acache = s.acache := rfl
@[simp] theorem State.setQueue_shoots (s : State) (q : Queue) : (s.setQueue q).shoots = s.shoots := rfl
@[simp] theorem State.setQueue_ats (s : State) (q : Queue) : (s.setQueue q).ats = s.ats := rfl
@[simp] theorem State.setQueue_priReqs (s : State) (q : Queue) : (s.setQueue q).priReqs = s.priReqs := rfl
@[simp] theorem State.setQueue_priFailed (s : State) (q : Queue) : (s.setQueue q).priFailed = s.priFailed := rfl
@[simp] theorem State.setQueue_outbox (s : State) (q : Queue) : (s.setQueue q).outbox = s.outbox := rfl
@[simp] theorem State.setQueue_fabricOut (s : State) (q : Queue) : (s.setQueue q).fabricOut = s.fabricOut := rfl
@[simp] theorem State.setQueue_heldRemote (s : State) (q : Queue) : (s.setQueue q).heldRemote = s.heldRemote := rfl
@[simp] theorem State.setQueue_msix (s : State) (q : Queue) : (s.setQueue q).msix = s.msix := rfl
@[simp] theorem State.setQueue_plog (s : State) (q : Queue) : (s.setQueue q).plog = s.plog := rfl
@[simp] theorem State.setQueue_fw (s : State) (q : Queue) : (s.setQueue q).fw = s.fw := rfl
@[simp] theorem State.setQueue_mr (s : State) (q : Queue) : (s.setQueue q).mr = s.mr := rfl
@[simp] theorem State.setQueue_spdm (s : State) (q : Queue) : (s.setQueue q).spdm = s.spdm := rfl
@[simp] theorem State.setQueue_mons (s : State) (q : Queue) : (s.setQueue q).mons = s.mons := rfl
@[simp] theorem State.setQueue_links (s : State) (q : Queue) : (s.setQueue q).links = s.links := rfl
@[simp] theorem State.setQueue_off (s : State) (q : Queue) : (s.setQueue q).off = s.off := rfl
@[simp] theorem State.setQueue_svec (s : State) (q : Queue) : (s.setQueue q).svec = s.svec := rfl
@[simp] theorem State.setQueue_agenda (s : State) (q : Queue) : (s.setQueue q).agenda = s.agenda := rfl
@[simp] theorem State.setQueue_cur (s : State) (q : Queue) : (s.setQueue q).cur = s.cur := rfl
@[simp] theorem State.setQueue_turns (s : State) (q : Queue) : (s.setQueue q).turns = s.turns := rfl
@[simp] theorem State.setQueue_part (s : State) (q : Queue) : (s.setQueue q).part = s.part := rfl
@[simp] theorem State.setQueue_engineTurn (s : State) (q : Queue) : (s.setQueue q).engineTurn = s.engineTurn := rfl
@[simp] theorem State.setQueue_rotor (s : State) (q : Queue) : (s.setQueue q).rotor = s.rotor := rfl
@[simp] theorem State.setQueue_free (s : State) (q : Queue) : (s.setQueue q).free = s.free := rfl
@[simp] theorem State.setQueue_fresh (s : State) (q : Queue) : (s.setQueue q).fresh = s.fresh := rfl
@[simp] theorem State.setQueue_slowLoads (s : State) (q : Queue) : (s.setQueue q).slowLoads = s.slowLoads := rfl

/- What `State.setFunc` leaves alone. -/

@[simp] theorem State.setFunc_dram (s : State) (f : Func) : (s.setFunc f).dram = s.dram := rfl
@[simp] theorem State.setFunc_lpddr (s : State) (f : Func) : (s.setFunc f).lpddr = s.lpddr := rfl
@[simp] theorem State.setFunc_hostMem (s : State) (f : Func) : (s.setFunc f).hostMem = s.hostMem := rfl
@[simp] theorem State.setFunc_poison (s : State) (f : Func) : (s.setFunc f).poison = s.poison := rfl
@[simp] theorem State.setFunc_ctxs (s : State) (f : Func) : (s.setFunc f).ctxs = s.ctxs := rfl
@[simp] theorem State.setFunc_queues (s : State) (f : Func) : (s.setFunc f).queues = s.queues := rfl
@[simp] theorem State.setFunc_grids (s : State) (f : Func) : (s.setFunc f).grids = s.grids := rfl
@[simp] theorem State.setFunc_blocks (s : State) (f : Func) : (s.setFunc f).blocks = s.blocks := rfl
@[simp] theorem State.setFunc_cores (s : State) (f : Func) : (s.setFunc f).cores = s.cores := rfl
@[simp] theorem State.setFunc_dies (s : State) (f : Func) : (s.setFunc f).dies = s.dies := rfl
@[simp] theorem State.setFunc_quads (s : State) (f : Func) : (s.setFunc f).quads = s.quads := rfl
@[simp] theorem State.setFunc_pkg (s : State) (f : Func) : (s.setFunc f).pkg = s.pkg := rfl
@[simp] theorem State.setFunc_plat (s : State) (f : Func) : (s.setFunc f).plat = s.plat := rfl
@[simp] theorem State.setFunc_trav (s : State) (f : Func) : (s.setFunc f).trav = s.trav := rfl
@[simp] theorem State.setFunc_rows (s : State) (f : Func) : (s.setFunc f).rows = s.rows := rfl
@[simp] theorem State.setFunc_podCmds (s : State) (f : Func) : (s.setFunc f).podCmds = s.podCmds := rfl
@[simp] theorem State.setFunc_psubs (s : State) (f : Func) : (s.setFunc f).psubs = s.psubs := rfl
@[simp] theorem State.setFunc_launches (s : State) (f : Func) : (s.setFunc f).launches = s.launches := rfl
@[simp] theorem State.setFunc_parked (s : State) (f : Func) : (s.setFunc f).parked = s.parked := rfl
@[simp] theorem State.setFunc_acache (s : State) (f : Func) : (s.setFunc f).acache = s.acache := rfl
@[simp] theorem State.setFunc_shoots (s : State) (f : Func) : (s.setFunc f).shoots = s.shoots := rfl
@[simp] theorem State.setFunc_ats (s : State) (f : Func) : (s.setFunc f).ats = s.ats := rfl
@[simp] theorem State.setFunc_priReqs (s : State) (f : Func) : (s.setFunc f).priReqs = s.priReqs := rfl
@[simp] theorem State.setFunc_priFailed (s : State) (f : Func) : (s.setFunc f).priFailed = s.priFailed := rfl
@[simp] theorem State.setFunc_outbox (s : State) (f : Func) : (s.setFunc f).outbox = s.outbox := rfl
@[simp] theorem State.setFunc_fabricOut (s : State) (f : Func) : (s.setFunc f).fabricOut = s.fabricOut := rfl
@[simp] theorem State.setFunc_heldRemote (s : State) (f : Func) : (s.setFunc f).heldRemote = s.heldRemote := rfl
@[simp] theorem State.setFunc_msix (s : State) (f : Func) : (s.setFunc f).msix = s.msix := rfl
@[simp] theorem State.setFunc_plog (s : State) (f : Func) : (s.setFunc f).plog = s.plog := rfl
@[simp] theorem State.setFunc_fw (s : State) (f : Func) : (s.setFunc f).fw = s.fw := rfl
@[simp] theorem State.setFunc_mr (s : State) (f : Func) : (s.setFunc f).mr = s.mr := rfl
@[simp] theorem State.setFunc_spdm (s : State) (f : Func) : (s.setFunc f).spdm = s.spdm := rfl
@[simp] theorem State.setFunc_mons (s : State) (f : Func) : (s.setFunc f).mons = s.mons := rfl
@[simp] theorem State.setFunc_links (s : State) (f : Func) : (s.setFunc f).links = s.links := rfl
@[simp] theorem State.setFunc_off (s : State) (f : Func) : (s.setFunc f).off = s.off := rfl
@[simp] theorem State.setFunc_svec (s : State) (f : Func) : (s.setFunc f).svec = s.svec := rfl
@[simp] theorem State.setFunc_agenda (s : State) (f : Func) : (s.setFunc f).agenda = s.agenda := rfl
@[simp] theorem State.setFunc_cur (s : State) (f : Func) : (s.setFunc f).cur = s.cur := rfl
@[simp] theorem State.setFunc_turns (s : State) (f : Func) : (s.setFunc f).turns = s.turns := rfl
@[simp] theorem State.setFunc_part (s : State) (f : Func) : (s.setFunc f).part = s.part := rfl
@[simp] theorem State.setFunc_engineTurn (s : State) (f : Func) : (s.setFunc f).engineTurn = s.engineTurn := rfl
@[simp] theorem State.setFunc_rotor (s : State) (f : Func) : (s.setFunc f).rotor = s.rotor := rfl
@[simp] theorem State.setFunc_free (s : State) (f : Func) : (s.setFunc f).free = s.free := rfl
@[simp] theorem State.setFunc_fresh (s : State) (f : Func) : (s.setFunc f).fresh = s.fresh := rfl
@[simp] theorem State.setFunc_slowLoads (s : State) (f : Func) : (s.setFunc f).slowLoads = s.slowLoads := rfl

/- What `State.setCore` leaves alone. -/

@[simp] theorem State.setCore_dram (s : State) (n : Nat) (c : Core) : (s.setCore n c).dram = s.dram := rfl
@[simp] theorem State.setCore_lpddr (s : State) (n : Nat) (c : Core) : (s.setCore n c).lpddr = s.lpddr := rfl
@[simp] theorem State.setCore_hostMem (s : State) (n : Nat) (c : Core) : (s.setCore n c).hostMem = s.hostMem := rfl
@[simp] theorem State.setCore_poison (s : State) (n : Nat) (c : Core) : (s.setCore n c).poison = s.poison := rfl
@[simp] theorem State.setCore_ctxs (s : State) (n : Nat) (c : Core) : (s.setCore n c).ctxs = s.ctxs := rfl
@[simp] theorem State.setCore_funcs (s : State) (n : Nat) (c : Core) : (s.setCore n c).funcs = s.funcs := rfl
@[simp] theorem State.setCore_queues (s : State) (n : Nat) (c : Core) : (s.setCore n c).queues = s.queues := rfl
@[simp] theorem State.setCore_grids (s : State) (n : Nat) (c : Core) : (s.setCore n c).grids = s.grids := rfl
@[simp] theorem State.setCore_blocks (s : State) (n : Nat) (c : Core) : (s.setCore n c).blocks = s.blocks := rfl
@[simp] theorem State.setCore_dies (s : State) (n : Nat) (c : Core) : (s.setCore n c).dies = s.dies := rfl
@[simp] theorem State.setCore_quads (s : State) (n : Nat) (c : Core) : (s.setCore n c).quads = s.quads := rfl
@[simp] theorem State.setCore_pkg (s : State) (n : Nat) (c : Core) : (s.setCore n c).pkg = s.pkg := rfl
@[simp] theorem State.setCore_plat (s : State) (n : Nat) (c : Core) : (s.setCore n c).plat = s.plat := rfl
@[simp] theorem State.setCore_trav (s : State) (n : Nat) (c : Core) : (s.setCore n c).trav = s.trav := rfl
@[simp] theorem State.setCore_rows (s : State) (n : Nat) (c : Core) : (s.setCore n c).rows = s.rows := rfl
@[simp] theorem State.setCore_podCmds (s : State) (n : Nat) (c : Core) : (s.setCore n c).podCmds = s.podCmds := rfl
@[simp] theorem State.setCore_psubs (s : State) (n : Nat) (c : Core) : (s.setCore n c).psubs = s.psubs := rfl
@[simp] theorem State.setCore_launches (s : State) (n : Nat) (c : Core) : (s.setCore n c).launches = s.launches := rfl
@[simp] theorem State.setCore_parked (s : State) (n : Nat) (c : Core) : (s.setCore n c).parked = s.parked := rfl
@[simp] theorem State.setCore_acache (s : State) (n : Nat) (c : Core) : (s.setCore n c).acache = s.acache := rfl
@[simp] theorem State.setCore_shoots (s : State) (n : Nat) (c : Core) : (s.setCore n c).shoots = s.shoots := rfl
@[simp] theorem State.setCore_ats (s : State) (n : Nat) (c : Core) : (s.setCore n c).ats = s.ats := rfl
@[simp] theorem State.setCore_priReqs (s : State) (n : Nat) (c : Core) : (s.setCore n c).priReqs = s.priReqs := rfl
@[simp] theorem State.setCore_priFailed (s : State) (n : Nat) (c : Core) : (s.setCore n c).priFailed = s.priFailed := rfl
@[simp] theorem State.setCore_outbox (s : State) (n : Nat) (c : Core) : (s.setCore n c).outbox = s.outbox := rfl
@[simp] theorem State.setCore_fabricOut (s : State) (n : Nat) (c : Core) : (s.setCore n c).fabricOut = s.fabricOut := rfl
@[simp] theorem State.setCore_heldRemote (s : State) (n : Nat) (c : Core) : (s.setCore n c).heldRemote = s.heldRemote := rfl
@[simp] theorem State.setCore_msix (s : State) (n : Nat) (c : Core) : (s.setCore n c).msix = s.msix := rfl
@[simp] theorem State.setCore_plog (s : State) (n : Nat) (c : Core) : (s.setCore n c).plog = s.plog := rfl
@[simp] theorem State.setCore_fw (s : State) (n : Nat) (c : Core) : (s.setCore n c).fw = s.fw := rfl
@[simp] theorem State.setCore_mr (s : State) (n : Nat) (c : Core) : (s.setCore n c).mr = s.mr := rfl
@[simp] theorem State.setCore_spdm (s : State) (n : Nat) (c : Core) : (s.setCore n c).spdm = s.spdm := rfl
@[simp] theorem State.setCore_mons (s : State) (n : Nat) (c : Core) : (s.setCore n c).mons = s.mons := rfl
@[simp] theorem State.setCore_links (s : State) (n : Nat) (c : Core) : (s.setCore n c).links = s.links := rfl
@[simp] theorem State.setCore_off (s : State) (n : Nat) (c : Core) : (s.setCore n c).off = s.off := rfl
@[simp] theorem State.setCore_svec (s : State) (n : Nat) (c : Core) : (s.setCore n c).svec = s.svec := rfl
@[simp] theorem State.setCore_agenda (s : State) (n : Nat) (c : Core) : (s.setCore n c).agenda = s.agenda := rfl
@[simp] theorem State.setCore_cur (s : State) (n : Nat) (c : Core) : (s.setCore n c).cur = s.cur := rfl
@[simp] theorem State.setCore_turns (s : State) (n : Nat) (c : Core) : (s.setCore n c).turns = s.turns := rfl
@[simp] theorem State.setCore_part (s : State) (n : Nat) (c : Core) : (s.setCore n c).part = s.part := rfl
@[simp] theorem State.setCore_engineTurn (s : State) (n : Nat) (c : Core) : (s.setCore n c).engineTurn = s.engineTurn := rfl
@[simp] theorem State.setCore_rotor (s : State) (n : Nat) (c : Core) : (s.setCore n c).rotor = s.rotor := rfl
@[simp] theorem State.setCore_free (s : State) (n : Nat) (c : Core) : (s.setCore n c).free = s.free := rfl
@[simp] theorem State.setCore_fresh (s : State) (n : Nat) (c : Core) : (s.setCore n c).fresh = s.fresh := rfl
@[simp] theorem State.setCore_slowLoads (s : State) (n : Nat) (c : Core) : (s.setCore n c).slowLoads = s.slowLoads := rfl

/- What `State.setDie` leaves alone. -/

@[simp] theorem State.setDie_dram (s : State) (n : Nat) (d : Die) : (s.setDie n d).dram = s.dram := rfl
@[simp] theorem State.setDie_lpddr (s : State) (n : Nat) (d : Die) : (s.setDie n d).lpddr = s.lpddr := rfl
@[simp] theorem State.setDie_hostMem (s : State) (n : Nat) (d : Die) : (s.setDie n d).hostMem = s.hostMem := rfl
@[simp] theorem State.setDie_poison (s : State) (n : Nat) (d : Die) : (s.setDie n d).poison = s.poison := rfl
@[simp] theorem State.setDie_ctxs (s : State) (n : Nat) (d : Die) : (s.setDie n d).ctxs = s.ctxs := rfl
@[simp] theorem State.setDie_funcs (s : State) (n : Nat) (d : Die) : (s.setDie n d).funcs = s.funcs := rfl
@[simp] theorem State.setDie_queues (s : State) (n : Nat) (d : Die) : (s.setDie n d).queues = s.queues := rfl
@[simp] theorem State.setDie_grids (s : State) (n : Nat) (d : Die) : (s.setDie n d).grids = s.grids := rfl
@[simp] theorem State.setDie_blocks (s : State) (n : Nat) (d : Die) : (s.setDie n d).blocks = s.blocks := rfl
@[simp] theorem State.setDie_cores (s : State) (n : Nat) (d : Die) : (s.setDie n d).cores = s.cores := rfl
@[simp] theorem State.setDie_quads (s : State) (n : Nat) (d : Die) : (s.setDie n d).quads = s.quads := rfl
@[simp] theorem State.setDie_pkg (s : State) (n : Nat) (d : Die) : (s.setDie n d).pkg = s.pkg := rfl
@[simp] theorem State.setDie_plat (s : State) (n : Nat) (d : Die) : (s.setDie n d).plat = s.plat := rfl
@[simp] theorem State.setDie_trav (s : State) (n : Nat) (d : Die) : (s.setDie n d).trav = s.trav := rfl
@[simp] theorem State.setDie_rows (s : State) (n : Nat) (d : Die) : (s.setDie n d).rows = s.rows := rfl
@[simp] theorem State.setDie_podCmds (s : State) (n : Nat) (d : Die) : (s.setDie n d).podCmds = s.podCmds := rfl
@[simp] theorem State.setDie_psubs (s : State) (n : Nat) (d : Die) : (s.setDie n d).psubs = s.psubs := rfl
@[simp] theorem State.setDie_launches (s : State) (n : Nat) (d : Die) : (s.setDie n d).launches = s.launches := rfl
@[simp] theorem State.setDie_parked (s : State) (n : Nat) (d : Die) : (s.setDie n d).parked = s.parked := rfl
@[simp] theorem State.setDie_acache (s : State) (n : Nat) (d : Die) : (s.setDie n d).acache = s.acache := rfl
@[simp] theorem State.setDie_shoots (s : State) (n : Nat) (d : Die) : (s.setDie n d).shoots = s.shoots := rfl
@[simp] theorem State.setDie_ats (s : State) (n : Nat) (d : Die) : (s.setDie n d).ats = s.ats := rfl
@[simp] theorem State.setDie_priReqs (s : State) (n : Nat) (d : Die) : (s.setDie n d).priReqs = s.priReqs := rfl
@[simp] theorem State.setDie_priFailed (s : State) (n : Nat) (d : Die) : (s.setDie n d).priFailed = s.priFailed := rfl
@[simp] theorem State.setDie_outbox (s : State) (n : Nat) (d : Die) : (s.setDie n d).outbox = s.outbox := rfl
@[simp] theorem State.setDie_fabricOut (s : State) (n : Nat) (d : Die) : (s.setDie n d).fabricOut = s.fabricOut := rfl
@[simp] theorem State.setDie_heldRemote (s : State) (n : Nat) (d : Die) : (s.setDie n d).heldRemote = s.heldRemote := rfl
@[simp] theorem State.setDie_msix (s : State) (n : Nat) (d : Die) : (s.setDie n d).msix = s.msix := rfl
@[simp] theorem State.setDie_plog (s : State) (n : Nat) (d : Die) : (s.setDie n d).plog = s.plog := rfl
@[simp] theorem State.setDie_fw (s : State) (n : Nat) (d : Die) : (s.setDie n d).fw = s.fw := rfl
@[simp] theorem State.setDie_mr (s : State) (n : Nat) (d : Die) : (s.setDie n d).mr = s.mr := rfl
@[simp] theorem State.setDie_spdm (s : State) (n : Nat) (d : Die) : (s.setDie n d).spdm = s.spdm := rfl
@[simp] theorem State.setDie_mons (s : State) (n : Nat) (d : Die) : (s.setDie n d).mons = s.mons := rfl
@[simp] theorem State.setDie_links (s : State) (n : Nat) (d : Die) : (s.setDie n d).links = s.links := rfl
@[simp] theorem State.setDie_off (s : State) (n : Nat) (d : Die) : (s.setDie n d).off = s.off := rfl
@[simp] theorem State.setDie_svec (s : State) (n : Nat) (d : Die) : (s.setDie n d).svec = s.svec := rfl
@[simp] theorem State.setDie_agenda (s : State) (n : Nat) (d : Die) : (s.setDie n d).agenda = s.agenda := rfl
@[simp] theorem State.setDie_cur (s : State) (n : Nat) (d : Die) : (s.setDie n d).cur = s.cur := rfl
@[simp] theorem State.setDie_turns (s : State) (n : Nat) (d : Die) : (s.setDie n d).turns = s.turns := rfl
@[simp] theorem State.setDie_part (s : State) (n : Nat) (d : Die) : (s.setDie n d).part = s.part := rfl
@[simp] theorem State.setDie_engineTurn (s : State) (n : Nat) (d : Die) : (s.setDie n d).engineTurn = s.engineTurn := rfl
@[simp] theorem State.setDie_rotor (s : State) (n : Nat) (d : Die) : (s.setDie n d).rotor = s.rotor := rfl
@[simp] theorem State.setDie_free (s : State) (n : Nat) (d : Die) : (s.setDie n d).free = s.free := rfl
@[simp] theorem State.setDie_fresh (s : State) (n : Nat) (d : Die) : (s.setDie n d).fresh = s.fresh := rfl
@[simp] theorem State.setDie_slowLoads (s : State) (n : Nat) (d : Die) : (s.setDie n d).slowLoads = s.slowLoads := rfl

/- What `State.setQuad` leaves alone. -/

@[simp] theorem State.setQuad_dram (s : State) (n p : Nat) (q : Quad) : (s.setQuad n p q).dram = s.dram := rfl
@[simp] theorem State.setQuad_lpddr (s : State) (n p : Nat) (q : Quad) : (s.setQuad n p q).lpddr = s.lpddr := rfl
@[simp] theorem State.setQuad_hostMem (s : State) (n p : Nat) (q : Quad) : (s.setQuad n p q).hostMem = s.hostMem := rfl
@[simp] theorem State.setQuad_poison (s : State) (n p : Nat) (q : Quad) : (s.setQuad n p q).poison = s.poison := rfl
@[simp] theorem State.setQuad_ctxs (s : State) (n p : Nat) (q : Quad) : (s.setQuad n p q).ctxs = s.ctxs := rfl
@[simp] theorem State.setQuad_funcs (s : State) (n p : Nat) (q : Quad) : (s.setQuad n p q).funcs = s.funcs := rfl
@[simp] theorem State.setQuad_queues (s : State) (n p : Nat) (q : Quad) : (s.setQuad n p q).queues = s.queues := rfl
@[simp] theorem State.setQuad_grids (s : State) (n p : Nat) (q : Quad) : (s.setQuad n p q).grids = s.grids := rfl
@[simp] theorem State.setQuad_blocks (s : State) (n p : Nat) (q : Quad) : (s.setQuad n p q).blocks = s.blocks := rfl
@[simp] theorem State.setQuad_cores (s : State) (n p : Nat) (q : Quad) : (s.setQuad n p q).cores = s.cores := rfl
@[simp] theorem State.setQuad_dies (s : State) (n p : Nat) (q : Quad) : (s.setQuad n p q).dies = s.dies := rfl
@[simp] theorem State.setQuad_pkg (s : State) (n p : Nat) (q : Quad) : (s.setQuad n p q).pkg = s.pkg := rfl
@[simp] theorem State.setQuad_plat (s : State) (n p : Nat) (q : Quad) : (s.setQuad n p q).plat = s.plat := rfl
@[simp] theorem State.setQuad_trav (s : State) (n p : Nat) (q : Quad) : (s.setQuad n p q).trav = s.trav := rfl
@[simp] theorem State.setQuad_rows (s : State) (n p : Nat) (q : Quad) : (s.setQuad n p q).rows = s.rows := rfl
@[simp] theorem State.setQuad_podCmds (s : State) (n p : Nat) (q : Quad) : (s.setQuad n p q).podCmds = s.podCmds := rfl
@[simp] theorem State.setQuad_psubs (s : State) (n p : Nat) (q : Quad) : (s.setQuad n p q).psubs = s.psubs := rfl
@[simp] theorem State.setQuad_launches (s : State) (n p : Nat) (q : Quad) : (s.setQuad n p q).launches = s.launches := rfl
@[simp] theorem State.setQuad_parked (s : State) (n p : Nat) (q : Quad) : (s.setQuad n p q).parked = s.parked := rfl
@[simp] theorem State.setQuad_acache (s : State) (n p : Nat) (q : Quad) : (s.setQuad n p q).acache = s.acache := rfl
@[simp] theorem State.setQuad_shoots (s : State) (n p : Nat) (q : Quad) : (s.setQuad n p q).shoots = s.shoots := rfl
@[simp] theorem State.setQuad_ats (s : State) (n p : Nat) (q : Quad) : (s.setQuad n p q).ats = s.ats := rfl
@[simp] theorem State.setQuad_priReqs (s : State) (n p : Nat) (q : Quad) : (s.setQuad n p q).priReqs = s.priReqs := rfl
@[simp] theorem State.setQuad_priFailed (s : State) (n p : Nat) (q : Quad) : (s.setQuad n p q).priFailed = s.priFailed := rfl
@[simp] theorem State.setQuad_outbox (s : State) (n p : Nat) (q : Quad) : (s.setQuad n p q).outbox = s.outbox := rfl
@[simp] theorem State.setQuad_fabricOut (s : State) (n p : Nat) (q : Quad) : (s.setQuad n p q).fabricOut = s.fabricOut := rfl
@[simp] theorem State.setQuad_heldRemote (s : State) (n p : Nat) (q : Quad) : (s.setQuad n p q).heldRemote = s.heldRemote := rfl
@[simp] theorem State.setQuad_msix (s : State) (n p : Nat) (q : Quad) : (s.setQuad n p q).msix = s.msix := rfl
@[simp] theorem State.setQuad_plog (s : State) (n p : Nat) (q : Quad) : (s.setQuad n p q).plog = s.plog := rfl
@[simp] theorem State.setQuad_fw (s : State) (n p : Nat) (q : Quad) : (s.setQuad n p q).fw = s.fw := rfl
@[simp] theorem State.setQuad_mr (s : State) (n p : Nat) (q : Quad) : (s.setQuad n p q).mr = s.mr := rfl
@[simp] theorem State.setQuad_spdm (s : State) (n p : Nat) (q : Quad) : (s.setQuad n p q).spdm = s.spdm := rfl
@[simp] theorem State.setQuad_mons (s : State) (n p : Nat) (q : Quad) : (s.setQuad n p q).mons = s.mons := rfl
@[simp] theorem State.setQuad_links (s : State) (n p : Nat) (q : Quad) : (s.setQuad n p q).links = s.links := rfl
@[simp] theorem State.setQuad_off (s : State) (n p : Nat) (q : Quad) : (s.setQuad n p q).off = s.off := rfl
@[simp] theorem State.setQuad_svec (s : State) (n p : Nat) (q : Quad) : (s.setQuad n p q).svec = s.svec := rfl
@[simp] theorem State.setQuad_agenda (s : State) (n p : Nat) (q : Quad) : (s.setQuad n p q).agenda = s.agenda := rfl
@[simp] theorem State.setQuad_cur (s : State) (n p : Nat) (q : Quad) : (s.setQuad n p q).cur = s.cur := rfl
@[simp] theorem State.setQuad_turns (s : State) (n p : Nat) (q : Quad) : (s.setQuad n p q).turns = s.turns := rfl
@[simp] theorem State.setQuad_part (s : State) (n p : Nat) (q : Quad) : (s.setQuad n p q).part = s.part := rfl
@[simp] theorem State.setQuad_engineTurn (s : State) (n p : Nat) (q : Quad) : (s.setQuad n p q).engineTurn = s.engineTurn := rfl
@[simp] theorem State.setQuad_rotor (s : State) (n p : Nat) (q : Quad) : (s.setQuad n p q).rotor = s.rotor := rfl
@[simp] theorem State.setQuad_free (s : State) (n p : Nat) (q : Quad) : (s.setQuad n p q).free = s.free := rfl
@[simp] theorem State.setQuad_fresh (s : State) (n p : Nat) (q : Quad) : (s.setQuad n p q).fresh = s.fresh := rfl
@[simp] theorem State.setQuad_slowLoads (s : State) (n p : Nat) (q : Quad) : (s.setQuad n p q).slowLoads = s.slowLoads := rfl

/- What `State.setMonitor` leaves alone. -/

@[simp] theorem State.setMonitor_dram (s : State) (n : Nat) (m : Monitor) : (s.setMonitor n m).dram = s.dram := rfl
@[simp] theorem State.setMonitor_lpddr (s : State) (n : Nat) (m : Monitor) : (s.setMonitor n m).lpddr = s.lpddr := rfl
@[simp] theorem State.setMonitor_hostMem (s : State) (n : Nat) (m : Monitor) : (s.setMonitor n m).hostMem = s.hostMem := rfl
@[simp] theorem State.setMonitor_poison (s : State) (n : Nat) (m : Monitor) : (s.setMonitor n m).poison = s.poison := rfl
@[simp] theorem State.setMonitor_ctxs (s : State) (n : Nat) (m : Monitor) : (s.setMonitor n m).ctxs = s.ctxs := rfl
@[simp] theorem State.setMonitor_funcs (s : State) (n : Nat) (m : Monitor) : (s.setMonitor n m).funcs = s.funcs := rfl
@[simp] theorem State.setMonitor_queues (s : State) (n : Nat) (m : Monitor) : (s.setMonitor n m).queues = s.queues := rfl
@[simp] theorem State.setMonitor_grids (s : State) (n : Nat) (m : Monitor) : (s.setMonitor n m).grids = s.grids := rfl
@[simp] theorem State.setMonitor_blocks (s : State) (n : Nat) (m : Monitor) : (s.setMonitor n m).blocks = s.blocks := rfl
@[simp] theorem State.setMonitor_cores (s : State) (n : Nat) (m : Monitor) : (s.setMonitor n m).cores = s.cores := rfl
@[simp] theorem State.setMonitor_dies (s : State) (n : Nat) (m : Monitor) : (s.setMonitor n m).dies = s.dies := rfl
@[simp] theorem State.setMonitor_quads (s : State) (n : Nat) (m : Monitor) : (s.setMonitor n m).quads = s.quads := rfl
@[simp] theorem State.setMonitor_pkg (s : State) (n : Nat) (m : Monitor) : (s.setMonitor n m).pkg = s.pkg := rfl
@[simp] theorem State.setMonitor_plat (s : State) (n : Nat) (m : Monitor) : (s.setMonitor n m).plat = s.plat := rfl
@[simp] theorem State.setMonitor_trav (s : State) (n : Nat) (m : Monitor) : (s.setMonitor n m).trav = s.trav := rfl
@[simp] theorem State.setMonitor_rows (s : State) (n : Nat) (m : Monitor) : (s.setMonitor n m).rows = s.rows := rfl
@[simp] theorem State.setMonitor_podCmds (s : State) (n : Nat) (m : Monitor) : (s.setMonitor n m).podCmds = s.podCmds := rfl
@[simp] theorem State.setMonitor_psubs (s : State) (n : Nat) (m : Monitor) : (s.setMonitor n m).psubs = s.psubs := rfl
@[simp] theorem State.setMonitor_launches (s : State) (n : Nat) (m : Monitor) : (s.setMonitor n m).launches = s.launches := rfl
@[simp] theorem State.setMonitor_parked (s : State) (n : Nat) (m : Monitor) : (s.setMonitor n m).parked = s.parked := rfl
@[simp] theorem State.setMonitor_acache (s : State) (n : Nat) (m : Monitor) : (s.setMonitor n m).acache = s.acache := rfl
@[simp] theorem State.setMonitor_shoots (s : State) (n : Nat) (m : Monitor) : (s.setMonitor n m).shoots = s.shoots := rfl
@[simp] theorem State.setMonitor_ats (s : State) (n : Nat) (m : Monitor) : (s.setMonitor n m).ats = s.ats := rfl
@[simp] theorem State.setMonitor_priReqs (s : State) (n : Nat) (m : Monitor) : (s.setMonitor n m).priReqs = s.priReqs := rfl
@[simp] theorem State.setMonitor_priFailed (s : State) (n : Nat) (m : Monitor) : (s.setMonitor n m).priFailed = s.priFailed := rfl
@[simp] theorem State.setMonitor_outbox (s : State) (n : Nat) (m : Monitor) : (s.setMonitor n m).outbox = s.outbox := rfl
@[simp] theorem State.setMonitor_fabricOut (s : State) (n : Nat) (m : Monitor) : (s.setMonitor n m).fabricOut = s.fabricOut := rfl
@[simp] theorem State.setMonitor_heldRemote (s : State) (n : Nat) (m : Monitor) : (s.setMonitor n m).heldRemote = s.heldRemote := rfl
@[simp] theorem State.setMonitor_msix (s : State) (n : Nat) (m : Monitor) : (s.setMonitor n m).msix = s.msix := rfl
@[simp] theorem State.setMonitor_plog (s : State) (n : Nat) (m : Monitor) : (s.setMonitor n m).plog = s.plog := rfl
@[simp] theorem State.setMonitor_fw (s : State) (n : Nat) (m : Monitor) : (s.setMonitor n m).fw = s.fw := rfl
@[simp] theorem State.setMonitor_mr (s : State) (n : Nat) (m : Monitor) : (s.setMonitor n m).mr = s.mr := rfl
@[simp] theorem State.setMonitor_spdm (s : State) (n : Nat) (m : Monitor) : (s.setMonitor n m).spdm = s.spdm := rfl
@[simp] theorem State.setMonitor_links (s : State) (n : Nat) (m : Monitor) : (s.setMonitor n m).links = s.links := rfl
@[simp] theorem State.setMonitor_off (s : State) (n : Nat) (m : Monitor) : (s.setMonitor n m).off = s.off := rfl
@[simp] theorem State.setMonitor_svec (s : State) (n : Nat) (m : Monitor) : (s.setMonitor n m).svec = s.svec := rfl
@[simp] theorem State.setMonitor_agenda (s : State) (n : Nat) (m : Monitor) : (s.setMonitor n m).agenda = s.agenda := rfl
@[simp] theorem State.setMonitor_cur (s : State) (n : Nat) (m : Monitor) : (s.setMonitor n m).cur = s.cur := rfl
@[simp] theorem State.setMonitor_turns (s : State) (n : Nat) (m : Monitor) : (s.setMonitor n m).turns = s.turns := rfl
@[simp] theorem State.setMonitor_part (s : State) (n : Nat) (m : Monitor) : (s.setMonitor n m).part = s.part := rfl
@[simp] theorem State.setMonitor_engineTurn (s : State) (n : Nat) (m : Monitor) : (s.setMonitor n m).engineTurn = s.engineTurn := rfl
@[simp] theorem State.setMonitor_rotor (s : State) (n : Nat) (m : Monitor) : (s.setMonitor n m).rotor = s.rotor := rfl
@[simp] theorem State.setMonitor_free (s : State) (n : Nat) (m : Monitor) : (s.setMonitor n m).free = s.free := rfl
@[simp] theorem State.setMonitor_fresh (s : State) (n : Nat) (m : Monitor) : (s.setMonitor n m).fresh = s.fresh := rfl
@[simp] theorem State.setMonitor_slowLoads (s : State) (n : Nat) (m : Monitor) : (s.setMonitor n m).slowLoads = s.slowLoads := rfl

/- What `State.setLink` leaves alone. -/

@[simp] theorem State.setLink_dram (s : State) (n : Nat) (l : Link) : (s.setLink n l).dram = s.dram := rfl
@[simp] theorem State.setLink_lpddr (s : State) (n : Nat) (l : Link) : (s.setLink n l).lpddr = s.lpddr := rfl
@[simp] theorem State.setLink_hostMem (s : State) (n : Nat) (l : Link) : (s.setLink n l).hostMem = s.hostMem := rfl
@[simp] theorem State.setLink_poison (s : State) (n : Nat) (l : Link) : (s.setLink n l).poison = s.poison := rfl
@[simp] theorem State.setLink_ctxs (s : State) (n : Nat) (l : Link) : (s.setLink n l).ctxs = s.ctxs := rfl
@[simp] theorem State.setLink_funcs (s : State) (n : Nat) (l : Link) : (s.setLink n l).funcs = s.funcs := rfl
@[simp] theorem State.setLink_queues (s : State) (n : Nat) (l : Link) : (s.setLink n l).queues = s.queues := rfl
@[simp] theorem State.setLink_grids (s : State) (n : Nat) (l : Link) : (s.setLink n l).grids = s.grids := rfl
@[simp] theorem State.setLink_blocks (s : State) (n : Nat) (l : Link) : (s.setLink n l).blocks = s.blocks := rfl
@[simp] theorem State.setLink_cores (s : State) (n : Nat) (l : Link) : (s.setLink n l).cores = s.cores := rfl
@[simp] theorem State.setLink_dies (s : State) (n : Nat) (l : Link) : (s.setLink n l).dies = s.dies := rfl
@[simp] theorem State.setLink_quads (s : State) (n : Nat) (l : Link) : (s.setLink n l).quads = s.quads := rfl
@[simp] theorem State.setLink_pkg (s : State) (n : Nat) (l : Link) : (s.setLink n l).pkg = s.pkg := rfl
@[simp] theorem State.setLink_plat (s : State) (n : Nat) (l : Link) : (s.setLink n l).plat = s.plat := rfl
@[simp] theorem State.setLink_trav (s : State) (n : Nat) (l : Link) : (s.setLink n l).trav = s.trav := rfl
@[simp] theorem State.setLink_rows (s : State) (n : Nat) (l : Link) : (s.setLink n l).rows = s.rows := rfl
@[simp] theorem State.setLink_podCmds (s : State) (n : Nat) (l : Link) : (s.setLink n l).podCmds = s.podCmds := rfl
@[simp] theorem State.setLink_psubs (s : State) (n : Nat) (l : Link) : (s.setLink n l).psubs = s.psubs := rfl
@[simp] theorem State.setLink_launches (s : State) (n : Nat) (l : Link) : (s.setLink n l).launches = s.launches := rfl
@[simp] theorem State.setLink_parked (s : State) (n : Nat) (l : Link) : (s.setLink n l).parked = s.parked := rfl
@[simp] theorem State.setLink_acache (s : State) (n : Nat) (l : Link) : (s.setLink n l).acache = s.acache := rfl
@[simp] theorem State.setLink_shoots (s : State) (n : Nat) (l : Link) : (s.setLink n l).shoots = s.shoots := rfl
@[simp] theorem State.setLink_ats (s : State) (n : Nat) (l : Link) : (s.setLink n l).ats = s.ats := rfl
@[simp] theorem State.setLink_priReqs (s : State) (n : Nat) (l : Link) : (s.setLink n l).priReqs = s.priReqs := rfl
@[simp] theorem State.setLink_priFailed (s : State) (n : Nat) (l : Link) : (s.setLink n l).priFailed = s.priFailed := rfl
@[simp] theorem State.setLink_outbox (s : State) (n : Nat) (l : Link) : (s.setLink n l).outbox = s.outbox := rfl
@[simp] theorem State.setLink_fabricOut (s : State) (n : Nat) (l : Link) : (s.setLink n l).fabricOut = s.fabricOut := rfl
@[simp] theorem State.setLink_heldRemote (s : State) (n : Nat) (l : Link) : (s.setLink n l).heldRemote = s.heldRemote := rfl
@[simp] theorem State.setLink_msix (s : State) (n : Nat) (l : Link) : (s.setLink n l).msix = s.msix := rfl
@[simp] theorem State.setLink_plog (s : State) (n : Nat) (l : Link) : (s.setLink n l).plog = s.plog := rfl
@[simp] theorem State.setLink_fw (s : State) (n : Nat) (l : Link) : (s.setLink n l).fw = s.fw := rfl
@[simp] theorem State.setLink_mr (s : State) (n : Nat) (l : Link) : (s.setLink n l).mr = s.mr := rfl
@[simp] theorem State.setLink_spdm (s : State) (n : Nat) (l : Link) : (s.setLink n l).spdm = s.spdm := rfl
@[simp] theorem State.setLink_mons (s : State) (n : Nat) (l : Link) : (s.setLink n l).mons = s.mons := rfl
@[simp] theorem State.setLink_off (s : State) (n : Nat) (l : Link) : (s.setLink n l).off = s.off := rfl
@[simp] theorem State.setLink_svec (s : State) (n : Nat) (l : Link) : (s.setLink n l).svec = s.svec := rfl
@[simp] theorem State.setLink_agenda (s : State) (n : Nat) (l : Link) : (s.setLink n l).agenda = s.agenda := rfl
@[simp] theorem State.setLink_cur (s : State) (n : Nat) (l : Link) : (s.setLink n l).cur = s.cur := rfl
@[simp] theorem State.setLink_turns (s : State) (n : Nat) (l : Link) : (s.setLink n l).turns = s.turns := rfl
@[simp] theorem State.setLink_part (s : State) (n : Nat) (l : Link) : (s.setLink n l).part = s.part := rfl
@[simp] theorem State.setLink_engineTurn (s : State) (n : Nat) (l : Link) : (s.setLink n l).engineTurn = s.engineTurn := rfl
@[simp] theorem State.setLink_rotor (s : State) (n : Nat) (l : Link) : (s.setLink n l).rotor = s.rotor := rfl
@[simp] theorem State.setLink_free (s : State) (n : Nat) (l : Link) : (s.setLink n l).free = s.free := rfl
@[simp] theorem State.setLink_fresh (s : State) (n : Nat) (l : Link) : (s.setLink n l).fresh = s.fresh := rfl
@[simp] theorem State.setLink_slowLoads (s : State) (n : Nat) (l : Link) : (s.setLink n l).slowLoads = s.slowLoads := rfl

/- What `State.setPw` leaves alone. -/

@[simp] theorem State.setPw_dram (s : State) (k : Nat) (v : DWord) : (s.setPw k v).dram = s.dram := rfl
@[simp] theorem State.setPw_lpddr (s : State) (k : Nat) (v : DWord) : (s.setPw k v).lpddr = s.lpddr := rfl
@[simp] theorem State.setPw_hostMem (s : State) (k : Nat) (v : DWord) : (s.setPw k v).hostMem = s.hostMem := rfl
@[simp] theorem State.setPw_poison (s : State) (k : Nat) (v : DWord) : (s.setPw k v).poison = s.poison := rfl
@[simp] theorem State.setPw_ctxs (s : State) (k : Nat) (v : DWord) : (s.setPw k v).ctxs = s.ctxs := rfl
@[simp] theorem State.setPw_funcs (s : State) (k : Nat) (v : DWord) : (s.setPw k v).funcs = s.funcs := rfl
@[simp] theorem State.setPw_queues (s : State) (k : Nat) (v : DWord) : (s.setPw k v).queues = s.queues := rfl
@[simp] theorem State.setPw_grids (s : State) (k : Nat) (v : DWord) : (s.setPw k v).grids = s.grids := rfl
@[simp] theorem State.setPw_blocks (s : State) (k : Nat) (v : DWord) : (s.setPw k v).blocks = s.blocks := rfl
@[simp] theorem State.setPw_cores (s : State) (k : Nat) (v : DWord) : (s.setPw k v).cores = s.cores := rfl
@[simp] theorem State.setPw_dies (s : State) (k : Nat) (v : DWord) : (s.setPw k v).dies = s.dies := rfl
@[simp] theorem State.setPw_quads (s : State) (k : Nat) (v : DWord) : (s.setPw k v).quads = s.quads := rfl
@[simp] theorem State.setPw_pkg (s : State) (k : Nat) (v : DWord) : (s.setPw k v).pkg = s.pkg := rfl
@[simp] theorem State.setPw_trav (s : State) (k : Nat) (v : DWord) : (s.setPw k v).trav = s.trav := rfl
@[simp] theorem State.setPw_rows (s : State) (k : Nat) (v : DWord) : (s.setPw k v).rows = s.rows := rfl
@[simp] theorem State.setPw_podCmds (s : State) (k : Nat) (v : DWord) : (s.setPw k v).podCmds = s.podCmds := rfl
@[simp] theorem State.setPw_psubs (s : State) (k : Nat) (v : DWord) : (s.setPw k v).psubs = s.psubs := rfl
@[simp] theorem State.setPw_launches (s : State) (k : Nat) (v : DWord) : (s.setPw k v).launches = s.launches := rfl
@[simp] theorem State.setPw_parked (s : State) (k : Nat) (v : DWord) : (s.setPw k v).parked = s.parked := rfl
@[simp] theorem State.setPw_acache (s : State) (k : Nat) (v : DWord) : (s.setPw k v).acache = s.acache := rfl
@[simp] theorem State.setPw_shoots (s : State) (k : Nat) (v : DWord) : (s.setPw k v).shoots = s.shoots := rfl
@[simp] theorem State.setPw_ats (s : State) (k : Nat) (v : DWord) : (s.setPw k v).ats = s.ats := rfl
@[simp] theorem State.setPw_priReqs (s : State) (k : Nat) (v : DWord) : (s.setPw k v).priReqs = s.priReqs := rfl
@[simp] theorem State.setPw_priFailed (s : State) (k : Nat) (v : DWord) : (s.setPw k v).priFailed = s.priFailed := rfl
@[simp] theorem State.setPw_outbox (s : State) (k : Nat) (v : DWord) : (s.setPw k v).outbox = s.outbox := rfl
@[simp] theorem State.setPw_fabricOut (s : State) (k : Nat) (v : DWord) : (s.setPw k v).fabricOut = s.fabricOut := rfl
@[simp] theorem State.setPw_heldRemote (s : State) (k : Nat) (v : DWord) : (s.setPw k v).heldRemote = s.heldRemote := rfl
@[simp] theorem State.setPw_msix (s : State) (k : Nat) (v : DWord) : (s.setPw k v).msix = s.msix := rfl
@[simp] theorem State.setPw_plog (s : State) (k : Nat) (v : DWord) : (s.setPw k v).plog = s.plog := rfl
@[simp] theorem State.setPw_fw (s : State) (k : Nat) (v : DWord) : (s.setPw k v).fw = s.fw := rfl
@[simp] theorem State.setPw_mr (s : State) (k : Nat) (v : DWord) : (s.setPw k v).mr = s.mr := rfl
@[simp] theorem State.setPw_spdm (s : State) (k : Nat) (v : DWord) : (s.setPw k v).spdm = s.spdm := rfl
@[simp] theorem State.setPw_mons (s : State) (k : Nat) (v : DWord) : (s.setPw k v).mons = s.mons := rfl
@[simp] theorem State.setPw_links (s : State) (k : Nat) (v : DWord) : (s.setPw k v).links = s.links := rfl
@[simp] theorem State.setPw_off (s : State) (k : Nat) (v : DWord) : (s.setPw k v).off = s.off := rfl
@[simp] theorem State.setPw_svec (s : State) (k : Nat) (v : DWord) : (s.setPw k v).svec = s.svec := rfl
@[simp] theorem State.setPw_agenda (s : State) (k : Nat) (v : DWord) : (s.setPw k v).agenda = s.agenda := rfl
@[simp] theorem State.setPw_cur (s : State) (k : Nat) (v : DWord) : (s.setPw k v).cur = s.cur := rfl
@[simp] theorem State.setPw_turns (s : State) (k : Nat) (v : DWord) : (s.setPw k v).turns = s.turns := rfl
@[simp] theorem State.setPw_part (s : State) (k : Nat) (v : DWord) : (s.setPw k v).part = s.part := rfl
@[simp] theorem State.setPw_engineTurn (s : State) (k : Nat) (v : DWord) : (s.setPw k v).engineTurn = s.engineTurn := rfl
@[simp] theorem State.setPw_rotor (s : State) (k : Nat) (v : DWord) : (s.setPw k v).rotor = s.rotor := rfl
@[simp] theorem State.setPw_free (s : State) (k : Nat) (v : DWord) : (s.setPw k v).free = s.free := rfl
@[simp] theorem State.setPw_fresh (s : State) (k : Nat) (v : DWord) : (s.setPw k v).fresh = s.fresh := rfl
@[simp] theorem State.setPw_slowLoads (s : State) (k : Nat) (v : DWord) : (s.setPw k v).slowLoads = s.slowLoads := rfl

/- What `Warp.vset` leaves alone. -/

@[simp] theorem Warp.vset_num (w : Warp) (n l : Nat) (x : Word) : (w.vset n l x).num = w.num := rfl
@[simp] theorem Warp.vset_slot (w : Warp) (n l : Nat) (x : Word) : (w.vset n l x).slot = w.slot := rfl
@[simp] theorem Warp.vset_frontier (w : Warp) (n l : Nat) (x : Word) : (w.vset n l x).frontier = w.frontier := rfl
@[simp] theorem Warp.vset_exited (w : Warp) (n l : Nat) (x : Word) : (w.vset n l x).exited = w.exited := rfl
@[simp] theorem Warp.vset_s (w : Warp) (n l : Nat) (x : Word) : (w.vset n l x).s = w.s := rfl
@[simp] theorem Warp.vset_p (w : Warp) (n l : Nat) (x : Word) : (w.vset n l x).p = w.p := rfl
@[simp] theorem Warp.vset_ck (w : Warp) (n l : Nat) (x : Word) : (w.vset n l x).ck = w.ck := rfl
@[simp] theorem Warp.vset_ckmode (w : Warp) (n l : Nat) (x : Word) : (w.vset n l x).ckmode = w.ckmode := rfl
@[simp] theorem Warp.vset_flags (w : Warp) (n l : Nat) (x : Word) : (w.vset n l x).flags = w.flags := rfl
@[simp] theorem Warp.vset_tokens (w : Warp) (n l : Nat) (x : Word) : (w.vset n l x).tokens = w.tokens := rfl
@[simp] theorem Warp.vset_cs (w : Warp) (n l : Nat) (x : Word) : (w.vset n l x).cs = w.cs := rfl
@[simp] theorem Warp.vset_csM (w : Warp) (n l : Nat) (x : Word) : (w.vset n l x).csM = w.csM := rfl
@[simp] theorem Warp.vset_rgn (w : Warp) (n l : Nat) (x : Word) : (w.vset n l x).rgn = w.rgn := rfl
@[simp] theorem Warp.vset_stores (w : Warp) (n l : Nat) (x : Word) : (w.vset n l x).stores = w.stores := rfl
@[simp] theorem Warp.vset_cmds (w : Warp) (n l : Nat) (x : Word) : (w.vset n l x).cmds = w.cmds := rfl
@[simp] theorem Warp.vset_st (w : Warp) (n l : Nat) (x : Word) : (w.vset n l x).st = w.st := rfl
@[simp] theorem Warp.vset_frame (w : Warp) (n l : Nat) (x : Word) : (w.vset n l x).frame = w.frame := rfl
@[simp] theorem Warp.vset_utraps (w : Warp) (n l : Nat) (x : Word) : (w.vset n l x).utraps = w.utraps := rfl
@[simp] theorem Warp.vset_straps (w : Warp) (n l : Nat) (x : Word) : (w.vset n l x).straps = w.straps := rfl
@[simp] theorem Warp.vset_waits (w : Warp) (n l : Nat) (x : Word) : (w.vset n l x).waits = w.waits := rfl
@[simp] theorem Warp.vset_loads (w : Warp) (n l : Nat) (x : Word) : (w.vset n l x).loads = w.loads := rfl
@[simp] theorem Warp.vset_consumed (w : Warp) (n l : Nat) (x : Word) : (w.vset n l x).consumed = w.consumed := rfl
@[simp] theorem Warp.vset_sPoison (w : Warp) (n l : Nat) (x : Word) : (w.vset n l x).sPoison = w.sPoison := rfl
@[simp] theorem Warp.vset_pPoison (w : Warp) (n l : Nat) (x : Word) : (w.vset n l x).pPoison = w.pPoison := rfl
@[simp] theorem Warp.vset_acks (w : Warp) (n l : Nat) (x : Word) : (w.vset n l x).acks = w.acks := rfl
@[simp] theorem Warp.vset_parkedAt (w : Warp) (n l : Nat) (x : Word) : (w.vset n l x).parkedAt = w.parkedAt := rfl
@[simp] theorem Warp.vset_hasEnded (w : Warp) (n l : Nat) (x : Word) : (w.vset n l x).hasEnded = w.hasEnded := rfl
@[simp] theorem Warp.vset_pendCommit (w : Warp) (n l : Nat) (x : Word) : (w.vset n l x).pendCommit = w.pendCommit := rfl

/- What `Warp.sset` leaves alone. -/

@[simp] theorem Warp.sset_num (w : Warp) (n : Nat) (x : DWord) : (w.sset n x).num = w.num := rfl
@[simp] theorem Warp.sset_slot (w : Warp) (n : Nat) (x : DWord) : (w.sset n x).slot = w.slot := rfl
@[simp] theorem Warp.sset_frontier (w : Warp) (n : Nat) (x : DWord) : (w.sset n x).frontier = w.frontier := rfl
@[simp] theorem Warp.sset_exited (w : Warp) (n : Nat) (x : DWord) : (w.sset n x).exited = w.exited := rfl
@[simp] theorem Warp.sset_v (w : Warp) (n : Nat) (x : DWord) : (w.sset n x).v = w.v := rfl
@[simp] theorem Warp.sset_p (w : Warp) (n : Nat) (x : DWord) : (w.sset n x).p = w.p := rfl
@[simp] theorem Warp.sset_ck (w : Warp) (n : Nat) (x : DWord) : (w.sset n x).ck = w.ck := rfl
@[simp] theorem Warp.sset_ckmode (w : Warp) (n : Nat) (x : DWord) : (w.sset n x).ckmode = w.ckmode := rfl
@[simp] theorem Warp.sset_flags (w : Warp) (n : Nat) (x : DWord) : (w.sset n x).flags = w.flags := rfl
@[simp] theorem Warp.sset_tokens (w : Warp) (n : Nat) (x : DWord) : (w.sset n x).tokens = w.tokens := rfl
@[simp] theorem Warp.sset_cs (w : Warp) (n : Nat) (x : DWord) : (w.sset n x).cs = w.cs := rfl
@[simp] theorem Warp.sset_csM (w : Warp) (n : Nat) (x : DWord) : (w.sset n x).csM = w.csM := rfl
@[simp] theorem Warp.sset_rgn (w : Warp) (n : Nat) (x : DWord) : (w.sset n x).rgn = w.rgn := rfl
@[simp] theorem Warp.sset_stores (w : Warp) (n : Nat) (x : DWord) : (w.sset n x).stores = w.stores := rfl
@[simp] theorem Warp.sset_cmds (w : Warp) (n : Nat) (x : DWord) : (w.sset n x).cmds = w.cmds := rfl
@[simp] theorem Warp.sset_st (w : Warp) (n : Nat) (x : DWord) : (w.sset n x).st = w.st := rfl
@[simp] theorem Warp.sset_frame (w : Warp) (n : Nat) (x : DWord) : (w.sset n x).frame = w.frame := rfl
@[simp] theorem Warp.sset_utraps (w : Warp) (n : Nat) (x : DWord) : (w.sset n x).utraps = w.utraps := rfl
@[simp] theorem Warp.sset_straps (w : Warp) (n : Nat) (x : DWord) : (w.sset n x).straps = w.straps := rfl
@[simp] theorem Warp.sset_waits (w : Warp) (n : Nat) (x : DWord) : (w.sset n x).waits = w.waits := rfl
@[simp] theorem Warp.sset_loads (w : Warp) (n : Nat) (x : DWord) : (w.sset n x).loads = w.loads := rfl
@[simp] theorem Warp.sset_consumed (w : Warp) (n : Nat) (x : DWord) : (w.sset n x).consumed = w.consumed := rfl
@[simp] theorem Warp.sset_poison (w : Warp) (n : Nat) (x : DWord) : (w.sset n x).poison = w.poison := rfl
@[simp] theorem Warp.sset_pPoison (w : Warp) (n : Nat) (x : DWord) : (w.sset n x).pPoison = w.pPoison := rfl
@[simp] theorem Warp.sset_acks (w : Warp) (n : Nat) (x : DWord) : (w.sset n x).acks = w.acks := rfl
@[simp] theorem Warp.sset_parkedAt (w : Warp) (n : Nat) (x : DWord) : (w.sset n x).parkedAt = w.parkedAt := rfl
@[simp] theorem Warp.sset_hasEnded (w : Warp) (n : Nat) (x : DWord) : (w.sset n x).hasEnded = w.hasEnded := rfl
@[simp] theorem Warp.sset_pendCommit (w : Warp) (n : Nat) (x : DWord) : (w.sset n x).pendCommit = w.pendCommit := rfl

/- What `Warp.pset` leaves alone. -/

@[simp] theorem Warp.pset_num (w : Warp) (n : Nat) (m x : Mask) : (w.pset n m x).num = w.num := rfl
@[simp] theorem Warp.pset_slot (w : Warp) (n : Nat) (m x : Mask) : (w.pset n m x).slot = w.slot := rfl
@[simp] theorem Warp.pset_frontier (w : Warp) (n : Nat) (m x : Mask) : (w.pset n m x).frontier = w.frontier := rfl
@[simp] theorem Warp.pset_exited (w : Warp) (n : Nat) (m x : Mask) : (w.pset n m x).exited = w.exited := rfl
@[simp] theorem Warp.pset_v (w : Warp) (n : Nat) (m x : Mask) : (w.pset n m x).v = w.v := rfl
@[simp] theorem Warp.pset_s (w : Warp) (n : Nat) (m x : Mask) : (w.pset n m x).s = w.s := rfl
@[simp] theorem Warp.pset_ck (w : Warp) (n : Nat) (m x : Mask) : (w.pset n m x).ck = w.ck := rfl
@[simp] theorem Warp.pset_ckmode (w : Warp) (n : Nat) (m x : Mask) : (w.pset n m x).ckmode = w.ckmode := rfl
@[simp] theorem Warp.pset_flags (w : Warp) (n : Nat) (m x : Mask) : (w.pset n m x).flags = w.flags := rfl
@[simp] theorem Warp.pset_tokens (w : Warp) (n : Nat) (m x : Mask) : (w.pset n m x).tokens = w.tokens := rfl
@[simp] theorem Warp.pset_cs (w : Warp) (n : Nat) (m x : Mask) : (w.pset n m x).cs = w.cs := rfl
@[simp] theorem Warp.pset_csM (w : Warp) (n : Nat) (m x : Mask) : (w.pset n m x).csM = w.csM := rfl
@[simp] theorem Warp.pset_rgn (w : Warp) (n : Nat) (m x : Mask) : (w.pset n m x).rgn = w.rgn := rfl
@[simp] theorem Warp.pset_stores (w : Warp) (n : Nat) (m x : Mask) : (w.pset n m x).stores = w.stores := rfl
@[simp] theorem Warp.pset_cmds (w : Warp) (n : Nat) (m x : Mask) : (w.pset n m x).cmds = w.cmds := rfl
@[simp] theorem Warp.pset_st (w : Warp) (n : Nat) (m x : Mask) : (w.pset n m x).st = w.st := rfl
@[simp] theorem Warp.pset_frame (w : Warp) (n : Nat) (m x : Mask) : (w.pset n m x).frame = w.frame := rfl
@[simp] theorem Warp.pset_utraps (w : Warp) (n : Nat) (m x : Mask) : (w.pset n m x).utraps = w.utraps := rfl
@[simp] theorem Warp.pset_straps (w : Warp) (n : Nat) (m x : Mask) : (w.pset n m x).straps = w.straps := rfl
@[simp] theorem Warp.pset_waits (w : Warp) (n : Nat) (m x : Mask) : (w.pset n m x).waits = w.waits := rfl
@[simp] theorem Warp.pset_loads (w : Warp) (n : Nat) (m x : Mask) : (w.pset n m x).loads = w.loads := rfl
@[simp] theorem Warp.pset_consumed (w : Warp) (n : Nat) (m x : Mask) : (w.pset n m x).consumed = w.consumed := rfl
@[simp] theorem Warp.pset_poison (w : Warp) (n : Nat) (m x : Mask) : (w.pset n m x).poison = w.poison := rfl
@[simp] theorem Warp.pset_sPoison (w : Warp) (n : Nat) (m x : Mask) : (w.pset n m x).sPoison = w.sPoison := rfl
@[simp] theorem Warp.pset_acks (w : Warp) (n : Nat) (m x : Mask) : (w.pset n m x).acks = w.acks := rfl
@[simp] theorem Warp.pset_parkedAt (w : Warp) (n : Nat) (m x : Mask) : (w.pset n m x).parkedAt = w.parkedAt := rfl
@[simp] theorem Warp.pset_hasEnded (w : Warp) (n : Nat) (m x : Mask) : (w.pset n m x).hasEnded = w.hasEnded := rfl
@[simp] theorem Warp.pset_pendCommit (w : Warp) (n : Nat) (m x : Mask) : (w.pset n m x).pendCommit = w.pendCommit := rfl

/- What `Warp.ckset` leaves alone. -/

@[simp] theorem Warp.ckset_num (w : Warp) (n : Nat) (x : DWord) : (w.ckset n x).num = w.num := rfl
@[simp] theorem Warp.ckset_slot (w : Warp) (n : Nat) (x : DWord) : (w.ckset n x).slot = w.slot := rfl
@[simp] theorem Warp.ckset_frontier (w : Warp) (n : Nat) (x : DWord) : (w.ckset n x).frontier = w.frontier := rfl
@[simp] theorem Warp.ckset_exited (w : Warp) (n : Nat) (x : DWord) : (w.ckset n x).exited = w.exited := rfl
@[simp] theorem Warp.ckset_v (w : Warp) (n : Nat) (x : DWord) : (w.ckset n x).v = w.v := rfl
@[simp] theorem Warp.ckset_s (w : Warp) (n : Nat) (x : DWord) : (w.ckset n x).s = w.s := rfl
@[simp] theorem Warp.ckset_p (w : Warp) (n : Nat) (x : DWord) : (w.ckset n x).p = w.p := rfl
@[simp] theorem Warp.ckset_ckmode (w : Warp) (n : Nat) (x : DWord) : (w.ckset n x).ckmode = w.ckmode := rfl
@[simp] theorem Warp.ckset_flags (w : Warp) (n : Nat) (x : DWord) : (w.ckset n x).flags = w.flags := rfl
@[simp] theorem Warp.ckset_tokens (w : Warp) (n : Nat) (x : DWord) : (w.ckset n x).tokens = w.tokens := rfl
@[simp] theorem Warp.ckset_cs (w : Warp) (n : Nat) (x : DWord) : (w.ckset n x).cs = w.cs := rfl
@[simp] theorem Warp.ckset_csM (w : Warp) (n : Nat) (x : DWord) : (w.ckset n x).csM = w.csM := rfl
@[simp] theorem Warp.ckset_rgn (w : Warp) (n : Nat) (x : DWord) : (w.ckset n x).rgn = w.rgn := rfl
@[simp] theorem Warp.ckset_stores (w : Warp) (n : Nat) (x : DWord) : (w.ckset n x).stores = w.stores := rfl
@[simp] theorem Warp.ckset_cmds (w : Warp) (n : Nat) (x : DWord) : (w.ckset n x).cmds = w.cmds := rfl
@[simp] theorem Warp.ckset_st (w : Warp) (n : Nat) (x : DWord) : (w.ckset n x).st = w.st := rfl
@[simp] theorem Warp.ckset_frame (w : Warp) (n : Nat) (x : DWord) : (w.ckset n x).frame = w.frame := rfl
@[simp] theorem Warp.ckset_utraps (w : Warp) (n : Nat) (x : DWord) : (w.ckset n x).utraps = w.utraps := rfl
@[simp] theorem Warp.ckset_straps (w : Warp) (n : Nat) (x : DWord) : (w.ckset n x).straps = w.straps := rfl
@[simp] theorem Warp.ckset_waits (w : Warp) (n : Nat) (x : DWord) : (w.ckset n x).waits = w.waits := rfl
@[simp] theorem Warp.ckset_loads (w : Warp) (n : Nat) (x : DWord) : (w.ckset n x).loads = w.loads := rfl
@[simp] theorem Warp.ckset_consumed (w : Warp) (n : Nat) (x : DWord) : (w.ckset n x).consumed = w.consumed := rfl
@[simp] theorem Warp.ckset_poison (w : Warp) (n : Nat) (x : DWord) : (w.ckset n x).poison = w.poison := rfl
@[simp] theorem Warp.ckset_sPoison (w : Warp) (n : Nat) (x : DWord) : (w.ckset n x).sPoison = w.sPoison := rfl
@[simp] theorem Warp.ckset_pPoison (w : Warp) (n : Nat) (x : DWord) : (w.ckset n x).pPoison = w.pPoison := rfl
@[simp] theorem Warp.ckset_acks (w : Warp) (n : Nat) (x : DWord) : (w.ckset n x).acks = w.acks := rfl
@[simp] theorem Warp.ckset_parkedAt (w : Warp) (n : Nat) (x : DWord) : (w.ckset n x).parkedAt = w.parkedAt := rfl
@[simp] theorem Warp.ckset_hasEnded (w : Warp) (n : Nat) (x : DWord) : (w.ckset n x).hasEnded = w.hasEnded := rfl
@[simp] theorem Warp.ckset_pendCommit (w : Warp) (n : Nat) (x : DWord) : (w.ckset n x).pendCommit = w.pendCommit := rfl

/- What `Warp.setToken` leaves alone. -/

@[simp] theorem Warp.setToken_num (w : Warp) (n : Nat) (x : BitVec 6) : (w.setToken n x).num = w.num := rfl
@[simp] theorem Warp.setToken_slot (w : Warp) (n : Nat) (x : BitVec 6) : (w.setToken n x).slot = w.slot := rfl
@[simp] theorem Warp.setToken_frontier (w : Warp) (n : Nat) (x : BitVec 6) : (w.setToken n x).frontier = w.frontier := rfl
@[simp] theorem Warp.setToken_exited (w : Warp) (n : Nat) (x : BitVec 6) : (w.setToken n x).exited = w.exited := rfl
@[simp] theorem Warp.setToken_v (w : Warp) (n : Nat) (x : BitVec 6) : (w.setToken n x).v = w.v := rfl
@[simp] theorem Warp.setToken_s (w : Warp) (n : Nat) (x : BitVec 6) : (w.setToken n x).s = w.s := rfl
@[simp] theorem Warp.setToken_p (w : Warp) (n : Nat) (x : BitVec 6) : (w.setToken n x).p = w.p := rfl
@[simp] theorem Warp.setToken_ck (w : Warp) (n : Nat) (x : BitVec 6) : (w.setToken n x).ck = w.ck := rfl
@[simp] theorem Warp.setToken_ckmode (w : Warp) (n : Nat) (x : BitVec 6) : (w.setToken n x).ckmode = w.ckmode := rfl
@[simp] theorem Warp.setToken_flags (w : Warp) (n : Nat) (x : BitVec 6) : (w.setToken n x).flags = w.flags := rfl
@[simp] theorem Warp.setToken_cs (w : Warp) (n : Nat) (x : BitVec 6) : (w.setToken n x).cs = w.cs := rfl
@[simp] theorem Warp.setToken_csM (w : Warp) (n : Nat) (x : BitVec 6) : (w.setToken n x).csM = w.csM := rfl
@[simp] theorem Warp.setToken_rgn (w : Warp) (n : Nat) (x : BitVec 6) : (w.setToken n x).rgn = w.rgn := rfl
@[simp] theorem Warp.setToken_stores (w : Warp) (n : Nat) (x : BitVec 6) : (w.setToken n x).stores = w.stores := rfl
@[simp] theorem Warp.setToken_cmds (w : Warp) (n : Nat) (x : BitVec 6) : (w.setToken n x).cmds = w.cmds := rfl
@[simp] theorem Warp.setToken_st (w : Warp) (n : Nat) (x : BitVec 6) : (w.setToken n x).st = w.st := rfl
@[simp] theorem Warp.setToken_frame (w : Warp) (n : Nat) (x : BitVec 6) : (w.setToken n x).frame = w.frame := rfl
@[simp] theorem Warp.setToken_utraps (w : Warp) (n : Nat) (x : BitVec 6) : (w.setToken n x).utraps = w.utraps := rfl
@[simp] theorem Warp.setToken_straps (w : Warp) (n : Nat) (x : BitVec 6) : (w.setToken n x).straps = w.straps := rfl
@[simp] theorem Warp.setToken_waits (w : Warp) (n : Nat) (x : BitVec 6) : (w.setToken n x).waits = w.waits := rfl
@[simp] theorem Warp.setToken_loads (w : Warp) (n : Nat) (x : BitVec 6) : (w.setToken n x).loads = w.loads := rfl
@[simp] theorem Warp.setToken_consumed (w : Warp) (n : Nat) (x : BitVec 6) : (w.setToken n x).consumed = w.consumed := rfl
@[simp] theorem Warp.setToken_poison (w : Warp) (n : Nat) (x : BitVec 6) : (w.setToken n x).poison = w.poison := rfl
@[simp] theorem Warp.setToken_sPoison (w : Warp) (n : Nat) (x : BitVec 6) : (w.setToken n x).sPoison = w.sPoison := rfl
@[simp] theorem Warp.setToken_pPoison (w : Warp) (n : Nat) (x : BitVec 6) : (w.setToken n x).pPoison = w.pPoison := rfl
@[simp] theorem Warp.setToken_acks (w : Warp) (n : Nat) (x : BitVec 6) : (w.setToken n x).acks = w.acks := rfl
@[simp] theorem Warp.setToken_parkedAt (w : Warp) (n : Nat) (x : BitVec 6) : (w.setToken n x).parkedAt = w.parkedAt := rfl
@[simp] theorem Warp.setToken_hasEnded (w : Warp) (n : Nat) (x : BitVec 6) : (w.setToken n x).hasEnded = w.hasEnded := rfl
@[simp] theorem Warp.setToken_pendCommit (w : Warp) (n : Nat) (x : BitVec 6) : (w.setToken n x).pendCommit = w.pendCommit := rfl

/- What `Block.setWarp` leaves alone. -/

@[simp] theorem Block.setWarp_key (b : Block) (w : Warp) : (b.setWarp w).key = b.key := rfl
@[simp] theorem Block.setWarp_grid (b : Block) (w : Warp) : (b.setWarp w).grid = b.grid := rfl
@[simp] theorem Block.setWarp_bx (b : Block) (w : Warp) : (b.setWarp w).bx = b.bx := rfl
@[simp] theorem Block.setWarp_by_ (b : Block) (w : Warp) : (b.setWarp w).by_ = b.by_ := rfl
@[simp] theorem Block.setWarp_bz (b : Block) (w : Warp) : (b.setWarp w).bz = b.bz := rfl
@[simp] theorem Block.setWarp_rank (b : Block) (w : Warp) : (b.setWarp w).rank = b.rank := rfl
@[simp] theorem Block.setWarp_lin (b : Block) (w : Warp) : (b.setWarp w).lin = b.lin := rfl
@[simp] theorem Block.setWarp_quartet (b : Block) (w : Warp) : (b.setWarp w).quartet = b.quartet := rfl
@[simp] theorem Block.setWarp_member (b : Block) (w : Warp) : (b.setWarp w).member = b.member := rfl
@[simp] theorem Block.setWarp_spawned (b : Block) (w : Warp) : (b.setWarp w).spawned = b.spawned := rfl
@[simp] theorem Block.setWarp_parent (b : Block) (w : Warp) : (b.setWarp w).parent = b.parent := rfl
@[simp] theorem Block.setWarp_det (b : Block) (w : Warp) : (b.setWarp w).det = b.det := rfl
@[simp] theorem Block.setWarp_brken (b : Block) (w : Warp) : (b.setWarp w).brken = b.brken := rfl
@[simp] theorem Block.setWarp_res (b : Block) (w : Warp) : (b.setWarp w).res = b.res := rfl
@[simp] theorem Block.setWarp_die (b : Block) (w : Warp) : (b.setWarp w).die = b.die := rfl
@[simp] theorem Block.setWarp_quad (b : Block) (w : Warp) : (b.setWarp w).quad = b.quad := rfl
@[simp] theorem Block.setWarp_core (b : Block) (w : Warp) : (b.setWarp w).core = b.core := rfl
@[simp] theorem Block.setWarp_spadOff (b : Block) (w : Warp) : (b.setWarp w).spadOff = b.spadOff := rfl
@[simp] theorem Block.setWarp_valid (b : Block) (w : Warp) : (b.setWarp w).valid = b.valid := rfl
@[simp] theorem Block.setWarp_layout (b : Block) (w : Warp) : (b.setWarp w).layout = b.layout := rfl
@[simp] theorem Block.setWarp_stop (b : Block) (w : Warp) : (b.setWarp w).stop = b.stop := rfl
@[simp] theorem Block.setWarp_ended (b : Block) (w : Warp) : (b.setWarp w).ended = b.ended := rfl
@[simp] theorem Block.setWarp_begun (b : Block) (w : Warp) : (b.setWarp w).begun = b.begun := rfl
@[simp] theorem Block.setWarp_bars (b : Block) (w : Warp) : (b.setWarp w).bars = b.bars := rfl
@[simp] theorem Block.setWarp_tiles (b : Block) (w : Warp) : (b.setWarp w).tiles = b.tiles := rfl
@[simp] theorem Block.setWarp_gang (b : Block) (w : Warp) : (b.setWarp w).gang = b.gang := rfl
@[simp] theorem Block.setWarp_rsv (b : Block) (w : Warp) : (b.setWarp w).rsv = b.rsv := rfl
@[simp] theorem Block.setWarp_mxSaved (b : Block) (w : Warp) : (b.setWarp w).mxSaved = b.mxSaved := rfl
@[simp] theorem Block.setWarp_ib (b : Block) (w : Warp) : (b.setWarp w).ib = b.ib := rfl
@[simp] theorem Block.setWarp_spad (b : Block) (w : Warp) : (b.setWarp w).spad = b.spad := rfl
@[simp] theorem Block.setWarp_spadPoison (b : Block) (w : Warp) : (b.setWarp w).spadPoison = b.spadPoison := rfl
@[simp] theorem Block.setWarp_queues (b : Block) (w : Warp) : (b.setWarp w).queues = b.queues := rfl
@[simp] theorem Block.setWarp_xfers (b : Block) (w : Warp) : (b.setWarp w).xfers = b.xfers := rfl
@[simp] theorem Block.setWarp_chain (b : Block) (w : Warp) : (b.setWarp w).chain = b.chain := rfl
@[simp] theorem Block.setWarp_results (b : Block) (w : Warp) : (b.setWarp w).results = b.results := rfl
@[simp] theorem Block.setWarp_coll (b : Block) (w : Warp) : (b.setWarp w).coll = b.coll := rfl
@[simp] theorem Block.setWarp_dead (b : Block) (w : Warp) : (b.setWarp w).dead = b.dead := rfl

/- What `Block.setBar` leaves alone. -/

@[simp] theorem Block.setBar_key (b : Block) (n : Nat) (c : BarCtr) : (b.setBar n c).key = b.key := rfl
@[simp] theorem Block.setBar_grid (b : Block) (n : Nat) (c : BarCtr) : (b.setBar n c).grid = b.grid := rfl
@[simp] theorem Block.setBar_bx (b : Block) (n : Nat) (c : BarCtr) : (b.setBar n c).bx = b.bx := rfl
@[simp] theorem Block.setBar_by_ (b : Block) (n : Nat) (c : BarCtr) : (b.setBar n c).by_ = b.by_ := rfl
@[simp] theorem Block.setBar_bz (b : Block) (n : Nat) (c : BarCtr) : (b.setBar n c).bz = b.bz := rfl
@[simp] theorem Block.setBar_rank (b : Block) (n : Nat) (c : BarCtr) : (b.setBar n c).rank = b.rank := rfl
@[simp] theorem Block.setBar_lin (b : Block) (n : Nat) (c : BarCtr) : (b.setBar n c).lin = b.lin := rfl
@[simp] theorem Block.setBar_quartet (b : Block) (n : Nat) (c : BarCtr) : (b.setBar n c).quartet = b.quartet := rfl
@[simp] theorem Block.setBar_member (b : Block) (n : Nat) (c : BarCtr) : (b.setBar n c).member = b.member := rfl
@[simp] theorem Block.setBar_spawned (b : Block) (n : Nat) (c : BarCtr) : (b.setBar n c).spawned = b.spawned := rfl
@[simp] theorem Block.setBar_parent (b : Block) (n : Nat) (c : BarCtr) : (b.setBar n c).parent = b.parent := rfl
@[simp] theorem Block.setBar_det (b : Block) (n : Nat) (c : BarCtr) : (b.setBar n c).det = b.det := rfl
@[simp] theorem Block.setBar_brken (b : Block) (n : Nat) (c : BarCtr) : (b.setBar n c).brken = b.brken := rfl
@[simp] theorem Block.setBar_res (b : Block) (n : Nat) (c : BarCtr) : (b.setBar n c).res = b.res := rfl
@[simp] theorem Block.setBar_die (b : Block) (n : Nat) (c : BarCtr) : (b.setBar n c).die = b.die := rfl
@[simp] theorem Block.setBar_quad (b : Block) (n : Nat) (c : BarCtr) : (b.setBar n c).quad = b.quad := rfl
@[simp] theorem Block.setBar_core (b : Block) (n : Nat) (c : BarCtr) : (b.setBar n c).core = b.core := rfl
@[simp] theorem Block.setBar_spadOff (b : Block) (n : Nat) (c : BarCtr) : (b.setBar n c).spadOff = b.spadOff := rfl
@[simp] theorem Block.setBar_valid (b : Block) (n : Nat) (c : BarCtr) : (b.setBar n c).valid = b.valid := rfl
@[simp] theorem Block.setBar_layout (b : Block) (n : Nat) (c : BarCtr) : (b.setBar n c).layout = b.layout := rfl
@[simp] theorem Block.setBar_stop (b : Block) (n : Nat) (c : BarCtr) : (b.setBar n c).stop = b.stop := rfl
@[simp] theorem Block.setBar_ended (b : Block) (n : Nat) (c : BarCtr) : (b.setBar n c).ended = b.ended := rfl
@[simp] theorem Block.setBar_begun (b : Block) (n : Nat) (c : BarCtr) : (b.setBar n c).begun = b.begun := rfl
@[simp] theorem Block.setBar_warps (b : Block) (n : Nat) (c : BarCtr) : (b.setBar n c).warps = b.warps := rfl
@[simp] theorem Block.setBar_tiles (b : Block) (n : Nat) (c : BarCtr) : (b.setBar n c).tiles = b.tiles := rfl
@[simp] theorem Block.setBar_gang (b : Block) (n : Nat) (c : BarCtr) : (b.setBar n c).gang = b.gang := rfl
@[simp] theorem Block.setBar_rsv (b : Block) (n : Nat) (c : BarCtr) : (b.setBar n c).rsv = b.rsv := rfl
@[simp] theorem Block.setBar_mxSaved (b : Block) (n : Nat) (c : BarCtr) : (b.setBar n c).mxSaved = b.mxSaved := rfl
@[simp] theorem Block.setBar_ib (b : Block) (n : Nat) (c : BarCtr) : (b.setBar n c).ib = b.ib := rfl
@[simp] theorem Block.setBar_spad (b : Block) (n : Nat) (c : BarCtr) : (b.setBar n c).spad = b.spad := rfl
@[simp] theorem Block.setBar_spadPoison (b : Block) (n : Nat) (c : BarCtr) : (b.setBar n c).spadPoison = b.spadPoison := rfl
@[simp] theorem Block.setBar_queues (b : Block) (n : Nat) (c : BarCtr) : (b.setBar n c).queues = b.queues := rfl
@[simp] theorem Block.setBar_xfers (b : Block) (n : Nat) (c : BarCtr) : (b.setBar n c).xfers = b.xfers := rfl
@[simp] theorem Block.setBar_chain (b : Block) (n : Nat) (c : BarCtr) : (b.setBar n c).chain = b.chain := rfl
@[simp] theorem Block.setBar_results (b : Block) (n : Nat) (c : BarCtr) : (b.setBar n c).results = b.results := rfl
@[simp] theorem Block.setBar_coll (b : Block) (n : Nat) (c : BarCtr) : (b.setBar n c).coll = b.coll := rfl
@[simp] theorem Block.setBar_dead (b : Block) (n : Nat) (c : BarCtr) : (b.setBar n c).dead = b.dead := rfl

/- What `Block.setTile` leaves alone. -/

@[simp] theorem Block.setTile_key (b : Block) (n : Nat) (x : Tile) : (b.setTile n x).key = b.key := rfl
@[simp] theorem Block.setTile_grid (b : Block) (n : Nat) (x : Tile) : (b.setTile n x).grid = b.grid := rfl
@[simp] theorem Block.setTile_bx (b : Block) (n : Nat) (x : Tile) : (b.setTile n x).bx = b.bx := rfl
@[simp] theorem Block.setTile_by_ (b : Block) (n : Nat) (x : Tile) : (b.setTile n x).by_ = b.by_ := rfl
@[simp] theorem Block.setTile_bz (b : Block) (n : Nat) (x : Tile) : (b.setTile n x).bz = b.bz := rfl
@[simp] theorem Block.setTile_rank (b : Block) (n : Nat) (x : Tile) : (b.setTile n x).rank = b.rank := rfl
@[simp] theorem Block.setTile_lin (b : Block) (n : Nat) (x : Tile) : (b.setTile n x).lin = b.lin := rfl
@[simp] theorem Block.setTile_quartet (b : Block) (n : Nat) (x : Tile) : (b.setTile n x).quartet = b.quartet := rfl
@[simp] theorem Block.setTile_member (b : Block) (n : Nat) (x : Tile) : (b.setTile n x).member = b.member := rfl
@[simp] theorem Block.setTile_spawned (b : Block) (n : Nat) (x : Tile) : (b.setTile n x).spawned = b.spawned := rfl
@[simp] theorem Block.setTile_parent (b : Block) (n : Nat) (x : Tile) : (b.setTile n x).parent = b.parent := rfl
@[simp] theorem Block.setTile_det (b : Block) (n : Nat) (x : Tile) : (b.setTile n x).det = b.det := rfl
@[simp] theorem Block.setTile_brken (b : Block) (n : Nat) (x : Tile) : (b.setTile n x).brken = b.brken := rfl
@[simp] theorem Block.setTile_res (b : Block) (n : Nat) (x : Tile) : (b.setTile n x).res = b.res := rfl
@[simp] theorem Block.setTile_die (b : Block) (n : Nat) (x : Tile) : (b.setTile n x).die = b.die := rfl
@[simp] theorem Block.setTile_quad (b : Block) (n : Nat) (x : Tile) : (b.setTile n x).quad = b.quad := rfl
@[simp] theorem Block.setTile_core (b : Block) (n : Nat) (x : Tile) : (b.setTile n x).core = b.core := rfl
@[simp] theorem Block.setTile_spadOff (b : Block) (n : Nat) (x : Tile) : (b.setTile n x).spadOff = b.spadOff := rfl
@[simp] theorem Block.setTile_valid (b : Block) (n : Nat) (x : Tile) : (b.setTile n x).valid = b.valid := rfl
@[simp] theorem Block.setTile_layout (b : Block) (n : Nat) (x : Tile) : (b.setTile n x).layout = b.layout := rfl
@[simp] theorem Block.setTile_stop (b : Block) (n : Nat) (x : Tile) : (b.setTile n x).stop = b.stop := rfl
@[simp] theorem Block.setTile_ended (b : Block) (n : Nat) (x : Tile) : (b.setTile n x).ended = b.ended := rfl
@[simp] theorem Block.setTile_begun (b : Block) (n : Nat) (x : Tile) : (b.setTile n x).begun = b.begun := rfl
@[simp] theorem Block.setTile_warps (b : Block) (n : Nat) (x : Tile) : (b.setTile n x).warps = b.warps := rfl
@[simp] theorem Block.setTile_bars (b : Block) (n : Nat) (x : Tile) : (b.setTile n x).bars = b.bars := rfl
@[simp] theorem Block.setTile_gang (b : Block) (n : Nat) (x : Tile) : (b.setTile n x).gang = b.gang := rfl
@[simp] theorem Block.setTile_rsv (b : Block) (n : Nat) (x : Tile) : (b.setTile n x).rsv = b.rsv := rfl
@[simp] theorem Block.setTile_mxSaved (b : Block) (n : Nat) (x : Tile) : (b.setTile n x).mxSaved = b.mxSaved := rfl
@[simp] theorem Block.setTile_ib (b : Block) (n : Nat) (x : Tile) : (b.setTile n x).ib = b.ib := rfl
@[simp] theorem Block.setTile_spad (b : Block) (n : Nat) (x : Tile) : (b.setTile n x).spad = b.spad := rfl
@[simp] theorem Block.setTile_spadPoison (b : Block) (n : Nat) (x : Tile) : (b.setTile n x).spadPoison = b.spadPoison := rfl
@[simp] theorem Block.setTile_queues (b : Block) (n : Nat) (x : Tile) : (b.setTile n x).queues = b.queues := rfl
@[simp] theorem Block.setTile_xfers (b : Block) (n : Nat) (x : Tile) : (b.setTile n x).xfers = b.xfers := rfl
@[simp] theorem Block.setTile_chain (b : Block) (n : Nat) (x : Tile) : (b.setTile n x).chain = b.chain := rfl
@[simp] theorem Block.setTile_results (b : Block) (n : Nat) (x : Tile) : (b.setTile n x).results = b.results := rfl
@[simp] theorem Block.setTile_coll (b : Block) (n : Nat) (x : Tile) : (b.setTile n x).coll = b.coll := rfl
@[simp] theorem Block.setTile_dead (b : Block) (n : Nat) (x : Tile) : (b.setTile n x).dead = b.dead := rfl

/- What `Block.setQueue` leaves alone. -/

@[simp] theorem Block.setQueue_key (b : Block) (n : Nat) (x : List (List DWord)) : (b.setQueue n x).key = b.key := rfl
@[simp] theorem Block.setQueue_grid (b : Block) (n : Nat) (x : List (List DWord)) : (b.setQueue n x).grid = b.grid := rfl
@[simp] theorem Block.setQueue_bx (b : Block) (n : Nat) (x : List (List DWord)) : (b.setQueue n x).bx = b.bx := rfl
@[simp] theorem Block.setQueue_by_ (b : Block) (n : Nat) (x : List (List DWord)) : (b.setQueue n x).by_ = b.by_ := rfl
@[simp] theorem Block.setQueue_bz (b : Block) (n : Nat) (x : List (List DWord)) : (b.setQueue n x).bz = b.bz := rfl
@[simp] theorem Block.setQueue_rank (b : Block) (n : Nat) (x : List (List DWord)) : (b.setQueue n x).rank = b.rank := rfl
@[simp] theorem Block.setQueue_lin (b : Block) (n : Nat) (x : List (List DWord)) : (b.setQueue n x).lin = b.lin := rfl
@[simp] theorem Block.setQueue_quartet (b : Block) (n : Nat) (x : List (List DWord)) : (b.setQueue n x).quartet = b.quartet := rfl
@[simp] theorem Block.setQueue_member (b : Block) (n : Nat) (x : List (List DWord)) : (b.setQueue n x).member = b.member := rfl
@[simp] theorem Block.setQueue_spawned (b : Block) (n : Nat) (x : List (List DWord)) : (b.setQueue n x).spawned = b.spawned := rfl
@[simp] theorem Block.setQueue_parent (b : Block) (n : Nat) (x : List (List DWord)) : (b.setQueue n x).parent = b.parent := rfl
@[simp] theorem Block.setQueue_det (b : Block) (n : Nat) (x : List (List DWord)) : (b.setQueue n x).det = b.det := rfl
@[simp] theorem Block.setQueue_brken (b : Block) (n : Nat) (x : List (List DWord)) : (b.setQueue n x).brken = b.brken := rfl
@[simp] theorem Block.setQueue_res (b : Block) (n : Nat) (x : List (List DWord)) : (b.setQueue n x).res = b.res := rfl
@[simp] theorem Block.setQueue_die (b : Block) (n : Nat) (x : List (List DWord)) : (b.setQueue n x).die = b.die := rfl
@[simp] theorem Block.setQueue_quad (b : Block) (n : Nat) (x : List (List DWord)) : (b.setQueue n x).quad = b.quad := rfl
@[simp] theorem Block.setQueue_core (b : Block) (n : Nat) (x : List (List DWord)) : (b.setQueue n x).core = b.core := rfl
@[simp] theorem Block.setQueue_spadOff (b : Block) (n : Nat) (x : List (List DWord)) : (b.setQueue n x).spadOff = b.spadOff := rfl
@[simp] theorem Block.setQueue_valid (b : Block) (n : Nat) (x : List (List DWord)) : (b.setQueue n x).valid = b.valid := rfl
@[simp] theorem Block.setQueue_layout (b : Block) (n : Nat) (x : List (List DWord)) : (b.setQueue n x).layout = b.layout := rfl
@[simp] theorem Block.setQueue_stop (b : Block) (n : Nat) (x : List (List DWord)) : (b.setQueue n x).stop = b.stop := rfl
@[simp] theorem Block.setQueue_ended (b : Block) (n : Nat) (x : List (List DWord)) : (b.setQueue n x).ended = b.ended := rfl
@[simp] theorem Block.setQueue_begun (b : Block) (n : Nat) (x : List (List DWord)) : (b.setQueue n x).begun = b.begun := rfl
@[simp] theorem Block.setQueue_warps (b : Block) (n : Nat) (x : List (List DWord)) : (b.setQueue n x).warps = b.warps := rfl
@[simp] theorem Block.setQueue_bars (b : Block) (n : Nat) (x : List (List DWord)) : (b.setQueue n x).bars = b.bars := rfl
@[simp] theorem Block.setQueue_tiles (b : Block) (n : Nat) (x : List (List DWord)) : (b.setQueue n x).tiles = b.tiles := rfl
@[simp] theorem Block.setQueue_gang (b : Block) (n : Nat) (x : List (List DWord)) : (b.setQueue n x).gang = b.gang := rfl
@[simp] theorem Block.setQueue_rsv (b : Block) (n : Nat) (x : List (List DWord)) : (b.setQueue n x).rsv = b.rsv := rfl
@[simp] theorem Block.setQueue_mxSaved (b : Block) (n : Nat) (x : List (List DWord)) : (b.setQueue n x).mxSaved = b.mxSaved := rfl
@[simp] theorem Block.setQueue_ib (b : Block) (n : Nat) (x : List (List DWord)) : (b.setQueue n x).ib = b.ib := rfl
@[simp] theorem Block.setQueue_spad (b : Block) (n : Nat) (x : List (List DWord)) : (b.setQueue n x).spad = b.spad := rfl
@[simp] theorem Block.setQueue_spadPoison (b : Block) (n : Nat) (x : List (List DWord)) : (b.setQueue n x).spadPoison = b.spadPoison := rfl
@[simp] theorem Block.setQueue_xfers (b : Block) (n : Nat) (x : List (List DWord)) : (b.setQueue n x).xfers = b.xfers := rfl
@[simp] theorem Block.setQueue_chain (b : Block) (n : Nat) (x : List (List DWord)) : (b.setQueue n x).chain = b.chain := rfl
@[simp] theorem Block.setQueue_results (b : Block) (n : Nat) (x : List (List DWord)) : (b.setQueue n x).results = b.results := rfl
@[simp] theorem Block.setQueue_coll (b : Block) (n : Nat) (x : List (List DWord)) : (b.setQueue n x).coll = b.coll := rfl
@[simp] theorem Block.setQueue_dead (b : Block) (n : Nat) (x : List (List DWord)) : (b.setQueue n x).dead = b.dead := rfl

/- What `Block.setXfer` leaves alone. -/

@[simp] theorem Block.setXfer_key (b : Block) (x : Xfer) : (b.setXfer x).key = b.key := rfl
@[simp] theorem Block.setXfer_grid (b : Block) (x : Xfer) : (b.setXfer x).grid = b.grid := rfl
@[simp] theorem Block.setXfer_bx (b : Block) (x : Xfer) : (b.setXfer x).bx = b.bx := rfl
@[simp] theorem Block.setXfer_by_ (b : Block) (x : Xfer) : (b.setXfer x).by_ = b.by_ := rfl
@[simp] theorem Block.setXfer_bz (b : Block) (x : Xfer) : (b.setXfer x).bz = b.bz := rfl
@[simp] theorem Block.setXfer_rank (b : Block) (x : Xfer) : (b.setXfer x).rank = b.rank := rfl
@[simp] theorem Block.setXfer_lin (b : Block) (x : Xfer) : (b.setXfer x).lin = b.lin := rfl
@[simp] theorem Block.setXfer_quartet (b : Block) (x : Xfer) : (b.setXfer x).quartet = b.quartet := rfl
@[simp] theorem Block.setXfer_member (b : Block) (x : Xfer) : (b.setXfer x).member = b.member := rfl
@[simp] theorem Block.setXfer_spawned (b : Block) (x : Xfer) : (b.setXfer x).spawned = b.spawned := rfl
@[simp] theorem Block.setXfer_parent (b : Block) (x : Xfer) : (b.setXfer x).parent = b.parent := rfl
@[simp] theorem Block.setXfer_det (b : Block) (x : Xfer) : (b.setXfer x).det = b.det := rfl
@[simp] theorem Block.setXfer_brken (b : Block) (x : Xfer) : (b.setXfer x).brken = b.brken := rfl
@[simp] theorem Block.setXfer_res (b : Block) (x : Xfer) : (b.setXfer x).res = b.res := rfl
@[simp] theorem Block.setXfer_die (b : Block) (x : Xfer) : (b.setXfer x).die = b.die := rfl
@[simp] theorem Block.setXfer_quad (b : Block) (x : Xfer) : (b.setXfer x).quad = b.quad := rfl
@[simp] theorem Block.setXfer_core (b : Block) (x : Xfer) : (b.setXfer x).core = b.core := rfl
@[simp] theorem Block.setXfer_spadOff (b : Block) (x : Xfer) : (b.setXfer x).spadOff = b.spadOff := rfl
@[simp] theorem Block.setXfer_valid (b : Block) (x : Xfer) : (b.setXfer x).valid = b.valid := rfl
@[simp] theorem Block.setXfer_layout (b : Block) (x : Xfer) : (b.setXfer x).layout = b.layout := rfl
@[simp] theorem Block.setXfer_stop (b : Block) (x : Xfer) : (b.setXfer x).stop = b.stop := rfl
@[simp] theorem Block.setXfer_ended (b : Block) (x : Xfer) : (b.setXfer x).ended = b.ended := rfl
@[simp] theorem Block.setXfer_begun (b : Block) (x : Xfer) : (b.setXfer x).begun = b.begun := rfl
@[simp] theorem Block.setXfer_warps (b : Block) (x : Xfer) : (b.setXfer x).warps = b.warps := rfl
@[simp] theorem Block.setXfer_bars (b : Block) (x : Xfer) : (b.setXfer x).bars = b.bars := rfl
@[simp] theorem Block.setXfer_tiles (b : Block) (x : Xfer) : (b.setXfer x).tiles = b.tiles := rfl
@[simp] theorem Block.setXfer_gang (b : Block) (x : Xfer) : (b.setXfer x).gang = b.gang := rfl
@[simp] theorem Block.setXfer_rsv (b : Block) (x : Xfer) : (b.setXfer x).rsv = b.rsv := rfl
@[simp] theorem Block.setXfer_mxSaved (b : Block) (x : Xfer) : (b.setXfer x).mxSaved = b.mxSaved := rfl
@[simp] theorem Block.setXfer_ib (b : Block) (x : Xfer) : (b.setXfer x).ib = b.ib := rfl
@[simp] theorem Block.setXfer_spad (b : Block) (x : Xfer) : (b.setXfer x).spad = b.spad := rfl
@[simp] theorem Block.setXfer_spadPoison (b : Block) (x : Xfer) : (b.setXfer x).spadPoison = b.spadPoison := rfl
@[simp] theorem Block.setXfer_queues (b : Block) (x : Xfer) : (b.setXfer x).queues = b.queues := rfl
@[simp] theorem Block.setXfer_chain (b : Block) (x : Xfer) : (b.setXfer x).chain = b.chain := rfl
@[simp] theorem Block.setXfer_results (b : Block) (x : Xfer) : (b.setXfer x).results = b.results := rfl
@[simp] theorem Block.setXfer_coll (b : Block) (x : Xfer) : (b.setXfer x).coll = b.coll := rfl
@[simp] theorem Block.setXfer_dead (b : Block) (x : Xfer) : (b.setXfer x).dead = b.dead := rfl

/- ### Lookups after updates -/

theorem State.core_setCore (s : State) (n k : Nat) (c : Core) :
    (s.setCore n c).core k = if k = n then c else s.core k := smGet_set _ _ _ _ _

theorem State.die_setDie (s : State) (n k : Nat) (d : Die) :
    (s.setDie n d).die k = if k = n then d else s.die k := smGet_set _ _ _ _ _

theorem State.pw_setPw (s : State) (n k : Nat) (v : DWord) :
    (s.setPw n v).pw k = if k = n then v else s.pw k := by
  by_cases h : k = n
  · subst h; rw [if_pos rfl]; exact smGet_set_self (platReset k) s.plat k v
  · rw [if_neg h]
    show smGet (platReset k) (smSet (platReset n) s.plat n v) k = smGet (platReset k) s.plat k
    unfold smSet
    split
    · exact smGet_erase_ne _ _ h
    · rw [smGet_insert_ne _ _ _ h, smGet_erase_ne _ _ h]

theorem Block.bar_setBar (b : Block) (n k : Nat) (c : BarCtr) :
    (b.setBar n c).bar k = if k = n then c else b.bar k := smGet_set _ _ _ _ _

theorem Block.tile_setTile (b : Block) (n k : Nat) (x : Tile) :
    (b.setTile n x).tile k = if k = n then x else b.tile k := smGet_set _ _ _ _ _

theorem Block.queue_setQueue (b : Block) (n k : Nat) (x : List (List DWord)) :
    (b.setQueue n x).queue k = if k = n then x else b.queue k := smGet_set _ _ _ _ _

theorem Warp.sget_sset (w : Warp) (n k : Nat) (x : DWord) :
    (w.sset n x).sget k = if k = n then x else w.sget k := smGet_set _ _ _ _ _

/- ### The form of the memories -/

theorem State.memWf_iff (s : State) :
    s.memWf = true ↔ s.dram.wf = true ∧ s.lpddr.wf = true ∧ s.hostMem.wf = true := by
  simp [State.memWf, Bool.and_eq_true, and_assoc]

theorem State.reset_memWf : State.reset.memWf = true := by decide

/-- A memory in its form put in the place of a tier. -/
theorem State.memWf_setTier {s : State} (h : s.memWf = true) (t : Nat) (m : Memory) (hm : m.wf = true) :
    (s.setTier t m).memWf = true := by
  rw [State.memWf_iff] at h ⊢
  unfold State.setTier
  split <;> simp_all

/-- Every tier of a well-formed state is in its form. -/
theorem State.wf_tier {s : State} (h : s.memWf = true) (t : Nat) : (s.tier t).wf = true := by
  rw [State.memWf_iff] at h
  unfold State.tier
  split <;> simp_all

theorem memWf_writeMem {s : State} (h : s.memWf = true) (l : Loc) (v : Byte) : (writeMem s l v).memWf = true := by
  cases l with
  | mem t o => exact State.memWf_setTier h t _ (Memory.wf_setByte _ _ _ (State.wf_tier h t))
  | _ => exact h

/-- Writing any list of places keeps the form. -/
theorem State.memWf_writeLocs {s : State} (h : s.memWf = true) (ls : List Loc) (bs : List Byte) :
    (s.writeLocs ls bs).memWf = true := by
  have key : ∀ (ps : List (Loc × Byte)) (u : State), u.memWf = true →
      (ps.foldl (fun s p => writeMem s p.1 p.2) u).memWf = true := by
    intro ps
    induction ps with
    | nil => exact fun _ hu => hu
    | cons p t ih => exact fun u hu => ih _ (memWf_writeMem hu p.1 p.2)
  have := key (ls.zip bs) s h
  unfold State.writeLocs
  dsimp only
  split
  · exact this
  · exact this

/-- A write to bonded DRAM by physical address keeps the form. -/
theorem State.memWf_putDram {s : State} (h : s.memWf = true) (a : Nat) (bs : List Byte) :
    (s.putDram a bs).memWf = true := State.memWf_writeLocs h _ _

end Sys2Proof.Machine
end

