-- ==== Sys2Proof/Tests/Setup.lean ====
section
/-! SUPPORT. The small states that the tests and the witnesses run on: a loaded program of one warp, and changes
of one piece of it. -/

namespace Sys2Proof.Tests

open Sys2Proof Sys2Proof.Machine

/-- A loaded program of one warp, which is the current one and stands at 0x100 with all lanes; its code is
readable and not writable. -/
def tS : State := { State.reset.loadProgram with cur := (0x1000000, 0) }

/-- The same with pages that may be written. -/
def tRW : State := { tS with dram := tS.dram.setWord64 0x14000 0x2000f }

/-- A state with its warps changed. -/
def onW (s : State) (f : Warp → Warp) : State :=
  { s with blocks := s.blocks.map fun b => { b with warps := b.warps.map f } }

/-- A state with its blocks changed. -/
def onB (s : State) (f : Block → Block) : State := { s with blocks := s.blocks.map f }

/-- A state with its grids changed. -/
def onG (s : State) (f : Grid → Grid) : State := { s with grids := s.grids.map f }

/-- The warp of the loaded program in a region. -/
def tRgn : State := onW tRW fun w => { w with rgn := { Region.exposed with inrgn := true } }

/-- The kernel has a trap handler at offset 0x40 of its code. -/
def tTrap : State := onG tS fun g => { g with img := { g.img with desc := { g.img.desc with trapent := 0x40 } } }

/-- The warp in its trap handler: lane 3 trapped at 0x100. -/
def tHand : State := onW tTrap fun w =>
  { w with
    frontier := [⟨0x100, 0x80, 0x8, 1⟩, ⟨0x120, 0x80, 0xfffffff7, 0⟩]
    frame := some ⟨⟨⟨0xf, 0, 0, 0⟩, 0x8, 0x100, 4, none⟩, 0x40, 0x8, []⟩ }

/-- The warp diverged: lanes 0 to 15 at 0x100, the others at 0x120. -/
def tSplit : State := onW tS fun w => { w with frontier := [⟨0x100, 0x80, 0xffff, 0⟩, ⟨0x120, 0x80, 0xffff0000, 0⟩] }

/-- Everything that `Issues` asks, with a property of the site, as one check. -/
def issuesIf (i : Instr) (s : State) (p : Site → Bool) : Bool :=
  match s.site i.bytes with
  | some x => x.pending.isNone && !x.stalled i && !x.mxStalled i && (x.check i).isNone &&
      x.poisonMask i == 0 && p x
  | none => false

/-- The check shows the hypotheses of a statement about an instruction. -/
theorem issues_wit {i : Instr} {s : State} {P : Site → Prop} [DecidablePred P]
    (h : issuesIf i s (fun x => decide (P x)) = true) : ∃ x, Issues i s x ∧ P x := by
  unfold issuesIf at h
  split at h
  · next x hx =>
    simp only [Bool.and_eq_true, Option.isNone_iff_eq_none, Bool.not_eq_true', beq_iff_eq,
      decide_eq_true_eq] at h
    exact ⟨x, ⟨hx, h.1.1.1.1.1, h.1.1.1.1.2, h.1.1.1.2, h.1.1.2, h.1.2⟩, h.2⟩
  · cases h

/-- Exposed code has nothing to commit. -/
theorem light_of {x : Site} (h : x.inRegion = false) : x.light := fun e => by rw [h] at e; cases e

end Sys2Proof.Tests
end

