-- ==== Sys2Proof/Tests/Slice0.lean ====
section
/-! SUPPORT. Small tests of the model against the manual's own words: ill-formed instructions are refused, the manual's
worked encodings decode, and its worked results come out. Every expected value is the manual's, or is worked out by
hand from the rule named. -/

namespace Sys2Proof.Tests

open Sys2Proof Sys2Proof.Machine

set_option maxRecDepth 20000
set_option exponentiation.threshold 1200

/-- No guard and no wait mask. -/
def c0 : Ctl := ⟨none, 0⟩

/- ### Ill-formed terms -/

theorem test_wf_scalar_range : (Instr.saddShort 24 0 0).wf = false ∧ (Instr.saddShort 23 0 0).wf = true := by decide

theorem test_wf_pair_is_even : (Instr.add c0 3 2 (.reg 4) .s64 false).wf = false ∧
    (Instr.add c0 4 2 (.reg 4) .s64 false).wf = true := by decide

theorem test_wf_quad_is_aligned : (Instr.ld c0 6 (.vec 4 (.imm 0)) false .relaxed .b128).wf = false := by decide

theorem test_wf_literal_width : (Instr.add c0 3 1 (.lit 0x100000000) .s32 false).wf = false := by decide

theorem test_wf_branch_offset : (Instr.braShort 0).wf = false ∧ (Instr.braLit 2).wf = false := by decide

theorem test_wf_spawn_entry : (Instr.spawn c0 1 2 0x100).wf = false := by decide

theorem test_wf_tern_operand : (Instr.tern c0 1 2 (.imm 3) 4 0xd8 false).wf = false := by decide

theorem test_wf_movk_half : (Instr.movk c0 1 5 2 false).wf = false := by decide

theorem test_wf_lane_index : (Instr.lane 0 1 2 (.imm 32) false).wf = false := by decide

theorem test_wf_special_register : (Instr.sreg c0 (.s 1) 10).wf = false ∧ (Instr.sreg c0 (.s 1) 0).wf = false := by
  decide

theorem test_wf_ftz_needs_32_bits : (Instr.fmin c0 2 4 (.reg 6) true true).wf = false := by decide

theorem test_wf_conversion_of_a_type_to_itself : (Instr.cvtF c0 2 4 .f32 .f32 .rn false).wf = false := by decide

theorem test_wf_sb_gap_clamp_and_scale : (Instr.cvtSb c0 10 1 20 .sb8 .f32 0 63 false 0).wf = false ∧
    (Instr.cvtSb c0 10 1 20 .sb8 .f32 6 64 false 0).wf = false ∧
    (Instr.cvtSb c0 20 1 20 .sb8 .f32 6 63 false 0).wf = false := by decide

theorem test_wf_xsb_rounding : (Instr.cvtXsb c0 10 1 20 .sb8 .f32 .rz false 0).wf = false := by decide

theorem test_wf_ckchk_exponent : (Instr.ckchk c0 0 1 1).wf = false ∧ (Instr.ckchk c0 0 1 0xffd8).wf = true := by decide

theorem test_wf_annotations : (Instr.ld c0 5 (.vec 4 (.imm 0)) false (.rel .pkg) .b32).wf = false ∧
    (Instr.st c0 5 (.vec 4 (.imm 0)) false (.acq .pkg) .b32).wf = false := by decide

theorem test_wf_atomic_sign_and_c : (Instr.atom c0 3 4 0 5 0 .add .relaxed false true false).wf = false ∧
    (Instr.atom c0 3 4 0 5 6 .add .relaxed false false false).wf = false := by decide

theorem test_wf_reduction_operation : (Instr.redM c0 4 0 5 .exch .relaxed false false false).wf = false := by decide

theorem test_wf_tile_format : (Instr.tcfg c0 0 1 2 0x2a false).wf = false := by decide

theorem test_wf_coordinates_exist : (Instr.tload c0 2 1 22 .none none).wf = false := by decide

theorem test_wf_waitk_waits : (Instr.waitk c0 0).wf = false := by decide

theorem test_wf_queue_sides : (Instr.qpush c0 1 8).wf = false ∧ (Instr.qpop c0 8 0).wf = false := by decide

theorem test_wf_accumulator_rows : (Instr.mstr 0 0 1 44 31 33 0 false).wf = false := by decide

theorem test_wf_scale_registers : (Instr.mlds 0 0 253 false 0).wf = false := by decide

theorem test_wf_barrier_count : (Instr.bar 0 .core 2 33 none).wf = false ∧ (Instr.bar 0 .pkg 2 1 none).wf = false := by
  decide

theorem test_wf_tret : (Instr.tret 0 .resume false true none).wf = false ∧
    (Instr.tret 0 .kill true false none).wf = false := by decide

theorem test_wf_csr : (Instr.csrr 0 1 5).wf = false ∧ (Instr.csrw 0 1 2 .wr).wf = false := by decide

/- ### The manual's worked encodings -/

theorem test_decode_short_forms :
    decode [0x02010320] = .ok (.addShort 3 1 2) ∧ decode [0x00000010] = .ok .nopShort ∧
    decode [0x0000000c] = .ok .retShort ∧ decode [0x00000014] = .ok .exitShort ∧ decode [0x000000f8] = .ok .rgnShort ∧
    decode [0xfffff300] = .ok (.braShort 0xfffff3) ∧ decode [0x02010370] = .ok (.faddShort 3 1 2) := by decide

theorem test_decode_literal_forms :
    decode [0x0000074a, 0x12345678, 0] = .ok (.movLit 7 0x12345678) ∧
    decode [0x00000006, 0x03fffdf4, 0] = .ok (.callLit 0x03fffdf4) ∧
    decode [0x00000162, 0, 1] = .ok (.saddLit 1 0 0x100000000) ∧
    decode [0x0008027b, 0x82000000, 0, 0x3f000000, 0] = .ok (.fcmp c0 2 8 (.lit 0x3f000000) .lt false false) ∧
    decode [0x00000867, 0x80010000, 0, 0x40, 0x80] = .ok (.smov 0 8 (.lit 0x8000000040)) := by decide

theorem test_decode_integer :
    decode [0x02010321, 0, 0] = .ok (.add c0 3 1 (.reg 2) .s32 false) ∧
    decode [0x00010321, 0x8000c500, 0x00640000] = .ok (.add ⟨some ⟨true, 5⟩, 0⟩ 3 1 (.imm 100) .s32 false) ∧
    decode [0x09050421, 0x09000000, 0] = .ok (.add c0 4 5 (.reg 9) .n32 true) ∧
    decode [0x00030321, 0x8000c000, 0xffff0000] = .ok (.add ⟨some ⟨true, 0⟩, 0⟩ 3 3 (.imm 0xffff) .s32 false) ∧
    decode [0x03020a25, 0x0003000c, 0] = .ok (.madWide c0 10 2 (.reg 3) 12 true) ∧
    decode [0x0302012d, 0x00040004, 0x00d80000] = .ok (.tern c0 1 2 (.reg 3) 4 0xd8 false) ∧
    decode [0x00020331, 0x80000000, 0x00040000] = .ok (.shl c0 3 2 (.imm 4) false) ∧
    decode [0x00070635, 0x80000000, 0x04080000] = .ok (.bfe c0 6 7 (.imm 0x408) .s32) := by decide

theorem test_decode_comparison_moves_and_lanes :
    decode [0x00040341, 0x92000000, 0] = .ok (.cmp c0 3 4 (.imm 0) .lt .s64) ∧
    decode [0x00000149, 0x80000000, 0x00050000] = .ok (.mov c0 1 (.imm 5) false) ∧
    decode [0x00010255, 0x06000000, 0] = .ok (.vote c0 (.ballot 2) 1 true) ∧
    decode [0x00000069, 0x01030000, 0] = .ok (.sreg c0 (.v 0) 0) := by decide

theorem test_decode_control :
    decode [0x00000001, 0x10004200, 0x001d0000] = .ok (.bra ⟨some ⟨false, 2⟩, 0⟩ (.imm 0x1d) (some 0x10)) ∧
    decode [0x0005021d, 0, 0x00030000] = .ok (.spawn c0 2 5 3) ∧
    decode [0x0014000d, 0x00010000, 0x00001000] = .ok (.callx c0 20 none) ∧
    decode [0x00050009, 0x00010003, 0x00051000] = .ok (.brx c0 5 3 (.imm 5) none) ∧
    decode [0x0004006d, 0x01000000, 0x000d0000] = .ok (.sbra 0 4 (.imm 13) true) := by decide

theorem test_decode_float :
    decode [0x06050471, 0x04030007, 0] = .ok (.fma c0 4 5 (.reg 6) 7 .rz false) ∧
    decode [0x000a087d, 0x28020000, 0] = .ok (.fsqrt c0 8 10 true .ru false) ∧
    decode [0x00030185, 0x00010000, 0x00030000] = .ok (.fcls c0 1 3 false 3) ∧
    decode [0x00020285, 0x82020000, 0xffff0000] = .ok (.fsgn c0 2 2 (.imm 0xffff) false .xs) ∧
    decode [0x03020189, 0x20000004, 0] = .ok (.hfma2 c0 1 2 (.reg 3) 4 true .rn false) ∧
    decode [0x0806048d, 0x00010000, 0] = .ok (.dadd c0 4 6 (.reg 8) .rn) ∧
    decode [0x00010291, 0, 0x00030000] = .ok (.cvtF c0 2 1 .bf16 .f32 .rn false) ∧
    decode [0x00060591, 0x04000000, 0x000c0000] = .ok (.cvtF c0 5 6 .s32 .f32 .rz false) := by decide

theorem test_decode_cross_lane :
    decode [0x00010a95, 0x26000014, 0] = .ok (.cvtSb c0 10 1 20 .sb8 .f32 6 0 false 0) ∧
    decode [0x000707a1, 0x82000000, 0x00010000] = .ok (.xlane c0 7 7 (.imm 1) .fly false none) ∧
    decode [0x000809a5, 0x09000000, 0] = .ok (.red c0 9 8 .fadd) ∧
    decode [0x000203a5, 0x10010000, 0] = .ok (.scan c0 3 2 .addS32 true) ∧
    decode [0x000401a9, 0x03000000, 0] = .ok (.ckacc c0 1 4 .f32 false) ∧
    decode [0x010000a9, 0x00010000, 0xffd80000] = .ok (.ckchk c0 0 1 0xffd8) := by decide

theorem test_decode_memory :
    decode [0x000405b1, 0x04000000, 0x00400000] = .ok (.ld c0 5 (.vec 4 (.imm 0x40)) false .relaxed .b32) ∧
    decode [0x070206b1, 0x65000000, 0x00006000] = .ok (.ld c0 6 (.sca 2 7 2 (.imm 0)) false (.acq .pkg) .b64) ∧
    decode [0x000209b5, 0xac000000, 0x00088000] = .ok (.st c0 9 (.vec 2 (.imm 8)) true (.rel .pod) .b32) ∧
    decode [0x050403b9, 0xe0000000, 0] = .ok (.atom c0 3 4 0 5 0 .add (.ar .pkg) false false false) ∧
    decode [0x0e0c0ab9, 0x04000010, 0x00007000] = .ok (.atom c0 10 12 0 14 16 .cas .relaxed true false false) ∧
    decode [0x050400bd, 0x64000000, 0] = .ok (.waitv c0 4 (.imm 0) 5 .eq (.acq .pkg) false false) ∧
    decode [0x000000c1, 0x68000000, 0x00010000] = .ok (.fence c0 .rel .pod .cp .ls) := by decide

theorem test_decode_tiles_copies_and_queues :
    decode [0x010402c9, 0x01000000, 0x00000800] = .ok (.tload c0 2 1 4 .tr8 (some 0)) ∧
    decode [0x000203cd, 0x05000000, 0x10000900] = .ok (.cp c0 3 2 (.imm 4096) .gs 1) ∧
    decode [0x000000cd, 0x00010000, 0x00000002] = .ok (.waitk ⟨none, 2⟩ 0) ∧
    decode [0x000800d1, 0, 0] = .ok (.qpush c0 0 8) ∧
    decode [0x080700c5, 0, 0x00020000] = .ok (.tcfg c0 0 7 8 2 false) := by decide

theorem test_decode_matrix :
    decode [0x000001e1, 0, 0] = .ok (.mrsv 0 1) ∧ decode [0x000600e1, 0x00020000, 0] = .ok (.mgang 0 6) ∧
    decode [0x000003e1, 0x00030000, 0] = .ok (.mstat 0 3) ∧
    decode [0x280100e5, 0x01000000, 0] = .ok (.mlds 0 1 40 true 0) ∧
    decode [0x000000e5, 0x00010000, 0] = .ok (.mswp 0) ∧
    decode [0x2c0302e5, 0x00020000, 0x201f1000] = .ok (.mstr 0 2 3 44 31 32 1 false) ∧
    decode [0x2c0100e5, 0x01020000, 0] = .ok (.mstr 0 0 1 44 0 0 0 true) ∧
    decode [0x000108e9, 0, 0x03050000] = .ok (.mrd 0 8 1 5 3) ∧
    decode [0x020000e9, 0x80020008, 0x003f0a00] = .ok (.mstM 0 0 2 8 63 0 0 2) ∧
    decode [0x000000e9, 0x01030000, 0] = .ok (.mclr 0 none) := by decide

theorem test_decode_barriers_and_interrupts :
    decode [0x000000f1, 0x08000002, 0] = .ok (.bar 0 .core 2 0 none) ∧
    decode [0x000001f1, 0x29000000, 0] = .ok (.bar 0 .pod 0 0 (some 1)) ∧
    decode [0x000003f1, 0x08010001, 0x00040000] = .ok (.barArr 0 3 .core 1 4) ∧
    decode [0x000300f1, 0x08020001, 0] = .ok (.barWt 0 .core 1 3 none) ∧
    decode [0x060400f1, 0x00030000, 0] = .ok (.psub c0 4 6) ∧
    decode [0x000502f1, 0x00040000, 0] = .ok (.pyld c0 2 5) ∧
    decode [0x000201f5, 0, 0] = .ok (.uibind 0 1 2 false) ∧
    decode [0x050400f5, 0x00010000, 0] = .ok (.uisend c0 4 5) ∧
    decode [0x000000f5, 0x00020000, 0] = .ok (.uiwait 0) ∧
    decode [0x000807f5, 0x02030000, 0] = .ok (.uimask 0 7 8 .clr) ∧
    decode [0x000003f5, 0x00040000, 0] = .ok (.uiret 0 3) := by decide

theorem test_decode_regions_and_handlers :
    decode [0x000000f9, 0x00010000, 0] = .ok (.rgnx 0) ∧ decode [0x000000f9, 0x00020000, 0] = .ok (.npe 0) ∧
    decode [0x000000f9, 0x00030000, 0] = .ok (.pe 0) ∧
    decode [0x020704f9, 0x00040000, 0] = .ok (.lnrd 0 4 (.v 7 false) (.reg 2)) ∧
    decode [0x000507f9, 0x08050000, 0x00030000] = .ok (.lnwr 0 (.v 7 false) 5 (.imm 3)) ∧
    decode [0x000000f9, 0x01060000, 0] = .ok (.tret 0 .skip false false none) ∧
    decode [0x000000f9, 0x18060000, 0] = .ok (.tret 0 .resume true true none) ∧
    decode [0x000003f9, 0x00070000, 0] = .ok (.csrr 0 3 0) ∧
    decode [0x000600f9, 0x02080000, 0] = .ok (.csrw 0 0 6 .clr) ∧
    decode [0x000001f9, 0x00070000, 0x00100000] = .ok (.csrr 0 1 0x10) := by decide

/-- R102, R107: an all-zero word, a reserved BK and an unassigned OPC decode to nothing. -/
theorem test_decode_refuses :
    decode [0x00000000] = .error .illFormed ∧ decode [0x00010321, 0xc000c500, 0x00640000] = .error .unassigned ∧
    decode [0x0000005d, 0, 0] = .error .unassigned := by decide

/- ### The manual's worked results -/

/-- The loaded program with lane 0 alone at 0x100 and registers of it set. -/
def one (f : Warp → Warp) : State := onW tS fun w => f { w with frontier := [⟨0x100, 0x80, 1, 0⟩] }

/-- The loaded program's warp after an instruction. -/
def after (i : Instr) (s : State) : Option Warp :=
  match exec i s with
  | .next t => t.warpAt (0x1000000, 0)
  | _ => none

/-- A register of lane l after an instruction. -/
def lane (i : Instr) (s : State) (r l : Nat) : Option Word := (after i s).map fun w => w.vget r l

/-- Registers 2 and 4 of lane 0. -/
def two (x y : Word) : State := one fun w => (w.vset 2 0 x).vset 4 0 y

theorem test_add : lane (.add c0 6 2 (.reg 4) .s32 false) (two 0x7ffffff0 0x20) 6 0 = some 0x80000010 := by decide

theorem test_add_saturates : lane (.add c0 6 2 (.reg 4) .s32 true) (two 0x7ffffff0 0x20) 6 0 = some 0x7fffffff := by
  decide

theorem test_sub_saturates : lane (.sub c0 6 2 (.reg 4) .n32 true) (two 5 9) 6 0 = some 0 := by decide

theorem test_mulHi_signed : lane (.mulHi c0 6 2 (.reg 4) .s32) (two 0xfffffffe 3) 6 0 = some 0xffffffff := by decide

theorem test_mulHi_unsigned : lane (.mulHi c0 6 2 (.reg 4) .n32) (two 0xfffffffe 3) 6 0 = some 2 := by decide

theorem test_madWide :
    let s := one fun w => ((w.vset 2 0 0xffffffff).vset 4 0 0xffffffff).vset64 8 0 1
    (after (.madWide c0 6 2 (.reg 4) 8 false) s).map (fun w => (w.vget 6 0, w.vget 7 0)) = some (2, 0xfffffffe) := by
  decide

theorem test_abs : lane (.abs c0 6 2 false false) (two 0x80000000 0) 6 0 = some 0x80000000 ∧
    lane (.abs c0 6 2 false true) (two 0x80000000 0) 6 0 = some 0x7fffffff := by decide

theorem test_bfe : lane (.bfe c0 6 2 (.imm 0x804) .s32) (two 0xa50 0) 6 0 = some 0xffffffa5 ∧
    lane (.bfe c0 6 2 (.imm 0x804) .n32) (two 0xa50 0) 6 0 = some 0xa5 := by decide

theorem test_shifts_beyond_the_width : lane (.sar c0 6 2 (.reg 4) false) (two 0x80000000 40) 6 0 = some 0xffffffff ∧
    lane (.shr c0 6 2 (.reg 4) false) (two 0x80000000 40) 6 0 = some 0 := by decide

theorem test_clz : lane (.clz c0 6 2 false) (two 0x100 0) 6 0 = some 23 := by decide

theorem test_tern :
    let s := one fun w => ((w.vset 2 0 0xff00ff00).vset 4 0 0xf0f0f0f0).vset 8 0 0xcccccccc
    lane (.tern c0 6 2 (.reg 4) 8 0xd8 false) s 6 0 = some 0xf0ccf0cc := by decide

theorem test_cvtI : lane (.cvtI c0 6 2 .s8 .s32) (two 300 0) 6 0 = some 0x7f ∧
    lane (.cvtI c0 6 2 .n16 .s32) (two 0xfffffffb 0) 6 0 = some 0 ∧
    lane (.cvtI c0 6 2 .s32 .n32) (two 0x80000000 0) 6 0 = some 0x7fffffff := by decide

/-- R99: a false guard leaves the register; R142: the warp moves past the instruction either way. -/
theorem test_guard_false :
    (after (.add ⟨some ⟨false, 5⟩, 0⟩ 6 2 (.reg 4) .s32 false) (two 1 2)).map (fun w =>
      (w.vget 6 0, w.frontier.map (·.pc))) = some (0, [0x10c]) := by decide

/-- R158: −1 is below 0 signed and above it unsigned. -/
theorem test_cmp :
    (after (.cmp c0 3 2 (.imm 0) .lt .s32) (two 0xffffffff 0)).map (·.pbit 3 0) = some true ∧
    (after (.cmp c0 3 2 (.imm 0) .lt .n32) (two 0xffffffff 0)).map (·.pbit 3 0) = some false := by decide

/-- R160: a short `mov` copies; `movk` writes one halfword. -/
theorem test_moves : lane (.movLit 6 0x12345678) (two 0 0) 6 0 = some 0x12345678 ∧
    lane (.movk c0 2 0xabcd 1 false) (two 0x11112222 0) 2 0 = some 0xabcd2222 := by decide

/-- R163: a ballot is the mask of the acting lanes in which the predicate holds. -/
theorem test_vote : (after (.vote c0 (.ballot 5) 1 true) (onW tS fun w => w.pset 1 0xffffffff 0xff)).map (·.sget 5) =
    some 0xffffff00 := by decide

/-- R164: `pcnt.pre` counts the lanes below. -/
theorem test_pcnt : lane (.pcnt c0 6 1 false true) (onW tS fun w => w.pset 1 0xffffffff 0xf0) 6 7 = some 3 := by decide

/-- R165: scalar addition wraps at 64 bits. -/
theorem test_sadd : (after (.saddShort 3 4 5) (onW tS fun w => (w.sset 4 0xffffffffffffffff).sset 5 2)).map
    (·.sget 3) = some 1 := by decide

/-- R144: a scalar read in a diverged warp parks the acting lanes with PARK 1 where there is a handler. -/
theorem test_divscalar :
    let s := onW tTrap fun w => { w with frontier := [⟨0x100, 0x80, 0xffff, 0⟩, ⟨0x120, 0x80, 0xffff0000, 0⟩] }
    (after (.saddShort 3 4 5) s).bind (·.frame.map fun f => (f.trap.words.w0.toNat % 256, f.tmask)) =
      some (TrapCode.divscalar.num.toNat, 0xffff) := by decide

/-- R105: the offset of a short branch counts words from the end of the instruction. -/
theorem test_bra :
    (after (.braShort 0xfffff3) (onW tS fun w => { w with frontier := [⟨0x140, 0x80, 0xffffffff, 0⟩] })).map (fun w =>
      w.frontier.map (·.pc)) = some [0x110] := by decide

/-- R147, R148: a call pushes the return offset of each lane, and a return takes it. -/
theorem test_call_and_return :
    (after (.callShort 7) tS).map (fun w => (w.frontier.map (·.pc), w.cs.map fun e => (e.pend, e.retoff.head?))) =
      some ([0x120], [(0xffffffff, some (0, 4))]) := by decide

/-- R149: the acting lanes exit, and the others stay. -/
theorem test_exit : (after .exitShort tSplit).map (fun w => (w.exited, w.frontier.map (·.mask))) =
    some (0xffff, [0xffff0000]) := by decide

/-- 1.0 + 2.0 = 3.0 (R188), and 1.0 + 2^-24 rounds to even, inexact (R178, R181). -/
theorem test_fadd : lane (.faddShort 6 2 4) (two 0x3f800000 0x40000000) 6 0 = some 0x40400000 ∧
    lane (.faddShort 6 2 4) (two 0x3f800000 0x33800000) 6 0 = some 0x3f800000 := by decide

/-- R177: the same sum rounded up is the next number. -/
theorem test_fadd_up : lane (.fadd c0 6 2 (.reg 4) .ru false) (two 0x3f800000 0x33800000) 6 0 = some 0x3f800001 := by
  decide

/-- R190: −0 equals +0. -/
theorem test_fcmp : (after (.fcmp c0 2 2 (.reg 4) .eq false false) (two 0x80000000 0)).map (·.pbit 2 0) =
    some true := by decide

/-- R191: the square root of 4 is 2. -/
theorem test_fsqrt : lane (.fsqrt c0 6 2 false .rn false) (two 0x40800000 0) 6 0 = some 0x40000000 := by decide

/-- The block of R173's example, in lanes 0 to 4 of v1, with v20 as R196 has it. -/
def sbBlock : State :=
  onW tS fun w => ((((((w.vset 1 0 0x41480000).vset 1 1 0x3e99999a).vset 1 2 0x3e4ccccd).vset 1 3 0xbd400000).vset 1 4
    0x3727c5ac).vset 20 0 0x11111111).vset 20 31 0x11111111

/-- R196: the elements that the example packs, and its scale bytes. -/
theorem test_cvtSb :
    (after (.cvtSb c0 10 1 20 .sb8 .f32 6 63 false 0) sbBlock).map (fun w =>
      ((List.range 5).map fun l => w.vget 10 l, w.vget 20 0, w.vget 20 31)) =
      some ([0xb2, 0x81, 0x33, 0x4c, 0], 0x1111827c, 0x1111827c) := by decide

/-- R196: what the example unpacks to. -/
theorem test_cvtXsb :
    let s := onW tS fun w => ((((((((w.vset 10 0 0xb2).vset 10 1 0x81).vset 10 2 0x33).vset 10 3 0x4c).vset 20 0
      0x1111827c).vset 20 1 0x1111827c).vset 20 2 0x1111827c).vset 20 3 0x1111827c)
    (after (.cvtXsb c0 11 10 20 .sb8 .f32 .rn false 0) s).map (fun w => (List.range 4).map fun l => w.vget 11 l) =
      some [0x41480000, 0x3e800000, 0x3e4c0000, 0xbd400000] := by decide

/-- R198: a positive count under `.sft` moves values to higher lanes, and lane 0 keeps its own. -/
theorem test_xlane :
    let s := onW tS fun w => ((w.vset 2 0 7).vset 2 1 8).vset 2 2 9
    (after (.xlane c0 6 2 (.imm 1) .sft false (some 3)) s).map (fun w =>
      (w.vget 6 0, w.vget 6 1, w.vget 6 2, w.pbit 3 0, w.pbit 3 1)) = some (7, 7, 8, false, true) := by decide

/-- R199: every acting lane receives the sum, and an exclusive scan the sum of the lanes below. -/
theorem test_red_and_scan :
    let s := onW tS fun w => ((w.vset 2 0 7).vset 2 1 8).vset 2 31 9
    lane (.red c0 6 2 .addS32) s 6 5 = some 24 ∧ lane (.scan c0 6 2 .addS32 true) s 6 31 = some 15 := by decide

/-- R202: an integer checksum adds the acting lanes' values. -/
theorem test_ckacc : (after (.ckacc c0 1 2 .s32 false) (onW tS fun w => (w.vset 2 0 7).vset 2 3 0xfffffffe)).map
    (·.ckget 1) = some 5 := by decide

/-- R243: a store's bytes lie little-endian, and only at its address. -/
theorem test_st :
    (match exec (.st c0 2 (.vec 4 (.imm 8)) false .relaxed .b32)
        (onW tRW fun w => { (w.vset 2 0 0x04030201).vset 4 0 0x400 with frontier := [⟨0x100, 0x80, 1, 0⟩] }) with
      | .next t => t.dram.bytes 0x20407 6
      | _ => []) = [0, 1, 2, 3, 4, 0] := by decide

/-- R215: a misaligned atomic raises ALIGN. -/
theorem test_atom_misaligned :
    (after (.atom c0 6 4 1 2 0 .add .relaxed false false false) (onW tTrap fun w =>
      { w.vset 4 0 0x400 with frontier := [⟨0x100, 0x80, 1, 0⟩] })).bind
        (·.frame.map fun f => f.trap.words.w0.toNat % 256) = some TrapCode.align.num.toNat := by decide

/-- R324, R358: `rgn` opens a region behind itself; a store in it is held (R235). -/
theorem test_region :
    (after .rgnShort tRW).map (fun w => (w.rgn.inrgn, w.rgn.rgnoff)) = some (true, 4) ∧
    (match exec (.st c0 2 (.vec 4 (.imm 0)) false .relaxed .b32) (onW tRgn fun w =>
        { (w.vset 2 0 5).vset 4 0 0x400 with frontier := [⟨0x100, 0x80, 1, 0⟩] }) with
      | .next t => (t.dram.byte 0x20400, (t.warpAt (0x1000000, 0)).map fun w => w.stores.length)
      | _ => (9, none)) = (0, some 1) := by decide

/-- R152: `trap` parks the acting lanes and its code stands in the record. -/
theorem test_trap :
    (after (.trap c0 0x1234) tTrap).bind (·.frame.map fun f => (f.trap.words.w0.toNat % 256, f.trap.lanes, f.hoff)) =
      some (TrapCode.trapi.num.toNat, 0xffffffff, 0x40) := by decide

/-- R361: `tret.skip` stands the lane behind the trapped instruction. -/
theorem test_tret_skip :
    (after (.tret 0 .skip false false none) tHand).map (fun w => (w.frame.isNone, w.stands 3)) =
      some (true, some (0x104, 0)) := by
  decide

/-- R299: the block's only warp completes a `.core` barrier, and its lanes go on. -/
theorem test_bar :
    (after (.bar 0 .core 2 0 none) tS).map (fun w => w.frontier.map fun e => (e.pc, e.park)) = some [(0x10c, 0)] := by
  decide

/-- R277: the one warp of a block reserves the engine at once. -/
theorem test_mrsv : (after (.mrsv 0 1) tS).map (·.pbit 1 0) = some true := by decide

/-- R318: `uiwait` in a warp without a bound vector writes `s0` and moves on. -/
theorem test_uiwait_unbound :
    (after (.uiwait 0) tS).map (fun w => (w.sget 0, w.frontier.map fun e => (e.pc, e.park))) =
      some (0xffffffffffffffff, [(0x10c, 0)]) := by decide

end Sys2Proof.Tests
end

