-- ==== Sys2Proof/Tests/Steady.lean ====
section
/-! SUPPORT. The first page of the loaded program's context lies at 0x20000 of bonded DRAM and stays there while
its five table entries are not written: what the hypotheses about steady translations ask. -/

namespace Sys2Proof.Tests

open Sys2Proof Sys2Proof.Machine

set_option maxRecDepth 20000

/-- A memory holds the five entries of the walk to the loaded program's first page. -/
def tables (m : Memory) : Bool :=
  m.bytes 0x10000 8 == tRW.dram.bytes 0x10000 8 && m.bytes 0x11000 8 == tRW.dram.bytes 0x11000 8 &&
    m.bytes 0x12000 8 == tRW.dram.bytes 0x12000 8 && m.bytes 0x13000 8 == tRW.dram.bytes 0x13000 8 &&
    m.bytes 0x14000 8 == tRW.dram.bytes 0x14000 8

theorem bytes_congr {m m' : Memory} (n : Nat) : ∀ a, (∀ k, a ≤ k → k < a + n → m.byte k = m'.byte k) →
    m.bytes a n = m'.bytes a n := by
  induction n with
  | zero => intro a _; rfl
  | succ n ih =>
    intro a h
    simp only [Memory.bytes]
    rw [h a (by omega) (by omega), ih (a + 1) fun k h1 h2 => h k (by omega) (by omega)]

/-- One level of a walk in bonded DRAM whose entry points to the next table. -/
theorem walk_pointer {s : State} {ctx va pos n off next : Nat} {acc : Access} {leaf : Bool}
    {rest : List (Nat × Nat × Bool)} {e : DWord}
    (he : s.dram.word64 (off + 8 * (va / 2 ^ pos % 2 ^ n)) = e) (h1 : off % 2 ^ (n + 3) = 0)
    (h2 : off < Config.dramSize) (h3 : e.getLsbD 0 = true) (h4 : e.extractLsb' 1 3 = 0#3)
    (h5 : (e.extractLsb' 60 4 != 0#4 || e.extractLsb' 56 2 != 0#2 || e.extractLsb' 4 4 != 0#4) = false)
    (h6 : (e.extractLsb' 58 2).toNat = 0) (h7 : (e.extractLsb' 8 48).toNat * 2 ^ 8 = next)
    (h8 : next < Config.dramSize) :
    walk s ctx va acc ((pos, n, leaf) :: rest) 0 off = walk s ctx va acc rest 0 next := by
  have ht : (s.tier 0).word64 (off + 8 * (va / 2 ^ pos % 2 ^ n)) = e := he
  rw [walk]
  simp only [ht, h3, h4, h5, h6, h7, h1]
  simp
  rw [if_neg (Nat.not_le.2 h2), if_neg (Nat.not_le.2 h8)]

/-- The last level, whose entry is a leaf. -/
theorem walk_leaf {s : State} {ctx va pos n off : Nat} {acc : Access} {rest : List (Nat × Nat × Bool)}
    {e : DWord} (he : s.dram.word64 (off + 8 * (va / 2 ^ pos % 2 ^ n)) = e) (h1 : off % 2 ^ (n + 3) = 0)
    (h2 : off < Config.dramSize) (h3 : e.getLsbD 0 = true) (h4 : e.extractLsb' 1 3 ≠ 0#3) :
    walk s ctx va acc ((pos, n, true) :: rest) 0 off = leafPage s ctx e va pos acc true := by
  have ht : (s.tier 0).word64 (off + 8 * (va / 2 ^ pos % 2 ^ n)) = e := he
  rw [walk]
  simp only [ht, h3, if_neg h4, h1]
  simp
  exact fun h => absurd h2 (Nat.not_lt.2 h)

theorem page_of_tables {s : State} {c : Ctx} {va : Nat} {acc : Access} (h : tables s.dram = true)
    (ht : c.rootTier = 0) (ho : c.rootOff = 0x10000) (hv : va < 2 ^ 16) (ha : acc = .load ∨ acc = .store) :
    s.page c va acc = .ok ⟨0, 0, 0x20000⟩ := by
  simp only [tables, Bool.and_eq_true, beq_iff_eq] at h
  obtain ⟨⟨⟨⟨h1, h2⟩, h3⟩, h4⟩, h5⟩ := h
  have w1 : s.dram.word64 0x10000 = 0x11001 := by unfold Memory.word64; rw [h1]; decide
  have w2 : s.dram.word64 0x11000 = 0x12001 := by unfold Memory.word64; rw [h2]; decide
  have w3 : s.dram.word64 0x12000 = 0x13001 := by unfold Memory.word64; rw [h3]; decide
  have w4 : s.dram.word64 0x13000 = 0x14001 := by unfold Memory.word64; rw [h4]; decide
  have w5 : s.dram.word64 0x14000 = 0x2000f := by unfold Memory.word64; rw [h5]; decide
  have i1 : va / 2 ^ 48 = 0 := by omega
  have i2 : va / 2 ^ 39 = 0 := by omega
  have i3 : va / 2 ^ 30 = 0 := by omega
  have i4 : va / 2 ^ 21 = 0 := by omega
  have i5 : va / 2 ^ 16 = 0 := by omega
  have s1 : s.page c va acc = walk s c.num va acc (walkLevels.drop 1) 0 0x11000 := by
    unfold State.page
    rw [ht, ho]
    exact walk_pointer (e := 0x11001) (by rw [i1]; exact w1) (by decide) (by decide) (by decide) (by decide) (by decide)
      (by decide) (by decide) (by decide)
  have s2 : walk s c.num va acc (walkLevels.drop 1) 0 0x11000 = walk s c.num va acc (walkLevels.drop 2) 0 0x12000 :=
    walk_pointer (e := 0x12001) (by rw [i2]; exact w2) (by decide) (by decide) (by decide) (by decide) (by decide)
      (by decide) (by decide) (by decide)
  have s3 : walk s c.num va acc (walkLevels.drop 2) 0 0x12000 = walk s c.num va acc (walkLevels.drop 3) 0 0x13000 :=
    walk_pointer (e := 0x13001) (by rw [i3]; exact w3) (by decide) (by decide) (by decide) (by decide) (by decide)
      (by decide) (by decide) (by decide)
  have s4 : walk s c.num va acc (walkLevels.drop 3) 0 0x13000 = walk s c.num va acc (walkLevels.drop 4) 0 0x14000 :=
    walk_pointer (e := 0x14001) (by rw [i4]; exact w4) (by decide) (by decide) (by decide) (by decide) (by decide)
      (by decide) (by decide) (by decide)
  have s5 : walk s c.num va acc (walkLevels.drop 4) 0 0x14000 = leafPage s c.num 0x2000f va 16 acc true :=
    walk_leaf (e := 0x2000f) (by rw [i5]; exact w5) (by decide) (by decide) (by decide) (by decide)
  rw [s1, s2, s3, s4, s5]
  have hw : va % 2 ^ 16 / 2 ^ 16 * 2 ^ 16 = 0 := by omega
  unfold leafPage
  rw [hw]
  rcases ha with rfl | rfl <;> rfl

/-- The first page stays where it is while no range written touches its walk. -/
theorem steadyOver_of {s : State} {rs : List (Nat × Nat)} {c : Ctx} {va n p : Nat} (hp : s.poison = [])
    (hd : tables s.dram = true) (ht : c.rootTier = 0) (ho : c.rootOff = 0x10000) (hv : va + n ≤ 2 ^ 16)
    (hr : ∀ r ∈ rs, r.1 + r.2 ≤ 0x10000 ∨ 0x15000 ≤ r.1) (e : p = 0x20000 + va) :
    s.steadyOver rs c va n p := by
  subst e
  refine ⟨hp, fun s' _ _ _ _ hs via off len acc hl hn ha => ?_⟩
  have hk : ∀ a, 0x10000 ≤ a → a < 0x15000 → s'.dram.byte a = s.dram.byte a := fun a h1 h2 =>
    hs a fun r hm => by have := hr r hm; omega
  have ht' : tables s'.dram = true := by
    simp only [tables, Bool.and_eq_true, beq_iff_eq] at hd ⊢
    obtain ⟨⟨⟨⟨h1, h2⟩, h3⟩, h4⟩, h5⟩ := hd
    refine ⟨⟨⟨⟨?_, ?_⟩, ?_⟩, ?_⟩, ?_⟩
    · rw [← h1]; exact bytes_congr 8 _ fun k _ _ => hk k (by omega) (by omega)
    · rw [← h2]; exact bytes_congr 8 _ fun k _ _ => hk k (by omega) (by omega)
    · rw [← h3]; exact bytes_congr 8 _ fun k _ _ => hk k (by omega) (by omega)
    · rw [← h4]; exact bytes_congr 8 _ fun k _ _ => hk k (by omega) (by omega)
    · rw [← h5]; exact bytes_congr 8 _ fun k _ _ => hk k (by omega) (by omega)
  have hpg := page_of_tables (va := va + off) (acc := acc) ht' ht ho (by omega) ha
  refine ⟨0, ?_⟩
  unfold pageFuel
  have hdev : inDevice (va + off) = false := by
    unfold inDevice devBase
    rw [decide_eq_false (by omega)]
    rfl
  have hroom : Nat.min len (2 ^ 16 - (va + off) % 2 ^ 16) = len := Nat.min_eq_left (by omega)
  have hz : State.pieces s' c via acc (len / 2 ^ 16 + 1) (va + off + len) 0 = ([], none) := by
    simp [State.pieces]
  rw [State.pieces]
  simp only [hpg, hdev, hroom, Nat.sub_self, hz]
  rw [if_neg (by omega), if_neg (by omega), if_neg (by omega)]
  have hv : (!via.reaches ⟨0, 0, 0x20000⟩) = false := by cases via <;> rfl
  simp only [hv, Bool.false_eq_true, if_false]
  have : 0x20000 + (va + off) % 2 ^ 16 = 0x20000 + va + off := by omega
  rw [this]

end Sys2Proof.Tests
end

