-- ==== Sys2Proof/Tests/Witness.lean ====
section
/-! SUPPORT. Witnesses for the statements about the instructions that compute and those that move control:
states and operands that meet all the hypotheses of a statement, clause by clause. -/

namespace Sys2Proof.Tests

open Sys2Proof Sys2Proof.Machine

set_option maxRecDepth 20000

/-- An instruction issues with lanes 0 to 7 guarded in. -/
def c7 : Ctl := ⟨some ⟨false, 1⟩, 0⟩

/-- The warp with p1 true in lanes 0 to 7. -/
def tG : State := onW tS fun w => w.pset 1 0xffffffff 0xff

/- ### Computing -/

theorem witness_IntegerArithmeticResults :
    (∃ x, Issues (.add c7 3 1 (.imm 100) .s32 true) tG x ∧ x.acting c7 = 0xff) ∧
    (∃ x, Issues (.mad Ctl.none 4 2 (.lit 7) 6 .n64) tS x ∧ x.acting Ctl.none = 0xffffffff) ∧
    ∃ x, Issues (.abs c7 255 0 false true) tG x ∧ x.acting c7 = 0xff :=
  ⟨issues_wit (by decide), issues_wit (by decide), issues_wit (by decide)⟩

theorem witness_LogicAndShiftResults :
    (∃ x, Issues (.tern c7 3 1 (.reg 2) 4 0xe8 false) tG x ∧ x.acting c7 = 0xff) ∧
    ∃ x, Issues (.sar c7 2 0 (.imm 64) true) tG x ∧ x.acting c7 = 0xff :=
  ⟨issues_wit (by decide), issues_wit (by decide)⟩

theorem witness_BitFieldResults :
    (∃ x, Issues (.bfe c7 3 1 (.imm 0x0804) .s32) tG x ∧ x.acting c7 = 0xff) ∧
    ∃ x, Issues (.clz c7 255 0 true) tG x ∧ x.acting c7 = 0xff :=
  ⟨issues_wit (by decide), issues_wit (by decide)⟩

theorem witness_SelectCompareMoveResults :
    (∃ x, Issues (.cmp c7 63 1 (.reg 2) .ge .s64) tG x ∧ x.acting c7 = 0xff) ∧
    ∃ x, Issues (.cvtI c7 3 1 .n16 .s32) tG x ∧ x.acting c7 = 0xff :=
  ⟨issues_wit (by decide), issues_wit (by decide)⟩

theorem witness_PredicateAndVoteResults :
    (∃ x, Issues (.pand c7 2 1 63 true false) tG x ∧ x.acting c7 = 0xff) ∧
    (∃ x, Issues (.vote c7 (.ballot 23) 1 false) tG x ∧ x.acting c7 = 0xff) ∧
    ∃ x, Issues (.pcnt c7 4 1 false true) tG x ∧ x.acting c7 = 0xff :=
  ⟨issues_wit (by decide), issues_wit (by decide), issues_wit (by decide)⟩

theorem witness_ScalarPipeResults :
    (∃ x, Issues (.sshr 0 23 0 (.imm 64) true) tS x ∧ x.conv = true) ∧
    (∃ x, Issues (.sreg Ctl.none (.s 5) 0x10) tS x ∧ x.conv = true) ∧
    ∃ x, Issues (.bcast c7 2 0 true) tG x ∧ x.acting c7 = 0xff :=
  ⟨issues_wit (by decide), issues_wit (by decide), issues_wit (by decide)⟩

theorem witness_ChecksumInstructions :
    (∃ x, Issues (.ckacc c7 3 1 .s32 true) tG x ∧ x.acting c7 = 0xff) ∧
    (∃ x, Issues (.ckchk c7 0 1 0) (onW (onG tG fun g =>
        { g with img := { g.img with desc := { g.img.desc with trapent := 0x40 } } })
          fun w => { w with ckmode := 2 }) x ∧
      x.acting c7 ≠ 0 ∧ x.handler = false ∧ x.w.utraps = [] ∧ x.g.img.desc.trapent ≠ 0xffffffff ∧
      x.w.ckmode.getLsbD 0 ≠ x.w.ckmode.getLsbD 1) ∧
    (∃ x, Issues (.ckchk Ctl.none 0 1 0) (onW tTrap fun w => w.ckset 1 5) x ∧
      x.acting Ctl.none ≠ 0 ∧ x.handler = false ∧ x.w.utraps = [] ∧ x.g.img.desc.trapent ≠ 0xffffffff ∧
      x.w.ckmode.getLsbD 0 = false ∧ x.w.ckmode.getLsbD 1 = false ∧ x.w.ckget 0 ≠ x.w.ckget 1) ∧
    (∃ x, Issues (.ckchk Ctl.none 0 1 0) tS x ∧
      x.w.ckmode.getLsbD 0 = false ∧ x.w.ckmode.getLsbD 1 = false ∧ x.w.ckget 0 = x.w.ckget 1) ∧
    ∃ x, Issues (.ckchk c7 0 1 0) tS x ∧ x.acting c7 = 0 :=
  ⟨issues_wit (by decide), issues_wit (by decide), issues_wit (by decide), issues_wit (by decide),
    issues_wit (by decide)⟩

theorem witness_FloatInstructionsComplete :
    (∃ x, Issues (.fma c7 3 1 (.lit 0x3f800000) 2 .rd true) tG x ∧ x.acting c7 = 0xff) ∧
    (∃ x, Issues (.dadd c7 2 0 (.reg 4) .ru) tG x ∧ x.acting c7 = 0xff) ∧
    ∃ x, Issues (.fcmp c7 5 1 (.reg 2) .lt false true) tG x ∧ x.acting c7 = 0xff :=
  ⟨issues_wit (by decide), issues_wit (by decide), issues_wit (by decide)⟩

theorem witness_SelectorBlockConversions :
    (∃ x, Issues (.cvtXsb c7 3 1 2 .sb8 .f32 .rn true 3) tG x ∧ x.acting c7 = 0xff) ∧
    (3 : BitVec 8) ≠ 4 ∧
    ∃ x, Issues (.cvtSb Ctl.none 3 1 4 .sb4 .f32 2 0 true 3) tS x ∧ x.acting Ctl.none = 0xffffffff :=
  ⟨issues_wit (by decide), by decide, issues_wit (by decide)⟩

theorem witness_FloatArithmeticIsRounded :
    (0 < 1 ∧ ((F32.round .rn false 1 0 false).2.getLsbD 1 = false) ∧ FpValue F32 0x3f800000 1) ∧
    (F32.round .rn false 1 200 false).2.getLsbD 1 = true ∧
    (F64.decode 0x7ff8000000000000).isNan = true ∧
    (F32.decode 0x7f800000 = .inf false ∧ F32.decode 0xff800000 = .inf (!false) ∧ FpValue F32 0 0) ∧
    (0x3f800000 < 2 * F32.signW ∧ 0x7f800001 < 2 * F32.signW ∧ F32.decode 0x7f800001 = .nan true ∧
      (F32.decode 0x3f800000).isNan = false) :=
  ⟨⟨by decide, by decide, false, 2 ^ 23, -23, by decide, by norm_num⟩, by decide, by decide,
    ⟨by decide, by decide, false, 0, -149, by decide, by norm_num⟩, by decide, by decide, by decide,
    by decide⟩

theorem witness_LaneExchangeResults :
    (∃ x, Issues (.xlane c7 3 1 (.imm 1) .sft true (some 2)) tG x ∧ x.acting c7 = 0xff) ∧
    ∃ x, Issues (.matchLanes c7 3 1 true false) tG x ∧ x.acting c7 = 0xff :=
  ⟨issues_wit (by decide), issues_wit (by decide)⟩

theorem witness_ReductionResults :
    (∃ x, Issues (.red c7 4 8 .fadd) tG x ∧ x.acting c7 = 0xff) ∧
    ∃ x, Issues (.scan c7 4 8 .dadd true) tG x ∧ x.acting c7 = 0xff :=
  ⟨issues_wit (by decide), issues_wit (by decide)⟩

/- ### Control flow -/

theorem witness_BranchTargetsAndPriorities :
    (∃ x, Issues (.bra c7 (.imm 0x1d) (some 0x10)) tG x ∧ x.handler = false ∧ x.acting c7 = 0xff ∧
      x.g.legalPc (x.after + branchOff (.imm 0x1d)) = true) ∧
    (∃ x, Issues (.bra c7 (.imm 0x7fff) none) tG x ∧ x.handler = false ∧
      x.g.legalPc (x.after + branchOff (.imm 0x7fff)) = false) ∧
    (∃ x, Issues (.braShort 1) tHand x ∧ x.handler = true) ∧
    (∃ x, Issues (.brx c7 1 7 (.imm 4) none) tG x ∧ x.acting c7 = 0xff) ∧
    (∃ x, Issues (.sbra 0 1 (.imm 4) true) tS x ∧ x.w.sget 1 = 0) ∧
    (∃ x, Issues (.bra ⟨none, 0⟩ (.imm 4) (some 7)) tS x ∧
      x.w.frontier = [⟨0x100, 0x80, 0xffffffff, 0⟩] ∧ x.handler = false ∧
      x.g.legalPc (x.after + branchOff (.imm 4)) = true) ∧
    (∃ x, Issues (.join 0 9) (onW tS fun w =>
        { w with frontier := [⟨0x120, 0x80, 0xffff, 0⟩, ⟨0x100, 0x20, 0xffff0000, 0⟩] }) x ∧
      x.handler = false ∧ ∃ e ∈ x.w.frontier, e.park = 0 ∧ e.pc.toNat < x.pc.toNat) ∧
    (∃ x, Issues (.join 0 9) tSplit x ∧ x.handler = false ∧
      ∀ e ∈ x.w.frontier, e.park = 0 → x.pc.toNat ≤ e.pc.toNat) ∧
    ∃ x, Issues (.join 0 9) tS x ∧ x.w.frontier = [⟨0x100, 0x80, 0xffffffff, 0⟩] ∧
      x.after.toNat < x.g.codeEnd.toNat :=
  ⟨issues_wit (by decide), issues_wit (by decide), issues_wit (by decide), issues_wit (by decide),
    issues_wit (by decide), issues_wit (by decide), issues_wit (by decide), issues_wit (by decide),
    issues_wit (by decide)⟩

/-- A warp whose lanes 0 to 7 have been called from 0x40. -/
def tCalled : State := onW tG fun w => { w with cs := [⟨0xff, 0x10, (List.range 8).map fun l => (l, 0x40)⟩] }

theorem witness_CallsAndReturns :
    (∃ x, Issues (.call c7 (.imm 4) none) tG x ∧ x.light ∧ x.w.csM = 0 ∧ x.w.cs.length < 4 ∧
      x.g.legalPc (x.after + branchOff (.imm 4)) = true) ∧
    (∃ x, Issues (.callShort 5) (onW tS fun w => { w with cs := List.replicate 3 ⟨1, 0, []⟩ }) x ∧
      x.light ∧ x.w.csM = 0 ∧ x.w.cs.length < 4) ∧
    (∃ x, Issues (.ret c7) tCalled x ∧ x.light ∧ x.w.csM = 0 ∧ x.w.waits = [] ∧
      ∃ l r, l < 32 ∧ x.w.stands l = some r ∧ r.2 ≠ 3 ∧
        ((x.acting c7).getLsbD l = true → x.w.calls l ≠ [])) ∧
    ∃ x, Issues .retShort tCalled x ∧ x.light ∧ x.w.csM = 0 ∧ x.w.waits = [] ∧
      ∃ l r, l < 32 ∧ x.w.stands l = some r ∧ r.2 ≠ 3 ∧ (x.mask.getLsbD l = true → x.w.calls l ≠ []) := by
  refine ⟨?_, ?_, ?_, ?_⟩
  · obtain ⟨x, h, p⟩ := issues_wit (i := .call c7 (.imm 4) none) (s := tG) (P := fun x => x.inRegion = false ∧
      x.w.csM = 0 ∧ x.w.cs.length < 4 ∧ x.g.legalPc (x.after + branchOff (.imm 4)) = true) (by decide)
    exact ⟨x, h, light_of p.1, p.2⟩
  · obtain ⟨x, h, p⟩ := issues_wit (i := .callShort 5)
      (s := onW tS fun w => { w with cs := List.replicate 3 ⟨1, 0, []⟩ })
      (P := fun x => x.inRegion = false ∧ x.w.csM = 0 ∧ x.w.cs.length < 4) (by decide)
    exact ⟨x, h, light_of p.1, p.2⟩
  · obtain ⟨x, h, p⟩ := issues_wit (i := .ret c7) (s := tCalled) (P := fun x => x.inRegion = false ∧
      x.w.csM = 0 ∧ x.w.waits = [] ∧ x.w.stands 31 = some (0x100, 0) ∧ (x.acting c7).getLsbD 31 = false)
      (by decide)
    exact ⟨x, h, light_of p.1, p.2.1, p.2.2.1, 31, _, by decide, p.2.2.2.1, by decide,
      fun e => by rw [p.2.2.2.2] at e; cases e⟩
  · obtain ⟨x, h, p⟩ := issues_wit (i := .retShort) (s := tCalled) (P := fun x => x.inRegion = false ∧
      x.w.csM = 0 ∧ x.w.waits = [] ∧ x.w.stands 7 = some (0x100, 0) ∧ x.w.calls 7 ≠ []) (by decide)
    exact ⟨x, h, light_of p.1, p.2.1, p.2.2.1, 7, _, by decide, p.2.2.2.1, by decide, fun _ => p.2.2.2.2⟩

theorem witness_NopsAndSoftwareTraps :
    (∃ x, Issues (.nop c7) tS x ∧ x.acting c7 = 0) ∧
    (∃ x, Issues (.brk c7 5) tG x ∧ x.b.brken = false) ∧
    (∃ x, Issues (.brk c7 5) (onB tG fun b => { b with brken := true }) x ∧
      x.b.brken = true ∧ x.acting c7 ≠ 0 ∧ x.handler = false) ∧
    (∃ x, Issues (.trap c7 5) tS x ∧ x.acting c7 = 0) ∧
    ∃ x, Issues (.trap Ctl.none 0xffff) tTrap x ∧ x.acting Ctl.none ≠ 0 ∧ x.handler = false ∧
      x.w.utraps = [] ∧ x.g.img.desc.trapent ≠ 0xffffffff :=
  ⟨issues_wit (by decide), issues_wit (by decide), issues_wit (by decide), issues_wit (by decide),
    issues_wit (by decide)⟩

/-- The kernel has an entry at its first instruction. -/
def tEntry : State := onG tS fun g => { g with img := { g.img with entries := [⟨0, 0x80, true, true, false⟩] } }

theorem witness_ExitsAndSpawns :
    (∃ x, Issues (.exit c7) tG x ∧ x.light ∧ x.w.waits = [] ∧ x.w.csM = 0 ∧
      ∃ l r, l < 32 ∧ x.w.stands l = some r ∧ r.2 ≠ 3 ∧ (x.acting c7).getLsbD l = false) ∧
    (∃ x, Issues .exitShort tSplit x ∧ x.light ∧ x.w.waits = [] ∧ x.w.csM = 0 ∧
      ∃ l r, l < 32 ∧ x.w.stands l = some r ∧ r.2 ≠ 3 ∧ x.mask.getLsbD l = false) ∧
    (∃ x, Issues (.spawn c7 2 5 0) tEntry x ∧ x.acting c7 = 0) ∧
    (∃ x, Issues (.spawn Ctl.none 2 5 0) (onG tEntry fun g =>
        { g with img := { g.img with desc := { g.img.desc with spad := 0x1000000 } } }) x ∧
      x.acting Ctl.none ≠ 0 ∧ x.s.fits x.b.coreNum x.g.img.desc true = none) ∧
    ∃ x, Issues (.spawn Ctl.none 2 5 0) tEntry x ∧ x.acting Ctl.none ≠ 0 ∧
      x.s.fits x.b.coreNum x.g.img.desc true = some 0x10000 ∧ x.s.ctx? x.g.ctx = some programCtx ∧
      programCtx.poolFind x.g.img.desc.area 256 = some 0x1051000 ∧ x.s.block? 0x1051000 = none ∧
      x.g.img.entries[0]? = some ⟨0, 0x80, true, true, false⟩ := by
  refine ⟨?_, ?_, issues_wit (by decide), issues_wit (by decide), issues_wit (by decide)⟩
  · obtain ⟨x, h, p⟩ := issues_wit (i := .exit c7) (s := tG) (P := fun x => x.inRegion = false ∧
      x.w.waits = [] ∧ x.w.csM = 0 ∧ x.w.stands 31 = some (0x100, 0) ∧ (x.acting c7).getLsbD 31 = false) (by decide)
    exact ⟨x, h, light_of p.1, p.2.1, p.2.2.1, 31, _, by decide, p.2.2.2.1, by decide, p.2.2.2.2⟩
  · obtain ⟨x, h, p⟩ := issues_wit (i := .exitShort) (s := tSplit) (P := fun x => x.inRegion = false ∧
      x.w.waits = [] ∧ x.w.csM = 0 ∧ x.w.stands 16 = some (0x120, 0) ∧ x.mask.getLsbD 16 = false) (by decide)
    exact ⟨x, h, light_of p.1, p.2.1, p.2.2.1, 16, _, by decide, p.2.2.2.1, by decide, p.2.2.2.2⟩

end Sys2Proof.Tests
end

