-- ==== Sys2Proof/Tests/WitnessHost.lean ====
section
/-! SUPPORT. Witnesses for the statements about the mailbox, firmware, registers, the aperture, devices and the
supervisor core: states that meet all the hypotheses of a statement, clause by clause. -/

namespace Sys2Proof.Tests

open Sys2Proof Sys2Proof.Machine

set_option maxRecDepth 20000
set_option exponentiation.threshold 1200

/-- A state in which function fn asks for operation op with the arguments given. -/
def ask (s : State) (fn op : Nat) (args : List DWord) : State :=
  s.setFunc { Func.reset fn with
    busy := true
    mbreq := ((List.range 8).zip (BitVec.ofNat 64 op :: args)).map fun p => (p.1, p.2) }

/-- Everything that `asked` demands, with a property of the function, as one check. -/
def askedIf (s : State) (fn op : Nat) (p : Func → Bool) : Bool :=
  match s.func? fn with
  | some f => f.busy && f.await.isNone && (f.req 0).toNat % 256 == op && p f
  | none => false

theorem asked_wit {s : State} {fn op : Nat} {P : Func → Prop} [DecidablePred P]
    (h : askedIf s fn op (fun f => decide (P f)) = true) : ∃ f, s.asked fn op f ∧ P f := by
  unfold askedIf at h
  split at h
  · next f hf =>
    simp only [Bool.and_eq_true, Option.isNone_iff_eq_none, beq_iff_eq, decide_eq_true_eq] at h
    exact ⟨f, ⟨hf, h.1.1.1, h.1.1.2, h.1.2⟩, h.2⟩
  · cases h

/-- The name of the loaded program's context. -/
theorem names0 {s : State} (h : s.ctxs = [programCtx]) : s.names 0 0 programCtx := by
  unfold State.names State.ctxArg State.ctx?
  rw [h]
  exact ⟨by decide, by decide, by decide⟩

/- ### Contexts and queues -/

/-- A legal queue header: queue 3, vector 1, ring at 0x2000 and completion ring at 0x3000 of 16 slots each. -/
def header : List Byte :=
  leBytes 8 (3 + 1 * 2 ^ 32) ++ leBytes 8 0x2000 ++ leBytes 8 0x3000 ++ leBytes 8 (4 * 2 ^ 8 + 4 * 2 ^ 16) ++
    zeros 96

/-- The header at 0x800 of the context, which lies at 0x20800. -/
def tHead : State := { tRW with dram := tRW.dram.setBytes 0x20800 header }

theorem witness_ContextAndQueueOperations :
    (∃ f, (ask State.reset 127 0x01 [0x10000, 0x1230000, 0x400000]).asked 127 0x01 f ∧
      State.reset.poolBad (f.req 2).toNat (f.req 3).toNat = false ∧
      (ask State.reset 127 0x01 [0x10000, 0x1230000, 0x400000]).resetPending 127 = false) ∧
    (∃ f, (ask State.reset 127 0x01 [0x10000, 1, 0x400000]).asked 127 0x01 f ∧ (f.req 2).toNat % 65536 ≠ 0) ∧
    (∃ f, (ask tRW 0 0x02 [0]).asked 0 0x02 f ∧ f.req 1 = 0) ∧
    (∃ f, (ask tRW 0 0x07 [0, 0xffff]).asked 0 0x07 f ∧ f.req 1 = 0 ∧ (f.req 2).toNat < 2 ^ 16) ∧
    (∃ f, (ask tRW 0 0x07 [1, 3]).asked 0 0x07 f ∧ ∀ c ∈ tRW.ctxs, ¬ (c.fn = 0 ∧ c.c = (f.req 1).toNat)) ∧
    tRW.names 0 0 programCtx ∧
    (∃ f, (ask tHead 0 0x03 [0, 0x800]).asked 0 0x03 f ∧ f.req 1 = 0 ∧ (f.req 2).toNat % 128 = 0 ∧
      f.req 2 = 0x800) ∧
    tHead.steady programCtx 0x800 128 0x20800 ∧ queueLegal (tHead.dram.bytes 0x20800 128) = true ∧
    (∃ f, (ask tHead 0 0x03 [0, 0x840]).asked 0 0x03 f ∧ (f.req 2).toNat % 128 ≠ 0) ∧
    ∃ f, (ask tRW 0 0x04 [511]).asked 0 0x04 f ∧ ∀ q ∈ tRW.queues, ¬ (q.fn = 0 ∧ q.index = 511) :=
  ⟨asked_wit (by decide), asked_wit (by decide), asked_wit (by decide), asked_wit (by decide),
    asked_wit (by decide), names0 rfl, asked_wit (by decide),
    steadyOver_of rfl (by decide) rfl rfl (by decide) (by decide) (by decide), by decide,
    asked_wit (by decide), asked_wit (by decide)⟩

theorem witness_MemoryAndLimitOperations :
    (∃ f, (ask tRW 0 0x05 [0, 0x1000]).asked 0 0x05 f ∧ f.req 1 = 0 ∧ f.req 2 = 0x1000 ∧
      programCtx.iblk = none) ∧
    tRW.steady { programCtx with iblk := some 0x1000 } 0x1000 0x1500 0x21000 ∧
    (∃ f, (ask tRW 0 0x05 [0, 0x1080]).asked 0 0x05 f ∧ (f.req 2).toNat % 256 ≠ 0) ∧
    (∃ f, (ask tRW 0 0x08 [0xffff, 0x100000, 16]).asked 0 0x08 f ∧ 4 ≤ (f.req 3).toNat ∧
      (f.req 3).toNat ≤ 16 ∧ f.req 1 = 0xffff) ∧
    (∃ f, (ask tRW 0 0x08 [0, 0x1000, 4]).asked 0 0x08 f ∧ 4 ≤ (f.req 3).toNat ∧ (f.req 3).toNat ≤ 16 ∧
      f.req 1 ≠ 0xffff) ∧
    (∃ f, (ask tRW 5 0x08 [0xffff, 0, 4]).asked 5 0x08 f ∧ f.req 1 = 0xffff ∧ 5 ≠ 0) ∧
    (∃ f, (ask tRW 0 0x06 [0, 0x10000, 0x10000]).asked 0 0x06 f ∧ f.req 1 = 0 ∧ f.req 3 ≠ 0) ∧
    (({ tRW with shoots := [⟨9, 0, 0, 1, none⟩] } : State).shoots.find? (fun y => y.id == 9) =
      some ⟨9, 0, 0, 1, none⟩ ∧ ∀ b ∈ tRW.blocks, ∀ w ∈ b.warps, ∀ o ∈ w.loads, o.val = none) ∧
    (∃ f, (ask tRW 0 0x09 [127, 0xff, 9]).asked 0 0x09 f ∧ (tRW.func? (f.req 1).toNat).isSome = true ∧
      f.req 2 ≠ 0 ∧ (f.req 2).toNat ≤ 0xff) ∧
    (∃ f, (ask tRW 0 0x14 [15, 100000, 0xffffffff, 10, 100]).asked 0 0x14 f ∧ (f.req 1).toNat ≤ 15 ∧
      (f.req 2).toNat ≤ 100000 ∧ f.req 3 = 0xffffffff ∧ (f.req 4).toNat = 10 ∧ (f.req 5).toNat = 100) ∧
    (∃ f, (ask tRW 0 0x14 [16, 100, 100, 10, 100]).asked 0 0x14 f ∧ 15 < (f.req 1).toNat) ∧
    ∃ f, (ask tRW 0 0x0a [0, 7]).asked 0 0x0a f ∧ f.req 1 = 0 :=
  ⟨asked_wit (by decide), steadyOver_of rfl (by decide) rfl rfl (by decide) (by decide) (by decide),
    asked_wit (by decide), asked_wit (by decide), asked_wit (by decide), asked_wit (by decide),
    asked_wit (by decide), by decide, asked_wit (by decide), asked_wit (by decide), asked_wit (by decide),
    asked_wit (by decide)⟩

/- ### The pod, firmware, resets -/

/-- A formation image of one package at 0x1000 of host memory. -/
def tForm : State :=
  { State.reset with
    hostMem := Memory.setBytes (Memory.setWord64 (Memory.setWord64 [] 0x1010 0x10000) 0x1040 1) 0x1840
      (leBytes 8 10 ++ leBytes 8 4096) }

/-- A fenced package of a pod of two, whose peer is LIVE. -/
def tFenced : State :=
  { State.reset with
    trav := { State.reset.trav with role := .fenced }
    plat := platSet (platSet [] 2 0x20000) (8 + 1) 1
    pkg := 0 }

/-- A member of a pod of two. -/
def tMember : State :=
  { tFenced with
    trav := { State.reset.trav with role := .member }
    plat := platSet tFenced.plat 8 1 }

/-- The words of the formation image that a function names. -/
def formWords (s : State) (f : Func) : List DWord :=
  (List.range 296).map fun k => BitVec.ofNat 64 (leNat (s.hostMem.bytes ((f.req 1).toNat + 8 * k) 8))

theorem witness_PodOperations :
    (∃ f, (ask tForm 0 0x10 [0x1000, 0]).asked 0 0x10 f ∧
      ((ask tForm 0 0x10 [0x1000, 0]).loadFormation (formWords tForm f)).formationBad (formWords tForm f) 0 =
        false) ∧
    (∃ f, (ask tFenced 0 0x10 [0x1000, 0]).asked 0 0x10 f ∧ tFenced.trav.role ≠ .none) ∧
    (∃ f, (ask tFenced 0 0x11 [1, 7]).asked 0 0x11 f ∧ tFenced.trav.role = .fenced ∧
      (f.req 1).toNat < tFenced.npod ∧ tFenced.memState (f.req 1).toNat = 1 ∧ tFenced.memState 0 = 0) ∧
    (∃ f, (ask tMember 0 0x12 [255, 255, 1]).asked 0 0x12 f ∧ tMember.isMember = true ∧
      (f.req 1).toNat < 256 ∧ f.req 1 ≠ 0x41 ∧ (f.req 2).toNat < 256) ∧
    (∃ f, (ask tMember 0 0x12 [0x41, 255, 1]).asked 0 0x12 f ∧ f.req 1 = 0x41) ∧
    ∃ f, (ask { tMember with
        ctxs := [{ programCtx with pctx := some 3 }]
        plat := platSet tMember.plat (rowWord 5 0) (3 + 2 * 2 ^ 16) } 0 0x13 [0, 5]).asked 0 0x13 f ∧
      (let s : State := { tMember with plat := platSet tMember.plat (rowWord 5 0) (3 + 2 * 2 ^ 16) }
      s.isMember = true ∧ s.rowOf (f.req 2).toNat = some 5 ∧ s.rowState 5 ≠ 0 ∧ s.rowOrigin 5 = s.pkg ∧
        s.rowPctx 5 = 3) :=
  ⟨asked_wit (by decide), asked_wit (by decide), asked_wit (by decide), asked_wit (by decide),
    asked_wit (by decide), asked_wit (by decide)⟩

/-- The firmware in a state of R388. -/
def tFw (st : FwState) : State := { State.reset with fw := { State.reset.fw with state := st } }

theorem witness_FirmwareUpdate :
    let calm (s : State) : Prop := s.fw.held = [] ∧ s.fw.port = [] ∧ s.fw.records = [] ∧ s.heldRemote = [] ∧
      (∀ q ∈ s.queues, q.cqPend = []) ∧ (s.queues.map (·.key)).Nodup
    (∃ f, (ask State.reset 0 0x20 [0x1000, 67108864]).asked 0 0x20 f ∧ (f.req 2).toNat ≤ 67108864 ∧
      State.reset.fw.state = .idle) ∧
    (∃ f, (ask State.reset 0 0x20 [0x1000, 67108865]).asked 0 0x20 f ∧ 67108864 < (f.req 2).toNat) ∧
    (∃ f, (ask (tFw .verified) 0 0x21 []).asked 0 0x21 f ∧ (tFw .verified).fw.state = .verified ∧
      ∀ q ∈ (tFw .verified).queues, q.saveptr = 0) ∧
    (∃ f, (ask State.reset 0 0x21 []).asked 0 0x21 f ∧ State.reset.fw.state ≠ .verified) ∧
    (∃ f, (ask State.reset 0 0x22 []).asked 0 0x22 f ∧ f.num = 0) ∧
    ((tFw .switching).fw.state = .switching ∧ calm (tFw .switching)) ∧
    ((tFw .probation).fw.state = .probation ∧ calm (tFw .probation)) ∧
    ((tFw .active).fw.state ≠ .switching ∧ (tFw .active).fw.state ≠ .probation) :=
  ⟨asked_wit (by decide), asked_wit (by decide), asked_wit (by decide), asked_wit (by decide),
    asked_wit (by decide), by decide, by decide, by decide⟩

theorem witness_ResetsBootAttestation :
    ((tRW.func? 127).isSome = true ∧ 127 ≠ 0 ∧ tRW.fw.state ≠ .switching) ∧
    ((tRW.func? 0).isSome = true ∧ tRW.fw.state ≠ .switching ∧ ∃ c ∈ tRW.ctxs, c.fn = 0) ∧
    (((tFw .switching).func? 0).isSome = true ∧ (tFw .switching).fw.state = .switching) ∧
    State.reset.mr = [] := by decide

/- ### Registers, channels, the aperture, devices -/

/-- A queue at rest, registered with the header of `tHead`. -/
def q0 : Queue := newQueue programCtx header 0 0x800 0

/-- The state in which it is registered. -/
def tQ : State := { tHead with queues := [q0] }

theorem witness_HostRegisterWrites :
    (tRW.func? 0 = some (Func.reset 0) ∧ (Func.reset 0).num = 0 ∧ (Func.reset 0).busy = false) ∧
    ((ask tRW 0 1 []).func? 0).map (·.busy) = some true ∧
    ((7 % 8 ≠ 0 ∨ 0x80000 ≤ 7) ∧ 0x38 % 8 = 0 ∧ 0x38 < 0x40 ∧ 0x10c0 % 0x40 = 0 ∧ 0x10c0 < 0x1100) ∧
    (mailboxEvent 0 0x14 = some (.sched 0) ∧ ((Func.reset 0).req 0).toNat % 256 = 0) ∧
    (tQ.queues.find? (fun p => p.fn == 0 && p.index == (0x8010 - 0x8000) / 64) = some q0 ∧
      (4 : DWord).getLsbD 2 = true ∧ (3 : DWord).getLsbD 2 = false ∧ (3 : DWord).getLsbD 0 = true ∧
      (3 : DWord).getLsbD 1 = true) ∧
    ((0x43ff8 - 0x40000) / 8 / 2 ∉ (Func.reset 0).msixPend ∧
      (0x43ff8 - 0x40000) / 8 / 2 ∈ ({ Func.reset 0 with msixPend := [1023] } : Func).msixPend) ∧
    (0x57f58 % 0x100 < 0x60 ∧ 0x57f58 < 0x58000) ∧
    (0x43ff8 % 8 = 0 ∧ 0x40000 ≤ 0x43ff8 ∧ 0x43ff8 < 0x44000 ∧ (0x43ff8 - 0x40000) / 16 ∉ (Func.reset 0).msixPend) ∧
    (0x3fff8 % 8 = 0 ∧ 0x20000 ≤ 0x3fff8 ∧ 0x3fff8 < 0x40000 ∧ 0x10c8 % 0x40 = 8 ∧ 0x10c8 < 0x1100) ∧
    (tRW.func? 127 = some (Func.reset 127) ∧ 127 ≠ 0 ∧ 0x7fff8 % 8 = 0 ∧ 0x50000 ≤ 0x7fff8 ∧ 0x7fff8 < 0x80000) ∧
    tRW.fw.state ≠ .switching := by decide

/-- A channel on its way, at a record of one byte at 0x900, from 0xa00 to 0xfff. -/
def tChan : State :=
  { tRW.setFunc ((Func.reset 0).setChan 3 ⟨0, 0, true, 0x900, 0, 0, 0, 0⟩) with
    dram := tRW.dram.setBytes 0x20900 (zeros 8 ++ leBytes 8 0xa00 ++ leBytes 8 0xfff ++ leBytes 8 1 ++ [1] ++
      zeros 31) }

theorem witness_HostCopiesAndAperture :
    (tRW.func? 0 = some (Func.reset 0) ∧ 3 < 4 ∧ ((Func.reset 0).chan 3).busy = false ∧
      tRW.ctxArg 0 ((Func.reset 0).chan 3).ctx = some programCtx) ∧
    (((tChan.func? 0).map fun f => (f.chan 3).busy) = some true ∧
      ((tChan.func? 0).map fun f => (f.chan 3).addr) = some 0x900 ∧
      ((tChan.func? 0).map fun f => (f.chan 3).run) = some 0 ∧ tChan.ctxArg 0 0 = some programCtx ∧
      tChan.num (0x20900 + 24) 8 = 1 ∧ tChan.num (0x20900 + 32) 1 = 1 ∧ tChan.num (0x20900 + 35) 29 = 0 ∧
      tChan.num (0x20900 + 8) 8 = 0xa00 ∧ tChan.num (0x20900 + 16) 8 = 0xfff) ∧
    tChan.steadyOver [(0x20900, 64), (0x20fff, 1)] programCtx 0x900 64 0x20900 ∧
    tChan.steadyOver [(0x20900, 64), (0x20fff, 1)] programCtx 0xa00 1 0x20a00 ∧
    tChan.steadyOver [(0x20900, 64), (0x20fff, 1)] programCtx 0xfff 1 0x20fff ∧
    ((Func.reset 0).apctl.getLsbD 8 = false ∧ ({ Func.reset 0 with apctl := 0x100 } : Func).apctl.getLsbD 8 ∧
      tRW.ctxArg 0 (0x100 &&& 0xff) = some programCtx ∧ 0x308 + 8 ≤ 2 ^ 32 ∧
      tRW.resolve programCtx 0x308 8 .load = .ok ((List.range 8).map fun k => Loc.mem 0 (0x20308 + k), 0) ∧
      tRW.resolve programCtx 0x33f 1 .store = .ok ((List.range 1).map fun k => Loc.mem 0 (0x2033f + k), 0)) :=
  ⟨by decide, by decide, steadyOver_of rfl (by decide) rfl rfl (by decide) (by decide) (by decide),
    steadyOver_of rfl (by decide) rfl rfl (by decide) (by decide) (by decide),
    steadyOver_of rfl (by decide) rfl rfl (by decide) (by decide) (by decide), by decide⟩

theorem witness_DeviceEvents :
    0x3ffffffff * 8 < Config.dramSize ∧ (State.reset.link 5).down = false ∧ (State.reset.link 5).retries < 31 ∧
    (let s : State := { State.reset with links := [(5, { Link.reset with retries := 31 })] }
    (s.link 5).down = false ∧ 31 ≤ (s.link 5).retries) ∧
    (3 < 4 ∧ 550 ≤ (State.reset.die 3).clock ∧ (State.reset.die 3).clock ≤ 1100 ∧
      (State.reset.die 3).clock % 50 = 0 ∧ ((State.reset.die 3).clock ≠ 550 ∨ (State.reset.die 3).clock ≠ 1100)) ∧
    (let s : State := { State.reset with mons := [(2, ⟨8, true, 0, 0, 0, [], []⟩)] }
    (s.monitor 2).en = true ∧ 1 ≤ (s.monitor 2).source ∧ (s.monitor 2).source ≤ 8) ∧
    (State.reset.monitor 2).en = false := by decide

/- ### The supervisor core -/

/-- Lanes 0 to 15 parked for the supervisor core with a trap, the others parked by a halt. -/
def tSup : State := onW tS fun w =>
  { w with
    frontier := [⟨0x100, 0x80, 0xffff, 2⟩, ⟨0x120, 0x80, 0xffff0000, 7⟩]
    straps := [⟨⟨0x10, 0, 0, 0⟩, 0xffff, 0x100, 4, none⟩] }

/-- What SWSEL selects, with a property. -/
def pickIf (s : State) (core : Nat) (p : Block → Warp → Grid → Bool) : Bool :=
  match s.selected core with
  | some (b, w, g) => s.block? b.key == some b && b.warp? w.num == some w && p b w g
  | none => false

theorem picks_wit {s : State} {core : Nat} {P : Block → Warp → Grid → Prop} [∀ b w g, Decidable (P b w g)]
    (h : pickIf s core (fun b w g => decide (P b w g)) = true) : ∃ b w g, s.picks core b w g ∧ P b w g := by
  unfold pickIf at h
  split at h
  · next b w g hs =>
    simp only [Bool.and_eq_true, beq_iff_eq, decide_eq_true_eq] at h
    exact ⟨b, w, g, ⟨hs, h.1.1, h.1.2⟩, h.2⟩
  · cases h

theorem witness_ControlWindow :
    (∃ b w g, tSup.picks 0 b w g ∧ ∀ e ∈ w.frontier, e.park ≠ 0) ∧
    (∃ b w g, tS.picks 0 b w g ∧ w.st.hold = false ∧ w.st.halt = false ∧ ∃ e ∈ w.frontier, e.park = 0) ∧
    (∃ b w g, tSup.picks 0 b w g ∧ (∀ e ∈ w.frontier, e.park ≠ 0) ∧ (0x200 - 0x200) / 8 < g.img.desc.sregs) ∧
    (∃ b w g, tS.picks 0 b w g ∧ w.st.hold = false ∧ w.st.halt = false ∧ (∃ e ∈ w.frontier, e.park = 0) ∧ isData 0x2b8 = true) ∧
    tS.selected 767 = none ∧
    (0x8ff8 % 8 = 0 ∧ 0x1000 ≤ 0x8ff8 ∧ 0x8ff8 < 0x9000) ∧ (0x2b8 % 8 = 0 ∧ 0x2b8 < 0x2c0) :=
  ⟨picks_wit (by decide), picks_wit (by decide), picks_wit (by decide), picks_wit (by decide), by decide, by decide,
    by decide⟩

theorem witness_SupervisorActions :
    (∃ b w g, (tSup.takeFront 0).picks 0 b w g ∧ (g.ending = none ∧ w.utraps = [] ∧ w.waits = [] ∧ w.csM = 0 ∧
      w.straps = [⟨⟨0x10, 0, 0, 0⟩, 0xffff, 0x100, 4, none⟩] ∧ w.stands 0 = some (0x100, 2) ∧
      w.stands 31 = some (0x120, 7)) ∧
      ((List.range 32).all fun l => w.frontier.all fun e =>
        !e.mask.getLsbD l || w.stands l == some (e.pc, e.park)) = true) ∧
    (tS.takeFront 767).selected 767 = none ∧ tS.svec = [] :=
  ⟨picks_wit (by decide), by decide, by decide⟩

end Sys2Proof.Tests
end

