-- ==== Sys2Proof/Tests/WitnessQueues.lean ====
section
/-! SUPPORT. Witnesses for the statements about packets, commands, queues and slots: states that meet all the
hypotheses of a statement, clause by clause. -/

namespace Sys2Proof.Tests

open Sys2Proof Sys2Proof.Machine

set_option maxRecDepth 20000
set_option exponentiation.threshold 4200

/- ### Packets -/

/-- A packet of one slot with sequence number 0 (R20). -/
def packet (type flags : Byte) (body : List Byte) : List Byte :=
  [0, 0, 0, 0, type, 1, flags, 0] ++ leBytes 2 body.length ++ zeros 6 ++ body

/-- A field of a packet's body whose value is a multiple of four bytes (R21). -/
def field (tag : Byte) (v : List Byte) : List Byte := [tag, 0] ++ leBytes 2 v.length ++ v

/-- The queue of `q0` in its slot. -/
def qM : Queue := { q0 with state := 3, slot := some 0, tail := 1 }

/-- The queue with a packet at its HEAD, which lies at 0x22000. -/
def tPkt (q : Queue) (bs : List Byte) : State :=
  { tHead with queues := [q], dram := tHead.dram.setBytes 0x22000 bs }

/-- The image that LAUNCH names. -/
def launchImage : Image := { programGrid.img with addr := 0x1000, entries := [⟨0, 0x80, true, true, false⟩] }

/-- The same with the image accepted before by the queue's packet core. -/
def tLaunch (s : State) : State := { s with acache := [(0, [⟨0, launchImage⟩])] }

/-- A queue's header and completion entry in the first page of the loaded program's context. -/
theorem queueMem_of {s : State} {q : Queue} {c : Ctx} {idx : DWord} {p : Nat} {rs : List (Nat × Nat)}
    (ht : tables s.dram = true) (hp : s.poison = []) (hq : s.queue? q.key = some q) (hc : s.ctx? q.ctx = some c)
    (hr : q.cqPend = []) (hcr : c.rootTier = 0) (hco : c.rootOff = 0x10000) (hh : q.header = 0x800)
    (ha : q.cqAddr idx + 32 ≤ 2 ^ 16) (he : p = 0x20000 + q.cqAddr idx)
    (hrs : ∀ r ∈ (p, 32) :: (0x20800, 128) :: rs, r.1 + r.2 ≤ 0x10000 ∨ 0x15000 ≤ r.1)
    (hap : p + 32 ≤ 0x20800 ∨ 0x20880 ≤ p) (hcl : ∀ r ∈ rs, p + 32 ≤ r.1 ∨ r.1 + r.2 ≤ p) :
    s.queueMem q c idx p 0x20800 rs :=
  ⟨hq, hc, hr, steadyOver_of hp ht hcr hco ha hrs he, (by
    rw [hh]; exact steadyOver_of hp ht hcr hco (by decide) hrs (by decide)), hap, hcl⟩

theorem qm {s : State} {q : Queue} {idx : DWord} {p : Nat} {rs : List (Nat × Nat)} (ht : tables s.dram = true)
    (hp : s.poison = []) (hq : s.queue? q.key = some q) (hc : s.ctx? q.ctx = some programCtx) (hr : q.cqPend = [])
    (hh : q.header = 0x800) (ha : q.cqAddr idx + 32 ≤ 2 ^ 16) (he : p = 0x20000 + q.cqAddr idx)
    (hrs : ∀ r ∈ (p, 32) :: (0x20800, 128) :: rs, r.1 + r.2 ≤ 0x10000 ∨ 0x15000 ≤ r.1)
    (hap : p + 32 ≤ 0x20800 ∨ 0x20880 ≤ p) (hcl : ∀ r ∈ rs, p + 32 ≤ r.1 ∨ r.1 + r.2 ≤ p) :
    s.queueMem q programCtx idx p 0x20800 rs := queueMem_of ht hp hq hc hr rfl rfl hh ha he hrs hap hcl

/-- What stands at HEAD, as a number. -/
def headKind : AtHead → Nat
  | .waits _ => 0
  | .reject _ _ _ => 1
  | .skip _ => 2
  | .ok _ _ => 3

theorem headKind_skip {a : AtHead} (h : headKind a = 2) : ∃ p, a = .skip p := by cases a <;> simp_all [headKind]

theorem headKind_waits {a : AtHead} (h : headKind a = 0) : ∃ s, a = .waits s := by cases a <;> simp_all [headKind]

/-- Everything that `accepts` demands, with a property of the packet, as one check. -/
def acceptsIf (s : State) (q : Queue) (c : Ctx) (type : Nat) (fence : Bool) (p : PktHead → List Field → Bool) : Bool :=
  s.queue? q.key == some q && s.ctx? q.ctx == some c &&
    match s.atHead q with
    | .ok h fs => h.type == type && (!(h.fence || fence) || q.flights == []) && p h fs
    | _ => false

theorem accepts_wit {s : State} {q : Queue} {c : Ctx} {type : Nat} {fence : Bool} {P : PktHead → List Field → Prop}
    [∀ p fs, Decidable (P p fs)] (h : acceptsIf s q c type fence (fun p fs => decide (P p fs)) = true) :
    ∃ p fs, s.accepts q c p fs type fence ∧ P p fs := by
  unfold acceptsIf at h
  simp only [Bool.and_eq_true, beq_iff_eq] at h
  obtain ⟨⟨hq, hc⟩, h⟩ := h
  split at h
  · next p fs ha =>
    simp only [Bool.and_eq_true, beq_iff_eq, decide_eq_true_eq, Bool.or_eq_true, Bool.not_eq_true',
      Bool.or_eq_false_iff] at h
    refine ⟨p, fs, ⟨hq, hc, ha, h.1.1, fun e => ?_⟩, h.2⟩
    rcases h.1.2 with n | f
    · rcases e with e | e
      · rw [n.1] at e; cases e
      · rw [n.2] at e; cases e
    · exact f
  · cases h

theorem witness_PacketsAndTheirEnds :
    (∃ u, (tPkt { qM with tail := 0 } []).atHead { qM with tail := 0 } = .waits u) ∧
    (∃ irq e, (tPkt qM (packet 10 2 [])).atHead qM = .reject (tPkt qM (packet 10 2 [])) irq e) ∧
    (tPkt qM (packet 10 2 [])).idleQ qM ∧
    (tPkt qM (packet 10 2 [])).queueMem qM programCtx qM.cmdidx 0x23000 0x20800 [] ∧
    (∃ p, (tPkt { qM with skipTo := some 9 } (packet 9 0 [])).atHead { qM with skipTo := some 9 } = .skip p) ∧
    (tPkt { qM with skipTo := some 9 } (packet 9 0 [])).queueMem { qM with skipTo := some 9 } programCtx 0 0x23000
      0x20800 [] ∧
    (let q : Queue := { qM with flights := [⟨0, 0, true, none⟩], holding := some (⟨0, 0, true, none⟩, .wait 0x400 5 .eq 1) }
    (tPkt q []).queueMem q programCtx 0 0x23000 0x20800 [] ∧ (tPkt q []).wordAt programCtx 0x400 = .here 0 ∧
      wcondHolds .eq (0 : DWord) (5 : DWord) = false ∧ wcondHolds .ne (0 : DWord) (5 : DWord) = true ∧ q.slot.isSome = true ∧ q.state ≠ 4 ∧
      (tPkt q []).queueBusy q = false ∧ (tPkt q []).priFailed = [] ∧ (tPkt q []).fw.state = .idle) ∧
    (match tRW.wordAt programCtx 0x10000 with
      | .bad (.cause _ _) => true
      | _ => false) = true ∧
    (let q : Queue := { qM with
      flights := [⟨0, 0, true, none⟩]
      copies := [⟨0, 0, true, false, 0x400, 0x408, 8⟩] }
    (tPkt q []).queueMem q programCtx 0 0x23000 0x20800 [(0x20408, 8)] ∧
      (tPkt q []).steadyOver ((0x23000, 32) :: (0x20800, 128) :: [(0x20408, 8)]) programCtx 0x400 8 0x20400 ∧
      (tPkt q []).steadyOver ((0x23000, 32) :: (0x20800, 128) :: [(0x20408, 8)]) programCtx 0x408 8 0x20408) :=
  ⟨headKind_waits (by decide), ⟨_, _, rfl⟩, ⟨by decide, rfl⟩,
    qm (by decide) rfl (by decide) (by decide) rfl rfl (by decide) (by decide) (by decide) (by decide) (by decide),
    headKind_skip (by decide),
    qm (by decide) rfl (by decide) (by decide) rfl rfl (by decide) (by decide) (by decide) (by decide) (by decide),
    ⟨qm (by decide) rfl (by decide) (by decide) rfl rfl (by decide) (by decide) (by decide) (by decide) (by decide),
      by decide, by decide, by decide, by decide, by decide, by decide, rfl, rfl⟩, by decide,
    qm (by decide) rfl (by decide) (by decide) rfl rfl (by decide) (by decide) (by decide) (by decide) (by decide),
    steadyOver_of rfl (by decide) rfl rfl (by decide) (by decide) (by decide),
    steadyOver_of rfl (by decide) rfl rfl (by decide) (by decide) (by decide)⟩

/-- What reading the image comes to, as one check. -/
def imageRead (s : State) (c : Ctx) (fs : List Field) : Bool :=
  match s.readImage c 0 (fieldNum fs 2 0) (BitVec.ofNat 64 (fieldNum fs 1 0)) with
  | .ok _ img => img == launchImage
  | _ => false

theorem imageRead_ok {s : State} {c : Ctx} {fs : List Field} (h : imageRead s c fs = true) :
    ∃ u, s.readImage c 0 (fieldNum fs 2 0) (BitVec.ofNat 64 (fieldNum fs 1 0)) = .ok u launchImage := by
  unfold imageRead at h
  split at h
  · next u img hi =>
    simp only [beq_iff_eq] at h
    exact ⟨u, h ▸ hi⟩
  · cases h

/-- The fields of a LAUNCH of one block. -/
def launchBody : List Byte := field 1 (leBytes 8 0x1000) ++ field 3 (leBytes 4 1 ++ leBytes 4 1 ++ leBytes 4 1)

theorem witness_LaunchCommands :
    (∃ p fs, (tLaunch (tPkt qM (packet 1 2 launchBody))).accepts qM programCtx p fs 1 false ∧
      (imageRead (tLaunch (tPkt qM (packet 1 2 launchBody))) programCtx fs = true ∧ fieldOf fs 5 = none ∧
        launchImage.desc.area ≤ programCtx.poolSize ∧ fieldOf fs 4 = none)) ∧
    (∃ p fs, (tLaunch (tPkt qM (packet 1 2 (launchBody ++ field 4 [1, 2, 3, 4])))).accepts qM programCtx p fs 1
      false ∧ (imageRead (tLaunch (tPkt qM (packet 1 2 (launchBody ++ field 4 [1, 2, 3, 4])))) programCtx fs = true ∧
        fieldOf fs 5 = none ∧ (fieldOf fs 4).map (fun f => f.val) = some [1, 2, 3, 4] ∧
        (tLaunch (tPkt qM (packet 1 2 (launchBody ++ field 4 [1, 2, 3, 4])))).argPlace programCtx 4 =
          some 0x7f4000000000 ∧
        (programCtx.alloc 4 64).map (fun r => (r.1, r.2.num)) = some (0x1051000, 0))) ∧
    (∃ p fs, (tLaunch { tPkt qM (packet 1 2 launchBody) with
        ctxs := [{ programCtx with poolSize := 0x10000 }] }).accepts qM { programCtx with poolSize := 0x10000 } p fs
          1 false ∧ (fieldOf fs 5 = none ∧ 0x10000 < launchImage.desc.area)) ∧
    (∃ p fs, (tLaunch { tPkt qM (packet 1 2 (launchBody ++ field 5 [1, 0, 1, 0])) with
        ctxs := [{ programCtx with pctx := some 3 }]
        trav := { tRW.trav with role := .member } }).accepts qM { programCtx with pctx := some 3 } p fs 1 false ∧
      (fieldOf fs 5 ≠ none ∧ launchImage.desc.area ≤ programCtx.poolSize ∧ (programCtx.alloc 8192 8).map (fun r => (r.1, r.2.num)) = some (0x1051000, 0) ∧
        tRW.podCmds = [])) ∧
    (let s : State := { tPkt { qM with flights := [⟨0, 0, true, some 0x80000005⟩] } [] with
      blocks := [], grids := [{ programGrid with id := 0x80000005, owner := .cmd 0 0 0 true, queue := some 0 }] }
    (s.grid? 0x80000005).map (fun g => (g.ending, decide (g.quartets ≤ g.nextQuartet), g.argLen, g.queue, g.park)) =
      some (none, true, 0, some 0, 0) ∧ s.parked = [] ∧ s.fabricOut = [] ∧ s.fw.state = .idle ∧ s.queueMem { qM with flights := [⟨0, 0, true, some 0x80000005⟩] } programCtx 0 0x23000
        0x20800 []) ∧
    ((tRW.grid? 7) = none ∧ (∀ b ∈ tRW.blocks, b.grid ≠ 7) ∧ tRW.queues = []) :=
  ⟨accepts_wit (by decide), accepts_wit (by decide), accepts_wit (by decide), accepts_wit (by decide),
    ⟨by decide, rfl, rfl, rfl, qm (by decide) rfl (by decide) (by decide) rfl rfl (by decide) (by decide) (by decide)
      (by decide) (by decide)⟩, by decide⟩

theorem witness_CommandPackets :
    (∃ p fs, (tPkt qM (packet 7 0 (field 0x60 (leBytes 16 0x400)))).accepts qM programCtx p fs 7 true ∧ p.seq = 0) ∧
    (tPkt qM (packet 7 0 (field 0x60 (leBytes 16 0x400)))).queueMem qM programCtx 0 0x23000 0x20800 [] ∧
    (∃ p fs, (tPkt qM (packet 9 2 (field 0x70 (leBytes 8 5)))).accepts qM programCtx p fs 9 true ∧ p.irq = true) ∧
    (∃ p fs, (tPkt qM (packet 8 0 (field 0x60 (leBytes 16 0x400) ++ [0x61, 0, 1, 0, 1, 0, 0, 0]))).accepts qM
      programCtx p fs 8 true ∧ fieldNum fs 0x61 0 = 1) ∧
    (∃ p fs, (tPkt qM (packet 8 0 (field 0x60 (leBytes 16 0x400)))).accepts qM programCtx p fs 8 true ∧
      fieldNum fs 0x61 0 ≠ 1) ∧
    (∃ p fs, (tPkt qM (packet 4 0 (field 0x30 (leBytes 8 0x400) ++ field 0x31 (leBytes 8 7)))).accepts qM programCtx
      p fs 4 true ∧ fieldNum fs 0x30 0 = 0x400) ∧
    (let s := tPkt qM (packet 4 0 (field 0x30 (leBytes 8 0x400) ++ field 0x31 (leBytes 8 7)))
    s.queueMem qM programCtx 0 0x23000 0x20800 [(0x20400, 8)] ∧ s.windowAddr programCtx 0x400 8 = false ∧
      s.steadyOver ((0x23000, 32) :: (0x20800, 128) :: [(0x20400, 8)]) programCtx 0x400 8 0x20400) ∧
    (∃ p fs, (tPkt qM (packet 5 0 (field 0x40 (leBytes 8 0x400) ++ field 0x42 (leBytes 4 2)))).accepts qM programCtx
      p fs 5 true ∧ fieldNum fs 0x42 0 = 2) ∧
    (∃ p fs, (tPkt qM (packet 4 0 (field 0x30 (leBytes 8 0x10000) ++ field 0x31 (leBytes 8 7)))).accepts qM
      programCtx p fs 4 true ∧ fieldNum fs 0x30 0 = 0x10000) ∧
    (∃ p fs, (tPkt qM (packet 3 0 (field 0x20 (leBytes 8 0x400) ++ field 0x21 (leBytes 8 7) ++
      [0x22, 0, 1, 0, 5, 0, 0, 0]))).accepts qM programCtx p fs 3 false ∧ fieldNum fs 0x22 0 = 5) ∧
    (∃ p fs, (tPkt qM (packet 2 0 (field 0x10 (leBytes 8 0x400) ++ field 0x11 (leBytes 8 0x500) ++
      field 0x12 (leBytes 8 0x10000000000)))).accepts qM programCtx p fs 2 false ∧
      fieldNum fs 0x12 0 = 0x10000000000) ∧
    ∃ p fs, (tPkt qM (packet 6 0 (field 0x50 (leBytes 4 3 ++ leBytes 4 0)))).accepts qM programCtx p fs 6 false ∧
      p.fence = false :=
  ⟨accepts_wit (by decide),
    qm (by decide) rfl (by decide) (by decide) rfl rfl (by decide) (by decide) (by decide) (by decide) (by decide),
    accepts_wit (by decide), accepts_wit (by decide), accepts_wit (by decide), accepts_wit (by decide),
    ⟨qm (by decide) rfl (by decide) (by decide) rfl rfl (by decide) (by decide) (by decide) (by decide) (by decide),
      by decide, steadyOver_of rfl (by decide) rfl rfl (by decide) (by decide) (by decide)⟩,
    accepts_wit (by decide), accepts_wit (by decide), accepts_wit (by decide), accepts_wit (by decide),
    accepts_wit (by decide)⟩

/- ### Queues and slots -/

/-- The queue registered in a state of the scheduler. -/
def tIn (q : Queue) : State := { tHead with queues := [q] }

/-- The same while the firmware switches. -/
def tSwitch (q : Queue) : State := { tIn q with fw := { Firmware.reset with state := .switching } }

theorem header_at (q : Queue) : (tIn q).steadyOver [(0x20800, 128)] programCtx 0x800 128 0x20800 :=
  steadyOver_of rfl (show tables tHead.dram = true by decide) rfl rfl (by decide) (by decide) (by decide)

theorem witness_WakePort :
    ((tIn qM).queue? qM.key = some qM ∧ ¬ qM.head.toNat + 2 ^ qM.ringLog2 < 16 ∧
      qM.head.toNat + 2 ^ qM.ringLog2 < 17 ∧ ¬ (qM.slot = none ∨ 2 < qM.unmapStep) ∧ qM.state = 3 ∧
      qM.swapped = [] ∧ (tIn qM).fw.state = .idle ∧ (tIn qM).queueBusy qM = false ∧ (tIn qM).priFailed = []) ∧
    (tIn qM).queueMem qM programCtx qM.cmdidx 0x23000 0x20800 [] ∧
    ((tIn q0).queue? q0.key = some q0 ∧ q0.slot = none ∧ q0.wakelatch.toNat < 16 ∧ q0.state = 0 ∧
      q0.head.toNat < 16 ∧ (tIn q0).ctx? q0.ctx = some programCtx ∧ q0.header.toNat = 0x800) ∧
    (tIn q0).steadyOver [(0x20800, 128)] programCtx 0x800 128 0x20800 ∧
    (let q : Queue := { q0 with state := 1, wakelatch := 3 }
    (tIn q).queue? q.key = some q ∧ q.slot = none ∧ (3 : Nat) ≤ q.wakelatch.toNat ∧ q.wakelatch.toNat < 16 ∧
      q.state ≠ 0) ∧
    (let q : Queue := { q0 with state := 5, rangeLatched := some 17 }
    (tIn q).queueMem q programCtx q.cmdidx 0x23000 0x20800 [] ∧ q.state ≠ 2 ∧ q.rangeLatched = some 17) ∧
    (let q : Queue := { q0 with state := 2, slot := some 1 }
    (tIn q).queue? q.key = some q ∧ q.state = 2 ∧ q.rangeLatched = none) ∧
    (tSwitch q0).queue? q0.key = some q0 ∧ (tSwitch q0).fw.state = .switching :=
  ⟨by decide,
    qm (by decide) rfl (by decide) (by decide) rfl rfl (by decide) (by decide) (by decide) (by decide) (by decide),
    by decide, header_at q0, by decide,
    ⟨qm (by decide) rfl (by decide) (by decide) rfl rfl (by decide) (by decide) (by decide) (by decide) (by decide),
      by decide, by decide⟩, by decide, by decide⟩

/-- A stopped queue with a class. -/
def qStop (cls : BitVec 8) : Queue := { q0 with state := 5, stopclass := cls }

theorem witness_QueueControl :
    ((tIn qM).queue? qM.key = some qM ∧ qM.state ≠ 5 ∧ qM.state ≠ 6) ∧
    ((tIn (qStop 0x22)).queue? 0 = some (qStop 0x22) ∧ (tIn (qStop 0x22)).ctx? (qStop 0x22).ctx = some programCtx ∧
      (qStop 0x22).unmapStep = 0 ∧ (qStop 0x22).swapped = [] ∧
      (0x22 : BitVec 8) ∉ ([0, 0x2a, 0x30, 0x31, 0x32, 0x33, 0x35] : List (BitVec 8))) ∧
    (tIn (qStop 0x22)).steadyOver [(0x20800, 128)] programCtx 0x800 128 0x20800 ∧
    (tIn (qStop 0x22)).steady programCtx ((qStop 0x22).ringBase.toNat + 256 * (0 % 2 ^ 4)) 16 0x22000 ∧
    (let q : Queue := { qStop 0x32 with kept := [⟨0, zeros 32, true⟩] }
    (tIn q).queue? q.key = some q ∧ q.stopclass = 0x32 ∧ q.kept = [⟨0, zeros 32, true⟩] ∧ (tIn q).fw.state = .idle ∧
      (zeros 32).length = 32) ∧
    (tIn { qStop 0x32 with kept := [⟨0, zeros 32, true⟩] }).steadyOver ((0x20800, 128) :: [(0x23000, 32)]) programCtx
      ((qStop 0x32).cqAddr 0) 32 0x23000 ∧
    ((tIn (qStop 0x33)).queue? 0 = some (qStop 0x33) ∧ (qStop 0x33).stopclass = 0x33) ∧
    (let q : Queue := { qM with unmapStep := 1 }
    (tIn q).queue? q.key = some q ∧ q.unmapStep ≠ 0) ∧
    (let q : Queue := { qM with flights := [⟨0, 0, true, none⟩] }
    (tIn q).queueMem q programCtx 0 0x23000 0x20800 [] ∧ q.unmapStep = 0 ∧ (tIn q).fw.state ≠ .deferred ∧
      ∀ g ∈ (tIn q).grids, ¬ (g.queue = some q.key ∧ g.pod = false ∧ g.complete = false)) ∧
    (tSwitch qM).queue? qM.key = some qM ∧ (tSwitch qM).fw.state = .switching :=
  ⟨by decide, by decide, header_at _,
    steadyOver_of rfl (by decide) rfl rfl (by decide) (by decide) (by decide), by decide,
    steadyOver_of rfl (by decide) rfl rfl (by decide) (by decide) (by decide), by decide, by decide,
    ⟨qm (by decide) rfl (by decide) (by decide) rfl rfl (by decide) (by decide) (by decide) (by decide) (by decide),
      by decide, by decide, by decide⟩, by decide⟩

/-- A ready queue and 64 idle ones in the slots of its die. -/
def tFull : State :=
  { tHead with queues := { q0 with state := 1, prio := 5 } :: (List.range 64).map fun k =>
      { q0 with key := k + 1, index := k + 1, qnum := k + 100, state := 3, slot := some k } }

/-- A ready queue and 64 busy ones of its priority in the slots of its die; what it found before. -/
def tBusy (l : List Seek) : State :=
  { tHead with
    queues := { q0 with state := 1, prio := 5 } :: (List.range 64).map fun k =>
      { q0 with key := k + 1, index := k + 1, qnum := k + 100, state := 3, slot := some k, prio := 5, tail := 9 }
    dies := [(0, { Die.reset with seeks := l })] }

theorem witness_SlotScheduling :
    (let q : Queue := { q0 with state := 1 }
    (tIn q).nextReady 0 = some q ∧ (tIn q).freeSlot 0 = some 0 ∧ (tIn q).queue? q.key = some q ∧ q.saveptr = 0 ∧
      (tIn q).fw.state = .idle ∧ (tIn q).ctx? q.ctx = some programCtx) ∧
    (∀ q, (tIn q).steady programCtx 0x800 128 0x20800) ∧
    (tFull.freeSlot 0 = none ∧ (tFull.nextSeeker 0).map (·.key) = some 0 ∧
      (tFull.victim 0 5).map (·.slot) = some (some 0)) ∧
    ((tBusy []).freeSlot 0 = none ∧ (tBusy []).nextSeeker 0 = some { q0 with state := 1, prio := 5 } ∧
      (tBusy []).queuePrio { q0 with state := 1, prio := 5 } = 5 ∧ (tBusy []).victim 0 5 = none) ∧
    ((tBusy [⟨0, 5, none⟩]).freeSlot 0 = none ∧
      (tBusy [⟨0, 5, none⟩]).candidates 0 = [{ q0 with state := 1, prio := 5 }] ∧
      (tBusy [⟨0, 5, none⟩]).queuePrio { q0 with state := 1, prio := 5 } = 5 ∧
      ((tBusy [⟨0, 5, none⟩]).die 0).seeks = [⟨0, 5, none⟩]) ∧
    (let q : Queue := { q0 with state := 2, slot := some 7 }
    (tIn q).queue? q.key = some q ∧ q.rangeLatched = none ∧ q.stopclass = 0) ∧
    (let q : Queue := { q0 with state := 2, slot := some 7, stopclass := 0x22 }
    let s : State := { tIn q with grids := [{ programGrid with queue := some 0 }] }
    s.queue? q.key = some q ∧ s.fw.state = .idle ∧ s.localLive q.key = true) ∧
    (let q : Queue := { q0 with state := 2, slot := some 7, rangeLatched := some 17 }
    (tIn q).queueMem q programCtx q.cmdidx 0x23000 0x20800 [] ∧ (tIn q).fw.state = .idle ∧ (tIn q).queueBusy q = false ∧
      (tIn q).priFailed = []) ∧
    (let q : Queue := { q0 with state := 4, slot := some 63, unmapStep := 2 }
    (tIn q).queue? q.key = some q ∧ q.unmapStep ≠ 0 ∧ (tIn q).localBlocks q.key = [] ∧ (tIn q).queueBusy q = false ∧
      q.swapped = [] ∧ q.abortDue = false) ∧
    (tIn q0).nextReady 3 = none ∧
    (let q : Queue := { q0 with state := 3, slot := some 0 }
    let s : State := { tIn q with grids := [{ programGrid with queue := some 0 }] }
    s.queue? q.key = some q ∧ s.fw.state ≠ .switching ∧
      ((s.localBlocks q.key).any fun b => b.warps.any fun w => w.frontier.any fun e => e.park == 0) = true) ∧
    (let q : Queue := { q0 with state := 3, slot := some 0 }
    (tIn q).queue? q.key = some q ∧ q.tail.toNat ≤ q.head.toNat ∧ (tIn q).localBlocks q.key = []) :=
  ⟨by decide, fun q => steadyOver_of rfl (show tables tHead.dram = true by decide) rfl rfl (by decide) (by decide) (by decide),
    by decide, by decide, by decide,
    by decide, by decide,
    ⟨qm (by decide) rfl (by decide) (by decide) rfl rfl (by decide) (by decide) (by decide) (by decide) (by decide),
      by decide, by decide, rfl⟩, by decide, by decide, by decide, by decide⟩

end Sys2Proof.Tests
end

