-- ==== Sys2Proof/Tests/WitnessPod.lean ====
section
/-! SUPPORT. Witnesses for the statements about the traverse and pod grids: states that meet all the hypotheses of a
statement, clause by clause. -/

namespace Sys2Proof.Tests

open Sys2Proof Sys2Proof.Machine

set_option maxRecDepth 20000
set_option exponentiation.threshold 1200

/-- Package 0 as a member of a pod of three live packages (R46, R53). -/
def tThree : State :=
  { tRW with
    plat := platSet (platSet (platSet (platSet [] 2 0x30000) 8 1) 9 1) 10 1
    trav := { tRW.trav with role := .member } }

/-- The same with batches held for the open station. -/
def tBatches (bs : List Batch) : State := { tThree with trav := { tThree.trav with batches := bs } }

/-- A batch of one EMPTY record with a closure word. -/
def emptyBatch (p : Nat) (v : DWord) : Batch := ⟨p, [{ emptyRec p with pclose := v }]⟩

/-- A batch from every member, each with the same closure word, and a vote against package 1 out of date. -/
def tAll : State := tBatches [emptyBatch 0 0, emptyBatch 1 0, emptyBatch 2 0]

/-- Every held batch of a member is one EMPTY record with the closure word v. -/
def allEmpty (s : State) (v : DWord) : Bool :=
  s.members.all fun p =>
    match s.batchOf p with
    | some ⟨_, [e]⟩ => e.type == 0 && e.pclose == v
    | some _ => false
    | none => true

theorem allEmpty_spec {s : State} {v : DWord} (h : allEmpty s v = true) : ∀ p ∈ s.members, ∀ b, s.batchOf p = some b →
    ∃ e, b.recs = [e] ∧ e.type = 0 ∧ e.pclose = v := by
  intro p hp b hb
  have := List.all_eq_true.1 h p hp
  rw [hb] at this
  rcases b with ⟨_, _ | ⟨e, _ | ⟨_, _⟩⟩⟩ <;> simp at this
  exact ⟨e, rfl, this.1, this.2⟩

/-- The closure words of the held batches. -/
def closures (s : State) (a v : DWord) : Bool :=
  s.members.all fun p => (s.batchOf p).all fun b => b.pclose == if p = s.pkg then a else v

theorem closures_spec {s : State} {a v : DWord} (h : closures s a v = true) : ∀ p ∈ s.members, ∀ b,
    s.batchOf p = some b → b.pclose = if p = s.pkg then a else v := by
  intro p hp b hb
  have := List.all_eq_true.1 h p hp
  rw [hb] at this
  simpa using this

/-- Package 2 has been reported unreachable before this package sent its batch. -/
def tSuspects : State := { tThree with trav := { tThree.trav with suspects := [2] } }

theorem witness_Stations :
    let own (s : State) : Prop := s.trav.role = .member ∧ s.memState s.pkg = 1
    let due (s : State) : Prop := s.trav.sent = false ∧
      (s.trav.pend ≠ [] ∨ s.trav.batches ≠ [] ∨ s.trav.suspects ≠ [])
    let suspected (s : State) : Prop := ∃ q ∈ s.trav.suspects, q ∈ s.missing ∧ q ≠ s.pkg
    (own tAll ∧ due tAll ∧ ¬ suspected tAll) ∧
    (own tSuspects ∧ due tSuspects ∧ suspected tSuspects) ∧ ¬ (own tThree ∧ due tThree) ∧
    (tThree.trav.role = .member ∧ [emptyRec 1] ≠ [] ∧ (1 : DWord) = tThree.station + 1 ∧ 1 ∈ tThree.members ∧
      (tThree.batchOf 1).isSome = false ∧ tThree.trav.votes = []) ∧
    ((1 : DWord) = tAll.station + 1 ∧ 255 ∉ tAll.members) ∧
    ((0 : DWord) ≠ tThree.station + 1 ∧ (0 : DWord).toNat ≤ tThree.station.toNat) ∧
    ((2 : DWord) ≠ tThree.station + 1 ∧ tThree.station.toNat < (2 : DWord).toNat ∧ tThree.trav.later = []) ∧
    (let s := { tThree with trav := { tThree.trav with sent := true } }
    own s ∧ s.trav.sent = true ∧ s.missing ≠ []) ∧
    ¬ (own tAll ∧ tAll.trav.sent = true ∧ tAll.missing ≠ []) ∧
    (own (tBatches [emptyBatch 0 0]) ∧ 2 ≠ (tBatches [emptyBatch 0 0]).pkg ∧ 2 ∈ (tBatches [emptyBatch 0 0]).missing ∧
      2 ∉ (tBatches [emptyBatch 0 0]).trav.suspects ∧ (tBatches [emptyBatch 0 0]).trav.sent = false) ∧
    (let s := { tThree with trav := { tThree.trav with sent := true } }
    own s ∧ 2 ≠ s.pkg ∧ 2 ∈ s.missing ∧ 2 ∉ s.trav.suspects ∧ s.trav.sent = true) ∧
    (own tThree ∧ 0 = tThree.pkg) ∧
    (own tThree ∧ 2 ∈ tThree.members) ∧
    (tThree.trav.role = .member ∧ tThree.trav.votes = [] ∧ tThree.missing ≠ []) ∧
    (own tAll ∧ tAll.pkg ∈ tAll.members ∧ tAll.missing = [] ∧ tAll.rows = [] ∧ tAll.fabricOut = [] ∧
      tAll.trav.joins = [] ∧ ∀ p ∈ tAll.members, ∀ b, tAll.batchOf p = some b →
        ∃ e, b.recs = [e] ∧ e.type = 0 ∧ e.pclose = 0) ∧
    (let s := tBatches [emptyBatch 0 7, emptyBatch 1 0, emptyBatch 2 0]
    own s ∧ s.pkg ∈ s.members ∧ s.missing = [] ∧ 3 ≤ s.members.length ∧ ∀ p ∈ s.members, ∀ b,
      s.batchOf p = some b → b.pclose = if p = s.pkg then 7 else 0) :=
  ⟨⟨by decide, by decide, by decide⟩, by decide, by decide, by decide, by decide, by decide, by decide, by decide, by decide, by decide, by decide,
    by decide, by decide, by decide, ⟨by decide, by decide, by decide, by decide, by decide, by decide, allEmpty_spec (by decide)⟩,
    ⟨by decide, by decide, by decide, by decide, closures_spec (by decide)⟩⟩

/- ### Joining and pod grids -/

/-- Package 1 is joining and this package sponsors it (R70). -/
def tJoins : State :=
  { tThree with
    plat := platSet tThree.plat 9 3
    trav := { tThree.trav with joins := [1] } }

/-- A package that asked to join and has not its snapshot. -/
def tAsker : State := { tRW with trav := { tRW.trav with sponsor := some 1 } }

/-- The record of a grid launched from here at a row: entry 0 of the image at 0x1000, no arguments. -/
def tRow : State :=
  { tThree with
    blocks := [], grids := [], ctxs := [{ programCtx with pctx := some 3 }]
    rows := [⟨1, .start, 0, 1, 0, 0x1005, 0, 0⟩]
    plat := platSet tThree.plat (rowWord 5 0) (BitVec.ofNat 64 (2 ^ 45 + 2 ^ 36 + 2 ^ 27 + 2 * 2 ^ 16 + 3))
    podCmds := [⟨0, 0, .nobody, some 0x1005, 1, 0x600000⟩]
    dram := tThree.dram.setBytes 0x600009 [0x10]
    acache := [(5, [⟨0, launchImage⟩])] }

/-- What reading the image of a row's record comes to, as one check. -/
def rowImage (s : State) (c : Ctx) (e : Nat) (a : DWord) : Bool :=
  match s.readImage c 5 e a with
  | .ok _ img => img == launchImage
  | _ => false

theorem rowImage_ok {s : State} {c : Ctx} {e : Nat} {a : DWord} (h : rowImage s c e a = true) :
    ∃ u, s.readImage c 5 e a = .ok u launchImage := by
  unfold rowImage at h
  split at h
  · next u img hi =>
    simp only [beq_iff_eq] at h
    exact ⟨u, h ▸ hi⟩
  · cases h

theorem leNat_take (k : Nat) : ∀ xs : List Byte, leNat (xs.take k) = leNat xs % 256 ^ k := by
  induction k with
  | zero => intro xs; simp [leNat, Nat.mod_one]
  | succ k ih =>
    intro xs
    cases xs with
    | nil => simp [leNat]
    | cons b t =>
      have hb : b.toNat < 256 := b.isLt
      rw [List.take_succ_cons, leNat, leNat, ih t, Nat.pow_succ, Nat.mul_comm (256 ^ k) 256, Nat.mod_mul,
        Nat.add_mul_mod_self_left, Nat.mod_eq_of_lt hb, Nat.add_mul_div_left _ _ (by decide),
        Nat.div_eq_of_lt hb, Nat.zero_add]

theorem bytes_take (m : Memory) (k r : Nat) : ∀ a, (m.bytes a (k + r)).take k = m.bytes a k := by
  induction k with
  | zero => intro a; simp [Memory.bytes]
  | succ k ih =>
    intro a
    rw [Nat.add_right_comm, Memory.bytes, List.take_succ_cons, ih, Memory.bytes]

/-- A field near the start of a long byte string. -/
theorem bitsOf_bytes (m : Memory) (a k r lo n : Nat) (h : lo + n ≤ 8 * k) :
    bitsOf (m.bytes a (k + r)) lo n = bitsOf (m.bytes a k) lo n := by
  have e := leNat_take k (m.bytes a (k + r))
  rw [bytes_take] at e
  unfold bitsOf
  rw [e, show (256 : Nat) ^ k = 2 ^ (8 * k) by rw [Nat.pow_mul]]
  apply Nat.eq_of_testBit_eq
  intro i
  simp only [Nat.testBit_mod_two_pow, Nat.testBit_div_two_pow]
  by_cases hi : i < n
  · have : i + lo < 8 * k := by omega
    simp [hi, this]
  · simp [hi]

/-- The grid of a START row that has been accepted. -/
def podGrid : Grid := { programGrid with id := 0x1005, pod := true, parcels := 1 }

/-- That grid alone on the package. -/
def tPodGrid (g : Grid) : State := { tThree with blocks := [], grids := [g] }

/-- That grid beside the loaded program, whose block stands in its parcel. -/
def tBeside : State := { tThree with grids := [programGrid, podGrid] }

theorem witness_PodGrids :
    let own (s : State) : Prop := s.trav.role = .member ∧ s.memState s.pkg = 1
    (own tThree ∧ own tJoins ∧ 1 ∈ tJoins.trav.joins) ∧ 1 ∉ tThree.trav.joins ∧
    (own tJoins ∧ 1 ∈ tJoins.trav.joins ∧ tJoins.memState 1 = 3) ∧ ¬ tThree.memState 1 = 3 ∧
    (tAsker.trav.sponsor ≠ none ∧ tAsker.trav.role ≠ .member ∧ tAsker.trav.role ≠ .replaying ∧
      (([(1, 5), (19751, 7)] : List (Nat × DWord)).map fun e => e.1).Nodup) ∧
    (¬ own tAsker ∧ tAsker.trav.sponsor = some 1 ∧ ∀ f ∈ tAsker.funcs, f.await ≠ some .join) ∧
    tThree.trav.role = .member ∧
    (let s := tRow
    let r : Row := ⟨1, .start, 0, 1, 0, 0x1005, 0, 0⟩
    let bs := s.dram.bytes 0x600000 8192
    let c : Ctx := { programCtx with pctx := some 3 }
    s.rows = [r] ∧ r.kind = .start ∧ s.rowOf r.grid = some 5 ∧ s.rowState 5 = 2 ∧ s.rowOrigin 5 = s.pkg ∧
      s.recordBytes (s.rowHandle 5) = some bs ∧ s.podCtx (s.rowPctx 5) = some c ∧
      launchImage.check = s.pw (rowWord 5 2) ∧ launchImage.desc.area ≤ c.poolSize ∧ bitsOf bs 32 16 = 0 ∧
      s.blocks = [] ∧ s.heldRemote = [] ∧ s.trav.role ≠ .fenced ∧ s.fw.state ≠ .switching ∧
      s.grid? r.grid = none ∧ ∃ u, (s.keepLaunch r.grid bs).readImage c 5 (leNat ((bs.drop 2).take 2)) (BitVec.ofNat 64 (bitsOf bs 64 64)) =
        .ok u launchImage) ∧
    ((tPodGrid podGrid).rows = [] ∧ (tPodGrid podGrid).heldRemote = [] ∧
      (tPodGrid podGrid).grid? podGrid.id = some podGrid ∧ podGrid.pod = true ∧ podGrid.offered = false ∧
      podGrid.ending = none ∧ (tPodGrid podGrid).blocks = []) ∧
    (tBeside.rows = [] ∧ tBeside.grid? podGrid.id = some podGrid ∧ ∃ b ∈ tBeside.blocks, b.ended = false ∧
      b.res = .resident ∧ podGrid.parcels.getLsbD (2 * b.die + b.quad / 24) = true ∧
      tBeside.grid? b.grid = some programGrid ∧ programGrid.pod = false) ∧
    (let g := { podGrid with offered := true }
    (tPodGrid g).grid? g.id = some g ∧ (tPodGrid g).blocks = [] ∧ g.pod = true ∧ g.offered = true ∧
      g.complete = false ∧ g.stopped = false ∧ g.ending = none ∧ g.quartets ≤ g.nextQuartet) ∧
    ((tPodGrid podGrid).grid? podGrid.id = some podGrid ∧ podGrid.offered = false) :=
  ⟨by decide, by decide, by decide, by decide, by decide, by decide, by decide,
    ⟨rfl, rfl, by decide, by decide, by decide, rfl, by decide, by decide, by decide,
      by rw [bitsOf_bytes _ _ 16 8176 32 16 (by decide)]; decide, rfl, rfl, by decide, by decide, by decide,
      by rw [bitsOf_bytes _ _ 16 8176 64 64 (by decide)]; exact rowImage_ok (by decide)⟩, by decide, by decide, by decide, by decide⟩

end Sys2Proof.Tests
end

