-- ==== Sys2Proof/Tests/WitnessPlacement.lean ====
section
/-! SUPPORT. Witnesses for the statements about placing, stopping, moving and testing: states that meet all the
hypotheses of a statement, clause by clause. -/

namespace Sys2Proof.Tests

open Sys2Proof Sys2Proof.Machine

set_option maxRecDepth 20000
set_option exponentiation.threshold 1200

/-- A kernel entry at the start of the code. -/
def entry0 : KEntry := ⟨0, 0x80, true, true, false⟩

/-- A grid of eight blocks whose first quartet is to be placed. -/
def newGrid : Grid :=
  { programGrid with
    offered := true, gx := 8, nextQuartet := 0
    img := { programGrid.img with entries := [entry0], desc := { programGrid.img.desc with spad := 0x8000 } } }

/-- That grid on an empty package. -/
def tNew : State := { tRW with blocks := [], grids := [newGrid] }

/-- The grid of a queue in slot 0. -/
def tMine : State :=
  { tNew with
    grids := [{ newGrid with queue := some 0 }]
    queues := [{ q0 with state := 3, slot := some 0 }] }

/-- A grid of five blocks in a pool with room for one. -/
def tLast : State :=
  { tNew with
    grids := [{ newGrid with gx := 5 }], ctxs := [{ programCtx with allocs := [], poolSize := 0x51000 }] }

theorem witness_QuartetPlacement :
    tMine.servedSlot 0 = some 0 ∧
    (tS.grid? 0 = some programGrid ∧ tS.placeable programGrid = false) ∧
    (let g := { newGrid with queue := some 0 }
    let q : Queue := { q0 with state := 3, slot := some 0 }
    tMine.grid? 0 = some g ∧ tMine.placeable g = true ∧ tMine.queue? 0 = some q ∧ q.slot.isSome = true ∧
      q.slot = tMine.servedSlot q.home ∧ (tMine.placeQuartet g 0).isSome = true) ∧
    (let g := { newGrid with gx := 5 }
    tLast.grid? 0 = some g ∧ tLast.placeable g = true ∧ 1 + 1 = g.quartets ∧ g.img.desc.det = false ∧ 1 ∉ g.ahead ∧
      tLast.placeQuartet g g.nextQuartet = none ∧ (tLast.placeQuartet g 1).isSome = true) ∧
    (tNew.grid? 0 = some newGrid ∧ newGrid.id = 0 ∧ tNew.placeable newGrid = true ∧
      newGrid.img.entries[newGrid.entry]? = some entry0 ∧
      (tNew.placeQuartet newGrid newGrid.nextQuartet).isSome = true) := by decide

/-- Every lane stands at most once. -/
def onceAll (w : Warp) : Bool :=
  (List.range 32).all fun l => w.frontier.all fun e =>
    !e.mask.getLsbD l || w.stands l == some (e.pc, e.park)

theorem once_of {w : Warp} (h : onceAll w = true) : ∀ l, l < 32 → w.once l := by
  intro l hl e he hm
  have := List.all_eq_true.1 (List.all_eq_true.1 h l (List.mem_range.2 hl)) e he
  rw [hm] at this
  simpa using this

/-- The loaded program's block changed. -/
def pBlock (f : Block → Block) : Block := f programBlock

/-- Its warp. -/
def pWarp : Warp := Warp.start 0 0 0x100 0x80 0

/-- The loaded program with its block changed, in a grid that is offered. -/
def tBlk (f : Block → Block) : State :=
  { tRW with blocks := [f programBlock], grids := [{ programGrid with offered := true }] }

/-- What the seat of block b comes to: it can sit on its own core again. -/
def seats (s : State) (g : Grid) (b : Block) : Bool :=
  match s.canSeat g [b] with
  | some u => (u.block? b.key).any fun x => x.coreNum == b.coreNum && x.die == b.die
  | none => false

theorem seats_spec {s : State} {g : Grid} {b : Block} (h : seats s g b = true) :
    ∃ u x, s.canSeat g [b] = some u ∧ u.block? b.key = some x ∧ x.coreNum = b.coreNum ∧ x.die = b.die := by
  unfold seats at h
  split at h
  · next u hu =>
    cases hx : u.block? b.key with
    | none => rw [hx] at h; cases h
    | some x =>
      rw [hx] at h
      exact ⟨u, x, hu, hx, by simpa using h⟩
  · cases h

/-- The loaded program's warp waiting for memory, beside a grid that finds no room on its core. -/
def waitBlock : Block := { programBlock with warps := [{ pWarp with frontier := [⟨0x100, 0x80, 0xffffffff, 3⟩] }] }

/-- A grid whose blocks need all 64 warp slots of a core. -/
def wideGrid : Grid :=
  { newGrid with id := 1, img := { newGrid.img with desc := { newGrid.img.desc with warps := 64 } } }

/-- Both on the package. -/
def tWaits : State := { tRW with blocks := [waitBlock], grids := [programGrid, wideGrid] }

/-- The first quartet of a grid at a barrier of the package's scope. -/
def atBar : Block :=
  { programBlock with
    warps := [{ pWarp with
      frontier := [⟨0x104, 0x80, 0xffffffff, 5⟩]
      waits := [⟨0, 0x104, .barIn 3 none⟩] }]
    bars := [(3, { programBlock.bar 3 with first := some (1, .pkg) })] }

/-- The context's pool holds no area for its second quartet. -/
def tStuck : State :=
  { tRW with
    blocks := [atBar], grids := [{ newGrid with nextQuartet := 1 }]
    ctxs := [{ programCtx with poolSize := 0x51000 }] }

theorem witness_BlockMoves :
    let distinct (s : State) : Prop := (s.blocks.map fun b => b.key).Nodup
    let draining (die : Nat) (b : Block) : Prop := b.die = die ∧ ∃ c, c ≠ 5 ∧ b.stop = some (c, 1)
    let req (k : Nat) : Block := { programBlock with stop := some (1, k) }
    let swapped : Block := { programBlock with res := .swapped }
    (distinct (tBlk fun b => { b with stop := some (1, 1) }) ∧ req 1 ∈ (tBlk fun b => { b with stop := some (1, 1) }).blocks ∧
      (req 1).ended = false ∧ (req 1).res = .resident ∧ draining 0 (req 1)) ∧
    (distinct tS ∧ programBlock ∈ tS.blocks ∧ ∀ p ∈ tS.blocks, ¬ draining 0 p) ∧
    (let s := tBlk fun b => { b with stop := some (1, 2) }
    s.block? (req 2).key = some (req 2) ∧ (req 2).res = .resident ∧ (req 2).stop = some (1, 2) ∧
      (s.grid? (req 2).grid).map (·.ending) = some none) ∧
    (tS.block? programBlock.key = some programBlock ∧ programBlock.stop = none) ∧
    (let s := tBlk fun b => { b with stop := some (1, 2) }
    distinct s ∧ s.block? (req 2).key = some (req 2) ∧ (s.grid? (req 2).grid).isSome = true ∧
      s.unitStopped (s.unitOf (req 2)) = true ∧ req 2 ∈ s.unitOf (req 2) ∧ (req 2).ended = false) ∧
    (tS.block? programBlock.key = some programBlock ∧ tS.unitStopped (tS.unitOf programBlock) = false) ∧
    (let s := tBlk fun b => { b with res := .swapped }
    s.block? swapped.key = some swapped ∧ (s.grid? swapped.grid).isSome = true ∧ swapped.res = .swapped ∧
      swapped.ended = false ∧ swapped.valid = false ∧ swapped.xfers = []) ∧
    (tS.block? programBlock.key = some programBlock ∧ programBlock.res = .resident) ∧
    (let s : State := (tBlk fun b => { b with res := .swapped }).setCore 0 { Core.reset with shadow := [(0x1000000, 8)] }
    let g := { programGrid with offered := true }
    s.block? swapped.key = some swapped ∧ s.grid? swapped.grid = some g ∧ swapped.res = .swapped ∧
      swapped.ended = false ∧ s.unitOf swapped = [swapped] ∧ s.resumable g = true ∧ s.earlier swapped = false ∧
      (∃ u x, s.canSeat g [swapped] = some u ∧ u.block? swapped.key = some x ∧ x.coreNum = swapped.coreNum ∧
        x.die = swapped.die) ∧ s.shadowed swapped swapped.coreNum = true ∧
      swapped.rsv = false ∧ swapped.xfers = [] ∧ (∀ n : Nat, n < 16 → (swapped.bar n).done = 0) ∧
      s.ctx? g.ctx = some programCtx ∧ programCtx.iblk = none) ∧
    (distinct tWaits ∧ (tWaits.blocks.filter fun b => b.on 0) = [waitBlock] ∧
      (∃ b ∈ tWaits.blocks.filter fun b => b.on 0, ∃ w ∈ b.warps, w.hasEnded = false) ∧
      (∀ b ∈ tWaits.blocks.filter fun b => b.on 0, ∀ w ∈ b.warps, w.hasEnded = false → w.allWait = true) ∧
      tWaits.waitsFor 0 = true ∧ waitBlock.stop = none) ∧
    tS.waitsFor 0 = false ∧
    (let g := { newGrid with nextQuartet := 1 }
    tStuck.grid? 0 = some g ∧ g.pod = false ∧ g.ending = none ∧ g.nextQuartet < g.quartets ∧
      g.complete = false ∧ g.offered = true ∧ (∃ b ∈ tStuck.blocks, b.grid = 0 ∧ b.ended = false ∧ b.spawned = false ∧ b.atWide 3 = true) ∧
      (∀ b ∈ tStuck.blocks, b.grid = 0 → b.ended = false → b.spawned = false → ∃ k, k < 16 ∧ b.atWide k = true) ∧
      (tStuck.aloneFor 0).placeQuartet g g.nextQuartet = none) ∧
    (tS.grid? 0 = some programGrid ∧ ¬ programGrid.nextQuartet < programGrid.quartets) :=
  ⟨⟨by decide, by decide, by decide, by decide, by decide, 1, by decide, by decide⟩,
    ⟨by decide, by decide, by rintro p hp ⟨_, c, _, hc⟩
                              rw [List.mem_singleton.1 hp] at hc
                              cases hc⟩,
    by decide, by decide, by decide, by decide, by decide, by decide,
    ⟨by decide, by decide, by decide, by decide, by decide, by decide, by decide, seats_spec (by decide), by decide,
      by decide, by decide, by decide, by decide, by decide⟩,
    by decide, by decide,
    ⟨by decide, by decide, by decide, by decide, by decide, by decide, by decide,
      fun b hb _ _ _ => ⟨3, by decide, by rw [List.mem_singleton.1 hb]; decide⟩, by decide⟩, by decide⟩

/-- Physical quad 0 of die 0 changed. -/
def tQuad (f : Quad → Quad) : State := tRW.setQuad 0 0 (f (tRW.quad 0 0))

/-- The same without blocks. -/
def tBare (f : Quad → Quad) : State := { tQuad f with blocks := [] }

/-- A warp of the loaded program changed. -/
def tWarp (f : Warp → Warp) : State := { tRW with blocks := [{ programBlock with warps := [f pWarp] }] }

theorem witness_TestsAndHalts :
    let on (s : State) (die n : Nat) (b : Block) : Prop :=
      b ∈ s.blocks ∧ b.res = .resident ∧ b.die = die ∧ (s.quad die n).logical = some b.quad
    let due (d : Nat) (s : State) : Prop := (s.quad 0 0).due = true ∧ (s.quad 0 0).deferrals = d
    (4 : Nat) ≤ 7 ∧
    ((tRW.blocks.map fun b => b.key).Nodup ∧ (tRW.quad 0 0).retired = false ∧ (tRW.quad 0 0).testing = false ∧
      (tRW.quad 0 0).due = false ∧ on tRW 0 0 programBlock ∧ programBlock.ended = false ∧ programBlock.stop = none) ∧
    (due 0 (tBare fun q => { q with due := true }) ∧ ∀ b ∈ (tBare fun q => { q with due := true }).blocks, False) ∧
    (due 1 (tQuad fun q => { q with due := true, deferrals := 1 }) ∧
      on (tQuad fun q => { q with due := true, deferrals := 1 }) 0 0 programBlock) ∧
    (due 2 (tQuad fun q => { q with due := true, deferrals := 2 }) ∧
      on (tQuad fun q => { q with due := true, deferrals := 2 }) 0 0 programBlock) ∧
    (((tQuad fun q => { q with testing := true }).quad 0 0).testing = true ∧
      ((tQuad fun q => { q with testing := true }).quad 0 0).rowsOff = [] ∧
      ((tQuad fun q => { q with testing := true }).quad 0 0).logical = some 0) ∧
    (let s : State := (tRW.setQuad 0 49 { Quad.reset 49 with testing := true }).setQuad 0 0
      { Quad.reset 0 with logical := none, retired := true }
    (s.quad 0 49).testing = true ∧ (s.quad 0 49).rowsOff = [] ∧ (s.quad 0 49).logical = none ∧
      (s.quad 0 49).retired = false ∧ ∀ k, k < 50 → (s.quad 0 k).logical ≠ some 0) ∧
    (let w : Warp := { pWarp with st := { pWarp.st with pdbg := true } }
    let s := tWarp fun w => { w with st := { w.st with pdbg := true } }
    let b : Block := { programBlock with warps := [w] }
    s.block? b.key = some b ∧ b.warp? w.num = some w ∧ s.grid? b.grid = some programGrid ∧ b.res = .resident ∧
      w.st.pdbg = true ∧ w.hasEnded = false ∧ w.atBoundary = true ∧ w.rgn.inrgn = false ∧
      b.xfers = [] ∧ (∀ l, l < 32 → w.once l) ∧ ∃ e ∈ w.frontier, e.park = 0) ∧
    ((tWarp id).block? programBlock.key = some programBlock ∧ programBlock.warp? 0 = some pWarp ∧
      pWarp.st.pdbg = false ∧ pWarp.st.hold = false) ∧
    (let w : Warp := { pWarp with st := { pWarp.st with hold := true }, consumed := [5] }
    let s := tWarp fun w => { w with st := { w.st with hold := true }, consumed := [5] }
    let b : Block := { programBlock with warps := [w] }
    s.block? b.key = some b ∧ b.warp? w.num = some w ∧ w.st.hold = true ∧ w.consumed ≠ [] ∧ w.straps = []) :=
  ⟨by decide, by decide, ⟨by decide, fun _ h => nomatch h⟩, by decide, by decide, by decide,
    by decide,
    ⟨by decide, by decide, by decide, by decide, by decide, by decide, by decide, by decide, rfl, once_of (by decide),
      by decide⟩, by decide, by decide⟩

end Sys2Proof.Tests
end

