-- ==== Sys2Proof/Tests/WitnessUnits.lean ====
section
/-! SUPPORT. Witnesses for the statements about the matrix engine, barriers, user-level interrupts and pod
instructions: states and operands that meet all the hypotheses of a statement, clause by clause. -/

namespace Sys2Proof.Tests

open Sys2Proof Sys2Proof.Machine

set_option maxRecDepth 20000

/- ### The matrix engine -/

/-- Core 0's matrix engine as given. -/
def onMx (s : State) (f : Engine → Engine) : State := s.setCore 0 { s.core 0 with mx := f (s.core 0).mx }

/-- The warp holds the engine, alone in its gang, with SB8 weights active. -/
def tMx : State :=
  onMx (onB tTrap fun b => { b with
    rsv := true
    gang := 1
    tiles := [(2, ⟨2, 0, true, false, .ready, 128, 64, 0⟩), (3, ⟨0x12, 0, true, false, .ready, 512, 4, 0x4000⟩)] })
    fun e => { e with holder := some 0x1000000, fmt0 := 2 }

/-- The state after one matrix instruction has been released. -/
def oneOp (i : Instr) (t : Option Tile) (data : List (List Word)) : State :=
  onMx tMx fun e => { e with ops := [⟨i, [], 0, [(0, 0xffffffff)], 0, t, data⟩] }

theorem witness_MatrixReservationAndGangs :
    (∃ x, Issues (.mrsv 0 5) tS x ∧ (x.s.core x.b.coreNum).mx.holder = none) ∧
    (∃ x, Issues (.mrsv 0 5) tMx x ∧ (x.s.core x.b.coreNum).mx.holder = some x.b.key) ∧
    (∃ x, Issues (.mrsv 0 5) (onMx tS fun e => { e with holder := some 7 }) x ∧
      (x.s.core x.b.coreNum).mx.holder = some 7 ∧ 7 ≠ x.b.key ∧ x.g.img.desc.det = false) ∧
    (∃ x, Issues (.mrsv 0 5) (onMx (onG tS fun g =>
        { g with img := { g.img with desc := { g.img.desc with det := true } } })
          fun e => { e with holder := some 7 }) x ∧
      (x.s.core x.b.coreNum).mx.holder = some 7 ∧ 7 ≠ x.b.key ∧ x.g.img.desc.det = true) ∧
    (∃ x, Issues (.mstat 0 9) tMx x ∧ x.g.img.desc.det = false) ∧
    (∃ x, Issues (.mstr 0 1 2 8 3 0 0 false) tTrap x ∧ x.w.utraps = [] ∧
      x.g.img.desc.trapent ≠ 0xffffffff ∧ x.b.rsv = false) ∧
    (∃ x, Issues (.mstr 0 1 2 8 3 0 0 false) (onB tMx fun b => { b with gang := 2 }) x ∧ x.w.utraps = [] ∧
      x.g.img.desc.trapent ≠ 0xffffffff ∧ x.b.rsv = true ∧ (x.s.core x.b.coreNum).mx.gangDue = false ∧
      x.b.gang.getLsbD x.w.num = false) ∧
    (∃ x, Issues (.mstr 0 1 2 8 3 0 0 false) (oneOp (.mrel 0) none []) x ∧ x.b.rsv = true ∧
      (x.s.core x.b.coreNum).mx.gangDue = true) ∧
    ∃ x, Issues (.mstr 0 1 2 8 3 0 0 false) (onB tMx fun b => { b with gang := 0x80000001 }) x ∧
      x.b.rsv = true ∧ x.b.gang.getLsbD x.w.num = true ∧ (x.s.core x.b.coreNum).mx.latch = none ∧
      (x.s.core x.b.coreNum).mx.gangDue = false ∧ 31 ≠ x.w.num ∧ x.b.gang.getLsbD 31 = true :=
  ⟨issues_wit (by decide), issues_wit (by decide), issues_wit (by decide), issues_wit (by decide),
    issues_wit (by decide), issues_wit (by decide), issues_wit (by decide), issues_wit (by decide),
    issues_wit (by decide)⟩

/-- What the statement about releases asks of a site. -/
def MayRelease (i : Instr) (scalars : List DWord) (x : Site) : Prop :=
  x.alone ∧ mxUnsettled (x.s.core x.b.coreNum).mx x.b i = false ∧ mxScalars x.w i = scalars ∧
    releaseCheck (x.s.core x.b.coreNum).mx x i scalars (x.off x.pc) = none

theorem mayRelease {i : Instr} {s : State} {sc : List DWord}
    (h : issuesIf i s (fun x => decide ((x.b.rsv = true ∧ x.w.num < 32 ∧ x.b.gang = laneBit x.w.num ∧
      (x.s.core x.b.coreNum).mx.latch = none ∧ (x.s.core x.b.coreNum).mx.gangDue = false) ∧
      mxUnsettled (x.s.core x.b.coreNum).mx x.b i = false ∧ mxScalars x.w i = sc ∧
      releaseCheck (x.s.core x.b.coreNum).mx x i sc (x.off x.pc) = none)) = true) :
    ∃ x, Issues i s x ∧ MayRelease i sc x := by
  obtain ⟨x, hx, p⟩ := issues_wit (P := fun x => (x.b.rsv = true ∧ x.w.num < 32 ∧ x.b.gang = laneBit x.w.num ∧
      (x.s.core x.b.coreNum).mx.latch = none ∧ (x.s.core x.b.coreNum).mx.gangDue = false) ∧
      mxUnsettled (x.s.core x.b.coreNum).mx x.b i = false ∧ mxScalars x.w i = sc ∧
      releaseCheck (x.s.core x.b.coreNum).mx x i sc (x.off x.pc) = none) h
  exact ⟨x, hx, p⟩

/-- What the statement about the engine asks of a state. -/
def mayPerform (s : State) (op : MOp) : Bool :=
  let e := (s.core 0).mx
  e.holder == some 0x1000000 && e.ops == [op] &&
    match s.block? 0x1000000 with
    | some b => b.coreNum == 0 && (s.grid? b.grid).isSome && mxReady b op && b.gang != 0
    | none => false

theorem witness_MatrixReleaseAndPerformance :
    (∃ x, Issues (.mrel 0) tMx x ∧ MayRelease (.mrel 0) [] x) ∧
    (∃ x, Issues (.mgang 0 4) (onW tMx fun w => w.sset 4 1) x ∧ MayRelease (.mgang 0 4) [1] x) ∧
    (∃ x, Issues (.mlds 0 2 8 false 0) tMx x ∧ MayRelease (.mlds 0 2 8 false 0) [] x) ∧
    (∃ x, Issues (.mswp 0) tMx x ∧ MayRelease (.mswp 0) [] x) ∧
    (∃ x, Issues (.mstr 0 1 2 8 63 0 0 true) tMx x ∧ MayRelease (.mstr 0 1 2 8 63 0 0 true) [] x) ∧
    (∃ x, Issues (.mrd 0 9 1 63 3) tMx x ∧ MayRelease (.mrd 0 9 1 63 3) [] x) ∧
    (∃ x, Issues (.mwr 0 1 9 63 3) tMx x ∧ MayRelease (.mwr 0 1 9 63 3) [] x) ∧
    (∃ x, Issues (.mst 0 1 3 8 3 60 0 0) tMx x ∧ MayRelease (.mst 0 1 3 8 3 60 0 0) [] x) ∧
    (∃ x, Issues (.mclr 0 none) tMx x ∧ MayRelease (.mclr 0 none) [] x) ∧
    (∃ x, Issues (.mstM 0 1 0 4 0 0 0 7) (onG tMx fun g =>
        { g with img := { g.img with
          tlrs := [⟨0, [128, 64], [512], 0x12, 2, 1, 128, 0, 0, 0, 0⟩]
          desc := { g.img.desc with tlrcnt := 1 } } }) x ∧ MayRelease (.mstM 0 1 0 4 0 0 0 7) [0, 0, 0] x ∧
      x.w.token 7 ≠ 63) ∧
    mayPerform (oneOp (.mclr 0 (some 3)) none []) ⟨.mclr 0 (some 3), [], 0, [(0, 0xffffffff)], 0, none, []⟩ ∧
    mayPerform (oneOp (.mrel 0) none []) ⟨.mrel 0, [], 0, [(0, 0xffffffff)], 0, none, []⟩ ∧
    mayPerform (oneOp (.mst 0 1 3 8 3 60 0 0) (some ⟨0x12, 0, true, false, .ready, 512, 4, 0x4000⟩) [])
      ⟨.mst 0 1 3 8 3 60 0 0, [], 0, [(0, 0xffffffff)], 0,
        some ⟨0x12, 0, true, false, .ready, 512, 4, 0x4000⟩, []⟩ := by
  refine ⟨mayRelease (by decide), mayRelease (by decide), mayRelease (by decide), mayRelease (by decide),
    mayRelease (by decide), mayRelease (by decide), mayRelease (by decide), mayRelease (by decide),
    mayRelease (by decide), ?_, by decide, by decide, by decide⟩
  obtain ⟨x, h, p⟩ := issues_wit (i := .mstM 0 1 0 4 0 0 0 7) (s := onG tMx fun g =>
        { g with img := { g.img with
          tlrs := [⟨0, [128, 64], [512], 0x12, 2, 1, 128, 0, 0, 0, 0⟩]
          desc := { g.img.desc with tlrcnt := 1 } } })
    (P := fun x => ((x.b.rsv = true ∧ x.w.num < 32 ∧ x.b.gang = laneBit x.w.num ∧
      (x.s.core x.b.coreNum).mx.latch = none ∧ (x.s.core x.b.coreNum).mx.gangDue = false) ∧
      mxUnsettled (x.s.core x.b.coreNum).mx x.b (.mstM 0 1 0 4 0 0 0 7) = false ∧
      mxScalars x.w (.mstM 0 1 0 4 0 0 0 7) = [0, 0, 0] ∧ releaseCheck (x.s.core x.b.coreNum).mx x
      (.mstM 0 1 0 4 0 0 0 7) [0, 0, 0] (x.off x.pc) = none) ∧ x.w.token 7 ≠ 63) (by decide)
  exact ⟨x, h, p⟩

/- ### Barriers -/

/-- The block of the loaded program with a second warp, away from any barrier. -/
def tTwo : State := onB tS fun b => { b with warps := b.warps ++ [Warp.start 1 1 0x200 0x80 0] }

theorem witness_BarrierAndPodInstructions_barriers :
    (∃ x, Issues (.bar 0 .core 3 0 none) tSplit x ∧ x.light ∧
      ∃ l q k, l < 32 ∧ x.mask.getLsbD l = false ∧ x.w.stands l = some (q, k) ∧ k ≠ 5) ∧
    (∃ x, Issues (.bar 0 .core 15 1 (some 5)) tS x ∧ x.light ∧ x.ctx?.isSome = true ∧ x.w.waits = [] ∧ x.w.acks = 0 ∧
      (∃ e, x.w.frontier = [e] ∧ e.mask ≠ 0) ∧ x.after.toNat < x.g.codeEnd.toNat ∧ x.b.warps = [x.w] ∧
      x.w.hasEnded = false ∧ x.b.res = .resident ∧ x.b.ended = false ∧ (1 : BitVec 6).toNat ≤ 1 ∧
      (x.b.bar 15).first = none ∧ (x.b.bar 15).passed = none ∧ (x.b.bar 15).arrived = 0) ∧
    (∃ x, Issues (.barArr 0 4 .quad 3 0) tTwo x ∧ x.light ∧ x.w.acks = 0 ∧ (x.b.bar 3).passed = none ∧
      (x.b.bar 3).arrived + 1 < (x.b.warps.filter fun w => !w.hasEnded).length) ∧
    (∃ x, Issues (.barArr 0 4 .core 3 1) tTwo x ∧ x.light ∧ x.w.acks = 0 ∧ (x.b.bar 3).passed = none ∧
      1 ≤ (x.b.bar 3).arrived + 1 ∧ x.b.res = .resident ∧ x.b.ended = false ∧
      ∀ w ∈ x.b.warps, w.waits = []) ∧
    (∃ x, Issues (.barWt 0 .core 3 4 (some 9)) (onW tS fun w => w.sset 4 5) x ∧ x.light ∧
      (x.b.bar 3).gen ≠ (x.w.sget 4).setWidth 32) ∧
    ∃ x, Issues (.barWt 0 .core 3 4 (some 9)) tS x ∧ x.light ∧
      (x.b.bar 3).gen = (x.w.sget 4).setWidth 32 := by
  refine ⟨?_, ?_, ?_, ?_, ?_, ?_⟩
  · obtain ⟨x, h, p⟩ := issues_wit (i := .bar 0 .core 3 0 none) (s := tSplit) (P := fun x =>
      x.inRegion = false ∧ x.mask.getLsbD 16 = false ∧ x.w.stands 16 = some (0x120, 0)) (by decide)
    exact ⟨x, h, light_of p.1, 16, 0x120, 0, by decide, p.2.1, p.2.2, by decide⟩
  · obtain ⟨x, h, p⟩ := issues_wit (i := .bar 0 .core 15 1 (some 5)) (s := tS) (P := fun x =>
      x.inRegion = false ∧ x.ctx?.isSome = true ∧ x.w.waits = [] ∧ x.w.acks = 0 ∧
      x.w.frontier = [⟨0x100, 0x80, 0xffffffff, 0⟩] ∧ x.after.toNat < x.g.codeEnd.toNat ∧ x.b.warps = [x.w] ∧
      x.w.hasEnded = false ∧ x.b.res = .resident ∧ x.b.ended = false ∧ (1 : BitVec 6).toNat ≤ 1 ∧
      (x.b.bar 15).first = none ∧ (x.b.bar 15).passed = none ∧ (x.b.bar 15).arrived = 0) (by decide)
    exact ⟨x, h, light_of p.1, p.2.1, p.2.2.1, p.2.2.2.1, ⟨_, p.2.2.2.2.1, by decide⟩, p.2.2.2.2.2⟩
  · obtain ⟨x, h, p⟩ := issues_wit (i := .barArr 0 4 .quad 3 0) (s := tTwo) (P := fun x =>
      x.inRegion = false ∧ x.w.acks = 0 ∧ (x.b.bar 3).passed = none ∧
      (x.b.bar 3).arrived + 1 < (x.b.warps.filter fun w => !w.hasEnded).length) (by decide)
    exact ⟨x, h, light_of p.1, p.2⟩
  · obtain ⟨x, h, p⟩ := issues_wit (i := .barArr 0 4 .core 3 1) (s := tTwo) (P := fun x =>
      x.inRegion = false ∧ x.w.acks = 0 ∧ (x.b.bar 3).passed = none ∧ 1 ≤ (x.b.bar 3).arrived + 1 ∧ x.b.res = .resident ∧
      x.b.ended = false ∧ ∀ w ∈ x.b.warps, w.waits = []) (by decide)
    exact ⟨x, h, light_of p.1, p.2⟩
  · obtain ⟨x, h, p⟩ := issues_wit (i := .barWt 0 .core 3 4 (some 9)) (s := onW tS fun w => w.sset 4 5)
      (P := fun x => x.inRegion = false ∧ (x.b.bar 3).gen ≠ (x.w.sget 4).setWidth 32) (by decide)
    exact ⟨x, h, light_of p.1, p.2⟩
  · obtain ⟨x, h, p⟩ := issues_wit (i := .barWt 0 .core 3 4 (some 9)) (s := tS)
      (P := fun x => x.inRegion = false ∧ (x.b.bar 3).gen = (x.w.sget 4).setWidth 32) (by decide)
    exact ⟨x, h, light_of p.1, p.2⟩

/- ### Pod instructions -/

/-- A LAUNCH packet of 52 bytes for the image at 0x1000, one block, one rank and one parcel a rank (R20 to
R23). -/
def podLaunch : List Byte :=
  [7, 0, 0, 0, 1, 1, 0, 0, 36, 0, 0, 0, 0, 0, 0, 0, 1, 0, 8, 0, 0, 0x10, 0, 0, 0, 0, 0, 0, 3, 0, 12, 0, 1, 0, 0, 0,
    1, 0, 0, 0, 1, 0, 0, 0, 5, 0, 4, 0, 1, 0, 1, 0]

/-- The packet at 0x400 of a context bound to a pod, with the image accepted before, in a member package. -/
def tPod : State :=
  { onW tRW fun w => (w.sset 4 0x400).sset 6 0x20 with
    dram := tRW.dram.setBytes 0x20400 podLaunch
    ctxs := [{ programCtx with pctx := some 3 }]
    trav := { tRW.trav with role := .member }
    acache := [(5, [⟨0, { programGrid.img with addr := 0x1000, entries := [⟨0, 0x80, true, true, false⟩] }⟩])] }

/-- The chain of premises about `psub`, as one check. -/
def psubOk (s : State) (x : Site) : Bool :=
  match x.ctx? with
  | none => false
  | some k =>
    match s.readVa k (x.w.sget 4).toNat 16 with
    | .error _ => false
    | .ok h =>
      (headFault h 16 fun j => (x.w.sget 4).toNat + j).isNone && (headOf h).type == 1 &&
      match s.readVa k ((x.w.sget 4).toNat + 16) (headOf h).len with
      | .error _ => false
      | .ok body =>
        match checkBody (headOf h) body (fun j => (x.w.sget 4).toNat + j) (fun _ => true) with
        | .error _ => false
        | .ok fs =>
          (fieldOf fs 5).isSome &&
          match s.readImage k 5 (fieldNum fs 2 0) (BitVec.ofNat 64 (fieldNum fs 1 0)) with
          | .ok s2 img =>
            (match s2.submitPod k img fs (.psub (x.w.sget 6) (headOf h).seq) with
            | .ok _ => true
            | .error _ => false)
          | _ => false

theorem psub_wit {s : State} {x : Site} (ok : psubOk s x = true) :
    ∃ k h p body fs s2 img s3, x.ctx? = some k ∧ s.readVa k (x.w.sget 4).toNat 16 = .ok h ∧ headOf h = p ∧
      headFault h 16 (fun j => (x.w.sget 4).toNat + j) = none ∧ p.type = 1 ∧
      s.readVa k ((x.w.sget 4).toNat + 16) p.len = .ok body ∧
      checkBody p body (fun j => (x.w.sget 4).toNat + j) (fun _ => true) = .ok fs ∧
      (fieldOf fs 5).isSome = true ∧
      s.readImage k 5 (fieldNum fs 2 0) (BitVec.ofNat 64 (fieldNum fs 1 0)) = .ok s2 img ∧
      s2.submitPod k img fs (.psub (x.w.sget 6) p.seq) = .ok s3 := by
  unfold psubOk at ok
  split at ok
  · cases ok
  · next k hk =>
    split at ok
    · cases ok
    · next h hh =>
      simp only [Bool.and_eq_true, Option.isNone_iff_eq_none, beq_iff_eq] at ok
      obtain ⟨⟨o1, o2⟩, ok⟩ := ok
      split at ok
      · cases ok
      · next body hb =>
        split at ok
        · cases ok
        · next fs hf =>
          simp only [Bool.and_eq_true] at ok
          obtain ⟨o3, ok⟩ := ok
          split at ok
          · next s2 img hi =>
            split at ok
            · next s3 hs => exact ⟨k, h, _, body, fs, s2, img, s3, hk, hh, rfl, o1, o2, hb, hf, o3, hi, hs⟩
            · cases ok
          · cases ok

theorem witness_BarrierAndPodInstructions_pod :
    (∃ x, Issues (.psub Ctl.none 4 6) tPod x ∧ (x.acting Ctl.none ≠ 0 ∧ x.w.utraps = [] ∧
      (x.w.sget 4).toNat % 256 = 0 ∧ (x.w.sget 6).toNat % 32 = 0 ∧ x.s = tPod) ∧
      ∃ k h p body fs s2 img s3, x.ctx? = some k ∧ tPod.readVa k (x.w.sget 4).toNat 16 = .ok h ∧ headOf h = p ∧
      headFault h 16 (fun j => (x.w.sget 4).toNat + j) = none ∧ p.type = 1 ∧
      tPod.readVa k ((x.w.sget 4).toNat + 16) p.len = .ok body ∧
      checkBody p body (fun j => (x.w.sget 4).toNat + j) (fun _ => true) = .ok fs ∧
      (fieldOf fs 5).isSome = true ∧
      tPod.readImage k 5 (fieldNum fs 2 0) (BitVec.ofNat 64 (fieldNum fs 1 0)) = .ok s2 img ∧
      s2.submitPod k img fs (.psub (x.w.sget 6) p.seq) = .ok s3) ∧
    (∃ x, Issues (.psub Ctl.none 4 6) (onW tTrap fun w => (w.sset 4 0x400).sset 6 0x21) x ∧
      x.acting Ctl.none ≠ 0 ∧ x.w.utraps = [] ∧ x.g.img.desc.trapent ≠ 0xffffffff ∧
      (x.w.sget 4).toNat % 256 = 0 ∧ (x.w.sget 6).toNat % 32 ≠ 0) ∧
    (∃ x, Issues (.pyld Ctl.none 5 4) { onG tPod (fun g => { g with pod := true }) with
        plat := platSet [] (8 + tPod.pkg) 1 } x ∧ x.acting Ctl.none ≠ 0 ∧ x.w.utraps = [] ∧ x.g.pod = true ∧
      x.s.isMember = true) ∧
    ∃ x, Issues (.pyld Ctl.none 5 4) tS x ∧ x.acting Ctl.none ≠ 0 ∧ x.g.pod = false := by
  refine ⟨?_, issues_wit (by decide), issues_wit (by decide), issues_wit (by decide)⟩
  obtain ⟨x, h, p⟩ := issues_wit (i := .psub Ctl.none 4 6) (s := tPod) (P := fun x =>
    (x.acting Ctl.none ≠ 0 ∧ x.w.utraps = [] ∧ (x.w.sget 4).toNat % 256 = 0 ∧ (x.w.sget 6).toNat % 32 = 0 ∧
      x.s = tPod) ∧ psubOk tPod x = true) (by decide)
  exact ⟨x, h, p.1, psub_wit p.2⟩

/- ### The forms that complete -/

theorem witness_MatrixBarrierPodFormsComplete :
    (∃ x, Issues (.mrsv 0 5) tS x ∧ (x.s.core x.b.coreNum).mx.holder = none) ∧
    (∃ x, Issues (.mrsv 0 5) tMx x ∧ (x.s.core x.b.coreNum).mx.holder = some x.b.key) ∧
    (∃ x, Issues (.mstat 0 9) tMx x ∧ x.g.img.desc.det = false) ∧
    (∃ x, Issues (.mrel 0) tMx x ∧ MayRelease (.mrel 0) [] x) ∧
    (∃ x, Issues (.mgang 0 4) (onW tMx fun w => w.sset 4 1) x ∧ MayRelease (.mgang 0 4) [1] x) ∧
    (∃ x, Issues (.mlds 0 2 8 false 0) tMx x ∧ MayRelease (.mlds 0 2 8 false 0) [] x) ∧
    (∃ x, Issues (.mswp 0) tMx x ∧ MayRelease (.mswp 0) [] x) ∧
    (∃ x, Issues (.mstr 0 1 2 8 63 0 0 true) tMx x ∧ MayRelease (.mstr 0 1 2 8 63 0 0 true) [] x) ∧
    (∃ x, Issues (.mrd 0 9 1 63 3) tMx x ∧ MayRelease (.mrd 0 9 1 63 3) [] x) ∧
    (∃ x, Issues (.mwr 0 1 9 63 3) tMx x ∧ MayRelease (.mwr 0 1 9 63 3) [] x) ∧
    (∃ x, Issues (.mst 0 1 3 8 3 60 0 0) tMx x ∧ MayRelease (.mst 0 1 3 8 3 60 0 0) [] x) ∧
    (∃ x, Issues (.mclr 0 none) tMx x ∧ MayRelease (.mclr 0 none) [] x) ∧
    (∃ s x, Issues (.mstM 0 1 0 4 0 0 0 7) s x ∧ MayRelease (.mstM 0 1 0 4 0 0 0 7) [0, 0, 0] x ∧
      x.w.token 7 ≠ 63) ∧
    (∃ x, Issues (.bar 0 .core 15 1 (some 5)) tS x ∧ x.light ∧ x.ctx?.isSome = true ∧ x.w.waits = [] ∧ x.w.acks = 0 ∧
      (∃ e, x.w.frontier = [e] ∧ e.mask ≠ 0) ∧ x.after.toNat < x.g.codeEnd.toNat ∧ x.b.warps = [x.w] ∧
      x.w.hasEnded = false ∧ x.b.res = .resident ∧ x.b.ended = false ∧ (1 : BitVec 6).toNat ≤ 1 ∧
      (x.b.bar 15).first = none ∧ (x.b.bar 15).passed = none ∧ (x.b.bar 15).arrived = 0) ∧
    (∃ x, Issues (.barArr 0 4 .core 3 2) tTwo x ∧ x.light ∧ x.w.acks = 0 ∧ (x.b.bar 3).passed = none ∧
      (x.b.bar 3).arrived + 1 < (if ((x.b.bar 3).first.getD (2, Scope.core)).2 = .core ∧
          ((x.b.bar 3).first.getD (2, Scope.core)).1 ≠ 0 then ((x.b.bar 3).first.getD (2, Scope.core)).1
        else (x.b.warps.filter fun w => !w.hasEnded).length)) ∧
    (∃ x, Issues (.barWt 0 .core 3 4 (some 9)) (onW tS fun w => w.sset 4 5) x ∧ x.light ∧
      (x.b.bar 3).gen ≠ (x.w.sget 4).setWidth 32) ∧
    (∃ x, Issues (.psub Ctl.none 4 6) tPod x ∧ x.acting Ctl.none ≠ 0 ∧ x.w.utraps = [] ∧
      (x.w.sget 4).toNat % 256 = 0 ∧ (x.w.sget 6).toNat % 32 = 0 ∧
      ∃ k h p body fs s2 img s3, x.ctx? = some k ∧ tPod.readVa k (x.w.sget 4).toNat 16 = .ok h ∧ headOf h = p ∧
      headFault h 16 (fun j => (x.w.sget 4).toNat + j) = none ∧ p.type = 1 ∧
      tPod.readVa k ((x.w.sget 4).toNat + 16) p.len = .ok body ∧
      checkBody p body (fun j => (x.w.sget 4).toNat + j) (fun _ => true) = .ok fs ∧
      (fieldOf fs 5).isSome = true ∧
      tPod.readImage k 5 (fieldNum fs 2 0) (BitVec.ofNat 64 (fieldNum fs 1 0)) = .ok s2 img ∧
      s2.submitPod k img fs (.psub (x.w.sget 6) p.seq) = .ok s3) ∧
    (∃ s x, Issues (.pyld Ctl.none 5 4) s x ∧ x.acting Ctl.none ≠ 0 ∧ x.w.utraps = [] ∧ x.g.pod = true ∧
      x.s.isMember = true) := by
  obtain ⟨a1, a2, -, -, a5, -⟩ := witness_MatrixReservationAndGangs
  obtain ⟨b1, b2, b3, b4, b5, b6, b7, b8, b9, b10, -⟩ := witness_MatrixReleaseAndPerformance
  obtain ⟨-, c2, -, -, c5, -⟩ := witness_BarrierAndPodInstructions_barriers
  obtain ⟨⟨x, h, ⟨p1, p2, p3, p4, -⟩, p5⟩, -, d3, -⟩ := witness_BarrierAndPodInstructions_pod
  refine ⟨a1, a2, a5, b1, b2, b3, b4, b5, b6, b7, b8, b9, ⟨_, b10⟩, c2, ?_, c5, ⟨x, h, p1, p2, p3, p4, p5⟩, ⟨_, d3⟩⟩
  obtain ⟨y, hy, p⟩ := issues_wit (i := .barArr 0 4 .core 3 2) (s := tTwo) (P := fun x =>
    x.inRegion = false ∧ x.w.acks = 0 ∧ (x.b.bar 3).passed = none ∧
    (x.b.bar 3).arrived + 1 < (if ((x.b.bar 3).first.getD (2, Scope.core)).2 = .core ∧
        ((x.b.bar 3).first.getD (2, Scope.core)).1 ≠ 0 then ((x.b.bar 3).first.getD (2, Scope.core)).1
      else (x.b.warps.filter fun w => !w.hasEnded).length)) (by decide)
  exact ⟨y, hy, light_of p.1, p.2⟩

/- ### User-level interrupts -/

/-- A context with its interrupt block at 0x1000, which lies at 0x21000 of bonded DRAM. -/
def cIb : Ctx := { programCtx with iblk := some 0x1000 }

/-- A block bound to vector 0 by its warp, with these words of MASK, PEND and BOUND in the interrupt block
and itself as the handler of vector 0. -/
def tIb (mask pend bound : DWord) : State :=
  { onB tRW fun b => { b with ib := ⟨1, 0, true⟩ } with
    ctxs := [cIb]
    dram := (((tRW.dram.setWord64 0x21000 mask).setWord64 0x21008 pend).setWord64 0x21010 bound).setWord64
      0x212c0 0x1000000 }

theorem ib_at (s : State) (h : tables s.dram = true) (hp : s.poison = []) : s.ibAt cIb 0x21000 :=
  ⟨0x1000, rfl, steadyOver_of hp h rfl rfl (by decide) (by decide) (by decide)⟩

/-- A site in a state whose interrupt block is in place. -/
theorem ib_wit {i : Instr} {s : State} {P : Site → Prop} [DecidablePred P] (ht : tables s.dram = true)
    (hp : s.poison = []) (h : issuesIf i s (fun x => decide (P x ∧ x.s = s)) = true) :
    ∃ x, Issues i s x ∧ x.s.ibAt cIb 0x21000 ∧ P x := by
  obtain ⟨x, hx, p, e⟩ := issues_wit (P := fun x => P x ∧ x.s = s) h
  exact ⟨x, hx, e ▸ ib_at s ht hp, p⟩

theorem witness_UserInterrupts :
    (∃ x, Issues (.uibind 0 5 4 false) tS x ∧ x.ctx? = some programCtx ∧ programCtx.iblk = none) ∧
    (∃ x, Issues (.uibind 0 5 4 false) (onW (tIb 0 0 1) fun w => w.sset 4 0x8000000000000000) x ∧
      x.s.ibAt cIb 0x21000 ∧ x.ctx? = some cIb ∧ x.b.ib.warp = x.w.num ∧
      x.w.sget 4 &&& ~~~(BitVec.ofNat 64 (x.s.num 0x21010 8)) ≠ 0) ∧
    (∃ x, Issues (.uibind 0 5 4 true) (tIb 0 0 1) x ∧ x.s.ibAt cIb 0x21000 ∧ x.ctx? = some cIb ∧
      x.b.ib.valid = true ∧ x.b.ib.warp = x.w.num) ∧
    (∃ x, Issues (.uisend Ctl.none 4 5) (onW (tIb 0 0 1) fun w => w.sset 4 63) x ∧ x.inRegion = false ∧
      x.acting Ctl.none ≠ 0 ∧ x.ctx? = some cIb ∧ (x.w.sget 4).toNat < 64) ∧
    (∃ x, Issues (.uisend Ctl.none 4 5) tRgn x ∧ x.inRegion = true ∧ x.acting Ctl.none ≠ 0 ∧
      x.w.cmds.length < 16) ∧
    (∃ x, Issues (.uiwait 0) tS x ∧ x.inRegion = false ∧ x.b.ib.valid = false) ∧
    (∃ x, Issues (.uiwait 0) (tIb 0 2 1) x ∧ x.s.ibAt cIb 0x21000 ∧ x.inRegion = false ∧
      x.b.ib.valid = true ∧ x.b.ib.warp = x.w.num ∧ x.ctx? = some cIb ∧
      BitVec.ofNat 64 (x.s.num 0x21008 8) &&& BitVec.ofNat 64 (x.s.num 0x21010 8) = 0) ∧
    (∃ x, Issues (.uimask 0 5 4 .clr) (tIb 3 2 1) x ∧ x.s.ibAt cIb 0x21000 ∧ x.ctx? = some cIb ∧
      BitVec.ofNat 64 (x.s.num 0x21008 8) &&& BitVec.ofNat 64 (x.s.num 0x21010 8) = 0) ∧
    (∃ x, Issues (.uiret 0 9) tS x ∧ x.b.ib.valid = false) ∧
    ∃ x, Issues (.uiret 0 9) (tIb 0 1 1) x ∧ x.s.ibAt cIb 0x21000 ∧ x.ctx? = some cIb ∧ x.b.ib.valid = true ∧
      x.b.ib.warp = x.w.num ∧ x.b.res = .resident ∧ (x.b.warp? x.w.num).isSome = true ∧
      x.b.ib.vecs.getLsbD 0 = true ∧ (BitVec.ofNat 64 (x.s.num 0x21008 8) &&&
        ~~~(BitVec.ofNat 64 (x.s.num 0x21000 8)) &&& BitVec.ofNat 64 (x.s.num 0x21010 8)).getLsbD 0 = true ∧
      x.s.num 0x212c0 8 = x.b.key :=
  ⟨issues_wit (by decide), ib_wit (by decide) rfl (by decide), ib_wit (by decide) rfl (by decide),
    issues_wit (by decide), issues_wit (by decide), issues_wit (by decide),
    ib_wit (by decide) rfl (by decide), ib_wit (by decide) rfl (by decide), issues_wit (by decide),
    ib_wit (by decide) rfl (by decide)⟩

end Sys2Proof.Tests
end

