-- ==== Sys2Proof/Tests/WitnessArrivals.lean ====
section
/-! SUPPORT. Witnesses for the statements about waits, the fabric, transfers, engines, interrupts and the whole
machine: states that meet all the hypotheses of a statement, clause by clause. -/

namespace Sys2Proof.Tests

open Sys2Proof Sys2Proof.Machine

set_option maxRecDepth 20000
set_option exponentiation.threshold 1200

/- ### Waits -/

/-- A load of one word by lane 3 whose bytes have been read, and one that has not been answered. -/
def oVec : OutLoad := ⟨1, 3, 0x100, false, 0x400, 4, .vec 5 .b32, true, some [1, 2, 3, 4], none, []⟩
def oSca : OutLoad := ⟨2, 0, 0x100, false, 0x400, 8, .sca 5 .b64, true, some (zeros 8), none, []⟩
def oOut : OutLoad := ⟨3, 3, 0x100, false, 0x400, 4, .vec 5 .b32, true, none, some 9, []⟩

/-- The loaded program's warp changed. -/
def wWith (f : Warp → Warp) : Block := { programBlock with warps := [f pWarp] }

/-- A warp with lane 5 parked in `waitv` for a word to be zero, or one. -/
def waiting (y : DWord) (w : Warp) : Warp :=
  { w with
    frontier := [⟨0x100, 0x80, 0x20, 3⟩, ⟨0x120, 0x80, 0xffffffdf, 0⟩]
    waits := [⟨5, 0x104, .waitv false 0x400 false .eq y .relaxed⟩] }

/-- The record of a wait for the host page at 0x10000, of lane 5. -/
def pageTrap : Trap := ⟨⟨BitVec.ofNat 64 TrapCode.page.num.toNat, 0x10000, 0, 0⟩, 0x20, 0x100, 4, none⟩

/-- A warp with lane 5 waiting for that page. -/
def paged (w : Warp) : Warp :=
  { w with
    frontier := [⟨0x100, 0x80, 0x20, 6⟩, ⟨0x120, 0x80, 0xffffffdf, 0⟩]
    straps := [pageTrap] }

/-- The second page of the context is a page of the host, which has been asked for. -/
def tPage : State :=
  { tWarp paged with
    dram := tRW.dram.setWord64 0x14008 0x80000000003000f
    priReqs := [⟨3, 0, false⟩] }

theorem witness_WaitsEnd :
    (let w := { pWarp with loads := [oVec, oSca, oOut] }
    let s := tWarp fun w => { w with loads := [oVec, oSca, oOut] }
    s.block? (wWith fun _ => w).key = some (wWith fun _ => w) ∧ (wWith fun _ => w).warp? w.num = some w ∧
      w.loads.find? (fun p => p.id == oVec.id) = some oVec ∧ oVec.val = some [1, 2, 3, 4] ∧ oVec.lane < 32 ∧
      oVec.dst = .vec 5 .b32 ∧ w.loads.find? (fun p => p.id == oSca.id) = some oSca ∧ oSca.val = some (zeros 8) ∧
      oSca.lane < 32 ∧ oSca.dst = .sca 5 .b64 ∧ ∀ o ∈ w.loads, o.id = 3 → o.val = none) ∧
    (let w := waiting 0 pWarp
    let b := wWith (waiting 0)
    let s := tWarp (waiting 0)
    s.block? b.key = some b ∧ b.warp? w.num = some w ∧ s.grid? b.grid = some programGrid ∧
      s.ctx? programGrid.ctx = some programCtx ∧ b.res = .resident ∧ w.frame = none ∧ w.utraps = [] ∧
      w.rgn.inrgn = false ∧ w.cmds = [] ∧ (∀ l, l < 32 → w.once l) ∧
      (∀ v ∈ w.waits, v.next = 0x104 ∧ v.lane < 32 ∧ ∃ p, w.stands v.lane = some (p, 3)) ∧
      ∃ v ∈ w.waits, (s.warpSite b w programGrid).recheck programCtx v = .holds) ∧
    (let s := tWarp (waiting 1)
    s.block? (wWith (waiting 1)).key = some (wWith (waiting 1)) ∧ s.grid? 0 = some programGrid ∧
      s.ctx? programGrid.ctx = some programCtx ∧ (waiting 1 pWarp).utraps = [] ∧ ∀ v ∈ (waiting 1 pWarp).waits,
        (s.warpSite (wWith (waiting 1)) (waiting 1 pWarp) programGrid).recheck programCtx v = .fails) ∧
    (let s := tPage
    let b := wWith paged
    let w := paged pWarp
    s.priReqs.find? (fun x => x.page == 3) = some ⟨3, 0, false⟩ ∧ s.queues = [] ∧ s.psubs = [] ∧ s.block? b.key = some b ∧
      b.warp? w.num = some w ∧ s.grid? b.grid = some programGrid ∧ s.ctx? programGrid.ctx = some programCtx ∧
      w.straps = [pageTrap] ∧ w.frame = none ∧ pageTrap.pending = true ∧ pageTrap.lanes = laneBit 5 ∧ w.once 5 ∧
      w.stands 5 = some (0x100, 6) ∧
      ({ s with ats := s.ats ++ [(3, 7)], priReqs := s.priReqs.filter fun x => x.page != 3 } : State).settled
        programCtx pageTrap = true ∧ s.awaitsPage programCtx 3 pageTrap = true) ∧
    (∀ x ∈ tPage.priReqs, x.page ≠ 4) := by
  refine ⟨by decide, ⟨by decide, by decide, by decide, by decide, by decide, by decide, by decide, by decide,
    by decide, once_of (by decide), ?_, by decide⟩, by decide, ⟨by decide, by decide, by decide, by decide, by decide,
    by decide, by decide, by decide, by decide, by decide, by decide, once_of (by decide) 5 (by decide), by decide,
    by decide, by decide⟩, by decide⟩
  intro v hv
  cases List.mem_singleton.1 hv
  exact ⟨by decide, by decide, 0x100, by decide⟩

/- ### The fabric -/

/-- The loaded program's context bound to a pod context, in a pod of three. -/
def tServe : State := { tThree with ctxs := [{ programCtx with pctx := some 3 }] }

/-- A request of package 1 for n bytes at 0x400 of pod context 3. -/
def rr (dst : Nat) (op : ROp) : RReq := ⟨9, 1, dst, 3, 0x400, op⟩

/-- What `resolve` finds for an access at 0x400. -/
def resolves (s : State) (n : Nat) (acc : Access) (ord : BitVec 2) : Bool :=
  match s.resolve { programCtx with pctx := some 3 } 0x400 n acc with
  | .ok (ls, o) => ls == ((List.range n).map fun k => Loc.mem 0 (0x20400 + k)) && o == ord
  | .error _ => false

theorem resolves_spec {s : State} {n : Nat} {acc : Access} {ord : BitVec 2} (h : resolves s n acc ord = true) :
    s.resolve { programCtx with pctx := some 3 } 0x400 n acc =
      .ok ((List.range n).map fun k => Loc.mem 0 (0x20400 + k), ord) := by
  unfold resolves at h
  split at h
  · next ls o hr =>
    simp only [Bool.and_eq_true, beq_iff_eq] at h
    rw [hr, h.1, h.2]
  · cases h

/-- The same with a strongly ordered page. -/
def tStrong : State := { tServe with dram := tServe.dram.setWord64 0x14000 (0x2000f ||| 1 <<< 60) }

/-- A state with one request of this package in the fabric. -/
def tSent (owner : ROwner) (f : Warp → Warp) : State :=
  { tWarp f with fabricOut := [⟨rr 1 (.read 4), owner, none⟩] }

theorem witness_RemoteRequests :
    ((rr 1 (.read 8)).dst ≠ tServe.pkg) ∧
    ({ tServe with trav := { tServe.trav with role := .fenced } }.trav.role = .fenced) ∧
    ((rr 0 (.read 8)).dst = tServe.pkg ∧ tServe.trav.role ≠ .fenced ∧
      { rr 0 (.read 8) with src := 200 }.src = 200 ∧ tServe.memState 200 = 0) ∧
    ((1 : Nat) ≠ tServe.pkg ∧ tServe.memState 1 ≠ 2 ∧ tServe.memState 1 ≠ 0 ∧ tServe.trav.role ≠ .fenced ∧ (0x400 : Nat) < launchBase ∧
      tServe.podCtx 3 = some { programCtx with pctx := some 3 } ∧ tServe.poison = [] ∧
      tServe.resolve { programCtx with pctx := some 3 } 0x400 8 .load =
        .ok ((List.range 8).map fun k => Loc.mem 0 (0x20400 + k), 0) ∧
      tServe.resolve { programCtx with pctx := some 3 } 0x400 8 .store =
        .ok ((List.range 8).map fun k => Loc.mem 0 (0x20400 + k), 0) ∧
      tServe.resolve { programCtx with pctx := some 3 } 0x400 8 .atomic =
        .ok ((List.range 8).map fun k => Loc.mem 0 (0x20400 + k), 0)) ∧
    (tStrong.memState 1 ≠ 2 ∧ tStrong.memState 1 ≠ 0 ∧ tStrong.trav.role ≠ .fenced ∧
      tStrong.podCtx 3 = some { programCtx with pctx := some 3 } ∧ tStrong.poison = [] ∧
      tStrong.resolve { programCtx with pctx := some 3 } 0x400 8 .load =
        .ok ((List.range 8).map fun k => Loc.mem 0 (0x20400 + k), 1)) ∧
    ({ rr 0 (.read 8) with src := 0 }.src = tRW.pkg ∧ tRW.memState 0 = 0 ∧ tRW.trav.role ≠ .fenced) ∧
    (tServe.fabricOut = []) ∧
    (let w := { pWarp with loads := [oOut] }
    let s := tSent (.load 0x1000000 0 3 3) fun w => { w with loads := [oOut] }
    s.fabricOut.find? (fun x => x.req.id == 9) = some ⟨rr 1 (.read 4), .load 0x1000000 0 3 3, none⟩ ∧
      s.block? 0x1000000 = some (wWith fun _ => w) ∧ (wWith fun _ => w).warp? w.num = some w ∧
      s.grid? 0 = some programGrid ∧ w.loads.find? (fun q => q.id == oOut.id) = some oOut) ∧
    (let w := { pWarp with acks := 1 }
    let s := tSent (.store 0x1000000 0 0x400) fun w => { w with acks := 1 }
    s.fabricOut.find? (fun x => x.req.id == 9) = some ⟨rr 1 (.read 4), .store 0x1000000 0 0x400, none⟩ ∧
      s.block? 0x1000000 = some (wWith fun _ => w) ∧ (wWith fun _ => w).warp? w.num = some w ∧
      s.grid? 0 = some programGrid ∧ programGrid.ending = none ∧ (2 ≤ w.acks ∨ w.arrival = none) ∧
      ∀ p ∈ s.blocks, p.ended = false) ∧
    (let s := tSent (.send 0x1000000 5) id
    s.fabricOut.find? (fun x => x.req.id == 9) = some ⟨rr 1 (.read 4), .send 0x1000000 5, none⟩ ∧
      s.block? 0x1000000 = some programBlock ∧ programBlock.res = .resident ∧
      s.grid? programBlock.grid = some programGrid ∧
      programBlock.roomFor programGrid.img.desc.quota 7 = true) :=
  ⟨by decide, rfl, by decide, ⟨by decide, by decide, by decide, by decide, by decide, by decide, by decide,
    resolves_spec (by decide), resolves_spec (by decide), resolves_spec (by decide)⟩,
    ⟨by decide, by decide, by decide, by decide, by decide, resolves_spec (by decide)⟩, by decide, by decide, by decide,
    by decide, by decide⟩

/- ### Transfers and engines -/

/-- A copy of eight bytes from 0x400 to an address, of lane 3, with its token; to a tile or not. -/
def xCp (dst : DWord) (tile : Option Nat) : Xfer :=
  ⟨7, ⟨.cp, 0, 3, false, false, 0x400, dst, 8, tile, none, .none, [], some 2, 0, 0, 0, 0, 0, [], 0, 0⟩, 0, none, false,
    none, none⟩

/-- A block with a transfer in progress. -/
def bXfer (x : Xfer) : Block := { programBlock with xfers := [x] }

/-- That block on the package. -/
def tXfer (x : Xfer) : State := { tRW with blocks := [bXfer x] }

/-- The same in a grid with a trap handler. -/
def handGrid : Grid := { programGrid with img := { programGrid.img with desc := { programGrid.img.desc with trapent := 0x40 } } }

/-- A block with a command at the head of a queue. -/
def bCmd (q : Nat) (ws : List DWord) : Block := { programBlock with queues := [(q, [ws])] }

/-- That block on the package. -/
def tCmd (q : Nat) (ws : List DWord) : State := { tRW with blocks := [bCmd q ws] }

/-- The copy command of the transform engine, 16 bytes with tag 5. -/
def copyCmd : List DWord := [BitVec.ofNat 64 (1 + 5 * 2 ^ 32), 0x400, 0x500, 16, 0, 0, 0, 0]

theorem witness_TransfersAndEngines :
    (let x := xCp 0x500 none
    (tXfer x).xferAt (bXfer x).key x.id = some (bXfer x, x, programGrid, programCtx) ∧ x.req.kind = .cp ∧
      x.req.srcSp = false ∧ x.req.dstSp = false ∧ x.pos = 0 ∧ 0 < x.req.len ∧ x.req.tile = none ∧
      (tXfer x).steadyOver [(0x20500, 8)] programCtx 0x400 8 0x20400 ∧
      (tXfer x).steadyOver [(0x20500, 8)] programCtx 0x500 8 0x20500 ∧ 0x20400 + 8 ≤ 0x20500 ∧
      (bXfer x).warp? 0 = some pWarp) ∧
    (let x := xCp 0x500 (some 3)
    let r := (tXfer x).runLocal (bXfer x) programCtx programGrid x
    (tXfer x).xferAt (bXfer x).key x.id = some (bXfer x, x, programGrid, programCtx) ∧ r.bad = none ∧
      r.b.key = (bXfer x).key ∧ x.req.tile = some 3 ∧ (r.s.block? (bXfer x).key).isSome = true) ∧
    (let x := xCp 0x10000 none
    let s := { tXfer x with grids := [handGrid] }
    let r := s.runLocal (bXfer x) programCtx handGrid x
    s.xferAt (bXfer x).key x.id = some (bXfer x, x, handGrid, programCtx) ∧ x.req.kind ≠ .rput ∧ x.req.kind ≠ .rget ∧
      r.bad = some (.cause cNOTMAPPED 0x10000) ∧ r.b.key = (bXfer x).key ∧ (r.s.block? (bXfer x).key).isSome = true ∧
      r.b.warp? x.req.warp = some pWarp ∧ pWarp.num = x.req.warp ∧ pWarp.pendCommit = none ∧ pWarp.frame = none ∧ pWarp.utraps = [] ∧
      handGrid.img.desc.trapent ≠ 0xffffffff ∧ x.req.lane < 32 ∧ pWarp.once x.req.lane ∧
      pWarp.stands x.req.lane = some (0x100, 0) ∧ x ∈ r.b.xfers) ∧
    (let s := tCmd 0 copyCmd
    s.block? (bCmd 0 copyCmd).key = some (bCmd 0 copyCmd) ∧ s.grid? 0 = some programGrid ∧
      s.ctx? programGrid.ctx = some programCtx ∧ (bCmd 0 copyCmd).queue 0 = copyCmd :: [] ∧
      (0 : BitVec 3).getLsbD 0 = false ∧ s.engineFree (bCmd 0 copyCmd) 0 = true ∧
      s.steadyOver [(0x20500, 16)] programCtx 0x400 16 0x20400 ∧
      s.steadyOver [(0x20500, 16)] programCtx 0x500 16 0x20500 ∧ 0x20400 + 16 ≤ 0x20500) ∧
    (let ws : List DWord := [0x77, 0, 0, 0, 0, 0, 0, 0]
    let s := tCmd 2 ws
    s.block? (bCmd 2 ws).key = some (bCmd 2 ws) ∧ (bCmd 2 ws).queue 2 = ws :: [] ∧
      s.engineFree (bCmd 2 ws) 2 = true ∧
      (2, (ws.getD 0 0).toNat % 256) ∉ [(0, 1), (0, 2), (2, 0x10), (4, 0x20), (4, 0x21), (6, 0x30)]) ∧
    (let b : Block := { bCmd 2 [0x77, 0, 0, 0, 0, 0, 0, 0] with
      queues := [(2, [[0x77, 0, 0, 0, 0, 0, 0, 0]]), (3, List.replicate 8 [])] }
    (b.setQueue 2 []).roomFor programGrid.img.desc.quota 3 = false ∧
      ({ tRW with blocks := [b] } : State).engineFree b 2 = true) ∧
    (let b : Block := { programBlock with results := [(3, [0x50377])] }
    b.res = .resident ∧ b.roomFor programGrid.img.desc.quota 3 = true) ∧
    (tS.block? programBlock.key = some programBlock ∧ tS.grid? 0 = some programGrid ∧ programBlock.queue 0 = [] ∧
      programBlock.results = []) :=
  ⟨⟨by decide, by decide, by decide, by decide, by decide, by decide, by decide,
    steadyOver_of rfl (by decide) rfl rfl (by decide) (by decide) (by decide),
    steadyOver_of rfl (by decide) rfl rfl (by decide) (by decide) (by decide), by decide, by decide⟩,
    by decide, ⟨by decide, by decide, by decide, by decide, by decide, by decide, by decide, by decide, by decide,
      by decide, by decide, by decide, by decide, once_of (by decide) 3 (by decide), by decide, by decide⟩,
    ⟨by decide, by decide, by decide, by decide, by decide, by decide,
      steadyOver_of rfl (by decide) rfl rfl (by decide) (by decide) (by decide),
      steadyOver_of rfl (by decide) rfl rfl (by decide) (by decide) (by decide), by decide⟩, by decide, by decide,
    by decide, by decide⟩

/- ### Interrupts -/

/-- The interrupt block with one permission entry, which lets every function of the host send every vector. -/
def tAllow : State :=
  { tIb 0xffffffffffffffff 0 0 with
    dram := (((tIb 0xffffffffffffffff 0 0).dram.setWord64 0x21030 1).setWord64 0x21500 0x83).setWord64 0x21508
      0xffffffffffffffff }

theorem witness_InterruptsArrive :
    (tAllow.ctx? cIb.num = some cIb ∧ tAllow.ibAt cIb 0x21000 ∧ tAllow.fw.state ≠ .switching ∧ tAllow.uiAllowed cIb .own 63 = true ∧
      (BitVec.ofNat 64 (tAllow.num 0x21008 8) ||| 1#64 <<< 63) &&& ~~~(BitVec.ofNat 64 (tAllow.num 0x21000 8)) &&&
        BitVec.ofNat 64 (tAllow.num 0x21010 8) = 0) ∧
    ((tIb 0 0 0).uiAllowed cIb (.kernel 5) 63 = false ∧ cIb.log.ring = none ∧
      ∀ k ∈ (tIb 0 0 0).ctxs, k.log.ring = none) ∧
    ((tAllow.func? 0).isSome = true ∧ tAllow.ctxs.find? (fun k => k.fn == 0 && k.c == cIb.c) = some cIb ∧
      cIb.c < 256 ∧ tAllow.uiAllowed cIb (.host 0) 63 = true) ∧
    ((tAllow.func? 127).map (·.num) = some 127 ∧ 0x20000 ≤ 0x20000) ∧
    (let s : State := { tAllow with fw := { tAllow.fw with state := .switching } }
    (s.func? 0).isSome = true ∧ s.fw.state = .switching ∧ 0x200 % 8 = 0 ∧ 0x200 < 0x20000) ∧
    ((tAllow.func? 127).isSome = true ∧ 0x1fff8 % 8 = 0 ∧ tAllow.fw.state ≠ .switching ∧
      ∀ k ∈ tAllow.ctxs, ¬ (k.fn = 127 ∧ k.c = 0x1fff8 / 0x200)) :=
  ⟨⟨by decide, ib_at _ (by decide) rfl, by decide, by decide, by decide⟩, by decide, by decide, by decide, by decide,
    by decide⟩

/- ### The whole machine -/

/-- The loaded program with an `add` at its PC. -/
def tStep : State := { tRW with dram := tRW.dram.setBytes 0x20100 (leBytes 4 0x02010320) }

/-- The place of its warp and the warp. -/
def stepKey : Nat × (Nat × Nat) := (0, (0x1000000, 0))

/-- The premises about the step, as one check. -/
def stepOk (s : State) : Bool :=
  let u : State := s.serveWarp stepKey
  s.nextServed == some stepKey && u.commitPending.isNone &&
    match u.site 0 with
    | some x =>
      x.ctx? == some programCtx && (u.core x.b.coreNum).icache == [] && x.pc == 0x100 && decide (x.pc.toNat < x.g.codeEnd.toNat) &&
        (match u.fetchPage programCtx 0x100 with
        | .ok pg => pg == ⟨0, 0, 0x20000⟩
        | .error _ => false)
    | none => false

theorem stepOk_spec {s : State} (h : stepOk s = true) :
    let u : State := s.serveWarp stepKey
    s.nextServed = some stepKey ∧ u.commitPending = none ∧ ∃ x, u.site 0 = some x ∧ x.ctx? = some programCtx ∧
      (u.core x.b.coreNum).icache = [] ∧ x.pc = 0x100 ∧ x.pc.toNat < x.g.codeEnd.toNat ∧ u.fetchPage programCtx 0x100 = .ok ⟨0, 0, 0x20000⟩ := by
  unfold stepOk at h
  simp only [Bool.and_eq_true, beq_iff_eq, Option.isNone_iff_eq_none] at h
  obtain ⟨⟨h1, h2⟩, h⟩ := h
  split at h
  · next x hx =>
    simp only [Bool.and_eq_true, beq_iff_eq, decide_eq_true_eq] at h
    obtain ⟨⟨⟨⟨h3, h4⟩, h5⟩, h7⟩, h6⟩ := h
    split at h6
    · next pg hp => exact ⟨h1, h2, x, hx, h3, h4, h5, h7, by rw [hp, beq_iff_eq.1 h6]⟩
    · cases h6
  · cases h

theorem witness_StepRunsTheInstruction :
    (let s : State := { tRW with agenda := [.powerLoss] }
    s.agenda = .powerLoss :: [] ∧ s.off = false) ∧
    (let s : State := { tRW with agenda := [.powerLoss, .boot], off := true }
    s.agenda = .powerLoss :: [.boot] ∧ s.off = true ∧ Instr.stationClose ≠ .boot ∧
      Instr.stationClose ≠ .powerLoss) ∧
    (let s := tStep
    let u : State := s.serveWarp stepKey
    let pg : Page := ⟨0, 0, 0x20000⟩
    s.agenda = [] ∧ s.engineTurn = false ∧ s.nextServed = some stepKey ∧ u.commitPending = none ∧
      ∃ x, u.site 0 = some x ∧ x.ctx? = some programCtx ∧ (u.core x.b.coreNum).icache = [] ∧ u.poison = [] ∧
        x.pc.toNat % 4 = 0 ∧ x.pc.toNat < x.g.codeEnd.toNat ∧ pg.base % 2 ^ 16 = 0 ∧
        (∀ j w, ([0x02010320] : List Word)[j]? = some w →
          u.fetchPage programCtx (x.pc.toNat + 4 * j) = .ok pg ∧
          w.toNat = leNat ((u.tier pg.tier).bytes (pg.base + (x.pc.toNat + 4 * j) % 2 ^ 16) 4)) ∧
        decode [0x02010320] = .ok (.addShort 3 1 2)) := by
  refine ⟨by decide, by decide, ?_⟩
  obtain ⟨h1, h2, x, hx, hc, hi, hp, hl, hf⟩ := stepOk_spec (s := tStep) (by decide)
  refine ⟨rfl, rfl, h1, h2, x, hx, hc, hi, rfl, ?_, hl, by decide, ?_, by decide⟩
  · rw [hp]; decide
  · rintro (_ | j) w hw
    · cases hw
      rw [hp]
      exact ⟨hf, by decide⟩
    · simp at hw

theorem witness_DecodeOfEncode :
    (Instr.addShort 3 1 2).wf = true ∧ encode (.addShort 3 1 2) = some [0x02010320] := by decide

theorem witness_EncodeOfDecode :
    decode [0x02010320] = .ok (.addShort 3 1 2) ∧
    decode [0x00010321, 0x8000c500, 0x00640000] = .ok (.add ⟨some ⟨true, 5⟩, 0⟩ 3 1 (.imm 100) .s32 false) := by
  decide

/-- The memory of the stepping state has its form, and its step goes on. -/
theorem witness_StepKeepsMemoryForm :
    tStep.memWf = true ∧ (match step tStep with
      | .next _ => true
      | _ => false) = true := by decide

end Sys2Proof.Tests
end

