-- ==== Sys2Proof/Tests/WitnessMemory.lean ====
section
/-! SUPPORT. Witnesses for the statements about regions, traps, memory accesses, tiles, transfers and queues:
states and operands that meet all the hypotheses of a statement, clause by clause. -/

namespace Sys2Proof.Tests

open Sys2Proof Sys2Proof.Machine

set_option maxRecDepth 20000

/-- An instruction guarded by p1. -/
def g1 : Ctl := ⟨some ⟨false, 1⟩, 0⟩

/-- The warp with p1 true in lane 0 alone, v1 holding an address there. -/
def oneLane (s : State) (a : Word) : State := onW s fun w => (w.pset 1 0xffffffff 1).vset 1 0 a

/-- Of a mask that holds lane 0 alone only lane 0 is asked. -/
theorem lane0 {m : Mask} (h : m = 1) {p : Nat → Prop} (hp : p 0) :
    ∀ l, l < 32 → m.getLsbD l = true → p l := by
  subst h
  intro l hl hb
  have : ∀ k, k < 32 → (1 : Mask).getLsbD k = true → k = 0 := by decide
  rw [this l hl hb]
  exact hp

/- ### Regions and traps -/

theorem witness_RegionsAndCommits :
    (∃ x, Issues .rgnShort tRgn x ∧ x.light ∧ x.inRegion = true) ∧
    (∃ x, Issues (.npe 0) tS x ∧ x.w.st.npe = false) ∧
    (∃ x, Issues (.pe 0) (onW tS fun w => { w with st := { w.st with npe := true, npeleft := 65536 } }) x ∧
      x.w.st.npe = true) ∧
    ∃ x, Issues .rgnShort (onW tRgn fun w => { w with stores := [[⟨31, false, 0x200, [1, 2]⟩]] }) x ∧
      x.inRegion = true ∧ x.ctx? = some programCtx ∧ x.w.stores = [[⟨31, false, 0x200, [1, 2]⟩]] ∧
      x.w.cmds = [] ∧ x.s.resolve programCtx 0x200 2 .store =
        .ok ((List.range 2).map fun k => .mem 0 (0x20200 + k), 0) := by
  refine ⟨?_, issues_wit (by decide), issues_wit (by decide), issues_wit (by decide)⟩
  obtain ⟨x, h, p⟩ := issues_wit (i := .rgnShort) (s := tRgn) (P := fun x =>
    x.ctx?.isSome = true ∧ x.w.stores = [] ∧ x.w.cmds = [] ∧ x.inRegion = true) (by decide)
  exact ⟨x, h, fun _ => ⟨p.1, p.2.1, p.2.2.1⟩, p.2.2.2⟩

theorem witness_TrapHandlerInstructions :
    (∃ x, Issues (.lnrd 0 2 (.f 5) (.imm 3)) tHand x ∧ x.w.frame.isSome = true) ∧
    (∃ x, Issues (.lnwr 0 (.v 254 true) 2 (.reg 1)) tHand x ∧ x.w.frame.isSome = true) ∧
    (∃ x, Issues (.csrw 0 0 2 .set) tS x ∧ x.handler = false) ∧
    ∃ x, Issues (.tret 0 .skip false false none) tHand x ∧
      x.w.frame = some ⟨⟨⟨0xf, 0, 0, 0⟩, 0x8, 0x100, 4, none⟩, 0x40, 0x8, []⟩ ∧ x.w.utraps = [] ∧
      x.w.waits = [] ∧
      x.w.frontier = [] ++ ⟨0x100, 0x80, 0x8, 1⟩ :: [⟨0x120, 0x80, 0xfffffff7, 0⟩] ∧
      (∀ e ∈ [] ++ [(⟨0x120, 0x80, 0xfffffff7, 0⟩ : Entry)], e.mask &&& 0x8 = 0) ∧
      x.w.csM = 0 ∧ x.w.stands 0 = some (0x120, 0) ∧ (0x100 : DWord).toNat + 4 < x.g.codeEnd.toNat :=
  ⟨issues_wit (by decide), issues_wit (by decide), issues_wit (by decide), issues_wit (by decide)⟩

/-- The site of an instruction whose check traps. -/
def checksIf (i : Instr) (s : State) (p : Site → Bool) : Bool :=
  match s.site i.bytes with
  | some x => x.pending.isNone && !x.stalled i && !x.mxStalled i && p x
  | none => false

theorem checks_wit {i : Instr} {s : State} {P : Site → Prop} [DecidablePred P]
    (h : checksIf i s (fun x => decide (P x)) = true) :
    ∃ x, s.site i.bytes = some x ∧ x.pending = none ∧ x.stalled i = false ∧ x.mxStalled i = false ∧ P x := by
  unfold checksIf at h
  split at h
  · next x hx =>
    simp only [Bool.and_eq_true, Option.isNone_iff_eq_none, Bool.not_eq_true', decide_eq_true_eq] at h
    exact ⟨x, hx, h.1.1.1, h.1.1.2, h.1.2, h.2⟩
  · cases h

theorem witness_ChecksTrap :
    (∃ x, tS.site 12 = some x ∧ x.pending = none ∧ x.stalled (.tret 0 .skip false false none) = false ∧
      x.mxStalled (.tret 0 .skip false false none) = false ∧
      (x.check (.tret 0 .skip false false none)).map (·.code) = some .illop ∧ x.handler = false ∧
      handlerOnly (.tret 0 .skip false false none) = true) ∧
    (∃ x, tHand.site 12 = some x ∧ x.pending = none ∧ x.stalled (.npe 0) = false ∧
      x.mxStalled (.npe 0) = false ∧ x.handler = true ∧ handlerIllegal (.npe 0) = true) ∧
    (∃ x, tSplit.site 4 = some x ∧ x.pending = none ∧ x.stalled (.saddShort 1 2 3) = false ∧
      x.mxStalled (.saddShort 1 2 3) = false ∧ illegalHere x (.saddShort 1 2 3) = false ∧
      x.w.st.npe = false ∧ needsConv (.saddShort 1 2 3) = true ∧ x.conv = false) ∧
    ∃ x, (onW tS fun w => { w with st := { w.st with npe := true } }).site 4 = some x ∧ x.pending = none ∧
      x.stalled .nopShort = false ∧ x.mxStalled .nopShort = false ∧ x.w.st.npe = true ∧
      x.w.st.npeleft = 0 ∧ x.handler = false :=
  ⟨checks_wit (i := .tret 0 .skip false false none) (by decide), checks_wit (i := .npe 0) (by decide),
    checks_wit (i := .saddShort 1 2 3) (by decide), checks_wit (i := .nopShort) (by decide)⟩

/- ### Accesses -/

/-- Four bytes at an offset of bonded DRAM. -/
def four (a : Nat) : List Loc := (List.range 4).map fun k => .mem 0 (a + k)

theorem four_plain {x : Site} {b : Block} {a : Nat} (h : x.s.poison = []) (acc : LaneAcc)
    (ha : acc = .good (four a) 0) : x.plain b acc (four a) := by
  subst ha
  refine ⟨⟨0, by decide, rfl⟩, fun q hq => ?_⟩
  simp only [four, List.mem_map] at hq
  obtain ⟨k, _, rfl⟩ := hq
  exact ⟨.inr ⟨0, _, by decide, rfl⟩, by simp [locPoisoned, h]⟩

theorem witness_LoadsAndStores :
    (∃ (x : Site) (at_ : Nat → List Loc), Issues (.ld g1 3 (.vec 1 (.imm 0)) false .relaxed .b32) (oneLane tRW 0x2fc) x ∧
      x.ctx? = some programCtx ∧ x.s.slowLoads = false ∧
      ∀ l, l < 32 → (x.acting g1).getLsbD l = true →
        x.plain x.b (x.access programCtx false (x.w.addr false (.vec 1 (.imm 0)) l) 4 .load false) (at_ l)) ∧
    (∃ (x : Site) (at_ : List Loc), Issues (.sld 0 2 3 (.imm 0x300) .n32) tRW x ∧ x.ctx? = some programCtx ∧ x.mask ≠ 0 ∧
      x.plain x.b (x.access programCtx false ((x.w.sget 3 + x.w.sopb (.imm 0x300)) &&& (2#64 ^ 57 - 1)) 4
        .load false) at_) ∧
    (∃ x, Issues (.ldq g1 3 (.vec 1 (.imm 0)) 0 .b32) (oneLane tRW 0xfffc) x ∧
      x.s.member? x.b 0 = some x.b ∧ x.ctx? = some programCtx ∧ x.acting g1 = 1 ∧
      x.access programCtx true (x.w.addr true (.vec 1 (.imm 0)) 0) 4 .load false =
        .good [.sp 0xfffc, .sp 0xfffd, .sp 0xfffe, .sp 0xffff] 0) ∧
    (∃ x, Issues (.st g1 3 (.vec 1 (.imm 0)) false .relaxed .b32) (oneLane tRW 0x300) x ∧
      x.inRegion = false ∧ x.ctx? = some programCtx ∧ x.acting g1 = 1 ∧
      x.access programCtx false (x.w.addr false (.vec 1 (.imm 0)) 0) 4 .store false =
        .good (four 0x20300) 0) ∧
    (∃ x, Issues (.st g1 3 (.vec 1 (.imm 0)) true .relaxed .b32) (onW (oneLane tRW 0xfffc) fun w =>
        { w with
          rgn := { Region.exposed with inrgn := true }
          stores := List.replicate 15 [⟨31, false, 0x200, [1]⟩] }) x ∧
      x.inRegion = true ∧ x.w.stores.length < 16 ∧ x.ctx? = some programCtx ∧ x.acting g1 = 1 ∧
      x.access programCtx true (x.w.addr true (.vec 1 (.imm 0)) 0) 4 .store false =
        .good [.sp 0xfffc, .sp 0xfffd, .sp 0xfffe, .sp 0xffff] 0) ∧
    ∃ x, Issues (.st g1 3 (.vec 1 (.imm 0)) false (.rel .pod) .b32) (oneLane tRW 0x300) x ∧
      (Ann.rel .pod ≠ .relaxed) ∧ x.light ∧ x.released (.rel .pod) ∧ x.ctx? = some programCtx ∧
      x.acting g1 = 1 ∧ x.access programCtx false (x.w.addr false (.vec 1 (.imm 0)) 0) 4 .store false =
        .good (four 0x20300) 0 := by
  refine ⟨?_, ?_, issues_wit (by decide), issues_wit (by decide), issues_wit (by decide), ?_⟩
  · obtain ⟨x, h, p⟩ := issues_wit (i := .ld g1 3 (.vec 1 (.imm 0)) false .relaxed .b32)
      (s := oneLane tRW 0x2fc) (P := fun x => x.acting g1 = 1 ∧ x.ctx? = some programCtx ∧
        x.s.slowLoads = false ∧ x.s.poison = [] ∧
        x.access programCtx false (x.w.addr false (.vec 1 (.imm 0)) 0) 4 .load false =
          .good (four 0x202fc) 0) (by decide)
    exact ⟨x, fun _ => four 0x202fc, h, p.2.1, p.2.2.1,
      lane0 p.1 (four_plain p.2.2.2.1 _ p.2.2.2.2)⟩
  · obtain ⟨x, h, p⟩ := issues_wit (i := .sld 0 2 3 (.imm 0x300) .n32) (s := tRW) (P := fun x =>
        x.ctx? = some programCtx ∧ x.mask ≠ 0 ∧ x.s.poison = [] ∧
        x.access programCtx false ((x.w.sget 3 + x.w.sopb (.imm 0x300)) &&& (2#64 ^ 57 - 1)) 4 .load false =
          .good (four 0x20300) 0) (by decide)
    exact ⟨x, four 0x20300, h, p.1, p.2.1, four_plain p.2.2.1 _ p.2.2.2⟩
  · obtain ⟨x, h, p⟩ := issues_wit (i := .st g1 3 (.vec 1 (.imm 0)) false (.rel .pod) .b32)
      (s := oneLane tRW 0x300) (P := fun x => x.inRegion = false ∧ x.w.acks = 0 ∧
        x.ctx? = some programCtx ∧ x.acting g1 = 1 ∧
        x.access programCtx false (x.w.addr false (.vec 1 (.imm 0)) 0) 4 .store false =
          .good (four 0x20300) 0) (by decide)
    exact ⟨x, h, by decide, light_of p.1, fun _ => p.2.1, p.2.2⟩

theorem witness_AccessFaultsPark :
    (∃ x, Issues (.ld g1 3 (.vec 1 (.imm 0)) true .relaxed .b32) (oneLane tRW 0xfffd) x ∧
      x.ctx? = some programCtx ∧ x.inRegion = false ∧ x.handler = false ∧ x.s.poison = [] ∧
      x.b.spadPoison = [] ∧ x.acting g1 = 1 ∧
      (match x.access programCtx true (x.w.addr true (.vec 1 (.imm 0)) 0) 4 .load false with
      | .trap _ => true
      | _ => false) = true) ∧
    ∃ x, Issues (.st g1 3 (.vec 1 (.imm 0)) false .relaxed .b32) (oneLane tS 0x300) x ∧
      x.ctx? = some programCtx ∧ x.inRegion = false ∧ x.handler = false ∧ x.s.poison = [] ∧
      x.b.spadPoison = [] ∧ x.acting g1 = 1 ∧
      (match x.access programCtx false (x.w.addr false (.vec 1 (.imm 0)) 0) 4 .store false with
      | .bad _ => true
      | _ => false) = true :=
  ⟨issues_wit (by decide), issues_wit (by decide)⟩

theorem witness_AtomicsPerform :
    (∃ x, Issues (.atom g1 4 1 0 6 7 .cas (.rel .pod) false false false) (oneLane tRW 0x300) x ∧ x.light ∧
      x.released (.rel .pod) ∧ x.ctx? = some programCtx ∧ ∃ at_ : Nat → List Loc, ∀ l, l < 32 →
        (x.acting g1).getLsbD l = true → x.plain x.b (x.atomAccess programCtx .cas false
          (x.w.addr false (.vec 1 (.imm 0)) l) (32 / 8)) (at_ l)) ∧
    ∃ x, Issues (.redM g1 1 0 6 .add .relaxed true false false) (oneLane tRW 0x300) x ∧ x.acting g1 = 1 := by
  refine ⟨?_, issues_wit (by decide)⟩
  obtain ⟨x, h, p⟩ := issues_wit (i := .atom g1 4 1 0 6 7 .cas (.rel .pod) false false false)
    (s := oneLane tRW 0x300) (P := fun x => x.inRegion = false ∧ x.w.acks = 0 ∧
      x.ctx? = some programCtx ∧ x.acting g1 = 1 ∧ x.s.poison = [] ∧
      x.atomAccess programCtx .cas false (x.w.addr false (.vec 1 (.imm 0)) 0) (32 / 8) =
        .good (four 0x20300) 0) (by decide)
  exact ⟨x, h, light_of p.1, fun _ => p.2.1, p.2.2.1, fun _ => four 0x20300,
    lane0 p.2.2.2.1 (four_plain p.2.2.2.2.1 _ p.2.2.2.2.2)⟩

theorem witness_WaitsAndFencesPass :
    (∃ x, Issues (.waitv g1 1 (.imm 0) 6 .ne .relaxed false false) (oneLane tRW 0x300) x ∧ x.light ∧
      x.ctx? = some programCtx ∧ ∃ at_ : Nat → List Loc, ∀ l, l < 32 → (x.acting g1).getLsbD l = true →
        x.plain x.b (x.waitAccess programCtx false (x.w.addr false (.vec 1 (.imm 0)) l) 4) (at_ l)) ∧
    (∃ x, Issues (.fence g1 .acq .pod .ls .ls) tS x ∧ x.handler = false) ∧
    (∃ x, Issues (.fence Ctl.none .sc .pod .ls .mx) tS x ∧ FenceKind.sc ≠ .acq ∧ x.light ∧ x.w.acks = 0) ∧
    (∃ x, Issues (.prf g1 true (.vec 1 (.imm 0))) tS x ∧ x.handler = false) ∧
    ∃ x, Issues (.flushHost Ctl.none 2 (.imm 64)) tS x ∧ x.light := by
  refine ⟨?_, issues_wit (by decide), ?_, issues_wit (by decide), ?_⟩
  · obtain ⟨x, h, p⟩ := issues_wit (i := .waitv g1 1 (.imm 0) 6 .ne .relaxed false false)
      (s := oneLane tRW 0x300) (P := fun x => x.inRegion = false ∧
        x.ctx? = some programCtx ∧ x.acting g1 = 1 ∧ x.s.poison = [] ∧
        x.waitAccess programCtx false (x.w.addr false (.vec 1 (.imm 0)) 0) 4 =
          .good (four 0x20300) 0) (by decide)
    exact ⟨x, h, light_of p.1, p.2.1, fun _ => four 0x20300,
      lane0 p.2.2.1 (four_plain p.2.2.2.1 _ p.2.2.2.2)⟩
  · obtain ⟨x, h, p⟩ := issues_wit (i := .fence Ctl.none .sc .pod .ls .mx) (s := tS)
      (P := fun x => x.inRegion = false ∧ x.w.acks = 0) (by decide)
    exact ⟨x, h, by decide, light_of p.1, p.2⟩
  · obtain ⟨x, h, p⟩ := issues_wit (i := .flushHost Ctl.none 2 (.imm 64)) (s := tS)
      (P := fun x => x.inRegion = false) (by decide)
    exact ⟨x, h, light_of p⟩

/- ### Tiles, transfers and queues -/

/-- A kernel with one tensor layout, and a block whose tile 2 is configured for it. -/
def tTile (st : TileState) : State :=
  onG (onB tRW fun b => { b with tiles := [(2, ⟨1, 0, true, false, st, 64, 16, 0x100⟩)] }) fun g =>
    { g with img := { g.img with tlrs := [⟨0, [64, 64], [4], 1, 2, 4, 4, 0, 0, 0, 0⟩]
                                 desc := { g.img.desc with tlrcnt := 1 } } }

theorem witness_TilesAndTransfers :
    (∃ x, Issues (.tcfg Ctl.none 2 4 5 1 true) (onW tRW fun w => (w.sset 4 0xffc0).sset 5 0x400000001) x ∧
      x.acting Ctl.none ≠ 0 ∧ (x.s.core x.b.coreNum).mx.ops = [] ∧ x.w.cmds = [] ∧
      (∀ n, n < 16 → (x.b.tile n).st = .empty ∨ (x.b.tile n).st = .ready) ∧
      x.w.sget 4 = 0xffc0 ∧ x.w.sget 5 = 0x400000001) ∧
    (∃ x, Issues (.tcfg Ctl.none 2 4 5 1 true) (onW tTrap fun w => (w.sset 4 0xffc1).sset 5 0x400000001) x ∧
      x.acting Ctl.none ≠ 0 ∧ x.handler = false ∧ x.w.utraps = [] ∧
      x.g.img.desc.trapent ≠ 0xffffffff ∧ (x.w.sget 4).toNat % 64 ≠ 0) ∧
    (∃ x, Issues (.tfree Ctl.none 2) (tTile .ready) x ∧ x.acting Ctl.none ≠ 0 ∧
      (∀ n, n < 16 → (x.b.tile n).st = .empty ∨ (x.b.tile n).st = .ready) ∧
      (x.s.core x.b.coreNum).mx.ops = [] ∧ x.w.cmds = []) ∧
    (∃ x, Issues (.tfree Ctl.none 2) (tTile .filling) x ∧ x.acting Ctl.none ≠ 0 ∧
      (x.b.tile 2).st = .filling) ∧
    (∃ x, Issues (.tstat g1 (.p 3) 2) (oneLane (tTile .ready) 0) x ∧ x.g.img.desc.det = false) ∧
    (∃ x, Issues (.tload Ctl.none 2 0 4 .none (some 7)) (tTile .empty) x ∧ x.inRegion = false ∧
      x.acting Ctl.none ≠ 0 ∧ (x.s.core x.b.coreNum).mx.ops = [] ∧
      x.g.img.tlrs[0]? = some ⟨0, [64, 64], [4], 1, 2, 4, 4, 0, 0, 0, 0⟩ ∧
      tileFits (x.b.tile 2) ⟨0, [64, 64], [4], 1, 2, 4, 4, 0, 0, 0, 0⟩ .none = true ∧
      (x.b.tile 2).st ≠ .draining ∧ x.w.token 7 ≠ 63) ∧
    (∃ x, Issues (.tstore Ctl.none 2 0 4 .none none) (tTile .ready) x ∧ x.acting Ctl.none ≠ 0 ∧
      (x.b.tile 2).st = .ready) ∧
    (∃ x, Issues (.cp Ctl.none 3 4 (.imm 16) .gs 5) (onW tRW fun w => w.sset 3 0xfff0) x ∧
      x.inRegion = false ∧ x.acting Ctl.none ≠ 0 ∧
      (x.byteReq Ctl.none .cp 0x33 0 3 4 (.imm 16) false true 5).len ≠ 0 ∧
      (x.w.sget 3).toNat + 16 ≤ x.g.img.desc.spad ∧ x.w.token 5 ≠ 63) ∧
    (∃ x, Issues (.rget Ctl.none 3 4 (.imm 0) true 5) tRW x ∧
      (x.byteReq Ctl.none .rget 0x35 1 3 4 (.imm 0) false true 5).len = 0) ∧
    ∃ x, Issues (.rput Ctl.none 3 4 (.imm 16) false 5) tRgn x ∧ x.inRegion = true ∧
      x.acting Ctl.none ≠ 0 ∧ x.w.cmds.length < 16 :=
  ⟨issues_wit (by decide), issues_wit (by decide), issues_wit (by decide), issues_wit (by decide),
    issues_wit (by decide), issues_wit (by decide), issues_wit (by decide), issues_wit (by decide),
    issues_wit (by decide), issues_wit (by decide)⟩

/-- A kernel whose blocks may push one entry to a queue. -/
def tQuota : State := onG tS fun g => { g with img := { g.img with desc := { g.img.desc with quota := 1 } } }

theorem witness_QueuesAndTokens :
    (∃ x, Issues (.qpush Ctl.none 1 8) tQuota x ∧ x.inRegion = false ∧ x.acting Ctl.none ≠ 0 ∧
      x.w.cmds = [] ∧ x.b.roomFor x.g.img.desc.quota 1 = true) ∧
    (∃ x, Issues (.qpush Ctl.none 1 8) (onW tQuota fun w =>
        { w with rgn := { Region.exposed with inrgn := true } }) x ∧ x.inRegion = true ∧
      x.acting Ctl.none ≠ 0 ∧ x.w.cmds.length < 16 ∧
      (x.b.withHeld x.w.cmds).roomFor x.g.img.desc.quota 1 = true) ∧
    (∃ x, Issues (.qpush Ctl.none 1 8) (onB tTrap fun b =>
        { b with queues := [(1, List.replicate 8 [])] }) x ∧ x.inRegion = false ∧ x.acting Ctl.none ≠ 0 ∧
      x.w.cmds = [] ∧ x.b.roomFor x.g.img.desc.quota 1 = false ∧ x.handler = false ∧ x.w.utraps = [] ∧
      x.g.img.desc.trapent ≠ 0xffffffff) ∧
    (∃ x, Issues (.qpop Ctl.none 16 1) (onB tQuota fun b => { b with queues := [(1, [[5]])] }) x ∧
      x.acting Ctl.none ≠ 0 ∧ x.b.queue 1 ≠ []) ∧
    (∃ x, Issues (.qpop Ctl.none 16 1) tQuota x ∧ x.acting Ctl.none ≠ 0 ∧ x.b.queue 1 = []) ∧
    (∃ x, Issues (.waitk ⟨none, 0x81⟩ 5) (onW tS fun w => w.setToken 7 5) x ∧ x.light ∧
      ∀ k, k < 8 → (0x81 : BitVec 8).getLsbD k = true → (x.w.token k).toNat ≤ (5 : BitVec 6).toNat) ∧
    (∃ x, Issues (.waitk ⟨none, 0x81⟩ 5) (onW tS fun w =>
        { w.setToken 7 6 with rgn := { Region.exposed with inrgn := true } }) x ∧ x.inRegion = true ∧ x.light ∧
      (0x81 : BitVec 8).getLsbD 7 = true ∧ (5 : BitVec 6).toNat < (x.w.token 7).toNat) ∧
    ∃ x, Issues (.waitk ⟨none, 0x81⟩ 5) (onW tS fun w => w.setToken 7 6) x ∧ x.inRegion = false ∧
      (0x81 : BitVec 8).getLsbD 7 = true ∧ (5 : BitVec 6).toNat < (x.w.token 7).toNat := by
  refine ⟨issues_wit (by decide), issues_wit (by decide), issues_wit (by decide), issues_wit (by decide),
    issues_wit (by decide), ?_, ?_, issues_wit (by decide)⟩
  · obtain ⟨x, h, p⟩ := issues_wit (i := .waitk ⟨none, 0x81⟩ 5) (s := onW tS fun w => w.setToken 7 5)
      (P := fun x => x.inRegion = false ∧ ∀ k : Nat, k < 8 → (x.w.token k).toNat ≤ 5)
      (by decide)
    exact ⟨x, h, light_of p.1, fun k hk _ => p.2 k hk⟩
  · obtain ⟨x, h, p⟩ := issues_wit (i := .waitk ⟨none, 0x81⟩ 5) (s := onW tS fun w =>
        { w.setToken 7 6 with rgn := { Region.exposed with inrgn := true } })
      (P := fun x => x.inRegion = true ∧ x.ctx?.isSome = true ∧ x.w.stores = [] ∧ x.w.cmds = [] ∧
        (0x81 : BitVec 8).getLsbD 7 = true ∧ (5 : BitVec 6).toNat < (x.w.token 7).toNat)
      (by decide)
    exact ⟨x, h, p.1, fun _ => ⟨p.2.1, p.2.2.1, p.2.2.2.1⟩, p.2.2.2.2⟩

end Sys2Proof.Tests
end

section
/-! SUPPORT. The host's accesses to BAR 0 of a function (R379 to R381, R385, R396): which branch of the register map
an offset takes, what the write there does to a function, the agenda or a monitor, and the statement made of them. -/

namespace Sys2Proof.Machine

/- ### One function or one monitor replaced -/

theorem State.func?_setFunc {s : State} {g f : Func} (h : s.func? g.num = some f) (n : Nat) :
    (s.setFunc g).func? n = if n = g.num then some g else s.func? n := by
  split
  · next hn => rw [hn, setFunc_func?_self h]
  · next hn => exact setFunc_func?_other hn

theorem State.withFunc_setFunc {s : State} {g f : Func} (h : s.func? g.num = some f) :
    s.withFunc (s.setFunc g) g := ⟨rfl, State.func?_setFunc h⟩

theorem State.countError_of_func? {s : State} {fn : Nat} {f : Func} (h : s.func? fn = some f) :
    s.countError fn = s.setFunc { f with errCount := f.errCount + 1 } := by
  rw [State.countError, h]

/-- An access that is counted changes the error count of its function alone. -/
theorem State.withFunc_countError {s : State} {f : Func} (h : s.func? f.num = some f) :
    s.withFunc (s.countError f.num) { f with errCount := f.errCount + 1 } := by
  rw [State.countError_of_func? h]
  exact State.withFunc_setFunc h

theorem State.monitor_setMonitor (s : State) (m n : Nat) (x : Monitor) :
    (s.setMonitor m x).monitor n = if n = m then x else s.monitor n := smGet_set _ _ _ _ _

theorem Func.chan_setChan (f : Func) (n k : Nat) (c : Channel) :
    (f.setChan n c).chan k = if k = n then c else f.chan k := smGet_set _ _ _ _ _

/- ### Fields of the words written -/

/-- A mask keeps the field of n bits from bit lo upward. -/
theorem and_field_mask (v : DWord) (lo n : Nat) :
    v &&& BitVec.ofNat 64 ((2 ^ n - 1) * 2 ^ lo) = BitVec.ofNat 64 (v.toNat / 2 ^ lo % 2 ^ n * 2 ^ lo) := by
  apply BitVec.eq_of_getLsbD_eq
  intro i hi
  simp only [BitVec.getLsbD_and, BitVec.getLsbD_ofNat, Nat.testBit_mul_two_pow, Nat.testBit_two_pow_sub_one,
    Nat.testBit_mod_two_pow, Nat.testBit_div_two_pow, BitVec.testBit_toNat, hi, decide_true, Bool.true_and]
  by_cases hlo : lo ≤ i
  · simp [hlo, Bool.and_comm]
  · simp [hlo]

/-- A word of eight bytes reads back (R3). -/
theorem ofNat_leNat_leBytes (v : DWord) : BitVec.ofNat 64 (leNat (leBytes 8 v.toNat)) = v := by
  rw [leNat_leBytes]
  apply BitVec.eq_of_toNat_eq
  have := v.isLt
  simp only [BitVec.toNat_ofNat]
  omega

/- ### The MSI-X table -/

/-- A write leaves every other key alone, whatever an absent one reads as. -/
theorem smGet_set_other {α : Type} [DecidableEq α] (d d' : α) (m : List (Nat × α)) {k j : Nat} (v : α)
    (h : j ≠ k) : smGet d (smSet d' m k v) j = smGet d m j := by
  unfold smSet
  split
  · exact smGet_erase_ne d m h
  · rw [smGet_insert_ne d _ v h, smGet_erase_ne d m h]

/-- A function with word k of its MSI-X table written. -/
def Func.setMsixWord (f : Func) (k : Nat) (v : DWord) : Func :=
  { f with msixTable := smSet (if k % 2 = 1 then 0x100000000 else 0) f.msixTable k v }

theorem Func.msixWord_setMsixWord (f : Func) (k j : Nat) (v : DWord) :
    (f.setMsixWord k v).msixWord j = if j = k then v else f.msixWord j := by
  split
  · next h => subst h; exact smGet_set_self _ _ _ _
  · next h => exact smGet_set_other _ _ _ v h

theorem putHalf_low (w v : DWord) : putHalf w false v = w.extractLsb' 32 32 ++ v.setWidth 32 := by
  simp [putHalf, BitVec.setWidth_eq_extractLsb']

/-- A write that unmasks no pending vector writes word k of the table and nothing else. -/
theorem State.msixWrite_quiet {s : State} {f : Func} {k : Nat} {v : DWord} (hf : s.func? f.num = some f)
    (h : k / 2 ∉ f.msixPend ∨ k % 2 = 0 ∨ v.getLsbD 32 = true) :
    ∃ g, s.withFunc (s.msixWrite f k v) g ∧ { g with msixTable := f.msixTable } = f ∧
      ∀ j, g.msixWord j = if j = k then v else f.msixWord j := by
  have masked : s.msixWrite f k v = s.setFunc (f.setMsixWord k v) := by
    refine if_neg ?_
    rintro ⟨hk, hv, hp⟩
    rcases h with h | h | h
    · exact h (by simpa using hp)
    · omega
    · rw [h] at hv
      exact absurd hv (by decide)
  rw [masked]
  exact ⟨_, State.withFunc_setFunc hf, rfl, fun j => Func.msixWord_setMsixWord f k j v⟩

/-- A vector whose mask bit is clear goes to the host. -/
theorem State.raiseMsix_unmasked {s : State} {g : Func} {n : Nat} (hg : s.func? g.num = some g)
    (hm : (g.msixWord (2 * n + 1)).getLsbD 32 = false) :
    s.raiseMsix g.num n = { s with msix := s.msix ++ [(g.num, n)] } := by
  simp only [State.raiseMsix, hg, hm, Bool.false_eq_true, if_false]

/-- A write that unmasks a pending vector raises it, and it is no longer pending. -/
theorem State.msixWrite_raises {s : State} {f : Func} {k : Nat} {v : DWord} (hf : s.func? f.num = some f)
    (hk : k % 2 = 1) (hv : v.getLsbD 32 = false) (hp : k / 2 ∈ f.msixPend) :
    (s.msixWrite f k v).msix = s.msix ++ [(f.num, k / 2)] ∧
      ∃ g, s.withFunc { s.msixWrite f k v with msix := s.msix } g ∧
        { g with msixTable := f.msixTable, msixPend := f.msixPend } = f ∧
        g.msixPend = f.msixPend.filter (fun n => n != k / 2) := by
  have word : (f.setMsixWord k v).msixWord (2 * (k / 2) + 1) = v := by
    rw [show 2 * (k / 2) + 1 = k by omega, Func.msixWord_setMsixWord, if_pos rfl]
  have taken : k % 2 = 1 ∧ (!v.getLsbD 32) = true ∧ f.msixPend.contains (k / 2) = true :=
    ⟨hk, by rw [hv]; rfl, by simpa using hp⟩
  have raised := State.raiseMsix_unmasked (n := k / 2)
    (g := { f.setMsixWord k v with msixPend := f.msixPend.filter fun n => n != k / 2 })
    (setFunc_func?_self (s := s) hf) ((congrArg (·.getLsbD 32) word).trans hv)
  rw [show s.msixWrite f k v = _ from (if_pos taken).trans raised]
  exact ⟨rfl, _, State.withFunc_setFunc hf, rfl, rfl⟩

/- ### Where a write goes (R5, R379) -/

theorem exec_registerWrite (r : RegSel) (v : DWord) (s : State) :
    exec (.registerWrite r v) s = execRegisterWrite r v s := rfl

theorem exec_barWrite {s : State} {f : Func} {off : Nat} {v : DWord} (hf : s.func? f.num = some f)
    (ha : off % 8 = 0) (ho : off < 0x80000) :
    exec (.registerWrite (.bar0 f.num off 8) v) s = .next (s.barWrite f off v) := by
  simp [exec_registerWrite, execRegisterWrite, hf, barAligned, ha, ho]

theorem exec_barWrite_counted {s : State} {f : Func} {off n : Nat} {v : DWord} (hf : s.func? f.num = some f)
    (h8 : n ≠ 8 ∨ off % 8 ≠ 0 ∨ 0x80000 ≤ off)
    (h4 : ¬ (n = 4 ∧ off % 4 = 0 ∧ 0x40000 ≤ off ∧ off < 0x44000)) :
    exec (.registerWrite (.bar0 f.num off n) v) s = .next (s.countError f.num) := by
  have wide : barAligned off n = false := by
    simp only [barAligned, Bool.and_eq_false_iff, beq_eq_false_iff_ne, decide_eq_false_iff_not]
    omega
  have half : (inMsix off n && n == 4) = false := by
    by_cases hn : n = 4
    · subst hn
      simp only [inMsix, Bool.and_eq_false_iff, beq_eq_false_iff_ne, decide_eq_false_iff_not]
      omega
    · simp [hn]
  simp [exec_registerWrite, execRegisterWrite, hf, wide, half]

theorem exec_barWrite_half {s : State} {f : Func} {off : Nat} {v : DWord} (hf : s.func? f.num = some f)
    (ha : off % 8 = 0) (hlo : 0x40000 ≤ off) (hhi : off < 0x44000) :
    exec (.registerWrite (.bar0 f.num off 4) v) s = .next (s.msixWrite f ((off - 0x40000) / 8)
      ((f.msixWord ((off - 0x40000) / 8)).extractLsb' 32 32 ++ v.setWidth 32)) := by
  have h4 : off % 4 = 0 := by omega
  simp [exec_registerWrite, execRegisterWrite, hf, inMsix, hlo, hhi, ha, h4, putHalf_low]

theorem exec_atomicOp {s : State} {f : Func} {v : DWord} :
    exec (.registerWrite (.atomicOp f.num) v) s = .next (s.refuseHost f.num) := rfl

section
variable {s : State} {f : Func} {off : Nat} {v : DWord}

theorem State.barWrite_request (h : off < 0x40) :
    s.barWrite f off v = s.setFunc { f with mbreq := smSet 0 f.mbreq (off / 8) v } := by
  simp (disch := omega) only [State.barWrite, if_pos]

theorem State.barWrite_door : s.barWrite f 0x80 v = s.ringDoor f := rfl

theorem State.barWrite_chctx (hlo : 0x1000 ≤ off) (hhi : off < 0x1100) (ho : off % 0x40 = 0) :
    s.barWrite f off v = s.setFunc (f.setChan ((off - 0x1000) / 0x40)
      { f.chan ((off - 0x1000) / 0x40) with ctx := v &&& 0xff#64 }) := by
  simp (disch := omega) only [State.barWrite, if_pos, if_neg]

theorem State.barWrite_apctl : s.barWrite f 0x2000 v = s.setFunc { f with apctl := v &&& 0x1ff#64 } := rfl

theorem State.barWrite_apbase :
    s.barWrite f 0x2008 v = s.setFunc { f with apbase := v &&& 0x00ffffff00000000#64 } := rfl

theorem State.barWrite_wake (hlo : 0x8000 ≤ off) (hhi : off < 0x10000) :
    s.barWrite f off v = s.wakeWindow f.num (off - 0x8000) v := by
  simp (disch := omega) only [State.barWrite, if_pos, if_neg]

theorem State.barWrite_interrupt (hlo : 0x20000 ≤ off) (hhi : off < 0x40000) :
    s.barWrite f off v = { s with agenda := s.agenda ++ [.hostInterruptSend f.num (off - 0x20000) v] } := by
  simp (disch := omega) only [State.barWrite, if_pos, if_neg]

theorem State.barWrite_msix (hlo : 0x40000 ≤ off) (hhi : off < 0x44000) :
    s.barWrite f off v = s.msixWrite f ((off - 0x40000) / 8) v := by
  simp (disch := omega) only [State.barWrite, if_pos, if_neg]

theorem State.barWrite_monitor (hf : f.num = 0) (hlo : 0x50000 ≤ off) (hhi : off < 0x58000) :
    s.barWrite f off v = s.monitorWrite ((off - 0x50000) / 0x100) (off % 0x100) v := by
  simp (disch := omega) only [State.barWrite, if_pos, if_neg]

end

/- ### What the write does there -/

/-- A request that a mailbox takes up becomes an event (R381, R390). -/
theorem State.ringDoor_event {s : State} {f : Func} {i : Instr} (hb : f.busy = false)
    (hi : mailboxEvent f.num ((f.req 0).toNat % 256) = some i)
    (hh : s.fw.state ≠ .switching ∨ (f.req 0).toNat % 256 = 0x20 ∨ (f.req 0).toNat % 256 = 0x22) :
    s.ringDoor f = { s.setFunc { f with busy := true } with agenda := s.agenda ++ [i] } := by
  have op : ((f.req 0).extractLsb' 0 8).toNat = (f.req 0).toNat % 256 := by simp
  have free : ¬ ((s.setFunc { f with busy := true }).fwHeld = true ∧ (f.req 0).toNat % 256 ≠ 0x20 ∧
      (f.req 0).toNat % 256 ≠ 0x22) := by
    rintro ⟨held, h20, h22⟩
    rcases hh with h | h | h
    · exact h (by simpa [State.fwHeld] using held)
    · exact h20 h
    · exact h22 h
  simp only [State.ringDoor, hb, Bool.false_eq_true, if_false, op, hi, if_neg free, State.setFunc_agenda]

/-- A store to the TAIL, CQDONE or WCTL word of a wake cell becomes the event of what is written (R31, R210; WCTL with
ABORT and RESTART is ABORT: log entry 60). -/
theorem State.wakeStore_event {s : State} {q o : Nat} {v : DWord} {i : Instr}
    (h : (o = 0 ∧ i = .wtail q v) ∨ (o = 8 ∧ i = .wcqdone q v) ∨
      (o = 0x10 ∧ v.getLsbD 2 = true ∧ i = .wctlAbort q) ∨
      (o = 0x10 ∧ v.getLsbD 2 = false ∧ v.getLsbD 0 = true ∧ v.getLsbD 1 = false ∧ i = .wctlRestart q) ∨
      (o = 0x10 ∧ v.getLsbD 2 = false ∧ v.getLsbD 0 = true ∧ v.getLsbD 1 = true ∧ i = .wctlRestartSkip q)) :
    s.wakeStore [.wake q o] (leBytes 8 v.toNat) = { s with agenda := s.agenda ++ [i] } := by
  simp only [State.wakeStore, ofNat_leNat_leBytes]
  rcases h with ⟨rfl, rfl⟩ | ⟨rfl, rfl⟩ | ⟨rfl, h2, rfl⟩ | ⟨rfl, h2, h0, h1, rfl⟩ | ⟨rfl, h2, h0, h1, rfl⟩
  · rfl
  · rfl
  · simp only [h2]; rfl
  · simp only [h2, h0, h1]; rfl
  · simp only [h2, h0, h1]; rfl

theorem State.wakeWindow_of_find {s : State} {fn off : Nat} {v : DWord} {q : Queue}
    (h : s.queues.find? (fun p => p.fn == fn && p.index == off / 64) = some q) :
    s.wakeWindow fn off v = s.wakeStore [.wake q.key (off % 64)] (leBytes 8 v.toNat) := by
  simp only [State.wakeWindow, h]

theorem State.monitorWrite_control {s : State} {m : Nat} {v : DWord} :
    s.monitorWrite m 0 v = s.setMonitor m
      (let o := { s.monitor m with source := v.toNat / 4 % 64, en := v.getLsbD 0 }
       if v.getLsbD 1 then o.clear else o) := by
  have source : (v.extractLsb' 2 6).toNat = v.toNat / 4 % 64 := by
    rw [BitVec.extractLsb'_toNat, Nat.shiftRight_eq_div_pow]
  simp only [State.monitorWrite, if_true, source]

/-- A monitor after a write of two edges, from edge i upward; the fifteenth edge is the last (R396). -/
def Monitor.putEdges (o : Monitor) (i : Nat) (v : DWord) : Monitor :=
  let e := smSet 0 o.edges i (v.extractLsb' 0 32)
  { o with edges := if i < 14 then smSet 0 e (i + 1) (v.extractLsb' 32 32) else e }

theorem State.monitorWrite_edges {s : State} {m off : Nat} {v : DWord} (hlo : 0x20 ≤ off) (hhi : off < 0x60) :
    s.monitorWrite m off v = s.setMonitor m ((s.monitor m).putEdges ((off - 0x20) / 4) v) := by
  simp (disch := omega) only [State.monitorWrite, if_pos, if_neg, Monitor.putEdges]

theorem Monitor.edge_putEdges (o : Monitor) {i k : Nat} (v : DWord) (hk : k < 15) :
    (o.putEdges i v).edge k = if k = i then v.setWidth 32
      else if k = i + 1 then (v >>> 32).setWidth 32 else o.edge k := by
  have low : v.extractLsb' 0 32 = v.setWidth 32 := by simp [BitVec.setWidth_eq_extractLsb']
  have high : v.extractLsb' 32 32 = (v >>> 32).setWidth 32 :=
    BitVec.setWidth_ushiftRight_eq_extractLsb.symm
  by_cases hi : i < 14
  · simp only [Monitor.putEdges, Monitor.edge, if_pos hi, smGet_set, low, high]
    by_cases hk1 : k = i + 1
    · simp [hk1]
    · simp [hk1]
  · have hk1 : k ≠ i + 1 := by omega
    simp only [Monitor.putEdges, Monitor.edge, if_neg hi, if_neg hk1, smGet_set, low]

/- ### Reads as zero (R31, R310, R379, R385) -/

/-- MBDOOR, the interrupt window, CHHEAD and, in a virtual function, the management region read as zero. -/
theorem State.barWord_zero {s : State} {f : Func} {off : Nat}
    (h : off = 0x80 ∨ (0x20000 ≤ off ∧ off < 0x40000) ∨ (0x1000 ≤ off ∧ off < 0x1100 ∧ off % 0x40 = 8) ∨
      (f.num ≠ 0 ∧ 0x50000 ≤ off ∧ off < 0x80000)) : s.barWord f off = 0 := by
  rcases h with rfl | ⟨hlo, hhi⟩ | ⟨hlo, hhi, ho⟩ | ⟨hf, hlo, hhi⟩
  · rfl
  all_goals simp (disch := omega) only [State.barWord, if_pos, if_neg]

theorem State.barRead_aligned {s : State} {f : Func} {off : Nat} (hf : s.func? f.num = some f)
    (ha : off % 8 = 0) (ho : off < 0x80000) : s.barRead f.num off 8 = (s, s.barWord f off) := by
  simp [State.barRead, hf, barAligned, ha, ho]

/- ### The statement -/

/-- The aligned write of v to BAR 0 of function fn, from the states that pre says, ends as post says. -/
def BarWrites (fn off : Nat) (v : DWord) (pre : State → Func → Prop) (post : State → Func → State → Prop) : Prop :=
  ∀ f, Event (.registerWrite (.bar0 fn off 8) v) (fun s => s.func? fn = some f ∧ f.num = fn ∧ pre s f)
    fun s t => post s f t

/-- It does so where the offset lies in BAR 0 and barWrite ends so. -/
theorem barWrites_of {fn off : Nat} {v : DWord} {pre : State → Func → Prop} {post : State → Func → State → Prop}
    (hoff : ∀ s f, pre s f → off % 8 = 0 ∧ off < 0x80000)
    (h : ∀ s f, s.func? f.num = some f → f.num = fn → pre s f → post s f (s.barWrite f off v)) :
    BarWrites fn off v pre post := by
  rintro f s ⟨hf, rfl, hp⟩
  obtain ⟨ha, ho⟩ := hoff s f hp
  exact ⟨_, exec_barWrite hf ha ho, h s f hf rfl hp⟩

/-- Settles O36: barWrite sends each offset to one branch, and each branch is one replaced function, one monitor or
one event put on the agenda. -/
theorem hostRegisterWrites : Obligations.HostRegisterWrites := by
  intro fn off v
  refine ⟨?unaligned, ?request, ?busy, ?counted, ?half, ?atomic, ?reads, ?door, ?chctx, ?apctl, ?apbase, ?wake,
    ?interrupt, ?msix, ?unmasks, ?control, ?edges⟩
  case unaligned =>
    rintro f s ⟨hf, rfl, h⟩
    exact ⟨_, exec_barWrite_counted hf (.inr h) (by omega), State.withFunc_countError hf⟩
  case request =>
    refine barWrites_of (by omega) fun s f hf _ ⟨_, ho⟩ => ?_
    rw [State.barWrite_request ho]
    exact ⟨_, State.withFunc_setFunc hf, rfl, fun k => smGet_set _ _ _ _ _⟩
  case busy =>
    refine barWrites_of (by omega) fun s f hf _ ⟨ho, hb⟩ => ?_
    subst ho
    rw [State.barWrite_door, State.ringDoor, if_pos hb]
    exact State.withFunc_countError hf
  case counted =>
    rintro n f h8 h4 s ⟨hf, rfl⟩
    exact ⟨_, exec_barWrite_counted hf h8 h4, State.withFunc_countError hf⟩
  case half =>
    rintro f s ⟨hf, rfl, ha, hlo, hhi, hp⟩
    have row : (off - 0x40000) / 8 / 2 = (off - 0x40000) / 16 := by omega
    obtain ⟨g, hg, hrest, hword⟩ := State.msixWrite_quiet hf (.inl (by rwa [row]))
    refine ⟨_, exec_barWrite_half hf ha hlo hhi, g, hg, hrest, fun k => ?_⟩
    rw [hword]
    split
    · next hk => rw [hk]
    · rfl
  case atomic =>
    rintro f s ⟨hf, rfl⟩
    refine ⟨_, exec_atomicOp, rfl, ?_⟩
    rw [State.refuseHost, State.countError_of_func? hf]
    exact State.withFunc_setFunc hf
  case reads =>
    rintro s f hf rfl h
    rw [State.barRead_aligned hf (by omega) (by omega), State.barWord_zero (by omega)]
  case door =>
    intro op i hi
    refine barWrites_of (by omega) fun s f hf hn ⟨ho, hb, hop, hh⟩ => ?_
    subst ho hn hop
    rw [State.barWrite_door, State.ringDoor_event hb hi hh]
    exact ⟨rfl, State.withFunc_setFunc hf⟩
  case chctx =>
    refine barWrites_of (by omega) fun s f hf _ ⟨_, hlo, hhi, ho⟩ => ?_
    rw [State.barWrite_chctx hlo hhi ho,
      show v &&& 0xff#64 = BitVec.ofNat 64 (v.toNat % 256) by simpa using and_field_mask v 0 8]
    refine ⟨_, State.withFunc_setFunc hf, rfl, fun n => ?_⟩
    rw [Func.chan_setChan]
    split
    · next hn => rw [hn]
    · rfl
  case apctl =>
    refine barWrites_of (by omega) fun s f hf _ ho => ?_
    subst ho
    rw [State.barWrite_apctl,
      show v &&& 0x1ff#64 = BitVec.ofNat 64 (v.toNat % 2 ^ 9) by simpa using and_field_mask v 0 9]
    exact State.withFunc_setFunc hf
  case apbase =>
    refine barWrites_of (by omega) fun s f hf _ ho => ?_
    subst ho
    rw [State.barWrite_apbase, show v &&& 0x00ffffff00000000#64 = _ from and_field_mask v 32 24]
    exact State.withFunc_setFunc hf
  case wake =>
    intro q i hi
    refine barWrites_of (by omega) fun s f _ hn ⟨_, hlo, hhi, hq⟩ => ?_
    subst hn
    rw [State.barWrite_wake hlo hhi, State.wakeWindow_of_find hq, show (off - 0x8000) % 64 = off % 64 by omega]
    exact State.wakeStore_event hi
  case interrupt =>
    refine barWrites_of (by omega) fun s f _ hn ⟨_, hlo, hhi⟩ => ?_
    subst hn
    exact State.barWrite_interrupt hlo hhi
  case msix =>
    refine barWrites_of (by omega) fun s f hf _ ⟨_, hlo, hhi, h⟩ => ?_
    rw [State.barWrite_msix hlo hhi]
    exact State.msixWrite_quiet hf (h.imp_right (.imp_left (by omega)))
  case unmasks =>
    refine barWrites_of (by omega) fun s f hf hn ⟨ho, hlo, hhi, hv, hp⟩ => ?_
    subst hn
    have row : (off - 0x40000) / 8 / 2 = (off - 0x40000) / 16 := by omega
    have raises := State.msixWrite_raises hf (by omega) hv hp
    rw [row] at raises
    rw [State.barWrite_msix hlo hhi]
    exact raises
  case control =>
    refine barWrites_of (by omega) fun s f _ hn ⟨h0, _, hlo, hhi, ho⟩ => ?_
    rw [State.barWrite_monitor (hn.trans h0) hlo hhi, ho, State.monitorWrite_control]
    exact ⟨rfl, fun n => State.monitor_setMonitor _ _ _ _⟩
  case edges =>
    refine barWrites_of (by omega) fun s f _ hn ⟨h0, _, hlo, hhi, he, hl⟩ => ?_
    rw [State.barWrite_monitor (hn.trans h0) hlo hhi, State.monitorWrite_edges he hl]
    refine ⟨rfl, fun n hm => ?_, ?_, fun k hk => ?_⟩
    · rw [State.monitor_setMonitor, if_neg hm]
    · rw [State.monitor_setMonitor, if_pos rfl]; rfl
    · rw [State.monitor_setMonitor, if_pos rfl]
      exact Monitor.edge_putEdges _ _ hk

end Sys2Proof.Machine
end

section
/-! SUPPORT. The machine after reset (R1, R37, R347, R356, R395). -/

namespace Sys2Proof.Machine

/-- Settles O60: the memories are empty and so in their form, the four dies are listed, and no measurement register and
no core is, so that each reads as its reset value. -/
theorem resetState : Obligations.ResetState := by
  refine ⟨State.reset_memWf, rfl, rfl, rfl, rfl, rfl, ?_, ?_, rfl, ?_⟩
  · decide
  · exact fun n _ => rfl
  · exact fun n => ⟨rfl, rfl⟩

end Sys2Proof.Machine
end

section
/-! SUPPORT. Bonded DRAM as the packet cores see it (R205, R211): a run of bytes written or read, and what a steady
translation makes of an access while nothing but the ranges listed changes. -/

namespace Sys2Proof.Machine

/- ### Runs of bytes -/

theorem Memory.bytes_eq_map (m : Memory) (n : Nat) : ∀ a, m.bytes a n = (List.range' a n).map m.byte := by
  induction n with
  | zero => exact fun a => rfl
  | succ n ih => exact fun a => by rw [Memory.bytes, ih, List.range'_succ, List.map_cons]

@[simp] theorem Memory.length_bytes (m : Memory) (a n : Nat) : (m.bytes a n).length = n := by
  simp [Memory.bytes_eq_map]

theorem Memory.getElem_bytes (m : Memory) (a n k : Nat) (h : k < (m.bytes a n).length) :
    (m.bytes a n)[k] = m.byte (a + k) := by
  simp [Memory.bytes_eq_map]

/-- Two memories that agree on a run of bytes read the same there. -/
theorem Memory.bytes_of_agree {m m' : Memory} {a n : Nat} (h : ∀ k, k < n → m'.byte (a + k) = m.byte (a + k)) :
    m'.bytes a n = m.bytes a n := by
  refine List.ext_getElem (by simp) fun k h1 h2 => ?_
  rw [Memory.getElem_bytes, Memory.getElem_bytes]
  exact h k (by simpa using h1)

/-- A part of the bytes written reads back as that part. -/
theorem Memory.bytes_setBytes_part (m : Memory) (a k n : Nat) (l : List Byte) (h : k + n ≤ l.length) :
    (m.setBytes a l).bytes (a + k) n = (l.drop k).take n := by
  refine List.ext_getElem (by simp; omega) fun i h1 h2 => ?_
  rw [Memory.getElem_bytes, Nat.add_assoc, Memory.byte_setBytes_in l m a (k + i) (by simp at h1; omega)]
  simp

/-- The part of n bytes from byte k on of a number's little-endian bytes (R3). -/
theorem leNat_leBytes_part (k : Nat) : ∀ (N x n : Nat), k + n ≤ N →
    leNat (((leBytes N x).drop k).take n) = x / 256 ^ k % 256 ^ n := by
  have take : ∀ (n N x : Nat), n ≤ N → (leBytes N x).take n = leBytes n x := by
    intro n
    induction n with
    | zero => simp [leBytes]
    | succ n ih =>
      intro N x h
      obtain ⟨M, rfl⟩ : ∃ M, N = M + 1 := ⟨N - 1, by omega⟩
      rw [leBytes, List.take_succ_cons, ih M _ (by omega), leBytes]
  induction k with
  | zero => intro N x n h; rw [List.drop_zero, take n N x (by omega), leNat_leBytes]; simp
  | succ k ih =>
    intro N x n h
    obtain ⟨M, rfl⟩ : ∃ M, N = M + 1 := ⟨N - 1, by omega⟩
    rw [leBytes, List.drop_succ_cons, ih M _ n (by omega), Nat.div_div_eq_div_mul, Nat.pow_succ, Nat.mul_comm 256]

/- ### Writes of a run -/

/-- The places of a run of bonded DRAM. -/
theorem zip_dram_run (bs : List Byte) : ∀ (a : Nat) (s : State),
    (((List.range' a bs.length).map fun k => Loc.mem 0 k).zip bs).foldl (fun s p => writeMem s p.1 p.2) s =
      { s with dram := s.dram.setBytes a bs } := by
  induction bs with
  | nil => exact fun a s => rfl
  | cons b t ih =>
    intro a s
    rw [List.length_cons, List.range'_succ, List.map_cons, List.zip_cons_cons, List.foldl_cons, ih (a + 1)]
    rfl

/-- A run written to bonded DRAM changes its bytes, and poison where there is some. -/
theorem State.writeLocs_dram (s : State) (a : Nat) (bs : List Byte) :
    ∃ ps, s.writeLocs ((List.range bs.length).map fun k => .mem 0 (a + k)) bs =
        { s with dram := s.dram.setBytes a bs, poison := ps } ∧ (s.poison = [] → ps = []) := by
  have run := zip_dram_run bs a s
  rw [List.range'_eq_map_range, List.map_map] at run
  unfold State.writeLocs
  simp only [Function.comp_def] at run
  rw [run]
  split
  · next h => exact ⟨_, rfl, id⟩
  · next h => exact ⟨_, rfl, fun h' => absurd (by rw [h']; rfl) h⟩

/-- Without poison the bytes alone change. -/
theorem State.writeLocs_dram_clean {s : State} (hp : s.poison = []) (a : Nat) (bs : List Byte) :
    s.writeLocs ((List.range bs.length).map fun k => .mem 0 (a + k)) bs =
      { s with dram := s.dram.setBytes a bs } := by
  obtain ⟨ps, h, hps⟩ := s.writeLocs_dram a bs
  rw [h, hps hp, ← hp]

/-- A write of the device changes the bytes of its run alone, beside poison. -/
theorem State.putDram_eq (s : State) (a : Nat) (bs : List Byte) :
    ∃ ps, s.putDram a bs = { s with dram := s.dram.setBytes a bs, poison := ps } :=
  (s.writeLocs_dram a bs).imp fun _ h => h.1

/- ### Steady translations (R211) -/

/-- t holds what the walks of s read, but for the ranges listed, and no poison. -/
structure State.keepsWalks (s t : State) (rs : List (Nat × Nat)) : Prop where
  poison : t.poison = []
  lpddr : t.lpddr = s.lpddr
  ats : t.ats = s.ats
  priFailed : t.priFailed = s.priFailed
  dram : dramBut s t rs

theorem dramBut_refl (s : State) (rs : List (Nat × Nat)) : dramBut s s rs := fun _ _ => rfl

theorem dramBut.trans {s t u : State} {rs : List (Nat × Nat)} (h : dramBut s t rs) (h' : dramBut t u rs) :
    dramBut s u rs := fun a ha => (h' a ha).trans (h a ha)

theorem dramBut.mono {s t : State} {rs rs' : List (Nat × Nat)} (h : dramBut s t rs) (hs : rs ⊆ rs') :
    dramBut s t rs' := fun a ha => h a fun r hr => ha r (hs hr)

/-- Bytes written within a range listed. -/
theorem dramBut_setBytes (s : State) {rs : List (Nat × Nat)} {a : Nat} {bs : List Byte} {r : Nat × Nat}
    (hr : r ∈ rs) (h1 : r.1 ≤ a) (h2 : a + bs.length ≤ r.1 + r.2) :
    dramBut s { s with dram := s.dram.setBytes a bs } rs := fun b hb =>
  Memory.byte_setBytes_out bs s.dram a b (by have := hb r hr; omega)

theorem State.steadyOver.keep {s t : State} {rs : List (Nat × Nat)} {c : Ctx} {va n p : Nat}
    (h : s.steadyOver rs c va n p) (w : s.keepsWalks t rs) : t.steadyOver rs c va n p :=
  ⟨w.poison, fun u hp hl ha hf hd => h.2 u hp (hl.trans w.lpddr) (ha.trans w.ats) (hf.trans w.priFailed)
    fun a hr => (hd a hr).trans (w.dram a hr)⟩

/-- A translation that is steady whatever some ranges hold is so whatever fewer hold. -/
theorem State.steadyOver.narrow {s : State} {rs rs' : List (Nat × Nat)} {c : Ctx} {va n p : Nat}
    (h : s.steadyOver rs c va n p) (hs : rs' ⊆ rs) : s.steadyOver rs' c va n p :=
  ⟨h.1, fun u hp hl ha hf hd => h.2 u hp hl ha hf fun a hr => hd a fun r hm => hr r (hs hm)⟩

/-- n bytes within a steady range are one piece of bonded DRAM. -/
theorem State.steadyOver.pieces {s : State} {rs : List (Nat × Nat)} {c : Ctx} {va n p : Nat}
    (h : s.steadyOver rs c va n p) (via : Via) {off len : Nat} {acc : Access} (hl : 0 < len) (hn : off + len ≤ n)
    (ha : acc = .load ∨ acc = .store) :
    ∃ ord, s.pieces c via acc (pageFuel len) (va + off) len = ([⟨0, p + off, len, ord⟩], none) :=
  h.2 s h.1 rfl rfl rfl (fun _ _ => rfl) via off len acc hl hn ha

theorem pieceLocs_single (p : Piece) : pieceLocs [p] = (List.range p.len).map fun k => .mem p.tier (p.off + k) := by
  simp [pieceLocs]

theorem State.steadyOver.readOn {s : State} {rs : List (Nat × Nat)} {c : Ctx} {va n p : Nat}
    (h : s.steadyOver rs c va n p) (via : Via) {off len : Nat} (hl : 0 < len) (hn : off + len ≤ n) :
    s.readOn c via (va + off) len = .ok (s.dram.bytes (p + off) len) := by
  obtain ⟨ord, hp⟩ := h.pieces via hl hn (.inl rfl)
  unfold State.readOn
  rw [hp]
  dsimp only
  rw [List.findIdx?_eq_none_iff.2 fun l hl => ?_]
  · simp [State.readPieces, State.tier]
  · rw [pieceLocs_single] at hl
    obtain ⟨k, _, rfl⟩ := List.mem_map.1 hl
    simp [h.1]

theorem State.steadyOver.writeOn {s : State} {rs : List (Nat × Nat)} {c : Ctx} {va n p : Nat}
    (h : s.steadyOver rs c va n p) (via : Via) {off : Nat} {bs : List Byte} (hl : 0 < bs.length)
    (hn : off + bs.length ≤ n) :
    s.writeOn c via (va + off) bs = .ok { s with dram := s.dram.setBytes (p + off) bs } := by
  obtain ⟨ord, hp⟩ := h.pieces via hl hn (.inr rfl)
  unfold State.writeOn
  rw [hp]
  dsimp only
  rw [pieceLocs_single, State.writeLocs_dram_clean h.1]

end Sys2Proof.Machine
end

section
/-! SUPPORT. The end of a queue's command (R25, R34) and the stop of a queue (R22, R36, R39): what the completion entry,
its vector, the header and the queue's record are afterwards, while the queue's memory translates steadily. -/

namespace Sys2Proof.Machine

/- ### One queue replaced -/

theorem State.queue?_setQueue {s : State} {q r : Queue} (h : s.queue? r.key = some q) (k : Nat) :
    (s.setQueue r).queue? k = if k = r.key then some r else s.queue? k := by
  split
  · next hk => rw [hk, setQueue_queue?_self h]
  · next hk => exact setQueue_queue?_other hk

theorem State.withQueue_setQueue {s : State} {q r : Queue} (h : s.queue? r.key = some q) :
    s.withQueue (s.setQueue r) r := ⟨rfl, State.queue?_setQueue h⟩

/-- The replacement of a queue that has been replaced already. -/
theorem State.withQueue.set {s u : State} {q r : Queue} (h : s.withQueue u q) (hk : r.key = q.key) :
    s.withQueue (u.setQueue r) r := by
  obtain ⟨hs, hq⟩ := h
  have hu : u.queue? r.key = some q := by rw [hq, if_pos hk]
  refine ⟨hs, fun k => ?_⟩
  rw [State.queue?_setQueue hu, hq, hk]
  split <;> rfl

theorem State.withQueue.found {s u : State} {q : Queue} (h : s.withQueue u q) : u.queue? q.key = some q :=
  (h.2 q.key).trans (if_pos rfl)

/-- A queue written as it stands. -/
theorem State.withQueue_refl {s : State} {q : Queue} (h : s.queue? q.key = some q) : s.withQueue s q := by
  refine ⟨rfl, fun k => ?_⟩
  split
  · next hk => rw [hk, h]
  · rfl

/- ### A queue's memory -/

/-- r has the key, the context, the header and the completion ring of q, and no entry that waits. -/
structure Queue.sameMem (q r : Queue) : Prop where
  key : r.key = q.key
  ctx : r.ctx = q.ctx
  header : r.header = q.header
  base : r.cqBase = q.cqBase
  log : r.cqLog2 = q.cqLog2
  pend : r.cqPend = q.cqPend

/-- The ranges that the end of a command may write, beside those of the command itself. -/
abbrev queueRanges (p h : Nat) (rs : List (Nat × Nat)) : List (Nat × Nat) := (p, 32) :: (h, 128) :: rs

/-- The memory of a queue stays where it is while the walks are kept and its record keeps its places. -/
theorem State.queueMem.keep {s t : State} {q r : Queue} {c : Ctx} {idx : DWord} {p h : Nat} {rs : List (Nat × Nat)}
    (m : s.queueMem q c idx p h rs) (w : s.keepsWalks t (queueRanges p h rs)) (same : q.sameMem r)
    (hr : t.queue? r.key = some r) (hc : t.ctx? q.ctx = some c) : t.queueMem r c idx p h rs where
  queue := hr
  ctx := same.ctx ▸ hc
  ring := same.pend.trans m.ring
  entry := by
    have : r.cqAddr idx = q.cqAddr idx := by rw [Queue.cqAddr, Queue.cqAddr, same.base, same.log]
    exact this ▸ m.entry.keep w
  header := same.header ▸ m.header.keep w
  apart := m.apart
  clear := m.clear

/-- Replacing the record of the queue itself. -/
theorem State.queueMem.setQueue {s : State} {q r : Queue} {c : Ctx} {idx : DWord} {p h : Nat} {rs : List (Nat × Nat)}
    (m : s.queueMem q c idx p h rs) (same : q.sameMem r) : (s.setQueue r).queueMem r c idx p h rs :=
  m.keep ⟨m.entry.1, rfl, rfl, rfl, dramBut_refl _ _⟩ same
    (setQueue_queue?_self (q0 := q) (same.key ▸ m.queue)) m.ctx

theorem State.queueMem.narrow {s : State} {q : Queue} {c : Ctx} {idx : DWord} {p h : Nat} {rs : List (Nat × Nat)}
    (m : s.queueMem q c idx p h rs) : s.queueMem q c idx p h [] where
  queue := m.queue
  ctx := m.ctx
  ring := m.ring
  entry := m.entry.narrow (by simp)
  header := m.header.narrow (by simp)
  apart := m.apart
  clear := by simp

/- ### Vectors (R34, R379) -/

/-- Vector v of function fn raised where the command asks for it. -/
def State.vectorIf (s : State) (irq : Bool) (fn v : Nat) : State := if irq then s.raiseMsix fn v else s

/-- A vector changes the messages to the host and the functions alone. -/
theorem State.raiseMsix_rest (s : State) (fn v : Nat) :
    ∃ fs ms, s.raiseMsix fn v = { s with funcs := fs, msix := ms } := by
  unfold State.raiseMsix
  split
  · exact ⟨s.funcs, s.msix, rfl⟩
  · split
    · exact ⟨_, s.msix, rfl⟩
    · exact ⟨s.funcs, _, rfl⟩

theorem State.vectorIf_rest (s : State) (irq : Bool) (fn v : Nat) :
    ∃ fs ms, s.vectorIf irq fn v = { s with funcs := fs, msix := ms } := by
  cases irq
  · exact ⟨s.funcs, s.msix, rfl⟩
  · exact s.raiseMsix_rest fn v

theorem vectored_raiseMsix (s : State) (fn v : Nat) : Vectored s (s.raiseMsix fn v) fn v := by
  intro f hf
  simp only [State.raiseMsix, hf]
  split
  · next masked =>
    have hn : f.num = fn := find_key Func.num s.funcs fn f hf
    subst hn
    refine ⟨rfl, _, setFunc_func?_self (s := s) hf, ?_⟩
    dsimp only
    split
    · next h => simpa using h
    · simp
  · exact ⟨rfl, rfl⟩

/-- What `completed` and `stoppedQ` say of a command's vector. -/
theorem State.vectorIf_vectored {s u : State} (irq : Bool) (fn v : Nat) (hf : u.funcs = s.funcs) (hm : u.msix = s.msix) :
    if irq then Vectored s (u.vectorIf irq fn v) fn v
    else (u.vectorIf irq fn v).funcs = s.funcs ∧ (u.vectorIf irq fn v).msix = s.msix := by
  cases irq
  · exact ⟨hf, hm⟩
  · intro f h
    have h' : u.func? fn = some f := by rw [State.func?, hf]; exact h
    rw [← hf, ← hm]
    exact vectored_raiseMsix u fn v f h'

/- ### Completion entries (R34) -/

theorem Cqe.length_bytes (q : Queue) (k : Cqe) : (k.bytes q).length = 32 := leBytes_length _ _

/-- The field of n bytes from byte i on of an entry, from the fields below it and its own. -/
theorem Cqe.num_bytes (q : Queue) (e : Cqe) (m : Memory) (p i n : Nat) (h : i + n ≤ 32) :
    leNat ((m.setBytes p (e.bytes q)).bytes (p + i) n) =
      (e.station ++ e.grid ++ e.ending.addr ++ e.ending.unit ++ e.ending.cls ++ 0#7 ++
        bit (e.idx.toNat / 2 ^ q.cqLog2 % 2 == 0) ++ 0#24 ++ e.ending.status ++ e.seq : BitVec 256).toNat
          / 2 ^ (8 * i) % 2 ^ (8 * n) := by
  rw [Memory.bytes_setBytes_part _ _ _ _ _ (by rw [Cqe.length_bytes]; exact h), Cqe.bytes,
    leNat_leBytes_part _ _ _ _ h, Nat.pow_mul, Nat.pow_mul]

/-- The number of an entry as the sum of its fields. -/
theorem toNat_append_sum {m n : Nat} (x : BitVec m) (y : BitVec n) : (x ++ y).toNat = 2 ^ n * x.toNat + y.toNat := by
  rw [BitVec.toNat_append, Nat.shiftLeft_eq, Nat.mul_comm, ← Nat.two_pow_add_eq_or_of_lt y.isLt]

/-- A memory that holds the bytes of an entry holds its fields. -/
theorem State.entryAt_of {t : State} {q : Queue} {p : Nat} {e : Cqe} {m : Memory}
    (h : ∀ k, k < 32 → t.dram.byte (p + k) = (m.setBytes p (e.bytes q)).byte (p + k)) :
    t.entryAt q p e.idx e.seq e.ending e.grid e.station := by
  have field (i n : Nat) (hi : i + n ≤ 32) : t.num (p + i) n = _ :=
    (congrArg leNat (Memory.bytes_of_agree fun k hk => by
      rw [Nat.add_assoc]; exact h (i + k) (by omega))).trans (Cqe.num_bytes q e m p i n hi)
  have h0 := e.station.isLt
  have h1 := e.grid.isLt
  have h2 := e.ending.addr.isLt
  have h3 := e.ending.unit.isLt
  have h4 := e.ending.cls.isLt
  have h5 : (bit (e.idx.toNat / 2 ^ q.cqLog2 % 2 == 0)).toNat =
      if e.idx.toNat / 2 ^ q.cqLog2 % 2 = 0 then 1 else 0 := by
    simp only [bit, beq_iff_eq]; split <;> rfl
  have h6 := e.ending.status.isLt
  have h7 := e.seq.isLt
  simp only [toNat_append_sum, BitVec.toNat_ofNat] at field
  constructor
  · rw [show p = p + 0 from rfl, field 0 4 (by omega)]; omega
  · rw [field 4 1 (by omega)]; omega
  · rw [field 8 1 (by omega), ← h5]; omega
  · rw [field 9 1 (by omega)]; omega
  · rw [field 10 2 (by omega)]; omega
  · rw [field 12 8 (by omega)]; omega
  · rw [field 20 4 (by omega)]; omega
  · rw [field 24 8 (by omega)]; omega
  · rw [field 5 3 (by omega)]; omega

/- ### What the end of a command changes -/

/-- s with bonded DRAM, the queues, the functions and the messages to the host replaced: all that the end of a command
and the stop of a queue change. -/
def State.served (s : State) (d : Memory) (qs : List Queue) (fs : List Func) (ms : List (Nat × Nat)) : State :=
  { s with dram := d, queues := qs, funcs := fs, msix := ms }

theorem State.vectorIf_served (s : State) (d : Memory) (qs : List Queue) (irq : Bool) (fn v : Nat) :
    ∃ fs ms, (s.served d qs s.funcs s.msix).vectorIf irq fn v = s.served d qs fs ms ∧
      if irq then Vectored s (s.served d qs fs ms) fn v else fs = s.funcs ∧ ms = s.msix := by
  obtain ⟨fs, ms, h⟩ := (s.served d qs s.funcs s.msix).raiseMsix_rest fn v
  cases irq
  · exact ⟨s.funcs, s.msix, rfl, rfl, rfl⟩
  · refine ⟨fs, ms, h, ?_⟩
    have raised := vectored_raiseMsix (s.served d qs s.funcs s.msix) fn v
    rw [h] at raised
    exact raised

/-- An entry of a queue whose ring translates is written at its place, and its vector raised. -/
theorem State.putCqe_eq {s : State} {q : Queue} {c : Ctx} {p h : Nat} {rs : List (Nat × Nat)} {e : Cqe}
    (m : s.queueMem q c e.idx p h rs) (hfw : s.fw.state ≠ .switching) :
    s.putCqe q.key e =
      ({ s with dram := s.dram.setBytes p (e.bytes q) } : State).vectorIf e.irq q.fn q.msixv := by
  have write := m.entry.writeOn .core (off := 0) (bs := e.bytes q) (by rw [Cqe.length_bytes]; decide)
    (by rw [Cqe.length_bytes])
  have held : s.fwHeld = false := by simpa [State.fwHeld] using hfw
  simp only [Nat.add_zero] at write
  simp only [State.putCqe, m.queue, m.ring, held, List.isEmpty_nil, Bool.not_false, Bool.and_self, if_true,
    State.writeCqe, m.ctx, State.writeVa, write, State.vectorIf]

section
variable {s : State} {d : Memory} {qs : List Queue} {q : Queue} {c : Ctx} {p h : Nat} {rs : List (Nat × Nat)}

/-- A command of a queue completes with its entry at p, where the queues and the memory listed have been changed
before. -/
theorem State.putCqe_completed {e : Cqe} {grid : Option Nat}
    (m : (s.served d qs s.funcs s.msix).queueMem q c e.idx p h rs) (hfw : s.fw.state ≠ .switching)
    (hq : s.withQueue (s.served s.dram qs s.funcs s.msix) q) (hd : dramBut s (s.served d qs s.funcs s.msix) rs) :
    s.completed ((s.served d qs s.funcs s.msix).putCqe q.key e) q p rs ⟨e.idx, e.seq, e.irq, grid⟩ e.ending e.grid
      e.station := by
  obtain ⟨fs, ms, hv, vector⟩ := s.vectorIf_served (d.setBytes p (e.bytes q)) qs e.irq q.fn q.msixv
  rw [State.putCqe_eq m hfw]
  refine hv ▸ ⟨⟨rfl, hq.2⟩, State.entryAt_of (m := d) fun k _ => rfl, fun a ha => ?_, vector⟩
  have out : a < p ∨ p + 32 ≤ a := ha (p, 32) (by simp)
  exact (Memory.byte_setBytes_out _ _ _ _ (by rwa [Cqe.length_bytes])).trans
    (hd a fun r hr => ha r (List.mem_cons_of_mem _ hr))

/-- A consumed command completes (R25): its flight goes, and its entry is written. -/
theorem State.completeCmd_completed {f : Flight} {e : Ending} {grid : Word} {station : DWord}
    (m : (s.served d qs s.funcs s.msix).queueMem q c f.idx p h rs) (hfw : s.fw.state ≠ .switching)
    (hq : s.withQueue (s.served s.dram qs s.funcs s.msix) q) (hd : dramBut s (s.served d qs s.funcs s.msix) rs) :
    s.completed ((s.served d qs s.funcs s.msix).completeCmd q.key f e grid station)
      { q with flights := q.flights.filter fun x => x.idx != f.idx } p rs f e grid station := by
  simp only [State.completeCmd, m.queue]
  exact State.putCqe_completed (s := s) (d := d) (q := { q with flights := q.flights.filter fun x => x.idx != f.idx })
    (e := ⟨f.idx, f.seq, f.irq, e, grid, station⟩) (grid := f.grid) (m.setQueue ⟨rfl, rfl, rfl, rfl, rfl, rfl⟩) hfw
    (hq.set rfl) hd

end

/-- A completed command has changed only what `served` names. -/
theorem State.completed.served {s t : State} {q : Queue} {p : Nat} {rs : List (Nat × Nat)} {f : Flight} {e : Ending}
    {grid : Word} {station : DWord} (h : s.completed t q p rs f e grid station) :
    t = s.served t.dram t.queues t.funcs t.msix :=
  congrArg (fun u => u.served t.dram t.queues t.funcs t.msix) h.queue.1

/-- Another change of the record that a completed command has left. -/
theorem State.completed.set {s t : State} {q r : Queue} {p : Nat} {rs : List (Nat × Nat)} {f : Flight} {e : Ending}
    {grid : Word} {station : DWord} (h : s.completed t q p rs f e grid station) (hk : r.key = q.key)
    (hl : r.cqLog2 = q.cqLog2) (hf : r.fn = q.fn) (hv : r.msixv = q.msixv) :
    s.completed (t.setQueue r) r p rs f e grid station where
  queue := h.queue.set hk
  entry := by
    obtain ⟨h1, h2, h3, h4, h5, h6, h7, h8, h9⟩ := h.entry
    exact ⟨h1, h2, hl ▸ h3, h4, h5, h6, h7, h8, h9⟩
  memory := h.memory
  vector := by rw [hf, hv]; exact h.vector

/-- The memory of a queue after a command of it has completed. -/
theorem State.completed.queueMem {s t : State} {q r : Queue} {c : Ctx} {p h : Nat} {rs : List (Nat × Nat)} {f : Flight}
    {e : Ending} {grid : Word} {station : DWord} {idx : DWord} (x : s.completed t r p rs f e grid station)
    (m : s.queueMem q c idx p h rs) (same : q.sameMem r) : t.queueMem r c idx p h rs := by
  have ht := x.served
  have walks : s.keepsWalks t (queueRanges p h rs) :=
    ⟨by rw [ht]; exact m.entry.1, by rw [ht]; rfl, by rw [ht]; rfl, by rw [ht]; rfl, x.memory.mono (by simp)⟩
  have hr : t.queue? r.key = some r := x.queue.found
  exact m.keep walks same hr (by rw [ht]; exact m.ctx)

/- ### Headers (R29) -/

section
variable {s : State} {q r : Queue} {c : Ctx} {idx : DWord} {p h : Nat} {rs : List (Nat × Nat)}

/-- The header of a queue translates steadily. -/
theorem State.queueMem.writeHeader (m : s.queueMem q c idx p h rs) (same : q.sameMem r) (off : Nat) {bs : List Byte}
    (h0 : 0 < bs.length) (h1 : off + bs.length ≤ 128) :
    s.writeVa c (r.header.toNat + off) bs = .ok { s with dram := s.dram.setBytes (h + off) bs } := by
  rw [same.header]
  exact m.header.writeOn .core h0 h1

theorem State.queueMem.hdrPut (m : s.queueMem q c idx p h rs) (same : q.sameMem r) {off n : Nat} (v : Nat) (h0 : 0 < n)
    (h1 : off + n ≤ 128) : s.hdrPut r off n v = { s with dram := s.dram.setBytes (h + off) (leBytes n v) } := by
  simp only [State.hdrPut, same.ctx, m.ctx,
    m.writeHeader same off (bs := leBytes n v) (by rwa [leBytes_length]) (by rwa [leBytes_length])]

/-- A queue's memory stays where it is while bytes of its header are written. -/
theorem State.queueMem.headerBytes (m : s.queueMem q c idx p h rs) (off : Nat) {bs : List Byte}
    (h1 : off + bs.length ≤ 128) :
    ({ s with dram := s.dram.setBytes (h + off) bs } : State).queueMem q c idx p h rs :=
  m.keep ⟨m.entry.1, rfl, rfl, rfl, dramBut_setBytes s (r := (h, 128)) (by simp) (by simp) (by simp; omega)⟩
    ⟨rfl, rfl, rfl, rfl, rfl, rfl⟩ m.queue m.ctx

end

/-- r's record put: the queue replaced, and STATE, UILATCH, WAKELATCH and STOPCLASS in the header (R29). -/
theorem State.queueMem.putQueue {s : State} {q r : Queue} {c : Ctx} {idx : DWord} {p h : Nat} {rs : List (Nat × Nat)}
    (m : s.queueMem q c idx p h rs) (same : q.sameMem r) :
    s.putQueue r = { s.setQueue r with
      dram := ((s.dram.setBytes (h + 32) (leBytes 1 (r.state + if r.uilatch then 8 else 0))).setBytes (h + 80)
        (leBytes 8 r.wakelatch.toNat)).setBytes (h + 96) (leBytes 1 r.stopclass.toNat) } := by
  have m0 := m.setQueue same
  have refl : r.sameMem r := ⟨rfl, rfl, rfl, rfl, rfl, rfl⟩
  have m1 := m0.headerBytes 32 (bs := leBytes 1 (r.state + if r.uilatch then 8 else 0)) (by rw [leBytes_length]; decide)
  have m2 := m1.headerBytes 80 (bs := leBytes 8 r.wakelatch.toNat) (by rw [leBytes_length]; decide)
  rw [State.putQueue, m0.hdrPut refl _ (by decide) (by decide), m1.hdrPut refl _ (by decide) (by decide),
    m2.hdrPut refl _ (by decide) (by decide)]
  rfl

/-- The header of a queue saved (R29, R40): only bytes of the header change. -/
theorem State.queueMem.saveHeader {s : State} {q r : Queue} {c : Ctx} {idx : DWord} {p h : Nat} {rs : List (Nat × Nat)}
    (m : s.queueMem q c idx p h rs) (same : q.sameMem r) :
    ∃ l l', l.length = 32 ∧ l'.length = 8 ∧
      s.saveHeader r = .ok { s with dram := (s.dram.setBytes (h + 48) l).setBytes (h + 88) l' } := by
  refine ⟨leBytes 8 r.head.toNat ++ leBytes 8 r.cmdidx.toNat ++ leBytes 8 r.cqdone.toNat ++ leBytes 8 r.tail.toNat,
    leBytes 8 r.saveptr.toNat, by simp [leBytes_length], leBytes_length _ _, ?_⟩
  have m1 := m.headerBytes 48 (bs := leBytes 8 r.head.toNat ++ leBytes 8 r.cmdidx.toNat ++ leBytes 8 r.cqdone.toNat ++
    leBytes 8 r.tail.toNat) (by simp [leBytes_length])
  simp only [State.saveHeader, same.ctx, m.ctx]
  rw [m.writeHeader same 48 (by simp [leBytes_length]) (by simp [leBytes_length])]
  exact m1.writeHeader same 88 (by simp [leBytes_length]) (by simp [leBytes_length])

/- ### A queue stops (R22, R36, R39) -/

/-- A queue with nothing in flight and nothing swapped out leaves its slot at once: its header is saved, and its last
record put (R39, R40). -/
theorem State.queueMem.leaveSlot {t : State} {q r : Queue} {c : Ctx} {idx : DWord} {p h : Nat} {rs : List (Nat × Nat)}
    (m : t.queueMem q c idx p h rs) (same : q.sameMem r) (busy : t.queueBusy r = false) (held : t.fwHeld = false)
    (hsw : r.swapped = []) (hdef : t.fw.state ≠ .deferred) :
    ∃ d, ({ t with dram := d } : State).queueMem q c idx p h rs ∧ dramBut t { t with dram := d } [(h, 128)] ∧
      t.leaveSlot r = ({ t with dram := d } : State).putQueue
        { r with saveptr := 0, state := 5, slot := none, unmapStep := 0, toStopped := false } := by
  have same' : q.sameMem { r with saveptr := 0 } := ⟨same.1, same.2, same.3, same.4, same.5, same.6⟩
  have last : q.sameMem { r with saveptr := 0, state := 5, slot := none, unmapStep := 0, toStopped := false } :=
    ⟨same.1, same.2, same.3, same.4, same.5, same.6⟩
  obtain ⟨l, l', hl, hl', saved⟩ := m.saveHeader same'
  have m' : ({ t with dram := (t.dram.setBytes (h + 48) l).setBytes (h + 88) l' } : State).queueMem q c idx p h rs :=
    (m.headerBytes 48 (by omega)).headerBytes 88 (by omega)
  refine ⟨(t.dram.setBytes (h + 48) l).setBytes (h + 88) l', m', fun a ha => ?_, ?_⟩
  · have out : a < h ∨ h + 128 ≤ a := ha (h, 128) (by simp)
    exact (Memory.byte_setBytes_out _ _ _ _ (by omega)).trans (Memory.byte_setBytes_out _ _ _ _ (by omega))
  · have fw (u : State) (hu : u.fw = t.fw) : u.fwRecheck = u := by rw [State.fwRecheck, hu, if_neg hdef]
    have none_swapped : r.swapped.isEmpty = true := by rw [hsw]; rfl
    have area : t.saveArea r = some (t, { r with saveptr := 0 }) := if_pos none_swapped
    rw [State.leaveSlot, busy, held, if_neg (by decide), State.unmapFinish, area]
    dsimp only
    rw [saved]
    dsimp only
    rw [State.releaseSlotOf, if_pos (if_pos rfl), if_pos none_swapped]
    exact fw _ ((congrArg State.fw (m'.putQueue last)).trans rfl)

theorem State.num_of_agree {s t : State} {a n : Nat} (h : ∀ k, k < n → t.dram.byte (a + k) = s.dram.byte (a + k)) :
    t.num a n = s.num a n := congrArg leNat (Memory.bytes_of_agree h)

/-- An entry stays while its bytes do. -/
theorem State.entryAt.keep {s t : State} {q : Queue} {p : Nat} {idx : DWord} {seq : Word} {e : Ending} {grid : Word}
    {station : DWord} (x : s.entryAt q p idx seq e grid station)
    (h : ∀ k, k < 32 → t.dram.byte (p + k) = s.dram.byte (p + k)) : t.entryAt q p idx seq e grid station := by
  have same (i n : Nat) (hi : i + n ≤ 32) : t.num (p + i) n = s.num (p + i) n :=
    State.num_of_agree fun k hk => by rw [Nat.add_assoc]; exact h (i + k) (by omega)
  obtain ⟨h1, h2, h3, h4, h5, h6, h7, h8, h9⟩ := x
  exact ⟨(same 0 4 (by decide)).trans h1, (same 4 1 (by decide)).trans h2, (same 8 1 (by decide)).trans h3,
    (same 9 1 (by decide)).trans h4, (same 10 2 (by decide)).trans h5, (same 12 8 (by decide)).trans h6,
    (same 20 4 (by decide)).trans h7, (same 24 8 (by decide)).trans h8, (same 5 3 (by decide)).trans h9⟩

/-- What a record put into a header leaves there: STATE below UILATCH, and STOPCLASS. -/
theorem num_header_put (s : State) (h st : Nat) (ui : Bool) (wake : DWord) (cls : BitVec 8) (hst : st < 8) :
    let t : State := { s with
      dram := ((s.dram.setBytes (h + 32) (leBytes 1 (st + if ui then 8 else 0))).setBytes (h + 80)
        (leBytes 8 wake.toNat)).setBytes (h + 96) (leBytes 1 cls.toNat) }
    t.num (h + 32) 1 % 8 = st ∧ t.num (h + 96) 1 = cls.toNat := by
  intro t
  have state : t.num (h + 32) 1 = (st + if ui then 8 else 0) % 256 := by
    have low : t.dram.bytes (h + 32) 1 = (s.dram.setBytes (h + 32) (leBytes 1 (st + if ui then 8 else 0))).bytes
        (h + 32) 1 := Memory.bytes_of_agree fun k hk => by
      rw [Memory.byte_setBytes_out _ _ _ _ (by omega), Memory.byte_setBytes_out _ _ _ _ (by omega)]
    rw [State.num, low]
    exact (congrArg leNat (Memory.bytes_setBytes (leBytes 1 _) s.dram (h + 32))).trans (leNat_leBytes 1 _)
  have cl : t.num (h + 96) 1 = cls.toNat % 256 :=
    (congrArg leNat (Memory.bytes_setBytes (leBytes 1 cls.toNat) _ (h + 96))).trans (leNat_leBytes 1 _)
  have := cls.isLt
  refine ⟨?_, by omega⟩
  rw [state]
  cases ui
  · simp; omega
  · simp; omega

section
variable {s t : State} {q r : Queue} {c : Ctx} {idx : DWord} {p h : Nat} {f : Flight} {e : Ending} {cls : BitVec 8}

/-- A queue has stopped once its last record stands in its header, whatever else of the header was written before. -/
theorem State.completed.stoppedQ (x : s.completed t q p [] f e noGrid noStation) {d : Memory}
    (m : ({ t with dram := d } : State).queueMem q c idx p h []) (hd : dramBut t { t with dram := d } [(h, 128)])
    (same : q.sameMem r) (hcls : r.stopclass = cls) (hhead : r.head = q.head) (hidx : r.cmdidx = q.cmdidx)
    (htail : r.tail = q.tail) (hhold : r.holding = q.holding) (hfl : r.flights = q.flights)
    (hstate : if s.localLive q.key = false then r.state = 5 ∧ r.slot = none else r.state = 6 ∧ r.slot = q.slot) :
    s.stoppedQ (({ t with dram := d } : State).putQueue r) q p h f e cls := by
  have h8 : r.state < 8 := by split at hstate <;> omega
  have header := num_header_put ({ t with dram := d } : State) h r.state r.uilatch r.wakelatch r.stopclass h8
  rw [m.putQueue same]
  have out : ∀ a, (a < h ∨ h + 128 ≤ a) →
      (((d.setBytes (h + 32) (leBytes 1 (r.state + if r.uilatch then 8 else 0))).setBytes (h + 80)
        (leBytes 8 r.wakelatch.toNat)).setBytes (h + 96) (leBytes 1 r.stopclass.toNat)).byte a = t.dram.byte a := by
    intro a ha
    rw [Memory.byte_setBytes_out _ _ _ _ (by rw [leBytes_length]; omega),
      Memory.byte_setBytes_out _ _ _ _ (by rw [leBytes_length]; omega),
      Memory.byte_setBytes_out _ _ _ _ (by rw [leBytes_length]; omega)]
    exact hd a (by simpa using ha)
  have apart := m.apart
  exact {
    queue := ⟨r, x.queue.set same.key, hcls, hhead, hidx, htail, hhold, hfl, hstate, header.1⟩
    entry := x.entry.keep fun k hk => out (p + k) (by omega)
    header := header.2.trans (congrArg BitVec.toNat hcls)
    memory := fun a ha => (out a (ha (h, 128) (by simp))).trans (x.memory a fun r hr => ha r (by simp_all))
    vector := x.vector }

/-- A queue whose command has failed stops: it stays in its slot while a block of a local grid is left, else it is
saved and leaves it (R36, R39, R40). -/
theorem State.completed.stopQueue (x : s.completed t q p [] f e noGrid noStation) (m : t.queueMem q c idx p h [])
    (idle : s.queueBusy q = false) (hstate : q.state = 3) (hsw : q.swapped = []) (hfw : s.fw.state ≠ .switching)
    (hdef : s.fw.state ≠ .deferred) : s.stoppedQ (t.stopQueue q.key cls) q p h f e cls := by
  have ht := x.served
  have live : t.localLive q.key = s.localLive q.key := by rw [ht]; rfl
  have busy : t.queueBusy { q with stopclass := cls } = false := by rw [ht]; exact idle
  have fw : t.fw = s.fw := by rw [ht]; rfl
  have held : t.fwHeld = false := by simpa [State.fwHeld, fw] using hfw
  have same : q.sameMem { q with stopclass := cls } := ⟨rfl, rfl, rfl, rfl, rfl, rfl⟩
  rw [State.stopQueue, m.queue]
  dsimp only
  rw [if_pos hstate, live]
  split
  · next hl =>
    exact x.stoppedQ (d := t.dram) m (dramBut_refl _ _) ⟨rfl, rfl, rfl, rfl, rfl, rfl⟩ rfl rfl rfl rfl rfl rfl
      (by simp [hl])
  · next hl =>
    obtain ⟨d, m', hd, left⟩ := m.leaveSlot same busy held hsw (by rw [fw]; exact hdef)
    rw [left]
    exact x.stoppedQ m' hd ⟨rfl, rfl, rfl, rfl, rfl, rfl⟩ rfl rfl rfl rfl rfl rfl (by simp [hl])

end

end Sys2Proof.Machine
end

section
/-! SUPPORT. Packets at the head of a queue (R20 to R23, R26, R33, R36): what a packet event does with each thing that
can stand there, and what the consumption, the rejection and the end of a command leave. -/

namespace Sys2Proof.Machine

/- ### Who consumes -/

/-- A queue whose HEAD shows something consumes: it is mapped, holds no command, and no firmware switch goes on. -/
theorem State.consuming_of_atHead {s : State} {q : Queue} (h : ∀ u, s.atHead q ≠ .waits u) : s.consuming q = true := by
  by_contra hc
  have hc : s.consuming q = false := by simpa using hc
  unfold State.atHead at h
  split at h
  · exact h s rfl
  · exact h s (by simp [hc])

theorem State.consuming_iff {s : State} {q : Queue} : s.consuming q = true ↔
    q.state = 3 ∧ q.slot.isSome = true ∧ q.holding = none ∧ s.fw.state ≠ .switching ∧ s.fw.onlyMailbox = false := by
  simp [State.consuming, State.fwHeld, and_assoc]

theorem State.accepts.consuming {s : State} {q : Queue} {c : Ctx} {p : PktHead} {fs : List Field} {type : Nat}
    {fence : Bool} (h : s.accepts q c p fs type fence) : s.consuming q = true :=
  State.consuming_of_atHead fun u hu => by rw [h.head] at hu; cases hu

theorem State.accepts.notSwitching {s : State} {q : Queue} {c : Ctx} {p : PktHead} {fs : List Field} {type : Nat}
    {fence : Bool} (h : s.accepts q c p fs type fence) : s.fw.state ≠ .switching :=
  (State.consuming_iff.1 h.consuming).2.2.2.1

/- ### What a packet event does -/

section
variable {s : State} {q : Queue} {k type : Nat} {fence : Bool} {run : State → Ctx → Queue → PktHead → List Field → State}

theorem packetEvent_waits {u : State} (hq : s.queue? k = some q) (h : s.atHead q = .waits u) :
    packetEvent k type fence s run = .next u := by simp only [packetEvent, hq, h]

theorem packetEvent_reject {t : State} {irq : Bool} {e : Ending} (hq : s.queue? k = some q)
    (h : s.atHead q = .reject t irq e) : packetEvent k type fence s run = .next (t.rejectPkt q irq e) := by
  simp only [packetEvent, hq, h]

theorem packetEvent_skip {p : PktHead} (hq : s.queue? k = some q) (h : s.atHead q = .skip p) :
    packetEvent k type fence s run = .next (s.skipPkt q p) := by simp only [packetEvent, hq, h]

theorem packetEvent_accepts {c : Ctx} {p : PktHead} {fs : List Field} (h : s.accepts q c p fs type fence) :
    packetEvent q.key type fence s run = .next (run s c q p fs) := by
  have runs : ¬ (p.type ≠ type ∨ ((p.fence || fence) && !q.flights.isEmpty) = true) := by
    rintro (ht | hf)
    · exact ht h.type
    · simp only [Bool.and_eq_true, Bool.or_eq_true, Bool.not_eq_true', List.isEmpty_eq_false_iff] at hf
      exact hf.2 (h.fence hf.1)
  simp only [packetEvent, h.queue, h.head, h.ctx, if_neg runs]

end

/- ### Consumption and rejection -/

/-- No page request of a packet core has failed, so that none is told. -/
theorem State.priTold_none {s : State} (h : s.priFailed = []) (n : Nat) (a : DWord) : s.priTold n a = s := by
  unfold State.priTold
  split
  · rw [State.priReported, h]; rfl
  · rfl

/-- A rejected packet has its entry at the place of CMDIDX, and its queue stops (R22, R36). -/
theorem State.rejectPkt_stoppedQ {s : State} {q : Queue} {c : Ctx} {p h : Nat} (irq : Bool) (e : Ending)
    (m : s.queueMem q c q.cmdidx p h []) (idle : s.idleQ q) (hc : s.consuming q = true) (hsw : q.swapped = [])
    (hdef : s.fw.state ≠ .deferred) :
    s.stoppedQ (s.rejectPkt q irq e) q p h ⟨q.cmdidx, q.cmdidx.setWidth 32, irq, none⟩ e e.cls := by
  obtain ⟨hstate, -, -, hfw, -⟩ := State.consuming_iff.1 hc
  have x := State.putCqe_completed (s := s) (d := s.dram) (qs := s.queues) (grid := none)
    (e := ⟨q.cmdidx, q.cmdidx.setWidth 32, irq, e, noGrid, noStation⟩) m hfw (State.withQueue_refl m.queue)
    (dramBut_refl s _)
  rw [State.rejectPkt, State.priTold_none idle.2, ← BitVec.setWidth_eq_extractLsb' (by decide)]
  exact x.stopQueue (x.queueMem m ⟨rfl, rfl, rfl, rfl, rfl, rfl⟩) idle.1 hstate hsw hfw hdef

/-- The command that the packet at HEAD of q becomes. -/
abbrev Queue.flightOf (q : Queue) (p : PktHead) (grid : Option Nat) : Flight := ⟨q.cmdidx, p.seq, p.irq, grid⟩

/-- Queue q once that packet has been consumed and its command runs. -/
abbrev Queue.running (q : Queue) (p : PktHead) (grid : Option Nat) : Queue :=
  { q.consumed p with flights := q.flights ++ [q.flightOf p grid] }

theorem State.consumePkt_eq (s : State) (q : Queue) (p : PktHead) (grid : Option Nat) :
    s.consumePkt q p grid = (s.setQueue (q.running p grid), q.flightOf p grid) := rfl

theorem State.withQueue_consumePkt {s : State} {q : Queue} (h : s.queue? q.key = some q) (p : PktHead)
    (grid : Option Nat) : s.withQueue (s.consumePkt q p grid).1 (q.running p grid) :=
  State.withQueue_setQueue (q := q) h

/-- The queue of a consumed command, found again. -/
theorem State.queue?_running {s : State} {q : Queue} (h : s.queue? q.key = some q) (p : PktHead)
    (grid : Option Nat) : (s.setQueue (q.running p grid)).queue? q.key = some (q.running p grid) :=
  setQueue_queue?_self (q := q.running p grid) (q0 := q) h

/-- The second record of a queue is the one that stays. -/
theorem State.setQueue_setQueue {s : State} {q r : Queue} (hk : r.key = q.key) :
    (s.setQueue q).setQueue r = s.setQueue r := by
  simp only [State.setQueue, List.map_map, hk]
  congr 1
  refine List.map_congr_left fun x _ => ?_
  by_cases hx : x.key = q.key <;> simp [hx]

theorem Queue.flights_ended (fl : List Flight) (f : Flight) :
    (fl ++ [f]).filter (fun x => x.idx != f.idx) = fl.filter fun x => x.idx != f.idx := by simp

/-- A command ends once it has written the ranges listed and its queue's record has been replaced; its entry leaves what
it has written. -/
theorem State.completed_of_write {s : State} {q r : Queue} {c : Ctx} {p h : Nat} {rs : List (Nat × Nat)} {f : Flight}
    {e : Ending} {grid : Word} {station : DWord} {d : Memory} (m : s.queueMem q c f.idx p h rs)
    (hfw : s.fw.state ≠ .switching) (same : q.sameMem r) (written : dramBut s { s with dram := d } rs) :
    let t := (({ s with dram := d } : State).setQueue r).completeCmd r.key f e grid station
    s.completed t { r with flights := r.flights.filter fun x => x.idx != f.idx } p rs f e grid station ∧
      ∀ x ∈ rs, ∀ k, k < x.2 → t.dram.byte (x.1 + k) = d.byte (x.1 + k) := by
  intro t
  have hr : s.queue? r.key = some q := same.key ▸ m.queue
  have moved : ({ s with dram := d } : State).queueMem q c f.idx p h rs :=
    m.keep ⟨m.entry.1, rfl, rfl, rfl, written.mono (by simp)⟩ ⟨rfl, rfl, rfl, rfl, rfl, rfl⟩ m.queue m.ctx
  refine ⟨State.completeCmd_completed (s := s) (d := d) (moved.setQueue same) hfw (State.withQueue_setQueue hr) written,
    fun x hx k hk => ?_⟩
  have entry := State.completeCmd_completed (s := { s with dram := d }) (d := d) (e := e) (grid := grid)
    (station := station) (moved.setQueue same).narrow hfw (State.withQueue_setQueue hr) (dramBut_refl _ _)
  have clear := m.clear x hx
  exact entry.memory (x.1 + k) (by simp; omega)

/-- A command ends with its queue's record replaced as it was consumed, held and run. -/
theorem State.completed_of_record {s : State} {q r : Queue} {c : Ctx} {p h : Nat} {f : Flight} {e : Ending} {grid : Word}
    {station : DWord} (m : s.queueMem q c f.idx p h []) (hfw : s.fw.state ≠ .switching) (same : q.sameMem r) :
    s.completed ((s.setQueue r).completeCmd r.key f e grid station)
      { r with flights := r.flights.filter fun x => x.idx != f.idx } p [] f e grid station :=
  (State.completed_of_write m hfw same (dramBut_refl s _)).1

/-- A packet passed over by a BRANCH is consumed and completes SKIPPED (R26). -/
theorem State.skipPkt_completed {s : State} {q : Queue} {c : Ctx} {p h : Nat} (head : PktHead)
    (m : s.queueMem q c q.cmdidx p h []) (hfw : s.fw.state ≠ .switching) :
    s.completed (s.skipPkt q head)
      { q.consumed head with skipTo := q.skipTo, flights := q.flights.filter fun f => f.idx != q.cmdidx } p []
      (q.flightOf head none) ⟨stSkipped, 0, 0, 0⟩ noGrid noStation := by
  have x := State.completed_of_record (r := { q.running head none with skipTo := q.skipTo }) (f := q.flightOf head none)
    (e := ⟨stSkipped, 0, 0, 0⟩) (grid := noGrid) (station := noStation) m hfw ⟨rfl, rfl, rfl, rfl, rfl, rfl⟩
  rw [Queue.flights_ended] at x
  simp only [State.skipPkt, State.consumePkt_eq, State.queue?_running m.queue]
  rw [State.setQueue_setQueue]
  · exact x
  · rfl

/- ### The statement of what stands at HEAD -/

/-- Each of the nine packet instructions is one packet event. -/
theorem exec_packet {i : Instr} {k : Nat} (hi : i ∈ [Instr.launch k, .copy k, .wait k, .signal k, .branch k, .barrier k,
    .flush k, .inval k, .mark k]) :
    ∃ type fence run, ∀ s, exec i s = packetEvent k type fence s run := by
  simp only [List.mem_cons, List.not_mem_nil, or_false] at hi
  rcases hi with rfl | rfl | rfl | rfl | rfl | rfl | rfl | rfl | rfl
  all_goals exact ⟨_, _, _, fun s => rfl⟩

theorem packetsAtHead : Claims.PacketsAtHead := by
  intro k i hi
  obtain ⟨type, fence, run, hexec⟩ := exec_packet hi
  refine ⟨fun s q u hq hw => (hexec s).trans (packetEvent_waits hq hw), ?rejects, ?skips⟩
  case rejects =>
    rintro q c p h irq e s ⟨rfl, hr, m, idle, hsw, hdef⟩
    have hc : s.consuming q = true := State.consuming_of_atHead fun u hu => by rw [hr] at hu; cases hu
    exact ⟨_, (hexec s).trans (packetEvent_reject m.queue hr), State.rejectPkt_stoppedQ irq e m idle hc hsw hdef⟩
  case skips =>
    rintro q c p h head s ⟨rfl, hs, m⟩
    have hc : s.consuming q = true := State.consuming_of_atHead fun u hu => by rw [hs] at hu; cases hu
    exact ⟨_, (hexec s).trans (packetEvent_skip m.queue hs),
      State.skipPkt_completed head m (State.consuming_iff.1 hc).2.2.2.1⟩

end Sys2Proof.Machine
end

section
/-! SUPPORT. The ends of commands that run on (R25, R34, R35, R273, R408): a held WAIT, a BARRIER, and a COPY with its
bytes copied; and the statement about packets and the ends of commands. -/

namespace Sys2Proof.Machine

/- ### Held commands -/

section
variable {s : State} {q r : Queue} {c : Ctx} {p h : Nat} {f : Flight} {e : Ending}

/-- A command that fails completes, and its queue stops (R36). -/
theorem State.stoppedQ_of_record {cls : BitVec 8} (m : s.queueMem q c f.idx p h []) (same : q.sameMem r)
    (idle : s.idleQ q) (hstate : r.state = 3) (hsw : r.swapped = []) (hfw : s.fw.state ≠ .switching)
    (hdef : s.fw.state ≠ .deferred) :
    s.stoppedQ (((s.setQueue r).completeCmd r.key f e noGrid noStation).stopQueue r.key cls)
      { r with flights := r.flights.filter fun x => x.idx != f.idx } p h f e cls := by
  have x := State.completed_of_record (e := e) (grid := noGrid) (station := noStation) m hfw same
  have same' : q.sameMem { r with flights := r.flights.filter fun x => x.idx != f.idx } :=
    ⟨same.1, same.2, same.3, same.4, same.5, same.6⟩
  have busy : s.queueBusy { r with flights := r.flights.filter fun x => x.idx != f.idx } = s.queueBusy q := by
    simp only [State.queueBusy, same.pend, same.key]
  exact x.stopQueue (x.queueMem m same') (busy.trans idle.1) hstate hsw hfw hdef

theorem State.endHeld_eq (hq : s.queue? q.key = some q) :
    s.endHeld q.key f e = (s.setQueue { q with holding := none }).completeCmd q.key f e noGrid noStation := by
  simp only [State.endHeld, hq]

theorem State.failWord_eq (hq : s.queue? q.key = some q) (hp : s.priFailed = []) (type : Nat) (a : DWord) :
    s.failWord q.key f type a = ((s.setQueue { q with holding := none }).completeCmd q.key f (wordFault type a) noGrid
      noStation).stopQueue q.key 0x35 := by
  simp only [State.failWord, hq, State.priTold_none hp]

/-- A held command that completes holds its queue no longer. -/
theorem State.endHeld_completed (m : s.queueMem q c f.idx p h []) (hfw : s.fw.state ≠ .switching) :
    s.completed (s.endHeld q.key f e)
      { q with holding := none, flights := q.flights.filter fun x => x.idx != f.idx } p [] f e noGrid noStation := by
  rw [State.endHeld_eq m.queue]
  exact State.completed_of_record (r := { q with holding := none }) m hfw ⟨rfl, rfl, rfl, rfl, rfl, rfl⟩

end

section
variable {s : State} {q : Queue} {c : Ctx} {f : Flight} {a y : DWord} {cond : WCond} {time : Word}
  {names : List (Nat × DWord)}

/-- A held WAIT is polled while its queue is mapped and no firmware switch goes on. -/
theorem waitPoll_ready (hslot : q.slot.isSome = true) (hst : q.state ≠ 4) (hfw : s.fw.state ≠ .switching) :
    (q.slot.isNone || q.state == 4 || s.fwHeld) = false := by
  rw [← Option.not_isSome, hslot]
  simp [State.fwHeld, hst, hfw]

/-- Its word, where it can be read here, decides. -/
theorem execWaitPoll_here {v : DWord} (hq : s.queue? q.key = some q) (hc : s.ctx? q.ctx = some c)
    (hh : q.holding = some (f, .wait a y cond time)) (hslot : q.slot.isSome = true) (hst : q.state ≠ 4)
    (hfw : s.fw.state ≠ .switching) (hw : s.wordAt c a = .here v) :
    execWaitPoll q.key s = .next (if wcondHolds cond v y then s.endHeld q.key f doneEnding else s) := by
  simp only [execWaitPoll, hq, hh, hc, waitPoll_ready hslot hst hfw, Bool.false_eq_true, if_false, hw]

/-- A word that cannot be read fails it. -/
theorem execWaitPoll_bad {k : BitVec 8} {x : Nat} (hq : s.queue? q.key = some q) (hc : s.ctx? q.ctx = some c)
    (hh : q.holding = some (f, .wait a y cond time)) (hslot : q.slot.isSome = true) (hst : q.state ≠ 4)
    (hfw : s.fw.state ≠ .switching) (hw : s.wordAt c a = .bad (.cause k x)) :
    execWaitPoll q.key s = .next (s.failWord q.key f 3 a) := by
  simp only [execWaitPoll, hq, hh, hc, waitPoll_ready hslot hst hfw, Bool.false_eq_true, if_false, hw]

/-- It is not polled while the queue is not mapped or the firmware switches. -/
theorem execWaitPoll_idle (hq : s.queue? q.key = some q) (hc : s.ctx? q.ctx = some c)
    (hh : q.holding = some (f, .wait a y cond time))
    (h : q.slot = none ∨ q.state = 4 ∨ s.fw.state = .switching) : execWaitPoll q.key s = .next s := by
  have held : (q.slot.isNone || q.state == 4 || s.fwHeld) = true := by
    rcases h with h | h | h <;> simp [State.fwHeld, h]
  simp only [execWaitPoll, hq, hh, hc, held, if_true]

theorem execWaitTimeout_eq (hq : s.queue? q.key = some q) (hh : q.holding = some (f, .wait a y cond time)) :
    execWaitTimeout q.key s = .next (if time = 0 ∨ q.slot.isNone ∨ q.state = 4 then s
      else (s.endHeld q.key f ⟨stFailed, 0x2a, 0, a⟩).stopQueue q.key 0x2a) := by
  simp only [execWaitTimeout, hq, hh]

theorem execBarrierSatisfied_eq (hq : s.queue? q.key = some q) (hh : q.holding = some (f, .barrier names)) :
    execBarrierSatisfied q.key s = .next (if (q.flights.all fun x => x.idx == f.idx) &&
        names.all (fun n => s.cmdDone n.1 n.2) && !s.fwHeld then s.endHeld q.key f doneEnding else s) := by
  simp only [execBarrierSatisfied, hq, hh]

/-- A command has completed unless its queue has not consumed it or still runs it (R408). -/
theorem State.cmdDone_eq_false {k : Nat} {x : DWord} : s.cmdDone k x = false ↔
    ∃ u, s.queue? k = some u ∧ (u.cmdidx.toNat ≤ x.toNat ∨ ∃ f ∈ u.flights, f.idx = x) := by
  unfold State.cmdDone
  split
  · next h => simp [h]
  · next u h =>
    rw [Bool.and_eq_false_iff]
    simp [h]

/-- What a BARRIER waits for: the rest of its queue, or a command that it names. -/
def State.barrierWaits (s : State) (q : Queue) (f : Flight) (names : List (Nat × DWord)) : Prop :=
  (∃ x ∈ q.flights, x.idx ≠ f.idx) ∨ ∃ n ∈ names, ∃ u, s.queue? n.1 = some u ∧
    (u.cmdidx.toNat ≤ n.2.toNat ∨ ∃ x ∈ u.flights, x.idx = n.2)

/-- A BARRIER is satisfied when it waits for nothing and no firmware switch goes on. -/
theorem barrier_ready_iff : ((q.flights.all fun x => x.idx == f.idx) && names.all (fun n => s.cmdDone n.1 n.2) &&
    !s.fwHeld) = true ↔ ¬ (s.fw.state = .switching ∨ s.barrierWaits q f names) := by
  have done : names.all (fun n => s.cmdDone n.1 n.2) = true ↔ ¬ ∃ n ∈ names, ∃ u, s.queue? n.1 = some u ∧
      (u.cmdidx.toNat ≤ n.2.toNat ∨ ∃ x ∈ u.flights, x.idx = n.2) := by
    simp only [← State.cmdDone_eq_false]
    simp
  rw [Bool.and_eq_true, Bool.and_eq_true, done, State.barrierWaits, not_or, not_or]
  simp only [State.fwHeld, List.all_eq_true, beq_iff_eq, Bool.not_eq_true', beq_eq_false_iff_ne]
  constructor
  · rintro ⟨⟨h1, h2⟩, h3⟩
    exact ⟨h3, fun ⟨x, hx, hne⟩ => hne (h1 x hx), h2⟩
  · rintro ⟨h3, h1, h2⟩
    exact ⟨⟨fun x hx => by_contra fun hne => h1 ⟨x, hx, hne⟩, h2⟩, h3⟩

end

/- ### Copies (R263, R273) -/

theorem granuleStep_pos (a b : Nat) : 0 < granuleStep a b := by
  unfold granuleStep
  have : a % 8 < 8 := Nat.mod_lt _ (by decide)
  have : b % 8 < 8 := Nat.mod_lt _ (by decide)
  exact Nat.lt_min.2 ⟨by omega, by omega⟩

/-- A copy between two steady runs of bonded DRAM that are apart ends, and writes the bytes of the source. -/
theorem copyRun_steady {c : Ctx} {sva dva len sp dp : Nat} {rs : List (Nat × Nat)} (hr : (dp, len) ∈ rs)
    (apart : sp + len ≤ dp ∨ dp + len ≤ sp) (b : Block) : ∀ (fuel pos : Nat) (s : State), len ≤ pos + fuel →
    s.steadyOver rs c sva len sp → s.steadyOver rs c dva len dp →
    ∃ d n, copyRun c .cp false false sva dva len fuel pos s b = ⟨{ s with dram := d }, b, n, none⟩ ∧
      (∀ a, (a < dp + pos ∨ dp + len ≤ a) → d.byte a = s.dram.byte a) ∧
      ∀ k, pos ≤ k → k < len → d.byte (dp + k) = s.dram.byte (sp + k) := by
  intro fuel
  induction fuel with
  | zero => exact fun pos s hl _ _ => ⟨s.dram, pos, rfl, fun _ _ => rfl, fun k h1 h2 => by omega⟩
  | succ fuel ih =>
    intro pos s hl hs hd
    by_cases hp : len ≤ pos
    · exact ⟨s.dram, pos, by rw [copyRun, if_pos hp], fun _ _ => rfl, fun k h1 h2 => by omega⟩
    obtain ⟨n, hn⟩ : ∃ n, n = Nat.min (len - pos) (granuleStep (sva + pos) (dva + pos)) := ⟨_, rfl⟩
    have n_le : n ≤ len - pos := hn ▸ Nat.min_le_left _ _
    have n_pos : 0 < n := hn ▸ Nat.lt_min.2 ⟨by omega, granuleStep_pos _ _⟩
    have read := hs.readOn .cp (off := pos) n_pos (by omega)
    have write := hd.writeOn .cp (off := pos) (bs := s.dram.bytes (sp + pos) n) (by simpa using n_pos)
      (by rw [Memory.length_bytes]; omega)
    have kept : s.keepsWalks { s with dram := s.dram.setBytes (dp + pos) (s.dram.bytes (sp + pos) n) } rs :=
      ⟨hs.1, rfl, rfl, rfl, dramBut_setBytes s hr (by simp) (by simp; omega)⟩
    obtain ⟨d, m, run, out, copied⟩ := ih (pos + n) _ (by omega) (hs.keep kept) (hd.keep kept)
    have old : ∀ a, (a < dp + pos ∨ dp + pos + n ≤ a) →
        (s.dram.setBytes (dp + pos) (s.dram.bytes (sp + pos) n)).byte a = s.dram.byte a := fun a ha =>
      Memory.byte_setBytes_out _ _ _ _ (by rw [Memory.length_bytes]; exact ha)
    refine ⟨d, m, ?_, fun a ha => ?_, fun k h1 h2 => ?_⟩
    · rw [copyRun, if_neg hp]
      simp only [← hn, engineRead, engineWrite, read, write, Bool.false_eq_true, if_false]
      exact run
    · exact (out a (by omega)).trans (old a (by omega))
    · by_cases hk : k < pos + n
      · rw [out (dp + k) (by omega)]
        have inside := Memory.byte_setBytes_in (s.dram.bytes (sp + pos) n) s.dram (dp + pos) (k - pos) (by
          rw [Memory.length_bytes]; omega)
        rw [Memory.getElem_bytes] at inside
        rw [show dp + k = dp + pos + (k - pos) by omega, show sp + k = sp + pos + (k - pos) by omega]
        exact inside
      · exact (copied k (by omega) h2).trans (old (sp + k) (by omega))

theorem State.copyBytes_steady {s : State} {c : Ctx} {sva dva len sp dp : Nat} {rs : List (Nat × Nat)}
    (hr : (dp, len) ∈ rs) (apart : sp + len ≤ dp ∨ dp + len ≤ sp) (b : Block) (hs : s.steadyOver rs c sva len sp)
    (hd : s.steadyOver rs c dva len dp) :
    ∃ d n, s.copyBytes .cp b c false false sva dva len = ⟨{ s with dram := d }, b, n, none⟩ ∧
      dramBut s { s with dram := d } [(dp, len)] ∧ ∀ k, k < len → d.byte (dp + k) = s.dram.byte (sp + k) := by
  obtain ⟨d, n, run, out, copied⟩ := copyRun_steady hr apart b len 0 s (by omega) hs hd
  exact ⟨d, n, run, fun a ha => out a (by simpa using ha), fun k hk => copied k (by omega) hk⟩

/-- A COPY of a transfer ends with its job gone and its command complete. -/
theorem State.endCopy_eq {s : State} {q : Queue} (hq : s.queue? q.key = some q) (hp : s.priFailed = []) (j : CopyJob)
    (e : Ending) : s.endCopy q.key j e = (s.setQueue { q with copies := q.copies.filter fun x => x.idx != j.idx }).completeCmd
      q.key ⟨j.idx, j.seq, j.irq, none⟩ e noGrid noStation := by
  simp only [State.endCopy, hq, State.priTold_none hp]

theorem copyComplete_ends {s : State} {q : Queue} {c : Ctx} {p h : Nat} {j : CopyJob} {src dst : Nat}
    (m : s.queueMem q c j.idx p h [(dst, j.len)]) (hj : q.copies.find? (fun x => x.idx == j.idx) = some j)
    (hchain : j.chain = false) (hp : s.priFailed = []) (hfw : s.fw.state ≠ .switching)
    (hs : s.steadyOver (queueRanges p h [(dst, j.len)]) c j.src.toNat j.len src)
    (hd : s.steadyOver (queueRanges p h [(dst, j.len)]) c j.dst.toNat j.len dst)
    (apart : src + j.len ≤ dst ∨ dst + j.len ≤ src) :
    ∃ t, execCopyComplete q.key j.idx.toNat s = .next t ∧
      s.completed t { q with
        copies := q.copies.filter fun x => x.idx != j.idx
        flights := q.flights.filter fun x => x.idx != j.idx } p [(dst, j.len)] ⟨j.idx, j.seq, j.irq, none⟩ doneEnding
        noGrid noStation ∧ ∀ k, k < j.len → t.dram.byte (dst + k) = s.dram.byte (src + k) := by
  obtain ⟨d, n, run, out, copied⟩ := State.copyBytes_steady (by simp) apart Block.blank hs hd
  have found : q.copies.find? (fun x => x.idx.toNat == j.idx.toNat) = some j := by
    rw [← hj]
    congr 1
    funext x
    rw [Bool.eq_iff_iff, beq_iff_eq, beq_iff_eq, BitVec.toNat_inj]
  obtain ⟨x, stays⟩ := State.completed_of_write (r := { q with copies := q.copies.filter fun x => x.idx != j.idx })
    (f := ⟨j.idx, j.seq, j.irq, none⟩) (e := doneEnding) (grid := noGrid) (station := noStation) m hfw
    ⟨rfl, rfl, rfl, rfl, rfl, rfl⟩ out
  refine ⟨_, ?_, x, fun k hk => (stays (dst, j.len) (by simp) k hk).trans (copied k hk)⟩
  simp only [execCopyComplete, m.queue, found, m.ctx, hchain, Bool.false_eq_true, if_false, run,
    State.endCopy_eq (s := { s with dram := d }) m.queue hp]

/- ### The statement -/

theorem commandsEnd : Claims.CommandsEnd := by
  intro q c p h
  refine ⟨?holds, ?still, ?faults, ?expires, ?runs, ⟨?released, ?blocked⟩, ?copies⟩
  case holds =>
    rintro f a y cond time s ⟨⟨m, hh⟩, hslot, hst, hfw, v, hw, hv⟩
    refine ⟨_, execWaitPoll_here m.queue m.ctx hh hslot hst hfw hw, ?_⟩
    rw [if_pos hv]
    exact State.endHeld_completed m hfw
  case still =>
    rintro f a y cond time s ⟨⟨m, hh⟩, hno⟩
    by_cases idle : q.slot = none ∨ q.state = 4 ∨ s.fw.state = .switching
    · exact ⟨s, execWaitPoll_idle m.queue m.ctx hh idle, rfl⟩
    · simp only [not_or] at idle
      obtain ⟨hslot, hst, hfw⟩ := idle
      obtain ⟨v, hw, hv⟩ : ∃ v, s.wordAt c a = .here v ∧ wcondHolds cond v y = false := by tauto
      refine ⟨s, ?_, rfl⟩
      rw [show exec (.waitPoll q.key) s = execWaitPoll q.key s from rfl,
        execWaitPoll_here m.queue m.ctx hh (Option.isSome_iff_ne_none.2 hslot) hst hfw hw, hv]
      rfl
  case faults =>
    rintro f a y cond time k x s ⟨⟨m, hh⟩, idle, hslot, hst, hfw, hsw, hw⟩
    have hns : s.fw.state ≠ .switching := by rw [hfw]; decide
    refine ⟨_, execWaitPoll_bad m.queue m.ctx hh hslot (by omega) hns hw, ?_⟩
    rw [State.failWord_eq m.queue idle.2]
    exact State.stoppedQ_of_record (r := { q with holding := none }) m ⟨rfl, rfl, rfl, rfl, rfl, rfl⟩ idle hst hsw hns
      (by rw [hfw]; decide)
  case expires =>
    rintro f a y cond time s ⟨⟨m, hh⟩, idle, htime, hslot, hst, hsw, hfw, hdef⟩
    refine ⟨_, execWaitTimeout_eq m.queue hh, ?_⟩
    have due : ¬ (time = 0 ∨ q.slot.isNone = true ∨ q.state = 4) := by
      rintro (h0 | h0 | h0)
      · exact htime h0
      · rw [← Option.not_isSome, hslot] at h0; cases h0
      · omega
    rw [if_neg due, State.endHeld_eq m.queue]
    exact State.stoppedQ_of_record (r := { q with holding := none }) m ⟨rfl, rfl, rfl, rfl, rfl, rfl⟩ idle hst hsw hfw
      hdef
  case runs =>
    rintro f a y cond time s ⟨⟨m, hh⟩, hno⟩
    refine ⟨_, execWaitTimeout_eq m.queue hh, if_pos ?_⟩
    rwa [Option.isNone_iff_eq_none]
  case released =>
    rintro f names s ⟨⟨m, hh⟩, hfw, hw⟩
    refine ⟨_, execBarrierSatisfied_eq m.queue hh, ?_⟩
    rw [if_pos (barrier_ready_iff.2 (not_or.2 ⟨hfw, hw⟩))]
    exact State.endHeld_completed m hfw
  case blocked =>
    rintro f names s ⟨⟨m, hh⟩, hw⟩
    exact ⟨_, execBarrierSatisfied_eq m.queue hh, if_neg fun hr => barrier_ready_iff.1 hr hw⟩
  case copies =>
    rintro j src dst s ⟨m, hj, hchain, _, hp, hfw, hs, hd, apart⟩
    exact copyComplete_ends m hj hchain hp hfw hs hd apart

/-- Settles O41: what stands at HEAD decides a packet event for every type alike, and each command that runs on ends
with its own entry. -/
theorem packetsAndTheirEnds : Obligations.PacketsAndTheirEnds := ⟨packetsAtHead, commandsEnd⟩

end Sys2Proof.Machine
end

section
/-! SUPPORT. Placement of a quartet (R19, R38, R80, R81, R89): the slot served, what placing a member and a quartet adds
to the blocks of a package and leaves alone, and the record of the grid. -/

namespace Sys2Proof.Machine

/- ### The slot served (R38, R43) -/

/-- The greatest of a list under a running maximum. -/
theorem foldl_max_ge {α : Type} (f : α → Nat) (l : List α) : ∀ m, m ≤ l.foldl (fun m r => Nat.max m (f r)) m ∧
    ∀ x ∈ l, f x ≤ l.foldl (fun m r => Nat.max m (f r)) m := by
  induction l with
  | nil => exact fun m => ⟨Nat.le_refl m, by simp⟩
  | cons a t ih =>
    intro m
    obtain ⟨h1, h2⟩ := ih (Nat.max m (f a))
    refine ⟨Nat.le_trans (Nat.le_max_left _ _) h1, fun x hx => ?_⟩
    rcases List.mem_cons.1 hx with rfl | hx
    · exact Nat.le_trans (Nat.le_max_right _ _) h1
    · exact h2 x hx

/-- A running minimum is a member of its list. -/
theorem foldl_min_mem (l : List Nat) : ∀ (m : Option Nat) (k : Nat),
    l.foldl (fun m k => some (Nat.min k (m.getD k))) m = some k → k ∈ l ∨ m = some k := by
  induction l with
  | nil => exact fun m k h => .inr h
  | cons a t ih =>
    intro m k h
    rcases ih _ k h with hk | hk
    · exact .inl (List.mem_cons_of_mem _ hk)
    · have hk : Nat.min a (m.getD a) = k := by simpa using hk
      cases m with
      | none => exact .inl (by rw [← hk]; simp)
      | some b =>
        rcases Nat.le_total a b with hab | hab
        · exact .inl (by rw [← hk]; simp [hab])
        · exact .inr (by rw [← hk]; simp [hab])

/-- The slot served asks, and none asks with a higher priority. -/
theorem State.servedSlot_foremost {s : State} {die k : Nat} (h : s.servedSlot die = some k) :
    ∃ r ∈ s.newRequests die, r.1 = k ∧ ∀ x ∈ s.newRequests die, x.2.1 ≤ r.2.1 := by
  unfold State.servedSlot at h
  extract_lets rs top ks least at h
  have member (l : List Nat) (hl : least l = some k) : k ∈ l := by
    rcases foldl_min_mem l none k hl with hk | hk
    · exact hk
    · cases hk
  have hk : k ∈ ks := by
    cases hfirst : least (ks.filter fun k => decide ((s.die die).lastNew ≤ k)) with
    | some j =>
      rw [hfirst] at h
      have : j = k := by simpa using h
      subst this
      exact List.mem_of_mem_filter (member _ hfirst)
    | none =>
      rw [hfirst] at h
      exact member _ (by simpa using h)
  obtain ⟨r, hr, hrk⟩ := List.mem_map.1 hk
  obtain ⟨hmem, htop⟩ := List.mem_filter.1 hr
  refine ⟨r, hmem, hrk, fun x hx => ?_⟩
  rw [beq_iff_eq.1 htop]
  exact (foldl_max_ge (fun r : Nat × Nat × Nat => r.2.1) rs 0).2 x hx

/- ### Placing a member (R19, R81, R89) -/

/-- x is warp w of a block at the start of a grid's entry: every lane stands there, with the argument address in `s0` and
the takeover word in `s1`. -/
structure Grid.startWarp (g : Grid) (e : KEntry) (w : Nat) (x : Warp) : Prop where
  num : x.num = w
  frontier : x.frontier = [⟨g.cb + e.code.setWidth 64, e.prio, 0xffffffff, 0⟩]
  s0 : x.sget 0 = if g.argLen = 0 then 0 else g.args
  s1 : x.sget 1 = g.takeover

/-- b is a new block with linear index n, member m of quartet q of its grid, on a quad. -/
structure Grid.newMember (g : Grid) (e : KEntry) (q m die quad n : Nat) (b : Block) : Prop where
  grid : b.grid = g.id
  lin : b.lin = n
  quartet : b.quartet = q
  member : b.member = m
  bx : b.bx = BitVec.ofNat 32 (n % g.gx)
  by_ : b.by_ = BitVec.ofNat 32 (n / g.gx % g.gy)
  bz : b.bz = BitVec.ofNat 32 (n / g.gx / g.gy)
  rank : b.rank = g.rank
  spawned : b.spawned = false
  res : b.res = .resident
  die : b.die = die
  quad : b.quad = quad
  core : b.core < 4
  ended : b.ended = false
  count : b.warps.length = g.img.desc.warps
  warps : ∀ (w : Nat) (x : Warp), b.warps[w]? = some x → g.startWarp e w x

/-- t is s with new blocks, and the same grids. -/
structure State.addsBlocks (s t : State) (bs : List Block) : Prop where
  blocks : t.blocks = s.blocks ++ bs
  grids : t.grids = s.grids

theorem State.raiseSplit_addsBlocks (s : State) (core e : Nat) : s.addsBlocks (s.raiseSplit core e) [] := by
  unfold State.raiseSplit
  dsimp only
  split
  · exact ⟨by simp, rfl⟩
  · exact ⟨by simp, rfl⟩

/-- A warp at its start, as `place` leaves it. -/
theorem Grid.startWarp_start (g : Grid) (e : KEntry) (w slot : Nat) (halt : Bool) :
    g.startWarp e w (if halt then
      { (Warp.start w slot (g.cb + (0#32 ++ e.code)) e.prio g.s0).sset 1 g.takeover with
        st := { ((Warp.start w slot (g.cb + (0#32 ++ e.code)) e.prio g.s0).sset 1 g.takeover).st with pdbg := true } }
      else (Warp.start w slot (g.cb + (0#32 ++ e.code)) e.prio g.s0).sset 1 g.takeover) := by
  have zero : ((Warp.start w slot (g.cb + (0#32 ++ e.code)) e.prio g.s0).sset 1 g.takeover).sget 0 = g.s0 := by
    rw [Warp.sget_sset, if_neg (by decide)]
    exact smGet_set_self _ _ _ _
  have one : ((Warp.start w slot (g.cb + (0#32 ++ e.code)) e.prio g.s0).sset 1 g.takeover).sget 1 = g.takeover := by
    rw [Warp.sget_sset, if_pos rfl]
  have pc : g.cb + (0#32 ++ e.code) = g.cb + e.code.setWidth 64 := by
    congr 1
    exact (BitVec.setWidth_eq_append (by decide)).symm
  cases halt
  · exact ⟨rfl, by rw [← pc]; rfl, zero, one⟩
  · exact ⟨rfl, by rw [← pc]; rfl, zero, one⟩

/-- A member placed on core k of a quad is one new block there. -/
theorem State.place_member {s : State} (g : Grid) (e : KEntry) (key q m off : Nat) {die quad k : Nat} (hq : quad < 48)
    (hk : k < 4) : ∃ b, s.addsBlocks (s.place (g.member key q m) g e g.s0 (die * 192 + quad * 4 + k) off) [b] ∧
      g.newMember e q m die quad (g.rankFirst g.rank + 4 * q + m) b := by
  unfold State.place
  extract_lets d slots c warps b'
  obtain ⟨hb, hg⟩ := State.raiseSplit_addsBlocks { s with blocks := s.blocks ++ [b'] } (die * 192 + quad * 4 + k)
    (off + d.spad)
  refine ⟨b', ⟨by rw [hb]; simp, hg⟩, ?_⟩
  have hdie : (die * 192 + quad * 4 + k) / 192 = die := by omega
  have hquad : (die * 192 + quad * 4 + k) % 192 / 4 = quad := by omega
  exact {
    grid := rfl, lin := rfl, quartet := rfl, member := rfl, bx := rfl, by_ := rfl, bz := rfl, rank := rfl
    spawned := rfl, res := rfl, die := hdie, quad := hquad, core := Nat.mod_lt _ (by decide), ended := rfl
    count := by simp [b', warps, d]
    warps := fun w x hx => by
      obtain ⟨hw, rfl⟩ := List.getElem?_eq_some_iff.1 hx
      simp only [b', warps, List.getElem_map, List.getElem_range]
      exact g.startWarp_start e w _ _ }

theorem State.newArea_same {s t : State} {g : Grid} {key : Nat} (h : s.newArea g = some (key, t)) :
    s.addsBlocks t [] := by
  unfold State.newArea at h
  split at h
  · cases h
  · obtain ⟨r, -, hr⟩ := Option.map_eq_some_iff.1 h
    cases hr
    exact ⟨by simp, rfl⟩

theorem State.addsBlocks.trans {s t u : State} {bs bs' : List Block} (h : s.addsBlocks t bs) (h' : t.addsBlocks u bs') :
    s.addsBlocks u (bs ++ bs') := ⟨by rw [h'.blocks, h.blocks, List.append_assoc], h'.grids.trans h.grids⟩

/-- A member that finds a core of a quad is one new block there (R81 step 2). -/
theorem State.placeMember_adds {s t : State} {g : Grid} {e : KEntry} {die quad q m : Nat}
    (he : g.img.entries[g.entry]? = some e) (hq : quad < 48) (h : s.placeMember g die quad q m = some t) :
    ∃ b, s.addsBlocks t [b] ∧ g.newMember e q m die quad (g.rankFirst g.rank + 4 * q + m) b := by
  unfold State.placeMember at h
  extract_lets cores at h
  split at h
  · cases h
  next k off found =>
  obtain ⟨core, hcore, hfit⟩ := List.exists_of_findSome?_eq_some found
  obtain ⟨o, -, ho⟩ := Option.map_eq_some_iff.1 hfit
  cases ho
  obtain ⟨n, hn, rfl⟩ := List.mem_map.1 (List.mem_of_mem_filter hcore)
  split at h
  · next key u e' area entry =>
    cases he.symm.trans entry
    cases h
    obtain ⟨b, placed, new⟩ := State.place_member (s := u) g e key q m off (die := die) hq (List.mem_range.1 hn)
    exact ⟨b, by simpa using (State.newArea_same area).trans placed, new⟩
  · cases h

/-- bs are the first members of quartet q of a grid, on a quad. -/
def Grid.newMembers (g : Grid) (e : KEntry) (q die quad : Nat) (bs : List Block) : Prop :=
  ∀ m b, bs[m]? = some b → g.newMember e q m die quad (g.rankFirst g.rank + 4 * q + m) b

/-- The members of a quartet placed one after the other. -/
theorem State.placeMembers_adds {s : State} {g : Grid} {e : KEntry} {die quad q : Nat}
    (he : g.img.entries[g.entry]? = some e) (hq : quad < 48) (n : Nat) : ∀ t,
    (List.range n).foldl (fun o m => o.bind fun s => s.placeMember g die quad q m) (some s) = some t →
      ∃ bs, s.addsBlocks t bs ∧ bs.length = n ∧ g.newMembers e q die quad bs := by
  induction n with
  | zero =>
    intro t h
    cases h
    exact ⟨[], ⟨by simp, rfl⟩, rfl, by simp [Grid.newMembers]⟩
  | succ n ih =>
    intro t h
    rw [List.range_succ, List.foldl_append] at h
    obtain ⟨u, hu, hm⟩ := Option.bind_eq_some_iff.1 h
    obtain ⟨bs, adds, len, members⟩ := ih u hu
    obtain ⟨b, add, new⟩ := State.placeMember_adds he hq hm
    refine ⟨bs ++ [b], adds.trans add, by simp [len], fun m x hx => ?_⟩
    rcases Nat.lt_or_ge m bs.length with hlt | hge
    · rw [List.getElem?_append_left hlt] at hx
      exact members m x hx
    · rw [List.getElem?_append_right hge, List.getElem?_singleton] at hx
      split at hx
      · cases hx
        have : m = n := by omega
        exact this ▸ new
      · cases hx

theorem State.quad_lt {s : State} {g : Grid} {quad : Nat × Nat} (h : quad ∈ s.quadsFor g) : quad.2 < 48 := by
  unfold State.quadsFor at h
  obtain ⟨l, hl, hq⟩ := List.mem_flatten.1 h
  obtain ⟨die, -, rfl⟩ := List.mem_map.1 hl
  obtain ⟨k, hk, rfl⟩ := List.mem_map.1 hq
  exact List.mem_range.1 (List.mem_of_mem_filter hk)

/-- A quartet that is placed stands whole on one quad of its grid (R81 step 3). -/
theorem State.placeQuartet_adds {s t : State} {g : Grid} {e : KEntry} {q : Nat}
    (he : g.img.entries[g.entry]? = some e) (h : s.placeQuartet g q = some t) :
    ∃ die quad bs, (die, quad) ∈ s.quadsFor g ∧ s.addsBlocks t bs ∧ bs.length = min 4 (g.rankBlocks - 4 * q) ∧
      g.newMembers e q die quad bs := by
  obtain ⟨⟨die, quad⟩, hmem, placed⟩ := List.exists_of_findSome?_eq_some h
  obtain ⟨bs, adds, len, members⟩ := State.placeMembers_adds he (State.quad_lt hmem) _ t placed
  exact ⟨die, quad, bs, hmem, adds, len, members⟩

/- ### The grid once a quartet is placed (R81 step 4) -/

theorem Grid.placed_id (fuel : Nat) : ∀ (g : Grid) (q : Nat), (Grid.placed fuel g q).id = g.id := by
  induction fuel with
  | zero => exact fun g q => rfl
  | succ fuel ih =>
    intro g q
    rw [Grid.placed]
    split
    · rfl
    · dsimp only
      split
      · rw [ih]
      · rfl

theorem Grid.placed_next {g : Grid} (h : g.ahead = []) (fuel : Nat) :
    Grid.placed (fuel + 1) g g.nextQuartet = { g with nextQuartet := g.nextQuartet + 1 } := by
  have none_ahead : g.ahead.erase g.nextQuartet = g.ahead := by rw [h]; rfl
  have last : ¬ g.ahead.contains (g.nextQuartet + 1) = true := by rw [h]; simp
  rw [Grid.placed, if_neg (not_not.2 rfl)]
  dsimp only
  rw [none_ahead, if_neg last]

theorem Grid.placed_ahead {g : Grid} {q : Nat} (h : q ≠ g.nextQuartet) (fuel : Nat) :
    Grid.placed (fuel + 1) g q = { g with ahead := g.ahead ++ [q] } := by rw [Grid.placed, if_pos h]

/- ### Which quartet comes next -/

/-- q is the last quartet of a grid in normal mode, and has not gone ahead. -/
def Grid.lastWaits (g : Grid) (q : Nat) : Prop := q + 1 = g.quartets ∧ g.img.desc.det = false ∧ q ∉ g.ahead

theorem Grid.mem_candidates {g : Grid} {q : Nat} (h : q ∈ g.candidates) : q = g.nextQuartet ∨ g.lastWaits q := by
  unfold Grid.candidates at h
  rcases List.mem_cons.1 h with h | h
  · exact .inl h
  · split at h
    · cases h
    · next hn =>
      have hq : q = g.quartets - 1 := by simpa using h
      simp only [Bool.or_eq_true, not_or, Bool.not_eq_true, List.contains_eq_mem, decide_eq_true_eq, not_le] at hn
      obtain ⟨⟨hdet, hahead⟩, hlt⟩ := hn
      exact .inr ⟨by omega, hdet, hq ▸ hahead⟩

theorem Grid.candidates_last {g : Grid} {q : Nat} (h : g.lastWaits q) (hq : q ≠ g.nextQuartet)
    (hall : g.nextQuartet < g.quartets) : g.candidates = [g.nextQuartet, q] := by
  obtain ⟨hlast, hdet, hahead⟩ := h
  have hq' : g.quartets - 1 = q := by omega
  unfold Grid.candidates
  rw [if_neg, hq']
  simp only [hq', Bool.or_eq_true, not_or, Bool.not_eq_true, List.contains_eq_mem, decide_eq_true_eq,
    not_le]
  exact ⟨⟨hdet, hahead⟩, by omega⟩

section
variable {s : State} {g : Grid}

/-- A grid that cannot be placed, or whose candidates find no quad, has nothing placed. -/
theorem State.nextPlace_none (h : s.placeable g = false ∨ (s.placeQuartet g g.nextQuartet = none ∧
    ∀ q, g.lastWaits q → s.placeQuartet g q = none)) : s.nextPlace g = none := by
  unfold State.nextPlace
  rcases h with h | ⟨hnext, hlast⟩
  · rw [h]; rfl
  · split
    · rfl
    · rw [List.findSome?_eq_none_iff]
      intro q hq
      rcases Grid.mem_candidates hq with rfl | hq
      · rw [hnext]; rfl
      · rw [hlast q hq]; rfl

theorem State.placeable_waits (h : s.placeable g = true) : g.nextQuartet < g.quartets := by
  simp only [State.placeable, Bool.and_eq_true, Grid.allPlaced, Bool.not_eq_true', decide_eq_false_iff_not,
    not_le] at h
  obtain ⟨⟨⟨⟨-, h⟩, -⟩, -⟩, -⟩ := h
  exact h

/-- The quartet placed next: the lowest that waits, or the last one before it. -/
theorem State.nextPlace_some {q : Nat} {t : State} (hp : s.placeable g = true) (ht : s.placeQuartet g q = some t)
    (h : q = g.nextQuartet ∨ (g.lastWaits q ∧ s.placeQuartet g g.nextQuartet = none)) : s.nextPlace g = some (q, t) := by
  have goes : s.nextPlace g = g.candidates.findSome? fun q => (s.placeQuartet g q).map fun t => (q, t) := by
    unfold State.nextPlace
    rw [hp]
    rfl
  rw [goes]
  rcases h with rfl | ⟨hlast, hnone⟩
  · rw [Grid.candidates, List.findSome?_cons, ht]; rfl
  · have hq : q ≠ g.nextQuartet := by
      rintro rfl
      rw [hnone] at ht; cases ht
    rw [Grid.candidates_last hlast hq (State.placeable_waits hp), List.findSome?_cons, hnone, Option.map_none,
      List.findSome?_cons, ht]
    rfl

end

/- ### The event -/

/-- A grid of no queue is served always, one of a queue while its slot is the one served (R38, R43). -/
def State.quartetTurn (s : State) (g : Grid) : Prop := ∀ k q, g.queue = some k → s.queue? k = some q →
  q.slot.isSome = true ∧ q.slot = s.servedSlot q.home

section
variable {s : State} {n : Nat} {g : Grid}

theorem execQuartetPlace_none (hg : s.grid? n = some g) (h : s.nextPlace g = none) :
    execQuartetPlace n s = .next s := by simp only [execQuartetPlace, hg, h]

/-- Nothing is placed while the slot of the grid's queue is not served. -/
theorem execQuartetPlace_unserved (hg : s.grid? n = some g) (h : ¬ s.quartetTurn g) :
    execQuartetPlace n s = .next s := by
  simp only [State.quartetTurn, not_forall] at h
  obtain ⟨k, q, hk, hq, hslot⟩ := h
  have queue : g.queue.bind s.queue? = some q := by rw [hk]; exact hq
  have away : (q.slot.isNone || q.slot != s.servedSlot q.home) = true := by
    rw [not_and_or] at hslot
    rcases hslot with hslot | hslot
    · simp [Option.not_isSome_iff_eq_none.1 hslot]
    · simp [hslot]
  cases hnext : s.nextPlace g with
  | none => exact execQuartetPlace_none hg hnext
  | some r => simp only [execQuartetPlace, hg, hnext, queue, away, if_true]

/-- The quartet placed stays, beside the grid's record and the die's last slot. -/
theorem execQuartetPlace_places {q : Nat} {t : State} (hg : s.grid? n = some g) (hnext : s.nextPlace g = some (q, t))
    (turn : s.quartetTurn g) : ∃ u, execQuartetPlace n s = .next (u.setGrid (Grid.placed (g.ahead.length + 1) g q)) ∧
      t.addsBlocks u [] := by
  cases queue : g.queue.bind s.queue? with
  | none => exact ⟨t, by simp only [execQuartetPlace, hg, hnext, queue], by simp, rfl⟩
  | some qu =>
    obtain ⟨k, hk, hq⟩ := Option.bind_eq_some_iff.1 queue
    obtain ⟨hslot, hserved⟩ := turn k qu hk hq
    have there : (qu.slot.isNone || qu.slot != s.servedSlot qu.home) = false := by
      rw [← hserved, ← Option.not_isSome, hslot]
      simp
    exact ⟨t.setDie qu.home { t.die qu.home with lastNew := qu.slot.getD 0 + 1 },
      by simp only [execQuartetPlace, hg, hnext, queue, there, Bool.false_eq_true, if_false], by simp, rfl⟩

end

/- ### The statement -/

/-- Settles O48: the slot served is foremost by its running maximum, and a quartet is placed member by member. -/
theorem quartetPlacement : Obligations.QuartetPlacement := by
  refine ⟨fun s die k h => State.servedSlot_foremost h, fun n g e => ⟨?still, fun q => ?places⟩⟩
  case still =>
    rintro s ⟨hg, h⟩
    refine ⟨s, ?_, rfl⟩
    rcases h with h | h | h
    · exact execQuartetPlace_none hg (State.nextPlace_none (.inl h))
    · exact execQuartetPlace_unserved hg h
    · exact execQuartetPlace_none hg (State.nextPlace_none (.inr h))
  case places =>
    rintro s ⟨hg, hn, hp, he, turn, hsome, hnext⟩
    obtain ⟨t, ht⟩ := Option.isSome_iff_exists.1 hsome
    obtain ⟨die, quad, bs, hquad, adds, len, members⟩ := State.placeQuartet_adds he ht
    obtain ⟨u, run, same⟩ := execQuartetPlace_places hg (State.nextPlace_some hp ht hnext) turn
    have hid : (Grid.placed (g.ahead.length + 1) g q).id = n := (Grid.placed_id _ g q).trans hn
    have grids : u.grids = s.grids := (adds.trans same).grids
    have hgu : u.grid? n = some g := by rw [State.grid?, grids]; exact hg
    have record : (u.setGrid (Grid.placed (g.ahead.length + 1) g q)).grid? n =
        some (Grid.placed (g.ahead.length + 1) g q) := by
      have := setGrid_grid?_self (s := u) (g := Grid.placed (g.ahead.length + 1) g q) (g0 := g) (by rw [hid]; exact hgu)
      rwa [hid] at this
    refine ⟨_, run, fun k hk => ?_, fun hq hahead => ?_, fun hq => ?_, die, quad, bs, hquad, ?_, len, fun m b hb => ?_⟩
    · rw [setGrid_grid?_other (by rw [hid]; exact hk), State.grid?, grids]
      rfl
    · rw [record, hq, Grid.placed_next hahead]
    · rw [record, Grid.placed_ahead hq]
    · simpa using (adds.trans same).blocks
    · have new := members m b hb
      refine ⟨new.grid.trans hn, new.lin, new.quartet, new.member, new.bx, new.by_, new.bz, new.rank, new.spawned,
        new.res, new.die, new.quad, new.core, new.ended, new.count, fun w x hx => ?_⟩
      have start := new.warps w x hx
      exact ⟨start.num, start.frontier, start.s0, start.s1⟩

end Sys2Proof.Machine
end

section
/-! SUPPORT. The commands but LAUNCH once their packets are accepted (R23, R25, R26, R273, R408, R409): those that
complete as they are consumed, those that fail on their word, and those that run on. -/

namespace Sys2Proof.Machine

/- ### The record of a consumed command -/

/-- A command that completes at once leaves its queue as consuming the packet does, where nothing else runs. -/
theorem Queue.running_ended {q : Queue} (hf : q.flights = []) (p : PktHead) :
    { q.running p none with flights := (q.running p none).flights.filter fun x => x.idx != q.cmdidx } = q.consumed p := by
  simp [Queue.flightOf, Queue.consumed, hf]

/-- The same of a command that held its queue for no time. -/
theorem Queue.running_released {q : Queue} (hf : q.flights = []) (hh : q.holding = none) (p : PktHead) :
    { q.running p none with
      holding := none, flights := (q.running p none).flights.filter fun x => x.idx != q.cmdidx } = q.consumed p := by
  simp [Queue.flightOf, Queue.consumed, hf, hh]

section
variable {s : State} {q : Queue} {c : Ctx} {p : PktHead} {at_ h : Nat} {e : Ending}

/-- A command that completes as it is consumed (R25). -/
theorem State.consumeDone_completed (m : s.queueMem q c q.cmdidx at_ h []) (hfw : s.fw.state ≠ .switching)
    (hf : q.flights = []) :
    s.completed (s.consumeDone q p e) (q.consumed p) at_ [] (q.flightOf p none) e noGrid noStation := by
  have x := State.completed_of_record (r := q.running p none) (f := q.flightOf p none) (e := e) (grid := noGrid)
    (station := noStation) m hfw ⟨rfl, rfl, rfl, rfl, rfl, rfl⟩
  rwa [Queue.running_ended hf] at x

/-- A consumed command whose word cannot be accessed fails, and its queue stops (R36, R409). -/
theorem State.failWord_consumed {type : Nat} {a : DWord} (m : s.queueMem q c q.cmdidx at_ h []) (idle : s.idleQ q)
    (hc : s.consuming q = true) (hf : q.flights = []) (hsw : q.swapped = []) (hdef : s.fw.state ≠ .deferred) :
    s.stoppedQ ((s.consumePkt q p none).1.failWord q.key (q.flightOf p none) type a) (q.consumed p) at_ h
      (q.flightOf p none) (wordFault type a) 0x35 := by
  obtain ⟨hstate, -, hhold, hfw, -⟩ := State.consuming_iff.1 hc
  have x := State.stoppedQ_of_record (r := { q.running p none with holding := none }) (f := q.flightOf p none)
    (e := wordFault type a) (cls := 0x35) m ⟨rfl, rfl, rfl, rfl, rfl, rfl⟩ idle hstate hsw hfw hdef
  rw [Queue.running_released hf hhold] at x
  have fails := State.failWord_eq (q := q.running p none) (f := q.flightOf p none) (State.queue?_running m.queue p none) idle.2
    type a
  rw [State.setQueue_setQueue] at fails
  · exact fails ▸ x
  · rfl

/-- A consumed command that holds its queue (R25). -/
theorem State.withQueue_hold (hq : s.queue? q.key = some q) (x : Holding) :
    s.withQueue ((s.consumePkt q p none).1.hold q.key (q.flightOf p none) x)
      { q.running p none with holding := some (q.flightOf p none, x) } := by
  simp only [State.hold, State.consumePkt_eq, State.queue?_running hq]
  exact (State.withQueue_setQueue (r := q.running p none) hq).set rfl

end

/- ### Words (R24, R409) -/

theorem leNat_lt (bs : List Byte) : leNat bs < 256 ^ bs.length := by
  induction bs with
  | nil => simp [leNat]
  | cons b t ih =>
    have := b.isLt
    rw [leNat, List.length_cons, Nat.pow_succ]
    omega

theorem State.num_lt (s : State) (a n : Nat) : s.num a n < 256 ^ n := by
  simpa [State.num] using leNat_lt (s.dram.bytes a n)

/-- A word that translates steadily and is none of the pod window is read here. -/
theorem State.wordAt_here {s : State} {rs : List (Nat × Nat)} {c : Ctx} {a : DWord} {w : Nat}
    (hw : s.windowAddr c a.toNat 8 = false) (st : s.steadyOver rs c a.toNat 8 w) :
    s.wordAt c a = .here (BitVec.ofNat 64 (s.num w 8)) := by
  have read : s.readVa c a.toNat 8 = .ok (s.dram.bytes w 8) := st.readOn .core (off := 0) (by decide) (by decide)
  simp only [State.wordAt, hw, Bool.false_eq_true, if_false, read]
  rfl

/-- What SIGNAL leaves in a word, as a number (R23). -/
theorem toNat_signalOp (op m v : Nat) (hm : m < 2 ^ 64) :
    (signalOp op (BitVec.ofNat 64 m) (BitVec.ofNat 64 v)).toNat =
      if op = 0 then v % 2 ^ 64 else if op = 1 then (m + v % 2 ^ 64) % 2 ^ 64 else if op = 2 then max m (v % 2 ^ 64)
      else m ||| v % 2 ^ 64 := by
  have toNat_m : (BitVec.ofNat 64 m).toNat = m := by rw [BitVec.toNat_ofNat, Nat.mod_eq_of_lt hm]
  match op with
  | 0 => rfl
  | 1 => rw [if_neg (by decide), if_pos rfl, signalOp, BitVec.toNat_add, toNat_m, BitVec.toNat_ofNat]
  | 2 =>
    rw [if_neg (by decide), if_neg (by decide), if_pos rfl, signalOp, toNat_m, BitVec.toNat_ofNat]
    split
    · next h => rw [Nat.max_eq_right (by omega), BitVec.toNat_ofNat]
    · next h => rw [Nat.max_eq_left (by omega), toNat_m]
  | n + 3 =>
    rw [if_neg (by omega), if_neg (by omega), if_neg (by omega), signalOp, BitVec.toNat_or, toNat_m,
      BitVec.toNat_ofNat]
    all_goals omega

/-- The interrupts that a SIGNAL sends to its context. -/
def signalSends (ctx : Nat) (ui : Option (BitVec 6 × DWord)) : List Instr :=
  match ui with
  | some (v, p) => [.uisendReceive ⟨.own, some ctx, 0, v, p⟩]
  | none => []

theorem State.signalUi_eq (s : State) (ctx : Nat) (ui : Option (BitVec 6 × DWord)) :
    s.signalUi ctx ui = { s with agenda := s.agenda ++ signalSends ctx ui } := by
  cases ui with
  | none => simp [State.signalUi, signalSends]
  | some x => rfl

/- ### INVAL of code (R17, R92) -/

theorem smGet_eq_find {α : Type} (d : α) (l : List (Nat × α)) (k : Nat) :
    smGet d l k = ((l.find? fun e => e.1 == k).map Prod.snd).getD d := by
  induction l with
  | nil => rfl
  | cons e t ih =>
    by_cases h : e.1 = k
    · simp [smGet, h]
    · simp [smGet, h, ih]

/-- A map with every value replaced by its image, key by key. -/
theorem smGet_foldl_smSet {α : Type} [DecidableEq α] (d : α) (f : α → α) (k : Nat) (l : List (Nat × α))
    (hl : (l.map Prod.fst).Nodup) : ∀ m, smGet d (l.foldl (fun m e => smSet d m e.1 (f e.2)) m) k =
      ((l.find? fun e => e.1 == k).map fun e => f e.2).getD (smGet d m k) := by
  induction l with
  | nil => exact fun m => rfl
  | cons e t ih =>
    intro m
    obtain ⟨fresh, ht⟩ := List.nodup_cons.1 hl
    rw [List.foldl_cons, ih ht, smGet_set]
    by_cases h : e.1 = k
    · have absent : t.find? (fun e => e.1 == k) = none := by
        rw [List.find?_eq_none]
        intro x hx hk
        exact fresh (h ▸ beq_iff_eq.1 hk ▸ List.mem_map_of_mem hx)
      simp [h, absent]
    · simp [h, Ne.symm h]

/-- The lines of a context over a range are gone from every core, and nothing else of it is. -/
theorem State.core_invalCode {s : State} (hs : (s.cores.map fun e => e.1).Nodup) (c : Ctx) (a n k : Nat) :
    (s.invalCode c a n).core k = { s.core k with icache := (s.core k).icache.filter fun l =>
      !(l.ctx == c.num && decide (l.va < a + n) && decide (a < l.va + 128)) } := by
  have get := smGet_foldl_smSet Core.reset (fun x => { x with icache := x.icache.filter fun l =>
    !(l.ctx == c.num && decide (l.va < a + n) && decide (a < l.va + 128)) }) k s.cores hs s.cores
  refine get.trans ?_
  rw [State.core, smGet_eq_find]
  cases s.cores.find? fun e => e.1 == k with
  | none => rfl
  | some e => rfl

/- ### The commands that a BARRIER names (R408) -/

/-- The command named is the one of its sequence number within 2^31 of CMDIDX. -/
theorem qwaitIdx_eq_some {cmdidx : DWord} {seq m : Nat} (hs : seq < 2 ^ 32) : qwaitIdx cmdidx seq = some m ↔
    m % 2 ^ 32 = seq ∧ cmdidx.toNat ≤ m + 2 ^ 31 ∧ m < cmdidx.toNat + 2 ^ 31 := by
  unfold qwaitIdx
  extract_lets base c
  split
  · simp; omega
  · simp; omega

/- ### What each command does once its packet is accepted -/

section
variable {s : State} {q : Queue} {c : Ctx} {p : PktHead} {fs : List Field} {at_ h : Nat} {k : BitVec 8} {x : Nat}

/-- A SIGNAL whose word lies here is performed, and completes with its interrupt sent. -/
theorem signal_completed {w : Nat} (acc : s.accepts q c p fs 4 true) (m : s.queueMem q c q.cmdidx at_ h [(w, 8)])
    (hw : s.windowAddr c (BitVec.ofNat 64 (fieldNum fs 0x30 0)).toNat 8 = false)
    (st : s.steadyOver (queueRanges at_ h [(w, 8)]) c (BitVec.ofNat 64 (fieldNum fs 0x30 0)).toNat 8 w) :
    ∃ t, execSignal q.key s = .next t ∧
      ({ s with agenda := t.agenda } : State).completed t (q.consumed p) at_ [(w, 8)] (q.flightOf p none) doneEnding
        noGrid noStation ∧
      t.num w 8 = (signalOp (fieldNum fs 0x32 0) (BitVec.ofNat 64 (s.num w 8))
        (BitVec.ofNat 64 (fieldNum fs 0x31 0))).toNat ∧
      t.agenda = s.agenda ++ signalSends c.num ((fieldOf fs 0x33).map fun f =>
        (BitVec.ofNat 6 (bitsOf f.val 0 8), BitVec.ofNat 64 (bitsOf f.val 32 64))) := by
  obtain ⟨ui, hui⟩ : ∃ ui, ui = (fieldOf fs 0x33).map fun f =>
    (BitVec.ofNat 6 (bitsOf f.val 0 8), BitVec.ofNat 64 (bitsOf f.val 32 64)) := ⟨_, rfl⟩
  obtain ⟨v, hv⟩ : ∃ v, v = signalOp (fieldNum fs 0x32 0) (BitVec.ofNat 64 (s.num w 8))
    (BitVec.ofNat 64 (fieldNum fs 0x31 0)) := ⟨_, rfl⟩
  rw [← hui, ← hv]
  have hfl : q.flights = [] := acc.fence (.inr rfl)
  have kept : s.keepsWalks (s.setQueue (q.running p none)) (queueRanges at_ h [(w, 8)]) :=
    ⟨st.1, rfl, rfl, rfl, dramBut_refl _ _⟩
  have write : (s.setQueue (q.running p none)).writeVa c (BitVec.ofNat 64 (fieldNum fs 0x30 0)).toNat (leBytes 8 v.toNat) =
      .ok { s.setQueue (q.running p none) with dram := s.dram.setBytes w (leBytes 8 v.toNat) } :=
    (st.keep kept).writeOn .core (off := 0) (by rw [leBytes_length]; decide) (by rw [leBytes_length])
  have written : dramBut s { s with dram := s.dram.setBytes w (leBytes 8 v.toNat) } [(w, 8)] :=
    dramBut_setBytes s (r := (w, 8)) (by simp) (by simp) (by rw [leBytes_length])
  have sent : ({ s with agenda := s.agenda ++ signalSends c.num ui } : State).queueMem q c q.cmdidx at_ h [(w, 8)] :=
    m.keep ⟨m.entry.1, rfl, rfl, rfl, dramBut_refl _ _⟩ ⟨rfl, rfl, rfl, rfl, rfl, rfl⟩ m.queue m.ctx
  obtain ⟨x, stays⟩ := State.completed_of_write (r := q.running p none) (f := q.flightOf p none) (e := doneEnding)
    (grid := noGrid) (station := noStation) sent acc.notSwitching ⟨rfl, rfl, rfl, rfl, rfl, rfl⟩ written
  rw [Queue.running_ended hfl] at x
  refine ⟨_, ?_, ?_, ?_, congrArg State.agenda x.served⟩
  · refine (packetEvent_accepts acc).trans ?_
    simp only [State.wordAt_here hw st, State.consumePkt_eq, ← hui, ← hv, write, State.signalUi_eq]
    rfl
  · rw [congrArg State.agenda x.served]
    exact x
  · have read := Memory.bytes_setBytes (leBytes 8 v.toNat) s.dram w
    rw [leBytes_length] at read
    refine (congrArg leNat ((Memory.bytes_of_agree (stays (w, 8) (by simp))).trans read)).trans ?_
    rw [leNat_leBytes]
    exact Nat.mod_eq_of_lt v.isLt

/-- A SIGNAL whose word cannot be accessed fails. -/
theorem execSignal_bad (acc : s.accepts q c p fs 4 true)
    (hw : s.wordAt c (BitVec.ofNat 64 (fieldNum fs 0x30 0)) = .bad (.cause k x)) :
    execSignal q.key s = .next ((s.consumePkt q p none).1.failWord q.key (q.flightOf p none) 4
      (BitVec.ofNat 64 (fieldNum fs 0x30 0))) := by
  refine (packetEvent_accepts acc).trans ?_
  simp only [hw, State.consumePkt_eq]

/-- A target of a BRANCH that lies ahead of it (R26). -/
def aheadOf (p : PktHead) (t : Word) : Prop := 1 ≤ (t - p.seq).toNat ∧ (t - p.seq).toNat < 2 ^ 31

/-- Every target of a BRANCH lies ahead of it. -/
def targetsAhead (p : PktHead) (fs : List Field) : Prop :=
  aheadOf p (BitVec.ofNat 32 (fieldNum fs 0x42 0)) ∧
    ∀ f ∈ fs, f.tag = 0x41 → aheadOf p (BitVec.ofNat 32 (bitsOf f.val 32 32))

/-- Such a BRANCH is not rejected; where its word can be read here it selects its target, and where the word cannot be
accessed it fails. -/
theorem execBranch_ahead (acc : s.accepts q c p fs 5 true) (ha : targetsAhead p fs) :
    (∀ v, s.wordAt c (BitVec.ofNat 64 (fieldNum fs 0x40 0)) = .here v → execBranch q.key s =
      .next ((s.setQueue (q.running p none)).endBranch q.key (q.flightOf p none)
        (branchTarget (casesOf fs) (BitVec.ofNat 32 (fieldNum fs 0x42 0)) v))) ∧
    (s.wordAt c (BitVec.ofNat 64 (fieldNum fs 0x40 0)) = .bad (.cause k x) → execBranch q.key s =
      .next ((s.consumePkt q p none).1.failWord q.key (q.flightOf p none) 5 (BitVec.ofNat 64 (fieldNum fs 0x40 0)))) := by
  have legal : ∀ f ∈ fs, ¬ ((f.tag == 0x41 || f.tag == 0x42) &&
      !(decide (1 ≤ ((if f.tag = 0x42 then BitVec.ofNat 32 (fieldNum fs 0x42 0)
          else BitVec.ofNat 32 (bitsOf f.val 32 32)) - p.seq).toNat) &&
        decide (((if f.tag = 0x42 then BitVec.ofNat 32 (fieldNum fs 0x42 0)
          else BitVec.ofNat 32 (bitsOf f.val 32 32)) - p.seq).toNat < 2 ^ 31))) = true := by
    intro f hf
    obtain ⟨⟨d1, d2⟩, cases⟩ := ha
    by_cases h42 : f.tag = 0x42
    · rw [if_pos h42, decide_eq_true d1, decide_eq_true d2]
      simp
    · by_cases h41 : f.tag = 0x41
      · obtain ⟨t1, t2⟩ := cases f hf h41
        rw [if_neg h42, decide_eq_true t1, decide_eq_true t2]
        simp
      · simp [h41, h42]
  constructor
  · intro v hw
    refine (packetEvent_accepts acc).trans ?_
    dsimp only
    rw [List.find?_eq_none.2 legal]
    simp only [hw, State.consumePkt_eq]
  · intro hw
    refine (packetEvent_accepts acc).trans ?_
    dsimp only
    rw [List.find?_eq_none.2 legal]
    simp only [hw, State.consumePkt_eq]

/-- A BRANCH completes and leaves its target to be skipped to (R26). -/
theorem State.endBranch_completed (m : s.queueMem q c q.cmdidx at_ h []) (hc : s.consuming q = true)
    (hf : q.flights = []) (t : Word) :
    s.completed ((s.setQueue (q.running p none)).endBranch q.key (q.flightOf p none) t)
      { q.consumed p with skipTo := some t } at_ [] (q.flightOf p none) doneEnding noGrid noStation := by
  obtain ⟨-, -, hhold, hfw, -⟩ := State.consuming_iff.1 hc
  have ended := State.endHeld_eq (q := q.running p none) (f := q.flightOf p none) (e := doneEnding)
    (State.queue?_running m.queue p none)
  rw [State.setQueue_setQueue] at ended
  · have x := State.completed_of_record (r := { q.running p none with holding := none }) (f := q.flightOf p none)
      (e := doneEnding) (grid := noGrid) (station := noStation) m hfw ⟨rfl, rfl, rfl, rfl, rfl, rfl⟩
    rw [Queue.running_released hf hhold] at x
    rw [← ended] at x
    have found : ((s.setQueue (q.running p none)).endHeld q.key (q.flightOf p none) doneEnding).queue? q.key =
        some (q.consumed p) := x.queue.found
    simp only [State.endBranch, found]
    exact x.set rfl rfl rfl rfl
  · rfl

end

/-- INVAL of code drops the lines of the range and completes (R17, R92). -/
theorem inval_completed {s : State} {q : Queue} {c : Ctx} {p : PktHead} {at_ h : Nat} {e : Ending}
    (m : s.queueMem q c q.cmdidx at_ h []) (hfw : s.fw.state ≠ .switching) (hf : q.flights = [])
    (hkeys : (s.cores.map fun e => e.1).Nodup) (a n : Nat) :
    let t := (s.invalCode c a n).consumeDone q p e
    ({ s with cores := t.cores, acache := t.acache } : State).completed t (q.consumed p) at_ [] (q.flightOf p none) e
      noGrid noStation ∧
    ∀ k, { t.core k with icache := [] } = { s.core k with icache := [] } ∧
      ∀ l, l ∈ (t.core k).icache ↔ l ∈ (s.core k).icache ∧ ¬ (l.ctx = c.num ∧ l.va < a + n ∧ a < l.va + 128) := by
  intro t
  have dropped : (s.invalCode c a n).queueMem q c q.cmdidx at_ h [] :=
    m.keep ⟨m.entry.1, rfl, rfl, rfl, dramBut_refl _ _⟩ ⟨rfl, rfl, rfl, rfl, rfl, rfl⟩ m.queue m.ctx
  have x := State.consumeDone_completed (p := p) (e := e) dropped hfw hf
  have cores : t.cores = (s.invalCode c a n).cores := (congrArg State.cores x.served).trans rfl
  have acache : t.acache = (s.invalCode c a n).acache := (congrArg State.acache x.served).trans rfl
  refine ⟨?_, fun k => ?_⟩
  · rw [cores, acache]
    exact x
  · have core : t.core k = (s.invalCode c a n).core k := congrArg (smGet Core.reset · k) cores
    rw [core, State.core_invalCode hkeys]
    refine ⟨rfl, fun l => ?_⟩
    rw [List.mem_filter, Bool.not_eq_true', ← Bool.not_eq_true]
    simp only [Bool.and_eq_true, beq_iff_eq, decide_eq_true_eq, and_assoc]

section
variable {s : State} {q : Queue} {c : Ctx} {p : PktHead} {fs : List Field}

theorem execFlush_accepts (acc : s.accepts q c p fs 7 true) :
    execFlush q.key s = .next (s.consumeDone q p doneEnding) := packetEvent_accepts acc

theorem execMark_accepts (acc : s.accepts q c p fs 9 true) : execMark q.key s =
    .next (s.consumeDone q p { doneEnding with addr := BitVec.ofNat 64 (fieldNum fs 0x70 0) }) :=
  packetEvent_accepts acc

theorem execInval_accepts (acc : s.accepts q c p fs 8 true) : execInval q.key s =
    .next ((if fieldNum fs 0x61 0 = 1 then s.invalCode c (bitsOf (((fieldOf fs 0x60).map (·.val)).getD []) 0 64)
      (bitsOf (((fieldOf fs 0x60).map (·.val)).getD []) 64 64) else s).consumeDone q p doneEnding) :=
  packetEvent_accepts acc

theorem execWait_accepts (acc : s.accepts q c p fs 3 false) : execWait q.key s =
    .next ((s.consumePkt q p none).1.hold q.key (q.flightOf p none) (.wait (BitVec.ofNat 64 (fieldNum fs 0x20 0))
      (BitVec.ofNat 64 (fieldNum fs 0x21 0)) (condOf (fieldNum fs 0x22 0)) (BitVec.ofNat 32 (fieldNum fs 0x23 0)))) :=
  packetEvent_accepts acc

/-- The job of a COPY (R273). -/
def copyJobOf (q : Queue) (p : PktHead) (fs : List Field) : CopyJob :=
  ⟨q.cmdidx, p.seq, p.irq, (fieldOf fs 0x13).isSome,
    BitVec.ofNat 64 (if (fieldOf fs 0x13).isSome then fieldNum fs 0x13 0 else fieldNum fs 0x10 0),
    BitVec.ofNat 64 (fieldNum fs 0x11 0), fieldNum fs 0x12 0⟩

theorem execCopy_accepts (acc : s.accepts q c p fs 2 false) : execCopy q.key s =
    .next ((s.setQueue (q.running p none)).setQueue
      { q.running p none with copies := q.copies ++ [copyJobOf q p fs] }) := by
  refine (packetEvent_accepts acc).trans ?_
  simp only [State.consumePkt_eq, State.queue?_running acc.queue, copyJobOf]
  rfl

/-- The commands that a BARRIER of queue q names by its QWAIT fields (R408). -/
def State.barrierNames (s : State) (q : Queue) (fs : List Field) : List (Nat × DWord) :=
  (fs.filter fun f => f.tag == 0x50).filterMap fun f =>
    (s.queues.find? fun u => u.ctx == q.ctx && u.qnum == bitsOf f.val 0 32).bind fun u =>
      (qwaitIdx (if u.key = q.key then q.cmdidx + 1 else u.cmdidx) (bitsOf f.val 32 32)).map fun c =>
        (u.key, BitVec.ofNat 64 c)

theorem mem_barrierNames {s : State} {q : Queue} {fs : List Field} {n : Nat} {x : DWord} :
    (n, x) ∈ s.barrierNames q fs ↔
    ∃ f ∈ fs, f.tag = 0x50 ∧ ∃ u, n = u.key ∧
      s.queues.find? (fun u => u.ctx == q.ctx && u.qnum == bitsOf f.val 0 32) = some u ∧
      let base := (if u.key = q.key then q.cmdidx + 1 else u.cmdidx).toNat
      ∃ m, x = BitVec.ofNat 64 m ∧ m % 2 ^ 32 = bitsOf f.val 32 32 ∧ base ≤ m + 2 ^ 31 ∧ m < base + 2 ^ 31 := by
  have small (v : List Byte) : bitsOf v 32 32 < 2 ^ 32 := Nat.mod_lt _ (by decide)
  simp only [State.barrierNames, List.mem_filterMap, List.mem_filter, beq_iff_eq, Option.bind_eq_some_iff,
    Option.map_eq_some_iff,
    Prod.mk.injEq, qwaitIdx_eq_some (small _)]
  constructor
  · rintro ⟨f, ⟨hf, htag⟩, u, hu, m, hm, rfl, rfl⟩
    exact ⟨f, hf, htag, u, rfl, hu, m, rfl, hm⟩
  · rintro ⟨f, hf, htag, u, rfl, hu, m, rfl, hm⟩
    exact ⟨f, ⟨hf, htag⟩, u, hu, m, hm, rfl, rfl⟩

theorem execBarrier_accepts (acc : s.accepts q c p fs 6 false) : execBarrier q.key s =
    .next ((s.consumePkt q p none).1.hold q.key (q.flightOf p none) (.barrier (s.barrierNames q fs))) :=
  packetEvent_accepts acc

end

/- ### The statement -/

/-- Settles O43: each command is one use of what consuming its packet, its word and its end leave. -/
theorem commandPackets : Obligations.CommandPackets := by
  intro at_ h room stops forward branch
  refine ⟨?flush, ?mark, ?inval, ?invalCode, ?signal, ?branch, ?signalBad, ?branchBad, ?wait, ?copy, ?barrier⟩
  case flush =>
    rintro q c p fs s ⟨acc, m, idle⟩
    exact ⟨_, execFlush_accepts acc, State.consumeDone_completed m acc.notSwitching (acc.fence (.inr rfl))⟩
  case mark =>
    rintro q c p fs s ⟨acc, m, idle⟩
    exact ⟨_, execMark_accepts acc, State.consumeDone_completed m acc.notSwitching (acc.fence (.inr rfl))⟩
  case inval =>
    rintro q c p fs s ⟨acc, ⟨m, idle⟩, hhost⟩
    refine ⟨_, execInval_accepts acc, ?_⟩
    rw [if_neg hhost]
    exact State.consumeDone_completed m acc.notSwitching (acc.fence (.inr rfl))
  case invalCode =>
    rintro q c p fs s ⟨acc, ⟨m, idle⟩, hcode, hkeys⟩
    refine ⟨_, execInval_accepts acc, ?_⟩
    rw [if_pos hcode]
    exact inval_completed m acc.notSwitching (acc.fence (.inr rfl)) hkeys _ _
  case signal =>
    rintro m w q c p fs s ⟨acc, ⟨mem, idle⟩, hwin, st, rfl⟩
    obtain ⟨t, run, completed, value, sends⟩ := signal_completed acc mem hwin st
    refine ⟨t, run, completed, ?_, ?_⟩
    · rw [value]
      exact toNat_signalOp _ _ _ (s.num_lt w 8)
    · rw [sends]
      cases fieldOf fs 0x33 <;> rfl
  case branch =>
    rintro x q c p fs s ⟨acc, ⟨m, idle⟩, ahead, hw⟩
    exact ⟨_, (execBranch_ahead (k := 0) (x := 0) acc ahead).1 x hw,
      State.endBranch_completed m acc.consuming (acc.fence (.inr rfl)) _⟩
  case signalBad =>
    rintro k x q c p fs s ⟨acc, ⟨m, idle⟩, hsw, hdef, -, hw⟩
    exact ⟨_, execSignal_bad acc hw, State.failWord_consumed m idle acc.consuming (acc.fence (.inr rfl)) hsw hdef⟩
  case branchBad =>
    rintro k x q c p fs s ⟨acc, ⟨m, idle⟩, hsw, hdef, ahead, hw⟩
    exact ⟨_, (execBranch_ahead acc ahead).2 hw,
      State.failWord_consumed m idle acc.consuming (acc.fence (.inr rfl)) hsw hdef⟩
  case wait =>
    rintro q c p fs s ⟨acc, -⟩
    exact ⟨_, execWait_accepts acc, State.withQueue_hold acc.queue _⟩
  case copy =>
    rintro q c p fs s ⟨acc, -⟩
    refine ⟨_, execCopy_accepts acc, ?_⟩
    rw [copyJobOf, apply_ite (BitVec.ofNat 64)]
    exact (State.withQueue_setQueue (r := q.running p none) acc.queue).set rfl
  case barrier =>
    rintro q c p fs s ⟨acc, -⟩
    exact ⟨_, execBarrier_accepts acc, _, State.withQueue_hold acc.queue _, fun n x => mem_barrierNames⟩

end Sys2Proof.Machine
end

section
/-! SUPPORT. LAUNCH of an accepted image (R17, R19, R65, R89) and the completion of local grids (R34): a local grid
begun with or without arguments, a launch that the pool is too small for, a pod launch, and the end of a grid. -/

namespace Sys2Proof.Machine

/- ### The image (R17, R42) -/

/-- Reading an image changes the acceptance caches alone. -/
theorem State.readImage_ok {s u : State} {c : Ctx} {die entry : Nat} {a : DWord} {img : Image}
    (h : s.readImage c die entry a = .ok u img) : ∃ x, u = { s with acache := x } := by
  unfold State.readImage at h
  dsimp only at h
  repeat' split at h
  all_goals simp only [Accepted.ok.injEq, reduceCtorEq] at h
  all_goals exact ⟨_, h.1.symm⟩

/- ### What LAUNCH does with an accepted image -/

/-- The command that a LAUNCH of queue q ends with its grid. -/
abbrev Queue.launcher (q : Queue) (p : PktHead) : Owner := .cmd q.key q.cmdidx p.seq p.irq

section
variable {s u : State} {q : Queue} {c : Ctx} {p : PktHead} {fs : List Field} {img : Image}

theorem execLaunch_local {v : State} {id : Nat} (acc : s.accepts q c p fs 1 false)
    (hr : s.readImage c q.home (fieldNum fs 2 0) (BitVec.ofNat 64 (fieldNum fs 1 0)) = .ok u img)
    (h5 : fieldOf fs 5 = none) (hs : u.startLocal c img fs (some q.key) (q.launcher p) = .ok (v, id)) :
    execLaunch q.key s = .next (v.setQueue (q.running p (some id))) := by
  refine (packetEvent_accepts acc).trans ?_
  simp only [hr, h5, Option.isSome_none, Bool.false_eq_true, if_false, hs, State.consumePkt_eq]

theorem execLaunch_refused {e : Ending} (acc : s.accepts q c p fs 1 false)
    (hr : s.readImage c q.home (fieldNum fs 2 0) (BitVec.ofNat 64 (fieldNum fs 1 0)) = .ok u img)
    (h : if (fieldOf fs 5).isSome then u.submitPod c img fs (q.launcher p) = .error e ∧ e.status ≠ stAborted
      else u.startLocal c img fs (some q.key) (q.launcher p) = .error e) :
    execLaunch q.key s = .next (u.rejectPkt q p.irq e) := by
  refine (packetEvent_accepts acc).trans ?_
  split at h
  · next h5 =>
    simp only [hr, h5, if_true, h.1, if_neg h.2]
  · next h5 =>
    simp only [hr, if_neg h5, h]

theorem execLaunch_pod {v : State} (acc : s.accepts q c p fs 1 false)
    (hr : s.readImage c q.home (fieldNum fs 2 0) (BitVec.ofNat 64 (fieldNum fs 1 0)) = .ok u img)
    (h5 : fieldOf fs 5 ≠ none) (hs : u.submitPod c img fs (q.launcher p) = .ok v) :
    execLaunch q.key s = .next (v.setQueue (q.running p none)) := by
  have h5 : (fieldOf fs 5).isSome = true := Option.isSome_iff_ne_none.2 h5
  refine (packetEvent_accepts acc).trans ?_
  simp only [hr, h5, if_true, hs, State.consumePkt_eq]

end

/- ### Local grids (R19, R89) -/

/-- A rejected LAUNCH stops its queue; of the state only the acceptance caches have moved besides (R22, R36). -/
theorem State.readImage_reject_stoppedQ {s u : State} {q : Queue} {c : Ctx} {p : PktHead} {fs : List Field}
    {img : Image} {die entry a h : Nat} {d : DWord} {e : Ending} (hr : s.readImage c die entry d = .ok u img)
    (acc : s.accepts q c p fs 1 false) (m : s.queueMem q c q.cmdidx a h []) (idle : s.idleQ q) (hsw : q.swapped = [])
    (hdef : s.fw.state ≠ .deferred) :
    ({ s with acache := (u.rejectPkt q p.irq e).acache } : State).stoppedQ (u.rejectPkt q p.irq e) q a h
      ⟨q.cmdidx, q.cmdidx.setWidth 32, p.irq, none⟩ e e.cls := by
  obtain ⟨x, rfl⟩ := State.readImage_ok hr
  have room : ({ s with acache := x } : State).queueMem q c q.cmdidx a h [] :=
    m.keep ⟨m.entry.1, rfl, rfl, rfl, dramBut_refl _ _⟩ ⟨rfl, rfl, rfl, rfl, rfl, rfl⟩ m.queue m.ctx
  have stopped := State.rejectPkt_stoppedQ p.irq e room idle acc.consuming hsw hdef
  obtain ⟨r, left, -⟩ := stopped.queue
  have cache : (({ s with acache := x } : State).rejectPkt q p.irq e).acache = x := (congrArg State.acache left.1).trans rfl
  rw [cache]
  exact stopped

/-- The bytes of a LAUNCH's arguments. -/
abbrev launchArgs (fs : List Field) : List Byte := ((fieldOf fs 4).map fun f => f.val).getD []

/-- The local grid that a LAUNCH begins. -/
def Queue.newLocal (q : Queue) (c : Ctx) (p : PktHead) (fs : List Field) (img : Image) (n phys va : Nat) : Grid :=
  { newGrid c img fs phys va with id := localGrid n, queue := some q.key, owner := q.launcher p }

section
variable {s : State} {q : Queue} {c : Ctx} {p : PktHead} {fs : List Field} {img : Image}

/-- Without arguments a local grid begins where the pool has room for a block. -/
theorem State.startLocal_plain (hp : img.desc.area ≤ c.poolSize) (ha : launchArgs fs = []) :
    s.startLocal c img fs (some q.key) (q.launcher p) =
      .ok ({ s with fresh := s.fresh + 1, grids := s.grids ++ [q.newLocal c p fs img s.fresh 0 0] },
        localGrid s.fresh) := by
  have copy : s.argCopy c (launchArgs fs) = some (s, 0, 0) := by rw [State.argCopy, ha]; rfl
  simp only [State.startLocal, if_neg (Nat.not_lt.2 hp), copy]
  rfl

/-- With arguments it begins with their copy in the pool. -/
theorem State.startLocal_args {a va : Nat} {c' : Ctx} (hp : img.desc.area ≤ c.poolSize) (ha : launchArgs fs ≠ [])
    (hva : s.argPlace c (launchArgs fs).length = some va) (hal : c.alloc (launchArgs fs).length 64 = some (a, c')) :
    ∃ ps, s.startLocal c img fs (some q.key) (q.launcher p) =
      .ok ({ s.setCtx c' with
        dram := s.dram.setBytes a (launchArgs fs), poison := ps, fresh := s.fresh + 1
        grids := s.grids ++ [q.newLocal c p fs img s.fresh a va] }, localGrid s.fresh) := by
  obtain ⟨ps, put⟩ := (s.setCtx c').putDram_eq a (launchArgs fs)
  have copy : s.argCopy c (launchArgs fs) = some ((s.setCtx c').putDram a (launchArgs fs), a, va) := by
    rw [State.argCopy, if_neg (by simpa using ha), hva]
    dsimp only
    rw [hal]
    rfl
  refine ⟨ps, ?_⟩
  simp only [State.startLocal, if_neg (Nat.not_lt.2 hp), copy, put]
  rfl

theorem State.startLocal_small (hp : c.poolSize < img.desc.area) (queue : Option Nat) (owner : Owner) :
    s.startLocal c img fs queue owner = .error (poolEnding c img.desc.area) := if_pos hp

/-- An argument copy lies in the argument range, off the live copies of the context's grids (R19, R210). -/
theorem State.argPlace_legal {n va : Nat} (h : s.argPlace c n = some va) :
    va % 64 = 0 ∧ 0x7f4000000000 ≤ va ∧ va + n ≤ 0x7f4100000000 ∧ ∀ x ∈ s.grids, x.ctx = c.num → 0 < x.argLen →
      va + n ≤ x.args.toNat ∨ x.args.toNat + x.argLen ≤ va := by
  unfold State.argPlace at h
  extract_lets live at h
  have found := List.find?_some h
  simp only [Bool.and_eq_true, decide_eq_true_eq, List.all_eq_true] at found
  obtain ⟨⟨h1, h2, h3⟩, off⟩ := found
  refine ⟨h1, h2, h3, fun x hx hc hl => ?_⟩
  exact off (x.args.toNat, x.argLen) (List.mem_map_of_mem (List.mem_filter.2 ⟨hx, by simp [hc, hl]⟩))

/- ### Pod launches (R65) -/

/-- The lowest handle that is free is below 2^16 and not in use, where one is. -/
theorem State.freeHandle_free (h : ∃ n, n < 65536 ∧ ∀ l ∈ s.podCmds, l.handle ≠ n) :
    s.freeHandle < 65536 ∧ ∀ l ∈ s.podCmds, l.handle ≠ s.freeHandle := by
  obtain ⟨n, hn, hfree⟩ := h
  unfold State.freeHandle
  cases found : (List.range 65536).find? fun h => !s.podCmds.any fun p => p.handle == h with
  | none =>
    obtain ⟨l, hl, hln⟩ : ∃ l ∈ s.podCmds, l.handle = n := by
      simpa using List.find?_eq_none.1 found n (List.mem_range.2 hn)
    exact absurd hln (hfree l hl)
  | some k =>
    refine ⟨List.mem_range.1 (List.mem_of_find?_eq_some found), ?_⟩
    simpa using List.find?_some found

theorem State.submitPod_small {x : BitVec 16} (hrole : s.trav.role ≠ .none) (hfence : s.trav.role ≠ .fenced)
    (hx : c.pctx = some x) (hp : c.poolSize < img.desc.area) (owner : Owner) :
    s.submitPod c img fs owner = .error (poolEnding c img.desc.area) := by
  have inPod : s.inPod = true := by simpa [State.inPod] using hrole
  have member : ¬ (s.trav.role == .fenced) = true := by simpa using hfence
  simp only [State.submitPod, inPod, hx, if_neg member, if_pos hp]

/-- A pool too small for a block refuses either launch (R89). -/
theorem State.launch_small (hcase : fieldOf fs 5 = none ∨
    (s.trav.role ≠ .none ∧ s.trav.role ≠ .fenced ∧ c.pctx.isSome = true)) (hp : c.poolSize < img.desc.area)
    (queue : Option Nat) (owner : Owner) :
    if (fieldOf fs 5).isSome then s.submitPod c img fs owner = .error (poolEnding c img.desc.area) ∧
      (poolEnding c img.desc.area).status ≠ stAborted
    else s.startLocal c img fs queue owner = .error (poolEnding c img.desc.area) := by
  split
  · next h5 =>
    obtain ⟨hrole, hfence, hx⟩ := hcase.resolve_left (Option.isSome_iff_ne_none.1 h5)
    obtain ⟨x, hx⟩ := Option.isSome_iff_exists.1 hx
    exact ⟨State.submitPod_small hrole hfence hx hp owner, show stRejected ≠ stAborted by decide⟩
  · exact State.startLocal_small hp queue owner

/-- A pod launch has its record in the pool, its command noted, and its SUBMIT handed to the traverse. -/
theorem State.submitPod_ok {x : BitVec 16} {a : Nat} {c' : Ctx} (hrole : s.trav.role ≠ .none)
    (hfence : s.trav.role ≠ .fenced) (hx : c.pctx = some x) (hp : img.desc.area ≤ c.poolSize)
    (hal : c.alloc 8192 8 = some (a, c')) (owner : Owner) :
    ∃ ps, s.submitPod c img fs owner = .ok { s.setCtx c' with
      dram := s.dram.setBytes a (launchRecord img fs), poison := ps
      podCmds := s.podCmds ++ [⟨s.freeHandle, c'.num, owner, none, noStation, a⟩]
      trav := { s.trav with pend := s.trav.pend ++ [⟨1, BitVec.ofNat 8 s.pkg, 0, 0,
        BitVec.ofNat 64 (x.toNat + fieldNum fs 5 0 % 2 ^ 9 * 2 ^ 16 + fieldNum fs 5 0 / 2 ^ 16 % 16 * 2 ^ 25 +
          s.freeHandle * 2 ^ 32), img.check, 0⟩] } } := by
  have inPod : s.inPod = true := by simpa [State.inPod] using hrole
  have member : ¬ (s.trav.role == .fenced) = true := by simpa using hfence
  obtain ⟨ps, put⟩ := (s.setCtx c').putDram_eq a (launchRecord img fs)
  refine ⟨ps, ?_⟩
  simp only [State.submitPod, inPod, hx, if_neg member, if_neg (Nat.not_lt.2 hp), hal, put]
  rfl

end

/- ### The end of a local grid (R34, R89) -/

section
variable {s : State} {n : Nat}

/-- Without blocks of the grid nothing is swept. -/
theorem State.sweep_none (h : ∀ b ∈ s.blocks, b.grid ≠ n) : s.sweep n = s := by
  have away : ∀ b ∈ s.blocks, (b.grid == n) = false := fun b hb => by simpa using h b hb
  have mine (f : Block → Bool) : s.blocks.filter (fun b => b.grid == n && f b) = [] :=
    List.filter_eq_nil_iff.2 fun b hb => by simp [away b hb]
  unfold State.sweep
  split
  · rfl
  · dsimp only
    simp only [Bool.and_assoc, mine, List.foldl_nil]
    have left (f : Block → Bool) : s.blocks.filter (fun b => !(b.grid == n && f b)) = s.blocks :=
      List.filter_eq_self.2 fun b hb => by simp [away b hb]
    rw [left]

theorem State.resetGrid_none (h : ∀ b ∈ s.blocks, b.grid ≠ n) : s.resetGrid n = s := by
  have mine : s.blocks.filter (fun b => b.grid == n) = [] :=
    List.filter_eq_nil_iff.2 fun b hb => by simpa using h b hb
  rw [State.resetGrid, mine]
  rfl

theorem State.leaveStopRun_stays {k : Nat} (h : ∀ q, s.queue? k = some q → q.state ≠ 6) : s.leaveStopRun k = s := by
  unfold State.leaveStopRun
  split
  · next q hq => exact if_neg fun hs => h q hq hs.1
  · rfl

/-- The pool of a grid's context with its argument copy given back. -/
def State.argsFreed (s : State) (g : Grid) : State := if g.argLen = 0 then s else s.poolFree g.ctx g.argPhys

/-- Giving back an allocation changes the contexts alone. -/
theorem State.poolFree_rest (s : State) (ctx a : Nat) : ∃ cs, s.poolFree ctx a = { s with ctxs := cs } := by
  unfold State.poolFree
  split
  · exact ⟨_, rfl⟩
  · exact ⟨s.ctxs, rfl⟩

theorem State.argsFreed_rest (s : State) (g : Grid) : ∃ cs, s.argsFreed g = { s with ctxs := cs } := by
  unfold State.argsFreed
  split
  · exact ⟨s.ctxs, rfl⟩
  · exact s.poolFree_rest _ _

/-- A grid without blocks and without a park list leaves with its argument copy. -/
theorem State.dropGrid_plain {g : Grid} (hg : s.grid? n = some g) (hb : ∀ b ∈ s.blocks, b.grid ≠ n) (hpark : g.park = 0)
    (hp : ∀ x ∈ s.parked, x.grid ≠ n) :
    s.dropGrid n = { s.argsFreed g with grids := s.grids.filter fun x => x.id != n } := by
  have kept : s.parked.filter (fun x => x.grid != n) = s.parked :=
    List.filter_eq_self.2 fun x hx => by simpa using hp x hx
  obtain ⟨cs, freed⟩ := s.argsFreed_rest g
  simp only [State.dropGrid, hg, State.resetGrid_none hb, hpark, if_true]
  rw [← State.argsFreed, freed]
  dsimp only
  rw [kept]

/-- What LAUNCH_COMPLETE makes of a local grid without blocks whose queue does not wait in STOPRUN. -/
theorem execLaunchComplete_local {g : Grid} (hg : s.grid? n = some g) (hpod : g.pod = false)
    (hq : ∀ k q, g.queue = some k → s.queue? k = some q → q.state ≠ 6) (hb : ∀ b ∈ s.blocks, b.grid ≠ n) :
    execLaunchComplete n s = .next (if s.writesOut n then s
      else (g.ending.map (s.endLocal g)).getD (if g.allPlaced then s.endLocal g doneEnding else s)) := by
  have ended : (s.blocks.all fun b => b.grid != n) = true := by simpa using hb
  cases hk : g.queue with
  | none =>
    simp only [execLaunchComplete, State.sweep_none hb, hg, hpod, hk, ended, Bool.false_eq_true, if_false,
      Bool.and_true]
    cases g.ending <;> rfl
  | some k =>
    simp only [execLaunchComplete, State.sweep_none hb, hg, hpod, hk, State.leaveStopRun_stays fun q => hq k q hk,
      ended, Bool.false_eq_true, if_false, Bool.and_true]
    cases g.ending <;> rfl

/-- A local grid that has an ending, or whose blocks have all been placed, completes. -/
theorem execLaunchComplete_ends {g : Grid} {e : Ending} (hg : s.grid? n = some g) (hpod : g.pod = false)
    (hq : ∀ k q, g.queue = some k → s.queue? k = some q → q.state ≠ 6) (hout : ∀ r ∈ s.fabricOut, r.grid ≠ some n)
    (hb : ∀ b ∈ s.blocks, b.grid ≠ n)
    (he : g.ending = some e ∨ (g.ending = none ∧ g.quartets ≤ g.nextQuartet ∧ e = doneEnding)) :
    execLaunchComplete n s = .next (s.endLocal g e) := by
  have writes : s.writesOut n = false := by
    rw [State.writesOut, List.any_eq_false]
    exact fun r hr => by simpa using hout r hr
  rw [execLaunchComplete_local hg hpod hq hb, writes, if_neg (by decide)]
  rcases he with he | ⟨he, hall, rfl⟩
  · rw [he]; rfl
  · rw [he, Option.map_none, Option.getD_none, Grid.allPlaced, if_pos (by simpa using hall)]

/-- A pod grid, a grid that still has quartets to place, and no grid stay as they are. -/
theorem execLaunchComplete_stays (hb : ∀ b ∈ s.blocks, b.grid ≠ n) (hq : ∀ q ∈ s.queues, q.state ≠ 6)
    (h : ∀ g, s.grid? n = some g → g.pod = true ∨ (g.ending = none ∧ g.nextQuartet < g.quartets)) :
    execLaunchComplete n s = .next s := by
  cases hg : s.grid? n with
  | none => simp only [execLaunchComplete, State.sweep_none hb, hg]
  | some g =>
    by_cases hpod : g.pod = true
    · simp only [execLaunchComplete, State.sweep_none hb, hg, hpod, if_true]
    · obtain ⟨he, hlt⟩ := (h g hg).resolve_left hpod
      have waits : ¬ g.allPlaced = true := by simpa [Grid.allPlaced] using hlt
      rw [execLaunchComplete_local hg (by simpa using hpod) (fun k q _ hf => hq q (List.mem_of_find?_eq_some hf)) hb, he,
        Option.map_none, Option.getD_none, if_neg waits, ite_self]

/-- A command of a queue that does not wait in STOPRUN completes, and its queue stays (R34, R36). -/
theorem State.completeCmd_leaveStopRun {q : Queue} {c : Ctx} {p h : Nat} {f : Flight} {e : Ending} {grid : Word}
    {station : DWord} (m : s.queueMem q c f.idx p h []) (hfw : s.fw.state ≠ .switching) (hstate : q.state ≠ 6) :
    s.completed ((s.completeCmd q.key f e grid station).leaveStopRun q.key)
      { q with flights := q.flights.filter fun x => x.idx != f.idx } p [] f e grid station := by
  have x := State.completeCmd_completed (s := s) (d := s.dram) (qs := s.queues) (e := e) (grid := grid)
    (station := station) m hfw (State.withQueue_refl m.queue) (dramBut_refl s _)
  have stays := State.leaveStopRun_stays (s := s.completeCmd q.key f e grid station) (k := q.key) fun r hr => by
    obtain rfl := Option.some.inj (x.queue.found.symm.trans hr)
    exact hstate
  rw [stays]
  exact x

/-- A grid of a command that has no block left completes with its ending (R34). -/
theorem State.endLocal_completed {g : Grid} {q : Queue} {c : Ctx} {idx : DWord} {seq : Word} {irq : Bool} {p h : Nat}
    {e : Ending} (hg : s.grid? n = some g) (howner : g.owner = .cmd q.key idx seq irq) (hstate : q.state ≠ 6)
    (hpark : g.park = 0) (hp : ∀ x ∈ s.parked, x.grid ≠ n) (hfw : s.fw.state ≠ .switching)
    (hb : ∀ b ∈ s.blocks, b.grid ≠ n) (m : (s.argsFreed g).queueMem q c idx p h []) :
    ({ s.argsFreed g with grids := s.grids.filter fun x => x.id != n } : State).completed (s.endLocal g e)
      { q with flights := q.flights.filter fun f => f.idx != idx } p [] ⟨idx, seq, irq, some n⟩ e (localId n)
      noStation := by
  obtain ⟨cs, freed⟩ := s.argsFreed_rest g
  have m' : ({ s.argsFreed g with grids := s.grids.filter fun x => x.id != n } : State).queueMem q c idx p h [] :=
    m.keep ⟨m.entry.1, rfl, rfl, rfl, dramBut_refl _ _⟩ ⟨rfl, rfl, rfl, rfl, rfl, rfl⟩ m.queue m.ctx
  have hfw' : (s.argsFreed g).fw.state ≠ .switching := by rw [freed]; exact hfw
  rw [State.endLocal, howner, grid?_id hg, State.dropGrid_plain hg hb hpark hp]
  exact State.completeCmd_leaveStopRun (f := ⟨idx, seq, irq, some n⟩) m' hfw' hstate

end

/- ### The statement -/

/-- Settles O42: LAUNCH is one use of what starting, refusing and submitting leave, and a grid's completion one use of
what its end leaves. -/
theorem launchCommands : Obligations.LaunchCommands := by
  refine ⟨?plain, ?arguments, ?small, ?pod, ?ends, ?stays⟩
  case plain =>
    rintro q c p fs img s ⟨acc, u, hr, h5, hpool, hargs⟩
    obtain ⟨x, rfl⟩ := State.readImage_ok hr
    refine ⟨_, execLaunch_local acc hr h5 (State.startLocal_plain hpool hargs), q.newLocal c p fs img s.fresh 0 0, ?_,
      rfl, State.withQueue_setQueue acc.queue⟩
    exact ⟨rfl, rfl, rfl, rfl, rfl, rfl, rfl, rfl, rfl, Nat.le_add_right _ _, rfl, rfl, rfl⟩
  case arguments =>
    rintro a va c' q c p fs img s ⟨acc, u, hr, h5, hpool, hargs, hva, hal, hnum⟩
    obtain ⟨x, rfl⟩ := State.readImage_ok hr
    obtain ⟨ps, begun⟩ := State.startLocal_args (s := { s with acache := x }) (q := q) (p := p) hpool hargs hva hal
    obtain ⟨line, low, high, off⟩ := State.argPlace_legal hva
    refine ⟨_, execLaunch_local acc hr h5 begun, q.newLocal c p fs img s.fresh a va,
      ⟨rfl, rfl, rfl, rfl, rfl, rfl, rfl, rfl, rfl, Nat.le_add_right _ _, rfl, rfl, rfl⟩,
      rfl, line, low, high, off, rfl, Memory.bytes_setBytes _ _ _,
      dramBut_setBytes s (List.mem_singleton.2 rfl) (Nat.le_refl _) (Nat.le_refl _), ?_⟩
    exact State.withQueue_setQueue acc.queue
  case small =>
    rintro a h q c p fs img s ⟨acc, u, hr, hcase, hpool, m, idle, hsw, hdef⟩
    have traverse : u.trav = s.trav := by
      obtain ⟨x, rfl⟩ := State.readImage_ok hr
      rfl
    rw [← traverse] at hcase
    exact ⟨_, execLaunch_refused acc hr (State.launch_small hcase hpool _ _),
      State.readImage_reject_stoppedQ hr acc m idle hsw hdef⟩
  case pod =>
    rintro a c' x q c p fs img s ⟨acc, u, hr, hpool, h5, hrole, hfence, hx, hal, hnum, hfree⟩
    obtain ⟨y, rfl⟩ := State.readImage_ok hr
    obtain ⟨ps, submitted⟩ := State.submitPod_ok (s := { s with acache := y }) (fs := fs) hrole hfence hx hpool hal
      (q.launcher p)
    rw [hnum] at submitted
    obtain ⟨low, free⟩ := State.freeHandle_free hfree
    refine ⟨_, execLaunch_pod acc hr h5 submitted, s.freeHandle, low, free, Memory.bytes_setBytes _ _ _,
      dramBut_setBytes s (List.mem_singleton.2 rfl) (Nat.le_refl _) (Nat.le_refl _), ?_⟩
    exact State.withQueue_setQueue acc.queue
  case ends =>
    rintro g q c n idx seq irq p h e s
      ⟨hg, hid, hpod, howner, hstate, hqueue, hpark, hparked, hout, hfw, hb, m, he⟩
    have queue : s.queue? q.key = some q := by
      obtain ⟨cs, freed⟩ := s.argsFreed_rest g
      exact (congrArg (State.queue? · q.key) freed).symm.trans m.queue
    refine ⟨_, execLaunchComplete_ends hg hpod (fun k r hk hf => ?_) hout hb he,
      State.endLocal_completed hg howner hstate hpark hparked hfw hb m⟩
    obtain rfl : q.key = k := Option.some.inj (hqueue.symm.trans hk)
    obtain rfl : q = r := Option.some.inj (queue.symm.trans hf)
    exact hstate
  case stays =>
    rintro n s ⟨hb, hq, h⟩
    exact ⟨s, execLaunchComplete_stays hb hq h, rfl⟩

end Sys2Proof.Machine
end

section
/-! SUPPORT. A queue's record and its header in bonded DRAM (R29, R40): what a record put and a header saved leave, where
the header translates steadily. -/

namespace Sys2Proof.Machine

/- ### Numbers in memory -/

/-- A number written reads back (R3). -/
theorem leNat_bytes_setBytes (m : Memory) (a : Nat) {n x : Nat} (hx : x < 256 ^ n) :
    leNat ((m.setBytes a (leBytes n x)).bytes a n) = x := by
  have back := Memory.bytes_setBytes (leBytes n x) m a
  rw [leBytes_length] at back
  rw [back, leNat_leBytes, Nat.mod_eq_of_lt hx]

/-- Bytes apart from those written stay. -/
theorem Memory.bytes_setBytes_out (m : Memory) {a n b : Nat} {l : List Byte} (h : a + n ≤ b ∨ b + l.length ≤ a) :
    (m.setBytes b l).bytes a n = m.bytes a n :=
  Memory.bytes_of_agree fun k _ => Memory.byte_setBytes_out l m b (a + k) (by omega)

theorem Memory.setBytes_append (l l' : List Byte) : ∀ (m : Memory) (a : Nat),
    m.setBytes a (l ++ l') = (m.setBytes a l).setBytes (a + l.length) l' := by
  induction l with
  | nil => exact fun m a => rfl
  | cons b t ih =>
    intro m a
    rw [List.cons_append, Memory.setBytes, ih, Memory.setBytes, List.length_cons, Nat.add_assoc, Nat.add_comm 1]

/- ### Where the header lies -/

/-- The header at address va of the context with number n, which is c, lies at h; no table of a walk lies there or in the
ranges listed (R29, R211). -/
def State.headerMem (s : State) (n : Nat) (va : DWord) (c : Ctx) (h : Nat) (rs : List (Nat × Nat)) : Prop :=
  s.ctx? n = some c ∧ s.steadyOver rs c va.toNat 128 h ∧ (h, 128) ∈ rs

section
variable {s t : State} {n h : Nat} {va : DWord} {c : Ctx} {rs : List (Nat × Nat)} {r : Queue}

theorem State.headerMem.keep (m : s.headerMem n va c h rs) (w : s.keepsWalks t rs) (hc : t.ctxs = s.ctxs) :
    t.headerMem n va c h rs := by
  obtain ⟨ctx, steady, own⟩ := m
  exact ⟨by rw [State.ctx?, hc]; exact ctx, steady.keep w, own⟩

/-- A change of neither memory nor contexts nor host pages. -/
theorem State.headerMem.same (m : s.headerMem n va c h rs) (hp : t.poison = s.poison) (hl : t.lpddr = s.lpddr)
    (ha : t.ats = s.ats) (hf : t.priFailed = s.priFailed) (hd : t.dram = s.dram) (hc : t.ctxs = s.ctxs) :
    t.headerMem n va c h rs :=
  m.keep ⟨hp.trans m.2.1.1, hl, ha, hf, fun a _ => by rw [hd]⟩ hc

/-- Bytes of the header written. -/
theorem State.headerMem.bytes (m : s.headerMem n va c h rs) (off : Nat) {bs : List Byte} (h1 : off + bs.length ≤ 128) :
    ({ s with dram := s.dram.setBytes (h + off) bs } : State).headerMem n va c h rs :=
  m.keep ⟨m.2.1.1, rfl, rfl, rfl, dramBut_setBytes s (r := (h, 128)) m.2.2 (by simp) (by simp; omega)⟩ rfl

theorem State.headerMem.writeVa (m : s.headerMem n va c h rs) (off : Nat) {bs : List Byte} (h0 : 0 < bs.length)
    (h1 : off + bs.length ≤ 128) :
    s.writeVa c (va.toNat + off) bs = .ok { s with dram := s.dram.setBytes (h + off) bs } :=
  m.2.1.writeOn .core h0 h1

theorem State.headerMem.hdrPut (m : s.headerMem r.ctx r.header c h rs) (off k v : Nat) (h0 : 0 < k) (h1 : off + k ≤ 128) :
    s.hdrPut r off k v = { s with dram := s.dram.setBytes (h + off) (leBytes k v) } := by
  simp only [State.hdrPut, m.1, m.writeVa off (bs := leBytes k v) (by rwa [leBytes_length]) (by rwa [leBytes_length])]

/- ### A record put (R29) -/

/-- t is s with the record r of a queue put: the queue replaced, and STATE, WAKELATCH and STOPCLASS in its header at h. -/
structure State.putAt (s t : State) (r : Queue) (h : Nat) : Prop where
  rest : t = { s.setQueue r with dram := t.dram }
  memory : dramBut s t [(h + 32, 1), (h + 80, 8), (h + 96, 1)]
  byte : r.state < 8 → t.num (h + 32) 1 = r.state + if r.uilatch then 8 else 0
  wake : t.num (h + 80) 8 = r.wakelatch.toNat
  cls : t.num (h + 96) 1 = r.stopclass.toNat

theorem State.headerMem.putQueue (m : s.headerMem r.ctx r.header c h rs) : s.putAt (s.putQueue r) r h := by
  have m0 : (s.setQueue r).headerMem r.ctx r.header c h rs := m.same rfl rfl rfl rfl rfl rfl
  have m1 := m0.bytes 32 (bs := leBytes 1 (r.state + if r.uilatch then 8 else 0)) (by rw [leBytes_length]; decide)
  have m2 := m1.bytes 80 (bs := leBytes 8 r.wakelatch.toNat) (by rw [leBytes_length]; decide)
  rw [State.putQueue, m0.hdrPut 32 1 _ (by decide) (by decide), m1.hdrPut 80 8 _ (by decide) (by decide),
    m2.hdrPut 96 1 _ (by decide) (by decide)]
  refine ⟨rfl, fun a ha => ?_, fun h8 => ?_, ?_, ?_⟩
  · simp only [List.mem_cons, List.not_mem_nil, or_false, forall_eq_or_imp, forall_eq] at ha
    obtain ⟨h32, h80, h96⟩ := ha
    exact (Memory.byte_setBytes_out _ _ _ _ (by rwa [leBytes_length])).trans
      ((Memory.byte_setBytes_out _ _ _ _ (by rwa [leBytes_length])).trans
        (Memory.byte_setBytes_out _ _ _ _ (by rwa [leBytes_length])))
  · simp (disch := rw [leBytes_length]; omega) only [State.num, Memory.bytes_setBytes_out]
    refine leNat_bytes_setBytes _ _ ?_
    split
    · omega
    · omega
  · refine (congrArg leNat (Memory.bytes_setBytes_out _ (by simp [leBytes_length]))).trans ?_
    exact leNat_bytes_setBytes _ _ r.wakelatch.isLt
  · exact leNat_bytes_setBytes _ _ r.stopclass.isLt

theorem State.putAt.state (x : s.putAt t r h) (h8 : r.state < 8) : t.num (h + 32) 1 % 8 = r.state := by
  rw [x.byte h8]
  split
  · omega
  · omega

theorem State.putAt.header (x : s.putAt t r h) : dramBut s t [(h, 128)] := fun a ha => by
  have out : a < h ∨ h + 128 ≤ a := ha (h, 128) (by simp)
  exact x.memory a (by simp; omega)

theorem State.putAt.withQueue {q : Queue} (x : s.putAt t r h) (hq : s.queue? r.key = some q) :
    ({ s with dram := t.dram } : State).withQueue t r := by
  rw [x.rest]
  exact ⟨rfl, State.queue?_setQueue hq⟩

theorem State.putAt.dies (x : s.putAt t r h) : t.dies = s.dies := by rw [x.rest]; rfl

theorem State.withQueue.dies {q : Queue} (x : s.withQueue t q) (ds : List (Nat × Die)) :
    ({ s with dies := ds } : State).withQueue { t with dies := ds } q :=
  ⟨congrArg (fun u : State => { u with dies := ds }) x.1, x.2⟩

/-- A record put where the queue has been replaced already. -/
theorem State.putAt.after {u : State} {q : Queue} {d : Memory} {ds : List (Nat × Die)} (y : t.putAt u r h)
    (x : ({ s with dram := d, dies := ds } : State).withQueue t q) (hk : r.key = q.key) :
    ({ s with dram := u.dram, dies := ds } : State).withQueue u r := by
  obtain ⟨hs, hq⟩ := x.set hk
  rw [y.rest]
  exact ⟨congrArg (fun v : State => { v with dram := u.dram }) hs, hq⟩

/-- The header stays where it is. -/
theorem State.headerMem.put {q : Queue} (m : s.headerMem n va c h rs) (x : s.putAt t q h) :
    t.headerMem n va c h rs := by
  refine m.keep ⟨?_, ?_, ?_, ?_, fun a ha => x.header a (by simpa using ha _ m.2.2)⟩ ?_
  · rw [x.rest]; exact m.2.1.1
  all_goals rw [x.rest]; rfl

/- ### A header saved (R29, R40) -/

/-- HEAD, CMDIDX, CQDONE, TAIL and SAVEPTR of r stand in the header at h. -/
def State.savedFields (t : State) (r : Queue) (h : Nat) : Prop :=
  t.num (h + 48) 8 = r.head.toNat ∧ t.num (h + 56) 8 = r.cmdidx.toNat ∧ t.num (h + 64) 8 = r.cqdone.toNat ∧
    t.num (h + 72) 8 = r.tail.toNat ∧ t.num (h + 88) 8 = r.saveptr.toNat

/-- t is s with those fields of r saved in the header at h. -/
structure State.savedAt (s t : State) (r : Queue) (h : Nat) : Prop where
  rest : t = { s with dram := t.dram }
  memory : dramBut s t [(h + 48, 32), (h + 88, 8)]
  fields : t.savedFields r h

theorem State.headerMem.saveHeader (m : s.headerMem r.ctx r.header c h rs) :
    ∃ t, s.saveHeader r = .ok t ∧ s.savedAt t r h := by
  have m1 := m.bytes 48 (bs := leBytes 8 r.head.toNat ++ leBytes 8 r.cmdidx.toNat ++ leBytes 8 r.cqdone.toNat ++
    leBytes 8 r.tail.toNat) (by simp [leBytes_length])
  refine ⟨{ s with dram := ((((s.dram.setBytes (h + 48) (leBytes 8 r.head.toNat)).setBytes (h + 56)
    (leBytes 8 r.cmdidx.toNat)).setBytes (h + 64) (leBytes 8 r.cqdone.toNat)).setBytes (h + 72)
    (leBytes 8 r.tail.toNat)).setBytes (h + 88) (leBytes 8 r.saveptr.toNat) }, ?_, rfl, fun a ha => ?_, ?_, ?_, ?_, ?_, ?_⟩
  · simp only [State.saveHeader, m.1]
    rw [m.writeVa 48 (by simp [leBytes_length]) (by simp [leBytes_length])]
    refine (m1.writeVa 88 (by simp [leBytes_length]) (by simp [leBytes_length])).trans ?_
    simp only [Memory.setBytes_append, List.length_append, leBytes_length, Nat.add_assoc, Nat.reduceAdd]
  · have h48 : a < h + 48 ∨ h + 80 ≤ a := ha (h + 48, 32) (by simp)
    have h88 : a < h + 88 ∨ h + 96 ≤ a := ha (h + 88, 8) (by simp)
    simp (disch := rw [leBytes_length]; omega) only [Memory.byte_setBytes_out]
  · simp (disch := rw [leBytes_length]; omega) only [State.num, Memory.bytes_setBytes_out]
    exact leNat_bytes_setBytes _ _ (n := 8) r.head.isLt
  · simp (disch := rw [leBytes_length]; omega) only [State.num, Memory.bytes_setBytes_out]
    exact leNat_bytes_setBytes _ _ (n := 8) r.cmdidx.isLt
  · simp (disch := rw [leBytes_length]; omega) only [State.num, Memory.bytes_setBytes_out]
    exact leNat_bytes_setBytes _ _ (n := 8) r.cqdone.isLt
  · simp (disch := rw [leBytes_length]; omega) only [State.num, Memory.bytes_setBytes_out]
    exact leNat_bytes_setBytes _ _ (n := 8) r.tail.isLt
  · exact leNat_bytes_setBytes _ _ r.saveptr.isLt

theorem State.savedAt.header (x : s.savedAt t r h) : dramBut s t [(h, 128)] := fun a ha => by
  have out : a < h ∨ h + 128 ≤ a := ha (h, 128) (by simp)
  exact x.memory a (by simp; omega)

theorem State.headerMem.save {q : Queue} (m : s.headerMem n va c h rs) (x : s.savedAt t q h) :
    t.headerMem n va c h rs := by
  refine m.keep ⟨?_, ?_, ?_, ?_, fun a ha => x.header a (by simpa using ha _ m.2.2)⟩ ?_
  · rw [x.rest]; exact m.2.1.1
  all_goals rw [x.rest]

/-- A record put afterwards leaves what has been saved. -/
theorem State.savedFields.keep {u : State} (x : t.savedFields r h)
    (y : dramBut t u [(h + 32, 1), (h + 80, 8), (h + 96, 1)]) : u.savedFields r h := by
  have kept (a : Nat) (ha : ∀ e ∈ [(h + 32, 1), (h + 80, 8), (h + 96, 1)], a + 8 ≤ e.1 ∨ e.1 + e.2 ≤ a) :
      u.num a 8 = t.num a 8 :=
    State.num_of_agree fun k hk => y (a + k) fun e he => by have := ha e he; omega
  obtain ⟨head, cmdidx, cqdone, tail, saveptr⟩ := x
  exact ⟨(kept (h + 48) (by simp)).trans head, (kept (h + 56) (by simp)).trans cmdidx,
    (kept (h + 64) (by simp)).trans cqdone, (kept (h + 72) (by simp)).trans tail, (kept (h + 88) (by simp)).trans saveptr⟩

end

end Sys2Proof.Machine
end

section
/-! SUPPORT. The wake port of a queue (R31, R32, R35, R39, R40, R44): what each range of a tail does, the entry of a tail
beyond range, what a firmware switch holds, and the statement. -/

namespace Sys2Proof.Machine

/- ### What a write and a log record leave alone -/

theorem writeMem_rest (s : State) (l : Loc) (v : Byte) :
    ∃ d lp hm, writeMem s l v = { s with dram := d, lpddr := lp, hostMem := hm } := by
  cases l with
  | mem t o =>
    match t with
    | 0 => exact ⟨_, s.lpddr, s.hostMem, rfl⟩
    | 1 => exact ⟨s.dram, _, s.hostMem, rfl⟩
    | _ + 2 => exact ⟨s.dram, s.lpddr, _, rfl⟩
  | sp _ => exact ⟨s.dram, s.lpddr, s.hostMem, rfl⟩
  | wake _ _ => exact ⟨s.dram, s.lpddr, s.hostMem, rfl⟩
  | win _ => exact ⟨s.dram, s.lpddr, s.hostMem, rfl⟩

theorem foldl_writeMem_rest (l : List (Loc × Byte)) : ∀ s : State,
    ∃ d lp hm, l.foldl (fun s p => writeMem s p.1 p.2) s = { s with dram := d, lpddr := lp, hostMem := hm } := by
  induction l with
  | nil => exact fun s => ⟨s.dram, s.lpddr, s.hostMem, rfl⟩
  | cons p t ih =>
    intro s
    obtain ⟨d, lp, hm, first⟩ := writeMem_rest s p.1 p.2
    obtain ⟨d', lp', hm', later⟩ := ih (writeMem s p.1 p.2)
    exact ⟨d', lp', hm', later.trans (by rw [first])⟩

/-- A write changes memory and poison alone. -/
theorem State.writeLocs_rest (s : State) (ls : List Loc) (bs : List Byte) :
    ∃ d lp hm ps, s.writeLocs ls bs = { s with dram := d, lpddr := lp, hostMem := hm, poison := ps } := by
  obtain ⟨d, lp, hm, written⟩ := foldl_writeMem_rest (ls.zip bs) s
  unfold State.writeLocs
  rw [written]
  dsimp only
  split
  · exact ⟨d, lp, hm, s.poison, rfl⟩
  · exact ⟨d, lp, hm, _, rfl⟩

theorem State.writeVa_rest {s t : State} {c : Ctx} {va : Nat} {bs : List Byte} (h : s.writeVa c va bs = .ok t) :
    ∃ d lp hm ps, t = { s with dram := d, lpddr := lp, hostMem := hm, poison := ps } := by
  unfold State.writeVa State.writeOn at h
  dsimp only at h
  split at h
  · cases h
  · cases h
    exact s.writeLocs_rest _ _

theorem State.setCtx_nums (s : State) (c : Ctx) : (s.setCtx c).ctxs.map (·.num) = s.ctxs.map (·.num) := by
  rw [State.setCtx, List.map_map]
  refine List.map_congr_left fun x _ => ?_
  by_cases hx : x.num = c.num
  · simp [hx]
  · simp [hx]

/-- A record of a context's log changes memory, that context's log and the counter of free values alone. -/
theorem State.logCtxRec_rest (s : State) (n : Nat) (r : LogRec) : ∃ d lp hm ps cs k,
    s.logCtxRec n r = { s with dram := d, lpddr := lp, hostMem := hm, poison := ps, ctxs := cs, free := k } ∧
      cs.map (·.num) = s.ctxs.map (·.num) := by
  unfold State.logCtxRec
  split
  · exact ⟨s.dram, s.lpddr, s.hostMem, s.poison, s.ctxs, s.free, rfl, rfl⟩
  · next c hc =>
    have held : ∃ d lp hm ps cs k, s.setCtx { c with log := { c.log with held := mergeRec r c.log.held } } =
        { s with dram := d, lpddr := lp, hostMem := hm, poison := ps, ctxs := cs, free := k } ∧
          cs.map (·.num) = s.ctxs.map (·.num) :=
      ⟨s.dram, s.lpddr, s.hostMem, s.poison, _, s.free, rfl, s.setCtx_nums _⟩
    dsimp only
    split
    · exact held
    · split
      · exact held
      · next s1 h1 =>
        split
        · exact held
        · next s2 h2 =>
          obtain ⟨d, lp, hm, ps, rfl⟩ := State.writeVa_rest h1
          obtain ⟨d', lp', hm', ps', rfl⟩ := State.writeVa_rest h2
          exact ⟨d', lp', hm', ps', _, _, rfl, State.setCtx_nums _ _⟩

/- ### The TAIL_RANGE entry (R35) -/

/-- The entry of a tail v beyond range is that of a rejected command at CMDIDX. -/
theorem State.rangeEntry_completed {s : State} {qs : List Queue} {q : Queue} {c : Ctx} {p h : Nat} (v : DWord)
    (m : (s.served s.dram qs s.funcs s.msix).queueMem q c q.cmdidx p h []) (hfw : s.fw.state ≠ .switching)
    (hq : s.withQueue (s.served s.dram qs s.funcs s.msix) q) :
    s.completed ((s.served s.dram qs s.funcs s.msix).rangeEntry q v) q p []
      ⟨q.cmdidx, q.cmdidx.setWidth 32, false, none⟩ ⟨stRejected, 0x30, 0, v⟩ noGrid noStation := by
  rw [State.rangeEntry, ← BitVec.setWidth_eq_extractLsb' (by decide)]
  exact State.putCqe_completed (d := s.dram) (grid := none)
    (e := ⟨q.cmdidx, q.cmdidx.setWidth 32, false, ⟨stRejected, 0x30, 0, v⟩, noGrid, noStation⟩) m hfw hq
    (dramBut_refl _ _)

/- ### What WTAIL does (R31, R32, R35) -/

section
variable {s : State} {q : Queue} {v : DWord}

theorem State.fwHeld_eq_false (h : s.fw.state ≠ .switching) : s.fwHeld = false := by simpa [State.fwHeld] using h

theorem State.fwHeld_eq_true (h : s.fw.state = .switching) : s.fwHeld = true := by simp [State.fwHeld, h]

theorem Queue.redirected_iff : q.redirected = true ↔ q.slot = none ∨ 2 < q.unmapStep := by
  simp [Queue.redirected]

theorem execWtail_beyond (hq : s.queue? q.key = some q) (hfw : s.fw.state ≠ .switching)
    (hv : q.head.toNat + 2 ^ q.ringLog2 < v.toNat) : exec (.wtail q.key v) s = .next (
      if q.state = 5 ∨ q.state = 6 ∨ q.toStopped then s.logCtx q.ctx kDenied 0x30 q.index v
      else if q.state = 3 then (s.rangeEntry q v).stopQueue q.key 0x30
      else if q.state = 2 then s.setQueue { q with rangeLatched := some v }
      else (s.setQueue { q with rangeLatched := some v }).stopQueue q.key 0x30) := by
  rw [show exec (.wtail q.key v) s = execWtail q.key v s from rfl]
  simp only [execWtail, hq, State.fwHeld_eq_false hfw, Bool.false_eq_true, if_false, hv, decide_true, if_true]

theorem execWtail_away (hq : s.queue? q.key = some q) (hfw : s.fw.state ≠ .switching)
    (hv : ¬ q.head.toNat + 2 ^ q.ringLog2 < v.toNat) (ha : q.slot = none ∨ 2 < q.unmapStep) :
    exec (.wtail q.key v) s = .next (if v.toNat ≤ Nat.max q.tail.toNat q.wakelatch.toNat then s
      else (s.putQueue { q with wakelatch := v }).examineQueue q.key) := by
  rw [show exec (.wtail q.key v) s = execWtail q.key v s from rfl]
  simp only [execWtail, hq, State.fwHeld_eq_false hfw, Bool.false_eq_true, if_false, hv, decide_false,
    Queue.redirected_iff.2 ha, if_true]

theorem execWtail_near (hq : s.queue? q.key = some q) (hfw : s.fw.state ≠ .switching)
    (hv : ¬ q.head.toNat + 2 ^ q.ringLog2 < v.toNat) (ha : ¬ (q.slot = none ∨ 2 < q.unmapStep)) :
    exec (.wtail q.key v) s = .next (if v.toNat ≤ q.tail.toNat then s else s.setQueue { q with tail := v }) := by
  have live : q.redirected = false := by rw [← Bool.not_eq_true, Queue.redirected_iff]; exact ha
  rw [show exec (.wtail q.key v) s = execWtail q.key v s from rfl]
  simp only [execWtail, hq, State.fwHeld_eq_false hfw, Bool.false_eq_true, if_false, hv, decide_false, live]

theorem execWcqdone_ready (hq : s.queue? q.key = some q) (hfw : s.fw.state ≠ .switching) :
    exec (.wcqdone q.key v) s = .next (if v.toNat ≤ q.cqdone.toNat then s else s.setQueue { q with cqdone := v }) := by
  rw [show exec (.wcqdone q.key v) s = execWcqdone q.key v s from rfl]
  simp only [execWcqdone, hq, State.fwHeld_eq_false hfw, Bool.false_eq_true, if_false]

/-- A queue that is not idle is not examined for readiness (R39). -/
theorem State.examineQueue_busy {k : Nat} (hq : s.queue? k = some q) (hs : q.state ≠ 0) : s.examineQueue k = s := by
  simp only [State.examineQueue, hq, hs, false_and, if_false]

/-- An idle queue that has become ready enters the ready order (R39). -/
theorem State.examineQueue_ready {k : Nat} (hq : s.queue? k = some q) (hs : q.state = 0) (hr : q.isReady = true) :
    s.examineQueue k = s.enterReady q := by
  simp only [State.examineQueue, hq, hs, hr, and_self, if_true]

/-- A queue that enters the ready order is last in that of its die (R38). -/
theorem State.joinReady_eq (s : State) (q : Queue) : ∃ ds, s.joinReady q = { s with dies := ds } ∧
    q.key ∈ (({ s with dies := ds } : State).die q.home).ready ∧
    ∀ d, d ≠ q.home → ({ s with dies := ds } : State).die d = s.die d := by
  refine ⟨_, rfl, ?_, fun d hd => ?_⟩
  · have own := congrArg Die.ready (State.die_setDie s q.home q.home { s.die q.home with
      ready := ((s.die q.home).ready.filter fun k => k != q.key) ++ [q.key]
      seeks := (s.die q.home).seeks.filter fun e => e.queue != q.key })
    rw [if_pos rfl] at own
    exact (congrArg (q.key ∈ ·) own).mpr (by simp)
  · exact (State.die_setDie s q.home d _).trans (if_neg hd)

end

/-- A queue without a slot stops at once (R36, R39). -/
theorem State.stopQueue_away {s : State} {q : Queue} {k : Nat} {cls : BitVec 8} (hq : s.queue? k = some q)
    (hs : q.state = 0 ∨ q.state = 1) : s.stopQueue k cls = s.putQueue { q with stopclass := cls, state := 5 } := by
  have h3 : q.state ≠ 3 := by omega
  have h4 : q.state ≠ 4 := by omega
  simp only [State.stopQueue, hq, h3, h4, hs, if_false, if_true]

/- ### What a firmware switch holds (R390) -/

theorem foldl_greater_ge (l : List DWord) : ∀ v : DWord,
    v.toNat ≤ (l.foldl (fun m u => if m.toNat < u.toNat then u else m) v).toNat ∧
      ∀ u ∈ l, u.toNat ≤ (l.foldl (fun m u => if m.toNat < u.toNat then u else m) v).toNat := by
  induction l with
  | nil => exact fun v => ⟨Nat.le_refl _, by simp⟩
  | cons a t ih =>
    intro v
    obtain ⟨least, rest⟩ := ih (if v.toNat < a.toNat then a else v)
    have both : v.toNat ≤ (if v.toNat < a.toNat then a else v).toNat ∧
        a.toNat ≤ (if v.toNat < a.toNat then a else v).toNat := by
      split
      · omega
      · omega
    refine ⟨Nat.le_trans both.1 least, fun u hu => ?_⟩
    rcases List.mem_cons.1 hu with rfl | hu
    · exact Nat.le_trans both.2 least
    · exact rest u hu

/-- The port holds a tail that is the greatest of the one written and of those it held for the queue. -/
theorem State.holdAtPort_wtail (s : State) (k : Nat) (v : DWord) : ∃ port x,
    s.holdAtPort (.wtail k v) = { s with fw := { s.fw with port := port } } ∧ .wtail k x ∈ port ∧
      v.toNat ≤ x.toNat ∧ ∀ y : DWord, .wtail k y ∈ s.fw.port → y.toNat ≤ x.toNat := by
  obtain ⟨above, greatest⟩ := foldl_greater_ge (s.fw.port.filterMap fun j => match j with
    | .wtail p u => if p = k then some u else none
    | _ => none) v
  refine ⟨_, _, rfl, List.mem_append_right _ (List.mem_singleton.2 rfl), above, fun y hy => ?_⟩
  exact greatest y (List.mem_filterMap.2 ⟨_, hy, by simp⟩)

/- ### The statement -/

/-- Settles O44: the range that a tail falls in decides, and each range is one replaced record, one record put or one
entry. -/
theorem wakePort : Obligations.WakePort := by
  intro q v
  refine ⟨?mapped, ?unchanged, ?latched, ?wakes, ?denied, ?stops, ?loading, ?away, ?entry, ?noEntry, ?held, ?cqdone⟩
  case mapped =>
    rintro s ⟨⟨hq, hfw⟩, hv, ha⟩
    refine ⟨_, execWtail_near hq hfw hv ha, ?_⟩
    split
    · exact State.withQueue_refl hq
    · exact State.withQueue_setQueue (r := { q with tail := v }) hq
  case unchanged =>
    rintro s ⟨⟨hq, hfw⟩, hv, ha, hle⟩
    exact ⟨_, execWtail_away hq hfw hv ha, if_pos hle⟩
  case latched =>
    rintro h s ⟨⟨hq, hfw⟩, hv, ha, hgt, hs, c, hc, st⟩
    have x := State.headerMem.putQueue (r := { q with wakelatch := v }) ⟨hc, st, List.mem_singleton.2 rfl⟩
    have found := (x.withQueue (q := q) hq).found
    refine ⟨_, execWtail_away hq hfw hv ha, ?_⟩
    rw [if_neg (Nat.not_le.2 hgt), State.examineQueue_busy found hs]
    exact ⟨x.header, x.wake, x.withQueue hq⟩
  case wakes =>
    rintro h s ⟨⟨hq, hfw⟩, hv, ha, hgt, hs, hhead, c, hc, st⟩
    have m : s.headerMem q.ctx q.header c h [(h, 128)] := ⟨hc, st, List.mem_singleton.2 rfl⟩
    have x := State.headerMem.putQueue (r := { q with wakelatch := v }) m
    have found := (x.withQueue (q := q) hq).found
    have ready : ({ q with wakelatch := v } : Queue).isReady = true := by
      have : q.head.toNat < Nat.max q.tail.toNat v.toNat := Nat.lt_of_lt_of_le hhead (Nat.le_max_right _ _)
      simp [Queue.isReady, this]
    obtain ⟨ds, joined, member, others⟩ :=
      (s.putQueue { q with wakelatch := v }).joinReady_eq { q with wakelatch := v }
    have m' := (m.put x).same (t := { s.putQueue { q with wakelatch := v } with dies := ds }) rfl rfl rfl rfl rfl rfl
    have y := State.headerMem.putQueue (r := { q with wakelatch := v, state := 1 }) m'
    refine ⟨_, execWtail_away hq hfw hv ha, ?_⟩
    rw [if_neg (Nat.not_le.2 hgt), State.examineQueue_ready found hs ready, State.enterReady, joined]
    refine ⟨x.header.trans y.header, y.wake, y.state (show 1 < 8 by decide), ?_, ?_, ?_⟩
    · rw [y.rest]; exact member
    · intro d hd
      rw [y.rest]
      exact (others d hd).trans (congrArg (smGet Die.reset · d) x.dies)
    · have dies := congrArg State.dies y.rest
      rw [dies]
      exact y.after ((x.withQueue hq).dies ds) rfl
  case denied =>
    rintro s ⟨⟨hq, hfw⟩, hv, hs⟩
    obtain ⟨d, lp, hm, ps, cs, k, logged, -⟩ := s.logCtxRec_rest q.ctx ⟨kDenied, 0x30, BitVec.ofNat 16 q.index, v, q.ctx, 1⟩
    refine ⟨_, execWtail_beyond hq hfw hv, ?_⟩
    rw [if_pos hs, State.logCtx, logged]
  case stops =>
    rintro c p h s ⟨m, hv, hs, idle, hto, hsw, hfw, hdef⟩
    have x := State.rangeEntry_completed (qs := s.queues) v m hfw (State.withQueue_refl m.queue)
    refine ⟨_, execWtail_beyond m.queue hfw hv, ?_⟩
    rw [if_neg (by simp [hs, hto]), if_pos hs]
    exact x.stopQueue (x.queueMem m ⟨rfl, rfl, rfl, rfl, rfl, rfl⟩) idle.1 hs hsw hfw hdef
  case loading =>
    rintro s ⟨⟨hq, hfw⟩, hv, hs, hto⟩
    refine ⟨_, execWtail_beyond hq hfw hv, ?_⟩
    rw [if_neg (by simp [hs, hto]), if_neg (by omega), if_pos hs]
    exact State.withQueue_setQueue (r := { q with rangeLatched := some v }) hq
  case away =>
    rintro h s ⟨⟨hq, hfw⟩, hv, hs, hto, c, hc, st⟩
    have m : (s.setQueue { q with rangeLatched := some v }).headerMem q.ctx q.header c h [(h, 128)] :=
      ⟨hc, st, List.mem_singleton.2 rfl⟩
    have latched := State.withQueue_setQueue (r := { q with rangeLatched := some v }) hq
    have x := State.headerMem.putQueue (r := { q with rangeLatched := some v, stopclass := 0x30, state := 5 }) m
    refine ⟨_, execWtail_beyond hq hfw hv, ?_⟩
    rw [if_neg (by simp [hto]; omega), if_neg (by omega), if_neg (by omega), State.stopQueue_away latched.found hs]
    exact ⟨x.header, x.state (show 5 < 8 by decide), x.cls, x.after latched rfl⟩
  case entry =>
    rintro c p h s ⟨m, hfw, hs, hr⟩
    have same : q.sameMem { q with rangeLatched := none } := ⟨rfl, rfl, rfl, rfl, rfl, rfl⟩
    refine ⟨_, ?_, State.rangeEntry_completed (qs := (s.setQueue { q with rangeLatched := none }).queues) v
      (m.setQueue same) hfw (State.withQueue_setQueue (r := { q with rangeLatched := none }) m.queue)⟩
    rw [show exec (.latchedTailRangeEntry q.key) s = execLatchedTailRangeEntry q.key s from rfl]
    simp only [execLatchedTailRangeEntry, m.queue, hr, if_neg hs]
    rfl
  case noEntry =>
    rintro s ⟨hq, h⟩
    refine ⟨s, ?_, rfl⟩
    rw [show exec (.latchedTailRangeEntry q.key) s = execLatchedTailRangeEntry q.key s from rfl]
    rcases h with hr | hs
    · simp only [execLatchedTailRangeEntry, hq, hr]
    · simp only [execLatchedTailRangeEntry, hq, if_pos hs]
      cases q.rangeLatched <;> rfl
  case held =>
    rintro s ⟨hq, hfw⟩
    obtain ⟨port, x, kept, member, above, greatest⟩ := s.holdAtPort_wtail q.key v
    refine ⟨{ s with fw := { s.fw with port := port } }, ?_, rfl, rfl, x, member, above, greatest⟩
    rw [show exec (.wtail q.key v) s = execWtail q.key v s from rfl]
    simp only [execWtail, hq, State.fwHeld_eq_true hfw, if_true, kept]
  case cqdone =>
    rintro s ⟨hq, hfw⟩
    refine ⟨_, execWcqdone_ready hq hfw, ?_⟩
    split
    · exact State.withQueue_refl hq
    · exact State.withQueue_setQueue (r := { q with cqdone := v }) hq

end Sys2Proof.Machine
end

section
/-! SUPPORT. The slot scheduler (R37 to R40, R44): the order of grants, the free slot, the victim, and what a slice
expiry, a grant, a search, a load and a save leave. -/

namespace Sys2Proof.Machine

/- ### The order of grants (R38) -/

/-- A fold that picks one of two at each step picks a member, and none of the list is above it. -/
theorem foldl_pick {α : Type} {g : Option α → α → Option α} {f : α → Nat} (h0 : ∀ a, g none a = some a)
    (h1 : ∀ p a, ∃ r, g (some p) a = some r ∧ (r = p ∨ r = a) ∧ f p ≤ f r ∧ f a ≤ f r) (l : List α) :
    ∀ (m : Option α) (q : α), l.foldl g m = some q →
      (q ∈ l ∨ m = some q) ∧ (∀ r ∈ l, f r ≤ f q) ∧ ∀ p, m = some p → f p ≤ f q := by
  induction l with
  | nil =>
    rintro m q h
    obtain rfl : m = some q := h
    exact ⟨.inr rfl, by simp, fun p hp => by cases hp; exact Nat.le_refl _⟩
  | cons a t ih =>
    intro m q h
    obtain ⟨member, above, top⟩ := ih (g m a) q h
    cases m with
    | none =>
      rw [h0] at member top
      have first := top a rfl
      refine ⟨.inl ?_, List.forall_mem_cons.2 ⟨first, above⟩, by simp⟩
      rcases member with hq | hq
      · exact List.mem_cons_of_mem _ hq
      · exact List.mem_cons.2 (.inl (Option.some.inj hq).symm)
    | some p =>
      obtain ⟨r, hr, one, hp, ha⟩ := h1 p a
      rw [hr] at member top
      have first := top r rfl
      refine ⟨?_, List.forall_mem_cons.2 ⟨Nat.le_trans ha first, above⟩, fun x hx => ?_⟩
      · rcases member with hq | hq
        · exact .inl (List.mem_cons_of_mem _ hq)
        · obtain rfl := Option.some.inj hq
          rcases one with rfl | rfl
          · exact .inr rfl
          · exact .inl (List.mem_cons_self ..)
      · cases hx
        exact Nat.le_trans hp first

/-- It picks one where it has one already. -/
theorem foldl_pick_some {α : Type} {g : Option α → α → Option α} (h1 : ∀ p a, ∃ r, g (some p) a = some r) (l : List α) :
    ∀ p, ∃ q, l.foldl g (some p) = some q := by
  induction l with
  | nil => exact fun p => ⟨p, rfl⟩
  | cons a t ih =>
    intro p
    obtain ⟨r, hr⟩ := h1 p a
    rw [List.foldl_cons, hr]
    exact ih r

section
variable {s : State}

/-- The foremost of a list has the highest priority in it. -/
theorem State.foremost_ge {l : List Queue} {q : Queue} (h : s.foremost l = some q) :
    ∀ r ∈ l, s.queuePrio r ≤ s.queuePrio q := by
  refine (foldl_pick (f := s.queuePrio) (fun a => rfl) (fun p a => ?_) l none q h).2.1
  by_cases hlt : s.queuePrio p < s.queuePrio a
  · exact ⟨a, if_pos hlt, .inr rfl, Nat.le_of_lt hlt, Nat.le_refl _⟩
  · exact ⟨p, if_neg hlt, .inl rfl, Nat.le_refl _, Nat.le_of_not_lt hlt⟩

theorem State.foremost_eq_none {l : List Queue} : s.foremost l = none ↔ l = [] := by
  refine ⟨fun h => ?_, fun h => by rw [h]; rfl⟩
  cases l with
  | nil => rfl
  | cons a t =>
    obtain ⟨q, hq⟩ := foldl_pick_some (g := fun m q => match m with
      | some p => if s.queuePrio p < s.queuePrio q then some q else m
      | none => some q) (fun p a => by dsimp only; split <;> exact ⟨_, rfl⟩) t a
    exact absurd (hq.symm.trans h) (by simp)

/-- A queue that competes is a candidate of its die, in the ready order or beside it. -/
theorem State.mem_candidates {die : Nat} {r : Queue} (hq : s.queue? r.key = some r) (hr : r ∈ s.queues)
    (home : r.home = die) (hc : s.competes r = true) : r ∈ s.candidates die := by
  unfold State.candidates
  extract_lets order rest
  refine List.mem_filter.2 ⟨List.mem_append.2 ?_, hc⟩
  by_cases listed : ∃ p ∈ order, p.key = r.key
  · left
    obtain ⟨p, hp, hk⟩ := listed
    obtain ⟨k, -, found⟩ := List.mem_filterMap.1 hp
    have key : p.key = k := find_key Queue.key s.queues k p found
    rw [← key, hk, hq] at found
    exact Option.some.inj found ▸ hp
  · right
    refine List.mem_filter.2 ⟨hr, ?_⟩
    simp only [home, beq_self_eq_true, Bool.true_and, Bool.not_eq_true', List.any_eq_false, beq_iff_eq]
    exact fun p hp hk => listed ⟨p, hp, hk⟩

/- ### Slots and victims (R38, R39) -/

theorem State.freeSlot_eq_some {die k : Nat} : s.freeSlot die = some k ↔ k < Config.slotsPerDie ∧
    (∀ q ∈ s.queues, ¬ (q.home = die ∧ q.slot = some k)) ∧
    ∀ j, j < k → ∃ q ∈ s.queues, q.home = die ∧ q.slot = some j := by
  rw [State.freeSlot, List.find?_range_eq_some]
  simp only [List.mem_range, Bool.not_eq_true', List.any_eq_false, Bool.not_not, List.any_eq_true, Bool.and_eq_true,
    beq_iff_eq]
  tauto

/-- A victim is a queue of the die. -/
theorem State.victim_home {die p : Nat} {q : Queue} (h : s.victim die p = some q) : q.home = die := by
  unfold State.victim at h
  extract_lets ms lowSlot idle below least same last at h
  have member (l : List Queue) (hl : lowSlot l = some q) : q ∈ l := by
    have picked := (foldl_pick (f := fun _ => 0) (fun a => rfl) (fun r a => ?_) l none q hl).1
    · rcases picked with hq | hq
      · exact hq
      · cases hq
    · dsimp only
      split
      · exact ⟨a, rfl, .inr rfl, Nat.le_refl _, Nat.le_refl _⟩
      · exact ⟨r, rfl, .inl rfl, Nat.le_refl _, Nat.le_refl _⟩
  have mapped : q ∈ ms := by
    simp only [Option.orElse_eq_or, Option.or_eq_some_iff] at h
    rcases h with h | ⟨-, h | ⟨-, h | ⟨-, h⟩⟩⟩
    · exact List.mem_of_mem_filter (member _ h)
    · exact List.mem_of_mem_filter (List.mem_of_mem_filter (member _ h))
    · exact List.mem_of_mem_filter (List.mem_of_mem_filter (member _ h))
    · exact List.mem_of_mem_filter (member _ h)
  obtain ⟨-, hq⟩ := List.mem_filter.1 mapped
  simp only [Bool.and_eq_true, beq_iff_eq] at hq
  exact hq.1.1

end

/- ### What the events do -/

section
variable {s : State} {q r : Queue} {die k : Nat}

/-- A slice whose queue has something to do ends, and the queues that found no victim look again (R37, R38). -/
theorem execSliceExpiry_counts (hq : s.queue? q.key = some q) (hslot : q.slot.isSome = true)
    (hfw : s.fw.state ≠ .switching) (hc : s.sliceCounts q = true) : exec (.sliceExpiry q.key) s = .next
      ((s.setDie q.home { s.die q.home with seeks := (s.die q.home).seeks.filter fun e => e.victim.isSome }).setQueue
        { q with sliceExpired := true }) := by
  rw [show exec (.sliceExpiry q.key) s = execSliceExpiry q.key s from rfl]
  simp only [execSliceExpiry, hq, hslot, State.fwHeld_eq_false hfw, hc, Bool.not_false, Bool.and_self, if_true]

theorem execSliceExpiry_still (hq : s.queue? q.key = some q)
    (h : q.slot = none ∨ s.fw.state = .switching ∨ s.sliceCounts q = false) :
    exec (.sliceExpiry q.key) s = .next s := by
  have still : ¬ (q.slot.isSome && !s.fwHeld && s.sliceCounts q) = true := by
    rcases h with h | h | h
    · simp [h]
    · simp [State.fwHeld_eq_true h]
    · simp [h]
  rw [show exec (.sliceExpiry q.key) s = execSliceExpiry q.key s from rfl]
  simp only [execSliceExpiry, hq, if_neg still]

/-- A packet accepted at HEAD, or a block with a lane that waits for nothing, makes the slice count (R37). -/
theorem State.sliceCounts_of (h : (∃ b ∈ s.localBlocks q.key, ∃ w ∈ b.warps, ∃ e ∈ w.frontier, e.park ≠ 3 ∧ e.park ≠ 4) ∨
    ∃ p fs, s.atHead q = .ok p fs) : s.sliceCounts q = true := by
  unfold State.sliceCounts
  rw [Bool.or_eq_true]
  rcases h with ⟨b, hb, w, hw, e, he, h3, h4⟩ | ⟨p, fs, h⟩
  · right
    simp only [List.any_eq_true, Bool.and_eq_true, bne_iff_ne]
    exact ⟨b, hb, w, hw, e, he, h3, h4⟩
  · left
    have free : q.holding = none :=
      (State.consuming_iff.1 (State.consuming_of_atHead fun u hu => by rw [h] at hu; cases hu)).2.2.1
    have same : ({ q with holding := none } : Queue) = q := by rw [← free]
    rw [same, h]

/-- Without packets, and with every lane in `waitv` or `uiwait`, it does not. -/
theorem State.sliceCounts_idle (hle : q.tail.toNat ≤ q.head.toNat)
    (h : ∀ b ∈ s.localBlocks q.key, ∀ w ∈ b.warps, ∀ e ∈ w.frontier, e.park = 3 ∨ e.park = 4) :
    s.sliceCounts q = false := by
  have waits : ∃ u, s.atHead { q with holding := none } = .waits u := by
    unfold State.atHead
    split
    · exact ⟨s, rfl⟩
    · exact ⟨s, by simp [hle]⟩
  obtain ⟨u, hu⟩ := waits
  unfold State.sliceCounts
  rw [hu, Bool.false_or]
  rw [List.any_eq_false]
  intro b hb
  simp only [List.any_eq_true, Bool.and_eq_true, bne_iff_ne]
  rintro ⟨w, hw, e, he, h3, h4⟩
  exact (h b hb w hw e he).elim h3 h4

theorem execSlotGrant_free (hfw : s.fw.state ≠ .switching) (hk : s.freeSlot die = some k)
    (hn : s.nextReady die = some q) : exec (.slotGrant die) s = .next (s.grantSlot die k q) := by
  rw [show exec (.slotGrant die) s = execSlotGrant die s from rfl]
  simp only [execSlotGrant, State.fwHeld_eq_false hfw, Bool.false_eq_true, if_false, hk, hn]

theorem execSlotGrant_seek (hfw : s.fw.state ≠ .switching) (hk : s.freeSlot die = none)
    (hn : s.nextSeeker die = some q) : exec (.slotGrant die) s = .next (s.seekSlot die q) := by
  rw [show exec (.slotGrant die) s = execSlotGrant die s from rfl]
  simp only [execSlotGrant, State.fwHeld_eq_false hfw, Bool.false_eq_true, if_false, hk, hn]

/-- Nothing is granted during a firmware switch, without candidates, or where each of them waits on. -/
theorem execSlotGrant_still (h : s.fw.state = .switching ∨ s.nextReady die = none ∨
    (s.freeSlot die = none ∧ ∀ r ∈ s.candidates die, s.seekWaits die r = true)) :
    exec (.slotGrant die) s = .next s := by
  rw [show exec (.slotGrant die) s = execSlotGrant die s from rfl]
  unfold execSlotGrant
  split
  · rfl
  · next hfw =>
    have noSeeker (hw : ∀ r ∈ s.candidates die, s.seekWaits die r = true) : s.nextSeeker die = none :=
      State.foremost_eq_none.2 (List.filter_eq_nil_iff.2 fun r hr => by simp [hw r hr])
    rcases h with h | h | ⟨hk, hw⟩
    · exact absurd (State.fwHeld_eq_true h) hfw
    · have none_ : s.candidates die = [] := State.foremost_eq_none.1 h
      rw [noSeeker (by simp [none_]), h]
      cases s.freeSlot die <;> rfl
    · rw [hk, noSeeker hw]

theorem execSlotLoaded_still (hq : s.queue? q.key = some q) (h : q.state ≠ 2 ∨ s.fw.state = .switching) :
    exec (.slotLoaded q.key) s = .next s := by
  have still : q.state ≠ 2 ∨ s.fwHeld = true := h.imp_right State.fwHeld_eq_true
  rw [show exec (.slotLoaded q.key) s = execSlotLoaded q.key s from rfl]
  simp only [execSlotLoaded, hq, if_pos still]

theorem execUnmapSave_still (hq : s.queue? q.key = some q) (h : q.unmapStep = 0 ∨ s.fw.state = .switching ∨
    s.localBlocks q.key ≠ [] ∨ s.queueBusy q = true) : exec (.unmapSave q.key) s = .next s := by
  have still : q.unmapStep = 0 ∨ s.fwHeld = true ∨ (!(s.localBlocks q.key).isEmpty) = true ∨ s.queueBusy q = true :=
    h.imp_right (.imp State.fwHeld_eq_true (.imp_left (by simp)))
  rw [show exec (.unmapSave q.key) s = execUnmapSave q.key s from rfl]
  simp only [execUnmapSave, hq, if_pos still]

/-- A queue that nothing holds back is saved; without swapped-out blocks and a waiting ABORT that is all (R40). -/
theorem execUnmapSave_acts (hq : s.queue? q.key = some q) (hfw : s.fw.state ≠ .switching) (hu : q.unmapStep ≠ 0)
    (hb : s.localBlocks q.key = []) (hbusy : s.queueBusy q = false) (hsw : q.swapped = []) (ha : q.abortDue = false) :
    exec (.unmapSave q.key) s = .next (s.unmapFinish { q with unmapStep := 0 } (q.toStopped || q.state == 5)) := by
  have acts : ¬ (q.unmapStep = 0 ∨ s.fwHeld = true ∨ (!(s.localBlocks q.key).isEmpty) = true ∨ s.queueBusy q = true) := by
    simp [hu, State.fwHeld_eq_false hfw, hb, hbusy]
  rw [show exec (.unmapSave q.key) s = execUnmapSave q.key s from rfl]
  simp only [execUnmapSave, hq, if_neg acts, hsw, ha, List.isEmpty_nil, if_true, Bool.false_eq_true, if_false]

end

end Sys2Proof.Machine
end

section
/-! SUPPORT. What a grant, a search, a load and a save leave of a queue, its header and its die (R37 to R40), and the
statement about slots. -/

namespace Sys2Proof.Machine

/- ### What a record put leaves alone -/

theorem State.hdrPut_rest (s : State) (q : Queue) (off n v : Nat) :
    ∃ d lp hm ps, s.hdrPut q off n v = { s with dram := d, lpddr := lp, hostMem := hm, poison := ps } := by
  unfold State.hdrPut
  split
  · exact ⟨s.dram, s.lpddr, s.hostMem, s.poison, rfl⟩
  · split
    · next h => exact State.writeVa_rest h
    · exact ⟨s.dram, s.lpddr, s.hostMem, s.poison, rfl⟩

/-- A record put changes memory and the queue alone. -/
theorem State.putQueue_rest (s : State) (q : Queue) :
    ∃ d lp hm ps, s.putQueue q = { s.setQueue q with dram := d, lpddr := lp, hostMem := hm, poison := ps } := by
  unfold State.putQueue
  dsimp only
  obtain ⟨d, lp, hm, ps, h1⟩ := (s.setQueue q).hdrPut_rest q 32 1 (q.state + if q.uilatch then 8 else 0)
  rw [h1]
  obtain ⟨d, lp, hm, ps, h2⟩ := State.hdrPut_rest { s.setQueue q with dram := d, lpddr := lp, hostMem := hm, poison := ps }
    q 80 8 q.wakelatch.toNat
  rw [h2]
  exact State.hdrPut_rest _ q 96 1 q.stopclass.toNat

theorem State.putQueue_fw (s : State) (q : Queue) : (s.putQueue q).fw = s.fw := by
  obtain ⟨d, lp, hm, ps, h⟩ := s.putQueue_rest q
  rw [h]; rfl

theorem State.releaseSlotOf_fw (s : State) (q : Queue) : (s.releaseSlotOf q).fw = s.fw := by
  unfold State.releaseSlotOf
  dsimp only
  split
  · rw [State.putQueue_fw]; split <;> rfl
  · split
    · rw [State.enterReady, State.putQueue_fw]; rfl
    · exact State.putQueue_fw _ _

/-- Without a deferred update nothing is examined again (R389). -/
theorem State.fwRecheck_calm {s : State} (h : s.fw.state ≠ .deferred) : s.fwRecheck = s := if_neg h

section
variable {s t u : State} {q r : Queue} {c : Ctx} {h : Nat} {rs : List (Nat × Nat)}

theorem State.localBlocks_congr (hb : t.blocks = s.blocks) (hg : t.grids = s.grids) (k : Nat) :
    t.localBlocks k = s.localBlocks k := by
  simp only [State.localBlocks, State.grid?, hb, hg]

theorem State.localLive_congr (hb : t.blocks = s.blocks) (hg : t.grids = s.grids) (k : Nat) :
    t.localLive k = s.localLive k := by
  simp only [State.localLive, State.localGrids, hb, hg]

theorem State.putAt.blocks (x : s.putAt t r h) : t.blocks = s.blocks := by rw [x.rest]; rfl

theorem State.putAt.grids (x : s.putAt t r h) : t.grids = s.grids := by rw [x.rest]; rfl

/- ### A queue in a new state -/

/-- t is s with queue r in its new state, in its header at h too, and the dies changed. -/
def State.becomes (s t : State) (r : Queue) (h : Nat) : Prop :=
  ({ s with dram := t.dram, dies := t.dies } : State).withQueue t r ∧ dramBut s t [(h, 128)] ∧
    t.num (h + 32) 1 % 8 = r.state

/-- A record put last. -/
theorem State.putAt.becomes {d : Memory} (y : t.putAt u r h)
    (x : ({ s with dram := d, dies := t.dies } : State).withQueue t q) (hk : r.key = q.key)
    (hd : dramBut s t [(h, 128)]) (h8 : r.state < 8) : s.becomes u r h :=
  ⟨by rw [y.dies]; exact y.after x hk, hd.trans y.header, y.state h8⟩

/-- A header saved leaves the queue's record. -/
theorem State.savedAt.withQueue (x : s.savedAt t r h) (hq : s.queue? q.key = some q) (ds : List (Nat × Die)) :
    ({ s with dram := t.dram, dies := ds } : State).withQueue { t with dies := ds } q := by
  rw [x.rest]
  exact ⟨rfl, (State.withQueue_refl hq).2⟩

/- ### Saving a queue (R40) -/

/-- The record of a queue that has been saved without swapped-out blocks. -/
abbrev Queue.saved (q : Queue) (stop : Bool) : Queue := { q with saveptr := 0, state := if stop then 5 else q.state }

/-- A queue without swapped-out blocks is saved and leaves its slot. -/
theorem State.headerMem.unmapFinish (m : s.headerMem q.ctx q.header c h rs) (hsw : q.swapped = [])
    (hdef : s.fw.state ≠ .deferred) (stop : Bool) : ∃ t, s.savedAt t (q.saved stop) h ∧
      s.unmapFinish q stop = t.releaseSlotOf (q.saved stop) := by
  obtain ⟨t, saved, x⟩ := State.headerMem.saveHeader (r := { q with saveptr := 0 }) m
  have area : s.saveArea q = some (s, { q with saveptr := 0 }) := if_pos (by rw [hsw]; rfl)
  refine ⟨t, ⟨x.rest, x.memory, x.fields⟩, ?_⟩
  simp only [State.unmapFinish, area, saved]
  refine State.fwRecheck_calm ?_
  rw [State.releaseSlotOf_fw, x.rest]
  exact hdef

theorem State.releaseSlotOf_stopped (s : State) (hst : q.state = 5) (hsw : q.swapped = []) :
    s.releaseSlotOf q = s.putQueue { q with slot := none, unmapStep := 0, toStopped := false } := by
  simp only [State.releaseSlotOf, hst, hsw, List.isEmpty_nil, if_true]

/-- Without swapped-out blocks a queue is ready with a packet below the greater of its tails, or an interrupt kept for it
(R38). -/
theorem Queue.isReady_iff (hsw : q.swapped = []) :
    q.isReady = true ↔ q.head.toNat < max q.tail.toNat q.wakelatch.toNat ∨ q.uilatch = true := by
  simp [Queue.isReady, hsw]

theorem State.releaseSlotOf_goes_on (s : State) (hst : q.state ≠ 5) : s.releaseSlotOf q =
    if q.isReady then s.enterReady { q with slot := none, unmapStep := 0, toStopped := false }
    else s.putQueue { q with slot := none, unmapStep := 0, toStopped := false, state := 0 } := by
  simp only [State.releaseSlotOf, hst, if_false]
  rfl

/-- A queue without a slot. -/
abbrev Queue.unslotted (q : Queue) (st : Nat) : Queue :=
  { q with slot := none, unmapStep := 0, toStopped := false, state := st }

/-- A queue saved and stopped leaves its slot for STOPPED (R39). -/
theorem State.savedAt.stops (x : s.savedAt t r h) (m : s.headerMem r.ctx r.header c h rs)
    (hq : s.queue? r.key = some q) (hst : r.state = 5) (hsw : r.swapped = []) :
    t.putAt (t.releaseSlotOf r) (r.unslotted 5) h ∧ s.becomes (t.releaseSlotOf r) (r.unslotted 5) h := by
  have key : q.key = r.key := find_key Queue.key s.queues r.key q hq
  have y := State.headerMem.putQueue (r := r.unslotted 5) (m.save x)
  have same : ({ r with slot := none, unmapStep := 0, toStopped := false } : Queue) = r.unslotted 5 := by rw [← hst]
  rw [State.releaseSlotOf_stopped t hst hsw, same]
  exact ⟨y, y.becomes (x.withQueue (key.symm ▸ hq) t.dies) key.symm x.header (show 5 < 8 by decide)⟩

/-- A queue saved and not stopped leaves its slot for READY or IDLE (R39). -/
theorem State.savedAt.goes_on (x : s.savedAt t r h) (m : s.headerMem r.ctx r.header c h rs)
    (hq : s.queue? r.key = some q) (hst : r.state ≠ 5) :
    s.becomes (t.releaseSlotOf r) (r.unslotted (if r.isReady then 1 else 0)) h ∧ (t.releaseSlotOf r).savedFields r h ∧
      (r.isReady = true → r.key ∈ ((t.releaseSlotOf r).die r.home).ready) := by
  have key : q.key = r.key := find_key Queue.key s.queues r.key q hq
  rw [State.releaseSlotOf_goes_on t hst]
  by_cases ready : r.isReady = true
  · rw [if_pos ready, if_pos ready]
    obtain ⟨ds, joined, member, -⟩ := t.joinReady_eq { r with slot := none, unmapStep := 0, toStopped := false }
    have m' := (m.save x).same (t := { t with dies := ds }) rfl rfl rfl rfl rfl rfl
    have y := State.headerMem.putQueue (r := r.unslotted 1) m'
    rw [State.enterReady, joined]
    refine ⟨y.becomes (x.withQueue (key.symm ▸ hq) ds) key.symm x.header (show 1 < 8 by decide),
      x.fields.keep y.memory, fun _ => ?_⟩
    rw [y.rest]
    exact member
  · rw [if_neg ready, if_neg ready]
    have y := State.headerMem.putQueue (r := r.unslotted 0) (m.save x)
    exact ⟨y.becomes (x.withQueue (key.symm ▸ hq) t.dies) key.symm x.header (show 0 < 8 by decide),
      x.fields.keep y.memory, fun hr => absurd hr ready⟩

end

end Sys2Proof.Machine
end

section
/-! SUPPORT. Grants, searches and loads of slots (R37 to R39), and the statement about the slot scheduler. -/

namespace Sys2Proof.Machine

section
variable {s : State} {q r : Queue} {c : Ctx} {h die k : Nat} {rs : List (Nat × Nat)}

/- ### Grants and searches (R38) -/

/-- Queue q once slot k has been granted to it. -/
abbrev Queue.granted (q : Queue) (k : Nat) : Queue := { q with
  slot := some k, sliceExpired := false, wakelatch := 0, uilatch := false
  tail := if q.tail.toNat < q.wakelatch.toNat then q.wakelatch else q.tail
  state := if q.state = 5 then 6 else 2 }

/-- A die on which a slot has been granted to queue n. -/
abbrev Die.granted (d : Die) (n : Nat) : Die := { d with
  ready := d.ready.filter fun j => j != n
  seeks := d.seeks.filter fun e => e.queue != n && e.victim.isSome }

/-- A slot granted to a queue without a saved image: the queue and its die change, and WAKELATCH is clear. -/
theorem State.grantSlot_becomes (m : s.headerMem q.ctx q.header c h rs) (hq : s.queue? q.key = some q)
    (hsave : q.saveptr = 0) (hdef : s.fw.state ≠ .deferred) :
    s.becomes (s.grantSlot die k q) (q.granted k) h ∧ (s.grantSlot die k q).num (h + 80) 8 = 0 ∧
      ∀ d, (s.grantSlot die k q).die d = if d = die then (s.die die).granted q.key else s.die d := by
  have y := State.headerMem.putQueue (s := s.setDie die ((s.die die).granted q.key)) (r := q.granted k)
    (m.same rfl rfl rfl rfl rfl rfl)
  have eq : s.grantSlot die k q = (s.setDie die ((s.die die).granted q.key)).putQueue (q.granted k) := by
    have same : ({ q.granted k with saveptr := 0 } : Queue) = q.granted k :=
      congrArg (fun v => ({ q.granted k with saveptr := v } : Queue)) hsave.symm
    simp only [State.grantSlot, hsave, if_true]
    exact (State.fwRecheck_calm (by rw [State.putQueue_fw]; exact hdef)).trans (congrArg _ same)
  have h8 : (q.granted k).state < 8 := by dsimp only; split <;> decide
  rw [eq]
  refine ⟨y.becomes (d := s.dram) ((State.withQueue_refl hq).dies _) rfl (dramBut_refl _ _) h8, y.wake, fun d => ?_⟩
  exact (congrArg (smGet Die.reset · d) y.dies).trans (State.die_setDie s die d _)

/-- What queue r of die found when it looked for a slot. -/
abbrev Die.sought (d : Die) (e : Seek) : Die :=
  { d with seeks := (d.seeks.filter fun x => x.queue != e.queue) ++ [e] }

/-- A queue that finds no victim waits (R38; log entry 57). -/
theorem State.seekSlot_waits (hv : s.victim die (s.queuePrio r) = none) :
    s.seekSlot die r = s.setDie die ((s.die die).sought ⟨r.key, s.queuePrio r, none⟩) := by
  simp only [State.seekSlot, hv]
  rfl

/-- The victim q of a search begins to unmap, where it has no blocks on cores (R38, R40). -/
theorem State.seekSlot_becomes (m : s.headerMem q.ctx q.header c h rs) (hq : s.queue? q.key = some q)
    (hv : s.victim die (s.queuePrio r) = some q) (hb : s.localBlocks q.key = []) :
    s.becomes (s.seekSlot die r) { q with state := 4, unmapStep := 2, toStopped := q.state == 6 } h ∧
      (s.seekSlot die r).die die = { (s.die die).sought ⟨r.key, s.queuePrio r, some q.key⟩ with
        lastVictim := q.slot.getD 0 } := by
  obtain rfl := State.victim_home hv
  obtain ⟨t, ht⟩ : ∃ t, t = s.setDie q.home ((s.die q.home).sought ⟨r.key, s.queuePrio r, some q.key⟩) := ⟨_, rfl⟩
  obtain ⟨ds, hds⟩ : ∃ ds, t.setDie q.home { t.die q.home with lastVictim := q.slot.getD 0 } = { s with dies := ds } :=
    ⟨_, by rw [ht]; rfl⟩
  have y := State.headerMem.putQueue (s := { s with dies := ds })
    (r := { q with state := 4, unmapStep := 2, toStopped := q.state == 6 }) (m.same rfl rfl rfl rfl rfl rfl)
  have blocks := (State.localBlocks_congr y.blocks y.grids q.key).trans hb
  have eq : s.seekSlot q.home r = ({ s with dies := ds } : State).putQueue
      { q with state := 4, unmapStep := 2, toStopped := q.state == 6 } := by
    simp only [State.seekSlot, hv, Option.map_some]
    rw [← ht, State.unmapStart, hds, blocks]
    rfl
  rw [eq]
  refine ⟨y.becomes (d := s.dram) ((State.withQueue_refl hq).dies ds) rfl (dramBut_refl _ _) (show 4 < 8 by decide), ?_⟩
  have home : t.die q.home = (s.die q.home).sought ⟨r.key, s.queuePrio r, some q.key⟩ := by
    rw [ht, State.die_setDie, if_pos rfl]
  refine (congrArg (smGet Die.reset · q.home) (y.dies.trans (congrArg State.dies hds).symm)).trans ?_
  exact (State.die_setDie t q.home q.home _).trans ((if_pos rfl).trans (by rw [home]))

/- ### Loads (R39) -/

section
variable (hq : s.queue? q.key = some q) (hs : q.state = 2) (hfw : s.fw.state ≠ .switching)
include hq hs hfw

/-- A queue with a class stops once it is mapped. -/
theorem execSlotLoaded_stopped (hcls : q.stopclass ≠ 0) : exec (.slotLoaded q.key) s =
    .next ((s.putQueue { q with state := 3 }).stopQueue q.key q.stopclass) := by
  have runs : ¬ (q.state ≠ 2 ∨ s.fwHeld = true) := by simp [hs, State.fwHeld_eq_false hfw]
  rw [show exec (.slotLoaded q.key) s = execSlotLoaded q.key s from rfl]
  simp only [execSlotLoaded, hq, if_neg runs, if_pos hcls]

/-- A tail beyond range that has come meanwhile has its entry, and stops the queue. -/
theorem execSlotLoaded_latched {v : DWord} (hcls : q.stopclass = 0) (hr : q.rangeLatched = some v) :
    exec (.slotLoaded q.key) s = .next ((((s.putQueue { q with state := 3 }).setQueue
      { q with state := 3, rangeLatched := none }).rangeEntry q v).stopQueue q.key 0x30) := by
  have runs : ¬ (q.state ≠ 2 ∨ s.fwHeld = true) := by simp [hs, State.fwHeld_eq_false hfw]
  rw [show exec (.slotLoaded q.key) s = execSlotLoaded q.key s from rfl]
  unfold execSlotLoaded
  rw [hq]
  dsimp only
  rw [if_neg runs, if_neg (by simp [hcls])]
  split
  · next x hx =>
    obtain rfl : x = v := Option.some.inj (hx.symm.trans hr)
    rfl
  · next hx => exact absurd (hx.symm.trans hr) (by simp)

/-- Otherwise a queue whose header can be read is mapped. -/
theorem execSlotLoaded_mapped (hcls : q.stopclass = 0) (hr : q.rangeLatched = none)
    (m : s.headerMem q.ctx q.header c h rs) :
    exec (.slotLoaded q.key) s = .next (s.putQueue { q with state := 3 }) := by
  have runs : ¬ (q.state ≠ 2 ∨ s.fwHeld = true) := by simp [hs, State.fwHeld_eq_false hfw]
  have m' := m.put (State.headerMem.putQueue (r := { q with state := 3 }) m)
  have read : (s.putQueue { q with state := 3 }).readVa c q.header.toNat 128 =
      .ok ((s.putQueue { q with state := 3 }).dram.bytes h 128) :=
    m'.2.1.readOn .core (off := 0) (by decide) (by decide)
  rw [show exec (.slotLoaded q.key) s = execSlotLoaded q.key s from rfl]
  unfold execSlotLoaded
  rw [hq]
  dsimp only
  rw [if_neg runs, if_neg (by simp [hcls])]
  split
  · next x hx => exact absurd (hx.symm.trans hr) (by simp)
  · rw [m'.1, Option.map_some, read]

end

/-- A mapped queue with a block of a local grid left stops in its slot (R36, R39). -/
theorem State.stopQueue_live {n : Nat} {cls : BitVec 8} (hq : s.queue? n = some q) (hs : q.state = 3)
    (hl : s.localLive n = true) : s.stopQueue n cls = s.putQueue { q with stopclass := cls, state := 6 } := by
  simp only [State.stopQueue, hq, hs, hl, if_true]

/-- What a stopped queue shows does not tell what else of its header was written before, nor its STATE then. -/
theorem State.stoppedQ.of_header {u : State} {d : Memory} {st p : Nat} {f : Flight} {e : Ending} {cls : BitVec 8}
    (x : ({ s with dram := d } : State).stoppedQ u { q with state := st } p h f e cls)
    (hd : dramBut s { s with dram := d } [(h, 128)]) : s.stoppedQ u q p h f e cls := by
  obtain ⟨⟨r, hr, rest⟩, entry, header, memory, vector⟩ := x
  obtain ⟨e1, e2, e3, e4, e5, e6, e7, e8, e9⟩ := entry
  exact {
    queue := ⟨r, ⟨congrArg (fun v : State => { v with dram := s.dram }) hr.1, hr.2⟩, rest⟩
    entry := ⟨e1, e2, e3, e4, e5, e6, e7, e8, e9⟩
    header := header
    memory := (hd.mono (by simp)).trans memory
    vector := vector }

/-- A queue whose slot is loaded with a tail beyond range has its entry then, and stops (R39, R44). -/
theorem State.loaded_stoppedQ {p : Nat} {v : DWord} (m : s.queueMem q c q.cmdidx p h []) (idle : s.idleQ q)
    (hsw : q.swapped = []) (hfw : s.fw.state ≠ .switching) (hdef : s.fw.state ≠ .deferred) :
    s.stoppedQ ((((s.putQueue { q with state := 3 }).setQueue { q with state := 3, rangeLatched := none }).rangeEntry
      q v).stopQueue q.key 0x30) { q with rangeLatched := none } p h ⟨q.cmdidx, q.cmdidx.setWidth 32, false, none⟩
      ⟨stRejected, 0x30, 0, v⟩ 0x30 := by
  obtain ⟨t, ht⟩ : ∃ t, t = s.putQueue { q with state := 3 } := ⟨_, rfl⟩
  have y : s.putAt t { q with state := 3 } h :=
    ht ▸ State.headerMem.putQueue (r := { q with state := 3 }) ⟨m.ctx, m.header, by simp⟩
  have m1 : ({ s with dram := t.dram } : State).queueMem q c q.cmdidx p h [] :=
    m.keep ⟨m.entry.1, rfl, rfl, rfl, y.header.mono (by simp)⟩ ⟨rfl, rfl, rfl, rfl, rfl, rfl⟩ m.queue m.ctx
  have same : q.sameMem { q with state := 3, rangeLatched := none } := ⟨rfl, rfl, rfl, rfl, rfl, rfl⟩
  have m2 := m1.setQueue same
  have x := State.rangeEntry_completed (s := { s with dram := t.dram }) v m2 hfw
    (State.withQueue_setQueue (r := { q with state := 3, rangeLatched := none }) m1.queue)
  have put : t.setQueue { q with state := 3, rangeLatched := none } =
      ({ s with dram := t.dram } : State).setQueue { q with state := 3, rangeLatched := none } := by
    rw [y.rest]
    exact congrArg (fun v : State => { v with dram := t.dram })
      (State.setQueue_setQueue (s := s) (q := { q with state := 3 }) (r := { q with state := 3, rangeLatched := none }) rfl)
  rw [← ht, put]
  exact (x.stopQueue (x.queueMem m1 ⟨rfl, rfl, rfl, rfl, rfl, rfl⟩) idle.1 rfl hsw hfw hdef).of_header y.header

end

/- ### The statement -/

/-- Settles O46: the order of grants is that of a running maximum, and each event is one or two records put, beside what
its die notes. -/
theorem slotScheduling : Obligations.SlotScheduling := by
  refine ⟨fun s die q r hn hq hr home hc => State.foremost_ge hn r (State.mem_candidates hq hr home hc),
    fun s die k => State.freeSlot_eq_some, fun q c h die => ⟨?expires, ?counts, ?nobody, ?grants, ?victim, ?waits, ?stays,
      ?loads, ?loadsStopped, ?loadsRange, ?notLoading, ?saves, ?notSaving⟩⟩
  case expires =>
    rintro s ⟨⟨hq, hfw⟩, hslot, hw⟩
    refine ⟨_, execSliceExpiry_counts hq hslot hfw (State.sliceCounts_of hw),
      (State.withQueue.dies (State.withQueue_refl hq) _).set (r := { q with sliceExpired := true }) rfl, fun d => ?_⟩
    refine (State.die_setDie s q.home d _).trans ?_
    split
    · next hd => rw [hd]
    · rfl
  case counts =>
    rintro s ⟨hq, h⟩
    refine ⟨s, execSliceExpiry_still hq ?_, rfl⟩
    exact h.imp_right (.imp_right fun ⟨hle, hp⟩ => State.sliceCounts_idle hle hp)
  case nobody =>
    exact fun s h => ⟨s, execSlotGrant_still (h.imp_right .inl), rfl⟩
  case grants =>
    rintro k s ⟨⟨hq, hfw⟩, ⟨hc, st⟩, hsave, hdef, hn, hk, -⟩
    obtain ⟨becomes, wake, dies⟩ := State.grantSlot_becomes (die := die) (k := k)
      ⟨hc, st, List.mem_singleton.2 rfl⟩ hq hsave hdef
    have own := (dies die).trans (if_pos rfl)
    refine ⟨_, execSlotGrant_free hfw hk hn, becomes, wake, ?_, congrArg Die.seeks own,
      fun d hd => (dies d).trans (if_neg hd)⟩
    rw [own]
    simp
  case victim =>
    rintro r s ⟨⟨hq, hfw⟩, ⟨hc, st⟩, hn, hk, hv, hb⟩
    obtain ⟨becomes, own⟩ := State.seekSlot_becomes ⟨hc, st, List.mem_singleton.2 rfl⟩ hq hv hb
    refine ⟨_, execSlotGrant_seek hfw hk hn, becomes, congrArg Die.lastVictim own, ?_⟩
    rw [own]
    exact List.mem_append_right _ (List.mem_singleton.2 rfl)
  case waits =>
    rintro r s ⟨hfw, hn, hk, hv⟩
    refine ⟨_, execSlotGrant_seek hfw hk hn, ?_⟩
    rw [State.seekSlot_waits hv]
    exact ⟨rfl, fun d hd => (State.die_setDie s die d _).trans (if_neg hd),
      (State.die_setDie s die die _).trans (if_pos rfl)⟩
  case stays =>
    rintro s ⟨hk, h⟩
    refine ⟨s, execSlotGrant_still (.inr (.inr ⟨hk, fun r hr => ?_⟩)), rfl⟩
    obtain ⟨e, he, hr, found⟩ := h r hr
    refine List.any_eq_true.2 ⟨e, he, ?_⟩
    rcases found with ⟨hv, hp⟩ | ⟨v, u, hv, hu, hs, hslot⟩
    · simp [hr, hv, hp]
    · simp [hr, hv, hu, hs, hslot]
  case loads =>
    rintro s ⟨⟨hq, hfw⟩, ⟨hc, st⟩, hs, hcls, hr⟩
    have m : s.headerMem q.ctx q.header c h [(h, 128)] := ⟨hc, st, List.mem_singleton.2 rfl⟩
    have y := State.headerMem.putQueue (r := { q with state := 3 }) m
    exact ⟨_, execSlotLoaded_mapped hq hs hfw hcls hr m, y.dies, y.becomes (d := s.dram) (State.withQueue_refl hq) rfl
      (dramBut_refl _ _) (show 3 < 8 by decide)⟩
  case loadsStopped =>
    rintro s ⟨⟨hq, hfw⟩, ⟨hc, st⟩, hs, hcls, hl⟩
    have m : s.headerMem q.ctx q.header c h [(h, 128)] := ⟨hc, st, List.mem_singleton.2 rfl⟩
    have y := State.headerMem.putQueue (r := { q with state := 3 }) m
    have z := State.headerMem.putQueue (r := { q with state := 6 }) (m.put y)
    have live := (State.localLive_congr y.blocks y.grids q.key).trans hl
    refine ⟨_, execSlotLoaded_stopped hq hs hfw hcls, ?_⟩
    rw [State.stopQueue_live (y.withQueue hq).found rfl live]
    refine ⟨z.dies.trans y.dies, z.becomes (d := (s.putQueue { q with state := 3 }).dram)
      (q := { q with state := 3 }) ?_ rfl y.header (show 6 < 8 by decide)⟩
    rw [y.dies]
    exact y.withQueue hq
  case loadsRange =>
    rintro p v s ⟨m, hs, hfw, idle, hcls, hr, hsw⟩
    have hns : s.fw.state ≠ .switching := by rw [hfw]; decide
    exact ⟨_, execSlotLoaded_latched m.queue hs hns hcls hr,
      State.loaded_stoppedQ m idle hsw hns (by rw [hfw]; decide)⟩
  case notLoading =>
    exact fun s ⟨hq, h⟩ => ⟨s, execSlotLoaded_still hq h, rfl⟩
  case saves =>
    rintro s ⟨⟨hq, hfw⟩, ⟨hc, st⟩, hdef, hu, hb, hbusy, hsw, ha, -⟩
    have m : s.headerMem q.ctx q.header c h [(h, 128)] := ⟨hc, st, List.mem_singleton.2 rfl⟩
    obtain ⟨t, saved, finish⟩ := State.headerMem.unmapFinish (q := { q with unmapStep := 0 }) m hsw hdef
      (q.toStopped || q.state == 5)
    refine ⟨_, execUnmapSave_acts hq hfw hu hb hbusy hsw ha, ?_⟩
    rw [finish]
    by_cases stop : q.toStopped = true ∨ q.state = 5
    · have flag : (q.toStopped || q.state == 5) = true := by simpa using stop
      rw [flag] at saved ⊢
      obtain ⟨y, becomes⟩ := saved.stops m hq rfl hsw
      exact ⟨fun _ => becomes, fun no => absurd stop no, fun no => absurd stop no, saved.fields.keep y.memory⟩
    · have flag : (q.toStopped || q.state == 5) = false := by simpa using stop
      have five : q.state ≠ 5 := fun h5 => stop (.inr h5)
      rw [flag] at saved ⊢
      obtain ⟨becomes, fields, member⟩ := saved.goes_on m hq five
      have ready := Queue.isReady_iff (q := ({ q with unmapStep := 0 } : Queue).saved false) hsw
      simp only [ready] at becomes member
      exact ⟨fun yes => absurd yes stop, fun _ => becomes, fun _ => member, fields⟩
  case notSaving =>
    exact fun s ⟨hq, h⟩ => ⟨s, execUnmapSave_still hq h, rfl⟩

end Sys2Proof.Machine
end

section
/-! SUPPORT. What the ends of commands, grids and queues leave (R34, R36, R39, R65): functions, contexts and the parts of
the package keep their names, and queues, grids and words of other packages only go. -/

namespace Sys2Proof.Machine

/-- What tells a queue from the others, and whose it is. -/
abbrev Queue.tag (q : Queue) : Nat × Nat := (q.key, q.ctx)

/-- From s to t no context and no request of a mailbox changes, and queues, grids and requests to other packages only
go. -/
structure State.closes (s t : State) : Prop where
  plat : t.plat = s.plat
  pkg : t.pkg = s.pkg
  ctxs : t.ctxs.map (·.num) = s.ctxs.map (·.num)
  funcs : ∀ n, (t.func? n).map (·.mbreq) = (s.func? n).map (·.mbreq)
  queues : t.queues.map Queue.tag ⊆ s.queues.map Queue.tag
  grids : t.grids.map (·.id) ⊆ s.grids.map (·.id)
  words : t.fabricOut ⊆ s.fabricOut

/-- The parts that `State.closes` speaks of. -/
def State.closable (s : State) : List (Nat × DWord) × Nat × List Nat × List Func × List Queue × List Grid × List ROut :=
  (s.plat, s.pkg, s.ctxs.map (·.num), s.funcs, s.queues, s.grids, s.fabricOut)

section
variable {s t u : State} {q : Queue}

theorem State.closes.of_eq (h : t.closable = s.closable) : s.closes t := by
  simp only [State.closable, Prod.mk.injEq] at h
  obtain ⟨plat, pkg, ctxs, funcs, queues, grids, words⟩ := h
  exact ⟨plat, pkg, ctxs, fun n => by rw [State.func?, funcs]; rfl, by rw [queues]; exact List.Subset.refl _,
    by rw [grids]; exact List.Subset.refl _, by rw [words]; exact List.Subset.refl _⟩

theorem State.closes.refl (s : State) : s.closes s := .of_eq rfl

theorem State.closes.trans (h : s.closes t) (k : t.closes u) : s.closes u where
  plat := k.plat.trans h.plat
  pkg := k.pkg.trans h.pkg
  ctxs := k.ctxs.trans h.ctxs
  funcs n := (k.funcs n).trans (h.funcs n)
  queues := List.Subset.trans k.queues h.queues
  grids := List.Subset.trans k.grids h.grids
  words := List.Subset.trans k.words h.words

/-- A queue that can be found keeps its tag. -/
theorem State.closes.tag {k : Nat} (h : s.closes t) (hq : t.queue? k = some q) : q.tag ∈ s.queues.map Queue.tag :=
  h.queues (List.mem_map_of_mem (List.mem_of_find?_eq_some hq))

/- ### Contexts, functions, logs and requests -/

theorem State.closes.setCtx (h : s.closes t) (c : Ctx) : s.closes (t.setCtx c) :=
  h.trans { State.closes.refl t with ctxs := t.setCtx_nums c }

theorem State.closes.poolFree (h : s.closes t) (n a : Nat) : s.closes (t.poolFree n a) := by
  unfold State.poolFree
  split
  · exact h.setCtx _
  · exact h

theorem State.closes.raiseMsix (h : s.closes t) (fn v : Nat) : s.closes (t.raiseMsix fn v) := by
  unfold State.raiseMsix
  split
  · exact h
  · next f hf =>
    split
    · refine h.trans { State.closes.refl t with funcs := fun n => ?_ }
      have num : f.num = fn := find_key Func.num t.funcs fn f hf
      refine (congrArg _ (State.func?_setFunc (by rw [← hf]; exact congrArg t.func? num) n)).trans ?_
      dsimp only
      by_cases hn : n = f.num
      · rw [if_pos hn, hn, num, hf]
        rfl
      · rw [if_neg hn]
    · exact h.trans (.of_eq rfl)

theorem State.closes.writeLocs (h : s.closes t) (ls : List Loc) (bs : List Byte) : s.closes (t.writeLocs ls bs) := by
  obtain ⟨d, lp, hm, ps, eq⟩ := t.writeLocs_rest ls bs
  rw [eq]
  exact h.trans (.of_eq rfl)

theorem State.closes.writeVa {c : Ctx} {va : Nat} {bs : List Byte} (h : s.closes t) (w : t.writeVa c va bs = .ok u) :
    s.closes u := by
  obtain ⟨d, lp, hm, ps, rfl⟩ := State.writeVa_rest w
  exact h.trans (.of_eq rfl)

theorem State.closes.logCtx (h : s.closes t) (n kind : Nat) (cls : BitVec 8) (unit : Nat) (addr : DWord) :
    s.closes (t.logCtx n kind cls unit addr) := by
  obtain ⟨d, lp, hm, ps, cs, k, eq, nums⟩ := t.logCtxRec_rest n ⟨kind, cls, BitVec.ofNat 16 unit, addr, n, 1⟩
  rw [State.logCtx, eq]
  exact h.trans { State.closes.refl t with ctxs := nums }

theorem State.closes.request (h : s.closes t) (n : Nat) (agent : Bool) (b : Bad) : s.closes (t.request n agent b) := by
  unfold State.request
  split
  · split
    · exact h.trans (.of_eq rfl)
    · exact h.trans (.of_eq rfl)
  · exact h

theorem State.closes.priTold (h : s.closes t) (n : Nat) (a : DWord) : s.closes (t.priTold n a) := by
  unfold State.priTold State.priReported
  split
  · split
    · exact h
    · split
      · exact h.trans (.of_eq rfl)
      · exact h
  · exact h

theorem State.closes.blame (h : s.closes t) (n unit : Nat) (k : BitVec 8) (a : DWord) : s.closes (t.blame n unit k a) := by
  unfold State.blame State.logUse State.told
  split
  · exact h.logCtx ..
  · split
    · exact h.priTold ..
    · exact h

/- ### Queue records -/

theorem State.closes.setQueue (h : s.closes t) (hq : q.tag ∈ s.queues.map Queue.tag) : s.closes (t.setQueue q) where
  plat := h.plat
  pkg := h.pkg
  ctxs := h.ctxs
  funcs := h.funcs
  grids := h.grids
  words := h.words
  queues := fun x hx => by
    obtain ⟨y, hy, rfl⟩ := List.mem_map.1 hx
    obtain ⟨r, hr, rfl⟩ := List.mem_map.1 hy
    split
    · exact hq
    · exact h.queues (List.mem_map_of_mem hr)

theorem State.closes.putQueue (h : s.closes t) (hq : q.tag ∈ s.queues.map Queue.tag) : s.closes (t.putQueue q) := by
  obtain ⟨d, lp, hm, ps, eq⟩ := t.putQueue_rest q
  rw [eq]
  exact (h.setQueue hq).trans (.of_eq rfl)

theorem State.closes.saveHeader (h : s.closes t) (w : t.saveHeader q = .ok u) : s.closes u := by
  unfold State.saveHeader at w
  split at w
  · cases w; exact h
  · split at w
    · cases w
    · next w1 => exact (h.writeVa w1).writeVa w

theorem State.closes.saveArea {r : Queue} (h : s.closes t) (w : t.saveArea q = some (u, r)) :
    s.closes u ∧ r.tag = q.tag := by
  unfold State.saveArea at w
  split at w
  · cases w; exact ⟨h, rfl⟩
  · split at w
    · cases w
    · cases w; exact ⟨(h.setCtx _).writeLocs .., rfl⟩

theorem State.closes.enterReady (h : s.closes t) (hq : q.tag ∈ s.queues.map Queue.tag) : s.closes (t.enterReady q) :=
  (h.trans (u := t.joinReady q) (.of_eq rfl)).putQueue hq

theorem State.closes.releaseSlotOf (h : s.closes t) (hq : q.tag ∈ s.queues.map Queue.tag) :
    s.closes (t.releaseSlotOf q) := by
  unfold State.releaseSlotOf
  extract_lets r
  split
  · split
    · exact h.putQueue hq
    · exact (h.trans (u := t.joinReady r) (.of_eq rfl)).putQueue hq
  · split
    · exact h.enterReady hq
    · exact h.putQueue hq

/-- The hand-over record is bytes of bonded DRAM (R391). -/
theorem State.closes.writeHandOver (h : s.closes t) : s.closes t.writeHandOver := by
  obtain ⟨u, bs, f, written, eq⟩ : ∃ u bs f, u = t.putDram recordAddr bs ∧ t.writeHandOver = { u with fw := f } :=
    ⟨_, _, _, rfl, rfl⟩
  rw [eq, written]
  exact State.closes.trans (h.writeLocs _ _) (.of_eq rfl)

/-- A deferred update examined again changes the firmware's part, the hand-over record and the traverse alone (R389). -/
theorem State.closes.fwRecheck (h : s.closes t) : s.closes t.fwRecheck := by
  unfold State.fwRecheck State.activate
  split
  · split
    · exact h.trans (.of_eq rfl)
    · split
      · exact h.trans (.of_eq rfl)
      · exact State.closes.writeHandOver (h.trans (.of_eq rfl))
  · exact h

/- ### Blocks and grids -/

theorem State.closes.ibPut (h : s.closes t) (c : Ctx) (off n v : Nat) : s.closes (t.ibPut c off n v) := by
  unfold State.ibPut
  split
  · exact h
  · split
    · next w => exact h.writeVa w
    · exact h.logCtx ..

theorem State.closes.uiUnbind (h : s.closes t) (k n : Nat) : s.closes (t.uiUnbind k n) := by
  unfold State.uiUnbind State.uiClear
  split
  · exact h
  · split
    · exact h
    · split
      · exact h
      · refine State.closes.trans (List.foldlRecOn _ _ (h.ibPut ..) fun u hu v _ => ?_) (.of_eq rfl)
        split
        · exact hu.ibPut ..
        · exact hu

theorem State.closes.freeList (h : s.closes t) (b : Block) (g : Grid) : s.closes (t.freeList b g) := by
  unfold State.freeList
  split
  · exact h.poolFree ..
  · exact h

/-- A block dropped leaves its queue without its image, and goes with nothing else that `closes` speaks of. -/
theorem State.closes.dropBlock (h : s.closes t) (k : Nat) : s.closes (t.dropBlock k) := by
  unfold State.dropBlock
  split
  · exact h
  · next b _ =>
    extract_lets t0 e t1 t2 t3 t4
    have engine : s.closes t1 := by
      dsimp only [t1]
      split
      · exact (h.uiUnbind ..).trans (.of_eq rfl)
      · exact h.uiUnbind ..
    have area : s.closes t2 := by
      dsimp only [t2]
      split
      · exact (engine.freeList ..).poolFree ..
      · exact engine
    have gone : s.closes t4 := by
      refine area.trans { State.closes.refl t2 with queues := ?_ }
      exact (List.map_map ..).symm ▸ List.Subset.refl _
    split
    · exact gone
    · exact gone.trans (.of_eq rfl)

theorem State.closes.resetGrid (h : s.closes t) (n : Nat) : s.closes (t.resetGrid n) :=
  List.foldlRecOn _ _ h fun _ hu b _ => hu.dropBlock b.key

theorem State.closes.endGrid (h : s.closes t) (n : Nat) (e : Ending) : s.closes (t.endGrid n e) := by
  unfold State.endGrid
  split
  · exact h
  · split
    · exact h
    · next g hg _ _ =>
      extract_lets t'
      have ended : s.closes t' := by
        refine h.trans { State.closes.refl t with grids := fun x hx => ?_ }
        obtain ⟨y, hy, rfl⟩ := List.mem_map.1 hx
        obtain ⟨r, hr, rfl⟩ := List.mem_map.1 hy
        split
        · exact List.mem_map.2 ⟨g, List.mem_of_find?_eq_some hg, rfl⟩
        · exact List.mem_map_of_mem hr
      split
      · exact ended.trans (.of_eq rfl)
      · exact ended

/-- A grid dropped goes. -/
theorem State.closes.dropGrid (h : s.closes t) (n : Nat) : s.closes (t.dropGrid n) := by
  unfold State.dropGrid
  split
  · exact h
  · next g _ =>
    extract_lets t1 t2 t3
    have args : s.closes t2 := by
      dsimp only [t2]
      split
      · exact h.resetGrid n
      · exact (h.resetGrid n).poolFree ..
    have parked : s.closes t3 := by
      dsimp only [t3]
      split
      · exact args
      · exact args.poolFree ..
    refine parked.trans { State.closes.refl t3 with grids := fun x hx => ?_ }
    obtain ⟨r, hr, rfl⟩ := List.mem_map.1 hx
    exact List.mem_map_of_mem (List.mem_of_mem_filter hr)

/-- After it no grid has its identifier. -/
theorem State.dropGrid_gone (s : State) (n : Nat) : n ∉ (s.dropGrid n).grids.map (·.id) := by
  unfold State.dropGrid
  split
  · next h => simpa [State.grid?] using h
  · simp

/- ### Stops and completions -/

theorem State.closes.saveFault (h : s.closes t) (hq : q.tag ∈ s.queues.map Queue.tag) (a : DWord) :
    s.closes (t.saveFault q a) :=
  (List.foldlRecOn _ _ h fun _ hu g _ => (hu.endGrid g.id _).resetGrid g.id).putQueue hq

theorem State.closes.unmapFinish (h : s.closes t) (hq : q.tag ∈ s.queues.map Queue.tag) (stop : Bool) :
    s.closes (t.unmapFinish q stop) := by
  unfold State.unmapFinish
  split
  · exact h.saveFault hq 0
  · next u r w =>
    obtain ⟨area, tag⟩ := h.saveArea w
    split
    · exact (h.priTold ..).saveFault hq _
    · next x => exact ((area.saveHeader x).releaseSlotOf (q := { r with state := _ }) (tag ▸ hq)).fwRecheck

theorem State.closes.leaveSlot (h : s.closes t) (hq : q.tag ∈ s.queues.map Queue.tag) : s.closes (t.leaveSlot q) := by
  unfold State.leaveSlot
  split
  · exact h.putQueue hq
  · exact h.unmapFinish hq true

theorem State.closes.stopQueue (h : s.closes t) (k : Nat) (cls : BitVec 8) : s.closes (t.stopQueue k cls) := by
  unfold State.stopQueue
  split
  · exact h
  · next q hq =>
    have tag := h.tag hq
    extract_lets r
    split
    · split
      · exact h.putQueue tag
      · exact h.leaveSlot tag
    · split
      · exact h.putQueue tag
      · split
        · exact h.putQueue tag
        · exact h.putQueue tag

theorem State.closes.writeCqe (h : s.closes t) (k : Nat) (e : KeptCqe) : s.closes (t.writeCqe k e) := by
  unfold State.writeCqe
  split
  · exact h
  · next q hq =>
    have tag := h.tag hq
    split
    · exact h
    · split
      · next w =>
        split
        · exact (h.writeVa w).raiseMsix ..
        · exact h.writeVa w
      · exact (h.request ..).setQueue tag
      · extract_lets t1
        exact (((h.blame ..).setQueue (t := t1) (q := { q with kept := q.kept ++ [e] }) tag).logCtx ..).stopQueue ..

theorem State.closes.completeCmd (h : s.closes t) (k : Nat) (f : Flight) (e : Ending) (grid : Word) (station : DWord) :
    s.closes (t.completeCmd k f e grid station) := by
  unfold State.completeCmd
  split
  · exact h
  · next q hq =>
    have first := h.setQueue (q := { q with flights := q.flights.filter fun x => x.idx != f.idx }) (h.tag (q := q) hq)
    unfold State.putCqe
    split
    · exact first
    · next r hr =>
      have tag := first.tag hr
      extract_lets x
      split
      · exact first.writeCqe ..
      · exact first.setQueue (q := { r with cqPend := r.cqPend ++ [x] }) tag

theorem State.closes.leaveStopRun (h : s.closes t) (k : Nat) : s.closes (t.leaveStopRun k) := by
  unfold State.leaveStopRun
  split
  · next q hq =>
    split
    · exact h.leaveSlot (h.tag hq)
    · exact h
  · exact h

/-- A local grid that completes goes. -/
theorem State.dropGrid_closes_endLocal (s : State) (g : Grid) (e : Ending) : (s.dropGrid g.id).closes (s.endLocal g e) := by
  unfold State.endLocal
  extract_lets t
  split
  · exact ((State.closes.refl t).completeCmd ..).leaveStopRun _
  · exact .refl t

theorem State.closes.abortGrid (h : s.closes t) (g : Grid) : s.closes (t.abortGrid g) := by
  unfold State.abortGrid
  split
  · exact (h.endGrid ..).resetGrid ..
  · exact (h.dropGrid g.id).trans (t.dropGrid_closes_endLocal { g with ending := some abortEnding } abortEnding)

/- ### ABORT and removal -/

/-- The end of an ABORT: the commands that no grid stands behind complete, and the queue stops (R36). -/
def State.abortRest (s : State) (k : Nat) : State :=
  let left := s.localGrids k
  let fl := (((s.queue? k).map (·.flights)).getD []).filter fun f => !left.any fun g => f.grid == some g.id
  let s := fl.foldl (fun s f => s.completeCmd k f abortEnding noGrid noStation) s
  let s := { s with
    podCmds := s.podCmds.map fun (p : PodCmd) =>
      match p.owner with
      | .cmd k' _ _ _ => if k' = k then { p with owner := .nobody } else p
      | _ => p
    fabricOut := s.fabricOut.filter fun (r : ROut) =>
      match r.owner with
      | .packet j _ => j != k
      | _ => true }
  match s.queue? k with
  | none => s
  | some q =>
    let q := { q with
      holding := none, copies := [], skipTo := none, stopclass := 0x31, abortDue := false
      swapped := [] }
    if q.slot.isSome then s.unmapFinish q true else s.putQueue { q with state := 5 }

theorem State.abortQueue_acts {k : Nat} (hq : s.queue? k = some q) (hu : q.unmapStep = 0) : s.abortQueue k =
    ((s.localGrids k).foldl (fun s g => s.abortGrid g) s).abortRest k := by
  unfold State.abortQueue
  rw [hq]
  exact if_neg (by simp [hu])

theorem State.closes.abortRest (h : s.closes t) (k : Nat) : s.closes (t.abortRest k) := by
  unfold State.abortRest
  extract_lets left fl t1 t2
  have completed : s.closes t1 := List.foldlRecOn _ _ h fun _ hu f _ => hu.completeCmd ..
  have words : s.closes t2 := completed.trans
    { State.closes.refl t1 with words := fun x hx => List.mem_of_mem_filter hx }
  split
  · exact words
  · next q hq =>
    have tag := words.tag hq
    extract_lets r
    split
    · exact words.unmapFinish (q := r) tag true
    · exact words.putQueue (q := { r with state := 5 }) tag

theorem State.closes.abortQueue (h : s.closes t) (k : Nat) : s.closes (t.abortQueue k) := by
  cases hq : t.queue? k with
  | none => unfold State.abortQueue; rw [hq]; exact h
  | some q =>
    by_cases hu : q.unmapStep = 0
    · rw [State.abortQueue_acts hq hu]
      exact State.closes.abortRest (List.foldlRecOn _ _ h fun _ hu g _ => hu.abortGrid g) k
    · unfold State.abortQueue
      rw [hq]
      dsimp only
      rw [if_pos hu]
      have tag := h.tag hq
      exact h.setQueue (q := { q with abortDue := true }) tag

/-- A removed queue goes. -/
theorem State.closes.removeQueue (h : s.closes t) (k : Nat) : s.closes (t.removeQueue k) ∧
    ∀ r ∈ (t.removeQueue k).queues, r.key ≠ k := by
  unfold State.removeQueue
  split
  · next hq => exact ⟨h, fun r hr => by simpa using List.find?_eq_none.1 hq r hr⟩
  · next q hq =>
    extract_lets t1 t2 d t3 t4
    have aborted : s.closes t2 := (h.setQueue (q := { q with unmapStep := 0 }) (h.tag (q := q) hq)).abortQueue k
    have freed : s.closes t4 := by
      dsimp only [t4]
      split
      · exact aborted.trans (.of_eq rfl)
      · exact (aborted.trans (u := t3) (.of_eq rfl)).poolFree ..
    have gone : s.closes { t4 with queues := t4.queues.filter fun x => x.key != k } := by
      refine freed.trans { State.closes.refl t4 with queues := fun x hx => ?_ }
      obtain ⟨r, hr, rfl⟩ := List.mem_map.1 hx
      exact List.mem_map_of_mem (List.mem_of_mem_filter hr)
    refine ⟨gone.fwRecheck, fun r hr => ?_⟩
    obtain ⟨y, hy, tag⟩ := List.mem_map.1 ((State.closes.refl _).fwRecheck.queues (List.mem_map_of_mem hr))
    have other : y.key ≠ k := by simpa using (List.mem_filter.1 hy).2
    exact (Prod.mk.inj tag).1 ▸ other

end

end Sys2Proof.Machine
end

section
/-! SUPPORT. RESTART and ABORT of a queue (R29, R36, R44), and the statement about them. -/

namespace Sys2Proof.Machine

/- ### What RESTART leaves (R29, R36) -/

/-- Queue q after a RESTART. -/
abbrev Queue.again (q : Queue) : Queue := { q with
  stopclass := 0, wakelatch := 0, uilatch := false, tail := q.head, rangeLatched := none
  state := if q.state = 6 then 3 else 0 }

/-- t is s with queue q restarted, in its header at h too. -/
def State.again (s t : State) (q : Queue) (h : Nat) : Prop :=
  ({ s with dram := t.dram } : State).withQueue t q.again ∧
    t.num (h + 32) 1 % 8 = (if q.state = 6 then 3 else 0) ∧ t.num (h + 80) 8 = 0 ∧ t.num (h + 96) 1 = 0

section
variable {s t u : State} {q r x : Queue} {c : Ctx} {h : Nat} {rs : List (Nat × Nat)} {k : Nat} {skip : Bool}

/-- A restarted queue has its record put; nothing makes it ready. -/
theorem State.headerMem.restarted (m : s.headerMem q.ctx q.header c h rs) (hq : s.queue? q.key = some x)
    (hsw : q.swapped = []) : s.putAt (s.restarted q) q.again h := by
  have y := State.headerMem.putQueue (r := q.again) m
  by_cases h6 : q.state = 6
  · have eq : s.restarted q = s.putQueue q.again := by simp only [State.restarted, h6, if_true, Queue.again]
    rw [eq]
    exact y
  · have idle : q.again = { q with
        stopclass := 0, wakelatch := 0, uilatch := false, tail := q.head, rangeLatched := none, state := 0 } := by
      simp only [Queue.again, h6, if_false]
    have rest : q.again.isReady = false := by simp [Queue.isReady, hsw]
    have still : (s.putQueue q.again).examineQueue q.key = s.putQueue q.again := by
      simp only [State.examineQueue, (y.withQueue hq).found, rest, Bool.false_eq_true, and_false, if_false]
    have eq : s.restarted q = (s.putQueue q.again).examineQueue q.key := by
      rw [idle]
      simp only [State.restarted, h6, if_false]
    rw [eq, still]
    exact y

/-- A record put last after the queue has been replaced restarts it. -/
theorem State.putAt.again {d : Memory} (y : t.putAt u q.again h)
    (x : ({ s with dram := d } : State).withQueue t r) (hk : q.key = r.key) : s.again u q h :=
  ⟨y.after (ds := s.dies) x hk, (y.state (by dsimp only; split <;> decide)).trans rfl, y.wake, y.cls⟩

/-- A queue restarted where its record has been replaced already. -/
theorem State.headerMem.again {d : Memory} (m : t.headerMem q.ctx q.header c h rs)
    (x : ({ s with dram := d } : State).withQueue t r) (hk : q.key = r.key) (hsw : q.swapped = []) :
    s.again (t.restarted q) q h ∧ dramBut t (t.restarted q) [(h, 128)] := by
  have y := m.restarted (x := r) (hk ▸ x.found) hsw
  exact ⟨y.again x hk, y.header⟩

/- ### The cases of RESTART -/

/-- RESTART does not act on a queue that has not stopped. -/
theorem State.restart_still (hq : s.queue? k = some q) (h : (q.state ≠ 5 ∧ q.state ≠ 6) ∨ q.unmapStep ≠ 0) :
    s.restart k skip = s := by
  have still : (!(q.state == 5 || q.state == 6) || q.unmapStep != 0) = true := by
    simpa using h
  simp only [State.restart, hq, still, if_true]

theorem rejects_eq_false {cls : BitVec 8} : rejects cls = false ↔
    cls ∈ ([0, 0x2a, 0x30, 0x31, 0x32, 0x33, 0x35] : List (BitVec 8)) := by
  simp only [rejects, Bool.not_eq_false', Bool.or_eq_true, beq_iff_eq, List.mem_cons, List.not_mem_nil, or_false, or_assoc]

section
variable (hq : s.queue? q.key = some q) (hs : q.state = 5 ∨ q.state = 6) (hu : q.unmapStep = 0)
include hq hs hu

theorem State.restart_acts : s.restart q.key skip =
    if q.stopclass = 0x32 then
      if skip then (s.setQueue { q with kept := [] }).restarted { q with kept := [] }
      else
        let t := q.kept.foldl (fun s e => s.writeCqe q.key e) (s.setQueue { q with kept := [] })
        ((t.queue? q.key).map fun r => if r.kept.isEmpty then t.restarted r else t).getD t
    else if q.stopclass = 0x33 then
      ((s.saveHeader q).toOption.map fun t => t.restarted { q with saveKept := false }).getD s
    else if rejects q.stopclass && skip then
      s.restarted { q with
        head := q.head + BitVec.ofNat 64 (s.skipSlots q), cmdidx := q.cmdidx + 1
        skipTo := q.skipTo.filter fun t => t != q.cmdidx.extractLsb' 0 32 }
    else s.restarted q := by
  have acts : (!(q.state == 5 || q.state == 6) || q.unmapStep != 0) = false := by
    rcases hs with hs | hs
    · simp [hs, hu]
    · simp [hs, hu]
  simp only [State.restart, hq, acts, Bool.false_eq_true, if_false]
  split
  · split
    · rfl
    · split
      · next hr => rw [hr]; rfl
      · next hr => rw [hr]; rfl
  · cases s.saveHeader q with
    | error b => rfl
    | ok t => rfl

/-- After most classes, and without SKIP after all but two, it is all that RESTART does. -/
theorem State.restart_plain (h2 : q.stopclass ≠ 0x32) (h3 : q.stopclass ≠ 0x33)
    (hr : skip = false ∨ rejects q.stopclass = false) : s.restart q.key skip = s.restarted q := by
  have plain : (rejects q.stopclass && skip) = false := by
    rcases hr with hr | hr
    · rw [hr, Bool.and_false]
    · rw [hr, Bool.false_and]
  rw [State.restart_acts hq hs hu, if_neg h2, if_neg h3, plain]
  rfl

/-- SKIP after a rejection passes the packet at HEAD. -/
theorem State.restart_skip (hr : rejects q.stopclass = true) : s.restart q.key true = s.restarted { q with
    head := q.head + BitVec.ofNat 64 (s.skipSlots q), cmdidx := q.cmdidx + 1
    skipTo := q.skipTo.filter fun t => t != q.cmdidx.extractLsb' 0 32 } := by
  have h2 : q.stopclass ≠ 0x32 := fun h => by rw [h] at hr; exact absurd hr (by decide)
  have h3 : q.stopclass ≠ 0x33 := fun h => by rw [h] at hr; exact absurd hr (by decide)
  rw [State.restart_acts hq hs hu, if_neg h2, if_neg h3, hr]
  rfl

/-- SKIP after CQ_FAULT drops the kept entries. -/
theorem State.restart_drops (h2 : q.stopclass = 0x32) : s.restart q.key true =
    (s.setQueue { q with kept := [] }).restarted { q with kept := [] } := by
  rw [State.restart_acts hq hs hu, if_pos h2, if_pos rfl]

/-- Without it a kept entry that can be written is written. -/
theorem State.restart_writes {e : KeptCqe} (h2 : q.stopclass = 0x32) (he : q.kept = [e])
    (ht : ((s.setQueue { q with kept := [] }).writeCqe q.key e).queue? q.key = some { q with kept := [] }) :
    s.restart q.key false =
      ((s.setQueue { q with kept := [] }).writeCqe q.key e).restarted { q with kept := [] } := by
  rw [State.restart_acts hq hs hu, if_pos h2, if_neg (by decide), he]
  dsimp only [List.foldl_cons, List.foldl_nil]
  rw [ht]
  rfl

/-- After SAVE_FAULT the queue state is written again. -/
theorem State.restart_saves (h3 : q.stopclass = 0x33) (ht : s.saveHeader q = .ok t) :
    s.restart q.key skip = t.restarted { q with saveKept := false } := by
  have h2 : q.stopclass ≠ 0x32 := by rw [h3]; decide
  rw [State.restart_acts hq hs hu, if_neg h2, if_pos h3, ht]
  rfl

end

/-- A part of a run of bytes. -/
theorem Memory.bytes_part (m : Memory) (a : Nat) {i k n : Nat} (h : i + k ≤ n) :
    ((m.bytes a n).drop i).take k = m.bytes (a + i) k := by
  refine List.ext_getElem (by simp; omega) fun j h1 h2 => ?_
  simp only [List.getElem_take, List.getElem_drop, Memory.getElem_bytes, Nat.add_assoc]

/-- SKIP reads the packet's slots where its head translates (R36). -/
theorem State.skipSlots_eq {a : Nat} (hc : s.ctx? q.ctx = some c)
    (st : s.steady c (q.ringBase.toNat + 256 * (q.head.toNat % 2 ^ q.ringLog2)) 16 a) : s.skipSlots q =
      if 1 ≤ s.num (a + 5) 1 ∧ s.num (a + 5) 1 ≤ 2 ^ q.ringLog2 then s.num (a + 5) 1 else 1 := by
  have read : s.readVa c (q.ringBase.toNat + 256 * (q.head.toNat % 2 ^ q.ringLog2)) 16 = .ok (s.dram.bytes a 16) :=
    st.readOn .core (off := 0) (by decide) (by decide)
  simp only [State.skipSlots, hc, read, Memory.bytes_part s.dram a (show 5 + 1 ≤ 16 by decide)]
  rfl

theorem Vectored.congr {fn v : Nat} (x : Vectored s t fn v) (hf : u.funcs = t.funcs) (hm : u.msix = t.msix) :
    Vectored s u fn v := by
  intro f h
  have := x f h
  rw [State.func?, hf, hm]
  exact this

/-- A kept entry of a queue whose ring translates is written at its place, and its vector raised. -/
theorem State.writeCqe_eq {e : KeptCqe} {p : Nat} (hq : s.queue? k = some q) (hc : s.ctx? q.ctx = some c)
    (st : s.steadyOver rs c (q.cqAddr e.idx) 32 p) (he : e.bytes.length = 32) : s.writeCqe k e =
      ({ s with dram := s.dram.setBytes p e.bytes } : State).vectorIf e.irq q.fn q.msixv := by
  have write : s.writeVa c (q.cqAddr e.idx) e.bytes = .ok { s with dram := s.dram.setBytes p e.bytes } :=
    st.writeOn .core (off := 0) (by omega) (by omega)
  simp only [State.writeCqe, hq, hc, write, State.vectorIf]

/- ### ABORT -/

theorem State.closes.writesOut {n : Nat} (x : s.closes t) (hn : s.writesOut n = false) : t.writesOut n = false := by
  rw [State.writesOut, List.any_eq_false] at hn ⊢
  exact fun r hr => hn r (x.words hr)

/-- A local grid without a word still to be acknowledged goes at once. -/
theorem State.abortGrid_gone {g : Grid} (h : s.writesOut g.id = false) : g.id ∉ (s.abortGrid g).grids.map (·.id) := by
  have eq : s.abortGrid g = s.endLocal { g with ending := some abortEnding } abortEnding :=
    if_neg (by rw [h]; decide)
  rw [eq]
  exact fun hg => s.dropGrid_gone g.id ((s.dropGrid_closes_endLocal { g with ending := some abortEnding } _).grids hg)

/-- So do they all, one after the other. -/
theorem State.foldl_abortGrid_gone {g : Grid} (l : List Grid) : ∀ s : State, g ∈ l → s.writesOut g.id = false →
    g.id ∉ (l.foldl (fun s g => s.abortGrid g) s).grids.map (·.id) := by
  induction l with
  | nil => exact fun s hg => absurd hg (by simp)
  | cons a l ih =>
    intro s hg hw
    have later : (s.abortGrid a).closes (l.foldl (fun s g => s.abortGrid g) (s.abortGrid a)) :=
      List.foldlRecOn _ _ (.refl _) fun _ hu g _ => hu.abortGrid g
    rcases List.mem_cons.1 hg with rfl | hg
    · exact fun hx => State.abortGrid_gone hw (later.grids hx)
    · exact ih _ hg (((State.closes.refl s).abortGrid a).writesOut hw)

/-- The end of a stop: a queue with nothing swapped out is saved and leaves its slot, or has none. -/
theorem State.headerMem.halts (m : s.headerMem q.ctx q.header c h rs) (hq : s.queue? q.key = some x)
    (hsw : q.swapped = []) (hdef : s.fw.state ≠ .deferred) :
    let t := if q.slot.isSome then s.unmapFinish q true else s.putQueue { q with state := 5 }
    ∃ r : Queue, ({ s with dram := t.dram } : State).withQueue t r ∧ dramBut s t [(h, 128)] ∧
      { r with saveptr := q.saveptr, unmapStep := q.unmapStep, toStopped := q.toStopped } =
        { q with state := 5, slot := none } ∧
      t.num (h + 32) 1 % 8 = 5 ∧ t.num (h + 96) 1 = q.stopclass.toNat := by
  intro t
  by_cases hslot : q.slot.isSome = true
  · obtain ⟨v, saved, finish⟩ := State.headerMem.unmapFinish (q := q) m hsw hdef true
    obtain ⟨y, becomes, memory, state⟩ := saved.stops m hq rfl hsw
    have ht : t = v.releaseSlotOf (q.saved true) := (if_pos hslot).trans finish
    have dies : t.dies = s.dies := by rw [ht, y.dies, saved.rest]
    rw [← ht] at y becomes memory state
    refine ⟨(q.saved true).unslotted 5, ?_, memory, rfl, state, y.cls⟩
    rw [dies] at becomes
    exact becomes
  · have y := State.headerMem.putQueue (r := { q with state := 5 }) m
    have ht : t = s.putQueue { q with state := 5 } := if_neg hslot
    rw [← ht] at y
    refine ⟨{ q with state := 5 }, y.withQueue hq, y.header, ?_, y.state (show 5 < 8 by decide), y.cls⟩
    have none_ : q.slot = none := by simpa using hslot
    rw [← none_]

end

end Sys2Proof.Machine
end

section
/-! SUPPORT. The statement about RESTART and ABORT (R29, R36, R44). -/

namespace Sys2Proof.Machine

section
variable {s t : State} {q : Queue} {k : Nat} {i : Instr}

/-- RESTART with or without SKIP. -/
theorem exec_restart (hi : i = .wctlRestart k ∨ i = .wctlRestartSkip k) (hfw : s.fw.state ≠ .switching) :
    ∃ skip, exec i s = .next (s.restart k skip) ∧ (i = .wctlRestart k → skip = false) := by
  rcases hi with rfl | rfl
  · refine ⟨false, ?_, fun _ => rfl⟩
    rw [show exec (.wctlRestart k) s = execWctlRestart k s from rfl, execWctlRestart, State.fwHeld_eq_false hfw]
    rfl
  · refine ⟨true, ?_, fun h => by cases h⟩
    rw [show exec (.wctlRestartSkip k) s = execWctlRestartSkip k s from rfl, execWctlRestartSkip,
      State.fwHeld_eq_false hfw]
    rfl

theorem exec_restart_only (hfw : s.fw.state ≠ .switching) :
    exec (.wctlRestart k) s = .next (s.restart k false) := by
  obtain ⟨skip, run, plain⟩ := exec_restart (.inl rfl) hfw
  rw [run, plain rfl]

theorem exec_restartSkip (hfw : s.fw.state ≠ .switching) :
    exec (.wctlRestartSkip k) s = .next (s.restart k true) := by
  rw [show exec (.wctlRestartSkip k) s = execWctlRestartSkip k s from rfl, execWctlRestartSkip,
    State.fwHeld_eq_false hfw]
  rfl

theorem exec_abort (hfw : s.fw.state ≠ .switching) : exec (.wctlAbort k) s = .next (s.abortQueue k) := by
  rw [show exec (.wctlAbort k) s = execWctlAbort k s from rfl, execWctlAbort, State.fwHeld_eq_false hfw]
  rfl

/-- A firmware switch holds all three at the wake port (R390). -/
theorem exec_wctl_held (hi : (i = .wctlRestart k ∨ i = .wctlRestartSkip k) ∨ i = .wctlAbort k)
    (hfw : s.fw.state = .switching) :
    exec i s = .next { s with fw := { s.fw with port := s.fw.port ++ [i] } } := by
  rcases hi with (rfl | rfl) | rfl
  · rw [show exec (.wctlRestart k) s = execWctlRestart k s from rfl, execWctlRestart, State.fwHeld_eq_true hfw]
    rfl
  · rw [show exec (.wctlRestartSkip k) s = execWctlRestartSkip k s from rfl, execWctlRestartSkip,
      State.fwHeld_eq_true hfw]
    rfl
  · rw [show exec (.wctlAbort k) s = execWctlAbort k s from rfl, execWctlAbort, State.fwHeld_eq_true hfw]
    rfl

end

section
variable {s t : State} {q r : Queue} {c : Ctx} {h p : Nat}

/-- The kept entry of a queue written again, and the queue restarted (R36). -/
theorem State.headerMem.writesKept {e : KeptCqe} (m : s.headerMem q.ctx q.header c h [(h, 128), (p, 32)])
    (hq : s.queue? q.key = some q) (hsw : q.swapped = []) (len : e.bytes.length = 32)
    (apart : p + 32 ≤ h ∨ h + 128 ≤ p) (entry : s.steadyOver [(h, 128), (p, 32)] c (q.cqAddr e.idx) 32 p) :
    ∃ u, (s.setQueue { q with kept := [] }).writeCqe q.key e = u ∧ u.queue? q.key = some { q with kept := [] } ∧
      let t := u.restarted { q with kept := [] }
      t.dram.bytes p 32 = e.bytes ∧ dramBut s t [(p, 32), (h, 128)] ∧
        (if e.irq then Vectored s t q.fn q.msixv else t.funcs = s.funcs ∧ t.msix = s.msix) ∧
        ({ s with funcs := t.funcs, msix := t.msix } : State).again t { q with kept := [] } h := by
  obtain ⟨qs, hqs⟩ : ∃ qs, qs = (s.setQueue { q with kept := [] }).queues := ⟨_, rfl⟩
  obtain ⟨fs, ms, raised, vector⟩ := s.vectorIf_served (s.dram.setBytes p e.bytes) qs e.irq q.fn q.msixv
  have set : s.setQueue { q with kept := [] } = s.served s.dram qs s.funcs s.msix := by rw [hqs]; rfl
  have replaced := State.withQueue_setQueue (r := { q with kept := [] }) hq
  have found := replaced.found
  have kept (rs : List (Nat × Nat)) : s.keepsWalks (s.setQueue { q with kept := [] }) rs :=
    ⟨m.2.1.1, rfl, rfl, rfl, dramBut_refl _ _⟩
  have written : (s.setQueue { q with kept := [] }).writeCqe q.key e = s.served (s.dram.setBytes p e.bytes) qs fs ms := by
    rw [State.writeCqe_eq found m.1 (entry.keep (kept _)) len, set]
    exact raised
  refine ⟨_, written, by rw [set] at found; exact found, ?_⟩
  have bytes : dramBut s (s.served (s.dram.setBytes p e.bytes) qs fs ms) [(p, 32)] :=
    dramBut_setBytes s (r := (p, 32)) (by simp) (Nat.le_refl p) (by simp only; omega)
  have m' : (s.served (s.dram.setBytes p e.bytes) qs fs ms).headerMem q.ctx q.header c h [(h, 128), (p, 32)] :=
    m.keep ⟨m.2.1.1, rfl, rfl, rfl, bytes.mono (by simp)⟩ rfl
  have x : ({ s with dram := s.dram.setBytes p e.bytes, funcs := fs, msix := ms } : State).withQueue
      (s.served (s.dram.setBytes p e.bytes) qs fs ms) { q with kept := [] } :=
    ⟨rfl, by rw [set] at replaced; exact replaced.2⟩
  have y := State.headerMem.restarted (q := { q with kept := [] }) m' x.found hsw
  obtain ⟨again, memory⟩ := State.headerMem.again (s := { s with funcs := fs, msix := ms }) (q := { q with kept := [] })
    m' x rfl hsw
  have funcs : ((s.served (s.dram.setBytes p e.bytes) qs fs ms).restarted { q with kept := [] }).funcs = fs := by
    rw [y.rest]; rfl
  have msix : ((s.served (s.dram.setBytes p e.bytes) qs fs ms).restarted { q with kept := [] }).msix = ms := by
    rw [y.rest]; rfl
  refine ⟨?_, (bytes.mono (by simp)).trans (memory.mono (by simp)), ?_, by rw [funcs, msix]; exact again⟩
  · refine (Memory.bytes_of_agree fun k hk => memory (p + k) (by simp; omega)).trans ?_
    have back := Memory.bytes_setBytes e.bytes s.dram p
    rw [len] at back
    exact back
  · split
    · next irq =>
      rw [if_pos irq] at vector
      exact vector.congr funcs msix
    · next irq =>
      rw [if_neg irq] at vector
      exact ⟨funcs.trans vector.1, msix.trans vector.2⟩

/-- Queue q as ABORT leaves it before it stops (R36). -/
abbrev Queue.aborted (q : Queue) : Queue := { q with
  holding := none, copies := [], skipTo := none, stopclass := 0x31, abortDue := false, swapped := [] }

/-- Without local grids an ABORT completes the commands in flight, here one, and stops the queue (R36). -/
theorem State.abortRest_single {f : Flight} (hq : s.queue? q.key = some q) (hf : q.flights = [f])
    (hg : s.localGrids q.key = []) (ht : s.completeCmd q.key f abortEnding noGrid noStation = t)
    (found : t.queue? q.key = some r) : ∃ pc fo, s.abortRest q.key =
      if r.aborted.slot.isSome then ({ t with podCmds := pc, fabricOut := fo } : State).unmapFinish r.aborted true
      else ({ t with podCmds := pc, fabricOut := fo } : State).putQueue { r.aborted with state := 5 } := by
  unfold State.abortRest
  extract_lets left fl t1 t2
  have one : t1 = t := by
    have flights : fl = [f] := by simp [fl, left, hg, hq, hf]
    dsimp only [t1]
    rw [flights]
    exact ht
  have rest : ({ t with podCmds := t2.podCmds, fabricOut := t2.fabricOut } : State) = t2 := by rw [← one]
  have found2 : t2.queue? q.key = some r := by rw [← one] at found; exact found
  refine ⟨t2.podCmds, t2.fabricOut, ?_⟩
  rw [found2, rest]

/-- An entry read through a record with the same completion ring. -/
theorem State.entryAt.record {idx : DWord} {seq : Word} {e : Ending} {grid : Word} {station : DWord}
    (x : t.entryAt r p idx seq e grid station) (hl : r.cqLog2 = q.cqLog2) : t.entryAt q p idx seq e grid station := by
  obtain ⟨h1, h2, h3, h4, h5, h6, h7, h8, h9⟩ := x
  exact ⟨h1, h2, hl ▸ h3, h4, h5, h6, h7, h8, h9⟩

/-- The queue replaced twice. -/
theorem State.withQueue.trans {u : State} (x : s.withQueue t q) (y : t.withQueue u r) (hk : r.key = q.key) :
    s.withQueue u r := by
  refine ⟨(congrArg (fun v : State => { v with queues := s.queues }) y.1).trans x.1, fun k => ?_⟩
  rw [y.2, x.2, hk]
  split
  · rfl
  · rfl

/-- A queue whose last command an ABORT has completed stops (R36, R39). -/
theorem State.completed.aborts {u : State} {f : Flight} {e : Ending} {idx : DWord} {pc : List PodCmd} {fo : List ROut}
    (x : s.completed t r p [] f e noGrid noStation) (m : s.queueMem q c idx p h []) (same : q.sameMem r)
    (hdef : s.fw.state ≠ .deferred)
    (hu : u = if r.aborted.slot.isSome then
        ({ t with podCmds := pc, fabricOut := fo } : State).unmapFinish r.aborted true
      else ({ t with podCmds := pc, fabricOut := fo } : State).putQueue { r.aborted with state := 5 }) :
    u.entryAt q p f.idx f.seq e noGrid noStation ∧ dramBut s u [(p, 32), (h, 128)] ∧
      (if f.irq then Vectored s u r.fn r.msixv else u.funcs = s.funcs ∧ u.msix = s.msix) ∧
      ∃ y : Queue, ({ s with
          dram := u.dram, funcs := u.funcs, msix := u.msix, podCmds := u.podCmds
          fabricOut := u.fabricOut } : State).withQueue u y ∧
        { y with saveptr := r.saveptr, unmapStep := r.unmapStep, toStopped := r.toStopped } =
          { r.aborted with state := 5, slot := none } ∧
        u.num (h + 32) 1 % 8 = 5 ∧ u.num (h + 96) 1 = 0x31 := by
  have m1 := x.queueMem m same
  have m2 : ({ t with podCmds := pc, fabricOut := fo } : State).headerMem r.ctx r.header c h (queueRanges p h []) :=
    ⟨m1.ctx, m1.header.keep ⟨m1.header.1, rfl, rfl, rfl, dramBut_refl _ _⟩, by simp⟩
  have calm : t.fw.state ≠ .deferred := by rw [x.served]; exact hdef
  obtain ⟨y, replaced, memory, fields, state, cls⟩ :=
    State.headerMem.halts (q := r.aborted) m2 x.queue.found rfl calm
  rw [← hu] at replaced memory state cls
  have funcs : u.funcs = t.funcs := (congrArg State.funcs replaced.1 :)
  have msix : u.msix = t.msix := (congrArg State.msix replaced.1 :)
  have cmds : u.podCmds = pc := (congrArg State.podCmds replaced.1 :)
  have words : u.fabricOut = fo := (congrArg State.fabricOut replaced.1 :)
  have first : ({ s with
        dram := u.dram, funcs := t.funcs, msix := t.msix, podCmds := pc, fabricOut := fo } : State).withQueue
      { t with dram := u.dram, podCmds := pc, fabricOut := fo } r :=
    ⟨congrArg (fun v : State => { v with
      dram := u.dram, funcs := t.funcs, msix := t.msix, podCmds := pc, fabricOut := fo }) x.queue.1, x.queue.2⟩
  have key : y.key = r.key := (congrArg Queue.key fields :)
  refine ⟨(x.entry.record same.log).keep fun k hk => memory (p + k) ?_, ?_, ?_, y, ?_, fields, state, cls⟩
  · have apart := m.apart
    simp
    omega
  · exact (x.memory.mono (by simp)).trans (memory.mono (by simp))
  · have vector := x.vector
    split
    · next irq =>
      rw [if_pos irq] at vector
      exact vector.congr funcs msix
    · next irq =>
      rw [if_neg irq] at vector
      exact ⟨funcs.trans vector.1, msix.trans vector.2⟩
  · rw [funcs, msix, cmds, words]
    exact first.trans replaced key

end

/-- Settles O45: each class leads RESTART to one record put, after what its case writes first; and ABORT drops each
local grid and completes the one command left. -/
theorem queueControl : Obligations.QueueControl := by
  intro q c h i
  refine ⟨?held, ?still, ?plain, ?skips, ?drops, ?writes, ?saves, ?later, ?grids, ?aborts⟩
  case held =>
    rintro hi s ⟨-, hfw⟩
    exact ⟨_, exec_wctl_held hi hfw, rfl⟩
  case still =>
    rintro hi s ⟨hq, hfw, h⟩
    obtain ⟨skip, run, -⟩ := exec_restart hi hfw
    exact ⟨_, run, State.restart_still hq h⟩
  case plain =>
    rintro hi s ⟨⟨hq, hc, hfw, hs, hu, hsw⟩, st, h2, h3, hplain⟩
    obtain ⟨skip, run, only⟩ := exec_restart hi hfw
    refine ⟨_, run, ?_⟩
    rw [State.restart_plain hq hs hu h2 h3 (hplain.imp only rejects_eq_false.2)]
    exact State.headerMem.again (d := s.dram) ⟨hc, st, List.mem_singleton.2 rfl⟩ (State.withQueue_refl hq) rfl hsw
  case skips =>
    rintro r s ⟨⟨hq, hc, hfw, hs, hu, hsw⟩, st, hclass, ring⟩
    have hr : rejects q.stopclass = true := by rw [← Bool.not_eq_false, rejects_eq_false]; exact hclass
    refine ⟨_, exec_restartSkip hfw, ?_⟩
    rw [State.restart_skip hq hs hu hr, State.skipSlots_eq hc ring, ← BitVec.setWidth_eq_extractLsb' (by decide)]
    exact State.headerMem.again (s := s) (d := s.dram) ⟨hc, st, List.mem_singleton.2 rfl⟩ (State.withQueue_refl hq) rfl hsw
  case drops =>
    rintro s ⟨⟨hq, hc, hfw, hs, hu, hsw⟩, st, h2⟩
    refine ⟨_, exec_restartSkip hfw, ?_⟩
    rw [State.restart_drops hq hs hu h2]
    have m : s.headerMem q.ctx q.header c h [(h, 128)] := ⟨hc, st, List.mem_singleton.2 rfl⟩
    exact State.headerMem.again (s := s) (d := s.dram) (t := s.setQueue { q with kept := [] })
      (q := { q with kept := [] }) (m.same rfl rfl rfl rfl rfl rfl) (State.withQueue_setQueue hq) rfl hsw
  case writes =>
    rintro e p s ⟨⟨hq, hc, hfw, hs, hu, hsw⟩, st, h2, he, len, apart, entry⟩
    obtain ⟨u, written, found, bytes, memory, vector, again⟩ :=
      State.headerMem.writesKept ⟨hc, st, List.mem_cons_self ..⟩ hq hsw len apart entry
    refine ⟨_, exec_restart_only hfw, ?_⟩
    rw [State.restart_writes hq hs hu h2 he (written ▸ found), written]
    exact ⟨bytes, memory, vector, again⟩
  case saves =>
    rintro hi s ⟨⟨hq, hc, hfw, hs, hu, hsw⟩, st, h3⟩
    obtain ⟨skip, run, -⟩ := exec_restart hi hfw
    have m : s.headerMem q.ctx q.header c h [(h, 128)] := ⟨hc, st, List.mem_singleton.2 rfl⟩
    obtain ⟨t, saved, x⟩ := m.saveHeader
    have m' : t.headerMem q.ctx q.header c h [(h, 128)] := m.save x
    have found := x.withQueue hq s.dies
    have same : ({ t with dies := s.dies } : State) = t := by rw [x.rest]
    rw [same] at found
    obtain ⟨again, memory⟩ := State.headerMem.again (q := { q with saveKept := false }) m' found rfl hsw
    have y := State.headerMem.restarted (q := { q with saveKept := false }) m' found.found hsw
    refine ⟨_, run, ?_⟩
    rw [State.restart_saves hq hs hu h3 saved]
    obtain ⟨head, cmdidx, cqdone, -, -⟩ := x.fields.keep y.memory
    exact ⟨again, x.header.trans memory, head, cmdidx, cqdone⟩
  case later =>
    rintro s ⟨hq, hfw, hu⟩
    refine ⟨_, exec_abort hfw, ?_⟩
    unfold State.abortQueue
    rw [hq]
    dsimp only
    rw [if_pos hu]
    exact State.withQueue_setQueue (r := { q with abortDue := true }) hq
  case grids =>
    rintro s ⟨hq, hfw, hu⟩
    refine ⟨_, exec_abort hfw, fun g hg hgq hpod hcomplete hw => ?_⟩
    have mine : g ∈ s.localGrids q.key := List.mem_filter.2 ⟨hg, by simp [hgq, hpod, hcomplete]⟩
    have gone := State.foldl_abortGrid_gone _ s mine (List.any_eq_false.2 fun r hr => by simpa using hw r hr)
    rw [State.abortQueue_acts hq hu]
    refine List.find?_eq_none.2 fun x hx hid => gone (((State.closes.refl _).abortRest q.key).grids ?_)
    exact List.mem_map.2 ⟨x, hx, by simpa using hid⟩
  case aborts =>
    rintro f p s ⟨m, hu, hf, hfw, hdef, hg⟩
    have none_ : s.localGrids q.key = [] :=
      List.filter_eq_nil_iff.2 fun g hm => by simpa [and_assoc] using hg g hm
    obtain ⟨t, ht⟩ : ∃ t, s.completeCmd q.key f abortEnding noGrid noStation = t := ⟨_, rfl⟩
    have x := State.completeCmd_completed (s := s) (d := s.dram) (qs := s.queues) (e := abortEnding) (grid := noGrid)
      (station := noStation) m hfw (State.withQueue_refl m.queue) (dramBut_refl _ _)
    replace x := ht ▸ x
    obtain ⟨pc, fo, rest⟩ := State.abortRest_single m.queue hf none_ ht x.queue.found
    refine ⟨_, exec_abort hfw, ?_⟩
    rw [State.abortQueue_acts m.queue hu, none_, List.foldl_nil, rest]
    obtain ⟨entry, memory, vector, y, replaced, fields, state, cls⟩ := x.aborts (pc := pc) (fo := fo) m
      ⟨rfl, rfl, rfl, rfl, rfl, rfl⟩ hdef rfl
    have flights : y.flights = [] := (congrArg Queue.flights fields :).trans (by simp [hf])
    exact ⟨entry, memory, vector, y, replaced, (congrArg Queue.state fields :), (congrArg Queue.slot fields :),
      (congrArg Queue.stopclass fields :), flights, (congrArg Queue.holding fields :), (congrArg Queue.copies fields :),
      (congrArg Queue.swapped fields :), (congrArg Queue.head fields :), (congrArg Queue.cmdidx fields :), state, cls⟩

end Sys2Proof.Machine
end

section
/-! SUPPORT. How a mailbox answers (R379, R381), and the operations on contexts (R382). -/

namespace Sys2Proof.Machine

/- ### Answers (R381) -/

/-- A map filled with a function on its first keys. -/
theorem smGet_foldl_range (g : Nat → DWord) (j : Nat) : ∀ n,
    smGet 0 ((List.range n).foldl (fun m k => smSet 0 m k (g k)) []) j =
    if j < n then g j else 0 := by
  intro n
  induction n with
  | zero => rfl
  | succ n ih =>
    rw [List.range_succ, List.foldl_append, List.foldl_cons, List.foldl_nil, smGet_set, ih]
    by_cases hj : j = n
    · subst hj
      rw [if_pos rfl, if_pos (Nat.lt_succ_self j)]
    · rw [if_neg hj]
      exact if_congr (by omega) rfl rfl

/-- Response word 0: TAG, STATUS and OP (R381). -/
theorem response_word (w : DWord) {status : Nat} (h : status < 256) :
    (w.extractLsb' 32 32 ++ 0#16 ++ BitVec.ofNat 8 status ++ w.extractLsb' 0 8 : DWord) =
      BitVec.ofNat 64 (w.toNat % 256 + status * 2 ^ 8 + w.toNat / 2 ^ 32 * 2 ^ 32) := by
  apply BitVec.eq_of_toNat_eq
  have hw := w.isLt
  simp only [toNat_append_sum, BitVec.extractLsb'_toNat, BitVec.toNat_ofNat, Nat.shiftRight_eq_div_pow]
  omega

/-- A function's mailbox as an answer leaves it. -/
abbrev Func.answered (e : Func) (status : Nat) (results : List DWord) : Func :=
  let w0 := smGet 0 e.mbreq 0
  let r0 : DWord := w0.extractLsb' 32 32 ++ 0#16 ++ BitVec.ofNat 8 status ++ w0.extractLsb' 0 8
  { e with
    mbrsp := (List.range 8).foldl (fun m k => smSet 0 m k ((r0 :: results).getD k 0)) []
    busy := false, await := none }

section
variable {s t u : State} {e f : Func} {fn op status : Nat} {pf : Bool} {rs : List DWord}

theorem Func.answered_rsp (e : Func) (status : Nat) (rs : List DWord) {k : Nat} (hk : k < 7) :
    smGet 0 (e.answered status rs).mbrsp (k + 1) = rs.getD k 0 := by
  rw [smGet_foldl_range _ _ 8, if_pos (by omega)]
  rfl

theorem Func.answered_word (hm : e.mbreq = f.mbreq) (h : status < 256) (rs : List DWord) :
    smGet 0 (e.answered status rs).mbrsp 0 = BitVec.ofNat 64 ((f.req 0).toNat % 256 + status * 2 ^ 8 +
      (f.req 0).toNat / 2 ^ 32 * 2 ^ 32) := by
  rw [smGet_foldl_range _ _ 8, if_pos (by decide), Func.req, ← hm]
  exact response_word _ h

/-- A masked vector is pending. -/
theorem State.raiseMsix_masked {v : Nat} (hf : s.func? fn = some f) (h : (f.msixWord (2 * v + 1)).getLsbD 32 = true) :
    ∃ pend, v ∈ pend ∧ s.raiseMsix fn v = s.setFunc { f with msixPend := pend } := by
  simp only [State.raiseMsix, hf, h, if_true]
  refine ⟨_, ?_, rfl⟩
  split
  · next has => simpa using has
  · simp

/-- Any other is a message to the host. -/
theorem State.raiseMsix_open {v : Nat} (hf : s.func? fn = some f) (h : ¬ (f.msixWord (2 * v + 1)).getLsbD 32 = true) :
    s.raiseMsix fn v = { s with msix := s.msix ++ [(fn, v)] } := by
  simp only [State.raiseMsix, hf, if_neg h]

/-- An answer of the mailbox: its response, BUSY clear, and vector 0 raised or pending (R379, R381). -/
theorem State.mbAnswered (hu : u.func? f.num = some e) (hm : e.mbreq = f.mbreq) (h : status < 256) :
    MbAnswered u (u.mbAnswer f.num status rs) f status rs := by
  have num : e.num = f.num := find_key Func.num u.funcs f.num e hu
  obtain ⟨g, hg⟩ : ∃ g, g = e.answered status rs := ⟨_, rfl⟩
  have gnum : g.num = f.num := by rw [hg]; exact num
  have found (n : Nat) : (u.setFunc g).func? n = if n = f.num then some g else u.func? n := by
    rw [State.func?_setFunc (gnum.symm ▸ hu), gnum]
  have own := (found f.num).trans (if_pos rfl)
  have eq : u.mbAnswer f.num status rs = (u.setFunc g).raiseMsix f.num 0 := by
    rw [hg]
    simp only [State.mbAnswer, hu]
  have words (k : Nat) (hk : k < 7) : smGet 0 g.mbrsp (k + 1) = rs.getD k 0 := by
    rw [hg]; exact e.answered_rsp status rs hk
  have word0 : smGet 0 g.mbrsp 0 = BitVec.ofNat 64 ((f.req 0).toNat % 256 + status * 2 ^ 8 +
      (f.req 0).toNat / 2 ^ 32 * 2 ^ 32) := by rw [hg]; exact Func.answered_word hm h rs
  have rest (p : List Nat) : ({ g with busy := true, await := none, mbrsp := [], msixPend := p } : Func) =
      { e with busy := true, await := none, mbrsp := [], msixPend := p } := by rw [hg]
  have table : e.msixWord 1 = g.msixWord 1 := by rw [hg]; rfl
  by_cases masked : (g.msixWord (2 * 0 + 1)).getLsbD 32 = true
  · obtain ⟨pend, has, raised⟩ := State.raiseMsix_masked (v := 0) own masked
    have last (n : Nat) : ((u.setFunc g).setFunc { g with msixPend := pend }).func? n =
        if n = f.num then some { g with msixPend := pend } else u.func? n := by
      rw [State.func?_setFunc (g := { g with msixPend := pend }) (f := g) (gnum.symm ▸ own), gnum, found]
      split
      · rfl
      · rfl
    rw [eq, raised]
    refine ⟨rfl, fun n hn => (last n).trans (if_neg hn), e, _, hu, (last f.num).trans (if_pos rfl), by rw [hg], by rw [hg],
      words, word0, rest [], ?_⟩
    rw [table]
    exact (if_pos masked).mpr ⟨rfl, has⟩
  · rw [eq, State.raiseMsix_open (v := 0) own masked]
    refine ⟨rfl, fun n hn => (found n).trans (if_neg hn), e, g, hu, own, by rw [hg], by rw [hg], words, word0, rest [], ?_⟩
    rw [table]
    exact (if_neg masked).mpr ⟨rfl, by rw [hg]⟩

/- ### Operations (R381, R382) -/

theorem State.asked.num (a : s.asked fn op f) : f.num = fn := find_key Func.num s.funcs fn f a.func

/-- The mailbox answers for the function that asks, which still stands with its request. -/
theorem State.asked.answered (a : s.asked fn op f) (hu : u.func? f.num = some e) (hm : e.mbreq = f.mbreq)
    (h : status < 256) : MbAnswered u (u.mbAnswer fn status rs) f status rs := by
  have x := State.mbAnswered (rs := rs) hu hm h
  rwa [a.num] at x

theorem State.asked.answered_self (a : s.asked fn op f) (h : status < 256) :
    MbAnswered s (s.mbAnswer fn status rs) f status rs :=
  a.answered (e := f) (by rw [a.num]; exact a.func) rfl h

section
variable {run : State → Func → MbOut}

/-- A mailbox that does not ask for the operation: nothing changes. -/
theorem mailbox_idle (h : ∀ f, ¬ s.asked fn op f) : mailbox fn op pf s run = .next s := by
  unfold mailbox
  cases hf : s.func? fn with
  | none => rfl
  | some f =>
    have other : (!f.busy || f.await.isSome || ((f.req 0).extractLsb' 0 8).toNat != op) = true := by
      by_contra ask
      simp only [Bool.or_eq_true, not_or, Bool.not_eq_true, Bool.not_eq_false', Option.isSome_eq_false_iff,
        Option.isNone_iff_eq_none, bne_eq_false_iff_eq, BitVec.extractLsb'_toNat, Nat.shiftRight_zero] at ask
      exact h f ⟨hf, ask.1.1, ask.1.2, ask.2⟩
    simp only [other, if_true]

/-- What a mailbox that asks for the operation comes to. -/
theorem State.asked.mailbox (a : s.asked fn op f) : mailbox fn op pf s run = .next (
    if pf && fn != 0 then s.mbAnswer fn 2 []
    else if s.fw.onlyMailbox && !(op == 0x20 || op == 0x22) then s.mbAnswer fn 1 []
    else match run s f with
      | .done t rs => t.mbAnswer fn 0 rs
      | .refused => s.mbAnswer fn 1 []
      | .later t => t) := by
  have ask : (!f.busy || f.await.isSome || ((f.req 0).extractLsb' 0 8).toNat != op) = false := by
    simp [a.busy, a.await, BitVec.extractLsb'_toNat, a.code]
  unfold Machine.mailbox
  rw [a.func]
  dsimp only
  rw [ask]
  rfl

end

/-- An operation of the mailbox from what it comes to when it is refused and when it runs. -/
theorem MbOp.of_run {i : Nat → Instr} {refused runs : State → Nat → Func → Prop}
    {done : State → Nat → Func → State → List DWord → Prop} {run : Nat → State → Func → MbOut}
    (hexec : ∀ fn s, exec (i fn) s = mailbox fn op pf s (run fn))
    (hrefused : ∀ s fn f, s.asked fn op f → refused s fn f → run fn s f = .refused)
    (hruns : ∀ s fn f, s.asked fn op f → runs s fn f → ∃ u rs e, run fn s f = .done u rs ∧ done s fn f u rs ∧
      u.func? f.num = some e ∧ e.mbreq = f.mbreq) : MbOp op pf i refused runs done where
  idle s fn h := by rw [hexec, mailbox_idle h]
  notPf s fn f a hpf hfn := by
    have other : (pf && fn != 0) = true := by simp [hpf, hfn]
    rw [hexec, a.mailbox, other]
    exact ⟨_, rfl, a.answered_self (status := 2) (by decide)⟩
  shut s fn f a hpf honly h20 h22 := by
    have own : (pf && fn != 0) = false := by simpa using hpf
    have shut : (s.fw.onlyMailbox && !(op == 0x20 || op == 0x22)) = true := by simp [honly, h20, h22]
    rw [hexec, a.mailbox, own, shut]
    exact ⟨_, rfl, a.answered_self (status := 1) (by decide)⟩
  refused s fn f a hpf h := by
    have own : (pf && fn != 0) = false := by simpa using hpf
    rw [hexec, a.mailbox, own, if_neg (by decide), hrefused s fn f a h]
    refine ⟨_, rfl, ?_⟩
    split
    · exact a.answered_self (by decide)
    · exact a.answered_self (by decide)
  done s fn f a hpf hfw h := by
    have own : (pf && fn != 0) = false := by simpa using hpf
    have boots : (s.fw.onlyMailbox && !(op == 0x20 || op == 0x22)) = false := by
      rcases hfw with hfw | hfw | hfw
      · simp [hfw]
      · simp [hfw]
      · simp [hfw]
    obtain ⟨u, rs, e, run, post, hu, hm⟩ := hruns s fn f a h
    rw [hexec, a.mailbox, own, boots, run]
    exact ⟨_, u, rs, rfl, post, a.answered (status := 0) hu hm (by decide)⟩

end

end Sys2Proof.Machine
end

section
/-! SUPPORT. The operations on contexts (R382). -/

namespace Sys2Proof.Machine

/- ### Free indices and arguments (R382) -/

/-- The lowest index below n that no member of a list has. -/
theorem find_unused {α : Type} (l : List α) (p : α → Nat → Bool) (n c : Nat) :
    ((List.range n).find? fun c => !l.any fun x => p x c) = some c ↔
      c < n ∧ (∀ x ∈ l, ¬ p x c = true) ∧ ∀ d, d < c → ∃ x ∈ l, p x d = true := by
  rw [List.find?_range_eq_some]
  simp only [List.mem_range, Bool.not_eq_true', List.any_eq_false, Bool.not_not, List.any_eq_true]
  tauto

/-- There is none where each index has a member. -/
theorem find_unused_none {α : Type} (l : List α) (p : α → Nat → Bool) (n : Nat) :
    ((List.range n).find? fun c => !l.any fun x => p x c) = none ↔ ∀ c, c < n → ∃ x ∈ l, p x c = true := by
  simp [List.find?_eq_none]

section
variable {s : State} {fn : Nat} {v : DWord} {c : Ctx}

theorem State.ctxArg_of_unused (h : s.unused fn v) : s.ctxArg fn v = none :=
  List.find?_eq_none.2 fun c hc => by simpa using h c hc

theorem State.ctxArg_mem (h : s.ctxArg fn v = some c) : c ∈ s.ctxs ∧ c.fn = fn ∧ c.c = v.toNat := by
  refine ⟨List.mem_of_find?_eq_some h, ?_⟩
  simpa using List.find?_some h

theorem State.poolBad_iff {off size : Nat} : s.poolBad off size = true ↔
    off % 65536 ≠ 0 ∨ size % 65536 ≠ 0 ∨ size < 4194304 ∨ Config.dramSize < off + size ∨
      ∃ x ∈ s.ctxs, x.poolOff < off + size ∧ off < x.poolOff + x.poolSize := by
  simp [State.poolBad, or_assoc]

end

/-- The tier of a translation root without other bits (R211). -/
theorem rootTierOf_eq {root : DWord} (h0 : root.toNat % 2 ^ 8 = 0) (h60 : root.toNat / 2 ^ 60 = 0)
    (h56 : root.toNat / 2 ^ 56 % 4 = 0) : rootTierOf root = BitVec.ofNat 2 (root.toNat / 2 ^ 58) := by
  have fields : root.extractLsb' 60 4 = 0 ∧ root.extractLsb' 56 2 = 0 ∧ root.extractLsb' 0 8 = 0 := by
    refine ⟨BitVec.eq_of_toNat_eq ?_, BitVec.eq_of_toNat_eq ?_, BitVec.eq_of_toNat_eq ?_⟩
    · simp [BitVec.extractLsb'_toNat, Nat.shiftRight_eq_div_pow]
      omega
    · simpa [BitVec.extractLsb'_toNat, Nat.shiftRight_eq_div_pow] using h56
    · simpa [BitVec.extractLsb'_toNat] using h0
  rw [rootTierOf, if_pos fields]
  apply BitVec.eq_of_toNat_eq
  simp [BitVec.extractLsb'_toNat, Nat.shiftRight_eq_div_pow]

/- ### Contexts that go (R382, R387) -/

/-- FAULT with class VF_RESET of a grid, as a function's reset raises it (R387). -/
abbrev resetFault (s : State) (fn g : Nat) : EvRec :=
  ⟨5, BitVec.ofNat 8 s.pkg, 0, BitVec.ofNat 32 (s.gridId g),
    BitVec.ofNat 64 (0xa0 + 2 ^ 8 + fn % 2 ^ 16 * 2 ^ 16), 0, 0⟩

/-- s beside t: only the traverse's records differ, and none of s has gone. -/
structure State.raisesOn (s t : State) : Prop where
  rest : t = { s with trav := { s.trav with pend := t.trav.pend } }
  kept : s.trav.pend ⊆ t.trav.pend

theorem State.raisesOn.trans {s t u : State} (h : s.raisesOn t) (k : t.raisesOn u) : s.raisesOn u :=
  ⟨by rw [k.rest, h.rest], List.Subset.trans h.kept k.kept⟩

/-- PARAM_A of such a FAULT: the class, ABORTED and the function. -/
theorem resetFault_param (fn : Nat) : (0#32 ++ BitVec.ofNat 16 fn ++ 0#7 ++ bit (stAborted == stAborted) ++ 0xa0#8 : DWord) =
    BitVec.ofNat 64 (0xa0 + 2 ^ 8 + fn % 2 ^ 16 * 2 ^ 16) := by
  have aborted : bit (stAborted == stAborted) = 1#1 := by decide
  apply BitVec.eq_of_toNat_eq
  simp only [aborted, toNat_append_sum, BitVec.toNat_ofNat]
  omega

theorem State.raiseFault_raises (s : State) (fn g : Nat) :
    s.raisesOn (s.raiseFault (s.gridId g) ⟨stAborted, 0xa0, BitVec.ofNat 16 fn, 0⟩) ∧
      resetFault s fn g ∈ (s.raiseFault (s.gridId g) ⟨stAborted, 0xa0, BitVec.ofNat 16 fn, 0⟩).trav.pend := by
  refine ⟨⟨rfl, List.subset_append_left ..⟩, List.mem_append_right _ (List.mem_singleton.2 ?_)⟩
  rw [resetFault, ← resetFault_param]
  rfl

/-- FAULT is raised for every grid of the pod context among those listed, and nothing else changes. -/
theorem State.foldl_raises (s : State) (fn : Nat) (x : BitVec 16) (l : List Nat) : ∀ t u, s.raisesOn t →
    l.foldl (fun s g => if s.rowState g != 0 && s.rowPctx g == x then
      s.raiseFault (s.gridId g) ⟨stAborted, 0xa0, BitVec.ofNat 16 fn, 0⟩ else s) t = u →
    t.raisesOn u ∧ ∀ g ∈ l, s.rowState g ≠ 0 → s.rowPctx g = x → resetFault s fn g ∈ u.trav.pend := by
  induction l with
  | nil =>
    rintro t u - rfl
    exact ⟨⟨rfl, List.Subset.refl _⟩, by simp⟩
  | cons a l ih =>
    intro t u h hu
    have plat : t.plat = s.plat := by rw [h.rest]
    have same : resetFault t fn a = resetFault s fn a := by rw [h.rest]; rfl
    have pctx : t.rowPctx a = s.rowPctx a := by rw [h.rest]; rfl
    have state : t.rowState a = s.rowState a := by rw [h.rest]; rfl
    obtain ⟨raises, member⟩ := t.raiseFault_raises fn a
    rw [List.foldl_cons, pctx, state] at hu
    by_cases mine : (s.rowState a != 0 && s.rowPctx a == x) = true
    · rw [if_pos mine] at hu
      obtain ⟨later, rest⟩ := ih _ u (h.trans raises) hu
      refine ⟨raises.trans later, fun g hg hs hx => ?_⟩
      rcases List.mem_cons.1 hg with rfl | hg
      · exact later.kept (same ▸ member)
      · exact rest g hg hs hx
    · rw [if_neg mine] at hu
      obtain ⟨later, rest⟩ := ih t u h hu
      refine ⟨later, fun g hg hs hx => ?_⟩
      rcases List.mem_cons.1 hg with rfl | hg
      · exact absurd (by simp [hs, hx]) mine
      · exact rest g hg hs hx

theorem State.faultPodGrids_raises (s : State) (fn : Nat) (x : BitVec 16) : s.raisesOn (s.faultPodGrids fn x) ∧
    ∀ g, g < 4096 → s.rowState g ≠ 0 → s.rowPctx g = x → resetFault s fn g ∈ (s.faultPodGrids fn x).trav.pend := by
  obtain ⟨raises, faults⟩ := s.foldl_raises fn x (List.range 4096) s (s.faultPodGrids fn x)
    ⟨rfl, List.Subset.refl _⟩ (by rw [State.faultPodGrids])
  exact ⟨raises, fun g hg => faults g (List.mem_range.2 hg)⟩

/-- A map all of whose values have been replaced holds values so replaced, or its default. -/
theorem smGet_foldl_replaced {α : Type} [DecidableEq α] {d : α} {f : α → α} {p : α → Prop} (hf : ∀ v, p (f v)) (k : Nat)
    (l : List (Nat × α)) : ∀ m, (p (smGet d m k) ∨ k ∈ l.map Prod.fst) →
      p (smGet d (l.foldl (fun m e => smSet d m e.1 (f e.2)) m) k) := by
  induction l with
  | nil => exact fun m h => h.resolve_right (by simp)
  | cons a l ih =>
    intro m h
    refine ih _ ?_
    rw [smGet_set]
    by_cases hk : k = a.1
    · rw [if_pos hk]
      exact .inl (hf a.2)
    · rw [if_neg hk]
      exact h.imp id fun hl => (List.mem_cons.1 hl).resolve_left hk

theorem smGet_replaced {α : Type} [DecidableEq α] {d : α} {f : α → α} {p : α → Prop} (hf : ∀ v, p (f v)) (hd : p d)
    (l : List (Nat × α)) (k : Nat) : p (smGet d (l.foldl (fun m e => smSet d m e.1 (f e.2)) l) k) := by
  refine smGet_foldl_replaced hf k l l ?_
  by_cases hk : k ∈ l.map Prod.fst
  · exact .inr hk
  · left
    have absent : l.find? (fun e => e.1 == k) = none :=
      List.find?_eq_none.2 fun e he hek => hk (List.mem_map.2 ⟨e, he, by simpa using hek⟩)
    rw [smGet_eq_find, absent]
    exact hd

/-- Queues removed one after the other. -/
theorem State.foldl_removeQueue (l : List Queue) : ∀ s : State,
    s.closes (l.foldl (fun s q => s.removeQueue q.key) s) ∧
      ∀ q ∈ l, ∀ r ∈ (l.foldl (fun s q => s.removeQueue q.key) s).queues, r.key ≠ q.key := by
  induction l with
  | nil => exact fun s => ⟨.refl s, by simp⟩
  | cons a l ih =>
    intro s
    obtain ⟨first, gone⟩ := (State.closes.refl s).removeQueue a.key
    obtain ⟨later, rest⟩ := ih (s.removeQueue a.key)
    refine ⟨first.trans later, fun q hq r hr => ?_⟩
    rcases List.mem_cons.1 hq with rfl | hq
    · obtain ⟨y, hy, tag⟩ := List.mem_map.1 (later.queues (List.mem_map_of_mem hr))
      exact (Prod.mk.inj tag).1 ▸ gone y hy
    · exact rest q hq r hr

/-- So no queue of the context is left. -/
theorem State.removeQueues_of (s : State) (n : Nat) {t : State}
    (ht : (s.queues.filter fun q => q.ctx == n).foldl (fun s q => s.removeQueue q.key) s = t) :
    s.closes t ∧ ∀ r ∈ t.queues, r.ctx ≠ n := by
  obtain ⟨closes, gone⟩ := s.foldl_removeQueue (s.queues.filter fun q => q.ctx == n)
  rw [ht] at closes gone
  refine ⟨closes, fun r hr hn => ?_⟩
  obtain ⟨y, hy, tag⟩ := List.mem_map.1 (closes.queues (List.mem_map_of_mem hr))
  obtain ⟨key, ctx⟩ := Prod.mk.inj tag
  exact gone y (List.mem_filter.2 ⟨hy, by simpa [ctx] using hn⟩) r hr key.symm

section
variable {s t : State} {c : Ctx} {fn : Nat}

/-- The traverse's records of a context's pod grids, raised once its queues have gone (R382, R387). -/
theorem State.closes.podEnds (h : s.closes t) (hc : c.fn = fn) {u : State}
    (hu : (c.pctx.map fun x => t.faultPodGrids c.fn x).getD t = u) : t.raisesOn u ∧ s.podEnds u fn c := by
  subst hc
  cases hx : c.pctx with
  | none =>
    rw [hx, Option.map_none, Option.getD_none] at hu
    subst hu
    exact ⟨⟨rfl, List.Subset.refl _⟩, fun x g hp => absurd (hx.symm.trans hp) (by simp)⟩
  | some x =>
    rw [hx, Option.map_some, Option.getD_some] at hu
    obtain ⟨raises, faults⟩ := t.faultPodGrids_raises c.fn x
    rw [hu] at raises faults
    refine ⟨raises, fun y g hp hg hs hy => ?_⟩
    obtain rfl : x = y := Option.some.inj (hx.symm.trans hp)
    have word (k : Nat) : t.pw k = s.pw k := by rw [State.pw, h.plat]; rfl
    have state : t.rowState g = s.rowState g := by rw [State.rowState, State.pf, word]; rfl
    have pctx : t.rowPctx g = s.rowPctx g := by rw [State.rowPctx, State.pf, word]; rfl
    have id : t.gridId g = s.gridId g := by rw [State.gridId, State.pf, word]; rfl
    have fault := faults g hg (state ▸ hs) (pctx.trans hy)
    rwa [resetFault, id, h.pkg] at fault

/-- A context freed is gone with all that was its own, and the others stay (R382, R387). -/
theorem State.freeCtx_gone (s : State) (hc : c.fn = fn) : (s.freeCtx c).ctxGone c.num ∧ s.podEnds (s.freeCtx c) fn c ∧
    (∀ d ∈ s.ctxs, d.num ≠ c.num → ∃ e ∈ (s.freeCtx c).ctxs, e.num = d.num) ∧
      ∀ n, ((s.freeCtx c).func? n).map (·.mbreq) = (s.func? n).map (·.mbreq) := by
  obtain ⟨t, ht⟩ : ∃ t, (s.queues.filter fun q => q.ctx == c.num).foldl (fun s q => s.removeQueue q.key) s = t :=
    ⟨_, rfl⟩
  obtain ⟨u, hu⟩ : ∃ u, (c.pctx.map fun x => t.faultPodGrids c.fn x).getD t = u := ⟨_, rfl⟩
  obtain ⟨closes, queues⟩ := s.removeQueues_of c.num ht
  obtain ⟨raises, ends⟩ := closes.podEnds hc hu
  have same : t.closes u := by rw [raises.rest]; exact .of_eq rfl
  have eq : s.freeCtx c = { u with
      ctxs := u.ctxs.filter fun x => x.num != c.num
      ats := u.ats.filter fun p => p.1 / 2 ^ 48 != c.num
      priReqs := u.priReqs.filter fun r => r.ctx != c.num
      psubs := u.psubs.filter fun p => p.ctx != c.num
      acache := u.acache.foldl (fun m e =>
        smSet [] m e.1 (e.2.filter fun (i : Cached) => i.ctx != c.num)) u.acache
      cores := u.cores.foldl (fun m e =>
        smSet Core.reset m e.1 { e.2 with icache := e.2.icache.filter fun l => l.ctx != c.num }) u.cores } := by
    rw [State.freeCtx, ht]
    cases hx : c.pctx with
    | none =>
      rw [hx, Option.map_none, Option.getD_none] at hu
      rw [hu]
    | some x =>
      rw [hx, Option.map_some, Option.getD_some] at hu
      dsimp only
      rw [hu]
  rw [eq]
  refine ⟨⟨?_, ?_, ?_, ?_, ?_⟩, ends, fun d hd hn => ?_, fun n => (same.funcs n).trans (closes.funcs n)⟩
  · exact List.find?_eq_none.2 fun x hx => by simpa using (List.mem_filter.1 hx).2
  · exact fun q hq => queues q (by rw [raises.rest] at hq; exact hq)
  · exact fun p hp => by simpa using (List.mem_filter.1 hp).2
  · exact smGet_replaced (d := []) (f := fun v => v.filter fun (i : Cached) => i.ctx != c.num)
      (p := fun (v : List Cached) => ∀ e ∈ v, e.ctx ≠ c.num)
      (fun v e he => by simpa using (List.mem_filter.1 he).2) (by simp) u.acache
  · exact smGet_replaced (d := Core.reset)
      (f := fun v : Core => { v with icache := v.icache.filter fun l => l.ctx != c.num })
      (p := fun v => ∀ l ∈ v.icache, l.ctx ≠ c.num)
      (fun v l hl => by simpa using (List.mem_filter.1 hl).2) (by simp [Core.reset]) u.cores
  · have nums : d.num ∈ u.ctxs.map (·.num) := by
      rw [same.ctxs, closes.ctxs]
      exact List.mem_map_of_mem hd
    obtain ⟨e, he, num⟩ := List.mem_map.1 nums
    exact ⟨e, List.mem_filter.2 ⟨he, by simpa [num] using hn⟩, num⟩

end

end Sys2Proof.Machine
end

section
/-! SUPPORT. CTX_NEW, CTX_FREE and PODBIND (R382). -/

namespace Sys2Proof.Machine

section
variable {s : State} {f : Func} {fn op : Nat}

theorem State.asked.own (a : s.asked fn op f) : s.func? f.num = some f := by rw [a.num]; exact a.func

theorem State.withCtx_setCtx {c d : Ctx} (h : s.ctx? c.num = some d) : s.withCtx (s.setCtx c) c := by
  refine ⟨rfl, fun n => ?_⟩
  split
  · next hn => rw [hn, setCtx_ctx?_self h]
  · next hn => exact setCtx_ctx?_other hn

/-- Where no context index of the function is free CTX_NEW refuses; else it takes the lowest. -/
theorem find_ctx {c : Nat} : (List.range 256).find? (fun c => !s.ctxs.any fun x => x.fn == fn && x.c == c) = some c ↔
    c < 256 ∧ (∀ x ∈ s.ctxs, ¬ (x.fn = fn ∧ x.c = c)) ∧ ∀ d, d < c → ∃ x ∈ s.ctxs, x.fn = fn ∧ x.c = d := by
  rw [find_unused s.ctxs (fun x c => x.fn == fn && x.c == c)]
  simp

end

/-- R382: the operations on contexts. -/
theorem contextOperations : Claims.ContextOperations := by
  refine ⟨MbOp.of_run (fun fn s => rfl) ?newRefused ?new, MbOp.of_run (fun fn s => rfl) ?freeRefused ?free,
    MbOp.of_run (fun fn s => rfl) ?bindRefused ?bind⟩
  case newRefused =>
    intro s fn f a h
    dsimp only
    split
    · rfl
    · next c hc =>
      obtain ⟨hlt, unused, -⟩ := find_ctx.1 hc
      have bad := State.poolBad_iff (s := s) (off := (f.req 2).toNat) (size := (f.req 3).toNat)
      refine if_pos ?_
      rcases h with h | h | h
      · obtain ⟨x, hx, hfn⟩ := h c hlt
        exact absurd hfn (unused x hx)
      · exact .inl h
      · exact .inr (.inl (bad.2 h))
  case new =>
    rintro s fn f a ⟨len, pool, reset, c0, hc0, free0⟩
    dsimp only
    split
    · next hc =>
      obtain ⟨x, hx, hfn⟩ := (find_unused_none s.ctxs (fun x c => x.fn == fn && x.c == c) 256).1 hc c0 hc0
      exact absurd (by simpa using hfn) (free0 x hx)
    · next c hc =>
      obtain ⟨hlt, unused, lowest⟩ := find_ctx.1 hc
      refine ⟨_, _, f, if_neg (by simp [pool, reset]; omega), ?_, a.own, rfl⟩
      refine ⟨c, _, hlt, unused, lowest, rfl, ?_, rfl, rfl, rfl, rfl, rfl, rfl, rfl, rfl, rfl, rfl, rfl, ?_, ?_⟩
      · rw [BitVec.setWidth_eq_append (by decide)]
        rfl
      · simp [BitVec.extractLsb'_toNat, Nat.shiftRight_eq_div_pow]
      · exact rootTierOf_eq
  case freeRefused =>
    intro s fn f a h
    rw [State.ctxArg_of_unused h]
  case free =>
    rintro s fn f a ⟨c, names⟩
    obtain ⟨hc, found, num⟩ := names
    obtain ⟨-, hfn, -⟩ := State.ctxArg_mem hc
    obtain ⟨gone, ends, others, funcs⟩ := s.freeCtx_gone hfn
    have mbreq := funcs f.num
    rw [a.own, Option.map_some] at mbreq
    obtain ⟨e, he, hm⟩ := Option.map_eq_some_iff.1 mbreq
    rw [hc]
    exact ⟨_, _, e, rfl, ⟨rfl, c, ⟨hc, found, num⟩, gone, ends, others⟩, he, hm⟩
  case bindRefused =>
    intro s fn f a h
    have low : ((f.req 2).extractLsb' 0 16).toNat = (f.req 2).toNat % 2 ^ 16 := by simp [BitVec.extractLsb'_toNat]
    split
    · rfl
    · next c hc =>
      refine if_pos ?_
      rcases h with h | h | ⟨c', d, x, names, hd, hn, hx, hv⟩
      · exact absurd (hc.symm.trans (State.ctxArg_of_unused h)) (by simp)
      · exact .inl (by omega)
      · obtain rfl : c' = c := Option.some.inj (names.1.symm.trans hc)
        obtain rfl : x = (f.req 2).extractLsb' 0 16 := BitVec.eq_of_toNat_eq (by have := x.isLt; omega)
        exact .inr (List.any_eq_true.2 ⟨d, hd, by simp [hn, hx]⟩)
  case bind =>
    rintro s fn f a ⟨small, c, ⟨hc, found, num⟩, others⟩
    have width : (f.req 2).extractLsb' 0 16 = (f.req 2).setWidth 16 := (BitVec.setWidth_eq_extractLsb' (by decide)).symm
    rw [hc, width]
    refine ⟨_, _, f, if_neg ?_, ⟨rfl, c, ⟨hc, found, num⟩, State.withCtx_setCtx (d := c) found⟩, a.own, rfl⟩
    rw [not_or, not_not, Bool.not_eq_true, List.any_eq_false]
    refine ⟨?_, fun d hd => ?_⟩
    · rw [BitVec.toNat_setWidth, Nat.mod_eq_of_lt small]
    · simpa using others d hd

end Sys2Proof.Machine
end

section
/-! SUPPORT. Q_REG and Q_DEL (R29, R39, R382), and the statement about contexts and queues. -/

namespace Sys2Proof.Machine

/- ### Fields of a run of bytes -/

theorem leNat_append (ys : List Byte) : ∀ xs : List Byte, leNat (xs ++ ys) = leNat xs + 256 ^ xs.length * leNat ys := by
  intro xs
  induction xs with
  | nil => simp [leNat]
  | cons b t ih =>
    rw [List.cons_append, leNat, leNat, ih, List.length_cons, Nat.pow_succ]
    ring

/-- A run of bytes is zero where its two parts are. -/
theorem State.num_add_eq_zero {s : State} {a m n : Nat} (h1 : s.num a m = 0) (h2 : s.num (a + m) n = 0) :
    s.num a (m + n) = 0 := by
  have split : s.dram.bytes a (m + n) = s.dram.bytes a m ++ s.dram.bytes (a + m) n := by
    rw [Memory.bytes_eq_map, Memory.bytes_eq_map, Memory.bytes_eq_map, ← List.map_append, List.range'_append_1]
  rw [State.num] at h1 h2 ⊢
  rw [split, leNat_append, h1, h2, Nat.mul_zero]

/-- A field that begins at a byte of a run, from the bytes it lies in. -/
theorem bitsOf_bytes_num (m : Memory) (a : Nat) {i k n w : Nat} (h : i + k ≤ n) (hw : w ≤ 8 * k) :
    bitsOf (m.bytes a n) (8 * i) w = leNat (m.bytes (a + i) k) % 2 ^ w := by
  have low : leNat ((m.bytes a n).take i) < 256 ^ i := by
    have := leNat_lt ((m.bytes a n).take i)
    rwa [List.length_take, Memory.length_bytes, Nat.min_eq_left (by omega)] at this
  have high : leNat ((m.bytes a n).drop i) = leNat (m.bytes a n) / 256 ^ i := by
    have parts := leNat_append ((m.bytes a n).drop i) ((m.bytes a n).take i)
    rw [List.take_append_drop, List.length_take, Memory.length_bytes, Nat.min_eq_left (by omega)] at parts
    rw [parts, Nat.add_mul_div_left _ _ (Nat.pow_pos (by decide)), Nat.div_eq_of_lt low, Nat.zero_add]
  rw [← Memory.bytes_part m a h, Tests.leNat_take, high, bitsOf, show (256 : Nat) = 2 ^ 8 from rfl, ← Nat.pow_mul,
    ← Nat.pow_mul, Nat.mod_mod_of_dvd _ (Nat.pow_dvd_pow 2 hw)]

/- ### Registration (R29) -/

section
variable {s : State} {c : Ctx} {p i home : Nat} {hdr : DWord}

/-- What a new queue takes from its header in memory. -/
theorem newQueue_fields : let q := newQueue c (s.dram.bytes p 128) i hdr home
    q.qnum = s.num p 2 ∧ q.msixv = s.num (p + 4) 2 ∧ q.ringBase.toNat = s.num (p + 8) 8 % 2 ^ 57 ∧
      q.cqBase.toNat = s.num (p + 16) 8 % 2 ^ 57 ∧ q.prio = s.num (p + 24) 1 % 8 ∧
      q.ringLog2 = s.num (p + 25) 1 % 32 ∧ q.cqLog2 = s.num (p + 26) 1 % 32 := by
  intro q
  have field {j k w : Nat} (h : j + k ≤ 128) (hw : w ≤ 8 * k) :
      bitsOf (s.dram.bytes p 128) (8 * j) w = s.num (p + j) k % 2 ^ w := bitsOf_bytes_num s.dram p h hw
  have whole (a : Nat) : s.num a 2 % 2 ^ 16 = s.num a 2 := by
    have := leNat_lt (s.dram.bytes a 2)
    rw [Memory.length_bytes] at this
    exact Nat.mod_eq_of_lt this
  have addr (n : Nat) : (BitVec.ofNat 64 (n % 2 ^ 57)).toNat = n % 2 ^ 57 := by
    rw [BitVec.toNat_ofNat]
    omega
  refine ⟨(field (j := 0) (by decide) (by decide)).trans (whole p),
    (field (j := 4) (by decide) (by decide)).trans (whole (p + 4)), ?_, ?_, field (j := 24) (k := 1) (by decide) (by decide),
    field (j := 25) (k := 1) (by decide) (by decide), field (j := 26) (k := 1) (by decide) (by decide)⟩
  · exact (congrArg (fun n => (BitVec.ofNat 64 n).toNat) (field (j := 8) (k := 8) (by decide) (by decide))).trans (addr _)
  · exact (congrArg (fun n => (BitVec.ofNat 64 n).toNat) (field (j := 16) (k := 8) (by decide) (by decide))).trans (addr _)

/-- A queue as registration leaves it in memory: the fields that the device writes are zero (R29). -/
theorem State.registered {q : Queue} {rs : List (Nat × Nat)}
    (m : ({ s with free := s.free + 1, queues := s.queues ++ [q] } : State).headerMem q.ctx q.header c p rs)
    (zero : q.state = 0 ∧ q.uilatch = false ∧ q.head = 0 ∧ q.cmdidx = 0 ∧ q.cqdone = 0 ∧ q.tail = 0 ∧
      q.wakelatch = 0 ∧ q.saveptr = 0 ∧ q.stopclass = 0) :
    ∃ u, ({ s with free := s.free + 1, queues := s.queues ++ [q] }.putQueue q).saveHeader q = .ok u ∧
      u.funcs = s.funcs ∧ (∀ x ∈ s.queues, x.key ≠ q.key → x ∈ u.queues) ∧ q ∈ u.queues ∧
      u.num (p + 32) 1 = 0 ∧ u.num (p + 48) 48 = 0 ∧ u.num (p + 96) 1 = 0 ∧
      dramBut s u [(p + 32, 1), (p + 48, 48), (p + 96, 1)] := by
  obtain ⟨hstate, hui, hhead, hcmd, hcq, htail, hwake, hsave, hstop⟩ := zero
  have y := m.putQueue
  obtain ⟨u, saved, x⟩ := (m.put y).saveHeader
  obtain ⟨head, cmdidx, cqdone, tail, saveptr⟩ := x.fields
  have kept (a n : Nat) (ha : ∀ e ∈ [(p + 48, 32), (p + 88, 8)], a + n ≤ e.1 ∨ e.1 + e.2 ≤ a) :
      u.num a n = (State.putQueue { s with free := s.free + 1, queues := s.queues ++ [q] } q).num a n :=
    State.num_of_agree fun k hk => x.memory (a + k) fun e he => by have := ha e he; omega
  have wake := (kept (p + 80) 8 (by simp)).trans y.wake
  have queues : u.queues = (s.queues ++ [q]).map fun r => if r.key = q.key then q else r := by
    rw [x.rest, y.rest]; rfl
  refine ⟨u, saved, by rw [x.rest, y.rest]; rfl, fun r hr hk => ?_, ?_, ?_, ?_, ?_, fun a ha => ?_⟩
  · rw [queues]
    exact List.mem_map.2 ⟨r, List.mem_append_left _ hr, if_neg hk⟩
  · rw [queues]
    exact List.mem_map.2 ⟨q, List.mem_append_right _ (List.mem_singleton.2 rfl), if_pos rfl⟩
  · rw [kept (p + 32) 1 (by simp), y.byte (by omega), hstate, hui]
    rfl
  · have z (n : Nat) (v : DWord) (h : u.num n 8 = v.toNat) (hv : v = 0) : u.num n 8 = 0 := by rw [h, hv]; rfl
    exact State.num_add_eq_zero (n := 40) (z _ _ head hhead) (State.num_add_eq_zero (n := 32) (z _ _ cmdidx hcmd)
      (State.num_add_eq_zero (n := 24) (z _ _ cqdone hcq) (State.num_add_eq_zero (n := 16) (z _ _ tail htail)
        (State.num_add_eq_zero (n := 8) (z _ _ wake hwake) (z _ _ saveptr hsave)))))
  · rw [kept (p + 96) 1 (by simp), y.cls, hstop]
    rfl
  · simp only [List.mem_cons, List.not_mem_nil, or_false, forall_eq_or_imp, forall_eq] at ha
    exact (x.memory a (by simp; omega)).trans (y.memory a (by simp; omega))

end

theorem State.closes.func {s t : State} {n : Nat} {f : Func} (h : s.closes t) (hf : s.func? n = some f) :
    ∃ e, t.func? n = some e ∧ e.mbreq = f.mbreq := by
  have mbreq := h.funcs n
  rw [hf, Option.map_some] at mbreq
  exact Option.map_eq_some_iff.1 mbreq

/-- A queue's header that translates steadily is read whole. -/
theorem State.steady.readQ {s : State} {c : Ctx} {va p : Nat} (st : s.steady c va 128 p) :
    s.readVa c va 128 = .ok (s.dram.bytes p 128) :=
  st.readOn .core (off := 0) (by decide) (by decide)

theorem find_index {s : State} {fn i : Nat} :
    (List.range 512).find? (fun i => !s.queues.any fun q => q.fn == fn && q.index == i) = some i ↔
      i < 512 ∧ (∀ q ∈ s.queues, ¬ (q.fn = fn ∧ q.index = i)) ∧ ∀ j, j < i → ∃ q ∈ s.queues, q.fn = fn ∧ q.index = j := by
  rw [find_unused s.queues (fun q i => q.fn == fn && q.index == i)]
  simp

/-- R29, R39, R382: the operations on queues. -/
theorem queueOperations : Claims.QueueOperations := by
  refine ⟨MbOp.of_run (fun fn s => rfl) ?regRefused ?reg, MbOp.of_run (fun fn s => rfl) ?delRefused ?del⟩
  case regRefused =>
    intro s fn f a h
    split
    · rfl
    · next c hc =>
      split
      · rfl
      · next aligned =>
        rcases h with h | h | ⟨c', p, names, -, st, h⟩
        · exact absurd (hc.symm.trans (State.ctxArg_of_unused h)) (by simp)
        · exact absurd h aligned
        · obtain rfl : c' = c := Option.some.inj (names.1.symm.trans hc)
          rw [st.readQ]
          cases hi : (List.range 512).find? fun i => !s.queues.any fun q => q.fn == fn && q.index == i with
          | none => rfl
          | some i =>
            obtain ⟨lt, free, -⟩ := find_index.1 hi
            refine if_pos ?_
            rcases h with h | h | ⟨q, hq, hctx, hnum⟩
            · obtain ⟨q, hq, own⟩ := h i lt
              exact absurd own (free q hq)
            · rw [h]
              rfl
            · rw [Bool.or_eq_true]
              refine .inr (List.any_eq_true.2 ⟨q, hq, ?_⟩)
              rw [newQueue_fields.1]
              simp [hctx, hnum]
  case reg =>
    rintro s fn f a ⟨c, p, names, aligned, st, ⟨i0, hi0, free0⟩, legal, qnums⟩
    obtain ⟨hc, found, num⟩ := names
    obtain ⟨-, rfl, -⟩ := State.ctxArg_mem hc
    have fresh : ∃ i, (List.range 512).find? (fun i => !s.queues.any fun q => q.fn == c.fn && q.index == i) = some i := by
      refine Option.isSome_iff_exists.1 (List.find?_isSome.2 ⟨i0, List.mem_range.2 hi0, ?_⟩)
      simpa using fun q hq h1 h2 => free0 ⟨q, hq, h1, h2⟩
    obtain ⟨i, hi⟩ := fresh
    obtain ⟨lt, free, lowest⟩ := find_index.1 hi
    obtain ⟨q, hq⟩ : ∃ q, q = newQueue c (s.dram.bytes p 128) i (f.req 2) (Config.homeDie s.free).toNat := ⟨_, rfl⟩
    have m : ({ s with free := s.free + 1, queues := s.queues ++ [q] } : State).headerMem c.num (f.req 2) c p
        [(p, 128)] := ⟨found, st.keep ⟨st.1, rfl, rfl, rfl, dramBut_refl _ _⟩, List.mem_singleton.2 rfl⟩
    obtain ⟨hnum, msixv, ring, cq, prio, ringLog2, cqLog2⟩ := newQueue_fields (s := s) (c := c) (p := p) (i := i)
      (home := (Config.homeDie s.free).toNat) (hdr := f.req 2)
    obtain ⟨u, saved, funcs, others, member, z32, z48, z96, memory⟩ :=
      State.registered (q := q) (by rw [hq]; exact m) (by rw [hq]; exact ⟨rfl, rfl, rfl, rfl, rfl, rfl, rfl, rfl, rfl⟩)
    have new : (!queueLegal (s.dram.bytes p 128) ||
        s.queues.any fun p => p.ctx == c.num && p.qnum == q.qnum) = false := by
      rw [legal, hq, hnum]
      simpa using fun r hr hctx => qnums r hr hctx
    rw [hc]
    dsimp only
    rw [if_neg (by simp [aligned]), st.readQ, hi]
    dsimp only
    rw [← hq, new, saved]
    rw [← hq] at hnum msixv ring cq prio ringLog2 cqLog2
    have key : q.key = 512 * c.fn + i := by rw [hq]; rfl
    have home : q.home = (Config.homeDie s.free).toNat := by rw [hq]; rfl
    have idle : q.state = 0 ∧ q.slot = none ∧ q.head = 0 ∧ q.cmdidx = 0 ∧ q.cqdone = 0 ∧ q.tail = 0 ∧ q.wakelatch = 0 ∧
        q.uilatch = false ∧ q.saveptr = 0 ∧ q.stopclass = 0 := by
      rw [hq]
      exact ⟨rfl, rfl, rfl, rfl, rfl, rfl, rfl, rfl, rfl, rfl⟩
    obtain ⟨state, slot, head, cmdidx, cqdone, tail, wake, uilatch, saveptr, stop⟩ := idle
    refine ⟨u, _, f, rfl, ⟨c, p, i, q, ⟨hc, found, num⟩, st, lt, lowest, fun ⟨r, hr, own⟩ => free r hr own, ?_,
      fun x hx hk => others x hx (key ▸ hk), member, home, key, by rw [hq]; rfl, by rw [hq]; rfl, by rw [hq]; rfl,
      by rw [hq]; rfl, hnum, msixv, ring, cq, prio, ringLog2, cqLog2, state, slot, head, cmdidx, cqdone, tail, wake,
      uilatch, saveptr, stop, z32, z48, z96, memory⟩, ?_, rfl⟩
    · rw [home]
    · rw [State.func?, funcs]
      exact a.own
  case delRefused =>
    intro s fn f a h
    have none_ : s.queues.find? (fun q => q.fn == fn && q.index == (f.req 1).toNat) = none :=
      List.find?_eq_none.2 fun q hq hx => h ⟨q, hq, by simpa using hx⟩
    rw [none_]
  case del =>
    rintro s fn f a ⟨r, hr, hfn, hi⟩
    obtain ⟨q, hq⟩ := Option.isSome_iff_exists.1 (List.find?_isSome.2 ⟨r, hr, by simp [hfn, hi]⟩ :
      (s.queues.find? fun q => q.fn == fn && q.index == (f.req 1).toNat).isSome = true)
    obtain ⟨closes, gone⟩ := (State.closes.refl s).removeQueue q.key
    obtain ⟨e, he, hm⟩ := closes.func a.own
    have own : q.fn = fn ∧ q.index = (f.req 1).toNat := by simpa using List.find?_some hq
    rw [hq]
    exact ⟨_, _, e, rfl, ⟨rfl, q, List.mem_of_find?_eq_some hq, own.1, own.2, gone⟩, he, hm⟩

/-- Settles O31, from what each operation comes to when it is refused and when it runs. -/
theorem contextAndQueueOperations : Obligations.ContextAndQueueOperations := ⟨contextOperations, queueOperations⟩

end Sys2Proof.Machine
end

section
/-! SUPPORT. The end of a shootdown that the host began (R216, R218), which tells the host. -/

namespace Sys2Proof.Machine

/-- Once no old access is left, a shootdown that no mailbox waits for ends with a message to the host (R218). -/
theorem exec_shootdownComplete_host {s : State} {x : Shootdown} (found : s.shoots.find? (fun y => y.id == x.id) = some x)
    (hfn : x.fn = none) (old : s.oldAccess x.ctx = false) : exec (.shootdownComplete x.id) s = .next { s with
      shoots := s.shoots.filter fun y => y.id != x.id
      outbox := s.outbox ++ [.atsDone (atsKey x.ctx (x.addr.toNat / 2 ^ 16))] } := by
  rw [show exec (.shootdownComplete x.id) s = execShootdownComplete x.id s from rfl]
  simp only [execShootdownComplete, found, old, hfn, Option.isSome_none, Bool.false_eq_true, if_false]

/-- Refutes O32: the statement says that SHOOTDOWN_COMPLETE of a shootdown that the host began drops it and changes nothing
else, but the host is told of its end (R218), so that a message is handed to the fabric: with one such shootdown in a
package after reset the outbox does not stay empty. -/
theorem not_memoryAndLimitOperations : ¬ Obligations.MemoryAndLimitOperations := by
  rintro ⟨⟨-, -, -, -, -, complete, -⟩, -⟩
  obtain ⟨t, run, post⟩ := complete ⟨0, 0, 0, 1, none⟩ { State.reset with shoots := [⟨0, 0, 0, 1, none⟩] }
    ⟨rfl, rfl, fun b hb => nomatch hb⟩
  rw [exec_shootdownComplete_host rfl rfl rfl] at run
  cases run
  cases congrArg State.outbox post

end Sys2Proof.Machine
end

section
/-! SUPPORT. The mailbox's operations on the pod (R71, R383): what waits for an event, what a formation image leaves of the
plat, and the statement. -/

namespace Sys2Proof.Machine

/- ### Operations answered later (R381, R383) -/

/-- An operation that waits, from what it comes to when it is refused and when it runs. -/
theorem MbWait.of_run {op : Nat} {pf : Bool} {i : Nat → Instr} {refused runs : State → Nat → Func → Prop}
    {await : State → Func → MbAwait} {effect : State → Nat → Func → State} {run : Nat → State → Func → MbOut}
    (hexec : ∀ fn s, exec (i fn) s = mailbox fn op pf s (run fn))
    (hrefused : ∀ s fn f, s.asked fn op f → refused s fn f → run fn s f = .refused)
    (hruns : ∀ s fn f, s.asked fn op f → runs s fn f →
      run fn s f = .later ((effect s fn f).awaitFor fn (await s f)) ∧ (effect s fn f).funcs = s.funcs) :
    MbWait op pf i refused runs await effect where
  answered := MbOp.of_run hexec hrefused fun _ _ _ _ h => h.elim
  waits s fn f a hpf hfw h := by
    obtain ⟨later, funcs⟩ := hruns s fn f a h
    have own : (pf && fn != 0) = false := by simpa using hpf
    have asks (n : Nat) : (effect s fn f).func? n = s.func? n := by rw [State.func?, funcs]; rfl
    have waiting : (effect s fn f).awaitFor fn (await s f) =
        (effect s fn f).setFunc { f with await := some (await s f) } := by
      rw [State.awaitFor, asks, a.func]
    have self : (effect s fn f).func? ({ f with await := some (await s f) } : Func).num = some f := by
      rw [asks]; exact a.own
    refine ⟨(effect s fn f).awaitFor fn (await s f), ?_, by rw [waiting, ← funcs]; rfl, fun n => ?_⟩
    · rw [hexec, a.mailbox, own, hfw, later]
      rfl
    rw [waiting, State.func?_setFunc self, asks]
    exact if_congr (by rw [a.num]) rfl rfl

/- ### Plats written word by word (R52) -/

theorem platGet_platSet (p : List (Nat × DWord)) (n k : Nat) (v : DWord) :
    platGet (platSet p n v) k = if k = n then v else platGet p k :=
  State.pw_setPw { State.reset with plat := p } n k v

/-- Words written elsewhere leave a word alone. -/
theorem platGet_foldl_platSet_out {k : Nat} (l : List (Nat × DWord)) : ∀ p : List (Nat × DWord),
    (∀ e ∈ l, e.1 ≠ k) → platGet (l.foldl (fun m e => platSet m e.1 e.2) p) k = platGet p k := by
  induction l with
  | nil => exact fun p _ => rfl
  | cons e t ih =>
    intro p h
    rw [List.foldl_cons, ih _ fun x hx => h x (List.mem_cons_of_mem _ hx), platGet_platSet,
      if_neg (h e List.mem_cons_self).symm]

/-- Each of some different words that are written reads back. -/
theorem platGet_foldl_platSet_mem {e : Nat × DWord} (l : List (Nat × DWord)) : ∀ p : List (Nat × DWord),
    (l.map fun x => x.1).Nodup → e ∈ l → platGet (l.foldl (fun m e => platSet m e.1 e.2) p) e.1 = e.2 := by
  induction l with
  | nil => exact fun p _ h => nomatch h
  | cons x t ih =>
    intro p hn h
    obtain ⟨new, rest⟩ := List.nodup_cons.1 (List.map_cons ▸ hn)
    rw [List.foldl_cons]
    rcases List.mem_cons.1 h with rfl | h
    · rw [platGet_foldl_platSet_out t _ fun y hy hk => new (List.mem_map.2 ⟨y, hy, hk⟩), platGet_platSet, if_pos rfl]
    · exact ih _ rest h

/- ### The formation image (R71, R383) -/

/-- The words of an image of n words that a formation loads. -/
theorem State.pw_loadFormation (s : State) (g : Nat → DWord) (n k : Nat) :
    (s.loadFormation ((List.range n).map g)).pw k =
      if (k = 2 ∨ k = 4 ∨ 8 ≤ k) ∧ k < n then g k else platReset k := by
  have words : (List.range ((List.range n).map g).length).zip ((List.range n).map g) =
      (List.range n).map fun k => (k, g k) := by
    rw [List.length_map, List.length_range]
    exact (congrArg (fun l => List.zip l ((List.range n).map g)) (List.map_id (List.range n)).symm).trans List.zip_map'
  have nodup : (((List.range n).map fun k => (k, g k)).map fun e => e.1).Nodup := by
    rw [List.map_map]
    exact (List.map_id _).symm ▸ List.nodup_range
  unfold State.loadFormation State.pw
  rw [words]
  dsimp only
  split
  · next h =>
    refine platGet_foldl_platSet_mem (e := (k, g k)) _ _ (nodup.sublist (List.filter_sublist.map _)) ?_
    rw [List.mem_filter]
    exact ⟨List.mem_map.2 ⟨k, List.mem_range.2 h.2, rfl⟩, by simpa [or_assoc] using h.1⟩
  · next h =>
    refine platGet_foldl_platSet_out _ _ fun e he hk => h ?_
    obtain ⟨hm, hp⟩ := List.mem_filter.1 he
    obtain ⟨j, hj, rfl⟩ := List.mem_map.1 hm
    obtain rfl : j = k := hk
    exact ⟨by simpa [or_assoc] using hp, List.mem_range.1 hj⟩

/-- The words of a formation image, read one by one. -/
theorem formationWords_bytes (m : Memory) (a : Nat) : formationWords (m.bytes a formationSize) =
    (List.range 296).map fun k => BitVec.ofNat 64 (leNat (m.bytes (a + 8 * k) 8)) :=
  List.map_congr_left fun k hk => by
    rw [Memory.bytes_part m a (by have := List.mem_range.1 hk; unfold formationSize; omega)]

theorem State.npod_eq (s : State) : s.npod = (s.pw 2).toNat / 2 ^ 16 % 2 ^ 9 := by
  rw [State.npod, BitVec.extractLsb'_toNat, Nat.shiftRight_eq_div_pow]
  rfl

/-- An image that a formation refuses (R383). -/
theorem State.formationBad_of {t : State} {w : Nat → DWord} {n : Nat} (h : t.npod = 0 ∨ 256 < t.npod ∨ t.npod ≤ n ∨
      w 4 ≠ t.fw.active.id ∨ (∃ k, k ∈ [0, 1, 3, 5, 6, 7] ∧ w k ≠ 0) ∨ 2 ^ 25 ≤ (w 2).toNat ∨
      (∃ p, p < 256 ∧ (2 ≤ (w (8 + p)).toNat % 4 ∨ 2 ^ 36 ≤ (w (8 + p)).toNat ∨
        8 < (w (8 + p)).toNat / 2 ^ 32 % 16 ∨ (t.npod ≤ p ∧ (w (8 + p)).toNat % 4 ≠ 0))) ∨
      (w 264).toNat < 10 ∨ 10000 < (w 264).toNat ∨ (w 265).toNat < 1 ∨ 4096 < (w 265).toNat) :
    t.formationBad ((List.range 296).map w) n = true := by
  have word (k : Nat) (hk : k < 296) : ((List.range 296).map w).getD k 0 = w k := by simp [hk]
  by_contra good
  simp only [State.formationBad, Bool.not_eq_true, Bool.or_eq_false_iff, decide_eq_false_iff_not, bne_eq_false_iff_eq,
    List.any_eq_false, List.mem_range, Bool.and_eq_false_iff, beq_eq_false_iff_ne] at good
  obtain ⟨⟨⟨⟨⟨⟨⟨⟨⟨⟨⟨zero, high⟩, none_⟩, many⟩, outside⟩, rows⟩, low0⟩, high0⟩, low1⟩, high1⟩, -⟩, image⟩ := good
  rw [word 264 (by decide)] at low0 high0
  rw [word 265 (by decide)] at low1 high1
  rw [word 2 (by decide), fld] at high
  rcases h with h | h | h | h | ⟨k, hk, h⟩ | h | ⟨p, hp, h⟩ | h | h | h | h
  · exact none_ h
  · exact many h
  · exact outside h
  · exact h ((word 4 (by decide)).symm.trans image)
  · have small : ∀ j ∈ [0, 1, 3, 5, 6, 7], j < 296 := by decide
    exact h ((word k (small k hk)).symm.trans (zero k hk))
  · have := (w 2).isLt
    omega
  · obtain ⟨⟨⟨⟨⟨⟨⟨top, -⟩, -⟩, fenced⟩, joining⟩, reserve⟩, absent⟩, -⟩ := rows p hp
    have := (w (8 + p)).isLt
    rw [word (8 + p) (by omega), fld] at top fenced joining reserve absent
    omega
  · exact low0 h
  · exact high0 h
  · exact low1 h
  · exact high1 h

/-- The plat of a package that forms a pod as package n with the words g of an image (R71). -/
abbrev State.withImage (s : State) (n : Nat) (g : Nat → DWord) : State :=
  { s with pkg := n }.loadFormation ((List.range 296).map g)

/-- The package that its image leaves with a closure word, its role, and the measurement of the image (R71, R395). -/
def State.formedWith (t : State) (n : Nat) (v : DWord) (digest : BitVec 512) : State :=
  { t.setPw 1 v with trav := { Traverse.reset with
      role := if (t.setPw 1 v).memState n = 1 then .member else .fenced } }.extendMr 4 digest

theorem State.pw_formedWith (t : State) (n : Nat) (v : DWord) (d : BitVec 512) (k : Nat) :
    (t.formedWith n v d).pw k = if k = 1 then v else t.pw k := State.pw_setPw t 1 k v

theorem State.trav_formedWith (t : State) (n : Nat) (v : DWord) (d : BitVec 512) :
    (t.formedWith n v d).trav = { Traverse.reset with
      role := if (t.formedWith n v d).memState n = 1 then .member else .fenced } := rfl

theorem State.rest_formedWith (s : State) (n : Nat) (g : Nat → DWord) (v : DWord) (d : BitVec 512) :
    { (s.withImage n g).formedWith n v d with plat := s.plat, pkg := s.pkg, trav := s.trav, mr := s.mr } = s := by
  obtain ⟨p, r, m, eq⟩ : ∃ p r m, (s.withImage n g).formedWith n v d = { s with pkg := n, plat := p, trav := r, mr := m } :=
    ⟨_, _, _, rfl⟩
  rw [eq]

/-- A package that forms a pod as package n with the words g of an image and the image's digest (R71). -/
abbrev State.formed (s : State) (n : Nat) (g : Nat → DWord) (digest : BitVec 512) : State :=
  (s.withImage n g).formedWith n (s.withImage n g).firstClosure digest

section
variable {s : State} {n : Nat} {g : Nat → DWord} {d : BitVec 512}

/-- Its plat but for the closure word. -/
theorem State.pw_formed {k : Nat} (h : k ≠ 1) :
    (s.formed n g d).pw k = if k = 2 ∨ k = 4 ∨ (8 ≤ k ∧ k < 296) then g k else platReset k := by
  rw [State.pw_formedWith, if_neg h, State.pw_loadFormation]
  exact if_congr (by omega) rfl rfl

/-- Its closure word is C(0) of that plat (R60). -/
theorem State.closure_formed :
    (s.formed n g d).pw 1 = foldWords ((List.range 19750).map fun i => (s.formed n g d).pw (i + 2)) := by
  have words : (fun i => (s.formed n g d).pw (i + 2)) = fun i => (s.withImage n g).pw (i + 2) :=
    funext fun i => (State.pw_formedWith _ _ _ _ (i + 2)).trans (if_neg (by omega))
  rw [words, State.pw_formedWith, if_pos rfl]
  rfl

/-- Its measurement registers: the fourth is extended with the digest (R395). -/
theorem State.mr_formed (k : Nat) : smGet 0 (s.formed n g d).mr k =
    if k = 4 then extended (smGet 0 s.mr 4) [(4, d)] 4 else smGet 0 s.mr k := smGet_set _ _ _ _ _

end

/- ### The operations (R383) -/

/-- The RULESET record that POD_RULE raises. -/
theorem State.rulesetRec_eq (s : State) (target p : Nat) (v : DWord) :
    s.rulesetRec target p v = ⟨8, BitVec.ofNat 8 s.pkg, 0, 0, BitVec.ofNat 64 ((s.pw 2 + 1).toNat % 2 ^ 16 +
      target % 256 * 2 ^ 16 + p % 256 * 2 ^ 24), v, 0⟩ := by
  have rsid : (s.nextRsid).toNat = (s.pw 2 + 1).toNat % 2 ^ 16 := by
    simp only [State.nextRsid, BitVec.toNat_add, BitVec.extractLsb'_toNat, Nat.shiftRight_zero]
    show ((s.pw 2).toNat % 2 ^ 16 + 1) % 2 ^ 16 = ((s.pw 2).toNat + 1) % 2 ^ 64 % 2 ^ 16
    omega
  have param : (0#32 ++ BitVec.ofNat 8 p ++ BitVec.ofNat 8 target ++ s.nextRsid : DWord) =
      BitVec.ofNat 64 ((s.pw 2 + 1).toNat % 2 ^ 16 + target % 256 * 2 ^ 16 + p % 256 * 2 ^ 24) := by
    apply BitVec.eq_of_toNat_eq
    simp only [toNat_append_sum, BitVec.toNat_ofNat, rsid]
    omega
  rw [State.rulesetRec, param]

theorem State.ctxArg_of_names {s : State} {fn : Nat} {v : DWord} {c : Ctx} (h : s.names fn v c) :
    s.ctxArg fn v = some c := h.1

theorem State.isMember_iff {s : State} : s.isMember = true ↔ s.trav.role = .member ∧ s.memState s.pkg = 1 := by
  simp [State.isMember]

/-- Settles O33: POD_FORM is what its image leaves of the plat, and the other three wait with one record or one message. -/
theorem podOperations : Obligations.PodOperations := by
  refine ⟨MbOp.of_run (fun fn s => rfl) ?formRefused ?form, MbWait.of_run (fun fn s => rfl) ?joinRefused ?join,
    MbWait.of_run (fun fn s => rfl) ?ruleRefused ?rule, MbWait.of_run (fun fn s => rfl) ?unblockRefused ?unblock⟩
  case formRefused =>
    intro s fn f a h
    dsimp only
    rw [formationWords_bytes]
    refine if_pos ?_
    rcases h with h | h
    · exact .inl h
    · refine .inr (State.formationBad_of ?_)
      have npod (n : Nat) : (({ s with pkg := n } : State).loadFormation ((List.range 296).map fun k =>
          BitVec.ofNat 64 (leNat (s.hostMem.bytes ((f.req 1).toNat + 8 * k) 8)))).npod =
          (BitVec.ofNat 64 (leNat (s.hostMem.bytes ((f.req 1).toNat + 8 * 2) 8))).toNat / 2 ^ 16 % 2 ^ 9 := by
        rw [State.npod_eq, State.pw_loadFormation]
        rfl
      rw [npod]
      exact h
  case form =>
    rintro s fn f a ⟨role, good⟩
    obtain ⟨g, hg⟩ : ∃ g : Nat → DWord, g = fun k => BitVec.ofNat 64 (leNat (s.hostMem.bytes ((f.req 1).toNat + 8 * k) 8)) :=
      ⟨_, rfl⟩
    have takes : ¬ (s.trav.role ≠ .none ∨ (s.withImage (f.req 2).toNat g).formationBad ((List.range 296).map g) (f.req 2).toNat = true) := by
      rw [hg, good]
      simp [role]
    dsimp only
    rw [formationWords_bytes, ← hg, show formationSize = 2368 from rfl]
    refine ⟨s.formed (f.req 2).toNat g (Config.sha3 (s.hostMem.bytes (f.req 1).toNat 2368)), [], f, if_neg takes,
      ⟨rfl, rfl, State.rest_formedWith .., fun k _ h1 => ?_, ?_, State.trav_formedWith .., fun k => State.mr_formed k⟩,
      a.own, rfl⟩
    · rw [State.pw_formed h1, hg]
    · exact State.closure_formed
  case joinRefused =>
    intro s fn f a h
    refine if_pos ?_
    rcases h with h | h | h | h
    · exact .inl h
    · exact .inr (.inr (.inl h))
    · exact .inr (.inr (.inr h))
    · exact .inr (.inl (by simpa using h))
  case join =>
    rintro s fn f a ⟨role, member, live, own⟩
    refine ⟨if_neg ?_, rfl⟩
    rcases own with own | own
    · simp [role, Nat.not_le.2 member, live, own]
    · simp [role, Nat.not_le.2 member, live, own]
  case ruleRefused =>
    intro s fn f a h
    exact if_pos (.inl (congrArg BitVec.toNat h))
  case rule =>
    rintro s fn f a ⟨member, small, other, pkg⟩
    have record := s.rulesetRec_eq (f.req 1).toNat (f.req 2).toNat (f.req 3)
    have runs : ¬ ((f.req 1).toNat = 0x41 ∨ 255 < (f.req 1).toNat ∨ 255 < (f.req 2).toNat ∨ (!s.isMember) = true) := by
      simp only [member, Bool.not_true, Bool.false_eq_true, or_false, not_or]
      exact ⟨fun h => other (BitVec.eq_of_toNat_eq h), by omega, by omega⟩
    refine ⟨(if_neg runs).trans ?_, rfl⟩
    rw [record]
    rfl
  case unblockRefused =>
    intro s fn f a h
    split
    · next c g hc hg =>
      refine if_pos ?_
      rcases h with h | h | ⟨d, g', names, row, h⟩
      · exact absurd (hc.symm.trans (State.ctxArg_of_unused h)) (by simp)
      · exact absurd (hg.symm.trans h) (by simp)
      · obtain rfl : d = c := Option.some.inj (names.1.symm.trans hc)
        obtain rfl : g' = g := Option.some.inj (row.symm.trans hg)
        exact .inr (h.imp id .inl)
    · rfl
  case unblock =>
    rintro s fn f a ⟨member, c, g, names, row, run, origin, pctx⟩
    rw [State.ctxArg_of_names names, row]
    refine ⟨if_neg ?_, rfl⟩
    simp [run, origin, pctx, member]

end Sys2Proof.Machine
end

section
/-! SUPPORT. A misaligned `psub` of a trap handler (R320, R336), and the statement about barriers and pod instructions. -/

namespace Sys2Proof.Machine

/-- Where lanes act the entry has lanes. -/
theorem Site.mask_ne_zero_of_acting {x : Site} {c : Ctl} (act : x.acting c ≠ 0) : x.mask ≠ 0 := by
  intro hm
  refine act ?_
  unfold Site.acting
  split
  · exact hm
  · rw [hm]
    exact BitVec.zero_and

/-- In a handler a user trap of the whole entry ends the grid, and the warp stays as it was (R336). -/
theorem trapAll_handler {s : State} {len : Nat} {x : Site} {i : Instr} {v : DWord} (hx : s.site len = some x)
    (hh : x.handler = true) (hm : x.mask ≠ 0) : (x.trapAll i (Cause.one .align v)).warpAt s.cur = some x.w := by
  obtain ⟨hs, -, hb, hw, hkey, hnum, -, hframe⟩ := site_spec hx
  obtain ⟨f, hf⟩ := Option.isSome_iff_exists.1 (hframe ▸ hh)
  have ends : x.trapAll i (Cause.one .align v) = (s.setBlock (x.b.setWarp x.w)).endGrid x.g.id
      { status := stFailed, cls := 0x82, unit := 0#8 ++ TrapCode.align.num, addr := x.pc } := by
    refine (leave_handler (x := x) hh _ _ _ (.inl hm)).trans ?_
    unfold Site.leaveHandler
    rw [hf, ← hs]
    rfl
  have back := (putBack_endGrid (putBack_setBlock hb hw) x.g.id
    { status := stFailed, cls := 0x82, unit := 0#8 ++ TrapCode.align.num, addr := x.pc }).warp
  rw [ends]
  rwa [hkey, hnum] at back

/-- A `psub` of a packet that does not lie at a multiple of 256 traps (R320). -/
theorem exec_psub_misaligned {s : State} {x : Site} {c : Ctl} {a b : BitVec 5} (h : Issues (.psub c a b) s x)
    (act : x.acting c ≠ 0) (align : (x.w.sget a.toNat).toNat % 256 ≠ 0) :
    exec (.psub c a b) s = .next (x.trapAll (.psub c a b) (Cause.one .align (x.w.sget a.toNat))) := by
  obtain ⟨hs, hlen, -⟩ := site_spec h.site
  obtain ⟨st, rgn, issued⟩ := issued_eq x (.psub c a b)
  have again : x.s.site x.len = some x := by rw [hs, hlen]; exact h.site
  refine (issue_of_issues h _).trans (congrArg Host.Outcome.next ?_)
  dsimp only
  rw [acting_issued, if_neg act, issued]
  refine (if_pos align).trans ?_
  simp only [Site.precise, Site.withW, again]
  rfl

/-- A warp in its trap handler at offset 0x40, which lane 3 runs, parked at 0x100 by its trap; the packet address in `s4`
is no multiple of 256. -/
def inHandler : State := Tests.onW Tests.tHand fun w => { w.sset 4 0x401 with
  frame := w.frame.map fun f => { f with trap := { f.trap with words := ⟨0x30f, 0, 0, 0⟩ } } }

/-- Refutes O28: the statement has a misaligned `psub` take a trap frame and park its lanes wherever it issues, but in a
trap handler, where `psub` is legal, a user trap ends the grid with TRAP_NEST instead (R336): the lane that the handler
runs for stays parked where it first trapped, and not at the `psub`. -/
theorem not_barrierAndPodInstructions : ¬ Obligations.BarrierAndPodInstructions := by
  rintro ⟨-, -, -, pod⟩
  obtain ⟨x, issues, hh, act, align, traps, ent, lane, pc, stands⟩ := Tests.issues_wit (i := .psub Ctl.none 4 6)
    (s := inHandler) (P := fun x => x.handler = true ∧ x.acting Ctl.none ≠ 0 ∧ (x.w.sget 4).toNat % 256 ≠ 0 ∧
      x.w.utraps = [] ∧ x.g.img.desc.trapent ≠ 0xffffffff ∧ x.mask.getLsbD 3 = true ∧ x.pc = 0x140 ∧
      x.w.stands 3 = some (0x100, 1)) (by decide)
  obtain ⟨-, misaligned, -⟩ := pod Ctl.none 4 6 0
  obtain ⟨t, w, run, here, ⟨-, took⟩, -⟩ := misaligned _ (.inl rfl) _ x issues
    ⟨act, traps, ent, .inl ⟨rfl, align⟩⟩
  rw [exec_psub_misaligned issues act align] at run
  cases run
  rw [trapAll_handler issues.site hh (Site.mask_ne_zero_of_acting act)] at here
  cases here
  have parked := took.parked 3 (by decide) lane
  rw [stands, pc] at parked
  exact absurd parked (by decide)

end Sys2Proof.Machine
end

section
/-! SUPPORT. The traverse of a member (R46 to R48, R66): its members and their batches, what a batch sent, a vote cast and a
batch or a vote received leave. -/

namespace Sys2Proof.Machine

section
variable {s : State} {p q : Nat}

/- ### Members, batches and masks (R46, R47) -/

theorem State.not_isMember_iff : (!s.isMember) = true ↔ ¬ (s.trav.role = .member ∧ s.memState s.pkg = 1) := by
  rw [← State.isMember_iff, Bool.not_eq_true', Bool.not_eq_true]

theorem State.members_sorted (s : State) : s.members.SortedLT :=
  (List.pairwise_lt_range.filter _).sortedLT

theorem State.missing_sorted (s : State) : s.missing.SortedLT :=
  (s.members_sorted.pairwise.filter _).sortedLT

theorem State.mem_missing : p ∈ s.missing ↔ p ∈ s.members ∧ s.batchOf p = none := by
  simp [State.missing]

/-- A mask names the packages of its list. -/
theorem pkgMask_bit {ps : List Nat} (h : ps.SortedLT) (hp : p < 256) : (pkgMask ps).getLsbD p = true ↔ p ∈ ps := by
  rw [pkgMask, BitVec.getLsbD_ofNat, decide_eq_true hp, Bool.true_and, ← Nat.mem_bitIndices,
    Nat.bitIndices_sum_map_two_pow h]

/-- The batch found for a package is that package's. -/
theorem State.batchOf_sender {b : Batch} (h : s.batchOf p = some b) : b.sender = p := by
  simpa using List.find?_some h

/- ### Sending (R47, R48) -/

/-- The records of the batch that a package sends next (R47, R50). -/
def State.outgoing (s : State) : List EvRec :=
  (if s.trav.pend = [] then [emptyRec s.pkg] else s.trav.pend.take 64).map fun e => { e with pclose := s.pw 1 }

theorem State.outgoing_length (s : State) : 0 < s.outgoing.length ∧ s.outgoing.length ≤ 64 := by
  unfold State.outgoing
  split
  · simp
  · next h =>
    have := List.length_pos_iff.2 h
    rw [List.length_map, List.length_take]
    omega

/-- The package once its batch is sent. -/
abbrev State.batchSent (s : State) : State := { s with
  trav := { s.trav with
    sent := true, pend := s.trav.pend.drop 64
    batches := s.trav.batches ++ [⟨s.pkg, s.outgoing⟩] }
  outbox := s.outbox ++ [.batch (s.station + 1) s.outgoing] }

/-- Its own batch is then missing no more. -/
theorem State.mem_missing_batchSent : p ∈ s.batchSent.missing ↔ p ∈ s.missing ∧ p ≠ s.pkg := by
  have found : s.batchSent.batchOf p = none ↔ s.batchOf p = none ∧ p ≠ s.pkg := by
    rw [State.batchOf, List.find?_append, Option.or_eq_none_iff]
    refine and_congr_right fun _ => ?_
    simp [ne_comm]
  rw [State.mem_missing, State.mem_missing, found, and_assoc]
  rfl

/-- Whether a batch is to be sent (R48). -/
def State.batchDue (s : State) : Prop :=
  s.trav.sent = false ∧ (s.trav.pend ≠ [] ∨ s.trav.batches ≠ [] ∨ s.trav.suspects ≠ [])

theorem execBatchSend_idle (h : ¬ ((s.trav.role = .member ∧ s.memState s.pkg = 1) ∧ s.batchDue)) :
    exec .batchSend s = .next s := by
  refine congrArg Host.Outcome.next (if_pos ?_)
  by_contra sends
  simp only [Bool.or_eq_true, not_or, Bool.and_eq_true, List.isEmpty_iff, State.not_isMember_iff, not_not] at sends
  exact h ⟨sends.1.1, by simpa using sends.1.2, by have := sends.2; tauto⟩

theorem execBatchSend_sends (own : s.trav.role = .member ∧ s.memState s.pkg = 1) (due : s.batchDue) :
    exec .batchSend s = .next (if s.trav.suspects.any s.batchSent.missing.contains then s.batchSent.castVote s.batchSent.missing
      else s.batchSent) := by
  have sends : ¬ (!s.isMember || s.trav.sent || (s.trav.pend.isEmpty && s.trav.batches.isEmpty && s.trav.suspects.isEmpty))
      = true := by
    simp only [Bool.or_eq_true, not_or, Bool.and_eq_true, List.isEmpty_iff, State.not_isMember_iff, not_not]
    exact ⟨⟨own, by simp [due.1]⟩, by have := due.2; tauto⟩
  refine congrArg Host.Outcome.next ((if_neg sends).trans ?_)
  have records : (if s.trav.pend.isEmpty then [emptyRec s.pkg] else s.trav.pend.take 64).map
      (fun e => { e with pclose := s.pw 1 }) = s.outgoing := by
    unfold State.outgoing
    simp only [List.isEmpty_iff]
  dsimp only
  rw [records]

end

end Sys2Proof.Machine
end

section
/-! SUPPORT. Batches and votes received (R47, R48, R66), and the clauses of Claims.Stations about a station that stays
open. -/

namespace Sys2Proof.Machine

section
variable {s : State} {p q : Nat}

/-- The package once it has voted against what it lacks (R66). -/
def State.voteCast (s : State) (m : BitVec 256) : State := { s with
  outbox := s.outbox ++ [.vote (s.station + 1) m]
  trav := { s.trav with votes := (s.trav.votes.filter fun v => v.voter != s.pkg) ++ [⟨s.pkg, m⟩] } }

theorem execBatchReceive_ignored {st : BitVec 64} {sender : Nat} {recs : List EvRec} (own : s.trav.role = .member)
    (h : recs = [] ∨ st ≠ s.station + 1 ∧ st.toNat ≤ s.station.toNat) :
    exec (.batchReceive st sender recs) s = .next s := by
  refine congrArg Host.Outcome.next (if_pos ?_)
  rcases h with h | ⟨h, old⟩
  · simp [h]
  · simpa [own, old] using Or.inr h

/-- A batch for the open station from no member, or a second one, is dropped (R47). -/
theorem execBatchReceive_repeated {sender : Nat} {recs : List EvRec} (own : s.trav.role = .member)
    (h : recs = [] ∨ sender ∉ s.members ∨ (s.batchOf sender).isSome = true) :
    exec (.batchReceive (s.station + 1) sender recs) s = .next s := by
  by_cases empty : recs = []
  · exact execBatchReceive_ignored own (.inl empty)
  · refine congrArg Host.Outcome.next ((if_neg (by simp [own, empty])).trans ((if_pos (by simp [own])).trans (if_pos ?_)))
    rw [Bool.or_eq_true]
    simpa only [Bool.not_eq_true', ← Bool.not_eq_true, List.contains_iff_mem] using h.resolve_left empty

/-- A member's batch for the open station is held (R47). -/
theorem execBatchReceive_open {sender : Nat} {recs : List EvRec} (own : s.trav.role = .member) (some_ : recs ≠ [])
    (member : sender ∈ s.members) (new : (s.batchOf sender).isSome = false) (novote : ∀ v ∈ s.trav.votes, v.voter ≠ s.pkg) :
    exec (.batchReceive (s.station + 1) sender recs) s =
      .next { s with trav := { s.trav with batches := s.trav.batches ++ [⟨sender, recs.take 64⟩] } } := by
  have unvoted : (s.trav.votes.find? fun v => v.voter == s.pkg) = none := by simpa using novote
  refine congrArg Host.Outcome.next ((if_neg (by simp [own, some_])).trans ((if_pos (by simp [own])).trans ((if_neg ?_).trans ?_)))
  · rw [new, Bool.or_false, Bool.not_eq_true', ← Bool.not_eq_true, List.contains_iff_mem, not_not]
    exact member
  · dsimp only
    rw [unvoted]

/-- A batch for a later station is held until that station opens (R66). -/
theorem execBatchReceive_later {st : BitVec 64} {sender : Nat} {recs : List EvRec} (own : s.trav.role = .member)
    (some_ : recs ≠ []) (h : st ≠ s.station + 1) (ahead : s.station.toNat < st.toNat)
    (fresh : ∀ p ∈ s.trav.later, ¬ (p.1 = st ∧ p.2.sender = sender)) :
    exec (.batchReceive st sender recs) s =
      .next { s with trav := { s.trav with later := s.trav.later ++ [(st, ⟨sender, recs.take 64⟩)] } } := by
  refine congrArg Host.Outcome.next ((if_neg ?_).trans ((if_neg fun o => h o.1).trans (if_neg ?_)))
  · simp [own, some_, ahead]
  · simpa only [List.any_eq_true, Bool.and_eq_true, beq_iff_eq, not_exists, not_and] using fresh

theorem execSuspectTimeout_votes (own : s.trav.role = .member ∧ s.memState s.pkg = 1) (sent : s.trav.sent = true)
    (lacks : s.missing ≠ []) : exec .suspectTimeout s = .next (s.voteCast (pkgMask s.missing)) :=
  congrArg Host.Outcome.next (if_neg (by simp [State.isMember_iff.2 own, sent, lacks]))

theorem execSuspectTimeout_idle (h : ¬ ((s.trav.role = .member ∧ s.memState s.pkg = 1) ∧ s.trav.sent = true ∧
    s.missing ≠ [])) : exec .suspectTimeout s = .next s := by
  refine congrArg Host.Outcome.next (if_pos ?_)
  by_contra votes
  simp only [Bool.or_eq_true, not_or, List.isEmpty_iff, State.not_isMember_iff, not_not] at votes
  exact h ⟨votes.1.1, by simpa using votes.1.2, votes.2⟩

theorem execUnreachableReport_idle (h : ¬ (s.trav.role = .member ∧ s.memState s.pkg = 1) ∨ q = s.pkg ∨ q ∉ s.members) :
    exec (.unreachableReport q) s = .next s := by
  refine congrArg Host.Outcome.next (if_pos ?_)
  rw [Bool.or_eq_true, Bool.or_eq_true, State.not_isMember_iff]
  simpa [or_assoc] using h

/-- A missing member found unreachable is suspected, and voted against once the package's own batch is sent (R66). -/
theorem execUnreachableReport_suspects (own : s.trav.role = .member ∧ s.memState s.pkg = 1) (other : q ≠ s.pkg)
    (lacks : q ∈ s.missing) (new : q ∉ s.trav.suspects) :
    exec (.unreachableReport q) s = .next
      (let t := { s with trav := { s.trav with suspects := s.trav.suspects ++ [q] } }
      if s.trav.sent = true then t.voteCast (pkgMask s.missing) else t) := by
  obtain ⟨member, none_⟩ := State.mem_missing.1 lacks
  refine congrArg Host.Outcome.next ((if_neg (by simp [State.isMember_iff.2 own, other, member])).trans ?_)
  have unsuspected : s.trav.suspects.contains q = false := by simpa using new
  rw [unsuspected, if_neg Bool.false_ne_true]
  have found : ({ s with trav := { s.trav with suspects := s.trav.suspects ++ [q] } } : State).batchOf q = none := none_
  dsimp only
  rw [found]
  cases sent : s.trav.sent
  · rfl
  · rfl

/-- A vote for the open station replaces the voter's vote, one for a later station is kept, and the batches it names of
its station are forwarded (R66). -/
theorem execVoteReceive_member {voter : Nat} {st : BitVec 64} {m : BitVec 256}
    (own : s.trav.role = .member ∧ s.memState s.pkg = 1) (member : voter ∈ s.members) :
    exec (.voteReceive voter st m) s = .next
      (if st = s.station + 1 then (s.keepVote voter m).forwardNamed voter st m s.trav.batches
      else if st = s.station then s.forwardNamed voter st m s.trav.closed
      else if s.station.toNat < st.toNat then
        (s.keepLater voter st m).forwardNamed voter st m ((s.trav.later.filter fun p => p.1 == st).map (·.2))
      else s) :=
  congrArg Host.Outcome.next (if_neg (by simp [State.isMember_iff.2 own, member]))

/-- A station is not closed while a batch is missing and nobody votes (R49, R67). -/
theorem execStationClose_lacking (own : s.trav.role = .member) (unvoted : ∀ v ∈ s.trav.votes, v.suspect = 0)
    (lacks : s.missing ≠ []) : exec .stationClose s = .next s := by
  have named (q : Nat) : (s.trav.votes.filter fun v => s.members.contains v.voter && v.suspect.getLsbD q) = [] := by
    rw [List.filter_eq_nil_iff]
    intro v hv
    simp [unvoted v hv]
  have kept : s.outvoted = [] := by
    simp only [State.outvoted, named]
    simp
  obtain ⟨q, qs, cons⟩ := List.exists_cons_of_ne_nil lacks
  refine congrArg Host.Outcome.next (if_pos ?_)
  simp [own, kept, cons]

end

end Sys2Proof.Machine
end

section
/-! SUPPORT. The closing of a station whose batches are all there (R49, R59, R60): the winning closure word, the packages
that lose, and a station of EMPTY records. -/

namespace Sys2Proof.Machine

/- ### The winning closure word (R60) -/

/-- The search for the most frequent word ends at v where every other word of the list is rarer. -/
theorem foldl_most (c : DWord → Nat) (v : DWord) (l : List Batch) : ∀ m : DWord × Nat,
    (∀ b ∈ l, b.pclose ≠ v → c b.pclose < c v) → (m = (v, c v) ∨ m.2 < c v ∧ ∃ b ∈ l, b.pclose = v) →
    l.foldl (fun (m : DWord × Nat) b => if m.2 < c b.pclose then (b.pclose, c b.pclose) else m) m = (v, c v) := by
  induction l with
  | nil => simp
  | cons b l ih =>
    intro m rarer h
    refine ih _ (fun x hx => rarer x (List.mem_cons_of_mem b hx)) ?_
    beta_reduce
    by_cases hb : b.pclose = v
    · refine Or.inl ?_
      rw [hb]
      rcases h with rfl | ⟨less, -⟩
      · exact if_neg (lt_irrefl _)
      · exact if_pos less
    · have less := rarer b List.mem_cons_self hb
      rcases h with rfl | ⟨low, x, hx, rfl⟩
      · exact Or.inl (if_neg less.asymm)
      · refine Or.inr ⟨by split <;> assumption, x, ?_, rfl⟩
        exact (List.mem_cons.1 hx).resolve_left fun e => hb (e ▸ rfl)

theorem winning_eq {bs : List Batch} {v : DWord} (present : ∃ b ∈ bs, b.pclose = v)
    (rarer : ∀ b ∈ bs, b.pclose ≠ v →
      (bs.filter fun x => x.pclose == b.pclose).length < (bs.filter fun x => x.pclose == v).length) : winning bs = v := by
  have counted : 0 < (bs.filter fun x => x.pclose == v).length := by
    obtain ⟨b, hb, rfl⟩ := present
    exact List.length_pos_of_mem (List.mem_filter.2 ⟨hb, by simp⟩)
  exact congrArg Prod.fst (foldl_most (fun v => (bs.filter fun x => x.pclose == v).length) v bs (0, 0) rarer
    (Or.inr ⟨counted, present⟩))

/- ### The batches of the station, the losers and the events (R59, R60) -/

/-- The batches of the members for the open station. -/
def State.held (s : State) : List Batch := s.members.filterMap s.batchOf

/-- The packages whose closure word is not the winning one (R60). -/
def State.losers (s : State) : List Nat := (s.held.filter fun b => b.pclose != winning s.held).map (·.sender)

/-- The station's events where no vote carried (R59). -/
def State.ordered (s : State) : List (Bool × EvRec) :=
  ((s.held.filter fun b => b.pclose == winning s.held).map fun b => b.recs.map fun e =>
    (false, { e with origin := BitVec.ofNat 8 b.sender })).flatten ++
  (s.members.filter fun p => s.losers.contains p).map fun p => (true, lossRec p false)

/-- The state between a station's events and the rows that they enact (R59 steps 4 to 6). -/
def State.closing (t : State) (st : DWord) (open_ : List Nat) : State :=
  State.openNext <| State.refuseFenced { t with
    outbox := t.outbox ++ open_.map fun q => Msg.snapshot q st t.plat
    trav := { t.trav with joins := (t.trav.joins ++ open_).filter fun q => t.memState q == 3 } }

section
variable {s : State} {p : Nat} {b : Batch}

theorem State.mem_held : b ∈ s.held ↔ ∃ p ∈ s.members, s.batchOf p = some b := by
  simp [State.held]

theorem State.batchOf_of_complete (complete : s.missing = []) (member : p ∈ s.members) : ∃ b, s.batchOf p = some b := by
  by_contra none_
  have : p ∈ s.missing := State.mem_missing.2 ⟨member, by simpa [Option.eq_none_iff_forall_ne_some] using none_⟩
  simp [complete] at this

theorem State.mem_losers : p ∈ s.losers ↔ p ∈ s.members ∧ ∃ b, s.batchOf p = some b ∧ b.pclose ≠ winning s.held := by
  simp only [State.losers, List.mem_map, List.mem_filter, State.mem_held, bne_iff_ne]
  constructor
  · rintro ⟨b, ⟨⟨p, member, hb⟩, other⟩, rfl⟩
    rw [State.batchOf_sender hb]
    exact ⟨member, b, hb, other⟩
  · rintro ⟨member, b, hb, other⟩
    exact ⟨b, ⟨⟨p, member, hb⟩, other⟩, State.batchOf_sender hb⟩

/-- With every batch there no vote counts: a losing package fences itself, another applies the events. -/
theorem execStationClose_complete (own : s.trav.role = .member) (self : s.pkg ∈ s.members) (complete : s.missing = []) :
    exec .stationClose s = .next (if s.pkg ∈ s.losers then s.fenceSelf (s.station + 1)
      else
        let t := s.applyStation (s.station + 1) s.ordered
        if t.memState t.pkg = 2 then t.fenceSelf (s.station + 1)
        else (t.closing (s.station + 1) (t.opened s.ordered)).enact) := by
  obtain ⟨b, hb⟩ := State.batchOf_of_complete complete self
  have some_ : s.held.isEmpty = false := by
    rw [List.isEmpty_eq_false_iff]
    exact List.ne_nil_of_mem (State.mem_held.2 ⟨s.pkg, self, hb⟩)
  have outvoted : s.outvoted = [] := by rw [State.outvoted, complete]; rfl
  refine congrArg Host.Outcome.next ((if_neg ?_).trans ?_)
  · change ¬ (_ || s.held.isEmpty || _ || _) = true
    simp [own, some_, complete]
  · simp only [own, outvoted, if_true, if_false, List.contains_nil, Bool.false_or, reduceCtorEq, List.contains_iff_mem]
    rfl

/- ### A station of EMPTY records (R51, R59) -/

theorem State.platEvent_empty {st : DWord} {appended : Bool} {e : EvRec} (h : e.type = 0) :
    s.platEvent st appended e = s := by
  have legal : evLegal e appended = true := by simp [evLegal, h]
  rw [State.platEvent, legal, if_neg (by decide), h]
  cases s.rowOf e.grid.toNat <;> rfl

/-- EMPTY records change the closure word by its rotation alone (R60). -/
theorem State.applyStation_empty {st : DWord} {evs : List (Bool × EvRec)} (h : ∀ e ∈ evs, e.2.type = 0) :
    s.applyStation st evs = (s.setPw 1 ((s.pw 1).rotateLeft 1)).setPw 0 st := by
  have applied : evs.foldl (fun s e => s.platEvent st e.1 e.2) s = s :=
    List.foldlRecOn (motive := fun t => t = s) evs _ rfl fun t ht e he => (State.platEvent_empty (h e he)).trans ht
  have changed : changedWords s.plat s.plat = [] := by simp [changedWords]
  have folded : rotl (s.pw 1) 1 ^^^ foldWords [] = (s.pw 1).rotateLeft 1 := BitVec.xor_zero
  simp only [State.applyStation, applied, changed, List.map_nil, folded]

theorem State.opened_empty {t : State} {evs : List (Bool × EvRec)} (h : ∀ e ∈ evs, e.2.type = 0) :
    t.opened evs = [] := by
  rw [State.opened, List.filterMap_eq_nil_iff]
  intro e he
  simp [h e he]

theorem State.closing_quiet {t : State} {st : DWord} (silent : t.fabricOut = []) (joins : t.trav.joins = []) :
    t.closing st [] = t.openNext := by
  have trav : { t.trav with joins := [] } = t.trav := by rw [← joins]
  have refused (f : ROut → Bool) : t.fabricOut.filter f = [] := by rw [silent]; rfl
  refine congrArg State.openNext ?_
  simp only [State.refuseFenced, refused, joins, List.map_nil, List.filter_nil, List.append_nil, trav]

theorem State.enact_nil {t : State} (h : t.rows = []) : t.enact = t := by
  rw [State.enact, h]
  simp [State.enactRows, h]

/-- Where every batch is one EMPTY record with the same closure word, nobody loses and every event is EMPTY. -/
theorem State.ordered_empty {v : DWord} (self : s.pkg ∈ s.members) (complete : s.missing = [])
    (h : ∀ p ∈ s.members, ∀ b, s.batchOf p = some b → ∃ e, b.recs = [e] ∧ e.type = 0 ∧ e.pclose = v) :
    s.losers = [] ∧ ∀ e ∈ s.ordered, e.2.type = 0 := by
  have same {p b} (member : p ∈ s.members) (hb : s.batchOf p = some b) : b.pclose = v := by
    obtain ⟨e, recs, -, rfl⟩ := h p member b hb
    simp [Batch.pclose, recs]
  have won : winning s.held = v := by
    obtain ⟨b, hb⟩ := State.batchOf_of_complete complete self
    refine winning_eq ⟨b, State.mem_held.2 ⟨_, self, hb⟩, same self hb⟩ fun b hb other => ?_
    obtain ⟨p, member, hb⟩ := State.mem_held.1 hb
    exact absurd (same member hb) other
  have none_ : s.losers = [] := by
    refine List.eq_nil_iff_forall_not_mem.2 fun p hp => ?_
    obtain ⟨member, b, hb, other⟩ := State.mem_losers.1 hp
    exact other ((same member hb).trans won.symm)
  refine ⟨none_, fun e he => ?_⟩
  simp only [State.ordered, none_, List.contains_nil, List.filter_false, List.map_nil, List.append_nil, List.mem_flatten,
    List.mem_map, List.mem_filter, State.mem_held] at he
  obtain ⟨_, ⟨b, ⟨⟨p, member, hb⟩, -⟩, rfl⟩, hx⟩ := he
  obtain ⟨x, recs, empty, -⟩ := h p member b hb
  obtain ⟨y, hy, rfl⟩ := List.mem_map.1 hx
  rw [recs, List.mem_singleton] at hy
  exact hy ▸ empty

/-- The plat of a member that closes a station of EMPTY records (R60). -/
def State.rotated (s : State) : State := (s.setPw 1 ((s.pw 1).rotateLeft 1)).setPw 0 (s.station + 1)

theorem State.pw_rotated (k : Nat) : s.rotated.pw k =
    if k = 0 then s.station + 1 else if k = 1 then (s.pw 1).rotateLeft 1 else s.pw k := by
  rw [State.rotated, State.pw_setPw, State.pw_setPw]

theorem State.memState_rotated (p : Nat) : s.rotated.memState p = s.memState p := by
  rw [State.memState, State.pf, State.pw_rotated, if_neg (by omega), if_neg (by omega)]
  rfl

theorem State.rotated_openNext : s.rotated.openNext = { s with
    plat := s.rotated.plat
    trav := { s.trav with
      sent := false, suspects := [], closed := s.trav.batches
      votes := ((s.trav.laterVotes.filter fun p => p.1 == s.station + 1 + 1).map fun p => p.2).filter fun v =>
        s.memState v.voter == 1
      laterVotes := s.trav.laterVotes.filter fun p => p.1 != s.station + 1 + 1
      batches := ((s.trav.later.filter fun p => p.1 == s.station + 1 + 1).map fun p => p.2).filter fun b =>
        s.memState b.sender == 1
      later := s.trav.later.filter fun p => p.1 != s.station + 1 + 1 } } := by
  have station : s.rotated.station = s.station + 1 := State.pw_rotated 0
  simp only [State.openNext, station, State.memState_rotated]
  rfl

theorem execStationClose_empty {v : DWord} (own : s.trav.role = .member ∧ s.memState s.pkg = 1) (self : s.pkg ∈ s.members)
    (complete : s.missing = []) (quiet : s.rows = []) (silent : s.fabricOut = []) (joins : s.trav.joins = [])
    (h : ∀ p ∈ s.members, ∀ b, s.batchOf p = some b → ∃ e, b.recs = [e] ∧ e.type = 0 ∧ e.pclose = v) :
    exec .stationClose s = .next s.rotated.openNext := by
  obtain ⟨none_, empty⟩ := State.ordered_empty self complete h
  have live : s.rotated.memState s.rotated.pkg ≠ 2 := by
    rw [State.memState_rotated, show s.rotated.pkg = s.pkg from rfl, own.2]
    decide
  rw [execStationClose_complete own.1 self complete, none_, if_neg List.not_mem_nil]
  dsimp only
  rw [State.applyStation_empty empty, State.opened_empty empty, ← State.rotated, if_neg live,
    State.closing_quiet (t := s.rotated) silent joins, State.enact_nil (t := s.rotated.openNext) quiet]

end

end Sys2Proof.Machine
end

section
/-! SUPPORT. What the pod's part of a package keeps while its grids, commands and mailbox requests end (R65, R67, R74,
R75). -/

namespace Sys2Proof.Machine

/-- What tells a pod grid from the others. -/
abbrev Grid.mark (g : Grid) : Nat × Bool := (g.id, g.pod)

/-- What a package knows of its pod. -/
def State.podParts (s : State) : List (Nat × DWord) × Nat × PodRole × List Row :=
  (s.plat, s.pkg, s.trav.role, s.rows)

/-- From s to t the plat, the role and the rows stay, and pod commands and grids only go. -/
structure State.podKept (s t : State) : Prop where
  parts : t.podParts = s.podParts
  cmds : t.podCmds ⊆ s.podCmds
  grids : t.grids.map Grid.mark ⊆ s.grids.map Grid.mark

section
variable {s t u : State} {q : Queue}

theorem State.podKept.of_eq (h : (t.podParts, t.podCmds, t.grids) = (s.podParts, s.podCmds, s.grids)) : s.podKept t := by
  simp only [Prod.mk.injEq] at h
  obtain ⟨parts, cmds, grids⟩ := h
  exact ⟨parts, cmds ▸ List.Subset.refl _, grids ▸ List.Subset.refl _⟩

theorem State.podKept.refl (s : State) : s.podKept s := .of_eq rfl

theorem State.podKept.trans (h : s.podKept t) (k : t.podKept u) : s.podKept u :=
  ⟨k.parts.trans h.parts, List.Subset.trans k.cmds h.cmds, List.Subset.trans k.grids h.grids⟩

/-- A step that leaves the pod's part alone. -/
theorem State.podKept.same (h : s.podKept t)
    (k : (u.podParts, u.podCmds, u.grids) = (t.podParts, t.podCmds, t.grids)) : s.podKept u :=
  h.trans (.of_eq k)

/- ### Memory, pools, logs and requests -/

theorem State.podKept.poolFree (h : s.podKept t) (n a : Nat) : s.podKept (t.poolFree n a) := by
  obtain ⟨cs, eq⟩ := t.poolFree_rest n a
  exact eq ▸ h.same rfl

theorem State.podKept.writeLocs (h : s.podKept t) (ls : List Loc) (bs : List Byte) : s.podKept (t.writeLocs ls bs) := by
  obtain ⟨d, lp, hm, ps, eq⟩ := t.writeLocs_rest ls bs
  exact eq ▸ h.same rfl

theorem State.podKept.writeVa {c : Ctx} {va : Nat} {bs : List Byte} (h : s.podKept t) (w : t.writeVa c va bs = .ok u) :
    s.podKept u := by
  obtain ⟨d, lp, hm, ps, rfl⟩ := State.writeVa_rest w
  exact h.same rfl

theorem State.podKept.logCtx (h : s.podKept t) (n kind : Nat) (cls : BitVec 8) (unit : Nat) (addr : DWord) :
    s.podKept (t.logCtx n kind cls unit addr) := by
  obtain ⟨d, lp, hm, ps, cs, k, eq, -⟩ := t.logCtxRec_rest n ⟨kind, cls, BitVec.ofNat 16 unit, addr, n, 1⟩
  exact (show t.logCtx n kind cls unit addr = _ from eq) ▸ h.same rfl

theorem State.podKept.request (h : s.podKept t) (n : Nat) (agent : Bool) (b : Bad) : s.podKept (t.request n agent b) := by
  unfold State.request
  split
  · split <;> exact h.same rfl
  · exact h

theorem State.podKept.priTold (h : s.podKept t) (n : Nat) (a : DWord) : s.podKept (t.priTold n a) := by
  unfold State.priTold State.priReported
  split
  · split
    · exact h
    · split
      · exact h.same rfl
      · exact h
  · exact h

theorem State.podKept.blame (h : s.podKept t) (n unit : Nat) (k : BitVec 8) (a : DWord) :
    s.podKept (t.blame n unit k a) := by
  unfold State.blame State.logUse State.told
  split
  · exact h.logCtx ..
  · split
    · exact h.priTold ..
    · exact h

/- ### Queues and the firmware -/

theorem State.podKept.putQueue (h : s.podKept t) (q : Queue) : s.podKept (t.putQueue q) := by
  obtain ⟨d, lp, hm, ps, eq⟩ := t.putQueue_rest q
  exact eq ▸ h.same rfl

theorem State.podKept.joinReady (h : s.podKept t) (q : Queue) : s.podKept (t.joinReady q) := h.same rfl

theorem State.podKept.setQueue (h : s.podKept t) (q : Queue) : s.podKept (t.setQueue q) := h.same rfl

theorem State.podKept.saveHeader (h : s.podKept t) (w : t.saveHeader q = .ok u) : s.podKept u := by
  unfold State.saveHeader at w
  split at w
  · cases w; exact h
  · split at w
    · cases w
    · next w1 => exact (h.writeVa w1).writeVa w

theorem State.podKept.saveArea {r : Queue} (h : s.podKept t) (w : t.saveArea q = some (u, r)) : s.podKept u := by
  unfold State.saveArea at w
  split at w
  · cases w; exact h
  · split at w
    · cases w
    · cases w; exact State.podKept.writeLocs (t := t.setCtx _) (h.same rfl) ..

theorem State.podKept.enterReady (h : s.podKept t) (q : Queue) : s.podKept (t.enterReady q) :=
  (h.joinReady q).putQueue _

theorem State.podKept.releaseSlotOf (h : s.podKept t) (q : Queue) : s.podKept (t.releaseSlotOf q) := by
  unfold State.releaseSlotOf
  extract_lets r
  split
  · split
    · exact h.putQueue r
    · exact (h.joinReady r).putQueue r
  · split
    · exact h.enterReady _
    · exact h.putQueue _

theorem State.podKept.writeHandOver (h : s.podKept t) : s.podKept t.writeHandOver := by
  obtain ⟨u, bs, f, written, eq⟩ : ∃ u bs f, u = t.putDram recordAddr bs ∧ t.writeHandOver = { u with fw := f } :=
    ⟨_, _, _, rfl, rfl⟩
  rw [eq, written]
  exact State.podKept.same (h.writeLocs _ _) rfl

theorem State.podKept.fwRecheck (h : s.podKept t) : s.podKept t.fwRecheck := by
  unfold State.fwRecheck State.activate
  split
  · split
    · exact h.same rfl
    · split
      · exact h.same rfl
      · exact State.podKept.writeHandOver (h.same rfl)
  · exact h

/- ### Blocks and grids -/

theorem State.podKept.ibPut (h : s.podKept t) (c : Ctx) (off n v : Nat) : s.podKept (t.ibPut c off n v) := by
  unfold State.ibPut
  split
  · exact h
  · split
    · next w => exact h.writeVa w
    · exact h.logCtx ..

theorem State.podKept.uiClear (h : s.podKept t) (c : Ctx) (vs : BitVec 64) : s.podKept (t.uiClear c vs) := by
  refine List.foldlRecOn _ _ (h.ibPut ..) fun u hu v _ => ?_
  split
  · exact hu.ibPut ..
  · exact hu

theorem State.podKept.uiUnbind (h : s.podKept t) (k n : Nat) : s.podKept (t.uiUnbind k n) := by
  unfold State.uiUnbind
  split
  · exact h
  · split
    · exact h
    · split
      · exact h
      · exact State.podKept.same (h.uiClear ..) rfl

theorem State.podKept.dropBlock (h : s.podKept t) (k : Nat) : s.podKept (t.dropBlock k) := by
  unfold State.dropBlock
  split
  · exact h
  · next b _ =>
    extract_lets t0 e t1 t2 t3 t4
    have engine : s.podKept t1 := by
      dsimp only [t1]
      split
      · exact (h.uiUnbind ..).same rfl
      · exact h.uiUnbind ..
    have area : s.podKept t2 := by
      dsimp only [t2, State.freeList]
      split
      · split
        · exact (engine.poolFree ..).poolFree ..
        · exact engine.poolFree ..
      · exact engine
    split
    · exact area.same rfl
    · exact area.same rfl

theorem State.podKept.resetGrid (h : s.podKept t) (n : Nat) : s.podKept (t.resetGrid n) :=
  List.foldlRecOn _ _ h fun _ hu b _ => hu.dropBlock b.key

theorem State.podKept.endGrid (h : s.podKept t) (n : Nat) (e : Ending) : s.podKept (t.endGrid n e) := by
  unfold State.endGrid
  split
  · exact h
  · split
    · exact h
    · next g hg _ _ =>
      extract_lets t'
      have ended : s.podKept t' := by
        refine h.trans ⟨rfl, List.Subset.refl _, fun x hx => ?_⟩
        obtain ⟨y, hy, rfl⟩ := List.mem_map.1 hx
        obtain ⟨r, hr, rfl⟩ := List.mem_map.1 hy
        split
        · exact List.mem_map.2 ⟨g, List.mem_of_find?_eq_some hg, rfl⟩
        · exact List.mem_map_of_mem hr
      split
      · exact ended.same rfl
      · exact ended

theorem State.podKept.dropGrid (h : s.podKept t) (n : Nat) : s.podKept (t.dropGrid n) := by
  unfold State.dropGrid
  split
  · exact h
  · next g _ =>
    extract_lets t1 t2 t3
    have args : s.podKept t2 := by
      dsimp only [t2]
      split
      · exact h.resetGrid n
      · exact (h.resetGrid n).poolFree ..
    have parked : s.podKept t3 := by
      dsimp only [t3]
      split
      · exact args
      · exact args.poolFree ..
    refine parked.trans ⟨rfl, List.Subset.refl _, fun x hx => ?_⟩
    obtain ⟨r, hr, rfl⟩ := List.mem_map.1 hx
    exact List.mem_map_of_mem (List.mem_of_mem_filter hr)

/- ### Stops, completions and answers -/

theorem State.podKept.saveFault (h : s.podKept t) (q : Queue) (a : DWord) : s.podKept (t.saveFault q a) :=
  State.podKept.putQueue (List.foldlRecOn _ _ h fun _ hu g _ => (hu.endGrid g.id _).resetGrid g.id) _

theorem State.podKept.unmapFinish (h : s.podKept t) (q : Queue) (stop : Bool) : s.podKept (t.unmapFinish q stop) := by
  unfold State.unmapFinish
  split
  · exact h.saveFault q 0
  · next w =>
    split
    · exact (h.priTold ..).saveFault q _
    · next x => exact (((h.saveArea w).saveHeader x).releaseSlotOf _).fwRecheck

theorem State.podKept.leaveSlot (h : s.podKept t) (q : Queue) : s.podKept (t.leaveSlot q) := by
  unfold State.leaveSlot
  split
  · exact h.putQueue _
  · exact h.unmapFinish q true

theorem State.podKept.stopQueue (h : s.podKept t) (k : Nat) (cls : BitVec 8) : s.podKept (t.stopQueue k cls) := by
  unfold State.stopQueue
  split
  · exact h
  · extract_lets r
    split
    · split
      · exact h.putQueue _
      · exact h.leaveSlot r
    · split
      · exact h.putQueue _
      · split
        · exact h.putQueue _
        · exact h.putQueue _

theorem State.podKept.raiseMsix (h : s.podKept t) (fn v : Nat) : s.podKept (t.raiseMsix fn v) := by
  obtain ⟨fs, ms, eq⟩ := t.raiseMsix_rest fn v
  exact eq ▸ h.same rfl

theorem State.podKept.writeCqe (h : s.podKept t) (k : Nat) (e : KeptCqe) : s.podKept (t.writeCqe k e) := by
  unfold State.writeCqe
  split
  · exact h
  · split
    · exact h
    · split
      · next w =>
        split
        · exact (h.writeVa w).raiseMsix ..
        · exact h.writeVa w
      · exact (h.request ..).setQueue _
      · exact (((h.blame ..).setQueue _).logCtx ..).stopQueue ..

theorem State.podKept.completeCmd (h : s.podKept t) (k : Nat) (f : Flight) (e : Ending) (grid : Word) (station : DWord) :
    s.podKept (t.completeCmd k f e grid station) := by
  unfold State.completeCmd
  split
  · exact h
  · next q _ =>
    have first := h.setQueue { q with flights := q.flights.filter fun x => x.idx != f.idx }
    unfold State.putCqe
    split
    · exact first
    · extract_lets x
      split
      · exact first.writeCqe ..
      · exact first.setQueue _

theorem State.podKept.mbAnswer (h : s.podKept t) (fn status : Nat) (rs : List DWord) :
    s.podKept (t.mbAnswer fn status rs) := by
  unfold State.mbAnswer
  split
  · exact h
  · extract_lets w0 r0 words rsp
    exact State.podKept.raiseMsix (t := t.setFunc _) (h.same rfl) ..

theorem State.podKept.mbGiveUp (h : s.podKept t) : s.podKept t.mbGiveUp :=
  List.foldlRecOn _ _ h fun _ hu _ _ => hu.mbAnswer ..

theorem State.podKept.putRecord (h : s.podKept t) (n : Nat) (a : DWord) (seq : Word) (e : Ending) (grid : Word)
    (station : DWord) : s.podKept (t.putRecord n a seq e grid station) := by
  unfold State.putRecord State.writeRecord
  extract_lets bs
  split
  · exact h.same rfl
  · split
    · exact h
    · split
      · next w => exact h.writeVa w
      · exact (h.priTold ..).logCtx ..

/-- The end of a pod command takes the commands of its handle (R61, R65). -/
theorem State.endPodCmd_takes (t : State) (p : PodCmd) (e : Ending) (grid : Word) (station : DWord) :
    ({ t with podCmds := t.podCmds.filter fun x => x.handle != p.handle } : State).podKept
      (t.endPodCmd p e grid station) := by
  have freed := (State.podKept.refl { t with podCmds := t.podCmds.filter fun x => x.handle != p.handle }).poolFree
    p.ctx p.record
  unfold State.endPodCmd
  split
  · exact freed.completeCmd ..
  · exact freed.putRecord ..
  · exact freed

/- ### A package that fences itself (R67, R74, R75) -/

theorem State.podKept.ids (h : s.podKept t) : t.grids.map (·.id) ⊆ s.grids.map (·.id) := by
  have marks := List.map_subset Prod.fst h.grids
  rwa [List.map_map, List.map_map] at marks

/-- Grids dropped one after another are gone. -/
theorem State.foldl_dropGrid (l : List Grid) : ∀ t : State, t.podKept (l.foldl (fun s g => s.dropGrid g.id) t) ∧
    ∀ g ∈ l, g.id ∉ (l.foldl (fun s g => s.dropGrid g.id) t).grids.map (·.id) := by
  induction l with
  | nil => exact fun t => ⟨.refl t, by simp⟩
  | cons g l ih =>
    intro t
    obtain ⟨kept, gone⟩ := ih (t.dropGrid g.id)
    refine ⟨((State.podKept.refl t).dropGrid g.id).trans kept, fun x hx => ?_⟩
    rcases List.mem_cons.1 hx with rfl | hx
    · exact fun back => t.dropGrid_gone x.id (kept.ids back)
    · exact gone x hx

/-- Pod commands ended one after another are gone. -/
theorem State.foldl_endPodCmd (e : State → Ending) (grid : PodCmd → Word) (station : PodCmd → DWord) (l : List PodCmd) :
    ∀ t : State, t.podKept (l.foldl (fun s p => s.endPodCmd p (e s) (grid p) (station p)) t) ∧
      ∀ p ∈ l, p ∉ (l.foldl (fun s p => s.endPodCmd p (e s) (grid p) (station p)) t).podCmds := by
  induction l with
  | nil => exact fun t => ⟨.refl t, by simp⟩
  | cons p l ih =>
    intro t
    have takes := t.endPodCmd_takes p (e t) (grid p) (station p)
    obtain ⟨kept, gone⟩ := ih (t.endPodCmd p (e t) (grid p) (station p))
    refine ⟨State.podKept.trans ⟨takes.parts, fun x hx => List.mem_of_mem_filter (takes.cmds hx), takes.grids⟩ kept,
      fun x hx back => ?_⟩
    rcases List.mem_cons.1 hx with rfl | hx
    · simpa using (List.mem_filter.1 (takes.cmds (kept.cmds back))).2
    · exact gone x hx back

/-- A package that fences itself before it drops its grids and ends its commands. -/
def State.leavesPod (s : State) : State := { s.setPf (8 + s.pkg) 0 2 2 with
  rows := [], parked := [], launches := [], trav := { Traverse.reset with role := .fenced } }

/-- A membership row written FENCED reads so (R53). -/
theorem fld_fenced (w : DWord) : fld (setFld w 0 2 2) 0 2 = 2 := by
  simp only [fld, setFld, BitVec.toNat_ofNat]
  omega

theorem State.memState_leavesPod : s.leavesPod.memState s.pkg = 2 := by
  have word : s.leavesPod.pw (8 + s.pkg) = setFld (s.pw (8 + s.pkg)) 0 2 2 :=
    (s.pw_setPw (8 + s.pkg) (8 + s.pkg) _).trans (if_pos rfl)
  rw [State.memState, State.pf, word, fld_fenced]

/-- Its pod grids reset (R74). -/
def State.podGridsDropped (t : State) : State :=
  (t.grids.filter (·.pod)).foldl (fun s g => s.dropGrid g.id) t.mbGiveUp

/-- Its own pod commands ended with POD_FENCED (R75). -/
def State.podCmdsFenced (t : State) (st : DWord) : State :=
  t.podCmds.foldl (fun s p => s.endPodCmd p ⟨stAborted, 0x42, BitVec.ofNat 16 s.pkg, st⟩
    ((p.grid.map fun g => BitVec.ofNat 32 g).getD noGrid) (if p.grid.isSome then p.station else noStation)) t

theorem State.podGridsDropped_drops (t : State) : t.podKept t.podGridsDropped ∧
    ∀ g ∈ t.podGridsDropped.grids, g.pod = false := by
  obtain ⟨dropped, gone⟩ := State.foldl_dropGrid (t.grids.filter (·.pod)) t.mbGiveUp
  have kept : t.podKept t.podGridsDropped := (State.podKept.refl t).mbGiveUp.trans dropped
  refine ⟨kept, fun g hg => ?_⟩
  by_contra pod
  obtain ⟨x, hx, mark⟩ := List.mem_map.1 (kept.grids (List.mem_map_of_mem hg))
  obtain ⟨id, flag⟩ := Prod.mk.inj mark
  refine gone x (List.mem_filter.2 ⟨hx, flag.trans (Bool.eq_true_of_not_eq_false pod)⟩) ?_
  exact id ▸ List.mem_map_of_mem hg

theorem State.podCmdsFenced_ends (t : State) (st : DWord) : t.podKept (t.podCmdsFenced st) ∧
    (t.podCmdsFenced st).podCmds = [] := by
  obtain ⟨kept, gone⟩ := State.foldl_endPodCmd (fun s => ⟨stAborted, 0x42, BitVec.ofNat 16 s.pkg, st⟩)
    (fun p => (p.grid.map fun g => BitVec.ofNat 32 g).getD noGrid)
    (fun p => if p.grid.isSome then p.station else noStation) t.podCmds t
  exact ⟨kept, List.eq_nil_iff_forall_not_mem.2 fun p hp => gone p (kept.cmds hp) hp⟩

theorem State.fenceSelf_eq (s : State) (st : DWord) :
    s.fenceSelf st = s.leavesPod.podGridsDropped.podCmdsFenced st := rfl

/-- Its row is FENCED, and nothing of the pod is left to it (R67, R74, R75). -/
theorem State.fenceSelf_leaves (s : State) (st : DWord) : (s.fenceSelf st).trav.role = .fenced ∧
    (s.fenceSelf st).memState (s.fenceSelf st).pkg = 2 ∧ (s.fenceSelf st).rows = [] ∧ (s.fenceSelf st).podCmds = [] ∧
    ∀ g ∈ (s.fenceSelf st).grids, g.pod = false := by
  obtain ⟨dropped, noGrid_⟩ := s.leavesPod.podGridsDropped_drops
  obtain ⟨ended, noCmd⟩ := s.leavesPod.podGridsDropped.podCmdsFenced_ends st
  rw [← State.fenceSelf_eq] at ended noCmd
  have parts := (dropped.trans ended).parts
  simp only [State.podParts, Prod.mk.injEq] at parts
  obtain ⟨plat, pkg, role, rows⟩ := parts
  rw [show s.leavesPod.pkg = s.pkg from rfl] at pkg
  refine ⟨role, ?_, rows, noCmd, fun g hg => ?_⟩
  · rw [pkg, State.memState, State.pf, State.pw, plat]
    exact s.memState_leavesPod
  · obtain ⟨x, hx, mark⟩ := List.mem_map.1 (ended.grids (List.mem_map_of_mem hg))
    exact (Prod.mk.inj mark).2 ▸ noGrid_ x hx

/- ### A closure word that loses (R60, R67) -/

/-- How many members sent a closure word. -/
theorem State.held_count (s : State) (v : DWord) : (s.held.filter fun b => b.pclose == v).length =
    s.members.countP fun p => (s.batchOf p).any fun b => b.pclose == v := by
  rw [← List.countP_eq_length_filter, State.held, List.countP_filterMap]
  refine List.countP_congr fun p _ => ?_
  cases s.batchOf p <;> rfl

/-- Of three members and more a package whose closure word no other sent loses. -/
theorem State.loses_alone {a v : DWord} (other : a ≠ v) (self : s.pkg ∈ s.members) (complete : s.missing = [])
    (many : 3 ≤ s.members.length) (words : ∀ p ∈ s.members, ∀ b, s.batchOf p = some b →
      b.pclose = if p = s.pkg then a else v) : s.pkg ∈ s.losers := by
  have count (w : DWord) : (s.held.filter fun b => b.pclose == w).length =
      s.members.countP fun p => (if p = s.pkg then a else v) == w := by
    rw [State.held_count]
    refine List.countP_congr fun p hp => ?_
    obtain ⟨b, hb⟩ := State.batchOf_of_complete complete hp
    rw [hb, Option.any_some, words p hp b hb]
  have alone : (fun p => (if p = s.pkg then a else v) == a) = fun p => decide (p = s.pkg) := by
    funext p
    by_cases h : p = s.pkg <;> simp [h, other.symm]
  have rest : (fun p => (if p = s.pkg then a else v) == v) = fun p => decide (¬ decide (p = s.pkg) = true) := by
    funext p
    by_cases h : p = s.pkg <;> simp [h, other]
  have once : s.members.countP (fun p => decide (p = s.pkg)) ≤ 1 :=
    List.nodup_iff_count_le_one.1 s.members_sorted.nodup s.pkg
  have total := List.length_eq_countP_add_countP (fun p => decide (p = s.pkg)) (l := s.members)
  have won : winning s.held = v := by
    refine winning_eq ?_ fun b hb ne => ?_
    · have some_ : 0 < (s.held.filter fun b => b.pclose == v).length := by rw [count, rest]; omega
      obtain ⟨b, hb⟩ := List.exists_mem_of_length_pos some_
      obtain ⟨held, word⟩ := List.mem_filter.1 hb
      exact ⟨b, held, by simpa using word⟩
    · obtain ⟨p, member, hp⟩ := State.mem_held.1 hb
      have word := words p member b hp
      rw [if_pos (by_contra fun h => ne (word.trans (if_neg h)))] at word
      rw [word, count, count, alone, rest]
      omega
  obtain ⟨b, hb⟩ := State.batchOf_of_complete complete self
  exact State.mem_losers.2 ⟨self, b, hb, by rw [words _ self b hb, won, if_pos rfl]; exact other⟩

end

end Sys2Proof.Machine
end

section
/-! SUPPORT. The statement about the stations of the traverse. -/

namespace Sys2Proof.Machine

theorem State.suspected_iff {s : State} : s.trav.suspects.any s.batchSent.missing.contains = true ↔
    ∃ q ∈ s.trav.suspects, q ∈ s.missing ∧ q ≠ s.pkg := by
  simp only [List.any_eq_true, List.contains_iff_mem, State.mem_missing_batchSent]

theorem stations : Claims.Stations := by
  refine ⟨?sends, ?sendsVote, ?sendsNothing, ?receives, ?repeated, ?old, ?early, ?timeout, ?noTimeout, ?unreachable,
    ?unreachableYet, ?notUnreachable, ?vote, ?lacking, ?closes, ?fences⟩
  case sends =>
    intro s ⟨own, due, calm⟩
    refine ⟨s.batchSent, ?_, rfl, s.outgoing_length⟩
    rw [execBatchSend_sends own due, if_neg (mt State.suspected_iff.1 calm)]
  case sendsVote =>
    intro s ⟨own, due, suspected⟩
    refine ⟨s.batchSent.castVote s.batchSent.missing, ?_, pkgMask s.batchSent.missing, fun p hp => ?_, rfl⟩
    · rw [execBatchSend_sends own due, if_pos (State.suspected_iff.2 suspected)]
    · rw [pkgMask_bit s.batchSent.missing_sorted hp, State.mem_missing_batchSent]
  case sendsNothing => exact fun s h => ⟨s, execBatchSend_idle h, rfl⟩
  case receives =>
    rintro sender recs st s ⟨own, some_, rfl, member, new, novote⟩
    exact ⟨_, execBatchReceive_open own some_ member new novote, rfl⟩
  case repeated =>
    rintro sender recs st s ⟨own, rfl, h⟩
    exact ⟨s, execBatchReceive_repeated own h, rfl⟩
  case old => exact fun sender recs st s ⟨own, h⟩ => ⟨s, execBatchReceive_ignored own (.inr h), rfl⟩
  case early => exact fun sender recs st s ⟨own, some_, h, ahead, fresh⟩ =>
    ⟨_, execBatchReceive_later own some_ h ahead fresh, rfl⟩
  case timeout => exact fun s ⟨own, sent, lacks⟩ => ⟨_, execSuspectTimeout_votes own sent lacks, pkgMask s.missing,
    fun _ hp => pkgMask_bit s.missing_sorted hp, rfl⟩
  case noTimeout => exact fun s h => ⟨s, execSuspectTimeout_idle h, rfl⟩
  case unreachable =>
    intro q s ⟨own, other, lacks, new, sent⟩
    refine ⟨_, execUnreachableReport_suspects own other lacks new, pkgMask s.missing,
      fun _ hp => pkgMask_bit s.missing_sorted hp, if_pos sent⟩
  case unreachableYet =>
    intro q s ⟨own, other, lacks, new, sent⟩
    exact ⟨_, execUnreachableReport_suspects own other lacks new, if_neg (by simp [sent])⟩
  case notUnreachable => exact fun q s h => ⟨s, execUnreachableReport_idle h, rfl⟩
  case vote =>
    intro voter st m s ⟨own, member⟩
    refine ⟨_, execVoteReceive_member own member, ?_⟩
    split
    · rfl
    · split
      · rfl
      · split
        · rfl
        · rfl
  case lacking => exact fun s ⟨own, unvoted, lacks⟩ => ⟨s, execStationClose_lacking own unvoted lacks, rfl⟩
  case closes =>
    intro v s ⟨own, self, complete, quiet, silent, joins, h⟩
    refine ⟨_, (execStationClose_empty own self complete quiet silent joins h).trans (congrArg _ s.rotated_openNext),
      rfl, s.pw_rotated 0, s.pw_rotated 1, fun k hk => ?_, rfl⟩
    exact (s.pw_rotated k).trans ((if_neg (by omega)).trans (if_neg (by omega)))
  case fences =>
    intro a v other s ⟨own, self, complete, many, words⟩
    refine ⟨s.fenceSelf (s.station + 1), ?_, s.fenceSelf_leaves _⟩
    rw [execStationClose_complete own.1 self complete, if_pos (State.loses_alone other self complete many words)]

end Sys2Proof.Machine
end

section
/-! SUPPORT. Joining a pod (R51, R54, R70): a sponsor's JOIN records, and the snapshot that starts the replay. -/

namespace Sys2Proof.Machine

section
variable {s : State} {p : Nat} {ask : JoinAsk}

/-- Answers of the mailbox change the functions and their vectors alone (R381). -/
theorem State.mbWake_rest (s : State) (what : MbAwait) (status : Nat) (rs : List DWord) :
    ∃ fs ms, s.mbWake what status rs = { s with funcs := fs, msix := ms } := by
  refine List.foldlRecOn (motive := fun t : State => ∃ fs ms, t = { s with funcs := fs, msix := ms }) _ _
    ⟨s.funcs, s.msix, rfl⟩ ?_
  rintro _ ⟨fs, ms, rfl⟩ f -
  unfold State.mbAnswer
  split
  · exact ⟨fs, ms, rfl⟩
  · extract_lets w0 r0 words rsp
    next g _ =>
    obtain ⟨fs', ms', eq⟩ := State.raiseMsix_rest
      (({ s with funcs := fs, msix := ms } : State).setFunc { g with mbrsp := rsp, busy := false, await := none }) f.num 0
    exact ⟨fs', ms', eq⟩

theorem State.mbWake_none {what : MbAwait} {status : Nat} {rs : List DWord} (h : ∀ f ∈ s.funcs, f.await ≠ some what) :
    s.mbWake what status rs = s := by
  have none_ : s.funcs.filter (fun f => f.await == some what) = [] :=
    List.filter_eq_nil_iff.2 fun f hf => by simpa using h f hf
  rw [State.mbWake, none_]
  rfl

theorem execJoinRequest_openRow {row : DWord} (own : s.trav.role = .member ∧ s.memState s.pkg = 1) :
    exec (.joinRequest p (.openRow row)) s = .next (s.raiseJoin p 0 (if s.memState p = 0 then row else 0)) :=
  congrArg Host.Outcome.next (if_neg (by simp [State.isMember_iff.2 own]))

theorem execJoinRequest_allow (own : s.trav.role = .member ∧ s.memState s.pkg = 1) :
    exec (.joinRequest p .allow) s = .next (if p ∈ s.trav.joins then s.raiseJoin p 1 0 else s) :=
  congrArg Host.Outcome.next ((if_neg (by simp [State.isMember_iff.2 own])).trans
    (if_congr List.contains_iff_mem rfl rfl))

theorem execJoinRequest_abandon (own : s.trav.role = .member ∧ s.memState s.pkg = 1) :
    exec (.joinRequest p .abandon) s = .next (if p ∈ s.trav.joins then s.raiseJoin p 2 0 else s) :=
  congrArg Host.Outcome.next ((if_neg (by simp [State.isMember_iff.2 own])).trans
    (if_congr List.contains_iff_mem rfl rfl))

theorem execJoinRequest_outside (out : ¬ (s.trav.role = .member ∧ s.memState s.pkg = 1)) :
    exec (.joinRequest p ask) s = .next (if s.trav.sponsor = some p ∧ ask = .abandon then
      { s with trav := { s.trav with sponsor := none } }.mbWake .join 1 [] else s) :=
  congrArg Host.Outcome.next (if_pos (State.not_isMember_iff.2 out))

theorem execJoinRequest_nothing (h : (¬ (s.trav.role = .member ∧ s.memState s.pkg = 1) ∧
      ¬ (s.trav.sponsor = some p ∧ ask = .abandon)) ∨
    ((s.trav.role = .member ∧ s.memState s.pkg = 1) ∧ p ∉ s.trav.joins ∧ (ask = .allow ∨ ask = .abandon))) :
    exec (.joinRequest p ask) s = .next s := by
  rcases h with ⟨out, other⟩ | ⟨own, absent, rfl | rfl⟩
  · rw [execJoinRequest_outside out, if_neg other]
  · exact (execJoinRequest_allow own).trans (congrArg _ (if_neg absent))
  · exact (execJoinRequest_abandon own).trans (congrArg _ (if_neg absent))

/-- A joiner whose sponsor gave it up waits no more (R54, R383). -/
theorem execJoinRequest_refused (out : ¬ (s.trav.role = .member ∧ s.memState s.pkg = 1)) (sponsor : s.trav.sponsor = some p) :
    ∃ t, exec (.joinRequest p .abandon) s = .next t ∧ t.trav = { s.trav with sponsor := none } ∧
      ((∀ f ∈ s.funcs, f.await ≠ some .join) → t = { s with trav := t.trav }) := by
  refine ⟨_, (execJoinRequest_outside out).trans (congrArg _ (if_pos ⟨sponsor, rfl⟩)), ?_, fun h => ?_⟩
  · obtain ⟨fs, ms, eq⟩ := State.mbWake_rest { s with trav := { s.trav with sponsor := none } } .join 1 []
    rw [eq]
  · rw [State.mbWake_none (s := { s with trav := { s.trav with sponsor := none } }) h]

theorem execJoinProgressCheck_eq : exec (.joinProgressCheck p) s = .next
    (if (s.trav.role = .member ∧ s.memState s.pkg = 1) ∧ p ∈ s.trav.joins ∧ s.memState p = 3 then s.raiseJoin p 2 0
    else s) := by
  refine congrArg Host.Outcome.next (if_congr ?_ rfl rfl)
  rw [Bool.and_eq_true, Bool.and_eq_true, State.isMember_iff, List.contains_iff_mem, beq_iff_eq, and_assoc]

/- ### The snapshot (R70 step 4) -/

theorem execSnapshotLoad_ignored {st : BitVec 64} {words : List (Nat × BitVec 64)}
    (h : s.trav.sponsor = none ∨ s.trav.role = .member ∨ s.trav.role = .replaying) :
    exec (.snapshotLoad st words) s = .next s := by
  refine congrArg Host.Outcome.next (if_pos ?_)
  simpa [or_assoc] using h

/-- The plat that a snapshot loads (R70). -/
def snapshotPlat (st : DWord) (words : List (Nat × DWord)) : List (Nat × DWord) :=
  platSet ((words.filter fun e => decide (e.1 < 19752)).foldl (fun m e => platSet m e.1 e.2) []) 0 st

theorem execSnapshotLoad_replays {st : BitVec 64} {words : List (Nat × BitVec 64)} (sponsor : s.trav.sponsor ≠ none)
    (out : s.trav.role ≠ .member) (idle : s.trav.role ≠ .replaying) :
    exec (.snapshotLoad st words) s = .next ({ s with
      plat := snapshotPlat st words
      trav := { s.trav with
        role := .replaying, matched := false
        later := s.trav.later.filter fun p => decide (st.toNat < p.1.toNat) } } : State).openNext := by
  refine congrArg Host.Outcome.next ((if_neg ?_).trans ?_)
  · simpa [out, idle, Option.isNone_iff_eq_none] using sponsor
  · rw [snapshotPlat, List.foldl_filter]
    simp only [decide_eq_true_eq]

theorem snapshotPlat_zero {st : DWord} {words : List (Nat × DWord)} : platGet (snapshotPlat st words) 0 = st := by
  rw [snapshotPlat, platGet_platSet, if_pos rfl]

/-- A word of the snapshot reads back. -/
theorem snapshotPlat_mem {st : DWord} {words : List (Nat × DWord)} (once : (words.map fun e => e.1).Nodup)
    {e : Nat × DWord} (he : e ∈ words) (pos : 0 < e.1) (small : e.1 < 19752) : platGet (snapshotPlat st words) e.1 = e.2 := by
  rw [snapshotPlat, platGet_platSet, if_neg pos.ne']
  exact platGet_foldl_platSet_mem _ _ (once.sublist (List.filter_sublist.map _))
    (List.mem_filter.2 ⟨he, decide_eq_true small⟩)

/-- A word that the snapshot leaves out is at reset. -/
theorem snapshotPlat_out {st : DWord} {words : List (Nat × DWord)} {k : Nat} (pos : 0 < k) (h : ∀ e ∈ words, e.1 ≠ k) :
    platGet (snapshotPlat st words) k = platReset k := by
  rw [snapshotPlat, platGet_platSet, if_neg pos.ne',
    platGet_foldl_platSet_out _ _ fun e he => h e (List.mem_of_mem_filter he)]
  rfl

end

end Sys2Proof.Machine
end

section
/-! SUPPORT. The ranks of pod grids (R64, R65, R78, R79): a START row enacted, the offer of a rank, and FINISH. -/

namespace Sys2Proof.Machine

section
variable {s : State} {n : Nat} {g : Grid}

theorem State.grid?_setGrid {h : Grid} (hg : s.grid? g.id = some h) (n : Nat) :
    (s.setGrid g).grid? n = if n = g.id then some g else s.grid? n := by
  split
  · next hn => rw [hn, setGrid_grid?_self hg]
  · next hn => exact setGrid_grid?_other hn

/- ### FINISH (R51, R79) -/

/-- Whether a rank without blocks is done (R79). -/
def Grid.finished (g : Grid) : Prop :=
  g.pod = true ∧ g.offered = true ∧ g.complete = false ∧ g.stopped = false ∧ g.ending = none ∧ g.quartets ≤ g.nextQuartet

theorem execRaiseFinish_finishes (hg : s.grid? g.id = some g) (hb : ∀ b ∈ s.blocks, b.grid ≠ g.id) (done : g.finished) :
    exec (.raiseFinish g.id) s =
      .next ((s.setGrid { g with complete := true }).raiseEvent 2 0 (BitVec.ofNat 32 g.id) 0 0) := by
  obtain ⟨pod, offered, complete, stopped, ending, placed⟩ := done
  have id : BitVec.ofNat 32 g.pid = BitVec.ofNat 32 g.id := BitVec.eq_of_toNat_eq (by simp [Grid.pid])
  refine congrArg Host.Outcome.next ?_
  dsimp only
  rw [State.sweep_none hb, hg]
  refine (if_pos ?_).trans (by rw [id])
  simpa [pod, offered, complete, stopped, ending, Grid.allPlaced, placed] using hb

theorem execRaiseFinish_waits (hg : s.grid? g.id = some g) (hb : ∀ b ∈ s.blocks, b.grid ≠ g.id) (left : ¬ g.finished) :
    exec (.raiseFinish g.id) s = .next s := by
  refine congrArg Host.Outcome.next ?_
  dsimp only
  rw [State.sweep_none hb, hg]
  refine if_neg fun done => left ?_
  simp only [Bool.and_eq_true, Bool.not_eq_true', Option.isNone_iff_eq_none, Grid.allPlaced, decide_eq_true_eq] at done
  obtain ⟨⟨⟨⟨⟨⟨pod, offered⟩, complete⟩, stopped⟩, ending⟩, placed⟩, -⟩ := done
  exact ⟨pod, offered, complete, stopped, ending, placed⟩

/- ### The offer of a rank (R64, R78) -/

/-- Whether a local block stands on a parcel that the rank claims (R78). -/
def State.claimed (s : State) (g : Grid) : Prop := ∃ b ∈ s.blocks, b.ended = false ∧ b.res = .resident ∧
  g.parcels.getLsbD (2 * b.die + b.quad / 24) = true ∧ ∃ h, s.grid? b.grid = some h ∧ h.pod = false

theorem State.takeHeld_none (h : s.heldRemote = []) (n : Nat) : s.takeHeld n = s := by
  simp only [State.takeHeld, h, List.filter_nil, List.map_nil, List.append_nil]
  rw [← h]

theorem State.claimed_iff : (s.blocks.any fun b => b.res == .resident && !b.ended &&
    g.parcels.getLsbD (2 * b.die + b.quad / 24) &&
    (match s.grid? b.grid with
    | some h => !h.pod
    | none => false)) = true ↔ s.claimed g := by
  rw [List.any_eq_true]
  refine exists_congr fun b => and_congr_right fun _ => ?_
  cases s.grid? b.grid with
  | none => simp
  | some h => simp [and_comm, and_left_comm, and_assoc]

/-- Once the rows are enacted a rank is offered if no local block stands on its parcels. -/
theorem execStartOffer_offers {t : State} (rows : s.enact = t) (hg : t.grid? n = some g) (pod : g.pod = true)
    (new : g.offered = false) (ending : g.ending = none) (free : ¬ t.claimed g) (held : t.heldRemote = []) :
    exec (.startOffer n) s = .next (t.setGrid { g with offered := true }) := by
  subst rows
  refine congrArg Host.Outcome.next ?_
  simp only [hg]
  refine (if_neg ?_).trans (State.takeHeld_none (s := s.enact.setGrid _) held _)
  rw [pod, new, ending]
  exact mt State.claimed_iff.1 free

theorem execStartOffer_claimed {t : State} (rows : s.enact = t) (hg : t.grid? n = some g) (block : t.claimed g) :
    exec (.startOffer n) s = .next t := by
  subst rows
  refine congrArg Host.Outcome.next ?_
  simp only [hg]
  refine if_pos ?_
  rw [Bool.or_eq_true]
  exact .inr (State.claimed_iff.2 block)

/- ### A START row (R64, R65) -/

theorem State.claim_none (h : s.blocks = []) (m : BitVec 8) : s.claim m = s := by
  simp only [State.claim, h, List.filter_nil, List.map_nil]
  rfl

theorem State.recordId_free (h : s.grid? n = none) : s.recordId n = n := by
  rw [State.recordId, List.range_succ_eq_map, List.map_cons, List.find?_cons]
  simp [h]

/-- The record of a rank that a START row gives (R64, R65). -/
def State.startedRank (s : State) (r : Row) (row : Nat) (bs : List Byte) (c : Ctx) (img : Image) : Grid :=
  { newGrid c img (recordFields bs) 0 0 with
    id := r.grid, pod := true, rank := r.rank, nrank := s.rowN row, parcels := r.mask, takeover := 0, offered := false }

theorem State.argCopy_nil (s : State) (c : Ctx) : s.argCopy c [] = some (s, 0, 0) := rfl

/-- A START whose image passes its checks and that has no arguments gives the rank its record (R64). -/
theorem State.admitGrid_starts {u : State} {r : Row} {row : Nat} {bs : List Byte} {c : Ctx} {img : Image}
    (kind : r.kind = .start) (args : bitsOf bs 32 16 = 0) (blocks : s.blocks = []) (new : s.grid? r.grid = none)
    (check : img.check = s.pw (rowWord row 2)) (room : img.desc.area ≤ c.poolSize)
    (image : s.readImage c 5 (leNat ((bs.drop 2).take 2)) (BitVec.ofNat 64 (bitsOf bs 64 64)) = .ok u img) :
    s.admitGrid r row bs c = .gone { s with acache := u.acache, grids := s.grids ++ [s.startedRank r row bs c img] } := by
  obtain ⟨x, rfl⟩ := State.readImage_ok image
  have fields : recordFields bs = [⟨2, 0, (bs.drop 2).take 2⟩, ⟨3, 0, (bs.drop 16).take 12⟩] := by
    rw [recordFields, args]
    rfl
  have entry : fieldNum (recordFields bs) 2 0 = leNat ((bs.drop 2).take 2) := by rw [fields]; rfl
  have noArgs : ((fieldOf (recordFields bs) 4).map (·.val)).getD [] = [] := by rw [fields]; rfl
  have free : ({ s with acache := x } : State).recordId r.grid = r.grid := State.recordId_free new
  have matched : ¬ img.check ≠ ({ s with acache := x } : State).pw (rowWord row 2) := not_not.2 check
  have start : ¬ r.kind = .takeover := by rw [kind]; decide
  rw [State.admitGrid]
  dsimp only
  rw [entry, image]
  dsimp only
  rw [if_neg matched, if_neg room.not_gt, noArgs, State.argCopy_nil]
  dsimp only
  rw [free, if_neg start]
  exact congrArg Enacted.gone (State.claim_none (s := { s with
    acache := x, grids := s.grids ++ [s.startedRank r row bs c img] }) blocks r.mask)

/-- A START row of a grid whose launch record this package holds is enacted from that record (R64). -/
theorem State.enactRow_start {r : Row} {row : Nat} {bs : List Byte} {c : Ctx} (kind : r.kind = .start)
    (hrow : s.rowOf r.grid = some row) (running : s.rowState row = 2) (origin : s.rowOrigin row = s.pkg)
    (record : s.recordBytes (s.rowHandle row) = some bs) (ctx : s.podCtx (s.rowPctx row) = some c) :
    s.enactRow r = (s.keepLaunch r.grid bs).admitGrid r row bs c := by
  have admitted : s.enactRecord r row bs = (s.keepLaunch r.grid bs).admitGrid r row bs c := by
    rw [State.enactRecord, ctx]
    exact if_pos (by rw [kind]; decide)
  rw [← admitted]
  simp only [State.enactRow, kind, hrow, running, origin, record, ne_eq, not_true_eq_false, if_false, if_true]

/-- One row enacted whole. -/
theorem State.enact_one {r : Row} {t : State} (one : s.rows = [r]) (role : s.trav.role ≠ .fenced)
    (calm : s.fw.state ≠ .switching) (gone : s.enactRow r = .gone t) : s.enact = { t with rows := [] } := by
  have free : ¬ (s.trav.role = .fenced ∨ s.fwHeld = true) := by simpa [State.fwHeld, role] using calm
  rw [State.enact, one]
  show s.enactRows 2 = _
  rw [State.enactRows, one]
  dsimp only
  rw [if_neg free, gone]
  rfl

theorem State.grids_new (new : s.grid? n = none) : ∀ x ∈ s.grids, x.id ≠ n := by
  simpa [State.grid?] using new

/-- A START row gives the rank its record, and the rank is offered where this package runs no block (R64, R78). -/
theorem execStartOffer_starts {u : State} {r : Row} {row : Nat} {bs : List Byte} {c : Ctx} {img : Image}
    (one : s.rows = [r]) (kind : r.kind = .start) (hrow : s.rowOf r.grid = some row) (running : s.rowState row = 2)
    (origin : s.rowOrigin row = s.pkg) (record : s.recordBytes (s.rowHandle row) = some bs)
    (ctx : s.podCtx (s.rowPctx row) = some c) (check : img.check = s.pw (rowWord row 2))
    (room : img.desc.area ≤ c.poolSize) (args : bitsOf bs 32 16 = 0) (blocks : s.blocks = []) (held : s.heldRemote = [])
    (role : s.trav.role ≠ .fenced) (calm : s.fw.state ≠ .switching) (new : s.grid? r.grid = none)
    (image : (s.keepLaunch r.grid bs).readImage c 5 (leNat ((bs.drop 2).take 2)) (BitVec.ofNat 64 (bitsOf bs 64 64)) =
      .ok u img) :
    exec (.startOffer r.grid) s = .next { s with
      rows := [], acache := u.acache
      grids := s.grids ++ [{ s.startedRank r row bs c img with offered := true }]
      launches := (s.launches.filter fun e => e.1 != r.grid) ++ [(r.grid, bs)] } := by
  have rows := State.enact_one one role calm ((State.enactRow_start kind hrow running origin record ctx).trans
    (State.admitGrid_starts (s := s.keepLaunch r.grid bs) kind args blocks new check room image))
  have found : (s.grids ++ [s.startedRank r row bs c img]).find? (fun x => x.id == r.grid) =
      some (s.startedRank r row bs c img) := by
    rw [List.find?_append, show s.grids.find? (fun x => x.id == r.grid) = none from new]
    exact List.find?_cons_of_pos (p := fun x : Grid => x.id == r.grid) (beq_self_eq_true r.grid)
  have replaced : (s.grids ++ [s.startedRank r row bs c img]).map (fun x => if x.id = r.grid then
      { s.startedRank r row bs c img with offered := true } else x) =
      s.grids ++ [{ s.startedRank r row bs c img with offered := true }] := by
    rw [List.map_append, List.map_congr_left fun x hx => if_neg (State.grids_new new x hx), List.map_id']
    exact congrArg _ (congrArg (fun g => [g]) (if_pos rfl))
  refine (execStartOffer_offers rows found rfl rfl rfl ?_ held).trans (congrArg Host.Outcome.next ?_)
  · rintro ⟨b, hb, -⟩
    exact List.not_mem_nil (blocks ▸ hb)
  · rw [← replaced]
    rfl

end

/- ### The statement -/

theorem podGrids : Claims.PodGrids := by
  refine ⟨?openRow, ?allow, ?abandon, ?nothing, ?refused, ?stuck, ?moves, ?snapshot, ?noSnapshot, ?start, ?offer, ?claimed,
    ?finish, ?unfinished⟩
  case openRow => exact fun p row s own => ⟨_, execJoinRequest_openRow own, rfl⟩
  case allow => exact fun p s ⟨own, joins⟩ => ⟨_, execJoinRequest_allow own, if_pos joins⟩
  case abandon => exact fun p s ⟨own, joins⟩ => ⟨_, execJoinRequest_abandon own, if_pos joins⟩
  case nothing => exact fun p ask s h => ⟨s, execJoinRequest_nothing h, rfl⟩
  case refused => exact fun p s ⟨out, sponsor⟩ => execJoinRequest_refused out sponsor
  case stuck => exact fun p s h => ⟨_, execJoinProgressCheck_eq, if_pos h⟩
  case moves => exact fun p s h => ⟨_, execJoinProgressCheck_eq, if_neg h⟩
  case snapshot =>
    intro st words s ⟨sponsor, out, idle, once⟩
    exact ⟨_, execSnapshotLoad_replays sponsor out idle, rfl, rfl, rfl, snapshotPlat_zero,
      fun e he pos small => snapshotPlat_mem once he pos small, fun k pos absent => snapshotPlat_out pos absent⟩
  case noSnapshot => exact fun st words s h => ⟨s, execSnapshotLoad_ignored h, rfl⟩
  case start =>
    intro r row bs c img s ⟨one, kind, hrow, running, origin, record, ctx, check, room, args, blocks, held, role, calm,
      new, u, image⟩
    exact ⟨_, execStartOffer_starts one kind hrow running origin record ctx check room args blocks held role calm new image,
      _, rfl, rfl, rfl, rfl, rfl, rfl, rfl, rfl, rfl, rfl, rfl⟩
  case offer =>
    intro g s ⟨rows, held, hg, pod, new, ending, free⟩
    refine ⟨_, execStartOffer_offers (State.enact_nil rows) hg pod new ending ?_ held, rfl,
      State.grid?_setGrid (g := { g with offered := true }) hg⟩
    rintro ⟨b, hb, live, resident, parcel, h, hh, local_⟩
    obtain ⟨h', hh', pod'⟩ := free b hb live resident parcel
    obtain rfl := Option.some.inj (hh.symm.trans hh')
    exact absurd (local_.symm.trans pod') (by decide)
  case claimed => exact fun g h b s ⟨rows, hg, hb, live, resident, parcel, hh, local_⟩ =>
    ⟨s, execStartOffer_claimed (State.enact_nil rows) hg ⟨b, hb, live, resident, parcel, h, hh, local_⟩, rfl⟩
  case finish =>
    intro g s ⟨hg, hb, done⟩
    exact ⟨_, execRaiseFinish_finishes hg hb done, rfl, State.grid?_setGrid (g := { g with complete := true }) hg⟩
  case unfinished =>
    intro g s ⟨hg, hb, left⟩
    refine ⟨s, execRaiseFinish_waits hg hb ?_, rfl⟩
    rintro ⟨pod, offered, complete, stopped, ending, placed⟩
    rcases left with h | h | h | h | h | h
    · simp [pod] at h
    · simp [offered] at h
    · simp [complete] at h
    · simp [stopped] at h
    · exact h ending
    · omega

end Sys2Proof.Machine
end

section
/-! SUPPORT. The statement about stations and pod grids. -/

namespace Sys2Proof.Machine

/-- Settles O47: the stations of the traverse, and joining with the ranks of pod grids. The closings rest on
`foldl_most` (the winning closure word), a fence on `State.podKept` (what grids and commands that end leave of the pod's
part). -/
theorem podStationsAndGrids : Obligations.PodStationsAndGrids := ⟨stations, podGrids⟩

end Sys2Proof.Machine
end

section
/-! SUPPORT. A fetch through an empty instruction cache (R92 to R95, R108), and the statement about one step: the words
read are those that memory holds, and the fetch changes what the cache holds alone. -/

namespace Sys2Proof.Machine

/- ### What a fetch reads and leaves alone -/

/-- A walk reads no core's state. -/
theorem walk_setCore (s : State) (k : Nat) (x : Core) (ctx va : Nat) (acc : Access) (levels : List (Nat × Nat × Bool)) :
    ∀ tier off, walk (s.setCore k x) ctx va acc levels tier off = walk s ctx va acc levels tier off := by
  induction levels with
  | nil => exact fun _ _ => rfl
  | cons level rest ih =>
    intro tier off
    simp only [walk, ih]
    rfl

theorem State.fetchPage_setCore (s : State) (k : Nat) (x : Core) (c : Ctx) (pc : Nat) :
    (s.setCore k x).fetchPage c pc = s.fetchPage c pc := by
  unfold State.fetchPage State.page
  rw [walk_setCore]

/-- t is u as a fetch from the page at `base` of memory m goes on, up to address p: core k's cache alone differs, and
its lines hold what memory holds. -/
structure State.fetching (u t : State) (k : Nat) (m : Memory) (base p : Nat) : Prop where
  rest : { t with cores := u.cores } = u
  pages : ∀ c a, t.fetchPage c a = u.fetchPage c a
  others : ∀ n, n ≠ k → t.core n = u.core n
  core : { t.core k with icache := [] } = { u.core k with icache := [] }
  lines : ∀ l ∈ (t.core k).icache, l.va < p ∧ l.bytes = m.bytes (base + l.va % 2 ^ 16) 128

theorem State.fetching_refl {u : State} {k : Nat} (m : Memory) (base p : Nat) (h : (u.core k).icache = []) :
    u.fetching u k m base p := ⟨rfl, fun _ _ => rfl, fun _ _ => rfl, rfl, by simp [h]⟩

/-- The word at p of a line that holds what memory holds is memory's word there. -/
theorem ILine.word_of_memory {l : ILine} {m : Memory} {base p : Nat} (hp : p % 4 = 0)
    (hva : l.va = p / 128 * 128) (h : l.bytes = m.bytes (base + l.va % 2 ^ 16) 128) :
    l.word p = BitVec.ofNat 32 (leNat (m.bytes (base + p % 2 ^ 16) 4)) := by
  have part := m.bytes_part (base + l.va % 2 ^ 16) (i := p % 128) (k := 4) (n := 128) (by omega)
  have place : base + l.va % 2 ^ 16 + p % 128 = base + p % 2 ^ 16 := by omega
  rw [ILine.word, h, ← place]
  exact congrArg (fun bs => BitVec.ofNat 32 (leNat bs)) part

/-- One word fetched: memory's word, from a line that this fetch has read or reads now (R92 to R94). -/
theorem State.fetching.fetchWord {u t : State} {k p : Nat} {c : Ctx} {pg : Page} {same : Bool}
    (f : u.fetching t k (u.tier pg.tier) pg.base p) (clean : u.poison = []) (hb : pg.base % 2 ^ 16 = 0) (hp : p % 4 = 0)
    (page : u.fetchPage c p = .ok pg) (hs : (t.core k).icache = [] ∨ same = (p % 128 != 0)) :
    ∃ t', t.fetchWord c k p same = (t', .ok (BitVec.ofNat 32 (leNat ((u.tier pg.tier).bytes (pg.base + p % 2 ^ 16) 4)))) ∧
      u.fetching t' k (u.tier pg.tier) pg.base (p + 4) := by
  have tier : t.tier pg.tier = u.tier pg.tier := by rw [← f.rest]; rfl
  have unpoisoned : t.poison = [] := by rw [← clean, ← f.rest]
  unfold State.fetchWord
  split
  · next l found =>
    have mem := List.mem_of_find?_eq_some found
    obtain ⟨below, bytes⟩ := f.lines l mem
    have covers := List.find?_some found
    simp only [ILine.covers, Bool.and_eq_true, beq_iff_eq] at covers
    have whole : same = true := by
      rcases hs with empty | hs
      · rw [empty] at mem
        cases mem
      · rw [hs, bne_iff_ne]
        omega
    rw [if_pos whole, ILine.word_of_memory hp covers.2 bytes]
    exact ⟨t, rfl, f.rest, f.pages, f.others, f.core, fun l hl => ⟨by have := (f.lines l hl).1; omega, (f.lines l hl).2⟩⟩
  · next missing =>
    have start : (pg.base + p % 2 ^ 16) / 128 * 128 = pg.base + p / 128 * 128 % 2 ^ 16 := by omega
    unfold State.fetchMiss
    rw [f.pages, page]
    simp only [unpoisoned, List.contains_nil, Bool.false_eq_true, if_false, Bool.not_false, List.all_eq_true, implies_true,
      if_true, tier, start]
    refine ⟨_, by rw [ILine.word_of_memory hp rfl rfl], ?_⟩
    exact {
      rest := f.rest
      pages := fun c a => by rw [State.fetchPage_setCore, f.pages]
      others := fun n hn => by rw [State.core_setCore, if_neg hn, f.others n hn]
      core := by rw [State.core_setCore, if_pos rfl, ← f.core]; rfl
      lines := fun l hl => by
        rw [State.core_setCore, if_pos rfl] at hl
        rcases List.mem_cons.1 hl with rfl | hl
        · exact ⟨by dsimp only; omega, rfl⟩
        · have old := f.lines l (List.mem_of_mem_filter (List.mem_of_mem_filter hl))
          exact ⟨by omega, old.2⟩ }

/-- ws are the words that memory holds from address p of a page on. -/
def State.holdsWords (u : State) (c : Ctx) (pg : Page) (p : Nat) (ws : List Word) : Prop :=
  ∀ j w, ws[j]? = some w → u.fetchPage c (p + 4 * j) = .ok pg ∧
    w.toNat = leNat ((u.tier pg.tier).bytes (pg.base + (p + 4 * j) % 2 ^ 16) 4)

theorem State.holdsWords_cons {u : State} {c : Ctx} {pg : Page} {p : Nat} {w : Word} {ws : List Word}
    (h : u.holdsWords c pg p (w :: ws)) : u.fetchPage c p = .ok pg ∧
      BitVec.ofNat 32 (leNat ((u.tier pg.tier).bytes (pg.base + p % 2 ^ 16) 4)) = w ∧ u.holdsWords c pg (p + 4) ws := by
  obtain ⟨page, word⟩ := h 0 w rfl
  refine ⟨page, ?_, fun j v hv => ?_⟩
  · rw [Nat.mul_zero, Nat.add_zero] at word
    rw [← word, BitVec.ofNat_toNat, BitVec.setWidth_eq]
  · rw [show p + 4 + 4 * j = p + 4 * (j + 1) by omega]
    exact h (j + 1) v hv

/-- The further words of an instruction fetched (R94, R95). -/
theorem State.fetching.fetchRest {u : State} {k : Nat} {c : Ctx} {pg : Page} (clean : u.poison = [])
    (hb : pg.base % 2 ^ 16 = 0) (ws : List Word) : ∀ {t : State} {p : Nat},
    u.fetching t k (u.tier pg.tier) pg.base p → p % 4 = 0 → u.holdsWords c pg p ws →
    ∃ t', State.fetchRest c k ws.length p t = (t', .ok ws) ∧
      u.fetching t' k (u.tier pg.tier) pg.base (p + 4 * ws.length) := by
  induction ws with
  | nil => exact fun f _ _ => ⟨_, rfl, f⟩
  | cons w ws ih =>
    intro t p f hp held
    obtain ⟨page, word, later⟩ := State.holdsWords_cons held
    obtain ⟨t1, first, f1⟩ := f.fetchWord clean hb hp page (.inr rfl)
    obtain ⟨t2, others, f2⟩ := ih f1 (by omega) later
    refine ⟨t2, ?_, by rw [List.length_cons, show p + 4 * (ws.length + 1) = p + 4 + 4 * ws.length by omega]; exact f2⟩
    rw [List.length_cons, State.fetchRest, first]
    dsimp only
    rw [others, word]

/-- Words that decode are as many as the first one announces (R95). -/
theorem decode_wordCount {ws : List Word} {i : Instr} (h : decode ws = .ok i) :
    ∃ w rest, ws = w :: rest ∧ wordCount w - 1 = rest.length := by
  unfold decode at h
  split at h
  · cases h
  next f fields =>
  unfold Fields.ofWords at fields
  split at fields
  · next w =>
    split at fields
    · next len => exact ⟨w, _, rfl, by rw [wordCount, len]; rfl⟩
    · cases fields
  · next w x y =>
    split at fields
    · next len => exact ⟨w, _, rfl, by rw [wordCount, len]; rfl⟩
    · split at fields
      · next len => exact ⟨w, _, rfl, by rw [wordCount, len]; rfl⟩
      · cases fields
  · next w a b x y =>
    split at fields
    · next len => exact ⟨w, _, rfl, by rw [wordCount, len]; rfl⟩
    · cases fields
  · cases fields

/-- The words that memory holds at the PC are fetched, and nothing but the core's cache changes (R92 to R95). -/
theorem State.fetchNext_runs {u : State} {x : Site} {c : Ctx} {pg : Page} {ws : List Word} {i : Instr}
    (site : u.site 0 = some x) (ctx : x.ctx? = some c) (empty : (u.core x.b.coreNum).icache = []) (clean : u.poison = [])
    (aligned : x.pc.toNat % 4 = 0) (inside : x.pc.toNat < x.g.codeEnd.toNat) (hb : pg.base % 2 ^ 16 = 0)
    (held : u.holdsWords c pg x.pc.toNat ws) (dec : decode ws = .ok i) :
    ∃ v p, u.fetchNext = (v, some (.run i)) ∧ u.fetching v x.b.coreNum (u.tier pg.tier) pg.base p := by
  obtain ⟨w, rest, rfl, count⟩ := decode_wordCount dec
  obtain ⟨page, word, later⟩ := State.holdsWords_cons held
  obtain ⟨t1, first, f1⟩ := (State.fetching_refl _ _ _ empty).fetchWord clean hb aligned page (.inl empty) (same := false)
  obtain ⟨t2, others, f2⟩ := f1.fetchRest clean hb rest (by omega) later
  refine ⟨t2, _, ?_, f2⟩
  have words : u.fetchWords c x.b.coreNum x.pc.toNat = (t2, .ok (w :: rest)) := by
    rw [State.fetchWords, first]
    dsimp only
    rw [word, count, others]
  unfold State.fetchNext
  rw [site]
  dsimp only
  rw [ctx]
  dsimp only
  rw [if_neg (Nat.not_le.2 inside), words]
  dsimp only
  rw [dec]

/- ### The step -/

/-- What is made of an outcome when the current warp's block may begin with it (R90). -/
theorem State.begins_cases {v : State} {i : Instr} {o : Out} :
    ((∀ b, v.block? v.cur.1 = some b → b.begun = true) → v.begins i o = o) ∧
    ∀ t, o = .next t → v.begins i o = .next t ∨ v.begins i o = .next (t.beginsIn v.cur.1) := by
  cases o with
  | next t =>
    unfold State.begins
    dsimp only
    refine ⟨fun h => if_neg ?_, ?_⟩
    · cases hb : v.block? v.cur.1 with
      | none => simp
      | some b => simp [h b hb]
    · rintro _ ⟨⟩
      split
      · exact .inr rfl
      · exact .inl rfl
  | _ => exact ⟨fun _ => rfl, fun t h => by cases h⟩

theorem wakes_iff {i : Instr} : wakes i = true ↔ i = .boot ∨ i = .powerLoss := by simp [wakes]

/-- An input that waits is taken, unless the package is off (R126). -/
theorem step_input {s : State} {i : Instr} {rest : List Instr} (h : s.agenda = i :: rest) : step s =
    if s.off = true ∧ wakes i = false then .next { s with agenda := rest } else exec i { s with agenda := rest } := by
  rw [step, h]
  simp

/-- The warp whose turn it is goes first where the engines have had theirs (R126). -/
theorem step_warp {s : State} {e : Nat × (Nat × Nat)} (h : s.agenda = []) (turn : s.engineTurn = false)
    (next : s.nextServed = some e) : step s = (s.serveWarp e).stepWarp := by
  rw [step, h]
  simp [turn, State.warpTurn, next]

/-- Settles O58: an input is taken by the first branch of `step`; a warp's instruction is fetched word by word, each word
from the line it lies in, and run. -/
theorem stepRunsTheInstruction : Obligations.StepRunsTheInstruction := by
  refine ⟨?_, ?_, ?_⟩
  · intro s i rest h on
    rw [step_input h, if_neg]
    rintro ⟨off, asleep⟩
    rcases on with on | awake
    · rw [on] at off
      cases off
    · rw [wakes_iff.2 awake] at asleep
      cases asleep
  · intro s i rest h off boot loss
    have asleep : wakes i = false := by
      rw [← Bool.not_eq_true, wakes_iff]
      exact not_or.2 ⟨boot, loss⟩
    rw [step_input h, if_pos ⟨off, asleep⟩]
  · intro s e x c pg ws i u agenda turn next pending site ctx empty clean aligned inside hb held dec
    obtain ⟨v, p, fetched, f⟩ := State.fetchNext_runs site ctx empty clean aligned inside hb held dec
    obtain ⟨-, -, block, -, key, -⟩ := site_spec site
    have run : step s = v.begins i (exec i v) := by
      rw [step_warp agenda turn next, State.stepWarp, pending]
      dsimp only
      rw [fetched]
    have cur : v.cur.1 = x.b.key := by rw [key, ← f.rest]
    have here : v.block? v.cur.1 = some x.b := by rw [cur, ← block, ← f.rest]; rfl
    have free : v.free = s.free := by rw [show s.free = u.free from rfl, ← f.rest]
    refine ⟨v, ?_, ?_, ?_, ?_⟩
    · intro begun
      rw [run]
      refine State.begins_cases.1 fun b hb => ?_
      obtain rfl : x.b = b := Option.some.inj (here.symm.trans hb)
      exact begun
    · intro t ht
      rw [run, ← cur]
      exact State.begins_cases.2 t ht
    · rw [← free]
      exact f.rest
    · intro n
      by_cases hn : n = x.b.coreNum
      · rw [hn]
        exact ⟨f.core, fun h => absurd rfl h⟩
      · exact ⟨congrArg (fun k : Core => { k with icache := [] }) (f.others n hn), fun _ => f.others n hn⟩

end Sys2Proof.Machine
end

section
/-! SUPPORT. `exit` of some lanes of a warp (R116, R132, R149): where the lanes come to stand, what their call stacks
keep, and that nothing else follows while a live lane remains that does not wait in `waitv`. -/

namespace Sys2Proof.Machine

/- ### Live lanes -/

theorem foldl_masks_bit (fr : List Entry) (l : Nat) : ∀ m : Mask,
    (fr.foldl (fun m e => m ||| e.mask) m).getLsbD l = (m.getLsbD l || fr.any fun e => e.mask.getLsbD l) := by
  induction fr with
  | nil => simp
  | cons e t ih =>
    intro m
    rw [List.foldl_cons, ih, BitVec.getLsbD_or, List.any_cons, Bool.or_assoc]

/-- A lane is live where an entry holds it (R118). -/
theorem liveLanes_bit (fr : List Entry) (l : Nat) : (liveLanes fr).getLsbD l = fr.any fun e => e.mask.getLsbD l := by
  rw [liveLanes, foldl_masks_bit]
  simp

/-- A lane that stands somewhere stands in an entry of the frontier. -/
theorem Warp.stands_mem {w : Warp} {l : Nat} {r : DWord × BitVec 4} (h : w.stands l = some r) :
    ∃ e ∈ w.frontier, e.mask.getLsbD l = true ∧ (e.pc, e.park) = r := by
  obtain ⟨e, he, hr⟩ := Option.map_eq_some_iff.1 h
  exact ⟨e, List.mem_of_find?_eq_some he, List.find?_some (p := fun e : Entry => e.mask.getLsbD l) he, hr⟩

/-- Lanes are not a warp's last where one outside them stands somewhere. -/
theorem Site.lastLanes_eq_false {x : Site} {m : Mask} {l : Nat} {r : DWord × BitVec 4} (hl : l < 32)
    (h : x.w.stands l = some r) (hm : m.getLsbD l = false) : x.lastLanes m = false := by
  obtain ⟨e, he, bit, -⟩ := Warp.stands_mem h
  have live : (liveLanes x.w.frontier).getLsbD l = true := by
    rw [liveLanes_bit]
    exact List.any_eq_true.2 ⟨e, he, bit⟩
  refine beq_eq_false_iff_ne.2 fun zero => ?_
  have bit := congrArg (BitVec.getLsbD · l) zero
  rw [BitVec.getLsbD_and, BitVec.getLsbD_not, live, hm] at bit
  simp [hl] at bit

/- ### What follows an exit -/

/-- A warp with nothing in the area, no wait and a lane that does not wait in `waitv` settles as it stands. -/
theorem State.settle_still {t : State} {k n : Nat} {w : Warp} (hw : t.warpAt (k, n) = some w) (area : w.csM = 0)
    (waits : w.waits = []) (awake : ∃ e ∈ w.frontier, e.park ≠ 3) : t.settle k n = t := by
  obtain ⟨b, (hb : t.block? k = some b), (hn : b.warp? n = some w)⟩ := Option.bind_eq_some_iff.1 hw
  obtain ⟨e, he, park⟩ := awake
  have upkeep : t.stackUpkeep k n = t := by
    unfold State.stackUpkeep
    rw [hb]
    dsimp only
    rw [hn]
    split
    · next hs hg =>
      cases hs
      rw [if_pos area]
    · rfl
  have examine : t.barExamine k n = t := by
    unfold State.barExamine
    rw [hb]
    dsimp only
    rw [hn]
    simp [Warp.arrival, waits]
  have note : t.notePark k n = t := by
    unfold State.notePark
    rw [hb]
    dsimp only
    rw [hn]
    refine if_neg fun all => park ?_
    exact beq_iff_eq.1 (List.all_eq_true.1 all e he)
  have live : w.frontier.isEmpty = false := by
    rw [← Bool.not_eq_true, List.isEmpty_iff]
    exact List.ne_nil_of_mem he
  unfold State.settle
  rw [upkeep]
  dsimp only
  rw [hb]
  dsimp only
  rw [hn]
  dsimp only
  rw [live, examine, note]
  exact ite_self t

/-- Lanes that exit leave every entry of the call stack (R132). -/
theorem calls_csClear (w : Warp) (m : Mask) {l : Nat} (hl : l < 32) :
    ({ w with cs := csClear w.cs m } : Warp).calls l = if m.getLsbD l then [] else w.calls l := by
  have bit (e : CallEntry) : (e.pend &&& ~~~m).getLsbD l = (e.pend.getLsbD l && !m.getLsbD l) := by
    rw [BitVec.getLsbD_and, BitVec.getLsbD_not]
    simp [hl]
  unfold Warp.calls csClear
  rw [List.filter_filter, List.filter_map, List.map_map]
  cases hm : m.getLsbD l with
  | true =>
    rw [List.filter_eq_nil_iff.2 fun e _ => by simp [bit, hm]]
    rfl
  | false =>
    have held (e : CallEntry) : ((e.pend &&& ~~~m).getLsbD l && (e.pend &&& ~~~m) != 0) = e.pend.getLsbD l := by
      rw [bit, hm, Bool.not_false, Bool.and_true]
      refine Bool.and_eq_left_iff_imp.2 fun he => bne_iff_ne.2 fun zero => ?_
      have := bit e
      simp [zero, he, hm] at this
    simp only [Function.comp_def, held]
    rfl

/- ### The moves of an exit -/

/-- How the lanes of an `exit` move: those that act exit, the others go on (R149). -/
def Site.exitParts (x : Site) (m : Mask) : List (Mask × Move) := [(m, .exit), (x.mask &&& ~~~m, .next)]

/-- Lanes that exit and lanes that move on change the call stack and the lanes exited, beside where lanes stand. -/
theorem moved_exit (x : Site) (w : Warp) (m : Mask) :
    (x.moved w 0 (x.exitParts m)).others =
      { w with cs := (x.moved w 0 (x.exitParts m)).cs, exited := w.exited ||| m }.others ∧
    ∀ l, l < 32 → (x.moved w 0 (x.exitParts m)).calls l = if m.getLsbD l then [] else w.calls l := by
  let u : Warp := ({ w with frontier := dropLanes w.frontier x.mask } : Warp).move x.g x.pc x.prio x.len 0 m .exit
  have hu : (x.moved w 0 (x.exitParts m)).others = u.others := move_others u x.g x.pc x.prio x.len 0 _ .next (by simp)
  rw [hu, of_others Warp.cs hu]
  simp only [fun l => of_others (fun v => v.calls l) hu]
  by_cases none_act : m = 0
  · have hu : u = { w with frontier := dropLanes w.frontier x.mask } := if_pos none_act
    have zero : w.exited ||| 0 = w.exited := BitVec.or_zero
    rw [hu, none_act, zero]
    exact ⟨rfl, fun l _ => by simp; rfl⟩
  · have hu : u = ({ w with frontier := dropLanes w.frontier x.mask } : Warp).exitLanes m := if_neg none_act
    rw [hu]
    exact ⟨rfl, fun l hl => calls_csClear w m hl⟩

/-- The lanes of m have exited at a site and the other lanes of the entry have moved on; the region has committed
(R132, R149). -/
def Site.exits (x : Site) (w' : Warp) (m : Mask) : Prop :=
  (∀ l, l < 32 → x.mask.getLsbD l = true → w'.stands l =
    if m.getLsbD l then none
    else if x.g.codeEnd.toNat ≤ x.after.toNat then some (x.g.codeEnd, 2) else some (x.after, 0)) ∧
  x.w.standKept w' x.mask ∧ x.committed w' (some x.after) ∧
  w'.base = { x.w with cs := w'.cs, exited := w'.exited }.base ∧ w'.exited = x.w.exited ||| m ∧
  ∀ l, l < 32 → w'.calls l = if m.getLsbD l then [] else x.w.calls l

/-- A live lane remains that does not exit and does not wait in `waitv`, and the call-stack area holds nothing. -/
def Site.exitRoom (x : Site) (m : Mask) : Prop :=
  x.light ∧ x.w.waits = [] ∧ x.w.csM = 0 ∧ ∃ l r, l < 32 ∧ x.w.stands l = some r ∧ r.2 ≠ 3 ∧ m.getLsbD l = false

theorem acting_sub (x : Site) (c : Ctl) {l : Nat} (h : (x.acting c).getLsbD l = true) : x.mask.getLsbD l = true := by
  unfold Site.acting at h
  split at h
  · exact h
  · rw [BitVec.getLsbD_and, Bool.and_eq_true] at h
    exact h.1

/-- The commit point of an `exit` leaves its lanes exited. -/
theorem leaveCommit_exits {s : State} {len : Nat} {x : Site} {m : Mask} (hx : s.site len = some x)
    (hh : x.handler = false) (sub : ∀ l, m.getLsbD l = true → x.mask.getLsbD l = true) :
    ∃ w', (x.afterLight.leaveCommit false 0 (x.exitParts m)).warpAt s.cur = some w' ∧ x.exits w' m ∧
      OthersKept s (x.afterLight.leaveCommit false 0 (x.exitParts m)) := by
  let u := x.moved x.afterLight.w 0 (x.exitParts m)
  let w' := (u.beginRegion (x.off x.after)).takeTrap x.g.img.desc.trapent
  obtain ⟨(warp : _ = some w'), kept⟩ :=
    leaveCommit_spec (w := x.afterLight.w) hx hh (afterLight_num x) false 0 (x.exitParts m)
  have others : u.others = { x.afterLight.w with cs := u.cs, exited := x.afterLight.w.exited ||| m }.others :=
    (moved_exit x x.afterLight.w m).1
  have calls := (moved_exit x x.afterLight.w m).2
  have same : w'.others = (u.beginRegion (x.off x.after)).others := takeTrap_others _ _
  have stands (l : Nat) : w'.stands l = u.stands l := congrArg (standsIn · l) (takeTrap_frontier _ _)
  have cs : w'.cs = u.cs := (of_others Warp.cs same).trans rfl
  have exited : w'.exited = x.w.exited ||| m := by
    rw [of_others Warp.exited same, show (u.beginRegion (x.off x.after)).exited = u.exited from rfl,
      of_others Warp.exited others, afterLight_field Warp.exited fun _ _ => rfl]
    cases x.inRegion <;> rfl
  have gone {l : Nat} (bit : m.getLsbD l = true) : (x.mask &&& ~~~m).getLsbD l = false := by
    rw [BitVec.getLsbD_and, BitVec.getLsbD_not, bit]
    simp
  refine ⟨w', warp, ⟨?_, ?_, ?_, ?_, exited, ?_⟩, kept⟩
  · intro l hl entry
    rw [stands]
    cases bit : m.getLsbD l with
    | true => exact moved_stands_in (a := []) (mv := .exit) hl entry bit (by simp) (by simp [gone bit])
    | false =>
      have goes_on : (x.mask &&& ~~~m).getLsbD l = true := by
        rw [BitVec.getLsbD_and, BitVec.getLsbD_not, bit, entry]
        simp [hl]
      exact moved_stands_in (a := [(m, .exit)]) (b := []) (mv := .next) hl entry goes_on (by simp [bit]) (by simp)
  · intro l hl out
    have idle : m.getLsbD l = false := by
      rw [← Bool.not_eq_true]
      exact fun bit => by rw [sub l bit] at out; cases out
    rw [stands, moved_stands_out hl out (by simp [Site.exitParts, idle, out])]
    exact congrArg (standsIn · l) (afterLight_frontier x)
  · refine committed_of_moved (u := u) false ?_ ?_
    · rw [of_others Warp.flags others]
      exact afterLight_flags x
    · rw [of_others Warp.loads others]
      exact afterLight_loads x
  · calc w'.base = u.base := (base_of_others same).trans (begin_base u false _)
      _ = { x.afterLight.w.base with cs := u.cs, exited := x.afterLight.w.exited ||| m } := base_of_others others
      _ = { x.w.base with cs := w'.cs, exited := w'.exited } := by
        rw [afterLight_base, cs, exited, afterLight_field Warp.exited fun _ _ => rfl]
        cases x.inRegion <;> rfl
  · intro l hl
    rw [of_others (fun v => v.calls l) same]
    show u.calls l = _
    rw [calls l hl, afterLight_field (fun v => v.calls l) fun _ _ => rfl]
    cases x.inRegion <;> rfl

/-- The acting lanes depend on the predicates of the warp alone. -/
theorem acting_withW (x : Site) {w : Warp} (c : Ctl) (h : w.p = x.w.p) : (x.withW w).acting c = x.acting c := by
  unfold Site.acting Warp.pget
  rw [show (x.withW w).w.p = x.w.p from h]
  rfl

theorem lightCommit_p (w : Warp) (r : Bool) : (w.lightCommit r).p = w.p := by cases r <;> rfl

theorem lightCommit_frontier (w : Warp) (r : Bool) : (w.lightCommit r).frontier = w.frontier := by cases r <;> rfl

/-- `exit` of lanes that are not a warp's last commits and leaves, and nothing else follows. -/
theorem exitCommon_exits {i : Instr} {c : Ctl} {s : State} {x : Site} (h : Issues i s x) (hi : handlerIllegal i = true)
    (room : x.exitRoom (x.acting c)) :
    ∃ t w', exitCommon i c s = .next t ∧ t.warpAt s.cur = some w' ∧ x.exits w' (x.acting c) ∧ OthersKept s t := by
  obtain ⟨light, waits, area, l, r, hl, stands, awake, stays⟩ := room
  obtain ⟨-, -, -, -, key, num, -⟩ := site_spec h.site
  obtain ⟨w', warp, exits, kept⟩ := leaveCommit_exits h.site (notHandler h hi) fun k => acting_sub x c (l := k)
  obtain ⟨inEntry, outEntry, -, base, -⟩ := id exits
  have acting : (x.withW (x.w.lightCommit x.inRegion)).acting c = x.acting c := acting_withW x c (lightCommit_p _ _)
  have acting' : x.afterLight.acting c = x.acting c :=
    acting_withW x c ((npeTick_field Warp.p (fun _ _ => rfl) _).trans (lightCommit_p _ _))
  have not_last : (x.withW (x.w.lightCommit x.inRegion)).lastLanes (x.acting c) = false :=
    Site.lastLanes_eq_false hl ((congrArg (standsIn · l) (lightCommit_frontier _ _)).trans stands) stays
  have stays_live : ∃ e ∈ w'.frontier, e.park ≠ 3 := by
    obtain ⟨r', there, awake'⟩ : ∃ r', w'.stands l = some r' ∧ r'.2 ≠ 3 := by
      cases entry : x.mask.getLsbD l with
      | true =>
        rw [inEntry l hl entry, stays, if_neg Bool.false_ne_true]
        split
        · exact ⟨_, rfl, by simp⟩
        · exact ⟨_, rfl, by simp⟩
      | false => exact ⟨r, (outEntry l hl entry).trans stands, awake⟩
    obtain ⟨e, he, -, rfl⟩ := Warp.stands_mem there
    exact ⟨e, he, awake'⟩
  refine ⟨_, w', ?_, warp, exits, kept⟩
  unfold exitCommon
  rw [issueCommitWhen_light h light _ _ true (by rw [acting, not_last, Bool.and_false, Bool.false_and]), acting']
  refine congrArg _ (State.settle_still (w := w') ?_ ?_ ?_ stays_live)
  · rw [← warp, ← Prod.mk.eta (p := s.cur), ← key, ← num, ← afterLight_num x]
    rfl
  · exact (congrArg Warp.csM base).trans area
  · exact (congrArg Warp.waits base).trans waits

/-- The first part of O16: `exit` with and without a guard. -/
theorem exitsEndLanes : Claims.ExitsEndLanes := fun c =>
  ⟨fun _ _ h room => exitCommon_exits (c := Ctl.none) h rfl room, fun _ _ h room => exitCommon_exits (c := c) h rfl room⟩

end Sys2Proof.Machine
end

section
/-! SUPPORT. `spawn` (R85, R153): the block that joins the issuing core, how the instruction leaves when it does, and the
statement about exits and spawns. -/

namespace Sys2Proof.Machine

/- ### The new block -/

/-- A warp at its start, halted or not as its context says. -/
def Warp.startHalted (w : Warp) (halt : Bool) : Warp := if halt then { w with st := { w.st with pdbg := true } } else w

/-- x is a warp at the start of entry e of a spawned block: every lane stands there, `s0` holds the caller's scalar, and
every other register is zero (R19, R153). -/
structure Grid.spawnedWarp (g : Grid) (e : KEntry) (s0 : DWord) (x : Warp) : Prop where
  frontier : x.frontier = [⟨g.cb + e.code.setWidth 64, e.prio, 0xffffffff, 0⟩]
  scalar : x.sget 0 = s0
  scalars : ∀ n, n ≠ 0 → x.sget n = 0
  vectors : ∀ n l, x.vget n l = 0
  predicates : ∀ n, x.pget n = 0

theorem Grid.spawnedWarp_start (g : Grid) (e : KEntry) (s0 : DWord) (w slot : Nat) (halt : Bool) :
    g.spawnedWarp e s0 ((Warp.start w slot (g.cb + (0#32 ++ e.code)) e.prio s0).startHalted halt) := by
  have pc : g.cb + (0#32 ++ e.code) = g.cb + e.code.setWidth 64 := by
    congr 1
    exact (BitVec.setWidth_eq_append (by decide)).symm
  have scalars (n : Nat) : smGet 0 (smSet 0 [] 0 s0) n = if n = 0 then s0 else 0 := smGet_set 0 [] 0 n s0
  rw [pc]
  cases halt
  · exact ⟨rfl, scalars 0, fun n hn => (scalars n).trans (if_neg hn), fun _ _ => rfl, fun _ => rfl⟩
  · exact ⟨rfl, scalars 0, fun n hn => (scalars n).trans (if_neg hn), fun _ _ => rfl, fun _ => rfl⟩

/-- nb is a block that b spawns at entry e, with its context area at `key` and its scratchpad at `off` (R85, R153). -/
structure Block.child (b : Block) (g : Grid) (e : KEntry) (s0 : DWord) (key off : Nat) (nb : Block) : Prop where
  key : nb.key = key
  grid : nb.grid = g.id
  spawned : nb.spawned = true
  parent : nb.parent = b.key
  bx : nb.bx = b.bx
  by_ : nb.by_ = b.by_
  bz : nb.bz = b.bz
  rank : nb.rank = b.rank
  coreNum : nb.coreNum = b.coreNum
  spadOff : nb.spadOff = off
  count : nb.warps.length = g.img.desc.warps
  warps : ∀ w ∈ nb.warps, g.spawnedWarp e s0 w

/-- The block that b spawns, as yet without a place: b's index and rank (R153). -/
def Block.offspring (b : Block) (g : Grid) (key : Nat) : Block :=
  { Block.blank with
    key := key, grid := g.id, rank := b.rank, lin := b.lin, quartet := b.quartet, member := 0
    bx := b.bx, by_ := b.by_, bz := b.bz, spawned := true, parent := b.key }

theorem Block.split_coreNum (n : Nat) : n / 192 * 192 + n % 192 / 4 * 4 + n % 4 = n := by omega

/-- The block spawned, once placed on its parent's core. -/
theorem State.place_offspring (s : State) (b : Block) (g : Grid) (e : KEntry) (s0 : DWord) (key off : Nat) :
    ∃ nb, s.addsBlocks (s.place (b.offspring g key) g e s0 b.coreNum off) [nb] ∧ b.child g e s0 key off nb := by
  unfold State.place
  extract_lets d slots c warps nb
  obtain ⟨hb, hg⟩ := State.raiseSplit_addsBlocks { s with blocks := s.blocks ++ [nb] } b.coreNum (off + d.spad)
  refine ⟨nb, ⟨by rw [hb]; simp, hg⟩, ?_⟩
  exact {
    key := rfl, grid := rfl, spawned := rfl, parent := rfl, bx := rfl, by_ := rfl, bz := rfl, rank := rfl
    coreNum := Block.split_coreNum b.coreNum, spadOff := rfl, count := by simp [nb, warps, d]
    warps := fun w hw => by
      obtain ⟨k, -, rfl⟩ := List.mem_map.1 hw
      exact g.spawnedWarp_start e s0 k _ _ }

/-- A block that fits on its parent's core and finds a context area joins the package. -/
theorem State.spawn_of_fits {s u : State} {b : Block} {g : Grid} (e : KEntry) (s0 : DWord) {off key : Nat}
    (fits : s.fits b.coreNum g.img.desc true = some off) (area : s.newArea g = some (key, u)) :
    ∃ t nb, s.spawn b g e s0 = some t ∧ s.addsBlocks t [nb] ∧ b.child g e s0 key off nb := by
  obtain ⟨nb, adds, child⟩ := u.place_offspring b g e s0 key off
  refine ⟨_, nb, ?_, by simpa using (State.newArea_same area).trans adds, child⟩
  unfold State.spawn
  rw [fits, area]
  rfl

/-- Without room on the core no block joins. -/
theorem State.spawn_of_no_room {s : State} {b : Block} {g : Grid} (e : KEntry) (s0 : DWord)
    (h : s.fits b.coreNum g.img.desc true = none) : s.spawn b g e s0 = none := by
  unfold State.spawn
  rw [h]

/-- A spawn that succeeds adds one block. -/
theorem State.spawn_adds {s t : State} {b : Block} {g : Grid} {e : KEntry} {s0 : DWord} (h : s.spawn b g e s0 = some t) :
    ∃ nb, s.addsBlocks t [nb] := by
  cases fits : s.fits b.coreNum g.img.desc true with
  | none =>
    rw [State.spawn_of_no_room e s0 fits] at h
    cases h
  | some off =>
    cases area : s.newArea g with
    | none =>
      unfold State.spawn at h
      rw [fits, area] at h
      cases h
    | some r =>
      obtain ⟨t', nb, spawned, adds, -⟩ := State.spawn_of_fits e s0 fits area
      obtain rfl : t' = t := Option.some.inj (spawned.symm.trans h)
      exact ⟨nb, adds⟩

theorem State.newArea_of_pool {s : State} {g : Grid} {c : Ctx} {key : Nat} (hc : s.ctx? g.ctx = some c)
    (pool : c.poolFind g.img.desc.area 256 = some key) : ∃ u, s.newArea g = some (key, u) := by
  unfold State.newArea Ctx.alloc
  rw [hc]
  dsimp only
  rw [pool]
  exact ⟨_, rfl⟩

/- ### How the instruction leaves -/

/-- Outside a handler an instruction that has been performed leaves its warp to be put back, in whatever state. -/
theorem done_putWarp {x : Site} (hh : x.handler = false) (t : State) {w : Warp} (hf : w.frontier = x.w.frontier) :
    ∃ u : Warp, ({ x with s := t, w := w } : Site).done = t.putWarp x.b u x.g ∧ u.others = w.others ∧
      x.passed (u.takeTrap x.g.img.desc.trapent) := by
  let u := ({ w with frontier := dropLanes w.frontier x.mask } : Warp).move x.g x.pc x.prio x.len 0 x.mask .next
  refine ⟨u, ?_, move_others _ _ _ _ _ _ _ _ (by simp), ?_⟩
  · unfold Site.done Site.leave
    rw [if_neg (by simp [hh])]
    rfl
  · have stands (l : Nat) : (u.takeTrap x.g.img.desc.trapent).stands l = u.stands l :=
      congrArg (standsIn · l) (takeTrap_frontier _ _)
    have next := move_next_stands { w with frontier := dropLanes w.frontier x.mask } x.g x.pc x.prio x.len 0 x.mask
    unfold Site.passed
    rw [if_neg (by simp [hh])]
    refine ⟨fun l hl hm => ?_, fun l hl hm => ?_⟩
    · rw [stands]
      exact (next l).1 hm (dropLanes_bit _ _ l hl hm)
    · rw [stands]
      refine ((next l).2 hm).trans ((dropLanes_stands _ _ l hl hm).trans ?_)
      rw [hf]
      rfl

/-- A predicate written in some lanes of the warp that has issued. -/
theorem pwritten_issued {x : Site} {i : Instr} {w' : Warp} {d : Nat} {m v : Mask} {f : Nat → Bool}
    (h : w'.others = ((x.issued i).w.pset d m v).others) (hv : ∀ l, l < 32 → m.getLsbD l = true → v.getLsbD l = f l) :
    PWritten x.w w' d m f := by
  have old (n l : Nat) : (x.issued i).w.pbit n l = x.w.pbit n l :=
    of_others (fun u => u.pbit n l) (issued_others x i)
  have bits (n l : Nat) (hl : l < 32) :
      w'.pbit n l = if n = d then (if m.getLsbD l then v.getLsbD l else x.w.pbit d l) else x.w.pbit n l := by
    rw [of_others (fun u => u.pbit n l) h, pbit_pset _ _ _ _ _ _ hl, old, old]
  refine ⟨fun l hl hm => ?_, fun n l hl ho => ?_, ?_⟩
  · rw [bits d l hl, if_pos rfl, if_pos hm, hv l hl hm]
  · rw [bits n l hl]
    split
    · next hn =>
      rw [if_neg (by rw [ho.resolve_right fun h => h hn]; exact Bool.false_ne_true), hn]
    · rfl
  · rw [h, of_others Warp.p h, of_others Warp.pPoison h]
    exact congrArg (fun u : Warp => { u with
      p := ((x.issued i).w.pset d m v).p, pPoison := ((x.issued i).w.pset d m v).pPoison }) (issued_others x i)

/-- A block replaced by one of its key: the keys stand as they stood. -/
theorem State.setBlock_keys (s : State) (b : Block) : (s.setBlock b).blocks.map (·.key) = s.blocks.map (·.key) := by
  unfold State.setBlock
  rw [List.map_map]
  refine List.map_congr_left fun p _ => ?_
  simp only [Function.comp_apply]
  split
  · next h => exact h.symm
  · rfl

/-- A `spawn` that adds a block is passed, and the block stands behind the others. -/
theorem done_adds {s t : State} {len : Nat} {x : Site} {w : Warp} {nb : Block} (hx : s.site len = some x)
    (hh : x.handler = false) (hn : w.num = x.w.num) (hf : w.frontier = x.w.frontier) (adds : s.addsBlocks t [nb]) :
    let u := ({ x with s := t, w := w } : Site).done
    ∃ w', u.warpAt s.cur = some w' ∧ w'.others = w.others ∧ x.passed w' ∧
      u.blocks.map (·.key) = s.blocks.map (·.key) ++ [nb.key] ∧ (nb.key ≠ x.b.key → nb ∈ u.blocks) := by
  obtain ⟨-, -, hb, hw, hk, hwn, -, -⟩ := site_spec hx
  obtain ⟨v, done, others, passed⟩ := done_putWarp hh t hf
  have num : v.num = x.w.num := (num_of_others others).trans hn
  have here : t.block? x.b.key = some x.b := by
    unfold State.block? at hb ⊢
    rw [adds.blocks, List.find?_append, hb]
    rfl
  have put := putBack_putWarp (w := v) x.g here (by rw [num]; exact hw)
  have blocks : (t.putWarp x.b v x.g).blocks =
      (t.setBlock (x.b.setWarp (v.takeTrap x.g.img.desc.trapent))).blocks := by
    unfold State.putWarp
    dsimp only
    split
    · split
      · exact endGrid_blocks _ _ _
      · rfl
    · rfl
  refine ⟨v.takeTrap x.g.img.desc.trapent, ?_, (takeTrap_others _ _).trans others, passed, ?_, ?_⟩
  · rw [done, show s.cur = (x.b.key, v.num) by rw [num, hk, hwn]]
    exact put.warp
  · rw [done, blocks, State.setBlock_keys, adds.blocks, List.map_append]
    rfl
  · intro other
    rw [done, blocks]
    refine List.mem_map.2 ⟨nb, by rw [adds.blocks]; simp, if_neg other⟩

/-- `spawn` as it runs once issued: without an acting lane it does nothing, else it asks for a block (R153). -/
theorem exec_spawn_of_issues {c : Ctl} {pd : BitVec 6} {sa : BitVec 5} {entry : BitVec 16} {s : State} {x : Site}
    (h : Issues (.spawn c pd sa entry) s x) :
    exec (.spawn c pd sa entry) s = .next (
      let y := x.issued (.spawn c pd sa entry)
      let act := x.acting c
      if act = 0 then (x.withW y.w).done
      else
        match (x.g.img.entries[entry.toNat]?).bind fun e => s.spawn x.b x.g e (x.w.sget sa.toNat) with
        | some t => ({ x with s := t, w := y.w.pset pd.toNat act act } : Site).done
        | none => (x.withW (y.w.pset pd.toNat act 0)).done) := by
  obtain ⟨st, rgn, issued⟩ := issued_eq x (.spawn c pd sa entry)
  have acting : (x.issued (.spawn c pd sa entry)).acting c = x.acting c := acting_issued x _ c
  have scalar : (x.issued (.spawn c pd sa entry)).w.sget sa.toNat = x.w.sget sa.toNat :=
    of_others (fun w => w.sget sa.toNat) (issued_others x _)
  show execSpawn c pd sa entry s = _
  unfold execSpawn
  rw [issue_of_issues h]
  dsimp only
  rw [acting, scalar, issued, ← (site_spec h.site).1]
  rfl

/-- The second part of O16: the block asked for is refused, or joins the issuing core. -/
theorem spawnAsks : Claims.SpawnAsks := by
  intro c pd sa entry s x h
  have hh := notHandler h rfl
  let y := x.issued (.spawn c pd sa entry)
  have others : y.w.others = x.w.others := issued_others x _
  have frontier : y.w.frontier = x.w.frontier := issued_frontier x _
  have frame : y.w.frame.isSome = x.w.frame.isSome := congrArg Option.isSome (issued_frame x _)
  have num : y.w.num = x.w.num := num_of_others others
  by_cases idle : x.acting c = 0
  · obtain ⟨w', warp, same, passed, kept⟩ := done_spec h.site num frontier frame
    refine ⟨_, w', (exec_spawn_of_issues h).trans (congrArg _ (if_pos idle)), warp, passed,
      fun _ => ⟨same.trans others, kept⟩, fun act => absurd idle act, fun _ _ _ _ act => absurd idle act⟩
  cases asked : (x.g.img.entries[entry.toNat]?).bind fun e => s.spawn x.b x.g e (x.w.sget sa.toNat) with
  | none =>
    obtain ⟨w', warp, same, passed, kept⟩ :=
      done_spec (w := y.w.pset pd.toNat (x.acting c) 0) h.site num frontier frame
    refine ⟨_, w', ?_, warp, passed, fun no => absurd no idle, fun _ _ => ⟨pwritten_issued same ?_, kept⟩, ?_⟩
    · rw [exec_spawn_of_issues h]
      dsimp only
      rw [if_neg idle, asked]
    · exact fun l _ _ => by simp
    · intro off cx key ke _ fits ctx pool _ entry'
      obtain ⟨u, area⟩ := State.newArea_of_pool ctx pool
      obtain ⟨t, nb, spawned, -⟩ := State.spawn_of_fits (b := x.b) ke (x.w.sget sa.toNat) fits area
      rw [entry', Option.bind_some, spawned] at asked
      cases asked
  | some t =>
    obtain ⟨e, entry', spawned⟩ := Option.bind_eq_some_iff.1 asked
    obtain ⟨nb, adds⟩ := State.spawn_adds spawned
    obtain ⟨w', warp, same, passed, -⟩ :=
      done_adds (w := y.w.pset pd.toNat (x.acting c) (x.acting c)) h.site hh num frontier adds
    refine ⟨_, w', ?_, warp, passed, fun no => absurd no idle, ?_, ?_⟩
    · rw [exec_spawn_of_issues h]
      dsimp only
      rw [if_neg idle, asked]
    · intro _ full
      rw [State.spawn_of_no_room _ _ full] at spawned
      cases spawned
    · intro off cx key ke _ fits ctx pool fresh entry''
      obtain rfl : e = ke := Option.some.inj (entry'.symm.trans entry'')
      obtain ⟨u, area⟩ := State.newArea_of_pool ctx pool
      obtain ⟨t', nb, spawned', joins, child⟩ := State.spawn_of_fits (b := x.b) e (x.w.sget sa.toNat) fits area
      obtain rfl : t' = t := Option.some.inj (spawned'.symm.trans spawned)
      obtain ⟨-, -, -, -, keys, member⟩ :=
        done_adds (w := y.w.pset pd.toNat (x.acting c) (x.acting c)) h.site hh num frontier joins
      have other : nb.key ≠ x.b.key := by
        rw [child.key]
        rintro rfl
        rw [(site_spec h.site).2.2.1] at fresh
        cases fresh
      exact ⟨pwritten_issued same fun l _ bit => bit, nb, keys, member other, child.key, child.grid, child.spawned,
        child.parent, child.bx, child.by_, child.bz, child.rank, child.coreNum, child.spadOff, child.count,
        fun w hw => have start := child.warps w hw
          ⟨start.frontier, start.scalar, start.scalars, start.vectors, start.predicates⟩⟩

/-- Settles O16: an `exit` is a commit point after which nothing follows while a lane remains, and a `spawn` leaves with
or without a new block. -/
theorem exitsAndSpawns : Obligations.ExitsAndSpawns := ⟨exitsEndLanes, spawnAsks⟩

end Sys2Proof.Machine
end

section
/-! SUPPORT. Records of the package error log (R368, R384): what a record leaves of the log, of bonded DRAM and of the
rest of a package. -/

namespace Sys2Proof.Machine

/- ### Where a record goes -/

theorem LogRec.length_bytes (r : LogRec) (time : DWord) : (r.bytes time).length = 32 := leBytes_length _ _

/-- Bonded DRAM with a record and the count of records written (R384). -/
def State.ringBytes (s : State) (a p : Nat) (r : LogRec) : Memory :=
  (s.dram.setBytes p (r.bytes (Config.freeWord s.free))).setBytes a (leBytes 8 (s.plog.count + 1))

/-- A record in a ring is its bytes and the count's. -/
theorem State.logPkgRec_ring {s : State} {a l : Nat} (h : s.plog.ring = some (a, l)) (r : LogRec) :
    ∃ ps, s.logPkgRec r = { s with
      dram := s.ringBytes a (a + (64 + 32 * (s.plog.count % 2 ^ l))) r, poison := ps, free := s.free + 1
      plog := { s.plog with count := s.plog.count + 1 } } := by
  obtain ⟨ps, body, -⟩ := s.writeLocs_dram (a + ringSlot l s.plog.count) (r.bytes (Config.freeWord s.free))
  obtain ⟨ps', count, -⟩ := State.writeLocs_dram { s with
    dram := s.dram.setBytes (a + ringSlot l s.plog.count) (r.bytes (Config.freeWord s.free)), poison := ps } a
    (leBytes 8 (s.plog.count + 1))
  rw [LogRec.length_bytes] at body
  rw [leBytes_length] at count
  refine ⟨ps', ?_⟩
  unfold State.logPkgRec
  rw [h]
  dsimp only
  rw [body, count]
  rfl

/-- Without a ring a record is held. -/
theorem State.logPkgRec_held {s : State} (h : s.plog.ring = none) (r : LogRec) :
    s.logPkgRec r = { s with plog := { s.plog with held := mergeRec r s.plog.held } } := by
  unfold State.logPkgRec
  rw [h]

/-- A record changes the log, its bytes and the free values alone. -/
theorem State.logPkg_eq (s : State) (kind : Nat) (cls : BitVec 8) (unit : Nat) (addr : DWord) :
    ∃ l d ps f, s.logPkg kind cls unit addr = { s with plog := l, dram := d, poison := ps, free := f } := by
  unfold State.logPkg
  cases ring : s.plog.ring with
  | none => exact ⟨_, _, _, _, State.logPkgRec_held ring _⟩
  | some r =>
    obtain ⟨ps, h⟩ := State.logPkgRec_ring (a := r.1) (l := r.2) ring ⟨kind, cls, BitVec.ofNat 16 unit, addr, 0xffff, 1⟩
    exact ⟨_, _, _, _, h⟩

/- ### What a record says -/

/-- The held record of a KIND counts one more, or there is one; those of other KINDs stay (R368). -/
theorem mergeRec_find (r : LogRec) (k : Nat) (held : List LogRec) :
    (mergeRec r held).find? (fun x => x.kind == k) =
      if k = r.kind then
        some (match held.find? fun x => x.kind == r.kind with
          | some x => { x with count := min (x.count + r.count) 0xffffffff }
          | none => r)
      else held.find? fun x => x.kind == k := by
  induction held with
  | nil =>
    by_cases hk : k = r.kind
    · simp [mergeRec, hk]
    · simp [mergeRec, hk, Ne.symm hk]
  | cons x t ih =>
    unfold mergeRec
    by_cases same : x.kind = r.kind
    · by_cases hk : k = r.kind
      · simp [same, hk]
      · simp [same, hk, Ne.symm hk]
    · by_cases hk : k = r.kind
      · simp only [hk, if_true] at ih
        simp [same, hk, ih]
      · simp only [hk, if_false] at ih
        simp [same, hk, List.find?_cons, ih]

/-- The field of n bytes from byte i on of a record, from the fields below it and its own. -/
theorem LogRec.num_bytes (r : LogRec) (time : DWord) (m : Memory) (p i n : Nat) (h : i + n ≤ 32) :
    leNat ((m.setBytes p (r.bytes time)).bytes (p + i) n) =
      (r.addr ++ time ++ r.unit ++ r.cls ++ BitVec.ofNat 8 r.kind ++ BitVec.ofNat 32 r.count ++ 0#48 ++
        BitVec.ofNat 16 r.ctx : BitVec 256).toNat / 2 ^ (8 * i) % 2 ^ (8 * n) := by
  rw [Memory.bytes_setBytes_part _ _ _ _ _ (by rw [LogRec.length_bytes]; exact h), LogRec.bytes,
    leNat_leBytes_part _ _ _ _ h, Nat.pow_mul, Nat.pow_mul]

/-- Everything that `PkgLogged` says of a ring is true of a record written there. -/
theorem ring_num {s t : State} {a p : Nat} {r : LogRec} (apart : a + 8 ≤ p) (dram : t.dram = s.ringBytes a p r) :
    t.num a 8 = (s.plog.count + 1) % 2 ^ 64 ∧ t.num p 8 = r.ctx % 2 ^ 16 ∧ t.num (p + 8) 4 = r.count % 2 ^ 32 ∧
    t.num (p + 12) 1 = r.kind % 2 ^ 8 ∧ t.num (p + 13) 1 = r.cls.toNat ∧ t.num (p + 14) 2 = r.unit.toNat ∧
    t.num (p + 24) 8 = r.addr.toNat := by
  have field (i n : Nat) (h : i + n ≤ 32) : t.num (p + i) n = _ :=
    (congrArg leNat (Memory.bytes_of_agree (m' := t.dram) fun k hk => by
      rw [dram, State.ringBytes, Memory.byte_setBytes_out _ _ _ _ (by rw [leBytes_length]; omega)])).trans
      (LogRec.num_bytes r (Config.freeWord s.free) s.dram p i n h)
  have h0 := r.addr.isLt
  have h1 := (Config.freeWord s.free).isLt
  have h2 := r.unit.isLt
  have h3 := r.cls.isLt
  simp only [toNat_append_sum, BitVec.toNat_ofNat] at field
  refine ⟨?_, ?_, ?_, ?_, ?_, ?_, ?_⟩
  · have whole := Memory.bytes_setBytes (leBytes 8 (s.plog.count + 1))
      (s.dram.setBytes p (r.bytes (Config.freeWord s.free))) a
    rw [leBytes_length] at whole
    rw [State.num, dram, State.ringBytes, whole, leNat_leBytes]
    norm_num
  · rw [show p = p + 0 from rfl, field 0 8 (by omega)]; omega
  · rw [field 8 4 (by omega)]; omega
  · rw [field 12 1 (by omega)]; omega
  · rw [field 13 1 (by omega)]; omega
  · rw [field 14 2 (by omega)]; omega
  · rw [field 24 8 (by omega)]; omega

/-- What one record leaves of the log (R368, R384). -/
theorem State.logPkg_logged (s : State) (kind : Nat) (cls : BitVec 8) (unit : Nat) (addr : DWord) :
    PkgLogged s (s.logPkg kind cls unit addr) kind cls unit addr where
  held ring := by
    unfold State.logPkg
    rw [State.logPkgRec_held ring]
    exact ⟨ring, rfl, rfl, fun k => mergeRec_find ⟨kind, cls, BitVec.ofNat 16 unit, addr, 0xffff, 1⟩ k s.plog.held⟩
  ring a l ring := by
    unfold State.logPkg
    obtain ⟨ps, h⟩ := State.logPkgRec_ring ring ⟨kind, cls, BitVec.ofNat 16 unit, addr, 0xffff, 1⟩
    have nums := ring_num (s := s) (a := a) (p := a + (64 + 32 * (s.plog.count % 2 ^ l)))
      (t := s.logPkgRec ⟨kind, cls, BitVec.ofNat 16 unit, addr, 0xffff, 1⟩)
      (r := ⟨kind, cls, BitVec.ofNat 16 unit, addr, 0xffff, 1⟩) (by omega) (by rw [h])
    obtain ⟨count, ctx, one, kinds, clss, units, addrs⟩ := nums
    rw [← Nat.add_assoc] at ctx one kinds clss units addrs
    refine ⟨by rw [h], ?_, count, ctx, one, kinds, clss, ?_, addrs⟩
    · intro b out
      have record := out (a + 64 + 32 * (s.plog.count % 2 ^ l), 32) (by simp)
      have counter := out (a, 8) (by simp)
      rw [h, State.ringBytes, Memory.byte_setBytes_out _ _ _ _ (by rw [leBytes_length]; exact counter),
        Memory.byte_setBytes_out _ _ _ _ (by rw [LogRec.length_bytes, ← Nat.add_assoc]; exact record)]
    · rw [units]
      exact BitVec.toNat_ofNat _ _

/-- What a record leaves depends on the log and on bonded DRAM alone. -/
theorem PkgLogged.of_eq {s s' t : State} {kind unit : Nat} {cls : BitVec 8} {addr : DWord}
    (h : PkgLogged s' t kind cls unit addr) (log : s'.plog = s.plog) (dram : s'.dram = s.dram) :
    PkgLogged s t kind cls unit addr := by
  obtain ⟨held, ring⟩ := h
  unfold dramBut at ring
  rw [log, dram] at held ring
  exact ⟨held, ring⟩

end Sys2Proof.Machine
end

section
/-! SUPPORT. The in-field test of a quad (R76, R276, R356, R370): one physical quad replaced, requests for the blocks on
it, and what its deferral, its retirement and a spare that takes its number leave. -/

namespace Sys2Proof.Machine

variable {s t : State} {die n : Nat}

/- ### One physical quad replaced -/

theorem State.quad_setQuad (s : State) (die n : Nat) (q : Quad) {d k : Nat} (hn : n < 50) (hk : k < 50) :
    (s.setQuad die n q).quad d k = if d = die ∧ k = n then q else s.quad d k := by
  unfold State.quad State.setQuad
  split
  · next h =>
    rw [h.1, h.2]
    exact smGet_set_self _ _ _ _
  · next h => exact smGet_set_other _ _ _ _ fun same => h (by omega)

theorem State.quad_setQuad_self (s : State) (die n : Nat) (q : Quad) : (s.setQuad die n q).quad die n = q :=
  smGet_set_self _ _ _ _

theorem State.quad_setQuad_other (s : State) (die : Nat) {n k : Nat} (q : Quad) (h : k ≠ n) :
    (s.setQuad die n q).quad die k = s.quad die k := smGet_set_other _ _ _ _ fun same => h (by omega)

theorem State.quad_logPkg (s : State) (kind : Nat) (cls : BitVec 8) (unit : Nat) (addr : DWord) (d k : Nat) :
    (s.logPkg kind cls unit addr).quad d k = s.quad d k := by
  obtain ⟨l, dram, ps, f, h⟩ := s.logPkg_eq kind cls unit addr
  rw [h]
  rfl

/- ### Blocks found by their keys -/

/-- A block of a list without double keys is the one that its key finds. -/
theorem State.block?_of_mem {b : Block} (h : (s.blocks.map fun b => b.key).Nodup) (hb : b ∈ s.blocks) :
    s.block? b.key = some b := by
  unfold State.block?
  generalize s.blocks = bs at h hb
  induction bs with
  | nil => cases hb
  | cons a t ih =>
    obtain ⟨first, later⟩ := List.nodup_cons.1 h
    rcases List.mem_cons.1 hb with rfl | hb
    · simp
    · have other : a.key ≠ b.key := fun same => first (List.mem_map.2 ⟨b, hb, same.symm⟩)
      rw [List.find?_cons_of_neg (by simpa using other)]
      exact ih later hb

theorem State.mem_of_block? {b : Block} {k : Nat} (h : s.block? k = some b) : b ∈ s.blocks := List.mem_of_find?_eq_some h

/-- The blocks of s alone have been replaced, each by one of its key. -/
structure State.replaces (s t : State) : Prop where
  rest : { t with blocks := s.blocks } = s
  keys : t.blocks.map (fun b => b.key) = s.blocks.map fun b => b.key

theorem State.replaces_refl (s : State) : s.replaces s := ⟨rfl, rfl⟩

theorem State.replaces.setBlock (h : s.replaces t) (b : Block) : s.replaces (t.setBlock b) :=
  ⟨h.rest, (State.setBlock_keys t b).trans h.keys⟩

theorem State.replaces.foldl {α : Type} (f : State → α → State) (l : List α)
    (hf : ∀ u a, s.replaces u → s.replaces (f u a)) : ∀ t, s.replaces t → s.replaces (l.foldl f t) := by
  induction l with
  | nil => exact fun t h => h
  | cons a l ih => exact fun t h => ih _ (hf t a h)

/-- A request replaces blocks. -/
theorem State.replaces_preempt (s : State) (keys : List Nat) (code step : Nat) :
    s.replaces (s.preempt keys code step) := by
  refine State.replaces.foldl _ _ (fun u k h => ?_) _ s.replaces_refl
  split
  · exact h
  · exact State.replaces.foldl _ _ (fun v p hv => hv.setBlock _) _ h

theorem State.replaces.quad (h : s.replaces t) (d k : Nat) : t.quad d k = s.quad d k := by
  rw [← h.rest]
  rfl

/- ### Blocks replaced in turn -/

/-- Blocks of s have been replaced one by one, block b by b1 where that is `done`. -/
structure State.turning (s : State) (b b1 : Block) (u : State) (done : Bool) : Prop where
  replaces : s.replaces u
  found : u.block? b.key = some b1 ∨ done = false ∧ u.block? b.key = some b

variable {b b1 : Block}

theorem State.turning.setBlock {u : State} {done : Bool} (h : s.turning b b1 u done) {p : Block}
    (hp : p.key = b.key → p = b1) : s.turning b b1 (u.setBlock p) (done || p.key == b.key) := by
  refine ⟨h.replaces.setBlock p, ?_⟩
  by_cases same : p.key = b.key
  · obtain ⟨old, hold⟩ : ∃ old, u.block? p.key = some old := by
      rw [same]
      rcases h.found with found | ⟨-, found⟩
      · exact ⟨b1, found⟩
      · exact ⟨b, found⟩
    refine .inl ?_
    rw [← same, setBlock_block?_self hold, hp same]
  · rw [setBlock_block?_other (Ne.symm same), beq_eq_false_iff_ne.2 same, Bool.or_false]
    exact h.found

/-- Blocks replaced in turn, each by one of its key, and those of b's key by b1. -/
theorem State.turning.foldl (f : Block → Block) (l : List Block)
    (hf : ∀ p ∈ l, (f p).key = p.key ∧ (p.key = b.key → f p = b1)) : ∀ {u : State} {done : Bool}, s.turning b b1 u done →
    s.turning b b1 (l.foldl (fun s p => s.setBlock (f p)) u) (done || l.any fun p => p.key == b.key) := by
  induction l with
  | nil =>
    intro u done h
    rw [List.any_nil, Bool.or_false]
    exact h
  | cons p l ih =>
    intro u done h
    obtain ⟨key, turns⟩ := hf p (by simp)
    have first := h.setBlock (p := f p) fun same => turns (key.symm.trans same)
    rw [key] at first
    rw [List.any_cons, ← Bool.or_assoc]
    exact ih (fun q hq => hf q (by simp [hq])) first

/-- A block of b's key is b, or b1. -/
theorem State.turning.of_key {u : State} {done : Bool} (h : s.turning b b1 u done)
    (distinct : (s.blocks.map fun b => b.key).Nodup) {p : Block} (hp : p ∈ u.blocks) (key : p.key = b.key) :
    p = b ∨ p = b1 := by
  have found := State.block?_of_mem (by rw [h.replaces.keys]; exact distinct) hp
  rw [key] at found
  rcases h.found with h1 | ⟨-, h1⟩
  · exact .inr (Option.some.inj (found.symm.trans h1))
  · exact .inl (Option.some.inj (found.symm.trans h1))

/- ### Requests (R346, R347) -/

theorem Block.request_key (b : Block) (code step : Nat) : (b.request code step).key = b.key := by
  unfold Block.request
  extract_lets rises
  split
  · rfl
  · rfl

theorem State.mem_unitOf {p q : Block} (hp : p ∈ s.blocks) (hq : q ∈ s.unitOf p) : q ∈ s.blocks := by
  unfold State.unitOf at hq
  split at hq
  · rw [List.mem_singleton.1 hq]
    exact hp
  · exact List.mem_of_mem_filter hq

theorem State.self_mem_unitOf {p : Block} (hp : p ∈ s.blocks) : p ∈ s.unitOf p := by
  unfold State.unitOf
  split
  · exact List.mem_singleton.2 rfl
  · next local_ => exact List.mem_filter.2 ⟨hp, by simp [local_]⟩

theorem State.preempt_cons_none {k : Nat} (h : s.block? k = none) (keys : List Nat) (code step : Nat) :
    s.preempt (k :: keys) code step = s.preempt keys code step := by
  unfold State.preempt
  rw [List.foldl_cons, h]

theorem State.preempt_cons_some {k : Nat} {p : Block} (h : s.block? k = some p) (keys : List Nat) (code step : Nat) :
    s.preempt (k :: keys) code step =
      ((s.unitOf p).foldl (fun s p => s.setBlock (p.request code step)) s).preempt keys code step := by
  unfold State.preempt
  rw [List.foldl_cons, h]

/-- A request for some blocks reaches each of them, where a second one changes nothing more (R346, R347). -/
theorem State.preempt_block? (distinct : (s.blocks.map fun b => b.key).Nodup) (hb : b ∈ s.blocks) {code step : Nat}
    (again : (b.request code step).request code step = b.request code step) (keys : List Nat) (hk : b.key ∈ keys) :
    (s.preempt keys code step).block? b.key = some (b.request code step) := by
  have each : ∀ (keys : List Nat) (u : State) (done : Bool), s.turning b (b.request code step) u done →
      s.turning b (b.request code step) (u.preempt keys code step) (done || keys.any fun k => k == b.key) := by
    intro keys
    induction keys with
    | nil =>
      intro u done h
      rw [List.any_nil, Bool.or_false]
      exact h
    | cons k keys ih =>
      intro u done h
      rw [List.any_cons, ← Bool.or_assoc]
      cases hp : u.block? k with
      | none =>
        have other : k ≠ b.key := by
          rintro rfl
          rcases h.found with h | ⟨-, h⟩
          · rw [hp] at h
            cases h
          · rw [hp] at h
            cases h
        rw [beq_eq_false_iff_ne.2 other, Bool.or_false, State.preempt_cons_none hp]
        exact ih u done h
      | some p =>
        have mem := State.mem_of_block? hp
        have turned := h.foldl (fun p => p.request code step) (u.unitOf p) fun q hq => ⟨q.request_key code step, fun key => by
          rcases h.of_key distinct (State.mem_unitOf mem hq) key with rfl | rfl
          · rfl
          · exact again⟩
        rw [State.preempt_cons_some hp]
        refine ih _ _ ⟨turned.replaces, turned.found.imp_right fun ⟨missed, old⟩ => ⟨?_, old⟩⟩
        rw [Bool.or_eq_false_iff, List.any_eq_false] at missed
        rw [missed.1, Bool.false_or, ← block?_key hp, ← Bool.not_eq_true]
        exact missed.2 p (State.self_mem_unitOf mem)
  have whole := each keys s false ⟨s.replaces_refl, .inr ⟨rfl, State.block?_of_mem distinct hb⟩⟩
  refine whole.found.resolve_right fun ⟨missed, _⟩ => ?_
  rw [Bool.false_or, List.any_eq_false] at missed
  exact missed b.key hk (beq_self_eq_true _)

end Sys2Proof.Machine
end

section
/-! SUPPORT. The events of the in-field test (R76, R276, R356, R370): what falling due, the deadline and the completion
of a test make of a quad, of the spares of its die and of the blocks on it. -/

namespace Sys2Proof.Machine

variable {s t : State} {die n : Nat}

/- ### Retirement and the number that a spare takes (R76, R370) -/

/-- Whether physical quad k can take the number of quad n: it has none, has passed its test, and is neither retired nor
under test. -/
def State.canReplace (s : State) (die n k : Nat) : Prop :=
  k < 50 ∧ k ≠ n ∧ (s.quad die k).logical = none ∧ (s.quad die k).passed = true ∧ (s.quad die k).retired = false ∧
    (s.quad die k).testing = false

/-- A quad that has been retired carries no number and is neither due nor under test. -/
def Quad.out (q : Quad) : Quad :=
  { q with logical := none, retired := true, testing := false, due := false, deferrals := 0 }

theorem quad_preempt (s : State) (keys : List Nat) (code step d k : Nat) :
    (s.preempt keys code step).quad d k = s.quad d k := (s.replaces_preempt keys code step).quad d k

theorem State.quad_retireQuad_self (s : State) (die n : Nat) :
    (s.retireQuad die n).quad die n = (s.quad die n).out := by
  unfold State.retireQuad
  extract_lets q spare keys s1 s2
  rw [quad_preempt]
  have out : s1.quad die n = q.out := State.quad_setQuad_self _ _ _ _
  unfold s2
  split
  · next k _ found _ =>
    have other := List.find?_some found
    simp only [Bool.and_eq_true, bne_iff_ne] at other
    rw [State.quad_logPkg, State.quad_setQuad_other _ _ _ (Ne.symm other.1.1.1.1), out]
  · rw [State.quad_logPkg, out]

/-- The lowest spare that has passed its test takes the number of a quad that is retired. -/
theorem State.quad_retireQuad_spare {k l : Nat} (hl : (s.quad die n).logical = some l) (hk : s.canReplace die n k)
    (lowest : ∀ j, j < k → ¬ s.canReplace die n j) : ((s.retireQuad die n).quad die k).logical = some l := by
  unfold State.retireQuad
  extract_lets q spare keys s1 s2
  have found : spare = some k := by
    obtain ⟨below, other, number, passed, retired, testing⟩ := hk
    refine List.find?_range_eq_some.2 ⟨?_, List.mem_range.2 below, fun j hj => ?_⟩
    · simp [other, number, passed, retired, testing]
    · rw [Bool.not_eq_true', ← Bool.not_eq_true]
      intro fit
      simp only [Bool.and_eq_true, bne_iff_ne, Option.isNone_iff_eq_none, Bool.not_eq_true'] at fit
      obtain ⟨⟨⟨⟨other', number'⟩, passed'⟩, retired'⟩, testing'⟩ := fit
      exact lowest j hj ⟨by omega, other', number', passed', retired', testing'⟩
  rw [quad_preempt]
  unfold s2
  split
  · next k' l' found' number =>
    obtain rfl : k = k' := Option.some.inj (found.symm.trans found')
    obtain rfl : l = l' := Option.some.inj (hl.symm.trans number)
    rw [State.quad_logPkg, State.quad_setQuad_self]
  · next bare => exact absurd hl (bare k l found)

/- ### A spare that fills an empty number (R76) -/

/-- A quad with a number, a retired one, or one of a die whose numbers are all carried fills none. -/
theorem State.fillEmpty_none (h : (s.quad die n).logical ≠ none ∨ (s.quad die n).retired = true ∨
    ∀ l, l < 48 → ∃ k, k < 50 ∧ (s.quad die k).logical = some l) : s.fillEmpty die n = s := by
  unfold State.fillEmpty
  extract_lets q empty
  cases found : empty with
  | none => rfl
  | some l =>
    refine if_neg ?_
    rintro free
    simp only [Bool.and_eq_true, Option.isNone_iff_eq_none, Bool.not_eq_true'] at free
    obtain ⟨⟨number, -⟩, retired⟩ := free
    rcases h with h | h | h
    · exact h number
    · rw [show (s.quad die n).retired = false from retired] at h
      cases h
    · obtain ⟨vacant, range, -⟩ := List.find?_range_eq_some.1 found
      obtain ⟨k, hk, carries⟩ := h l (List.mem_range.1 range)
      rw [Bool.not_eq_true', List.any_eq_false] at vacant
      exact vacant k (List.mem_range.2 hk) (by simp [carries])

/-- A spare that has passed takes the lowest number that no quad of its die carries. -/
theorem State.fillEmpty_takes {l : Nat} (hl : l < 48) (number : (s.quad die n).logical = none)
    (passed : (s.quad die n).passed = true) (retired : (s.quad die n).retired = false)
    (vacant : ∀ k, k < 50 → (s.quad die k).logical ≠ some l)
    (lower : ∀ j, j < l → ∃ k, k < 50 ∧ (s.quad die k).logical = some j) :
    s.fillEmpty die n = (s.setQuad die n { s.quad die n with logical := some l }).logPkg kSpare 0 (quadUnit die l)
      (BitVec.ofNat 64 n) := by
  unfold State.fillEmpty
  extract_lets q empty
  have found : empty = some l := by
    refine List.find?_range_eq_some.2 ⟨?_, List.mem_range.2 hl, fun j hj => ?_⟩
    · rw [Bool.not_eq_true', List.any_eq_false]
      exact fun k hk => by simpa using vacant k (List.mem_range.1 hk)
    · obtain ⟨k, hk, carries⟩ := lower j hj
      rw [Bool.not_not, List.any_eq_true]
      exact ⟨k, List.mem_range.2 hk, by simp [carries]⟩
  rw [found]
  exact if_pos (by simp [q, number, passed, retired])

/- ### The blocks on a quad -/

/-- b is on physical quad n of a die: it is resident there, under the number that the quad carries. -/
def State.onPhysical (s : State) (die n : Nat) (b : Block) : Prop :=
  b ∈ s.blocks ∧ b.res = .resident ∧ b.die = die ∧ (s.quad die n).logical = some b.quad

theorem State.mem_onQuad (b : Block) : b ∈ s.onQuad die (s.quad die n).logical ↔ s.onPhysical die n b := by
  unfold State.onQuad State.onPhysical
  rw [List.mem_filter]
  simp only [Bool.and_eq_true, beq_iff_eq, and_assoc, eq_comm (a := some b.quad)]

theorem State.onQuad_isEmpty (h : ∀ b, ¬ s.onPhysical die n b) :
    (s.onQuad die (s.quad die n).logical).isEmpty = true := by
  rw [List.isEmpty_iff, List.eq_nil_iff_forall_not_mem]
  exact fun b hb => h b (State.mem_onQuad b |>.1 hb)

theorem State.onQuad_not_isEmpty {b : Block} (h : s.onPhysical die n b) :
    ¬ (s.onQuad die (s.quad die n).logical).isEmpty = true := by
  rw [List.isEmpty_iff]
  exact List.ne_nil_of_mem (State.mem_onQuad b |>.2 h)

/- ### TEST_DUE -/

theorem execTestDue_ignored (h : 4 ≤ die ∨ 50 ≤ n ∨ (s.quad die n).retired = true ∨ (s.quad die n).testing = true ∨
    (s.quad die n).due = true) : exec (.testDue die n) s = .next s := congrArg _ (if_pos h)

theorem execTestDue_requests (hd : die < 4) (hn : n < 50) (retired : (s.quad die n).retired = false)
    (testing : (s.quad die n).testing = false) (due : (s.quad die n).due = false) :
    exec (.testDue die n) s = .next ((s.setQuad die n { s.quad die n with due := true }).preempt
      ((s.onQuad die (s.quad die n).logical).map (·.key)) 5 1) :=
  congrArg _ (if_neg (by simp [retired, testing, due]; omega))

/-- The request that a test makes of a block without one (R356). -/
theorem Block.request_test {b : Block} (res : b.res = .resident) (ended : b.ended = false) (stop : b.stop = none) :
    b.request 5 1 = { b with stop := some (5, 1) } := by
  unfold Block.request
  rw [stop, res, ended]
  rfl

theorem Block.request_test_again {b : Block} (res : b.res = .resident) (ended : b.ended = false) :
    ({ b with stop := some (5, 1) } : Block).request 5 1 = { b with stop := some (5, 1) } := by
  unfold Block.request
  dsimp only
  rw [res, ended]
  rfl

/- ### TEST_DEADLINE -/

theorem execTestDeadline_ignored (h : (s.quad die n).due = false) : exec (.testDeadline die n) s = .next s :=
  congrArg _ (if_pos (by simp [h]))

theorem execTestDeadline_starts (due : (s.quad die n).due = true) (bare : ∀ b, ¬ s.onPhysical die n b) :
    exec (.testDeadline die n) s =
      .next (s.setQuad die n { s.quad die n with due := false, testing := true, deferrals := 0 }) :=
  congrArg _ ((if_neg (by simp [due])).trans (if_pos (State.onQuad_isEmpty bare)))

/-- A block without the request of a test, which gives way (R356). -/
def Block.untested (b : Block) : Block :=
  { b with stop := match b.stop with
      | some (5, _) => none
      | o => o }

/-- The blocks on a quad without the request of its test. -/
def State.unrequested (s : State) (die n : Nat) : State :=
  (s.onQuad die (s.quad die n).logical).foldl (fun s b => s.setBlock b.untested) s

/-- The package with a test of a quad deferred once more (R356). -/
def State.deferred (s : State) (die n : Nat) : State :=
  ((s.unrequested die n).setQuad die n { s.quad die n with due := false, deferrals := (s.quad die n).deferrals + 1 }).logPkg
    kDeferred 0 (quadUnit die n) (BitVec.ofNat 64 ((s.quad die n).deferrals + 1))

theorem State.replaces_unrequested (s : State) (die n : Nat) : s.replaces (s.unrequested die n) :=
  State.replaces.foldl _ _ (fun _ _ h => h.setBlock _) s s.replaces_refl

theorem execTestDeadline_defers {b : Block} (due : (s.quad die n).due = true) (hb : s.onPhysical die n b) :
    exec (.testDeadline die n) s = .next (if 3 ≤ (s.quad die n).deferrals + 1 then (s.deferred die n).retireQuad die n
      else s.deferred die n) :=
  congrArg _ ((if_neg (by simp [due])).trans (if_neg (State.onQuad_not_isEmpty hb)))

theorem State.quad_deferred (s : State) (die : Nat) {n d k : Nat} (hn : n < 50) (hk : k < 50) :
    (s.deferred die n).quad d k = if d = die ∧ k = n then
        { s.quad die n with due := false, deferrals := (s.quad die n).deferrals + 1 }
      else s.quad d k := by
  unfold State.deferred
  rw [State.quad_logPkg, State.quad_setQuad _ _ _ _ hn hk]
  exact if_congr Iff.rfl rfl ((s.replaces_unrequested die n).quad d k)

/- ### TEST_COMPLETE -/

theorem execTestComplete_ignored {rows : List (Nat × Nat)} {other : Bool} (h : (s.quad die n).testing = false) :
    exec (.testComplete die n rows other) s = .next s := congrArg _ (if_pos (by simp [h]))

/-- A test that finds nothing is logged, and the quad has passed. -/
theorem execTestComplete_passes (testing : (s.quad die n).testing = true) (rowsOff : (s.quad die n).rowsOff = []) :
    exec (.testComplete die n [] false) s = .next (((s.setQuad die n
      { s.quad die n with testing := false, passed := true }).fillEmpty die n).logPkg kCorrected 0 (quadUnit die n) 0) := by
  show execTestComplete die n [] false s = _
  unfold execTestComplete
  extract_lets q off few fail s1 s2 s3
  have bareoff : off = q.rowsOff := by
    rw [show q.rowsOff = [] from rowsOff]
    unfold off
    rw [show q.rowsOff = [] from rowsOff]
    rfl
  have passes : fail = false := by
    unfold fail few
    rw [bareoff, show q.rowsOff = [] from rowsOff]
    decide
  rw [if_neg (by simp [q, testing])]
  unfold s3 s2 s1
  rw [passes, bareoff, show q.rowsOff = [] from rowsOff, Bool.not_false, Bool.or_true]
  rfl

/-- A test that finds a failure retires the quad. -/
theorem execTestComplete_fails {rows : List (Nat × Nat)} (testing : (s.quad die n).testing = true) :
    ∃ off, exec (.testComplete die n rows true) s = .next (((s.setQuad die n { s.quad die n with
      testing := false, rowsOff := off }).logPkg kCorrected 0 (quadUnit die n) (BitVec.ofNat 64 off.length)).retireQuad
        die n) := by
  rw [show exec (.testComplete die n rows true) s = execTestComplete die n rows true s from rfl]
  unfold execTestComplete
  extract_lets q off few fail s1 s2 s3
  have fails : fail = true := Bool.true_or few
  have failed : s1 = s.setQuad die n { s.quad die n with testing := false, rowsOff := off } := by
    unfold s1
    rw [fails, Bool.not_true, Bool.or_false]
  rw [if_neg (by simp [q, testing]), if_pos fails]
  unfold s3 s2
  rw [if_pos fails, failed]
  exact ⟨off, rfl⟩

end Sys2Proof.Machine
end

section
/-! SUPPORT. The statements about the in-field test (R76, R276, R356, R370), event by event. -/

namespace Sys2Proof.Machine

variable {die n : Nat}

/-- The quads of t are those of s, but for physical quad n of a die, which is q. -/
def State.quadsBut (s t : State) (die n : Nat) (q : Quad) : Prop :=
  ∀ d k, d < 4 → k < 50 → t.quad d k = if d = die ∧ k = n then q else s.quad d k

/-- No two blocks have the same key. -/
def State.distinctKeys (s : State) : Prop := (s.blocks.map fun b => b.key).Nodup

theorem State.quadsBut.of_quad {s t u : State} {q : Quad} (h : s.quadsBut t die n q)
    (same : ∀ d k, u.quad d k = t.quad d k) : s.quadsBut u die n q :=
  fun d k hd hk => (same d k).trans (h d k hd hk)

theorem State.quadsBut_setQuad (s : State) (die : Nat) (q : Quad) (hn : n < 50) :
    s.quadsBut (s.setQuad die n q) die n q := fun _ _ _ hk => s.quad_setQuad die n q hn hk

/-- A record leaves all but what records write. -/
theorem State.noLog_logPkg (s : State) (kind : Nat) (cls : BitVec 8) (unit : Nat) (addr : DWord) :
    (s.logPkg kind cls unit addr).noLog = s.noLog := by
  obtain ⟨l, dram, ps, f, log⟩ := s.logPkg_eq kind cls unit addr
  rw [log]
  rfl

theorem State.block?_logPkg (s : State) (kind : Nat) (cls : BitVec 8) (unit : Nat) (addr : DWord) (k : Nat) :
    (s.logPkg kind cls unit addr).block? k = s.block? k :=
  congrArg (List.find? fun b : Block => b.key == k)
    (congrArg State.blocks (s.noLog_logPkg kind cls unit addr) :)

/-- A quad with another result of its test carries the same number. -/
theorem State.logical_setQuad (s : State) (die : Nat) {n k : Nat} {q : Quad} (hn : n < 50) (hk : k < 50)
    (h : q.logical = (s.quad die n).logical) : ((s.setQuad die n q).quad die k).logical = (s.quad die k).logical := by
  rw [State.quad_setQuad _ _ _ _ hn hk]
  split
  · next same => rw [same.2, h]
  · rfl

/- ### TEST_DUE -/

theorem testDue_ignored : Event (.testDue die n) (fun s => 4 ≤ die ∨ 50 ≤ n ∨ (s.quad die n).retired = true ∨
    (s.quad die n).testing = true ∨ (s.quad die n).due = true) fun s t => t = s :=
  fun s h => ⟨s, execTestDue_ignored h, rfl⟩

theorem testDue_requests (hd : die < 4) (hn : n < 50) : Event (.testDue die n)
    (fun s => s.distinctKeys ∧ (s.quad die n).retired = false ∧ (s.quad die n).testing = false ∧
      (s.quad die n).due = false)
    fun s t => { t with quads := s.quads, blocks := s.blocks } = s ∧
      s.quadsBut t die n { s.quad die n with due := true } ∧
      ∀ b, s.onPhysical die n b → b.ended = false → b.stop = none → ∃ b', t.block? b.key = some b' ∧
        b' = { b with stop := some (5, 1) } := by
  rintro s ⟨distinct, retired, testing, due⟩
  refine ⟨_, execTestDue_requests hd hn retired testing due, ?_, ?_, ?_⟩
  · exact congrArg (fun u : State => { u with quads := s.quads }) (State.replaces_preempt _ _ 5 1).rest
  · exact (s.quadsBut_setQuad die _ hn).of_quad (quad_preempt _ _ 5 1)
  · intro b hb ended stop
    have asked := Block.request_test hb.2.1 ended stop
    refine ⟨_, ?_, asked⟩
    refine State.preempt_block? (s := s.setQuad die n { s.quad die n with due := true }) distinct hb.1 ?_ _
      (List.mem_map.2 ⟨b, (State.mem_onQuad b).2 hb, rfl⟩)
    rw [asked]
    exact Block.request_test_again hb.2.1 ended

/- ### TEST_DEADLINE -/

theorem testDeadline_ignored : Event (.testDeadline die n) (fun s => (s.quad die n).due = false) fun s t => t = s :=
  fun s h => ⟨s, execTestDeadline_ignored h, rfl⟩

theorem testDeadline_starts (hn : n < 50) : Event (.testDeadline die n)
    (fun s => (s.quad die n).due = true ∧ ∀ b, ¬ s.onPhysical die n b) fun s t => { t with quads := s.quads } = s ∧
      s.quadsBut t die n { s.quad die n with due := false, testing := true, deferrals := 0 } :=
  fun s ⟨due, bare⟩ => ⟨_, execTestDeadline_starts due bare, rfl, s.quadsBut_setQuad die _ hn⟩

theorem State.block?_unrequested {s : State} {b : Block} (distinct : s.distinctKeys) (hb : s.onPhysical die n b) :
    (s.unrequested die n).block? b.key = some b.untested := by
  have same (p : Block) (hp : p ∈ s.onQuad die (s.quad die n).logical) (key : p.key = b.key) : p.untested = b.untested := by
    have found := State.block?_of_mem distinct (State.mem_onQuad p |>.1 hp).1
    rw [key, State.block?_of_mem distinct hb.1] at found
    rw [Option.some.inj found]
  have turned := State.turning.foldl Block.untested (s.onQuad die (s.quad die n).logical)
    (fun p hp => ⟨rfl, same p hp⟩) (u := s) (done := false)
    ⟨s.replaces_refl, .inr ⟨rfl, State.block?_of_mem distinct hb.1⟩⟩
  refine turned.found.resolve_right fun ⟨missed, _⟩ => ?_
  rw [Bool.false_or, List.any_eq_false] at missed
  exact missed b ((State.mem_onQuad b).2 hb) (beq_self_eq_true _)

theorem Block.untested_of_request {b : Block} {k : Nat} (h : b.stop = some (5, k)) : b.untested = { b with stop := none } := by
  unfold Block.untested
  rw [h]
  rfl

theorem testDeadline_defers (hn : n < 50) : Event (.testDeadline die n)
    (fun s => s.distinctKeys ∧ (s.quad die n).due = true ∧ (s.quad die n).deferrals < 2 ∧ ∃ b, s.onPhysical die n b)
    fun s t =>
      let d := (s.quad die n).deferrals + 1
      { t.noLog with quads := s.quads, blocks := s.blocks } = s.noLog ∧
      s.quadsBut t die n { s.quad die n with due := false, deferrals := d } ∧
      PkgLogged s t 0x06 0 (die * 50 + n) (BitVec.ofNat 64 d) ∧
      ∀ b, s.onPhysical die n b → (∃ k, b.stop = some (5, k)) → t.block? b.key = some { b with stop := none } := by
  rintro s ⟨distinct, due, few, b, hb⟩
  have replaced := s.replaces_unrequested die n
  refine ⟨s.deferred die n, ?_, ?_, ?_, ?_, ?_⟩
  · rw [execTestDeadline_defers due hb, if_neg (by omega)]
  · unfold State.deferred
    rw [State.noLog_logPkg]
    exact congrArg (fun u : State => { u.noLog with quads := s.quads }) replaced.rest
  · exact fun d k _ hk => s.quad_deferred die hn hk
  · exact (State.logPkg_logged _ kDeferred 0 (quadUnit die n) _).of_eq (congrArg State.plog replaced.rest :)
      (congrArg State.dram replaced.rest :)
  · rintro b hb ⟨k, stop⟩
    unfold State.deferred
    rw [← Block.untested_of_request stop, State.block?_logPkg]
    exact State.block?_unrequested distinct hb

theorem testDeadline_retires : Event (.testDeadline die n)
    (fun s => (s.quad die n).due = true ∧ 2 ≤ (s.quad die n).deferrals ∧ ∃ b, s.onPhysical die n b) fun _ t =>
      (t.quad die n).logical = none ∧ (t.quad die n).retired = true ∧ (t.quad die n).due = false := by
  rintro s ⟨due, many, b, hb⟩
  refine ⟨(s.deferred die n).retireQuad die n, ?_, ?_⟩
  · rw [execTestDeadline_defers due hb, if_pos (by omega)]
  · have out := (s.deferred die n).quad_retireQuad_self die n
    exact ⟨congrArg Quad.logical out, congrArg Quad.retired out, congrArg Quad.due out⟩

/- ### TEST_COMPLETE -/

theorem testComplete_ignored {rows : List (Nat × Nat)} {other : Bool} :
    Event (.testComplete die n rows other) (fun s => (s.quad die n).testing = false) fun s t => t = s :=
  fun s h => ⟨s, execTestComplete_ignored h, rfl⟩

theorem testComplete_passes (hn : n < 50) : Event (.testComplete die n [] false)
    (fun s => (s.quad die n).testing = true ∧ (s.quad die n).rowsOff = [] ∧
      ((s.quad die n).logical ≠ none ∨ (s.quad die n).retired = true ∨
        ∀ l, l < 48 → ∃ k, k < 50 ∧ (s.quad die k).logical = some l)) fun s t =>
    { t.noLog with quads := s.quads } = s.noLog ∧
    s.quadsBut t die n { s.quad die n with testing := false, passed := true } ∧
    PkgLogged s t 0x01 0 (die * 50 + n) 0 := by
  rintro s ⟨testing, rows, full⟩
  refine ⟨_, execTestComplete_passes testing rows, ?_⟩
  rw [State.fillEmpty_none (s := s.setQuad die n { s.quad die n with testing := false, passed := true })]
  · refine ⟨?_, ?_, ?_⟩
    · rw [State.noLog_logPkg]
      rfl
    · exact (s.quadsBut_setQuad die _ hn).of_quad (State.quad_logPkg _ _ _ _ _)
    · exact (State.logPkg_logged _ kCorrected 0 (quadUnit die n) 0).of_eq rfl rfl
  · rw [State.quad_setQuad_self]
    refine full.imp_right (.imp_right fun carried l hl => ?_)
    obtain ⟨k, hk, carries⟩ := carried l hl
    exact ⟨k, hk, (State.logical_setQuad (q := { s.quad die n with testing := false, passed := true }) s die hn hk
      rfl).trans carries⟩

theorem testComplete_fills {l : Nat} (hn : n < 50) (hl : l < 48) : Event (.testComplete die n [] false)
    (fun s => (s.quad die n).testing = true ∧ (s.quad die n).rowsOff = [] ∧ (s.quad die n).logical = none ∧
      (s.quad die n).retired = false ∧ (∀ k, k < 50 → (s.quad die k).logical ≠ some l) ∧
      ∀ j, j < l → ∃ k, k < 50 ∧ (s.quad die k).logical = some j) fun s t =>
    { t.noLog with quads := s.quads } = s.noLog ∧
    s.quadsBut t die n { s.quad die n with testing := false, passed := true, logical := some l } := by
  rintro s ⟨testing, rows, number, retired, vacant, lower⟩
  refine ⟨_, execTestComplete_passes testing rows, ?_⟩
  have self := s.quad_setQuad_self die n { s.quad die n with testing := false, passed := true }
  have carried (k : Nat) (hk : k < 50) := s.logical_setQuad die
    (q := { s.quad die n with testing := false, passed := true }) hn hk rfl
  rw [State.fillEmpty_takes hl (by rw [self, number]) (by rw [self]) (by rw [self, retired])
    (fun k hk => by rw [carried k hk]; exact vacant k hk)
    (fun j hj => by
      obtain ⟨k, hk, carries⟩ := lower j hj
      exact ⟨k, hk, (carried k hk).trans carries⟩), self]
  refine ⟨?_, fun d k _ hk => ?_⟩
  · rw [State.noLog_logPkg, State.noLog_logPkg]
    rfl
  · rw [State.quad_logPkg, State.quad_logPkg, State.quad_setQuad _ _ _ _ hn hk, State.quad_setQuad _ _ _ _ hn hk]
    split
    · rfl
    · rfl

theorem testComplete_fails {rows : List (Nat × Nat)} {l : Nat} : Event (.testComplete die n rows true)
    (fun s => (s.quad die n).testing = true ∧ (s.quad die n).logical = some l) fun s t =>
      (t.quad die n).logical = none ∧ (t.quad die n).retired = true ∧
      ∀ k, s.canReplace die n k → (∀ j, j < k → ¬ s.canReplace die n j) → (t.quad die k).logical = some l := by
  rintro s ⟨testing, number⟩
  obtain ⟨off, fails⟩ := execTestComplete_fails (rows := rows) testing
  refine ⟨_, fails, ?_⟩
  generalize tested : (s.setQuad die n { s.quad die n with testing := false, rowsOff := off }).logPkg _ _ _ _ = u
  have same (k : Nat) (hk : k ≠ n) : u.quad die k = s.quad die k := by
    rw [← tested, State.quad_logPkg, State.quad_setQuad_other _ _ _ hk]
  have replaces (k : Nat) : u.canReplace die n k ↔ s.canReplace die n k := by
    unfold State.canReplace
    refine and_congr_right fun _ => and_congr_right fun other => ?_
    rw [same k other]
  have out := u.quad_retireQuad_self die n
  refine ⟨congrArg Quad.logical out, congrArg Quad.retired out, fun k fit lowest => ?_⟩
  refine State.quad_retireQuad_spare ?_ ((replaces k).2 fit) fun j hj => mt (replaces j).1 (lowest j hj)
  rw [← tested, State.quad_logPkg, State.quad_setQuad_self]
  exact number

end Sys2Proof.Machine
end

section
/-! SUPPORT. A warp's halt (R343) and its re-entry after a consumed error (R366). -/

namespace Sys2Proof.Machine

variable {s : State} {b : Block} {w : Warp} {g : Grid}

/- ### One warp written back -/

/-- A warp written back into its block is all that changes. -/
theorem onlyWarp_setBlock {w0 : Warp} (hb : s.block? b.key = some b) (hw : b.warp? w.num = some w0) :
    (s.setBlock (b.setWarp w)).warpAt (b.key, w.num) = some w ∧ OnlyWarp s (s.setBlock (b.setWarp w)) b.key w.num := by
  have back := putBack_setBlock hb hw
  refine ⟨back.warp, back.rest, back.grids, back.blocks, ?_, fun i hi => ?_⟩
  · rw [back.block, hb, Option.map_some]
  · rw [back.warps i hi]
    simp [State.warpAt, hb]

/- ### Entries that park with PARK 7 -/

/-- The frontier with the lanes of entry e parked where they stand, with PARK 7 (R343). -/
def haltEntry (fr : List Entry) (e : Entry) : List Entry := addEntry (dropLanes fr e.mask) ⟨e.pc, e.prio, e.mask, 7⟩

theorem haltEntry_stands (fr : List Entry) (e : Entry) {l : Nat} (hl : l < 32) :
    standsIn (haltEntry fr e) l = if e.mask.getLsbD l then some (e.pc, 7) else standsIn fr l := by
  unfold haltEntry
  split
  · next has => exact addEntry_stands_self _ _ l has (dropLanes_bit fr e.mask l hl has)
  · next lacks =>
    rw [Bool.not_eq_true] at lacks
    exact (addEntry_stands_other _ ⟨e.pc, e.prio, e.mask, 7⟩ l lacks).trans (dropLanes_stands fr e.mask l hl lacks)

/-- The lanes of some entries that agree on where a lane stands park it there. -/
theorem foldl_haltEntry_stands {l : Nat} {p : DWord} (hl : l < 32) (es : List Entry)
    (place : ∀ e ∈ es, e.mask.getLsbD l = true → e.pc = p) : ∀ fr : List Entry,
    standsIn (es.foldl haltEntry fr) l = if es.any (fun e => e.mask.getLsbD l) then some (p, 7) else standsIn fr l := by
  induction es with
  | nil => exact fun fr => rfl
  | cons e es ih =>
    intro fr
    rw [List.foldl_cons, ih (fun f hf => place f (by simp [hf])), haltEntry_stands fr e hl, List.any_cons]
    cases has : e.mask.getLsbD l
    · simp
    · simp [place e (by simp) has]

/-- The entries whose lanes a halt parks. -/
def Warp.moving (w : Warp) : List Entry := w.frontier.filter fun e => e.park == 0

theorem Warp.mem_moving {e : Entry} : e ∈ w.moving ↔ e ∈ w.frontier ∧ e.park = 0 := by
  unfold Warp.moving
  rw [List.mem_filter, beq_iff_eq]

/-- A lane moves where it stands with park code 0. -/
theorem Warp.moving_any {l : Nat} (once : w.once l) :
    w.moving.any (fun e => e.mask.getLsbD l) = true ↔ ∃ p, w.stands l = some (p, 0) := by
  rw [List.any_eq_true]
  constructor
  · rintro ⟨e, he, has⟩
    obtain ⟨mem, park⟩ := Warp.mem_moving.1 he
    exact ⟨e.pc, by rw [once e mem has, park]⟩
  · rintro ⟨p, stands⟩
    obtain ⟨e, mem, has, same⟩ := Warp.stands_mem stands
    exact ⟨e, Warp.mem_moving.2 ⟨mem, (Prod.mk.inj same).2⟩, has⟩

/-- Where a lane stands after a halt. -/
theorem Warp.halt_stands {l : Nat} (hl : l < 32) (once : w.once l) :
    standsIn (w.moving.foldl haltEntry w.frontier) l = match w.stands l with
      | some (p, k) => if k = 0 then some (p, 7) else some (p, k)
      | none => none := by
  have moves := Warp.moving_any once
  cases stands : w.stands l with
  | none =>
    rw [stands] at moves
    rw [foldl_haltEntry_stands (p := 0) hl, if_neg (by simp [moves])]
    · exact stands
    · intro e he has
      have := once e (Warp.mem_moving.1 he).1 has
      rw [stands] at this
      cases this
  | some r =>
    obtain ⟨p, k⟩ := r
    rw [stands] at moves
    rw [foldl_haltEntry_stands (p := p) hl]
    · by_cases zero : k = 0
      · rw [if_pos (moves.2 ⟨p, by rw [zero]⟩)]
        exact (if_pos zero).symm
      · rw [if_neg (by simpa [moves] using zero)]
        exact stands.trans (if_neg zero).symm
    · intro e he has
      have place := once e (Warp.mem_moving.1 he).1 has
      rw [stands] at place
      exact (Prod.mk.inj (Option.some.inj place)).1.symm

/- ### The halt -/

/-- A frontier with an entry that no park code holds has one to select (R119). -/
theorem select_of_mem {es : List Entry} {e : Entry} (he : e ∈ es) (park : e.park = 0) : ∃ f, select es = some f := by
  induction es with
  | nil => cases he
  | cons a es ih =>
    unfold select
    split
    · next bare =>
      rcases List.mem_cons.1 he with rfl | he
      · exact ⟨e, if_pos park⟩
      · obtain ⟨f, selected⟩ := ih he
        rw [bare] at selected
        cases selected
    · split
      · exact ⟨a, rfl⟩
      · exact ⟨_, rfl⟩

/-- Outside a region a halt drops nothing. -/
theorem Warp.discard_outside (rgn : w.rgn.inrgn = false) (cb : DWord) : w.discard cb = w := by
  unfold Warp.discard
  rw [rgn]
  rfl

theorem foldl_frontier (es : List Entry) : ∀ w : Warp, es.foldl (fun (w : Warp) (e : Entry) =>
    { w with frontier := addEntry (dropLanes w.frontier e.mask) ⟨e.pc, e.prio, e.mask, 7⟩ }) w =
      { w with frontier := es.foldl haltEntry w.frontier } := by
  induction es with
  | nil => exact fun w => rfl
  | cons e es ih => exact fun w => ih _

/-- A warp with its issuable lanes parked, and one more trap for the supervisor core. -/
def Warp.parked (w : Warp) (u : Trap) : Warp :=
  { w with
    frontier := w.moving.foldl haltEntry w.frontier
    st := { w.st with halt := true, pdbg := false }
    straps := w.straps ++ [u] }

/-- The trap of a halt at an entry. -/
def Warp.haltTrap (w : Warp) (cb : DWord) (e : Entry) : Trap :=
  { mkTrap cb e.pc e.mask 0 w.rgn.inrgn (Cause.one .debug 0) with lanes := w.moving.foldl (fun m e => m ||| e.mask) 0 }

theorem Warp.halted_eq (rgn : w.rgn.inrgn = false) (issuable : ∃ e ∈ w.frontier, e.park = 0) :
    ∃ e, w.halted g = w.parked (w.haltTrap g.cb e) := by
  obtain ⟨e, he, park⟩ := issuable
  obtain ⟨f, found⟩ := select_of_mem (Warp.mem_moving.2 ⟨he, park⟩) park
  refine ⟨f, ?_⟩
  unfold Warp.halted
  rw [Warp.discard_outside rgn, ite_self]
  dsimp only
  rw [foldl_frontier, show select (w.frontier.filter fun e => e.park == 0) = some f from found]
  rfl

theorem Warp.haltTrap_w1 (w : Warp) (cb : DWord) (e : Entry) : (w.haltTrap cb e).words.w1 = 0 := rfl

/-- The low byte of word 0 of a trap record is its code (R337). -/
theorem trapWord0_code (poff : Word) (sub : BitVec 8) (inrgn async : Bool) (elane : Nat) (code : BitVec 8) :
    (trapWord0 poff sub inrgn async elane code).toNat % 256 = code.toNat := by
  have h := code.isLt
  unfold trapWord0
  rw [toNat_append_sum]
  omega

theorem Warp.haltTrap_lanes {l : Nat} (cb : DWord) (e : Entry) (once : w.once l) :
    (w.haltTrap cb e).lanes.getLsbD l = true ↔ ∃ p, w.stands l = some (p, 0) := by
  rw [← Warp.moving_any once]
  show (w.moving.foldl (fun (m : Mask) (e : Entry) => m ||| e.mask) 0).getLsbD l = true ↔ _
  rw [foldl_masks_bit]
  simp

/-- Whether the halt of a warp of a block takes place (R334, R343, R344). -/
def State.canHalt (s : State) (b : Block) (w : Warp) : Prop :=
  b.res = .resident ∧ w.st.pdbg = true ∧ w.hasEnded = false ∧ w.atBoundary = true ∧
    ∀ x ∈ b.xfers, x.req.warp = w.num → s.copyfDue b.key x.id = none

theorem execWarpHalt_halts (hb : s.block? b.key = some b) (hw : b.warp? w.num = some w) (hg : s.grid? b.grid = some g)
    (can : s.canHalt b w) : exec (.warpHalt b.key w.num) s = .next (s.setBlock (b.setWarp (w.halted g))) := by
  obtain ⟨res, pdbg, ended, boundary, copies⟩ := can
  show execWarpHalt b.key w.num s = _
  unfold execWarpHalt
  rw [hb]
  dsimp only
  rw [hw, hg]
  refine congrArg _ (if_pos ?_)
  rw [pdbg, ended, boundary, res]
  simpa [or_iff_not_imp_left] using copies

theorem execWarpHalt_ignored (hb : s.block? b.key = some b) (hw : b.warp? w.num = some w)
    (h : w.st.pdbg = false ∨ w.hasEnded = true ∨ w.atBoundary = false) :
    exec (.warpHalt b.key w.num) s = .next s := by
  show execWarpHalt b.key w.num s = _
  unfold execWarpHalt
  rw [hb]
  dsimp only
  rw [hw]
  cases s.grid? b.grid with
  | none => rfl
  | some g =>
    refine congrArg _ (if_neg ?_)
    rcases h with h | h | h
    · simp [h]
    · simp [h]
    · simp [h]

theorem warpHalt_halts (b : Block) (w : Warp) (g : Grid) : Event (.warpHalt b.key w.num)
    (fun s => s.block? b.key = some b ∧ b.warp? w.num = some w ∧ s.grid? b.grid = some g ∧ b.res = .resident ∧
      w.st.pdbg = true ∧ w.hasEnded = false ∧ w.atBoundary = true ∧ w.rgn.inrgn = false ∧
      (∀ x ∈ b.xfers, x.req.warp = w.num → s.copyfDue b.key x.id = none) ∧ (∀ l, l < 32 → w.once l) ∧
      ∃ e ∈ w.frontier, e.park = 0) fun s t =>
    ∃ w', t.warpAt (b.key, w.num) = some w' ∧ OnlyWarp s t b.key w.num ∧
      w'.others = { w with straps := w'.straps, st := { w.st with halt := true, pdbg := false } }.others ∧
      (∀ l, l < 32 → w'.stands l = match w.stands l with
        | some (p, k) => if k = 0 then some (p, 7) else some (p, k)
        | none => none) ∧
      ∃ u, w'.straps = w.straps ++ [u] ∧ u.words.w1 = 0 ∧
        u.words.w0.toNat % 256 = (TrapCode.num .debug).toNat ∧
        ∀ l, l < 32 → (u.lanes.getLsbD l = true ↔ ∃ p, w.stands l = some (p, 0)) := by
  rintro s ⟨hb, hw, hg, res, pdbg, ended, boundary, rgn, copies, once, moving⟩
  obtain ⟨e, halted⟩ := Warp.halted_eq (g := g) rgn moving
  obtain ⟨there, only⟩ := onlyWarp_setBlock (w := w.parked (w.haltTrap g.cb e)) hb hw
  refine ⟨_, execWarpHalt_halts hb hw hg ⟨res, pdbg, ended, boundary, copies⟩, ?_⟩
  rw [halted]
  refine ⟨_, there, only, rfl, fun l hl => Warp.halt_stands hl (once l hl), w.haltTrap g.cb e, rfl, rfl, ?_, ?_⟩
  · exact trapWord0_code _ _ _ _ _ _
  · exact fun l hl => Warp.haltTrap_lanes g.cb e (once l hl)

theorem warpHalt_ignored (b : Block) (w : Warp) : Event (.warpHalt b.key w.num)
    (fun s => s.block? b.key = some b ∧ b.warp? w.num = some w ∧
      (w.st.pdbg = false ∨ w.hasEnded = true ∨ w.atBoundary = false)) fun s t => t = s :=
  fun s ⟨hb, hw, h⟩ => ⟨s, execWarpHalt_ignored hb hw h, rfl⟩

/- ### Re-entry after a consumed error -/

theorem eccReentry_releases (b : Block) (w : Warp) : Event (.eccReentry b.key w.num)
    (fun s => s.block? b.key = some b ∧ b.warp? w.num = some w ∧ w.st.hold = true ∧ w.consumed ≠ [] ∧ w.straps = [])
    fun s t => OnlyWarp s t b.key w.num ∧
      t.warpAt (b.key, w.num) = some { w with st := { w.st with hold := false } } := by
  rintro s ⟨hb, hw, hold, consumed, straps⟩
  refine ⟨s.setBlock (b.setWarp { w with st := { w.st with hold := false } }), ?_, ?_⟩
  · show execEccReentry b.key w.num s = _
    unfold execEccReentry
    rw [hb]
    dsimp only
    rw [hw]
    exact congrArg _ (if_pos (by simp [hold, consumed, straps]))
  · exact (onlyWarp_setBlock (w := { w with st := { w.st with hold := false } }) hb hw).symm

theorem eccReentry_ignored (b : Block) (w : Warp) : Event (.eccReentry b.key w.num)
    (fun s => s.block? b.key = some b ∧ b.warp? w.num = some w ∧
      (w.st.hold = false ∨ w.consumed = [] ∨ w.straps ≠ [])) fun s t => t = s := by
  rintro s ⟨hb, hw, h⟩
  refine ⟨s, ?_, rfl⟩
  show execEccReentry b.key w.num s = _
  unfold execEccReentry
  rw [hb]
  dsimp only
  rw [hw]
  refine congrArg _ (if_neg ?_)
  rcases h with h | h | h
  · simp [h]
  · simp [h]
  · simp [h]

end Sys2Proof.Machine
end

section
/-! SUPPORT. In-field tests, a warp's halt and the re-entry after a consumed error, settled. -/

namespace Sys2Proof.Machine

/-- Settles O50: each event of a test by the quads and blocks that it leaves, a retired quad's number by the lowest spare
that can replace it, and a halt by the entries whose lanes it parks in turn. -/
theorem testsAndHalts : Obligations.TestsAndHalts :=
  ⟨fun _ _ => testDue_ignored, fun _ _ hd hn => testDue_requests hd hn, fun _ _ => testDeadline_ignored,
    fun _ _ _ hn => testDeadline_starts hn, fun _ _ _ hn => testDeadline_defers hn,
    fun _ _ _ _ => testDeadline_retires, fun _ _ _ _ => testComplete_ignored, fun _ _ _ hn => testComplete_passes hn,
    fun _ _ _ _ hn hl => testComplete_fills hn hl, fun _ _ _ _ _ _ => testComplete_fails,
    warpHalt_halts, warpHalt_ignored, eccReentry_releases, eccReentry_ignored⟩

end Sys2Proof.Machine
end

section
/-! SUPPORT. The fields of instruction words read back (R95 to R106): the bits of a joined field, the codes of the
enumerated modifiers, and what each writer of fields leaves for its reader. -/

namespace Sys2Proof

/- ### Joined bits -/

/-- The bits of a joined word at or above its lower part are those of the upper part. The word's width stands as its sum
in a field of a fixed width, which `no_index` lets `simp` see. -/
@[simp] theorem extractLsb'_append_high {v w i n : Nat} (hi : BitVec v) (lo : BitVec w) (h : w ≤ i) :
    BitVec.extractLsb' i n (no_index (hi ++ lo)) = BitVec.extractLsb' (i - w) n hi :=
  BitVec.extractLsb'_append_eq_of_le h

@[simp] theorem extractLsb'_append_low {v w i n : Nat} (hi : BitVec v) (lo : BitVec w) (h : i + n ≤ w) :
    BitVec.extractLsb' i n (no_index (hi ++ lo)) = BitVec.extractLsb' i n lo :=
  BitVec.extractLsb'_append_eq_of_add_le h

theorem getLsbD_append_part {v w i : Nat} (hi : BitVec v) (lo : BitVec w) :
    BitVec.getLsbD (no_index (hi ++ lo)) i = if i < w then lo.getLsbD i else hi.getLsbD (i - w) :=
  BitVec.getLsbD_append

@[simp] theorem getLsbD_bit (b : Bool) : (bit b).getLsbD 0 = b := by cases b <;> rfl

@[simp] theorem bit_eq_one (b : Bool) : bit b = 1#1 ↔ b = true := by cases b <;> decide

@[simp] theorem s5_s8 (s : BitVec 5) : s5 (s8 s) = s := by simp [s5, s8]

@[simp] theorem p6_p8 (p : BitVec 6) : p6 (p8 p) = p := by simp [p6, p8]

@[simp] theorem tyW64_w64Ty (w : Bool) : tyW64 (w64Ty w) = w := by cases w <;> rfl

/- ### Codes of the enumerated modifiers -/

@[simp] theorem Ty.ofBits_bits (x : Ty) : Ty.ofBits x.bits = some x := by cases x <;> rfl
@[simp] theorem Ty8.ofBits_bits (x : Ty8) : Ty8.ofBits x.bits = some x := by cases x <;> rfl
@[simp] theorem Cond.ofBits_bits (x : Cond) : Cond.ofBits x.bits = some x := by cases x <;> rfl
@[simp] theorem FCond.ofBits_bits (x : FCond) : FCond.ofBits x.bits = some x := by cases x <;> rfl
@[simp] theorem WCond.ofBits_bits (x : WCond) : WCond.ofBits x.bits = some x := by cases x <;> rfl
@[simp] theorem Rm.ofBits_bits (x : Rm) : Rm.ofBits x.bits = some x := by cases x <;> rfl
@[simp] theorem SgnOp.ofBits_bits (x : SgnOp) : SgnOp.ofBits x.bits = some x := by cases x <;> rfl
@[simp] theorem CvtTy.ofBits_bits (x : CvtTy) : CvtTy.ofBits x.bits = some x := by cases x <;> rfl
@[simp] theorem SbFmt.ofBits_bits (x : SbFmt) : SbFmt.ofBits x.bits = some x := by cases x <;> rfl
@[simp] theorem SbSrc.ofBits_bits (x : SbSrc) : SbSrc.ofBits x.bits = some x := by cases x <;> rfl
@[simp] theorem SbDst.ofBits_bits (x : SbDst) : SbDst.ofBits x.bits = some x := by cases x <;> rfl
@[simp] theorem XMode.ofBits_bits (x : XMode) : XMode.ofBits x.bits = some x := by cases x <;> rfl
@[simp] theorem RedOp.ofBits_bits (x : RedOp) : RedOp.ofBits x.bits = some x := by cases x <;> rfl
@[simp] theorem CkTy.ofBits_bits (x : CkTy) : CkTy.ofBits x.bits = some x := by cases x <;> rfl
@[simp] theorem SldSz.ofBits_bits (x : SldSz) : SldSz.ofBits x.bits = some x := by cases x <;> rfl
@[simp] theorem LdSz.ofBits_bits (x : LdSz) : LdSz.ofBits x.bits = some x := by cases x <;> rfl
@[simp] theorem StSz.ofBits_bits (x : StSz) : StSz.ofBits x.bits = some x := by cases x <;> rfl
@[simp] theorem Scope.ofBits_bits (x : Scope) : Scope.ofBits x.bits = some x := by cases x <;> rfl
@[simp] theorem FenceKind.ofBits_bits (x : FenceKind) : FenceKind.ofBits x.bits = some x := by cases x <;> rfl
@[simp] theorem Path.ofBits_bits (x : Path) : Path.ofBits x.bits = some x := by cases x <;> rfl
@[simp] theorem AtomOp.ofBits_bits (x : AtomOp) : AtomOp.ofBits x.bits = some x := by cases x <;> rfl
@[simp] theorem Tr.ofBits_bits (x : Tr) : Tr.ofBits x.bits = some x := by cases x <;> rfl
@[simp] theorem CpDir.ofBits_bits (x : CpDir) : CpDir.ofBits x.bits = some x := by cases x <;> rfl
@[simp] theorem MaskOp.ofBits_bits (x : MaskOp) : MaskOp.ofBits x.bits = some x := by cases x <;> rfl
@[simp] theorem TretAct.ofBits_bits (x : TretAct) : TretAct.ofBits x.bits = some x := by cases x <;> rfl

@[simp] theorem Ann.ofBits_bits (x : Ann) : Ann.ofBits x.bits = some x := by
  cases x <;> simp [Ann.bits, Ann.ofBits]

@[simp] theorem VoteDst.ofBits_bits (x : VoteDst) : VoteDst.ofBits x.bits.1 x.bits.2 = x := by
  cases x <;> simp [VoteDst.bits, VoteDst.ofBits]

@[simp] theorem fpMod_eq (w ftz : Bool) (rm : Rm) : fpMod w ftz rm = bit w ++ bit ftz ++ rm.bits ++ 0#2 := rfl

namespace Fields

variable {g : Fields}

@[simp] theorem ty3_eq (f : Fields) : f.ty3 = f.mod.extractLsb' 3 3 := rfl

@[simp] theorem rm_eq (f : Fields) : f.rm = Rm.ofBits (f.mod.extractLsb' 2 2) := rfl

/- ### Guards, priorities and tokens -/

@[simp] theorem ctl_keeps (f : Fields) (k : Ctl) : (f.ctl k).len = f.len ∧ (f.ctl k).opc = f.opc ∧ (f.ctl k).d = f.d ∧
    (f.ctl k).a = f.a ∧ (f.ctl k).b = f.b ∧ (f.ctl k).c = f.c ∧ (f.ctl k).fn = f.fn ∧ (f.ctl k).mod = f.mod ∧
    (f.ctl k).tok = f.tok ∧ (f.ctl k).tokv = f.tokv ∧ (f.ctl k).xs = f.xs ∧ (f.ctl k).imm = f.imm ∧
    (f.ctl k).lit = f.lit := by
  unfold ctl; split <;> simp

/-- A guard is read back where the fields before it hold none. -/
@[simp] theorem getCtl_ctl (h : g.ge = 0) (k : Ctl) (len opc d a b c fn mod tok tokv xs imm lit) :
    getCtl { g.ctl k with len, opc, d, a, b, c, fn, mod, tok, tokv, xs, imm, lit } = k := by
  obtain ⟨_ | ⟨_ | _, p⟩, w⟩ := k <;> simp [ctl, getCtl, h, bit]

@[simp] theorem getCtl_ctl_self (h : g.ge = 0) (k : Ctl) : (g.ctl k).getCtl = k :=
  getCtl_ctl h k _ _ _ _ _ _ _ _ _ _ _ _ _

@[simp] theorem setPrio_keeps (f : Fields) (p : Option (BitVec 8)) : (f.setPrio p).len = f.len ∧
    (f.setPrio p).opc = f.opc ∧ (f.setPrio p).d = f.d ∧ (f.setPrio p).a = f.a ∧ (f.setPrio p).b = f.b ∧
    (f.setPrio p).c = f.c ∧ (f.setPrio p).gp = f.gp ∧ (f.setPrio p).ge = f.ge ∧ (f.setPrio p).gn = f.gn ∧
    (f.setPrio p).fn = f.fn ∧ (f.setPrio p).waitk = f.waitk ∧ (f.setPrio p).tok = f.tok ∧
    (f.setPrio p).tokv = f.tokv ∧ (f.setPrio p).imm = f.imm ∧ (f.setPrio p).lit = f.lit := by
  cases p <;> simp [setPrio]

@[simp] theorem getPrio_setPrio (h : g.xs = 0) (p : Option (BitVec 8))
    (len opc d a b c gp ge gn fn waitk tok tokv imm lit) :
    getPrio { g.setPrio p with len, opc, d, a, b, c, gp, ge, gn, fn, waitk, tok, tokv, imm, lit } = p := by
  cases p <;> simp [setPrio, getPrio, h]

@[simp] theorem setTok_keeps (f : Fields) (t : Option (BitVec 3)) : (f.setTok t).len = f.len ∧
    (f.setTok t).opc = f.opc ∧ (f.setTok t).c = f.c ∧ (f.setTok t).gp = f.gp ∧ (f.setTok t).ge = f.ge ∧
    (f.setTok t).gn = f.gn ∧ (f.setTok t).fn = f.fn ∧ (f.setTok t).waitk = f.waitk ∧ (f.setTok t).xs = f.xs ∧
    (f.setTok t).imm = f.imm ∧ (f.setTok t).lit = f.lit := by
  cases t <;> simp [setTok]

@[simp] theorem getTok_setTok (h : g.tokv = 0) (t : Option (BitVec 3))
    (len opc d a b c gp ge gn fn mod waitk xs imm lit) :
    getTok { g.setTok t with len, opc, d, a, b, c, gp, ge, gn, fn, mod, waitk, xs, imm, lit } = t := by
  cases t <;> simp [setTok, getTok, h]

/- ### Operands B -/

@[simp] theorem setB_keeps (f : Fields) (m : BitVec 6) (b : OpB) : (f.setB m b).opc = f.opc ∧ (f.setB m b).d = f.d ∧
    (f.setB m b).a = f.a ∧ (f.setB m b).c = f.c ∧ (f.setB m b).gp = f.gp ∧ (f.setB m b).ge = f.ge ∧
    (f.setB m b).gn = f.gn ∧ (f.setB m b).fn = f.fn ∧ (f.setB m b).waitk = f.waitk ∧ (f.setB m b).tok = f.tok ∧
    (f.setB m b).tokv = f.tokv ∧ (f.setB m b).xs = f.xs := by
  cases b <;> simp [setB]

@[simp] theorem getB_setB (h : g.len = 1) (m : BitVec 6) (x : OpB) (opc d a c gp ge gn fn waitk tok tokv xs) :
    getB { g.setB m x with opc, d, a, c, gp, ge, gn, fn, waitk, tok, tokv, xs } = some x := by
  cases x <;> simp [setB, getB, h]

@[simp] theorem setB_mod (m : BitVec 6) (b : OpB) {i n : Nat} (h : i + n ≤ 6) :
    (g.setB m b).mod.extractLsb' i n = m.extractLsb' i n := by
  cases b <;> simp [setB, h]

@[simp] theorem setB_mod_bit (m : BitVec 6) (b : OpB) {i : Nat} (h : i < 6) :
    (g.setB m b).mod.getLsbD i = m.getLsbD i := by
  cases b <;> simp [setB, getLsbD_append_part, h, -BitVec.getLsbD_eq_getElem]

@[simp] theorem setSB_keeps (f : Fields) (m : BitVec 6) (b : SOpB) : (f.setSB m b).opc = f.opc ∧
    (f.setSB m b).d = f.d ∧ (f.setSB m b).a = f.a ∧ (f.setSB m b).c = f.c ∧ (f.setSB m b).gp = f.gp ∧
    (f.setSB m b).ge = f.ge ∧ (f.setSB m b).gn = f.gn ∧ (f.setSB m b).fn = f.fn ∧ (f.setSB m b).waitk = f.waitk ∧
    (f.setSB m b).tok = f.tok ∧ (f.setSB m b).tokv = f.tokv ∧ (f.setSB m b).xs = f.xs := by
  cases b <;> simp [setSB]

@[simp] theorem getSB_setSB (h : g.len = 1) (m : BitVec 6) (x : SOpB) (opc d a c gp ge gn fn waitk tok tokv xs) :
    getSB { g.setSB m x with opc, d, a, c, gp, ge, gn, fn, waitk, tok, tokv, xs } = some x := by
  cases x <;> simp [setSB, getSB, h]

@[simp] theorem setSB_mod (m : BitVec 6) (b : SOpB) {i n : Nat} (h : i + n ≤ 6) :
    (g.setSB m b).mod.extractLsb' i n = m.extractLsb' i n := by
  cases b <;> simp [setSB, h]

@[simp] theorem setSB_mod_bit (m : BitVec 6) (b : SOpB) {i : Nat} (h : i < 6) :
    (g.setSB m b).mod.getLsbD i = m.getLsbD i := by
  cases b <;> simp [setSB, getLsbD_append_part, h, -BitVec.getLsbD_eq_getElem]

/- ### Offsets and addresses -/

@[simp] theorem setOff_keeps (f : Fields) (o : Off) : (f.setOff o).opc = f.opc ∧ (f.setOff o).d = f.d ∧
    (f.setOff o).a = f.a ∧ (f.setOff o).b = f.b ∧ (f.setOff o).c = f.c ∧ (f.setOff o).gp = f.gp ∧
    (f.setOff o).ge = f.ge ∧ (f.setOff o).gn = f.gn ∧ (f.setOff o).fn = f.fn ∧ (f.setOff o).mod = f.mod ∧
    (f.setOff o).waitk = f.waitk ∧ (f.setOff o).tok = f.tok ∧ (f.setOff o).tokv = f.tokv ∧ (f.setOff o).xs = f.xs := by
  cases o <;> simp [setOff]

@[simp] theorem getOff_setOff_self (h : g.len = 1) (o : Off) : (g.setOff o).getOff = o := by
  cases o <;> simp [setOff, getOff, h]

@[simp] theorem getCtl_setOff (f : Fields) (o : Off) : (f.setOff o).getCtl = f.getCtl := by cases o <;> rfl

@[simp] theorem getCtl_setPrio (f : Fields) (p : Option (BitVec 8)) : (f.setPrio p).getCtl = f.getCtl := by
  cases p <;> rfl

@[simp] theorem getPrio_setOff (f : Fields) (o : Off) : (f.setOff o).getPrio = f.getPrio := by cases o <;> rfl

@[simp] theorem getPrio_setPrio_self (h : g.xs = 0) (p : Option (BitVec 8)) : (g.setPrio p).getPrio = p := by
  cases p <;> simp [setPrio, getPrio, h]

@[simp] theorem getOff_setOff (h : g.len = 1) (o : Off) (opc d a b c gp ge gn fn mod waitk tok tokv xs) :
    getOff { g.setOff o with opc, d, a, b, c, gp, ge, gn, fn, mod, waitk, tok, tokv, xs } = o := by
  cases o <;> simp [setOff, getOff, h]

@[simp] theorem setAddr_keeps (f : Fields) (sp : Bool) (x : Addr) : (f.setAddr sp x).opc = f.opc ∧
    (f.setAddr sp x).d = f.d ∧ (f.setAddr sp x).c = f.c ∧ (f.setAddr sp x).gp = f.gp ∧ (f.setAddr sp x).ge = f.ge ∧
    (f.setAddr sp x).gn = f.gn ∧ (f.setAddr sp x).fn = f.fn ∧ (f.setAddr sp x).mod = f.mod ∧
    (f.setAddr sp x).waitk = f.waitk ∧ (f.setAddr sp x).tok = f.tok ∧ (f.setAddr sp x).tokv = f.tokv := by
  cases x <;> simp [setAddr]

@[simp] theorem getAddr_setAddr (h : g.len = 1) (sp : Bool) (x : Addr) (opc d c gp ge gn fn mod waitk tok tokv) :
    getAddr { g.setAddr sp x with opc, d, c, gp, ge, gn, fn, mod, waitk, tok, tokv } = x := by
  cases x <;> simp [setAddr, getAddr, h, getLsbD_append_part, -BitVec.getLsbD_eq_getElem]

@[simp] theorem setAddr_xs (sp : Bool) (x : Addr) : (g.setAddr sp x).xs.getLsbD 3 = sp := by
  cases x <;> simp [setAddr, getLsbD_append_part, -BitVec.getLsbD_eq_getElem]

/- ### Lengths, lanes and the registers of lanes -/

@[simp] theorem setLen_keeps (f : Fields) (li : BitVec 8) (x : LenOp) : (f.setLen li x).len = f.len ∧
    (f.setLen li x).opc = f.opc ∧ (f.setLen li x).d = f.d ∧ (f.setLen li x).a = f.a ∧ (f.setLen li x).c = f.c ∧
    (f.setLen li x).gp = f.gp ∧ (f.setLen li x).ge = f.ge ∧ (f.setLen li x).gn = f.gn ∧ (f.setLen li x).fn = f.fn ∧
    (f.setLen li x).waitk = f.waitk ∧ (f.setLen li x).tok = f.tok ∧ (f.setLen li x).tokv = f.tokv ∧
    (f.setLen li x).xs = f.xs ∧ (f.setLen li x).lit = f.lit := by
  cases x <;> simp [setLen]

@[simp] theorem getLen_setLen {li : BitVec 8} {n : Nat} (x : LenOp) (h : g.mod.getLsbD n = false)
    (hli : li.getLsbD n = true) (len opc d a c gp ge gn fn waitk tok tokv xs lit) :
    getLen { g.setLen li x with len, opc, d, a, c, gp, ge, gn, fn, waitk, tok, tokv, xs, lit } n = x := by
  cases x <;> simp [setLen, getLen, h, hli]

@[simp] theorem setLen_mod_bit {li : BitVec 8} {i : Nat} (x : LenOp) (h : li.getLsbD i = false) :
    (g.setLen li x).mod.getLsbD i = g.mod.getLsbD i := by
  cases x <;> simp [setLen, h]

@[simp] theorem setLen_mod {li : BitVec 8} {i n : Nat} (x : LenOp) (h : li.extractLsb' i n = 0#n) :
    (g.setLen li x).mod.extractLsb' i n = g.mod.extractLsb' i n := by
  cases x <;> simp [setLen, BitVec.extractLsb'_or, h]

@[simp] theorem setLane_keeps (f : Fields) (x : LaneOp) : (f.setLane x).len = f.len ∧ (f.setLane x).opc = f.opc ∧
    (f.setLane x).d = f.d ∧ (f.setLane x).a = f.a ∧ (f.setLane x).c = f.c ∧ (f.setLane x).gp = f.gp ∧
    (f.setLane x).ge = f.ge ∧ (f.setLane x).gn = f.gn ∧ (f.setLane x).fn = f.fn ∧
    (f.setLane x).waitk = f.waitk ∧ (f.setLane x).tok = f.tok ∧ (f.setLane x).tokv = f.tokv ∧
    (f.setLane x).xs = f.xs ∧ (f.setLane x).lit = f.lit := by
  cases x <;> simp [setLane]

@[simp] theorem getLane_setLane (h : g.mod.getLsbD 3 = false) (x : LaneOp)
    (len opc d a c gp ge gn fn waitk tok tokv xs lit) :
    getLane { g.setLane x with len, opc, d, a, c, gp, ge, gn, fn, waitk, tok, tokv, xs, lit } = x := by
  cases x
  case reg => rw [getLane, setLane, h]; simp
  case imm => simp [setLane, getLane]

@[simp] theorem setLane_class (r : LnReg) (x : LaneOp) (h : g.mod = r.bits.2) :
    LnReg.ofBits r.bits.1 (g.setLane x).mod = some r := by
  cases x <;> rcases r with ⟨_, _ | _⟩ | _ | _ <;> simp [setLane, LnReg.bits, LnReg.ofBits, h]

end Fields

@[simp] theorem LnReg.bits_bit3 (r : LnReg) : r.bits.2.getLsbD 3 = false := by
  rcases r with ⟨_, _ | _⟩ | _ | _ <;> simp [LnReg.bits]

/- ### Words and fields -/

/-- The lengths and literals of an extended form: one without a literal, whose field is zero, or one with (R95). -/
def carries (len : BitVec 2) (lit : BitVec 64) : Prop := len = 1 ∧ lit = 0 ∨ len = 3

@[simp] theorem carries_ext : carries 1#2 0#64 := .inl ⟨rfl, rfl⟩

/-- These fields are read back from their words and name instruction i. -/
structure Fields.means (f : Fields) (i : Instr) : Prop where
  words : Fields.ofWords f.words = some f
  parses : parse f = some i

@[simp] theorem Fields.read_words (f : Fields) : Fields.read f.w0 f.w1 f.w2 f.lit = f := by
  simp [read, w0, w1, w2]

@[simp] theorem Fields.len_w0 (f : Fields) : f.w0.extractLsb' 0 2 = f.len := by simp [w0]

theorem lit_halves (x : BitVec 64) : x.extractLsb' 32 32 ++ x.extractLsb' 0 32 = x :=
  (BitVec.extractLsb'_append_extractLsb'_eq_extractLsb' rfl).trans BitVec.extractLsb'_eq_self

/-- The words of an extended form give its fields back. -/
theorem Fields.ofWords_words {f : Fields} (h : carries f.len f.lit) : Fields.ofWords f.words = some f := by
  rcases h with ⟨len, lit⟩ | len
  · simpa [words, ofWords, len, lit] using f.read_words
  · simp [words, ofWords, len, lit_halves f.lit]

@[simp] theorem Fields.carries_setB {g : Fields} (m : BitVec 6) (x : OpB) (h : g.len = 1) (hl : g.lit = 0) :
    carries (g.setB m x).len (g.setB m x).lit := by
  cases x <;> simp [setB, carries, h, hl]

@[simp] theorem Fields.carries_setSB {g : Fields} (m : BitVec 6) (x : SOpB) (h : g.len = 1) (hl : g.lit = 0) :
    carries (g.setSB m x).len (g.setSB m x).lit := by
  cases x <;> simp [setSB, carries, h, hl]

@[simp] theorem Fields.carries_setOff {g : Fields} (x : Off) (h : g.len = 1) (hl : g.lit = 0) :
    carries (g.setOff x).len (g.setOff x).lit := by
  cases x <;> simp [setOff, carries, h, hl]

@[simp] theorem Fields.carries_setAddr {g : Fields} (sp : Bool) (x : Addr) (h : g.len = 1) (hl : g.lit = 0) :
    carries (g.setAddr sp x).len (g.setAddr sp x).lit := by
  cases x <;> simp [setAddr, h, hl]

@[simp] theorem ext_fields (o : BitVec 6) (n : BitVec 8) : (ext o n).len = 1 ∧ (ext o n).opc = o ∧ (ext o n).fn = n ∧
    (ext o n).ge = 0 ∧ (ext o n).mod = 0 ∧ (ext o n).tokv = 0 ∧ (ext o n).xs = 0 ∧ (ext o n).lit = 0 :=
  ⟨rfl, rfl, rfl, rfl, rfl, rfl, rfl, rfl⟩

/-- The fields of i, if it has any, are read back from their words and name i. -/
def Reads (i : Instr) : Prop := ∀ f, fieldsOf i = some f → f.means i

/-- An extended form of group k is read by that group's reader p (R106). -/
theorem Reads.ofGroup {i : Instr} {f : Fields} (k : BitVec 6) (p : Fields → Option Instr) (fields : fieldsOf i = some f)
    (group : ∀ g : Fields, parseExt { g with opc := k } = p { g with opc := k })
    (read : f.opc = k ∧ carries f.len f.lit ∧ p f = some i) : Reads i := by
  obtain ⟨rfl, form, parsed⟩ := read
  intro f' h
  obtain rfl : f = f' := Option.some.inj (fields.symm.trans h)
  refine ⟨Fields.ofWords_words form, ?_⟩
  rw [parse, if_neg, if_neg]
  · exact (group f).trans parsed
  · rcases form with ⟨len, -⟩ | len <;> simp [len]
  · rcases form with ⟨len, -⟩ | len <;> simp [len]

/-- A short form is read by `parseShort` (R103). -/
theorem Reads.ofShort {i : Instr} {k : BitVec 6} {d a b : BitVec 8}
    (fields : fieldsOf i = some { Fields.form 0 k 0 with d, a, b })
    (read : parseShort { Fields.form 0 k 0 with d, a, b } = some i) : Reads i := by
  intro f h
  obtain rfl := Option.some.inj (fields.symm.trans h)
  refine ⟨?_, read⟩
  simp [Fields.form, Fields.words, Fields.ofWords, Fields.w0, Fields.read]

/-- A short form with a literal is read by `parseLit` (R103). -/
theorem Reads.ofLit {i : Instr} {k : BitVec 6} {d a : BitVec 8} {lit : BitVec 64}
    (fields : fieldsOf i = some { Fields.form 2 k 0 with d, a, lit })
    (read : parseLit { Fields.form 2 k 0 with d, a, lit } = some i) : Reads i := by
  intro f h
  obtain rfl := Option.some.inj (fields.symm.trans h)
  refine ⟨?_, read⟩
  simp [Fields.form, Fields.words, Fields.ofWords, Fields.w0, Fields.read, lit_halves lit]

/- ### The forms of each group -/

theorem reads_jumps24 : (∀ off, Reads (.braShort off)) ∧ ∀ off, Reads (.callShort off) := by
  have whole (o : BitVec 24) : o.extractLsb' 16 8 ++ o.extractLsb' 8 8 ++ o.extractLsb' 0 8 = o := by
    have upper : o.extractLsb' 16 8 ++ o.extractLsb' 8 8 = o.extractLsb' 8 16 :=
      BitVec.extractLsb'_append_extractLsb'_eq_extractLsb' rfl
    rw [upper]
    exact (BitVec.extractLsb'_append_extractLsb'_eq_extractLsb' rfl).trans BitVec.extractLsb'_eq_self
  and_intros <;> intro off <;> refine .ofShort rfl ?_ <;> simp [parseShort, Fields.form, whole]

theorem reads_shorts : Reads .retShort ∧ Reads .nopShort ∧ Reads .exitShort ∧ Reads .rgnShort ∧
    (∀ d a b, Reads (.addShort d a b)) ∧ (∀ d a b, Reads (.andShort d a b)) ∧ (∀ d a b, Reads (.shlShort d a b)) ∧
    (∀ d b, Reads (.movShort d b)) ∧ (∀ d a b, Reads (.faddShort d a b)) ∧ ∀ d a b, Reads (.saddShort d a b) := by
  and_intros <;> intros <;> refine .ofShort rfl ?_ <;> simp [parseShort, Fields.form]

theorem reads_literals : (∀ l, Reads (.braLit l)) ∧ (∀ l, Reads (.callLit l)) ∧ (∀ d a l, Reads (.addLit d a l)) ∧
    (∀ d a l, Reads (.andLit d a l)) ∧ (∀ d a l, Reads (.shlLit d a l)) ∧ (∀ d l, Reads (.movLit d l)) ∧
    (∀ d a l, Reads (.saddLit d a l)) ∧ ∀ d a l, Reads (.faddLit d a l) := by
  and_intros <;> intros <;> refine .ofLit rfl ?_ <;> simp [parseLit, Fields.form]

theorem reads_group00 : ∀ c off prio, Reads (.bra c off prio) := by
  intro c off prio
  refine .ofGroup 0x00 parse00 rfl (fun _ => rfl) ?_
  simp [parse00]

theorem reads_group01 : ∀ c off prio, Reads (.call c off prio) := by
  intro c off prio
  refine .ofGroup 0x01 parse01 rfl (fun _ => rfl) ?_
  simp [parse01]

theorem reads_group02 : (∀ c a prio, Reads (.jmp c a prio)) ∧ ∀ c a d off prio, Reads (.brx c a d off prio) := by
  and_intros <;> intros <;> refine .ofGroup 0x02 parse02 rfl (fun _ => rfl) ?_ <;>
  simp [parse02]

theorem reads_group03 : (∀ c, Reads (.ret c)) ∧ ∀ c a prio, Reads (.callx c a prio) := by
  and_intros <;> intros <;> refine .ofGroup 0x03 parse03 rfl (fun _ => rfl) ?_ <;>
  simp [parse03]

theorem reads_group04 : (∀ c, Reads (.nop c)) ∧ (∀ wk d, Reads (.join wk d)) ∧ ∀ c, Reads (.yield c) := by
  and_intros <;> intros <;> refine .ofGroup 0x04 parse04 rfl (fun _ => rfl) ?_ <;>
  simp [parse04]

theorem reads_group05 : ∀ c, Reads (.exit c) := by
  intro c
  refine .ofGroup 0x05 parse05 rfl (fun _ => rfl) ?_
  simp [parse05]

theorem reads_group06 : (∀ c imm, Reads (.trap c imm)) ∧ ∀ c imm, Reads (.brk c imm) := by
  and_intros <;> intros <;> refine .ofGroup 0x06 parse06 rfl (fun _ => rfl) ?_ <;>
  simp [parse06]

theorem reads_group07 : ∀ c pd sa imm, Reads (.spawn c pd sa imm) := by
  intro c pd sa imm
  refine .ofGroup 0x07 parse07 rfl (fun _ => rfl) ?_
  simp [parse07]

theorem reads_group08 : (∀ c d a b ty x, Reads (.add c d a b ty x)) ∧ (∀ c d a b ty x, Reads (.sub c d a b ty x)) ∧
    ∀ c d a b rc ty x, Reads (.add3 c d a b rc ty x) := by
  and_intros <;> intros <;> refine .ofGroup 0x08 parse08 rfl (fun _ => rfl) ?_ <;>
  simp [parse08, getLsbD_append_part, -BitVec.getLsbD_eq_getElem]

theorem reads_group09 : (∀ c d a b ty, Reads (.mulLo c d a b ty)) ∧ (∀ c d a b ty, Reads (.mulHi c d a b ty)) ∧
    (∀ c d a b rc ty, Reads (.mad c d a b rc ty)) ∧ ∀ c d a b rc x, Reads (.madWide c d a b rc x) := by
  and_intros <;> intros <;> refine .ofGroup 0x09 parse09 rfl (fun _ => rfl) ?_ <;>
  simp [parse09, getLsbD_append_part, -BitVec.getLsbD_eq_getElem]

theorem reads_group0a : (∀ c d a b ty, Reads (.min c d a b ty)) ∧ (∀ c d a b ty, Reads (.max c d a b ty)) ∧
    (∀ c d a w x, Reads (.abs c d a w x)) ∧ ∀ c d a w x, Reads (.neg c d a w x) := by
  and_intros <;> intros <;> refine .ofGroup 0x0a parse0a rfl (fun _ => rfl) ?_ <;>
  simp [parse0a, getLsbD_append_part, -BitVec.getLsbD_eq_getElem]

theorem reads_group0b : (∀ c d a b w, Reads (.and c d a b w)) ∧ (∀ c d a b w, Reads (.or c d a b w)) ∧
    (∀ c d a b w, Reads (.xor c d a b w)) ∧ ∀ c d a w, Reads (.not c d a w) := by
  and_intros <;> intros <;> refine .ofGroup 0x0b parse0b rfl (fun _ => rfl) ?_ <;>
  simp [parse0b]

/-- `tern` takes B from a register, since IMM16 holds its table (R154). -/
theorem reads_tern (c : Ctl) (d a rc table : BitVec 8) {b : OpB} {w : Bool} (hb : ternOk w b = true) :
    Reads (.tern c d a b rc table w) := by
  refine .ofGroup 0x0b parse0b rfl (fun _ => rfl) ?_
  cases b
  case reg | sreg => simp [parse0b, Fields.getB, Fields.setB]
  case imm | lit => cases hb

theorem reads_group0c : (∀ c d a b w, Reads (.shl c d a b w)) ∧ (∀ c d a b w, Reads (.shr c d a b w)) ∧
    ∀ c d a b w, Reads (.sar c d a b w) := by
  and_intros <;> intros <;> refine .ofGroup 0x0c parse0c rfl (fun _ => rfl) ?_ <;>
  simp [parse0c]

theorem reads_group0d : (∀ c d a b ty, Reads (.bfe c d a b ty)) ∧ ∀ c d a b rc w, Reads (.bfi c d a b rc w) := by
  and_intros <;> intros <;> refine .ofGroup 0x0d parse0d rfl (fun _ => rfl) ?_ <;>
  simp [parse0d]

theorem reads_group0e : (∀ c d a w, Reads (.popc c d a w)) ∧ (∀ c d a w, Reads (.clz c d a w)) ∧
    ∀ c d a w, Reads (.brev c d a w) := by
  and_intros <;> intros <;> refine .ofGroup 0x0e parse0e rfl (fun _ => rfl) ?_ <;>
  simp [parse0e]

theorem reads_group0f : ∀ c d a b pd w, Reads (.sel c d a b pd w) := by
  intro c d a b pd w
  refine .ofGroup 0x0f parse0f rfl (fun _ => rfl) ?_
  simp [parse0f]

theorem reads_group10 : ∀ c pd a b cond ty, Reads (.cmp c pd a b cond ty) := by
  intro c pd a b cond ty
  refine .ofGroup 0x10 parse10 rfl (fun _ => rfl) ?_
  simp [parse10]

theorem reads_group11 : ∀ c d base b gap x, Reads (.lea c d base b gap x) := by
  intro c d base b gap x
  cases base <;> refine .ofGroup 0x11 parse11 rfl (fun _ => rfl) ?_ <;>
  simp [parse11, getLsbD_append_part, -BitVec.getLsbD_eq_getElem]

theorem reads_group12 : (∀ c d b w, Reads (.mov c d b w)) ∧ ∀ c d imm h w, Reads (.movk c d imm h w) := by
  and_intros <;> intros <;> refine .ofGroup 0x12 parse12 rfl (fun _ => rfl) ?_ <;>
  simp [parse12]

theorem reads_group13 : ∀ c d a dt st, Reads (.cvtI c d a dt st) := by
  intro c d a dt st
  refine .ofGroup 0x13 parse13 rfl (fun _ => rfl) ?_
  simp [parse13]

theorem reads_group14 : (∀ c pd pa pb x w, Reads (.pand c pd pa pb x w)) ∧
    (∀ c pd pa pb x w, Reads (.por c pd pa pb x w)) ∧ (∀ c pd pa pb x w, Reads (.pxor c pd pa pb x w)) ∧
    (∀ c pd pa x, Reads (.pnot c pd pa x)) ∧ ∀ c pd pa x, Reads (.pmov c pd pa x) := by
  and_intros <;> intros <;> refine .ofGroup 0x14 parse14 rfl (fun _ => rfl) ?_ <;>
  simp [parse14, getLsbD_append_part, -BitVec.getLsbD_eq_getElem]

theorem reads_group15 : ∀ c vd pa x, Reads (.vote c vd pa x) := by
  intro c vd pa x
  refine .ofGroup 0x15 parse15 rfl (fun _ => rfl) ?_
  simp [parse15, getLsbD_append_part, -BitVec.getLsbD_eq_getElem]

theorem reads_group16 : ∀ c d pa x w, Reads (.pcnt c d pa x w) := by
  intro c d pa x w
  refine .ofGroup 0x16 parse16 rfl (fun _ => rfl) ?_
  simp [parse16, getLsbD_append_part, -BitVec.getLsbD_eq_getElem]

theorem reads_group18 : (∀ wk sd sa sb, Reads (.sadd wk sd sa sb)) ∧ (∀ wk sd sa sb, Reads (.ssub wk sd sa sb)) ∧
    (∀ wk sd sa sb, Reads (.smul wk sd sa sb)) ∧ (∀ wk sd sa sb, Reads (.sand wk sd sa sb)) ∧
    (∀ wk sd sa sb, Reads (.sor wk sd sa sb)) ∧ (∀ wk sd sa sb, Reads (.sxor wk sd sa sb)) ∧
    (∀ wk sd sa sb, Reads (.sshl wk sd sa sb)) ∧ ∀ wk sd sa sb x, Reads (.sshr wk sd sa sb x) := by
  and_intros <;> intros <;> refine .ofGroup 0x18 parse18 rfl (fun _ => rfl) ?_ <;>
  simp [parse18, getLsbD_append_part, -BitVec.getLsbD_eq_getElem]

theorem reads_group19 : (∀ wk sd sa sb cond x, Reads (.scmp wk sd sa sb cond x)) ∧
    ∀ wk sd sb, Reads (.smov wk sd sb) := by
  and_intros <;> intros <;> refine .ofGroup 0x19 parse19 rfl (fun _ => rfl) ?_ <;>
  simp [parse19, getLsbD_append_part, -BitVec.getLsbD_eq_getElem]

theorem reads_group1a : (∀ wk sd sa sb sz, Reads (.sld wk sd sa sb sz)) ∧ (∀ c d sa w, Reads (.bcast c d sa w)) ∧
    (∀ wk sd a sb w, Reads (.lane wk sd a sb w)) ∧ ∀ c base imm, Reads (.sreg c base imm) := by
  refine ⟨?_, ?_, ?_, ?_⟩
  · intro wk sd sa sb sz
    refine .ofGroup 0x1a parse1a rfl (fun _ => rfl) ?_
    simp [parse1a]
  · intro c d sa w
    refine .ofGroup 0x1a parse1a rfl (fun _ => rfl) ?_
    simp [parse1a, getLsbD_append_part, -BitVec.getLsbD_eq_getElem]
  · intro wk sd a sb w
    refine .ofGroup 0x1a parse1a rfl (fun _ => rfl) ?_
    simp [parse1a, getLsbD_append_part, -BitVec.getLsbD_eq_getElem]
  · intro c base imm
    cases base <;> refine .ofGroup 0x1a parse1a rfl (fun _ => rfl) ?_ <;>
    simp [parse1a]

theorem reads_group1b : ∀ wk sa off x, Reads (.sbra wk sa off x) := by
  intro wk sa off x
  refine .ofGroup 0x1b parse1b rfl (fun _ => rfl) ?_
  simp [parse1b, getLsbD_append_part, -BitVec.getLsbD_eq_getElem]

theorem reads_group1c : (∀ c d a b rm x, Reads (.fadd c d a b rm x)) ∧ (∀ c d a b rm x, Reads (.fsub c d a b rm x)) ∧
    (∀ c d a b rm x, Reads (.fmul c d a b rm x)) ∧ ∀ c d a b rc rm x, Reads (.fma c d a b rc rm x) := by
  and_intros <;> intros <;> refine .ofGroup 0x1c parse1c rfl (fun _ => rfl) ?_ <;>
  simp [parse1c, getLsbD_append_part, -BitVec.getLsbD_eq_getElem]

theorem reads_group1d : (∀ c d a b w x, Reads (.fmin c d a b w x)) ∧ ∀ c d a b w x, Reads (.fmax c d a b w x) := by
  and_intros <;> intros <;> refine .ofGroup 0x1d parse1d rfl (fun _ => rfl) ?_ <;>
  simp [parse1d, getLsbD_append_part, -BitVec.getLsbD_eq_getElem]

theorem reads_group1e : ∀ c pd a b fcond w x, Reads (.fcmp c pd a b fcond w x) := by
  intro c pd a b fcond w x
  refine .ofGroup 0x1e parse1e rfl (fun _ => rfl) ?_
  simp [parse1e, getLsbD_append_part, -BitVec.getLsbD_eq_getElem]

theorem reads_group1f : (∀ c d a w rm x, Reads (.frcp c d a w rm x)) ∧ (∀ c d a rm x, Reads (.frsq c d a rm x)) ∧
    ∀ c d a w rm x, Reads (.fsqrt c d a w rm x) := by
  and_intros <;> intros <;> refine .ofGroup 0x1f parse1f rfl (fun _ => rfl) ?_ <;>
  simp [parse1f, getLsbD_append_part, -BitVec.getLsbD_eq_getElem]

theorem reads_group20 : (∀ c d a rm x, Reads (.fex2 c d a rm x)) ∧ (∀ c d a rm x, Reads (.flg2 c d a rm x)) ∧
    (∀ c d a rm x, Reads (.fsin c d a rm x)) ∧ ∀ c d a rm x, Reads (.fcos c d a rm x) := by
  and_intros <;> intros <;> refine .ofGroup 0x20 parse20 rfl (fun _ => rfl) ?_ <;>
  simp [parse20, getLsbD_append_part, -BitVec.getLsbD_eq_getElem]

theorem reads_group21 : (∀ c d a w rm x, Reads (.frnd c d a w rm x)) ∧
    (∀ c pd a w mask, Reads (.fcls c pd a w mask)) ∧ ∀ c d a b w sop, Reads (.fsgn c d a b w sop) := by
  and_intros <;> intros <;> refine .ofGroup 0x21 parse21 rfl (fun _ => rfl) ?_ <;>
  simp [parse21, getLsbD_append_part, -BitVec.getLsbD_eq_getElem]

theorem reads_group22 : (∀ c d a b rc w rm x, Reads (.hfma2 c d a b rc w rm x)) ∧
    (∀ c d a b w rm x, Reads (.hadd2 c d a b w rm x)) ∧ ∀ c d a b w rm x, Reads (.hmul2 c d a b w rm x) := by
  and_intros <;> intros <;> refine .ofGroup 0x22 parse22 rfl (fun _ => rfl) ?_ <;>
  simp [parse22, getLsbD_append_part, -BitVec.getLsbD_eq_getElem]

theorem reads_group23 : (∀ c d a b rc rm, Reads (.dfma c d a b rc rm)) ∧ (∀ c d a b rm, Reads (.dadd c d a b rm)) ∧
    ∀ c d a b rm, Reads (.dmul c d a b rm) := by
  and_intros <;> intros <;> refine .ofGroup 0x23 parse23 rfl (fun _ => rfl) ?_ <;>
  simp [parse23]

theorem reads_group24 : ∀ c d a fdt fst rm x, Reads (.cvtF c d a fdt fst rm x) := by
  intro c d a fdt fst rm x
  refine .ofGroup 0x24 parse24 rfl (fun _ => rfl) ?_
  simp [parse24, getLsbD_append_part, -BitVec.getLsbD_eq_getElem]

theorem reads_group25 : ∀ c d a rc fmt src gap clamp x h, Reads (.cvtSb c d a rc fmt src gap clamp x h) := by
  intro c d a rc fmt src gap clamp x h
  refine .ofGroup 0x25 parse25 rfl (fun _ => rfl) ?_
  simp [parse25, getLsbD_append_part, -BitVec.getLsbD_eq_getElem]

theorem reads_group26 : ∀ c d a rc fmt sdt rm x h, Reads (.cvtXsb c d a rc fmt sdt rm x h) := by
  intro c d a rc fmt sdt rm x h
  refine .ofGroup 0x26 parse26 rfl (fun _ => rfl) ?_
  simp [parse26, getLsbD_append_part, -BitVec.getLsbD_eq_getElem]

theorem reads_group28 : (∀ c d a cnt mode w pv, Reads (.xlane c d a cnt mode w pv)) ∧
    ∀ c d a x w, Reads (.matchLanes c d a x w) := by
  refine ⟨?_, ?_⟩
  · intro c d a cnt mode w pv
    cases cnt <;> cases pv <;> refine .ofGroup 0x28 parse28 rfl (fun _ => rfl) ?_ <;>
    simp [parse28, getLsbD_append_part, -BitVec.getLsbD_eq_getElem]
  · intro c d a x w
    refine .ofGroup 0x28 parse28 rfl (fun _ => rfl) ?_
    simp [parse28, getLsbD_append_part, -BitVec.getLsbD_eq_getElem]

theorem reads_group29 : (∀ c d a op, Reads (.red c d a op)) ∧ ∀ c d a op x, Reads (.scan c d a op x) := by
  and_intros <;> intros <;> refine .ofGroup 0x29 parse29 rfl (fun _ => rfl) ?_ <;>
  simp [parse29, getLsbD_append_part, -BitVec.getLsbD_eq_getElem]

theorem reads_group2a : (∀ c h a cty x, Reads (.ckacc c h a cty x)) ∧ (∀ c h h2 imm, Reads (.ckchk c h h2 imm)) ∧
    (∀ wk h x, Reads (.ckclr wk h x)) ∧ ∀ wk sd h x, Reads (.ckrd wk sd h x) := by
  and_intros <;> intros <;> refine .ofGroup 0x2a parse2a rfl (fun _ => rfl) ?_ <;>
  simp [parse2a, getLsbD_append_part, -BitVec.getLsbD_eq_getElem]

theorem reads_group2c : (∀ c d addr x ann lsz, Reads (.ld c d addr x ann lsz)) ∧
    ∀ c d addr h lsz, Reads (.ldq c d addr h lsz) := by
  and_intros <;> intros <;> refine .ofGroup 0x2c parse2c rfl (fun _ => rfl) ?_ <;>
  simp [parse2c, -BitVec.getLsbD_eq_getElem]

theorem reads_group2d : ∀ c d addr x ann ssz, Reads (.st c d addr x ann ssz) := by
  intro c d addr x ann ssz
  refine .ofGroup 0x2d parse2d rfl (fun _ => rfl) ?_
  simp [parse2d, -BitVec.getLsbD_eq_getElem]

theorem reads_group2e : (∀ c d a imm rb rc aop ann w x y, Reads (.atom c d a imm rb rc aop ann w x y)) ∧
    ∀ c a imm rb aop ann w x y, Reads (.redM c a imm rb aop ann w x y) := by
  and_intros <;> intros <;> refine .ofGroup 0x2e parse2e rfl (fun _ => rfl) ?_ <;>
  simp [parse2e, getLsbD_append_part, -BitVec.getLsbD_eq_getElem]

theorem reads_group2f : ∀ c a off rb wcond ann w x, Reads (.waitv c a off rb wcond ann w x) := by
  intro c a off rb wcond ann w x
  refine .ofGroup 0x2f parse2f rfl (fun _ => rfl) ?_
  simp [parse2f, getLsbD_append_part, -BitVec.getLsbD_eq_getElem]

theorem reads_group30 : (∀ c kind scope p q, Reads (.fence c kind scope p q)) ∧ (∀ c x addr, Reads (.prf c x addr)) ∧
    (∀ c sa len, Reads (.flushHost c sa len)) ∧ ∀ c sa len, Reads (.invalHost c sa len) := by
  and_intros <;> intros <;> refine .ofGroup 0x30 parse30 rfl (fun _ => rfl) ?_ <;>
  simp [parse30, getLsbD_append_part, -BitVec.getLsbD_eq_getElem]

theorem reads_group31 : (∀ c t sa sd a x, Reads (.tcfg c t sa sd a x)) ∧ (∀ c pv2 t, Reads (.tstat c pv2 t)) ∧
    ∀ c t, Reads (.tfree c t) := by
  refine ⟨?_, ?_, ?_⟩
  · intro c t sa sd a x
    refine .ofGroup 0x31 parse31 rfl (fun _ => rfl) ?_
    simp [parse31, getLsbD_append_part, -BitVec.getLsbD_eq_getElem]
  · intro c pv2 t
    cases pv2 <;> refine .ofGroup 0x31 parse31 rfl (fun _ => rfl) ?_ <;>
    simp [parse31]
  · intro c t
    refine .ofGroup 0x31 parse31 rfl (fun _ => rfl) ?_
    simp [parse31]

theorem reads_group32 : (∀ c t a sa tr tok, Reads (.tload c t a sa tr tok)) ∧
    ∀ c t a sa tr tok, Reads (.tstore c t a sa tr tok) := by
  and_intros <;> intros <;> refine .ofGroup 0x32 parse32 rfl (fun _ => rfl) ?_ <;>
  simp [parse32]

theorem reads_group33 : (∀ c sd sa len dir q3, Reads (.cp c sd sa len dir q3)) ∧ ∀ c pd, Reads (.waitk c pd) := by
  and_intros <;> intros <;> refine .ofGroup 0x33 parse33 rfl (fun _ => rfl) ?_ <;>
  simp [parse33, getLsbD_append_part, -BitVec.getLsbD_eq_getElem]

theorem reads_group34 : (∀ c q3 sa, Reads (.qpush c q3 sa)) ∧ ∀ c sd q3, Reads (.qpop c sd q3) := by
  and_intros <;> intros <;> refine .ofGroup 0x34 parse34 rfl (fun _ => rfl) ?_ <;>
  simp [parse34]

theorem reads_group35 : (∀ c sd sa len x q3, Reads (.rput c sd sa len x q3)) ∧
    ∀ c sd sa len x q3, Reads (.rget c sd sa len x q3) := by
  and_intros <;> intros <;> refine .ofGroup 0x35 parse35 rfl (fun _ => rfl) ?_ <;>
  simp [parse35, getLsbD_append_part, -BitVec.getLsbD_eq_getElem]

theorem reads_group38 : (∀ wk pd, Reads (.mrsv wk pd)) ∧ (∀ wk, Reads (.mrel wk)) ∧ (∀ wk sa, Reads (.mgang wk sa)) ∧
    ∀ wk d, Reads (.mstat wk d) := by
  and_intros <;> intros <;> refine .ofGroup 0x38 parse38 rfl (fun _ => rfl) ?_ <;>
  simp [parse38]

theorem reads_group39 : (∀ wk t a x h, Reads (.mlds wk t a x h)) ∧ (∀ wk, Reads (.mswp wk)) ∧
    ∀ wk h t a pa pb h2 x, Reads (.mstr wk h t a pa pb h2 x) := by
  and_intros <;> intros <;> refine .ofGroup 0x39 parse39 rfl (fun _ => rfl) ?_ <;>
  simp [parse39, getLsbD_append_part, -BitVec.getLsbD_eq_getElem]

theorem reads_group3a : (∀ wk d h pa h2, Reads (.mrd wk d h pa h2)) ∧ (∀ wk h a pa h2, Reads (.mwr wk h a pa h2)) ∧
    (∀ wk h t a pa pb h2 gap, Reads (.mst wk h t a pa pb h2 gap)) ∧
    (∀ wk h a sa pa pb gap q3, Reads (.mstM wk h a sa pa pb gap q3)) ∧ ∀ wk acc, Reads (.mclr wk acc) := by
  refine ⟨?_, ?_, ?_, ?_, ?_⟩
  · intro wk d h pa h2
    refine .ofGroup 0x3a parse3a rfl (fun _ => rfl) ?_
    simp [parse3a]
  · intro wk h a pa h2
    refine .ofGroup 0x3a parse3a rfl (fun _ => rfl) ?_
    simp [parse3a]
  · intro wk h t a pa pb h2 gap
    refine .ofGroup 0x3a parse3a rfl (fun _ => rfl) ?_
    simp [parse3a, getLsbD_append_part, -BitVec.getLsbD_eq_getElem]
  · intro wk h a sa pa pb gap q3
    refine .ofGroup 0x3a parse3a rfl (fun _ => rfl) ?_
    simp [parse3a, getLsbD_append_part, -BitVec.getLsbD_eq_getElem]
  · intro wk acc
    cases acc <;> refine .ofGroup 0x3a parse3a rfl (fun _ => rfl) ?_ <;>
    simp [parse3a]

theorem reads_group3c : (∀ wk scope t pa pv, Reads (.bar wk scope t pa pv)) ∧
    (∀ wk sd scope t pa, Reads (.barArr wk sd scope t pa)) ∧ (∀ wk scope t sa pv, Reads (.barWt wk scope t sa pv)) ∧
    (∀ c sa sd, Reads (.psub c sa sd)) ∧ ∀ c pd sa, Reads (.pyld c pd sa) := by
  refine ⟨?_, ?_, ?_, ?_, ?_⟩
  · intro wk scope t pa pv
    cases pv <;> refine .ofGroup 0x3c parse3c rfl (fun _ => rfl) ?_ <;>
    simp [parse3c, getLsbD_append_part, -BitVec.getLsbD_eq_getElem]
  · intro wk sd scope t pa
    refine .ofGroup 0x3c parse3c rfl (fun _ => rfl) ?_
    simp [parse3c]
  · intro wk scope t sa pv
    cases pv <;> refine .ofGroup 0x3c parse3c rfl (fun _ => rfl) ?_ <;>
    simp [parse3c, getLsbD_append_part, -BitVec.getLsbD_eq_getElem]
  · intro c sa sd
    refine .ofGroup 0x3c parse3c rfl (fun _ => rfl) ?_
    simp [parse3c]
  · intro c pd sa
    refine .ofGroup 0x3c parse3c rfl (fun _ => rfl) ?_
    simp [parse3c]

theorem reads_group3d : (∀ wk sd sa x, Reads (.uibind wk sd sa x)) ∧ (∀ c sa sd, Reads (.uisend c sa sd)) ∧
    (∀ wk, Reads (.uiwait wk)) ∧ (∀ wk sd sa mop, Reads (.uimask wk sd sa mop)) ∧ ∀ wk pd, Reads (.uiret wk pd) := by
  and_intros <;> intros <;> refine .ofGroup 0x3d parse3d rfl (fun _ => rfl) ?_ <;>
  simp [parse3d, getLsbD_append_part, -BitVec.getLsbD_eq_getElem]

theorem reads_group3e : (∀ wk, Reads (.rgn wk)) ∧ (∀ wk, Reads (.rgnx wk)) ∧ (∀ wk, Reads (.npe wk)) ∧
    (∀ wk, Reads (.pe wk)) ∧ (∀ wk sd lr ln, Reads (.lnrd wk sd lr ln)) ∧
    (∀ wk lr sa ln, Reads (.lnwr wk lr sa ln)) ∧ (∀ wk act x y ms, Reads (.tret wk act x y ms)) ∧
    (∀ wk sd imm, Reads (.csrr wk sd imm)) ∧ ∀ wk imm sa mop, Reads (.csrw wk imm sa mop) := by
  refine ⟨?_, ?_, ?_, ?_, ?_, ?_, ?_, ?_, ?_⟩
  · intro wk
    refine .ofGroup 0x3e parse3e rfl (fun _ => rfl) ?_
    simp [parse3e]
  · intro wk
    refine .ofGroup 0x3e parse3e rfl (fun _ => rfl) ?_
    simp [parse3e]
  · intro wk
    refine .ofGroup 0x3e parse3e rfl (fun _ => rfl) ?_
    simp [parse3e]
  · intro wk
    refine .ofGroup 0x3e parse3e rfl (fun _ => rfl) ?_
    simp [parse3e]
  · intro wk sd lr ln
    refine .ofGroup 0x3e parse3e rfl (fun _ => rfl) ?_
    simp [parse3e, -BitVec.getLsbD_eq_getElem]
  · intro wk lr sa ln
    refine .ofGroup 0x3e parse3e rfl (fun _ => rfl) ?_
    simp [parse3e, -BitVec.getLsbD_eq_getElem]
  · intro wk act x y ms
    cases ms <;> refine .ofGroup 0x3e parse3e rfl (fun _ => rfl) ?_ <;>
    simp [parse3e, getLsbD_append_part, -BitVec.getLsbD_eq_getElem]
  · intro wk sd imm
    refine .ofGroup 0x3e parse3e rfl (fun _ => rfl) ?_
    simp [parse3e]
  · intro wk imm sa mop
    refine .ofGroup 0x3e parse3e rfl (fun _ => rfl) ?_
    simp [parse3e]

/-- The fields of every well-formed instruction are read back from its words and name it. -/
theorem reads_of_wf {i : Instr} (hw : i.wf = true) : Reads i := by
  cases i
  case tern =>
    obtain ⟨⟨-, ternB⟩, -⟩ : (_ ∧ _) ∧ _ := by simpa [Instr.wf] using hw
    exact reads_tern _ _ _ _ _ ternB
  case
      launch | copy | wait | signal | branch | barrier | flush | inval | mark | barrierSatisfied | waitPoll |
      launchComplete | copyComplete | wtail | wcqdone | wctlRestart | wctlRestartSkip | wctlAbort |
      latchedTailRangeEntry | slotGrant | slotLoaded | unmapSave | batchSend | stationClose | startOffer |
      raiseFinish | quartetPlace | blockSwapOut | contextAreaCopy | blockResume | waiterSwitch | warpHalt |
      eccReentry | shootdownComplete | waitvRecheck | remoteAccess | remoteAck | transferComplete | copyf |
      engineResult | chainRecordDone | matrixOpExecute | barFitDetect | uisendReceive | hostInterruptSend |
      ctxNew | ctxFree | qReg | qDel | iblk | shoot | podbind | log | share | debug | podForm | podJoin |
      podRule | mailboxUnblock | sched | fwStage | fwActivate | fwStatus | sactResume | sactSkip | sactKill |
      sactEnd | sactUtrap | sactRelease | sactHalt | sactReserved | loadCompletion | waitTimeout | sliceExpiry |
      batchReceive | suspectTimeout | voteReceive | snapshotLoad | joinProgressCheck | drainDeadline |
      stopDeadline | testDue | testDeadline | testComplete | priResponse | atsInvalidation | watchdogPet |
      watchdogExpiry | probationTimeout | apertureRead | apertureWrite | monitorSample | registerWrite | boot |
      getVersion | getCapabilities | negotiateAlgorithms | getDigests | getCertificate | challenge |
      getMeasurements | spdmUnsupported | scrub | flitRetransmit | laneRetrain | linkDown | unreachableReport |
      thermalThrottle | thermalShutdown | fenceI | joinRequest | powerLoss | functionLevelReset | mctlClear |
      chhead | svecWrite =>
    exact fun f h => nomatch h
  all_goals
    simp only [reads_jumps24, reads_shorts, reads_literals, reads_group00, reads_group01, reads_group02, reads_group03,
      reads_group04, reads_group05, reads_group06, reads_group07, reads_group08, reads_group09, reads_group0a,
      reads_group0b, reads_group0c, reads_group0d, reads_group0e, reads_group0f, reads_group10, reads_group11,
      reads_group12, reads_group13, reads_group14, reads_group15, reads_group16, reads_group18, reads_group19,
      reads_group1a, reads_group1b, reads_group1c, reads_group1d, reads_group1e, reads_group1f, reads_group20,
      reads_group21, reads_group22, reads_group23, reads_group24, reads_group25, reads_group26, reads_group28,
      reads_group29, reads_group2a, reads_group2c, reads_group2d, reads_group2e, reads_group2f, reads_group30,
      reads_group31, reads_group32, reads_group33, reads_group34, reads_group35, reads_group38, reads_group39,
      reads_group3a, reads_group3c, reads_group3d, reads_group3e]

/-- Settles O55: the fields of an instruction are read back from its words, and name it whatever its operands. -/
theorem decodeOfEncode : Obligations.DecodeOfEncode := by
  intro i ws hw encoded
  obtain ⟨f, fields, rfl⟩ := Option.map_eq_some_iff.1 encoded
  obtain ⟨words, parsed⟩ := reads_of_wf hw f fields
  simp only [decode, words, parsed, hw, fields, if_true]

end Sys2Proof
end

section
/-! SUPPORT. What decodes (R98, R102, R106, R107): its instruction's fields are those that were read, so that its words
are the ones read; and the words that the manual works out. -/

namespace Sys2Proof

/-- Words decode to an instruction where their fields name it, it is well-formed and its fields are theirs. -/
theorem decode_eq_ok {ws : List Word} {i : Instr} (h : decode ws = .ok i) :
    ∃ f, Fields.ofWords ws = some f ∧ parse f = some i ∧ i.wf = true ∧ fieldsOf i = some f := by
  unfold decode at h
  split at h
  · cases h
  next f words =>
  split at h
  · cases h
  next j parsed =>
  split at h
  next wf =>
    split at h
    next fields =>
      cases h
      exact ⟨f, words, parsed, wf, fields⟩
    · cases h
  · cases h

/- ### Words made of the fields read from them -/

theorem Fields.w0_read (w0 w1 w2 : Word) (lit : BitVec 64) : (Fields.read w0 w1 w2 lit).w0 = w0 := by
  refine BitVec.eq_of_getLsbD_eq fun i hi => ?_
  simp only [read, Fields.w0, getLsbD_append_part, BitVec.getLsbD_extractLsb']
  grind

theorem Fields.w1_read (w0 w1 w2 : Word) (lit : BitVec 64) : (Fields.read w0 w1 w2 lit).w1 = w1 := by
  refine BitVec.eq_of_getLsbD_eq fun i hi => ?_
  simp only [read, Fields.w1, getLsbD_append_part, BitVec.getLsbD_extractLsb']
  grind

theorem Fields.w2_read (w0 w1 w2 : Word) (lit : BitVec 64) : (Fields.read w0 w1 w2 lit).w2 = w2 := by
  refine BitVec.eq_of_getLsbD_eq fun i hi => ?_
  simp only [read, Fields.w2, getLsbD_append_part, BitVec.getLsbD_extractLsb']
  grind

theorem Fields.len_read (w0 w1 w2 : Word) (lit : BitVec 64) :
    (Fields.read w0 w1 w2 lit).len = w0.extractLsb' 0 2 := rfl

theorem Fields.lit_read (w0 w1 w2 : Word) (lit : BitVec 64) : (Fields.read w0 w1 w2 lit).lit = lit := rfl

/-- The fields of words are those of a first word; they have the words, and OPC lies in the first word's bits 7:2
(R95, R96). -/
theorem Fields.ofWords_eq_some {ws : List Word} {f : Fields} (h : Fields.ofWords ws = some f) :
    f.words = ws ∧ ∀ w rest, ws = w :: rest → f.opc = w.extractLsb' 2 6 := by
  unfold Fields.ofWords at h
  split at h
  case h_1 w =>
    obtain ⟨len, h⟩ := Option.ite_none_right_eq_some.1 h
    obtain rfl := Option.some.inj h
    exact ⟨by simp [words, w0_read, len_read, len], by rintro _ _ ⟨⟩; rfl⟩
  case h_2 w x y =>
    split at h
    next len =>
      obtain rfl := Option.some.inj h
      exact ⟨by simp [words, w0_read, w1_read, w2_read, len_read, len], by rintro _ _ ⟨⟩; rfl⟩
    next =>
      obtain ⟨len, h⟩ := Option.ite_none_right_eq_some.1 h
      obtain rfl := Option.some.inj h
      exact ⟨by simp [words, w0_read, len_read, lit_read, len], by rintro _ _ ⟨⟩; rfl⟩
  case h_3 w w1 w2 x y =>
    obtain ⟨len, h⟩ := Option.ite_none_right_eq_some.1 h
    obtain rfl := Option.some.inj h
    exact ⟨by simp [words, w0_read, w1_read, w2_read, len_read, lit_read, len], by rintro _ _ ⟨⟩; rfl⟩
  case h_4 => cases h

/- ### Lengths and groups -/

/-- Words that decode are as many as their first word announces (R95). -/
theorem length_of_decode {w : Word} {ws : List Word} {i : Instr} (h : decode (w :: ws) = .ok i) :
    (w :: ws).length = wordCount w := by
  obtain ⟨_, _, ⟨⟩, count⟩ := Machine.decode_wordCount h
  have one : 1 ≤ wordCount w := by unfold wordCount; split <;> omega
  rw [List.length_cons, ← count]
  omega

/-- No form belongs to an unassigned group (R107). -/
theorem parse_unassigned {f : Fields} (h : f.opc.toNat ∈ [0x17, 0x27, 0x2b, 0x36, 0x37, 0x3b, 0x3f]) :
    parse f = none := by
  simp only [List.mem_cons, List.not_mem_nil, or_false] at h
  rcases h with h | h | h | h | h | h | h <;> simp [parse, parseShort, parseLit, parseExt, h]

/-- Settles O56: the fields read are the instruction's, and words are made of the fields read from them. -/
theorem encodeOfDecode : Obligations.EncodeOfDecode := by
  refine ⟨fun ws i h => ?_, fun w ws i h => ?_, fun w ws i h unassigned => ?_⟩
  · obtain ⟨f, read, -, wf, fields⟩ := decode_eq_ok h
    exact ⟨wf, by rw [encode, fields, Option.map_some, (Fields.ofWords_eq_some read).1]⟩
  · have len : (w.extractLsb' 0 2).toNat = w.toNat % 4 := by simp
    rw [← len]
    exact length_of_decode h
  · obtain ⟨f, read, parsed, -, -⟩ := decode_eq_ok h
    have opc : f.opc.toNat = w.toNat / 4 % 64 := by
      simp [(Fields.ofWords_eq_some read).2 w ws rfl, Nat.shiftRight_eq_div_pow]
    rw [parse_unassigned (by rwa [opc])] at parsed
    cases parsed

/-- Settles O57: the words of each encoding are read and compared, bit by bit. -/
theorem workedEncodings : Obligations.WorkedEncodings := by
  have nullBranch : decode [0x00000000] = .error .illFormed := by decide
  have badKind : decode [0x00010321, 0xc000c500, 0x00640000] = .error .unassigned := by decide
  refine ⟨by decide, by decide, by decide, by decide, by decide, by decide, by decide, by decide, by decide, ?_, ?_⟩
  · intro i h
    cases nullBranch.symm.trans h
  · intro i h
    cases badKind.symm.trans h

end Sys2Proof
end

section
/-! SUPPORT. Errors found by scrubbing, links, clocks and monitors (R92, R363, R364, R371, R396 to R398): what each event
replaces and what it logs. -/

namespace Sys2Proof.Machine

/- ### Scrubbing -/

/-- Poison found in a granule of memory adds the granule to those poisoned, and nothing else. -/
theorem State.poisonSite_mem (s : State) (tier : Tier) (gr : Nat) :
    ∃ ps, s.poisonSite (.mem tier) gr = { s with poison := ps } ∧
      ∀ g, g ∈ ps ↔ g = (if tier = .dram then 0 else 1, gr) ∨ g ∈ s.poison := by
  by_cases found : (if tier = .dram then 0 else 1, gr) ∈ s.poison
  · refine ⟨s.poison, by cases tier <;> simp_all [State.poisonSite], fun g => ⟨.inr, ?_⟩⟩
    rintro (rfl | old)
    · exact found
    · exact old
  · exact ⟨s.poison ++ [(if tier = .dram then 0 else 1, gr)], by cases tier <;> simp_all [State.poisonSite],
      fun g => by simp [or_comm]⟩

theorem siteExists_mem (gr : Nat) (tier : Tier) :
    siteExists gr (.mem tier) = decide (gr * 8 < if tier = .dram then Config.dramSize else Config.lpddrSize) := by
  cases tier <;> rfl

theorem siteLog_mem (gr : Nat) (tier : Tier) :
    siteLog gr (.mem tier) = (if tier = .dram then gr * 8 / 2 ^ 35 else 0, gr * 8) := by cases tier <;> rfl

theorem scrub_poisons (tier : Tier) (gr : Nat) : Event (.scrub (.mem tier) gr true)
    (fun _ => gr * 8 < if tier = .dram then Config.dramSize else Config.lpddrSize) fun s t =>
      let k := if tier = .dram then 0 else 1
      t.noLog = s.noLog ∧ PkgLogged s t 0x02 0 (if tier = .dram then gr * 8 / 2 ^ 35 else 0)
        (BitVec.ofNat 64 (gr * 8)) ∧
      (s.plog.ring = none → (k, gr) ∈ t.poison ∧ ∀ g, g ∈ t.poison ↔ g = (k, gr) ∨ g ∈ s.poison) := by
  intro s inside
  obtain ⟨ps, poisoned, mem⟩ := s.poisonSite_mem tier gr
  refine ⟨({ s with poison := ps } : State).logPkg kScrub 0 (if tier = .dram then gr * 8 / 2 ^ 35 else 0)
    (BitVec.ofNat 64 (gr * 8)), ?_, ?_, (State.logPkg_logged _ _ _ _ _).of_eq rfl rfl, fun ring => ?_⟩
  · show execScrub _ _ _ _ = _
    simp [execScrub, siteExists_mem, siteLog_mem, inside, poisoned]
  · exact State.noLog_logPkg _ _ _ _ _
  · have same : (({ s with poison := ps } : State).logPkg kScrub 0 (if tier = .dram then gr * 8 / 2 ^ 35 else 0)
        (BitVec.ofNat 64 (gr * 8))).poison = ps := by
      rw [State.logPkg, State.logPkgRec_held (s := { s with poison := ps }) ring]
    rw [same]
    exact ⟨(mem _).2 (.inl rfl), mem⟩

theorem scrub_corrects (tier : Tier) (gr : Nat) : Event (.scrub (.mem tier) gr false)
    (fun _ => gr * 8 < if tier = .dram then Config.dramSize else Config.lpddrSize) fun s t =>
      t.noLog = s.noLog ∧ PkgLogged s t 0x01 0 (if tier = .dram then gr * 8 / 2 ^ 35 else 0)
        (BitVec.ofNat 64 (gr * 8)) := by
  intro s inside
  refine ⟨s.logPkg kCorrected 0 (if tier = .dram then gr * 8 / 2 ^ 35 else 0) (BitVec.ofNat 64 (gr * 8)), ?_,
    State.noLog_logPkg _ _ _ _ _, State.logPkg_logged _ _ _ _ _⟩
  show execScrub _ _ _ _ = _
  simp [execScrub, siteExists_mem, siteLog_mem, inside]

/- ### Links -/

theorem State.link_setLink (s : State) (n k : Nat) (l : Link) :
    (s.setLink n l).link k = if k = n then l else s.link k := smGet_set _ _ _ _ _

/-- A link replaced, and the lane event logged. -/
theorem State.setLink_logged (s : State) (n : Nat) (l : Link) :
    let t := (s.setLink n l).logPkg kLink 0 n 0
    { t.noLog with links := s.links } = s.noLog ∧ PkgLogged s t 0x07 0 n 0 ∧
      ∀ k, t.link k = if k = n then l else s.link k := by
  intro t
  have log : t.noLog = (s.setLink n l).noLog := State.noLog_logPkg _ _ _ _ _
  have links : t.links = (s.setLink n l).links := (congrArg State.links log :)
  refine ⟨?_, (State.logPkg_logged _ _ _ _ _).of_eq rfl rfl, fun k => ?_⟩
  · rw [log]
    rfl
  · rw [← State.link_setLink, State.link, links]
    rfl

theorem flitRetransmit_goesOn (n : Nat) (ok : Bool) : Event (.flitRetransmit ⟨n, ok⟩)
    (fun s => (s.link n).down = true ∨ ok = true ∨ (s.link n).retries < 31)
    fun s t => { t with links := s.links } = s ∧
      ∀ k, ({ t.link k with retries := 0 } : Link) = { s.link k with retries := 0 } := by
  intro s runs
  have replaced (r : Nat) : ∀ k, ({ (s.setLink n { s.link n with retries := r }).link k with retries := 0 } : Link) =
      { s.link k with retries := 0 } := by
    intro k
    rw [State.link_setLink]
    split
    · next h => rw [h]
    · rfl
  show ∃ t, execFlitRetransmit _ s = _ ∧ _
  unfold execFlitRetransmit
  by_cases down : (s.link n).down = true
  · exact ⟨s, by simp [down], rfl, fun _ => rfl⟩
  · by_cases passed : ok = true
    · exact ⟨s.setLink n { s.link n with retries := 0 }, by simp [down, passed], rfl, replaced 0⟩
    · have few : ¬ 31 ≤ (s.link n).retries := by
        rcases runs with h | h | h
        · exact absurd h down
        · exact absurd h passed
        · omega
      exact ⟨s.setLink n { s.link n with retries := (s.link n).retries + 1 }, by simp [down, passed, few], rfl, replaced _⟩

theorem flitRetransmit_fails (n : Nat) : Event (.flitRetransmit ⟨n, false⟩)
    (fun s => (s.link n).down = false ∧ 31 ≤ (s.link n).retries) fun s t =>
    { t.noLog with links := s.links } = s.noLog ∧ PkgLogged s t 0x07 0 n 0 ∧
    ∀ k, t.link k = if k = n then { s.link n with down := true } else s.link k := by
  rintro s ⟨up, last⟩
  refine ⟨s.linkGoesDown n, ?_, s.setLink_logged n _⟩
  show execFlitRetransmit _ s = _
  simp [execFlitRetransmit, up, last]

/-- A failing lane takes a spare, or halves the width where none is left (R371). -/
theorem Link.retrained_eq (l : Link) (out : Bool) : l.retrained out = if out then
    { l with sparesOut := l.sparesOut - 1, halfOut := l.halfOut || l.sparesOut == 0 }
    else { l with sparesIn := l.sparesIn - 1, halfIn := l.halfIn || l.sparesIn == 0 } := by
  unfold Link.retrained
  split
  · split
    next none => simp [none]
    next some => simp [some]
  · split
    next none => simp [none]
    next some => simp [some]

theorem laneRetrain_retrains (n : Nat) (out : Bool) : Event (.laneRetrain ⟨n, out⟩) (fun s => (s.link n).down = false)
    fun s t => { t.noLog with links := s.links } = s.noLog ∧ PkgLogged s t 0x07 0 n 0 ∧
      let l := s.link n
      ∀ k, t.link k = if k = n then (if out then { l with
          sparesOut := l.sparesOut - 1, halfOut := l.halfOut || l.sparesOut == 0 }
        else { l with sparesIn := l.sparesIn - 1, halfIn := l.halfIn || l.sparesIn == 0 }) else s.link k := by
  intro s up
  have logged := s.setLink_logged n ((s.link n).retrained out)
  rw [Link.retrained_eq] at logged
  refine ⟨_, ?_, logged⟩
  show execLaneRetrain _ s = _
  simp [execLaneRetrain, up, Link.retrained_eq]

theorem linkDown_goesDown (n : Nat) : Event (.linkDown n) (fun s => (s.link n).down = false) fun s t =>
    { t.noLog with links := s.links } = s.noLog ∧ PkgLogged s t 0x07 0 n 0 ∧
    ∀ k, t.link k = if k = n then { s.link n with down := true } else s.link k := by
  intro s up
  refine ⟨s.linkGoesDown n, ?_, s.setLink_logged n _⟩
  show execLinkDown _ s = _
  simp [execLinkDown, up]

/- ### Clocks -/

/-- A die replaced, and its new clock logged. -/
theorem State.setDie_logged (s : State) (d : Nat) (x : Die) (addr : DWord) :
    let t := (s.setDie d x).logPkg Config.clockKind 0 d addr
    { t.noLog with dies := s.dies } = s.noLog ∧ PkgLogged s t Config.clockKind 0 d addr ∧
      ∀ k, t.die k = if k = d then x else s.die k := by
  intro t
  have log : t.noLog = (s.setDie d x).noLog := State.noLog_logPkg _ _ _ _ _
  have dies : t.dies = (s.setDie d x).dies := (congrArg State.dies log :)
  refine ⟨?_, (State.logPkg_logged _ _ _ _ _).of_eq rfl rfl, fun k => ?_⟩
  · rw [log]
    rfl
  · rw [← State.die_setDie, State.die, dies]
    rfl

/-- A clock on a step of 50 MHz, not yet at the end it moves to, moves one step (R398). -/
theorem clock_step {f : Nat} {up : Bool} (low : 550 ≤ f) (high : f ≤ 1100) (step : f % 50 = 0)
    (notEnd : f ≠ if up then 1100 else 550) : let c := if up then f + 50 else f - 50
    550 ≤ c ∧ c ≤ 1100 ∧ c ≠ f ∧ (if up then Nat.min (f + 50) 1100 else Nat.max (f - 50) 550) = c := by
  cases up
  · simp only [Bool.false_eq_true, if_false] at notEnd ⊢
    exact ⟨by omega, by omega, by omega, Nat.max_eq_left (by omega)⟩
  · simp only [if_true] at notEnd ⊢
    exact ⟨by omega, by omega, by omega, Nat.min_eq_left (by omega)⟩

theorem thermalThrottle_steps (d : Nat) (up : Bool) : Event (.thermalThrottle d up)
    (fun s => d < 4 ∧ 550 ≤ (s.die d).clock ∧ (s.die d).clock ≤ 1100 ∧
      (s.die d).clock % 50 = 0 ∧ (s.die d).clock ≠ if up then 1100 else 550) fun s t =>
    let c := if up then (s.die d).clock + 50 else (s.die d).clock - 50
    { t.noLog with dies := s.dies } = s.noLog ∧
    PkgLogged s t Config.clockKind 0 d (BitVec.ofNat 64 c) ∧ 550 ≤ c ∧ c ≤ 1100 ∧
    ∀ k, t.die k = if k = d then { s.die d with clock := c } else s.die k := by
  rintro s ⟨hd, low, high, step, notEnd⟩
  obtain ⟨floor, ceiling, moved, clamped⟩ := clock_step low high step notEnd
  dsimp only
  generalize (if up then (s.die d).clock + 50 else (s.die d).clock - 50) = c at floor ceiling moved clamped ⊢
  obtain ⟨rest, logged, dies⟩ := s.setDie_logged d { s.die d with clock := c } (BitVec.ofNat 64 c)
  refine ⟨_, ?_, rest, logged, floor, ceiling, dies⟩
  show execThermalThrottle _ _ s = _
  simp only [execThermalThrottle, clamped]
  rw [if_neg (by omega)]

/- ### Monitors -/

theorem Monitor.ascending_iff (o : Monitor) :
    (List.range 14).all (fun i => decide ((o.edge i).toNat < (o.edge (i + 1)).toNat)) = true ↔
      ∀ i, i < 14 → (o.edge i).toNat < (o.edge (i + 1)).toNat := by simp

/-- Where the edges ascend, a sample lies in the bin below the first edge above it; else it lies in the last (R397). -/
theorem Monitor.binOf_spec (o : Monitor) (x : Word) :
    o.binOf x < 16 ∧
      ((∀ i, i < 14 → (o.edge i).toNat < (o.edge (i + 1)).toNat) →
        (o.binOf x = 0 ∨ (o.edge (o.binOf x - 1)).toNat ≤ x.toNat) ∧
          (o.binOf x = 15 ∨ x.toNat < (o.edge (o.binOf x)).toNat)) ∧
      (¬ (∀ i, i < 14 → (o.edge i).toNat < (o.edge (i + 1)).toNat) → o.binOf x = 15) := by
  unfold Monitor.binOf
  rw [ite_congr (propext o.ascending_iff) (fun _ => rfl) fun _ => rfl]
  split
  next rises =>
    cases first : (List.range 15).find? fun i => decide (x.toNat < (o.edge i).toNat) with
    | none =>
      have above := List.find?_eq_none.1 first 14 (by simp)
      simp only [decide_eq_true_eq] at above
      exact ⟨by decide, fun _ => ⟨.inr (Nat.le_of_not_lt above), .inl rfl⟩, fun h => absurd rises h⟩
    | some b =>
      obtain ⟨below, inside, before⟩ := List.find?_range_eq_some.1 first
      simp only [decide_eq_true_eq] at below
      refine ⟨by simp at inside; simp; omega, fun _ => ⟨?_, .inr below⟩, fun h => absurd rises h⟩
      rcases Nat.eq_zero_or_pos b with zero | pos
      · exact .inl zero
      · have := before (b - 1) (by omega)
        simp only [Bool.not_eq_true', decide_eq_false_iff_not] at this
        exact .inr (Nat.le_of_not_lt this)
  next falls => exact ⟨by decide, fun h => absurd h falls, fun _ => rfl⟩

/-- A count that rises by one unless it is full. -/
theorem saturated_toNat {w : Nat} (x m : BitVec w) (full : m.toNat = 2 ^ w - 1) :
    (if x = m then x else x + 1#w).toNat = min (x.toNat + 1) (2 ^ w - 1) := by
  have lt := x.isLt
  split
  next same => rw [same]; omega
  next room =>
    have notFull : x.toNat ≠ m.toNat := fun h => room (BitVec.eq_of_toNat_eq h)
    have below : x.toNat + 1 < 2 ^ w := by omega
    rw [BitVec.toNat_add, BitVec.toNat_ofNat, Nat.mod_eq_of_lt (a := 1) (by omega), Nat.mod_eq_of_lt below]
    omega

theorem monitorSample_counts (m : Nat) (x : Word) : Event (.monitorSample m x)
    (fun s => (s.monitor m).en = true ∧ 1 ≤ (s.monitor m).source ∧ (s.monitor m).source ≤ 8) fun s t =>
      let o := s.monitor m
      let e (i : Nat) : Nat := (o.edge i).toNat
      let o' := t.monitor m
      { t with mons := s.mons } = s ∧ (∀ k, k ≠ m → t.monitor k = s.monitor k) ∧
      o'.source = o.source ∧ o'.en = o.en ∧ o'.edges = o.edges ∧ o'.min.toNat = min x.toNat o.min.toNat ∧
      o'.max.toNat = max x.toNat o.max.toNat ∧ o'.cnt.toNat = min (o.cnt.toNat + 1) (2 ^ 64 - 1) ∧
      ∃ b, b < 16 ∧
        ((∀ i j, i < j → j < 15 → e i < e j) → (b = 0 ∨ e (b - 1) ≤ x.toNat) ∧ (b = 15 ∨ x.toNat < e b)) ∧
        (¬ (∀ i, i < 14 → e i < e (i + 1)) → b = 15) ∧
        ∀ i, (smGet 0 o'.bins i).toNat = if i = b then min ((smGet 0 o.bins i).toNat + 1) (2 ^ 32 - 1)
          else (smGet 0 o.bins i).toNat := by
  rintro s ⟨en, low, high⟩
  obtain ⟨inside, rises, falls⟩ := (s.monitor m).binOf_spec x
  refine ⟨s.setMonitor m ((s.monitor m).sample x), ?_, ?_⟩
  · show execMonitorSample _ _ s = _
    simp [execMonitorSample, en, low, high]
  dsimp only
  rw [State.monitor_setMonitor, if_pos rfl]
  refine ⟨rfl, fun k hk => ?_, rfl, rfl, rfl, ?_, ?_, saturated_toNat _ _ rfl, (s.monitor m).binOf x, inside,
    fun up => rises fun i hi => up i (i + 1) (by omega) (by omega), falls, fun i => ?_⟩
  · rw [State.monitor_setMonitor, if_neg hk]
  · rw [Monitor.sample, apply_ite BitVec.toNat]
    split <;> omega
  · rw [Monitor.sample, apply_ite BitVec.toNat]
    split <;> omega
  · rw [Monitor.sample, smGet_set]
    split
    next same =>
      rw [same]
      exact saturated_toNat _ _ rfl
    next => rfl

/- ### The statement -/

/-- Settles O38: each event is one record replaced, one log record or both. -/
theorem deviceEvents : Obligations.DeviceEvents := by
  refine ⟨scrub_poisons, scrub_corrects, flitRetransmit_goesOn, flitRetransmit_fails, laneRetrain_retrains,
    linkDown_goesDown, thermalThrottle_steps, fun s _ => ⟨_, rfl, rfl⟩, fun m s _ => ⟨_, rfl, rfl, fun k => ?clears⟩,
    monitorSample_counts, fun m x s idle => ⟨s, ?ignored, rfl⟩, fun c s _ => ⟨_, rfl, rfl, fun k => ?dropped⟩⟩
  case clears => exact State.monitor_setMonitor _ _ _ _
  case ignored =>
    show execMonitorSample _ _ s = _
    rw [execMonitorSample, if_neg]
    simp only [Bool.and_eq_true, decide_eq_true_eq]
    rintro ⟨⟨en, low⟩, high⟩
    rcases idle with off | none | beyond
    · simp [off] at en
    · omega
    · omega
  case dropped => exact smGet_set _ _ _ _ _

end Sys2Proof.Machine
end

section
/-! SUPPORT. The checks that come before an instruction's own, and the events that have none (R144, R355). -/

namespace Sys2Proof.Machine
open Sys2Proof.Tests

/-- The first program's warp in an elimination section that is spent. -/
def tSpent : State := onW tS fun w => { w with st := { w.st with npe := true } }

/-- A watchdog pet while no firmware is installed changes nothing. -/
theorem exec_watchdogPet_of_idle {s : State} (h : s.fw.state = .idle) : exec .watchdogPet s = .next s := by
  show execWatchdogPet s = _
  simp only [execWatchdogPet, h]

/-- Refutes O19: its `i` ranges over every constructor of `Instr`, the device's events among them. Of an event
`Site.check` too says NPELIM while the current warp's section is spent, but no entry issues an event: the
firmware's watchdog pet leaves the whole state as it was, and lane 0 stands where it stood and not parked. -/
theorem not_checksTrap : ¬ Obligations.ChecksTrap := by
  unfold Obligations.ChecksTrap
  rintro ⟨traps, -⟩
  obtain ⟨x, hsite, hpending, hstalled, hengine, hcheck, hhandler, hlane⟩ :=
    checks_wit (i := .watchdogPet) (s := tSpent) (P := fun x =>
      x.check .watchdogPet = some (Cause.one .npelim 0) ∧ x.handler = false ∧ x.mask.getLsbD 0 = true) (by decide)
  obtain ⟨t, w, hexec, hwarp, -, -, -, hparked⟩ :=
    traps .watchdogPet tSpent x _ hsite hpending hstalled hengine hcheck hhandler
  obtain rfl : tSpent = t := by
    have := (exec_watchdogPet_of_idle (s := tSpent) (by decide)).symm.trans hexec
    injection this
  have hready : ((tSpent.warpAt tSpent.cur).bind (·.stands 0)).map (·.2) = some 0 := by decide
  rw [hwarp, Option.bind_some, hparked 0 (by decide) hlane] at hready
  exact absurd hready (by simp [Cause.one, TrapCode.park])

end Sys2Proof.Machine
end

section
/-! SUPPORT. Branches and joins (R105, R117, R120, R146, R150, R169): what leaving an instruction in several parts does,
where the parts of a branch send lanes, and the priority of a converged warp's one entry. -/

namespace Sys2Proof.Machine

/- ### Leaving in several parts -/

/-- Moves that end no lane leave every register as it was. -/
theorem moved_others (x : Site) (w : Warp) (w0 : DWord) (parts : List (Mask × Move)) (stay : ∀ p ∈ parts, p.2 ≠ .exit) :
    (x.moved w w0 parts).others = w.others := by
  unfold Site.moved
  suffices h : ∀ v : Warp, v.others = w.others →
      (parts.foldl (fun w p => w.move x.g x.pc x.prio x.len w0 p.1 p.2) v).others = w.others from h _ rfl
  induction parts with
  | nil => exact fun _ h => h
  | cons p t ih =>
    intro v hv
    refine ih (fun q hq => stay q (List.mem_cons_of_mem _ hq)) _ ?_
    rw [move_others _ _ _ _ _ _ _ _ (stay p List.mem_cons_self), hv]

/-- An instruction outside a handler leaves: the warp that its lanes' moves give is written back, a pending trap is taken,
and all else is kept. -/
theorem leave_spec {s : State} {len : Nat} {x y : Site} (hx : s.site len = some x) (hs : y.s = s) (hb : y.b = x.b)
    (hn : y.w.num = x.w.num) (hh : y.handler = false) (w0 : DWord) (parts : List (Mask × Move)) :
    (y.leave w0 parts).warpAt s.cur = some ((y.moved y.w w0 parts).takeTrap y.g.img.desc.trapent) ∧
      OthersKept s (y.leave w0 parts) := by
  obtain ⟨-, -, block, warp, key, num, -, -⟩ := site_spec hx
  have same : (y.moved y.w w0 parts).num = x.w.num := by rw [moved_num, hn]
  have leaves : y.leave w0 parts = s.putWarp x.b (y.moved y.w w0 parts) y.g := by
    unfold Site.leave
    rw [hh, hs, hb]
    rfl
  have back := putBack_putWarp (w := y.moved y.w w0 parts) y.g block (by rw [same]; exact warp)
  rw [same] at back
  rw [leaves]
  exact kept_of_putBack back (by rw [key, num]) block rfl rfl rfl rfl fun _ _ => rfl

/-- A warp of a handler written back as it is. -/
theorem commit_spec {s : State} {len : Nat} {x y : Site} (hx : s.site len = some x) (hs : y.s = s) (hb : y.b = x.b)
    (hn : y.w.num = x.w.num) : y.commit.warpAt s.cur = some y.w ∧ OthersKept s y.commit := by
  obtain ⟨-, -, block, warp, key, num, -, -⟩ := site_spec hx
  have back : PutBack s x.b y.w.num y.w y.commit := by
    unfold Site.commit
    rw [hs, hb]
    exact putBack_setBlock block (by rw [hn]; exact warp)
  rw [hn] at back
  exact kept_of_putBack back (by rw [key, num]) block rfl rfl rfl rfl fun _ _ => rfl

/-- Where a handler's next step leads, if it does not trap (R336). -/
def Site.handlerTarget (x : Site) : Move → Option DWord
  | .next => some x.after
  | .goto t _ => some t
  | _ => none

/-- In a handler, a step that traps no user trap leaves the frontier as it was, and moves the handler PC to a legal target. -/
theorem leaveHandler_spec {s : State} {len : Nat} {x : Site} {w : Warp} (hx : s.site len = some x)
    (hh : x.handler = true) (hn : w.num = x.w.num) (hf : w.frame = x.w.frame) (w0 : DWord) (mv : Move)
    (user : ∀ c, mv = .trap c → c.code.park ≠ 1) :
    ∃ w', ((x.withW w).leaveHandler w0 mv).warpAt s.cur = some w' ∧ w'.others = w.others ∧ w'.frontier = w.frontier ∧
      (∀ a, x.handlerTarget mv = some a → x.g.legalPc a = true → w'.frame.map (fun f => f.hoff) = some (x.off a)) ∧
      OthersKept s ((x.withW w).leaveHandler w0 mv) := by
  obtain ⟨hs, -, -, -, -, -, -, hframe⟩ := site_spec hx
  obtain ⟨f, frame⟩ := Option.isSome_iff_exists.1 (hframe ▸ hh)
  have com (mv : Move) (y : Site) (ys : y.s = x.s) (yb : y.b = x.b) (yn : y.w.num = x.w.num) (others : y.w.others = w.others)
      (front : y.w.frontier = w.frontier) (target : ∀ a, x.handlerTarget mv = some a → x.g.legalPc a = true →
        y.w.frame.map (fun f => f.hoff) = some (x.off a)) :
      ∃ w', y.commit.warpAt s.cur = some w' ∧ w'.others = w.others ∧ w'.frontier = w.frontier ∧
        (∀ a, x.handlerTarget mv = some a → x.g.legalPc a = true → w'.frame.map (fun f => f.hoff) = some (x.off a)) ∧
        OthersKept s y.commit := by
    obtain ⟨warp, kept⟩ := commit_spec hx (ys.trans hs) yb yn
    exact ⟨_, warp, others, front, target, kept⟩
  have held : (x.withW w).w.frame = some f := hf.trans frame
  unfold Site.leaveHandler
  rw [held]
  cases mv with
  | next =>
    dsimp only
    split
    · next beyond =>
      refine com .next _ rfl rfl hn rfl rfl fun a ha legal => absurd beyond (Nat.not_le.2 (legalPc_inside ?_))
      rw [← Option.some.inj ha] at legal
      exact legal
    · refine com .next _ rfl rfl hn rfl rfl fun a ha _ => ?_
      rw [← Option.some.inj ha]
      rfl
  | goto t p =>
    dsimp only
    split
    · refine com (.goto t p) _ rfl rfl hn rfl rfl fun a ha _ => ?_
      rw [← Option.some.inj ha]
      rfl
    · next illegal =>
      exact com (.goto t p) _ rfl rfl hn rfl rfl fun a ha legal => absurd (Option.some.inj ha ▸ legal) illegal
  | trap c =>
    dsimp only
    rw [if_neg (user c rfl)]
    exact com (.trap c) _ rfl rfl hn rfl rfl fun a ha => by cases ha
  | replay c => exact com (.replay c) _ rfl rfl hn rfl rfl fun a ha => by cases ha
  | stay q => exact com (.stay q) _ rfl rfl hn rfl rfl fun a ha => by cases ha
  | park k => exact com (.park k) _ rfl rfl hn rfl rfl fun a ha => by cases ha
  | exit => exact com .exit _ rfl rfl hn rfl rfl fun a ha => by cases ha

/-- In a handler the first part with lanes says how the whole instruction leaves, and the next instruction follows where
none has any. -/
theorem leave_handler_part {x : Site} (hh : x.handler = true) (w0 : DWord) (parts : List (Mask × Move)) :
    ∃ mv, x.leave w0 parts = x.leaveHandler w0 mv ∧
      ((∃ m, (m, mv) ∈ parts ∧ m ≠ 0) ∨ (mv = .next ∧ ∀ p ∈ parts, p.1 = 0)) := by
  unfold Site.leave
  rw [if_pos hh]
  cases first : parts.find? fun p => p.1 != 0 with
  | some p =>
    refine ⟨p.2, rfl, .inl ⟨p.1, List.mem_of_find?_eq_some first, ?_⟩⟩
    exact bne_iff_ne.1 (List.find?_some (p := fun p : Mask × Move => p.1 != 0) first)
  | none => exact ⟨.next, rfl, .inr ⟨rfl, by simpa using first⟩⟩

/- ### Parts that send lanes -/

/-- How a lane of the entry moves where the lanes of m go to their targets: one outside m to the next instruction, one of
m to its target, or to ILLOP where that is illegal (R117, R120). -/
def Site.sendsLane (x : Site) (m : Mask) (t : Nat → DWord) (l : Nat) (mv : Move) : Prop :=
  if m.getLsbD l then (∃ p, mv = .goto (t l) p) ∨ x.g.legalPc (t l) = false ∧ ∃ v, mv = .trap (Cause.one .illop v)
  else mv = .next

/-- The parts of an entry send the lanes of m to their targets: they hold lanes of the entry alone, each lane of the entry
in one of them. -/
structure Site.Sends (x : Site) (parts : List (Mask × Move)) (m : Mask) (t : Nat → DWord) : Prop where
  sub : ∀ p ∈ parts, ∀ l, p.1.getLsbD l = true → x.mask.getLsbD l = true
  one : ∀ l, l < 32 → x.mask.getLsbD l = true → ∃ a k mv b, parts = a ++ (k, mv) :: b ∧ k.getLsbD l = true ∧
    (∀ p ∈ a, p.1.getLsbD l = false) ∧ (∀ p ∈ b, p.1.getLsbD l = false) ∧ x.sendsLane m t l mv
  kinds : ∀ p ∈ parts, p.2 ≠ .exit ∧ ∀ c, p.2 = .trap c → c.code.park ≠ 1

/-- Where a lane that is sent comes to stand. -/
theorem Site.sendsLane.landing {x : Site} {m : Mask} {t : Nat → DWord} {l : Nat} {mv : Move} (h : x.sendsLane m t l mv) :
    x.landing mv = if m.getLsbD l then (if x.g.legalPc (t l) then some (t l, 0) else some (x.pc, 2))
      else if x.g.codeEnd.toNat ≤ x.after.toNat then some (x.g.codeEnd, 2) else some (x.after, 0) := by
  unfold Site.sendsLane at h
  split at h
  · next bit =>
    rw [if_pos bit]
    rcases h with ⟨p, rfl⟩ | ⟨illegal, v, rfl⟩
    · rfl
    · rw [illegal]
      rfl
  · next bit =>
    rw [h, if_neg bit]
    rfl

/-- Where a handler goes whose lane is sent to a legal target. -/
theorem Site.sendsLane.handlerTarget {x : Site} {m : Mask} {t : Nat → DWord} {l : Nat} {mv : Move}
    (h : x.sendsLane m t l mv) (legal : x.g.legalPc (if m.getLsbD l then t l else x.after) = true) :
    x.handlerTarget mv = some (if m.getLsbD l then t l else x.after) := by
  unfold Site.sendsLane at h
  split at h
  · next bit =>
    rw [if_pos bit] at legal ⊢
    rcases h with ⟨p, rfl⟩ | ⟨illegal, v, rfl⟩
    · rfl
    · rw [illegal] at legal
      cases legal
  · next bit =>
    rw [h, if_neg bit]
    rfl

/-- A part that holds the entry's one lane sends that lane. -/
theorem Site.Sends.single {x : Site} {parts : List (Mask × Move)} {m : Mask} {t : Nat → DWord} (h : x.Sends parts m t)
    {l : Nat} (hl : l < 32) (hx : x.mask = laneBit l) {k : Mask} {mv : Move} (mem : (k, mv) ∈ parts) (some_lane : k ≠ 0) :
    x.sendsLane m t l mv := by
  obtain ⟨j, hj⟩ : ∃ j, k.getLsbD j = true := by
    by_contra none
    exact some_lane (BitVec.eq_of_getLsbD_eq fun j _ => by simpa using fun bit => none ⟨j, bit⟩)
  have entry := h.sub _ mem j hj
  have hj32 : j < 32 := BitVec.lt_of_getLsbD hj
  obtain rfl : j = l := by simpa [hx, laneBit_bit l j hj32] using entry
  obtain ⟨a, k', mv', b, rfl, -, ha, hb, sends⟩ := h.one j hj32 entry
  rcases List.mem_append.1 mem with mem | mem
  · exact absurd ((ha _ mem).symm.trans hj) Bool.false_ne_true
  · rcases List.mem_cons.1 mem with same | mem
    · cases same
      exact sends
    · exact absurd ((hb _ mem).symm.trans hj) Bool.false_ne_true

/-- The entry's one lane is in a part. -/
theorem Site.Sends.nonempty {x : Site} {parts : List (Mask × Move)} {m : Mask} {t : Nat → DWord} (h : x.Sends parts m t)
    {l : Nat} (hl : l < 32) (hx : x.mask = laneBit l) : ∃ p ∈ parts, p.1 ≠ 0 := by
  obtain ⟨a, k, mv, b, rfl, bit, -⟩ := h.one l hl (by rw [hx, laneBit_bit l l hl]; simp)
  refine ⟨(k, mv), by simp, fun zero => ?_⟩
  rw [show k = 0 from zero] at bit
  simp at bit

/-- An instruction whose parts send the lanes of m has sent them, and changed nothing else. -/
theorem leave_went {s : State} {len : Nat} {x : Site} {w : Warp} (hx : s.site len = some x) (same : w.others = x.w.others)
    (hfr : w.frontier = x.w.frontier) (hf : w.frame = x.w.frame) {parts : List (Mask × Move)} {m : Mask}
    {t : Nat → DWord} (sends : x.Sends parts m t) (w0 : DWord) :
    ∃ w', ((x.withW w).leave w0 parts).warpAt s.cur = some w' ∧ w'.others = x.w.others ∧ x.went w' m t ∧
      OthersKept s ((x.withW w).leave w0 parts) := by
  have hn : w.num = x.w.num := num_of_others same
  cases hh : x.handler with
  | true =>
    obtain ⟨mv, leaves, how⟩ := leave_handler_part (x := x.withW w) hh w0 parts
    have user : ∀ c, mv = .trap c → c.code.park ≠ 1 := by
      rcases how with ⟨k, mem, -⟩ | ⟨rfl, -⟩
      · exact (sends.kinds _ mem).2
      · exact fun c h => by cases h
    obtain ⟨w', warp, others, front, moves, kept⟩ := leaveHandler_spec hx hh hn hf w0 mv user
    rw [leaves]
    refine ⟨w', warp, others.trans same, ?_, kept⟩
    rw [Site.went, if_pos hh]
    refine ⟨front.trans hfr, fun l hl hl32 legal => moves _ ?_ legal⟩
    rcases how with ⟨k, mem, some_lane⟩ | ⟨-, empty⟩
    · exact (sends.single hl32 hl mem some_lane).handlerTarget legal
    · obtain ⟨p, mem, some_lane⟩ := sends.nonempty hl32 hl
      exact absurd (empty p mem) some_lane
  | false =>
    obtain ⟨warp, kept⟩ := leave_spec (y := x.withW w) hx (site_spec hx).1 rfl hn hh w0 parts
    have stands (l : Nat) : ((x.moved w w0 parts).takeTrap x.g.img.desc.trapent).stands l = (x.moved w w0 parts).stands l :=
      congrArg (standsIn · l) (takeTrap_frontier _ _)
    have others : ((x.moved w w0 parts).takeTrap x.g.img.desc.trapent).others = x.w.others :=
      (takeTrap_others _ _).trans ((moved_others x w w0 parts fun p hp => (sends.kinds p hp).1).trans same)
    refine ⟨_, warp, others, ?_, kept⟩
    rw [Site.went, if_neg (Bool.not_eq_true _ ▸ hh)]
    refine ⟨fun l hl entry => ?_, fun l hl out => ?_⟩
    · obtain ⟨a, k, mv, b, rfl, bit, ha, hb, sent⟩ := sends.one l hl entry
      exact (stands l).trans ((moved_stands_in hl entry bit ha hb).trans sent.landing)
    · refine (stands l).trans ((moved_stands_out hl out fun p hp => ?_).trans (congrArg (standsIn · l) hfr))
      rw [← Bool.not_eq_true]
      exact fun bit => absurd (out.symm.trans (sends.sub p hp l bit)) Bool.false_ne_true

/- ### The parts of a branch -/

/-- One part that sends the whole entry to its target (R169). -/
theorem sends_goto (x : Site) (a : DWord) (p : Option (BitVec 8)) : x.Sends [(x.mask, .goto a p)] x.mask fun _ => a where
  sub := by simp
  one l _ entry := ⟨[], x.mask, _, [], rfl, entry, by simp, by simp, by
    rw [Site.sendsLane, if_pos entry]
    exact .inl ⟨p, rfl⟩⟩
  kinds := by simp

/-- One part that moves the whole entry on. -/
theorem sends_next (x : Site) (t : Nat → DWord) : x.Sends [(x.mask, .next)] 0 t where
  sub := by simp
  one l _ entry := ⟨[], x.mask, _, [], rfl, entry, by simp, by simp, by simp [Site.sendsLane]⟩
  kinds := by simp

/-- The lanes of an entry that a branch does not take. -/
theorem not_taken_bit (x : Site) (act : Mask) (l : Nat) :
    (x.mask &&& ~~~act).getLsbD l = (x.mask.getLsbD l && !act.getLsbD l) := by
  rw [BitVec.getLsbD_and, BitVec.getLsbD_not]
  cases hx : x.mask.getLsbD l
  · rfl
  · simp [BitVec.lt_of_getLsbD hx]

/-- The acting lanes whose target is illegal. -/
def Site.badLanes (x : Site) (act : Mask) (t : Nat → DWord) : Mask :=
  maskOf fun l => act.getLsbD l && !x.g.legalPc (t l)

/-- The acting lanes whose target is legal, in ascending order. -/
def Site.goodLanes (x : Site) (act : Mask) (t : Nat → DWord) : List Nat :=
  lanes.filter fun l => (act &&& ~~~x.badLanes act t).getLsbD l

theorem mem_goodLanes {x : Site} {act : Mask} {t : Nat → DWord} {l : Nat} :
    l ∈ x.goodLanes act t ↔ l < 32 ∧ act.getLsbD l = true ∧ x.g.legalPc (t l) = true := by
  unfold Site.goodLanes lanes
  rw [List.mem_filter, List.mem_range]
  refine and_congr_right fun hl => ?_
  rw [BitVec.getLsbD_and, BitVec.getLsbD_not, Site.badLanes, maskOf_bit _ l hl]
  cases act.getLsbD l <;> simp [hl]

theorem badLanes_bit (x : Site) (act : Mask) (t : Nat → DWord) (l : Nat) :
    (x.badLanes act t).getLsbD l = (act.getLsbD l && !x.g.legalPc (t l)) := by
  by_cases hl : l < 32
  · exact maskOf_bit _ l hl
  · rw [BitVec.getLsbD_of_ge _ _ (Nat.le_of_not_lt hl), BitVec.getLsbD_of_ge _ _ (Nat.le_of_not_lt hl)]
    rfl

theorem goodLanes_nodup (x : Site) (act : Mask) (t : Nat → DWord) : (x.goodLanes act t).Nodup :=
  List.nodup_range.filter _

/-- The parts of a branch by name: those that trap, those not taken, and each lane that goes. -/
theorem transfer_eq (x : Site) (w0 : DWord) (act : Mask) (t : Nat → DWord) (p : Option (BitVec 8)) :
    x.transfer w0 act t p = (x.badLanes act t, .trap (Cause.one .illop w0)) :: (x.mask &&& ~~~act, .next) ::
      (x.goodLanes act t).map fun l => (laneBit l, .goto (t l) p) := rfl

/-- The parts of a branch send its acting lanes to their targets (R117, R146). -/
theorem transfer_sends {x : Site} {act : Mask} (sub : ∀ l, act.getLsbD l = true → x.mask.getLsbD l = true) (w0 : DWord)
    (t : Nat → DWord) (p : Option (BitVec 8)) : x.Sends (x.transfer w0 act t p) act t where
  sub := by
    rw [transfer_eq]
    intro q hq l bit
    rcases List.mem_cons.1 hq with rfl | hq
    · rw [badLanes_bit, Bool.and_eq_true] at bit
      exact sub l bit.1
    rcases List.mem_cons.1 hq with rfl | hq
    · rw [not_taken_bit, Bool.and_eq_true] at bit
      exact bit.1
    obtain ⟨k, hk, rfl⟩ := List.mem_map.1 hq
    obtain rfl : l = k := by simpa [laneBit_bit k l (BitVec.lt_of_getLsbD bit)] using bit
    exact sub l (mem_goodLanes.1 hk).2.1
  one l hl entry := by
    rw [transfer_eq]
    have goes (k : Nat) : (laneBit k).getLsbD l = decide (l = k) := laneBit_bit k l hl
    have bad := badLanes_bit x act t l
    have idle := not_taken_bit x act l
    unfold Site.sendsLane
    cases bit : act.getLsbD l with
    | false =>
      refine ⟨[_], _, .next, _, rfl, by rw [idle, entry, bit]; rfl, by simp [bad, bit], fun q hq => ?_, by simp⟩
      obtain ⟨k, hk, rfl⟩ := List.mem_map.1 hq
      refine (goes k).trans (decide_eq_false ?_)
      rintro rfl
      exact absurd ((mem_goodLanes.1 hk).2.1.symm.trans bit) Bool.false_ne_true.symm
    | true =>
      cases legal : x.g.legalPc (t l) with
      | false =>
        refine ⟨[], _, _, _, rfl, by simp [bad, bit, legal], by simp, fun q hq => ?_, by simp⟩
        rcases List.mem_cons.1 hq with rfl | hq
        · simp [idle, bit]
        obtain ⟨k, hk, rfl⟩ := List.mem_map.1 hq
        refine (goes k).trans (decide_eq_false ?_)
        rintro rfl
        exact absurd ((mem_goodLanes.1 hk).2.2.symm.trans legal) Bool.false_ne_true.symm
      | true =>
        obtain ⟨a, b, split⟩ := List.append_of_mem (mem_goodLanes.2 ⟨hl, bit, legal⟩)
        have apart : l ∉ a ∧ l ∉ b := by
          have := split ▸ goodLanes_nodup x act t
          rw [List.nodup_middle, List.nodup_cons, List.mem_append, not_or] at this
          exact this.1
        have other {c : List Nat} (hc : l ∉ c) :
            ∀ q ∈ c.map fun k => (laneBit k, Move.goto (t k) p), q.1.getLsbD l = false := by
          intro q hq
          obtain ⟨k, hk, rfl⟩ := List.mem_map.1 hq
          exact (goes k).trans (decide_eq_false fun same => hc (same ▸ hk))
        refine ⟨_ :: _ :: a.map fun k => (laneBit k, .goto (t k) p), laneBit l, .goto (t l) p, _,
          by rw [split, List.map_append, List.map_cons]; rfl, by simp [goes], fun q hq => ?_, other apart.2,
          by simp⟩
        rcases List.mem_cons.1 hq with rfl | hq
        · simp [bad, bit, legal]
        rcases List.mem_cons.1 hq with rfl | hq
        · simp [idle, bit]
        exact other apart.1 q hq
  kinds := by
    rw [transfer_eq]
    simp [Cause.one, TrapCode.park]

/-- An instruction that has issued and leaves in parts that send the lanes of m has sent them. -/
theorem issued_went {i : Instr} {s : State} {x : Site} (h : Issues i s x) {parts : List (Mask × Move)} {m : Mask}
    {t : Nat → DWord} (sends : x.Sends parts m t) (w0 : DWord) :
    ∃ w', ((x.issued i).leave w0 parts).warpAt s.cur = some w' ∧ (w'.others = x.w.others ∧ x.went w' m t) ∧
      OthersKept s ((x.issued i).leave w0 parts) := by
  have others := issued_others x i
  have frontier := issued_frontier x i
  have frame := issued_frame x i
  obtain ⟨st, rgn, eq⟩ := issued_eq x i
  rw [eq] at others frontier frame ⊢
  obtain ⟨w', warp, same, went, kept⟩ := leave_went h.site others frontier frame sends w0
  exact ⟨w', warp, ⟨same, went⟩, kept⟩

/-- An instruction that has issued outside a handler leaves. -/
theorem issued_leaves {i : Instr} {s : State} {x : Site} (h : Issues i s x) (hh : x.handler = false) (w0 : DWord)
    (parts : List (Mask × Move)) : ((x.issued i).leave w0 parts).warpAt s.cur =
      some ((x.moved (x.issued i).w w0 parts).takeTrap x.g.img.desc.trapent) :=
  (leave_spec (y := x.issued i) h.site (site_spec h.site).1 rfl (num_of_others (issued_others x i)) hh w0 parts).1

/-- The site at another priority. -/
def Site.atPrio (x : Site) (q : BitVec 8) : Site := { x with prio := q }

/-- The lanes of the entry have gone one way at a site. -/
structure Site.oneWay (x : Site) (mv : Move) (w' : Warp) : Prop where
  others : w'.others = x.w.others
  stands : ∀ l, l < 32 → x.mask.getLsbD l = true → w'.stands l = x.landing mv
  kept : x.w.standKept w' x.mask

/-- Lanes that all go one way outside a handler, whatever the priority at which they go. -/
theorem issued_oneWay {i : Instr} {s : State} {x : Site} (h : Issues i s x) (hh : x.handler = false) (q : BitVec 8)
    (w0 : DWord) {mv : Move} (stay : mv ≠ .exit) : ∃ w',
      (((x.issued i).atPrio q).leave w0 [(x.mask, mv)]).warpAt s.cur = some w' ∧ x.oneWay mv w' ∧
      w'.frontier = (({ (x.issued i).w with frontier := dropLanes x.w.frontier x.mask } : Warp).move x.g x.pc q x.len w0
        x.mask mv).frontier ∧ OthersKept s (((x.issued i).atPrio q).leave w0 [(x.mask, mv)]) := by
  let y := (x.issued i).atPrio q
  obtain ⟨warp, kept⟩ := leave_spec (y := y) h.site (site_spec h.site).1 rfl (num_of_others (issued_others x i)) hh w0
    [(x.mask, mv)]
  have frontier : (y.moved y.w w0 [(x.mask, mv)]).frontier = (({ (x.issued i).w with
      frontier := dropLanes x.w.frontier x.mask } : Warp).move x.g x.pc q x.len w0 x.mask mv).frontier := by
    rw [← issued_frontier x i]
    rfl
  refine ⟨_, warp, ⟨?_, fun l hl entry => ?_, fun l hl out => ?_⟩, (takeTrap_frontier _ _).trans frontier, kept⟩
  · rw [takeTrap_others, moved_others _ _ _ _ (by simpa using stay)]
    exact issued_others x i
  · rw [Warp.stands, takeTrap_frontier]
    exact moved_stands_in (x := y) (a := []) (b := []) hl entry entry (by simp) (by simp)
  · rw [Warp.stands, takeTrap_frontier]
    refine (moved_stands_out (x := y) hl out (by simpa using out)).trans ?_
    exact congrArg (standsIn · l) (issued_frontier x i)

end Sys2Proof.Machine
end

section
/-! SUPPORT. The statement about branches and joins: where each branch sends its lanes, and what a converged warp's entry
and a `join` come to (R105, R120, R146, R150, R169). -/

namespace Sys2Proof.Machine

/- ### Where each branch sends lanes -/

section
variable {i : Instr} {act : Site → Mask} {target t : Site → Nat → DWord} {p : Option (BitVec 8)}
  (he : ∀ s, exec i s = issue i s fun x => x.leave (instrW0 i) (x.transfer (instrW0 i) (act x) (target x) p))
  (ha : ∀ x, act (x.issued i) = act x) (ht : ∀ x, target (x.issued i) = t x)
include he ha ht

/-- A branch that leaves by `transfer`: issue leaves the lanes that act and their targets as they were. -/
theorem exec_transfer {s : State} {x : Site} (h : Issues i s x) :
    exec i s = .next ((x.issued i).leave (instrW0 i) (x.transfer (instrW0 i) (act x) (t x) p)) := by
  rw [he, issue_of_issues h, ha, ht]
  rfl

/-- A branch that leaves by `transfer` sends its acting lanes to its targets. -/
theorem does_transfer (sub : ∀ (x : Site) l, (act x).getLsbD l = true → x.mask.getLsbD l = true) :
    Does i fun x w' => w'.others = x.w.others ∧ x.went w' (act x) (t x) := by
  intro s x h
  obtain ⟨w', warp, went, kept⟩ := issued_went h (transfer_sends (sub x) (instrW0 i) (t x) p) (instrW0 i)
  exact ⟨_, w', exec_transfer he ha ht h, warp, went, kept⟩

end

/-- The lanes whose index `brx` finds in its table (R146). -/
def Site.tableLanes (x : Site) (c : Ctl) (a n : BitVec 8) : Mask :=
  maskOf fun l => (x.acting c).getLsbD l && decide ((x.w.vget a.toNat l).toNat < n.toNat + 1)

theorem tableLanes_bit (x : Site) (c : Ctl) (a n : BitVec 8) (l : Nat) (hl : l < 32) : (x.tableLanes c a n).getLsbD l =
    ((x.acting c).getLsbD l && decide ((x.w.vget a.toNat l).toNat < n.toNat + 1)) := maskOf_bit _ l hl

theorem tableLanes_sub (x : Site) (c : Ctl) (a n : BitVec 8) (l : Nat) (h : (x.tableLanes c a n).getLsbD l = true) :
    x.mask.getLsbD l = true := by
  rw [tableLanes_bit x c a n l (BitVec.lt_of_getLsbD h), Bool.and_eq_true] at h
  exact acting_sub x c h.1

theorem tableLanes_issued (x : Site) (i : Instr) (c : Ctl) (a n : BitVec 8) :
    (x.issued i).tableLanes c a n = x.tableLanes c a n := by
  unfold Site.tableLanes
  simp only [acting_issued, issued_vget]

/-- Sixteen times a word, as an offset of 64 bits. -/
theorem ofNat_mul_sixteen (v : Word) : BitVec.ofNat 64 (16 * v.toNat) = 16 * v.setWidth 64 := by
  rw [BitVec.ofNat_mul]
  congr 1
  exact BitVec.eq_of_toNat_eq (by simp)

/-- `sbra` sends the whole entry to its target, or moves it on (R169). -/
theorem does_sbra (wk : BitVec 8) (r : BitVec 5) (off : Off) (z : Bool) : Does (.sbra wk r off z) fun x w' =>
    w'.others = x.w.others ∧ x.went w' (if (x.w.sget r.toNat == 0) = z then x.mask else 0) fun _ => x.after + branchOff off := by
  intro s x h
  have run : exec (.sbra wk r off z) s = .next (if (x.w.sget r.toNat == 0) == z then
      (x.issued (.sbra wk r off z)).leave (instrW0 (.sbra wk r off z)) [(x.mask, .goto (x.after + branchOff off) none)]
      else (x.issued (.sbra wk r off z)).leave 0 [(x.mask, .next)]) := by
    obtain ⟨st, rgn, issued⟩ := issued_eq x (.sbra wk r off z)
    refine (issue_of_issues h _).trans ?_
    rw [issued]
    rfl
  rw [run]
  by_cases zero : (x.w.sget r.toNat == 0) = z
  · rw [if_pos (beq_iff_eq.2 zero)]
    obtain ⟨w', warp, went, kept⟩ := issued_went h (sends_goto x (x.after + branchOff off) none) (instrW0 (.sbra wk r off z))
    exact ⟨_, w', rfl, warp, by simpa only [if_pos zero] using went, kept⟩
  · rw [if_neg (mt beq_iff_eq.1 zero)]
    obtain ⟨w', warp, went, kept⟩ := issued_went h (sends_next x fun _ => x.after + branchOff off) 0
    exact ⟨_, w', rfl, warp, by simpa only [if_neg zero] using went, kept⟩

/-- R105, R117, R120, R146, R169: where the branches send lanes. -/
theorem branchTargets : Claims.BranchTargets := by
  intro c off o24 o32 a n r wk z p
  refine ⟨?braShort, ?braLit, ?bra, ?jmp, ?brx, does_sbra wk r off z⟩
  case braShort =>
    exact does_transfer (act := fun x => x.mask) (fun _ => rfl) (fun _ => rfl) (fun _ => rfl) fun _ _ h => h
  case braLit =>
    exact does_transfer (act := fun x => x.mask) (fun _ => rfl) (fun _ => rfl) (fun _ => rfl) fun _ _ h => h
  case bra =>
    exact does_transfer (act := fun x => x.acting c) (fun _ => rfl) (fun x => acting_issued x _ c)
      (fun _ => rfl) fun x _ => acting_sub x c
  case jmp =>
    refine does_transfer (act := fun x => x.acting c) (fun _ => rfl) (fun x => acting_issued x _ c)
      (fun x => funext fun l => ?_) fun x _ => acting_sub x c
    rw [issued_vget, BitVec.setWidth_eq_append (by decide)]
    rfl
  case brx =>
    intro s x h
    obtain ⟨u, w', run, warp, ⟨others, went⟩, kept⟩ := does_transfer (i := .brx c a n off p)
      (act := fun x => x.tableLanes c a n)
      (t := fun x l => x.after + branchOff off + 16 * (x.w.vget a.toNat l).setWidth 64) (fun _ => rfl)
      (fun x => tableLanes_issued x _ c a n)
      (fun x => funext fun l => by dsimp only; rw [issued_vget, ofNat_mul_sixteen]; rfl) (fun x => tableLanes_sub x c a n)
      s x h
    exact ⟨u, w', run, warp, ⟨others, _, went, tableLanes_bit x c a n⟩, kept⟩

/- ### The entry of a converged warp -/

/-- Outside a handler the site is the selected entry (R119). -/
theorem site_entry {s : State} {len : Nat} {x : Site} (hx : s.site len = some x) (hh : x.handler = false) :
    ∃ e, select x.w.frontier = some e ∧ x.pc = e.pc ∧ x.mask = e.mask ∧ x.prio = e.prio := by
  unfold State.site at hx
  split at hx
  · cases hx
  split at hx
  · cases hx
  split at hx
  · split at hx
    · split at hx
      · cases hx
        cases hh
      · split at hx
        · next e he =>
          cases hx
          exact ⟨e, he, rfl, rfl, rfl⟩
        · cases hx
    · cases hx
  · cases hx

/-- In a converged warp the site is the one entry (R124). -/
theorem site_converged {s : State} {len : Nat} {x : Site} {e : Entry} (hx : s.site len = some x)
    (hh : x.handler = false) (one : x.w.frontier = [e]) : x.pc = e.pc ∧ x.mask = e.mask ∧ x.prio = e.prio := by
  obtain ⟨f, chosen, entry⟩ := site_entry hx hh
  rw [one] at chosen
  obtain rfl : e = f := by
    simp only [select] at chosen
    split at chosen
    · exact Option.some.inj chosen
    · cases chosen
  exact entry

/-- A converged warp's frontier without its entry. -/
theorem dropLanes_converged (e : Entry) : dropLanes [e] e.mask = [] := by
  simp [dropLanes]

/-- The frontier of lanes m alone, issuable at one address with one priority. -/
def entryAt (a : DWord) (q : BitVec 8) (m : Mask) : List Entry := if m = 0 then [] else [⟨a, q, m, 0⟩]

/-- Lanes that come to an entry of the same address and priority join it (R121). -/
theorem addEntry_entryAt (a : DWord) (q : BitVec 8) (m k : Mask) :
    addEntry (entryAt a q m) ⟨a, q, k, 0⟩ = entryAt a q (m ||| k) := by
  unfold addEntry entryAt
  dsimp only
  by_cases hk : k = 0#32
  · simp [hk]
  · by_cases hm : m = 0#32
    · simp [hm, hk, mergeEntry]
    · simp [hm, hk, mergeEntry]

theorem move_goto_frontier {x : Site} {a : DWord} (legal : x.g.legalPc a = true) (w : Warp) (w0 : DWord) (m : Mask)
    (p : Option (BitVec 8)) : (w.move x.g x.pc x.prio x.len w0 m (.goto a p)).frontier =
      addEntry w.frontier ⟨a, p.getD x.prio, m, 0⟩ := by
  unfold Warp.move
  by_cases hm : m = 0
  · simp [hm, addEntry]
  · rw [if_neg hm]
    dsimp only
    rw [if_pos legal]

theorem move_next_frontier {g : Grid} {pc : DWord} {len : Nat} (inside : (pc + BitVec.ofNat 64 len).toNat < g.codeEnd.toNat)
    (w : Warp) (q : BitVec 8) (w0 : DWord) (m : Mask) : (w.move g pc q len w0 m .next).frontier =
      addEntry w.frontier ⟨pc + BitVec.ofNat 64 len, q, m, 0⟩ := by
  unfold Warp.move
  by_cases hm : m = 0
  · simp [hm, addEntry]
  · rw [if_neg hm]
    dsimp only
    rw [if_neg (Nat.not_le.2 inside)]

/-- Lanes that go to one address one after the other make one entry (R121). -/
theorem moves_goto_frontier {x : Site} {a : DWord} (legal : x.g.legalPc a = true) (w0 : DWord) (p : Option (BitVec 8))
    (ls : List Nat) : ∀ (w : Warp) (m : Mask), w.frontier = entryAt a (p.getD x.prio) m →
      ((ls.map fun l => (laneBit l, Move.goto a p)).foldl (fun w q => w.move x.g x.pc x.prio x.len w0 q.1 q.2) w).frontier =
        entryAt a (p.getD x.prio) (ls.foldl (fun m l => m ||| laneBit l) m) := by
  induction ls with
  | nil => exact fun _ _ h => h
  | cons l ls ih =>
    intro w m hw
    refine ih _ _ ?_
    rw [move_goto_frontier legal, hw, addEntry_entryAt]

/-- A mask is the union of its lanes. -/
theorem foldl_lanes (m : Mask) : (lanes.filter fun l => m.getLsbD l).foldl (fun m l => m ||| laneBit l) 0 = m := by
  rw [List.foldl_filter]
  exact BitVec.eq_of_getLsbD_eq fun l hl => maskOf_bit (fun l => m.getLsbD l) l hl

/-- A branch of a whole entry to one legal target makes one entry of what the frontier held alone (R120, R121). -/
theorem moved_transfer_frontier {x : Site} {w : Warp} {a : DWord} (legal : x.g.legalPc a = true)
    (alone : dropLanes w.frontier x.mask = []) (w0 : DWord) (p : Option (BitVec 8)) :
    (x.moved w w0 (x.transfer w0 x.mask (fun _ => a) p)).frontier = entryAt a (p.getD x.prio) x.mask := by
  have good : x.badLanes x.mask (fun _ => a) = 0 :=
    BitVec.eq_of_getLsbD_eq fun l _ => by simp [badLanes_bit, legal]
  have stays (v : Warp) (mv : Move) : v.move x.g x.pc x.prio x.len w0 0 mv = v := if_pos rfl
  have all : x.mask &&& ~~~(0 : Mask) = x.mask := BitVec.eq_of_getLsbD_eq fun l hl => by
    simpa using not_taken_bit x 0 l
  have none_idle : x.mask &&& ~~~x.mask = 0 := BitVec.and_not_self x.mask
  unfold Site.moved
  rw [transfer_eq, Site.goodLanes, good, all, none_idle, List.foldl_cons, List.foldl_cons, stays, stays,
    moves_goto_frontier legal w0 p _ _ 0 alone, foldl_lanes]

/-- A branch of the whole entry to one legal target, in a converged warp (R120, R146). -/
theorem does_transfer_converged {i : Instr} {target : Site → Nat → DWord} {a : Site → DWord} {p : Option (BitVec 8)}
    (he : ∀ s, exec i s = issue i s fun x => x.leave (instrW0 i) (x.transfer (instrW0 i) x.mask (target x) p))
    (ht : ∀ x, target (x.issued i) = fun _ => a x) : Does i fun x w' =>
      ∀ e, x.w.frontier = [e] → e.mask ≠ 0 → x.handler = false → x.g.legalPc (a x) = true →
        w'.frontier = [⟨a x, p.getD e.prio, e.mask, 0⟩] := by
  intro s x h
  have run := exec_transfer (act := fun x => x.mask) he (fun _ => rfl) ht h
  obtain ⟨w', warp, -, kept⟩ := issued_went h (transfer_sends (fun _ h => h) (instrW0 i) (fun _ => a x) p) (instrW0 i)
  refine ⟨_, w', run, warp, fun e one some_lane hh legal => ?_, kept⟩
  obtain ⟨-, mask, prio⟩ := site_converged h.site hh one
  have alone : dropLanes (x.issued i).w.frontier x.mask = [] := by
    rw [issued_frontier, one, mask]
    exact dropLanes_converged e
  rw [Option.some.inj (warp.symm.trans (issued_leaves h hh _ _)), takeTrap_frontier, moved_transfer_frontier legal alone,
    entryAt, mask, prio, if_neg some_lane]

/- ### `join` (R150) -/

/-- Whether an issuable entry stands at a lower PC, for which `join` waits (R150). -/
def Site.joinWaits (x : Site) : Bool := x.w.frontier.any fun f => f.park == 0 && decide (f.pc.toNat < x.pc.toNat)

theorem joinWaits_iff {x : Site} : x.joinWaits = true ↔ ∃ e ∈ x.w.frontier, e.park = 0 ∧ e.pc.toNat < x.pc.toNat := by
  simp [Site.joinWaits]

/-- A converged warp waits for nothing. -/
theorem joinWaits_converged {s : State} {len : Nat} {x : Site} {e : Entry} (hx : s.site len = some x)
    (hh : x.handler = false) (one : x.w.frontier = [e]) : x.joinWaits = false := by
  obtain ⟨pc, -⟩ := site_converged hx hh one
  simp [Site.joinWaits, one, pc]

/-- What `join` leaves: in a handler it passes; outside it stays with priority 0 or passes with its own (R146, R150). -/
theorem exec_join {wk q : BitVec 8} {s : State} {x : Site} (h : Issues (.join wk q) s x) :
    exec (.join wk q) s = .next (if x.handler then (x.issued (.join wk q)).done
      else if x.joinWaits then ((x.issued (.join wk q)).atPrio x.prio).leave 0 [(x.mask, .stay 0)]
      else ((x.issued (.join wk q)).atPrio q).leave 0 [(x.mask, .next)]) := by
  refine (issue_of_issues h _).trans ?_
  rw [Site.joinWaits, ← issued_frontier x (.join wk q)]
  exact congrArg _ (ite_congr rfl (fun _ => rfl) fun _ => ite_congr rfl (fun _ => rfl) fun _ => rfl)

/-- What a `join` of priority q leaves of its warp (R146, R150). -/
def Site.joined (x : Site) (q : BitVec 8) (w' : Warp) : Prop :=
  w'.others = x.w.others ∧ (x.handler = true → x.passed w') ∧
    (x.handler = false →
      ((∃ e ∈ x.w.frontier, e.park = 0 ∧ e.pc.toNat < x.pc.toNat) →
        ∀ l, l < 32 → x.mask.getLsbD l = true → w'.stands l = some (x.pc, 0)) ∧
      ((∀ e ∈ x.w.frontier, e.park = 0 → x.pc.toNat ≤ e.pc.toNat) → x.passed w') ∧
      ∀ e, x.w.frontier = [e] → e.mask ≠ 0 → x.after.toNat < x.g.codeEnd.toNat →
        w'.frontier = [⟨x.after, q, e.mask, 0⟩])

theorem does_join (wk q : BitVec 8) : Does (.join wk q) fun x w' => x.joined q w' := by
  intro s x h
  rw [exec_join h]
  cases hh : x.handler with
  | true =>
    rw [if_pos rfl]
    obtain ⟨w', warp, others, passed, kept⟩ := done_spec (w := (x.issued (.join wk q)).w) h.site
      (num_of_others (issued_others x _)) (issued_frontier x _) (by rw [issued_frame])
    exact ⟨_, w', rfl, warp, ⟨others.trans (issued_others x _), fun _ => passed, fun out => by rw [hh] at out; cases out⟩, kept⟩
  | false =>
    rw [if_neg Bool.false_ne_true]
    cases waits : x.joinWaits with
    | true =>
      rw [if_pos rfl]
      obtain ⟨w', warp, way, -, kept⟩ := issued_oneWay h hh x.prio 0 (mv := .stay 0) (by simp)
      refine ⟨_, w', rfl, warp, ⟨way.others, fun inside => ?_, fun _ => ⟨fun _ => way.stands, fun last => ?_,
        fun e one => ?_⟩⟩, kept⟩
      · exact absurd (hh.symm.trans inside) Bool.false_ne_true
      · obtain ⟨e, he, park, lower⟩ := joinWaits_iff.1 waits
        exact absurd lower (Nat.not_lt.2 (last e he park))
      · exact absurd ((joinWaits_converged h.site hh one).symm.trans waits) Bool.false_ne_true
    | false =>
      rw [if_neg Bool.false_ne_true]
      obtain ⟨w', warp, way, frontier, kept⟩ := issued_oneWay h hh q 0 (mv := .next) (by simp)
      refine ⟨_, w', rfl, warp, ⟨way.others, fun inside => ?_, fun _ => ⟨fun lower => ?_, fun _ => ?_,
        fun e one some_lane inside => ?_⟩⟩, kept⟩
      · exact absurd (hh.symm.trans inside) Bool.false_ne_true
      · exact absurd ((joinWaits_iff.2 lower).symm.trans waits) Bool.false_ne_true.symm
      · rw [Site.passed, if_neg (Bool.not_eq_true _ ▸ hh)]
        exact ⟨way.stands, way.kept⟩
      · obtain ⟨-, mask, -⟩ := site_converged h.site hh one
        rw [frontier, move_next_frontier inside, one, mask, dropLanes_converged, addEntry, if_neg some_lane]
        rfl

/-- R120, R146, R150: the priorities of a converged warp's branches, and `join`. -/
theorem branchPriorities : Claims.BranchPriorities := fun wk _ _ q =>
  ⟨does_transfer_converged (fun _ => rfl) fun _ => rfl, does_join wk q⟩

/-- Settles O13: the branches by the parts of `transfer`, each lane of the entry in one of them; the priorities by the one
entry into which the lanes of a converged warp merge. -/
theorem branchTargetsAndPriorities : Obligations.BranchTargetsAndPriorities := ⟨branchTargets, branchPriorities⟩

end Sys2Proof.Machine
end

section
/-! SUPPORT. Where the entries of a frontier hold a lane (R118, R121): what an added entry, lanes taken out and the moves of
an instruction make of it. -/

namespace Sys2Proof.Machine

/-- An entry of the frontier holds lane l at a PC, with a park code. -/
def placed (fr : List Entry) (l : Nat) (r : DWord × BitVec 4) : Prop :=
  ∃ e ∈ fr, e.mask.getLsbD l = true ∧ (e.pc, e.park) = r

theorem placed_cons {e : Entry} {fr : List Entry} {l : Nat} {r : DWord × BitVec 4} :
    placed (e :: fr) l r ↔ (e.mask.getLsbD l = true ∧ (e.pc, e.park) = r) ∨ placed fr l r :=
  List.exists_mem_cons_iff ..

theorem not_placed_nil {l : Nat} {r : DWord × BitVec 4} : ¬ placed [] l r := fun ⟨_, mem, _⟩ => List.not_mem_nil mem

/-- A lane stands where its entries hold it, if they hold it in one place. -/
theorem standsIn_of_placed {fr : List Entry} {l : Nat} {o : Option (DWord × BitVec 4)}
    (h : ∀ r, placed fr l r ↔ o = some r) : standsIn fr l = o := by
  unfold standsIn
  cases found : fr.find? fun e => e.mask.getLsbD l with
  | some e =>
    exact ((h _).1 ⟨e, List.mem_of_find?_eq_some found, List.find?_some (p := fun e : Entry => e.mask.getLsbD l) found,
      rfl⟩).symm
  | none =>
    refine (Option.eq_none_iff_forall_ne_some.2 fun r at_r => ?_).symm
    obtain ⟨e, mem, bit, -⟩ := (h r).2 at_r
    exact List.find?_eq_none.1 found e mem bit

theorem placed_of_stands {w : Warp} {l : Nat} {r : DWord × BitVec 4} (h : w.stands l = some r) : placed w.frontier l r :=
  Warp.stands_mem h

theorem placed_mergeEntry (e : Entry) (l : Nat) (r : DWord × BitVec 4) (fr : List Entry) :
    placed (mergeEntry e fr) l r ↔ placed fr l r ∨ (e.mask.getLsbD l = true ∧ (e.pc, e.park) = r) := by
  induction fr with
  | nil => exact (placed_cons.trans or_comm)
  | cons f t ih =>
    unfold mergeEntry
    split
    · next same =>
      obtain ⟨pc, park⟩ : f.pc = e.pc ∧ f.park = e.park := by simpa using same
      rw [placed_cons, placed_cons, BitVec.getLsbD_or, Bool.or_eq_true, ← pc, ← park]
      tauto
    · rw [placed_cons, placed_cons, ih, or_assoc]

/-- An added entry holds its lanes where it stands; the others stay (R121). -/
theorem placed_addEntry (fr : List Entry) (e : Entry) (l : Nat) (r : DWord × BitVec 4) :
    placed (addEntry fr e) l r ↔ placed fr l r ∨ (e.mask.getLsbD l = true ∧ (e.pc, e.park) = r) := by
  unfold addEntry
  split
  · next empty => simp [empty]
  · exact placed_mergeEntry e l r fr

/-- Lanes taken out are held nowhere; the others stay. -/
theorem placed_dropLanes (fr : List Entry) (m : Mask) {l : Nat} (hl : l < 32) (r : DWord × BitVec 4) :
    placed (dropLanes fr m) l r ↔ placed fr l r ∧ m.getLsbD l = false := by
  induction fr with
  | nil => exact ⟨fun h => absurd h not_placed_nil, fun h => absurd h.1 not_placed_nil⟩
  | cons e t ih =>
    have bit : (e.mask &&& ~~~m).getLsbD l = true ↔ e.mask.getLsbD l = true ∧ m.getLsbD l = false := by
      rw [BitVec.getLsbD_and, BitVec.getLsbD_not]
      simp [hl]
    rw [dropLanes_cons]
    split
    · next empty =>
      rw [empty] at bit
      rw [ih, placed_cons]
      simp only [BitVec.ofNat_eq_ofNat, BitVec.getLsbD_zero, Bool.false_eq_true, false_iff] at bit
      tauto
    · rw [placed_cons, placed_cons, ih, bit]
      tauto

/-- Lanes that move are held where they land, if they do; the others stay (R117, R120, R122). -/
theorem placed_move (x : Site) (w : Warp) (w0 : DWord) (m : Mask) (mv : Move) (l : Nat) (r : DWord × BitVec 4) :
    placed (w.move x.g x.pc x.prio x.len w0 m mv).frontier l r ↔
      placed w.frontier l r ∨ (m.getLsbD l = true ∧ x.landing mv = some r) := by
  have added (pc : DWord) (q : BitVec 8) (k : BitVec 4) :
      placed (addEntry w.frontier ⟨pc, q, m, k⟩) l r ↔
        placed w.frontier l r ∨ (m.getLsbD l = true ∧ some (pc, k) = some r) := by
    rw [placed_addEntry, Option.some_inj]
  unfold Warp.move Site.landing
  split
  · next empty => simp [empty]
  · cases mv with
    | next =>
      by_cases beyond : x.g.codeEnd.toNat ≤ (x.pc + BitVec.ofNat 64 x.len).toNat
      · simp only [Site.after, beyond, if_true, raise_frontier]
        exact added ..
      · simp only [Site.after, beyond, if_false]
        exact added ..
    | goto t p =>
      dsimp only
      split
      · exact added ..
      · rw [raise_frontier]
        exact added ..
    | stay p => exact added ..
    | park c => exact added ..
    | exit => simp [Warp.exitLanes]
    | trap c =>
      dsimp only
      rw [raise_frontier]
      exact added ..
    | replay c => exact added ..

/-- Where the moves of an instruction hold a lane: where it was held outside the entry, and where the parts that hold it
land. -/
theorem placed_moved (x : Site) (w : Warp) (w0 : DWord) (parts : List (Mask × Move)) {l : Nat} (hl : l < 32)
    (r : DWord × BitVec 4) : placed (x.moved w w0 parts).frontier l r ↔
      (placed w.frontier l r ∧ x.mask.getLsbD l = false) ∨
        ∃ p ∈ parts, p.1.getLsbD l = true ∧ x.landing p.2 = some r := by
  rw [← placed_dropLanes _ _ hl]
  unfold Site.moved
  suffices h : ∀ v : Warp, placed (parts.foldl (fun w p => w.move x.g x.pc x.prio x.len w0 p.1 p.2) v).frontier l r ↔
      placed v.frontier l r ∨ ∃ p ∈ parts, p.1.getLsbD l = true ∧ x.landing p.2 = some r from h _
  induction parts with
  | nil => simp
  | cons p t ih =>
    intro v
    rw [List.foldl_cons, ih, placed_move, List.exists_mem_cons_iff, or_assoc]

/-- A lane of the entry stands where the parts that hold it land. -/
theorem moved_stands {x : Site} {w : Warp} {w0 : DWord} {parts : List (Mask × Move)} {l : Nat}
    {o : Option (DWord × BitVec 4)} (hl : l < 32) (entry : x.mask.getLsbD l = true)
    (h : ∀ r, (∃ p ∈ parts, p.1.getLsbD l = true ∧ x.landing p.2 = some r) ↔ o = some r) :
    (x.moved w w0 parts).stands l = o :=
  standsIn_of_placed fun r => by
    rw [placed_moved x w w0 parts hl, ← h, entry]
    simp

/-- A mask gathered from a list holds the lanes that one of its members that count gives. -/
theorem foldl_or_bit {α : Type} (c : α → Prop) [DecidablePred c] (g : α → Mask) (l : Nat) (xs : List α) (m : Mask) :
    (xs.foldl (fun m a => if c a then m ||| g a else m) m).getLsbD l = true ↔
      m.getLsbD l = true ∨ ∃ a ∈ xs, c a ∧ (g a).getLsbD l = true := by
  induction xs generalizing m with
  | nil => simp
  | cons a t ih =>
    rw [List.foldl_cons, ih, List.exists_mem_cons_iff]
    by_cases ha : c a
    · simp [ha, or_assoc]
    · simp [ha]

end Sys2Proof.Machine
end

section
/-! SUPPORT. How a commit point leaves whose lanes may exit (R116, R132, R325), and the calls of a warp whose call stack
lies in the core: what a push adds and what each lane's pop takes (R129 to R132). -/

namespace Sys2Proof.Machine

/- ### Leaving at a commit point -/

/-- A warp without what the lanes that exit change beside where lanes stand (R116, R132). -/
def Warp.stackless (w : Warp) : Warp := { w.others with cs := [], exited := 0 }

theorem others_of_stackless {w w' : Warp} (h : w'.stackless = w.stackless) :
    w'.others = { w with cs := w'.cs, exited := w'.exited }.others :=
  congrArg (fun u : Warp => { u with cs := w'.cs, exited := w'.exited }) h

theorem move_stackless (w : Warp) (g : Grid) (pc : DWord) (prio : BitVec 8) (len : Nat) (w0 : DWord) (m : Mask)
    (mv : Move) :
    (w.move g pc prio len w0 m mv).stackless = w.stackless := by
  by_cases exits : mv = .exit
  · subst exits
    unfold Warp.move
    split
    · rfl
    · rfl
  · exact congrArg (fun u : Warp => { u with cs := [], exited := 0 }) (move_others w g pc prio len w0 m mv exits)

/-- Moves leave every register as it was, but for the call stack and the lanes exited. -/
theorem moved_stackless (x : Site) (w : Warp) (w0 : DWord) (parts : List (Mask × Move)) :
    (x.moved w w0 parts).stackless = w.stackless := by
  unfold Site.moved
  suffices h : ∀ v : Warp, v.stackless = w.stackless →
      (parts.foldl (fun w p => w.move x.g x.pc x.prio x.len w0 p.1 p.2) v).stackless = w.stackless from h _ rfl
  induction parts with
  | nil => exact fun _ h => h
  | cons p t ih => exact fun v hv => ih _ ((move_stackless ..).trans hv)

/-- w' is what a commit point leaves of the warp u that its lanes' moves gave: the next region has begun. -/
structure Site.begun (x : Site) (u w' : Warp) : Prop where
  stands : ∀ l, w'.stands l = u.stands l
  cs : w'.cs = u.cs
  exited : w'.exited = u.exited
  base : w'.base = u.base
  committed : x.committed w' (some x.after)

/-- A commit point leaves with a warp that its own effect gave from the light commit, changed in the call stack alone. -/
theorem leaveCommit_begins {s : State} {len : Nat} {x : Site} {w : Warp} (hx : s.site len = some x) (hh : x.handler = false)
    (same : w.stackless = x.afterLight.w.stackless) (w0 : DWord) (parts : List (Mask × Move)) :
    ∃ w', ((x.withW w).leaveCommit false w0 parts).warpAt s.cur = some w' ∧ x.begun (x.moved w w0 parts) w' ∧
      OthersKept s ((x.withW w).leaveCommit false w0 parts) := by
  let u := x.moved w w0 parts
  have kept {β : Type} (f : Warp → β) (hf : ∀ v : Warp, f v.stackless = f v) : f u = f x.afterLight.w := by
    rw [← hf u, ← hf x.afterLight.w, ← same]
    exact congrArg f (moved_stackless x w w0 parts)
  have num : w.stackless.num = x.afterLight.w.stackless.num := congrArg Warp.num same
  obtain ⟨warp, others_kept⟩ := leaveCommit_spec (w := w) hx hh (num.trans (afterLight_num x)) false w0 parts
  let w' := (u.beginRegion (x.off x.after)).takeTrap x.g.img.desc.trapent
  have others : w'.others = (u.beginRegion (x.off x.after)).others := takeTrap_others _ _
  refine ⟨w', warp, ⟨fun l => congrArg (standsIn · l) (takeTrap_frontier _ _), (of_others Warp.cs others).trans rfl,
    (of_others Warp.exited others).trans rfl, (base_of_others others).trans (begin_base u false _), ?_⟩, others_kept⟩
  refine committed_of_moved (u := u) false ?_ ?_
  · rw [kept Warp.flags fun _ => rfl]
    exact afterLight_flags x
  · rw [kept Warp.loads fun _ => rfl]
    exact afterLight_loads x

/-- What a commit leaves of the registers, of a warp whose call stack and lanes exited its own effect may change. -/
theorem Site.begun.base_kept {x : Site} {w w' : Warp} {w0 : DWord} {parts : List (Mask × Move)}
    (h : x.begun (x.moved w w0 parts) w') (same : w.stackless = x.afterLight.w.stackless) :
    w'.base = { x.w with cs := w'.cs, exited := w'.exited }.base := by
  have others := others_of_stackless ((moved_stackless x w w0 parts).trans same)
  rw [h.base, base_of_others others, h.cs, h.exited]
  exact congrArg (fun v : Warp => { v with cs := (x.moved w w0 parts).cs, exited := (x.moved w w0 parts).exited })
    (afterLight_base x)

/- ### The calls of a lane -/

/-- What a lane's calls in a call stack return to, newest first (R129). -/
def callsIn (cs : List CallEntry) (l : Nat) : List (BitVec 8 × Word) :=
  (cs.filter fun e => e.pend.getLsbD l).map fun e => (e.prio, smGet 0 e.retoff l)

theorem Warp.calls_eq (w : Warp) (l : Nat) : w.calls l = callsIn w.cs l := rfl

theorem callsIn_cons (e : CallEntry) (cs : List CallEntry) (l : Nat) :
    callsIn (e :: cs) l = if e.pend.getLsbD l then (e.prio, smGet 0 e.retoff l) :: callsIn cs l else callsIn cs l := by
  unfold callsIn
  rw [List.filter_cons]
  split
  · rfl
  · rfl

/-- Entries that hold no lane hold no call (R131). -/
theorem callsIn_filter (cs : List CallEntry) (l : Nat) : callsIn (cs.filter fun e => e.pend != 0) l = callsIn cs l := by
  unfold callsIn
  rw [List.filter_filter]
  congr 2
  funext e
  refine Bool.and_eq_left_iff_imp.2 fun bit => bne_iff_ne.2 fun zero => ?_
  simp [zero] at bit

/-- The newest call of a lane is that of the newest entry that holds it. -/
theorem callsIn_head (cs : List CallEntry) (l : Nat) :
    (callsIn cs l).head? = (cs.find? fun e => e.holds l).map fun e => (e.prio, smGet 0 e.retoff l) := by
  rw [callsIn, List.head?_map, List.head?_filter]
  rfl

theorem CallEntry.drop_bit (e : CallEntry) {l k : Nat} (hk : k < 32) :
    (e.drop l).pend.getLsbD k = (e.pend.getLsbD k && !decide (k = l)) := by
  show (e.pend &&& ~~~laneBit l).getLsbD k = _
  rw [BitVec.getLsbD_and, BitVec.getLsbD_not, laneBit_bit l k hk]
  simp [hk]

/-- A lane taken out of the newest entry that holds it has that call no more; the calls of the others stay (R131). -/
theorem callsIn_drop (l : Nat) {k : Nat} (hk : k < 32) (cs : List CallEntry) :
    callsIn (cs.modify (cs.findIdx fun e => e.holds l) fun e => e.drop l) k =
      if k = l then (callsIn cs k).tail else callsIn cs k := by
  induction cs with
  | nil => simp [callsIn]
  | cons e t ih =>
    rw [List.findIdx_cons]
    cases holds : e.holds l with
    | true =>
      rw [cond_true, List.modify_zero_cons, callsIn_cons, callsIn_cons, CallEntry.drop_bit e hk]
      by_cases same : k = l
      · subst same
        have held : e.pend.getLsbD k = true := holds
        rw [if_pos rfl, if_pos held, if_neg (by simp)]
        rfl
      · rw [if_neg same, decide_eq_false same, Bool.not_false, Bool.and_true]
        rfl
    | false =>
      rw [cond_false, List.modify_succ_cons, callsIn_cons, callsIn_cons, ih]
      by_cases same : k = l
      · subst same
        have lacks : ¬ e.pend.getLsbD k = true := Bool.eq_false_iff.1 holds
        rw [if_neg lacks, if_neg lacks]
      · rw [if_neg same, if_neg same]

/-- An offset written for some lanes reads back in them (R130). -/
theorem smGet_lanes (p : Nat → Bool) (v : Word) {l : Nat} (hl : l < 32) (hp : p l = true) :
    smGet 0 (lanes.foldl (fun m l => if p l then smSet 0 m l v else m) []) l = v := by
  suffices h : ∀ (ls : List Nat) (m : List (Nat × Word)), (l ∈ ls ∨ smGet 0 m l = v) →
      smGet 0 (ls.foldl (fun m l => if p l then smSet 0 m l v else m) m) l = v from
    h lanes [] (.inl (List.mem_range.2 hl))
  intro ls
  induction ls with
  | nil => exact fun m h => h.resolve_left (List.not_mem_nil)
  | cons k t ih =>
    intro m h
    refine ih _ ?_
    by_cases same : k = l
    · subst same
      dsimp only
      rw [if_pos hp]
      exact .inr (smGet_set_self ..)
    · refine h.imp (fun mem => (List.mem_cons.1 mem).resolve_left (Ne.symm same)) fun at_l => ?_
      dsimp only
      split
      · exact (smGet_set_ne _ _ _ (Ne.symm same)).trans at_l
      · exact at_l

/- ### A call stack that lies in the core -/

/-- A warp with another call stack in the core. -/
def Warp.withStack (w : Warp) (cs : List CallEntry) : Warp := { w with cs := cs }

theorem trimArea_of_empty {x : Site} (area : x.w.csM = 0) (n : Nat) : Site.trimArea n x = x := by
  cases n with
  | zero => rfl
  | succ n => exact if_pos area

/-- With no entry in the area a call stack is ready as it stands (R131). -/
theorem stackReady_of_empty {x : Site} (area : x.w.csM = 0) : x.stackReady = x := by
  have filled : Site.refill 4 x = x := by
    unfold Site.refill
    rw [trimArea_of_empty area]
    exact if_pos (.inl area)
  unfold Site.stackReady
  rw [filled]
  exact trimArea_of_empty area _

/-- A push onto fewer than 4 entries stays in the core (R130). -/
theorem push_of_room {x : Site} (room : x.w.cs.length < 4) (e : CallEntry) :
    x.push e = x.withW (x.w.withStack (e :: x.w.cs)) := by
  unfold Site.push
  rw [List.drop_eq_nil_of_le (Nat.le_of_lt_succ room)]
  rfl

theorem afterLight_csM (x : Site) : x.afterLight.w.csM = x.w.csM := by
  rw [afterLight_field Warp.csM fun _ _ => rfl]
  cases x.inRegion <;> rfl

theorem afterLight_cs (x : Site) : x.afterLight.w.cs = x.w.cs := by
  rw [afterLight_field Warp.cs fun _ _ => rfl]
  cases x.inRegion <;> rfl

theorem afterLight_exited (x : Site) : x.afterLight.w.exited = x.w.exited := by
  rw [afterLight_field Warp.exited fun _ _ => rfl]
  cases x.inRegion <;> rfl

theorem afterLight_acting (x : Site) (c : Ctl) : x.afterLight.acting c = x.acting c :=
  acting_withW x c ((npeTick_field Warp.p (fun _ _ => rfl) _).trans (lightCommit_p _ _))

end Sys2Proof.Machine
end

section
/-! SUPPORT. `call`, `callx` and `ret` (R116, R130 to R132, R147, R148) with a call stack that lies in the core: the entry
that a call pushes, what the acting lanes of a `ret` pop, and the statement about both. -/

namespace Sys2Proof.Machine

/- ### Calls -/

/-- The entry that a call pushes for the lanes of m (R130). -/
def Site.callEntry (x : Site) (m : Mask) : CallEntry :=
  { pend := m, prio := x.prio
    retoff := lanes.foldl (fun o l => if m.getLsbD l then smSet 0 o l (x.off x.after) else o) [] }

/-- The call stack after a call of the lanes of m, where fewer than 4 entries were held (R130). -/
def Site.called (x : Site) (m : Mask) : List CallEntry := if m = 0 then x.w.cs else x.callEntry m :: x.w.cs

theorem callsIn_called (x : Site) (m : Mask) {l : Nat} (hl : l < 32) : callsIn (x.called m) l =
    if m.getLsbD l then (x.prio, x.off x.after) :: x.w.calls l else x.w.calls l := by
  unfold Site.called
  split
  · next none_goes => simp [none_goes, Warp.calls_eq]
  · rw [callsIn_cons]
    show (if m.getLsbD l then _ else _) = _
    split
    · next goes => exact congrArg (fun r => (x.prio, r) :: x.w.calls l) (smGet_lanes _ _ hl goes)
    · rfl

/-- The lanes of m that a call sends to a legal target. -/
def Site.callers (x : Site) (m : Mask) (t : Nat → DWord) : Mask := maskOf fun l => m.getLsbD l && x.g.legalPc (t l)

/-- The entry pushed, or not where no lane goes. -/
theorem push_callEntry {x : Site} (room : x.w.cs.length < 4) (m : Mask) :
    (if m = 0 then x else x.push (x.callEntry m)) = x.withW (x.w.withStack (x.called m)) := by
  unfold Site.called
  split
  · rfl
  · rw [push_of_room room]

theorem stackFull_of_room {x : Site} (area : x.w.csM = 0) (room : x.w.cs.length < 4) : x.stackFull = false := by
  unfold Site.stackFull
  rw [stackReady_of_empty area]
  dsimp only
  rw [decide_eq_false (Nat.not_le.2 room), Bool.false_and]

/-- How a call leaves: with its entry pushed, the lanes as from a branch (R130, R147). -/
def Site.callLeaves (x : Site) (w0 : DWord) (m : Mask) (t : Nat → DWord) (prio : Option (BitVec 8)) : State :=
  (x.withW (x.w.withStack (x.called (x.callers m t)))).leaveCommit false w0 (x.transfer w0 m t prio)

theorem callLeaves_afterLight (x : Site) (w0 : DWord) (m : Mask) (t : Nat → DWord) (prio : Option (BitVec 8)) :
    x.afterLight.callLeaves w0 m t prio =
      (x.withW (x.afterLight.w.withStack (x.called (x.callers m t)))).leaveCommit false w0 (x.transfer w0 m t prio) := by
  have stack : x.afterLight.called (x.callers m t) = x.called (x.callers m t) := by
    unfold Site.called
    rw [afterLight_cs]
    rfl
  rw [← stack]
  rfl

/-- A call as it runs where the core has room for its entry: the region commits first (R130, R147). -/
theorem callCommon_eq {i : Instr} {c : Ctl} {t : Site → Nat → DWord} {prio : Option (BitVec 8)} {s : State} {x : Site}
    (h : Issues i s x) (light : x.light) (area : x.w.csM = 0) (room : x.w.cs.length < 4) : callCommon i c t prio s =
      .next (x.afterLight.callLeaves (instrW0 i) (x.afterLight.acting c) (t x.afterLight) prio) := by
  unfold callCommon
  simp only [h.site, Option.any_some, stackFull_of_room area room, Bool.and_false, Bool.false_eq_true, if_false]
  rw [issueCommit_light h light]
  have area' := (afterLight_csM x).trans area
  have room' : x.afterLight.w.cs.length < 4 := by
    rw [afterLight_cs]
    exact room
  generalize x.afterLight = y at area' room'
  unfold Site.callLeaves
  rw [← push_callEntry room', stackReady_of_empty area']
  rfl

/-- What a call leaves: its lanes have gone, the region has committed, and the entry is on the call stack. -/
def Site.pushes (x : Site) (w' : Warp) (m : Mask) (t : Nat → DWord) : Prop :=
  x.went w' m t ∧ x.committed w' (some x.after) ∧ w'.base = { x.w with cs := w'.cs }.base ∧
  ∀ l, l < 32 → w'.calls l = if m.getLsbD l && x.g.legalPc (t l) then (x.prio, x.off x.after) :: x.w.calls l
    else x.w.calls l

/-- The core has room for an entry and the area holds none. -/
def Site.callRoom (x : Site) : Prop := x.light ∧ x.w.csM = 0 ∧ x.w.cs.length < 4

theorem callCommon_pushes {i : Instr} {c : Ctl} {t : Site → Nat → DWord} {prio : Option (BitVec 8)} {s : State} {x : Site}
    (h : Issues i s x) (hi : handlerIllegal i = true) (room : x.callRoom) (ht : t x.afterLight = t x) :
    ∃ u w', callCommon i c t prio s = .next u ∧ u.warpAt s.cur = some w' ∧ x.pushes w' (x.acting c) (t x) ∧
      OthersKept s u := by
  obtain ⟨light, area, few⟩ := room
  have hh := notHandler h hi
  let w : Warp := (x.afterLight.w.withStack (x.called (x.callers (x.acting c) (t x))))
  let parts := x.transfer (instrW0 i) (x.acting c) (t x) prio
  have sends : x.Sends parts (x.acting c) (t x) := transfer_sends (fun l => acting_sub x c (l := l)) _ _ _
  have stays : (x.moved w (instrW0 i) parts).others = w.others :=
    moved_others x w _ parts fun p hp => (sends.kinds p hp).1
  obtain ⟨w', warp, begun, kept⟩ := leaveCommit_begins (w := w) h.site hh rfl (instrW0 i) parts
  have exited : w'.exited = x.w.exited :=
    (begun.exited.trans (of_others Warp.exited stays)).trans (afterLight_exited x)
  have cs : w'.cs = x.called (x.callers (x.acting c) (t x)) := begun.cs.trans (of_others Warp.cs stays)
  have run : callCommon i c t prio s = .next ((x.withW w).leaveCommit false (instrW0 i) parts) := by
    rw [callCommon_eq h light area few, afterLight_acting x c, ht, callLeaves_afterLight]
  refine ⟨_, w', run, warp, ⟨?_, begun.committed, ?_, fun l hl => ?_⟩, kept⟩
  · rw [Site.went, if_neg (Bool.not_eq_true _ ▸ hh)]
    refine ⟨fun l hl entry => ?_, fun l hl out => ?_⟩
    · obtain ⟨a, k, mv, b, split, bit, before, behind, sent⟩ := sends.one l hl entry
      rw [begun.stands, split]
      exact (moved_stands_in hl entry bit before behind).trans sent.landing
    · refine (begun.stands l).trans ((moved_stands_out hl out fun p hp => ?_).trans ?_)
      · rw [← Bool.not_eq_true]
        exact fun bit => absurd (out.symm.trans (sends.sub p hp l bit)) Bool.false_ne_true
      · exact congrArg (standsIn · l) (afterLight_frontier x)
  · rw [begun.base_kept rfl, exited]
  · rw [Warp.calls_eq, cs, callsIn_called x _ hl, Site.callers, maskOf_bit _ l hl]

/-- The first part of O14. -/
theorem callsPush : Claims.CallsPush := fun c off o24 o32 a p =>
  ⟨fun _ _ h room => callCommon_pushes (c := Ctl.none) h rfl room rfl,
    fun _ _ h room => callCommon_pushes (c := Ctl.none) h rfl room rfl,
    fun _ _ h room => callCommon_pushes h rfl room rfl,
    fun _ x (h : Issues (.callx c a p) _ x) room => by
      have target : (fun l => x.g.cb + (x.w.vget a.toNat l).setWidth 64) =
          fun l => x.g.cb + (0#32 ++ x.w.vget a.toNat l) :=
        funext fun l => congrArg _ (BitVec.setWidth_eq_append (by decide))
      have same : (fun l => x.g.cb + (0#32 ++ x.afterLight.w.vget a.toNat l)) =
          fun l => x.g.cb + (0#32 ++ x.w.vget a.toNat l) := by
        funext l
        rw [afterLight_field (fun w => w.vget a.toNat l) fun _ _ => rfl]
        cases x.inRegion <;> rfl
      have run := callCommon_pushes (c := c) (prio := p) (t := fun x l => x.g.cb + (0#32 ++ x.w.vget a.toNat l))
        h rfl room same
      rw [← target] at run
      exact run⟩

/- ### What the lanes of a `ret` pop -/

/-- Where a return offset leads. -/
def Site.returnPc (x : Site) (off : Word) : DWord := x.g.cb + off.setWidth 64

/-- The call stack without lane l in the newest entry that holds it; an entry whose return lies outside the code keeps it
(R117, R131). -/
def Site.popStack (x : Site) (cs : List CallEntry) (l : Nat) : List CallEntry :=
  if (callsIn cs l).head?.any fun r => x.g.legalPc (x.returnPc r.2) then
    cs.modify (cs.findIdx fun e => e.holds l) fun e => e.drop l
  else cs

/-- How a lane with these calls leaves a `ret`: to its newest return with that entry's priority, or it exits (R116, R131). -/
def Site.returnMove (x : Site) : Option (BitVec 8 × Word) → Move
  | some r => .goto (x.returnPc r.2) (some r.1)
  | none => .exit

theorem callsIn_popStack (x : Site) (cs : List CallEntry) (l : Nat) {k : Nat} (hk : k < 32) :
    callsIn (x.popStack cs l) k =
      if k = l ∧ ((callsIn cs l).head?.any fun r => x.g.legalPc (x.returnPc r.2)) = true then (callsIn cs k).tail
      else callsIn cs k := by
  unfold Site.popStack
  split
  · next legal => simp only [callsIn_drop l hk, legal, and_true]
  · next illegal => rw [if_neg fun h => illegal h.2]

/-- A lane's pop where every entry is held in the core (R131). -/
theorem popLane_eq {x : Site} (area : x.w.csM = 0) (l : Nat) : x.popLane l =
    (x.withW (x.w.withStack (x.popStack x.w.cs l)), x.returnMove (x.w.calls l).head?) := by
  have target (off : Word) : x.g.cb + (0#32 ++ off) = x.returnPc off :=
    congrArg _ (BitVec.setWidth_eq_append (by decide)).symm
  unfold Site.popLane Site.popStack
  rw [Warp.calls_eq, callsIn_head]
  cases x.w.cs.find? fun e => e.holds l with
  | none =>
    have none_there : x.areaFind l x.w.csM = none := by
      rw [area]
      rfl
    dsimp only
    rw [none_there]
    rfl
  | some e =>
    simp only [target, Option.map_some, Option.any_some]
    by_cases legal : x.g.legalPc (x.returnPc (smGet 0 e.retoff l)) = true
    · rw [if_neg (by simpa using legal), if_pos legal]
      rfl
    · rw [if_pos (by simpa using legal), if_neg legal]
      rfl

/-- The parts in which the lanes of m return or exit, lane by lane. -/
def Site.returns (x : Site) (m : Mask) : List (Mask × Move) :=
  (lanes.filter fun l => m.getLsbD l).map fun l => (laneBit l, x.returnMove (x.w.calls l).head?)

/-- The pops of several lanes, one after the other: each lane finds the calls that it had. -/
theorem foldl_popLane {x : Site} (area : x.w.csM = 0) {ls : List Nat} (once : ls.Nodup) (below : ∀ l ∈ ls, l < 32) :
    ∀ (cs : List CallEntry) (acc : List (Mask × Move)), (∀ l ∈ ls, callsIn cs l = x.w.calls l) →
      ls.foldl (fun r l =>
        let p := r.1.popLane l
        (p.1, r.2 ++ [(laneBit l, p.2)])) (x.withW (x.w.withStack cs), acc) =
      (x.withW (x.w.withStack (ls.foldl x.popStack cs)),
        acc ++ ls.map fun l => (laneBit l, x.returnMove (x.w.calls l).head?)) := by
  induction ls with
  | nil => simp
  | cons l t ih =>
    intro cs acc same
    have pop := popLane_eq (x := x.withW (x.w.withStack cs)) area l
    rw [show (x.withW (x.w.withStack cs)).w.calls l = x.w.calls l from same l List.mem_cons_self] at pop
    rw [List.foldl_cons, pop]
    refine (ih once.of_cons (fun k hk => below k (List.mem_cons_of_mem _ hk)) (x.popStack cs l) _ fun k hk => ?_).trans ?_
    · rw [callsIn_popStack x cs l (below k (List.mem_cons_of_mem _ hk)), if_neg, same k (List.mem_cons_of_mem _ hk)]
      rintro ⟨rfl, -⟩
      exact (List.nodup_cons.1 once).1 hk
    · rw [List.append_assoc]
      rfl

/-- The calls that are left once several lanes have popped. -/
theorem callsIn_foldl_popStack (x : Site) {ls : List Nat} (once : ls.Nodup) {k : Nat} (hk : k < 32) :
    ∀ cs : List CallEntry, callsIn (ls.foldl x.popStack cs) k =
      if k ∈ ls ∧ ((callsIn cs k).head?.any fun r => x.g.legalPc (x.returnPc r.2)) = true then (callsIn cs k).tail
      else callsIn cs k := by
  induction ls with
  | nil => simp
  | cons l t ih =>
    intro cs
    obtain ⟨apart, once⟩ := List.nodup_cons.1 once
    rw [List.foldl_cons, ih once, callsIn_popStack x cs l hk]
    by_cases same : k = l
    · subst same
      simp [apart]
    · simp [same]

/-- Whether a move leads outside the code (R117). -/
def Site.strays (x : Site) : Move → Bool
  | .goto t _ => !x.g.legalPc t
  | _ => false

/-- The lanes of m whose newest return lies outside the code. -/
def Site.strayLanes (x : Site) (m : Mask) : Mask :=
  (x.returns m).foldl (fun k p =>
    match p.2 with
    | .goto t _ => if x.g.legalPc t then k else k ||| p.1
    | _ => k) 0

/-- The lanes of m that exit: those that no entry holds (R131 step 1). -/
def Site.exiting (x : Site) (m : Mask) : Mask := (x.returns m).foldl (fun k p => if p.2 = .exit then k ||| p.1 else k) 0

/-- The lanes of m one by one, each with its move. -/
theorem exists_returns {x : Site} {m : Mask} {l : Nat} (hl : l < 32) {q : Move → Prop} :
    (∃ p ∈ x.returns m, q p.2 ∧ p.1.getLsbD l = true) ↔ q (x.returnMove (x.w.calls l).head?) ∧ m.getLsbD l = true := by
  unfold Site.returns
  simp only [List.mem_map, List.mem_filter, lanes, List.mem_range]
  constructor
  · rintro ⟨_, ⟨k, ⟨-, bit⟩, rfl⟩, hq, at_l⟩
    obtain rfl : l = k := by simpa [laneBit_bit k l hl] using at_l
    exact ⟨hq, bit⟩
  · rintro ⟨hq, bit⟩
    exact ⟨_, ⟨l, ⟨hl, bit⟩, rfl⟩, hq, by simp [laneBit_bit l l hl]⟩

theorem strayLanes_bit (x : Site) (m : Mask) {l : Nat} (hl : l < 32) : (x.strayLanes m).getLsbD l = true ↔
    x.strays (x.returnMove (x.w.calls l).head?) = true ∧ m.getLsbD l = true := by
  have by_move : x.strayLanes m = (x.returns m).foldl (fun k p => if x.strays p.2 = true then k ||| p.1 else k) 0 := by
    unfold Site.strayLanes
    congr 1
    funext k p
    cases p.2 with
    | goto t q => cases legal : x.g.legalPc t <;> simp [Site.strays, legal]
    | _ => rfl
  rw [by_move, foldl_or_bit, ← exists_returns hl (q := fun mv => x.strays mv = true)]
  simp

theorem exiting_bit (x : Site) (m : Mask) {l : Nat} (hl : l < 32) :
    (x.exiting m).getLsbD l = true ↔ x.w.calls l = [] ∧ m.getLsbD l = true := by
  have exits : x.returnMove (x.w.calls l).head? = .exit ↔ x.w.calls l = [] := by
    cases x.w.calls l with
    | nil => simp [Site.returnMove]
    | cons r t => simp [Site.returnMove]
  unfold Site.exiting
  rw [foldl_or_bit, exists_returns hl (q := fun mv => mv = .exit), exits]
  simp

/-- The parts in which a `ret` leaves: the lanes that do not act go on, those that stray trap, the others return or exit
(R117, R131, R148). -/
def Site.returnParts (x : Site) (w0 : DWord) (m : Mask) : List (Mask × Move) :=
  (x.mask &&& ~~~m, .next) :: (x.strayLanes m, .trap (Cause.one .illop w0)) ::
    (x.returns m).map fun p => (p.1 &&& ~~~x.strayLanes m, p.2)

/-- Where a `ret` leaves a lane of the entry, its calls given (R131, R148). -/
def Site.returnStand (x : Site) (o : Option (BitVec 8 × Word)) : Option (DWord × BitVec 4) :=
  o.map fun r => if x.g.legalPc (x.returnPc r.2) then (x.returnPc r.2, 0) else (x.pc, 2)

theorem landing_returnMove (x : Site) (o : Option (BitVec 8 × Word)) : x.landing (x.returnMove o) = x.returnStand o := by
  cases o with
  | none => rfl
  | some r => exact (apply_ite some ..).symm

/-- A lane that strays stands where its trap parks it. -/
theorem returnStand_of_strays {x : Site} {o : Option (BitVec 8 × Word)} (h : x.strays (x.returnMove o) = true) :
    x.returnStand o = some (x.pc, 2) := by
  cases o with
  | none => cases h
  | some r =>
    have illegal : ¬ x.g.legalPc (x.returnPc r.2) = true := by simpa [Site.returnMove, Site.strays] using h
    exact congrArg some (if_neg illegal)

/-- A part of a `ret` without the lanes that stray. -/
theorem exists_keptReturns {x : Site} {m k : Mask} {l : Nat} (hl : l < 32) {q : Move → Prop} :
    (∃ p ∈ (x.returns m).map (fun p => (p.1 &&& ~~~k, p.2)), q p.2 ∧ p.1.getLsbD l = true) ↔
      (q (x.returnMove (x.w.calls l).head?) ∧ m.getLsbD l = true) ∧ k.getLsbD l = false := by
  rw [← exists_returns hl]
  simp [hl]
  tauto

theorem returnParts_lands {x : Site} (w0 : DWord) (m : Mask) {l : Nat} (hl : l < 32) (entry : x.mask.getLsbD l = true)
    (r : DWord × BitVec 4) :
    (∃ p ∈ x.returnParts w0 m, p.1.getLsbD l = true ∧ x.landing p.2 = some r) ↔
      (if m.getLsbD l then x.returnStand (x.w.calls l).head? else x.landing .next) = some r := by
  have returned := exists_keptReturns (x := x) (m := m) (k := x.strayLanes m) hl (q := fun mv => x.landing mv = some r)
  have stray := strayLanes_bit x m hl
  unfold Site.returnParts
  rw [List.exists_mem_cons_iff, List.exists_mem_cons_iff, not_taken_bit, entry, stray]
  simp only [and_comm (b := x.landing _ = _)] at returned ⊢
  rw [returned, landing_returnMove, ← Bool.not_eq_true, stray]
  cases acts : m.getLsbD l with
  | false => simp
  | true =>
    have parks : x.landing (.trap (Cause.one .illop w0)) = some (x.pc, 2) := rfl
    by_cases strays : x.strays (x.returnMove (x.w.calls l).head?) = true
    · simp [strays, returnStand_of_strays strays, parks]
    · simp [strays]

/- ### Moves of which some exit -/

theorem move_exited (w : Warp) (g : Grid) (pc : DWord) (prio : BitVec 8) (len : Nat) (w0 : DWord) (m : Mask) (mv : Move) :
    (w.move g pc prio len w0 m mv).exited = if mv = .exit then w.exited ||| m else w.exited := by
  split
  · next exits =>
    subst exits
    unfold Warp.move
    split
    · next empty =>
      rw [empty]
      exact BitVec.or_zero.symm
    · rfl
  · next stays => exact of_others Warp.exited (move_others w g pc prio len w0 m mv stays)

/-- The lanes exited after the moves of an instruction (R116). -/
theorem moved_exited (x : Site) (w : Warp) (w0 : DWord) (parts : List (Mask × Move)) (l : Nat) :
    (x.moved w w0 parts).exited.getLsbD l = true ↔
      w.exited.getLsbD l = true ∨ ∃ p ∈ parts, p.2 = .exit ∧ p.1.getLsbD l = true := by
  rw [← foldl_or_bit]
  unfold Site.moved
  suffices h : ∀ v : Warp, (parts.foldl (fun w p => w.move x.g x.pc x.prio x.len w0 p.1 p.2) v).exited =
      parts.foldl (fun m p => if p.2 = .exit then m ||| p.1 else m) v.exited by rw [h]
  induction parts with
  | nil => exact fun _ => rfl
  | cons p t ih => exact fun v => (ih _).trans (by rw [List.foldl_cons, move_exited])

/-- Lanes that exit with no call held leave every call as it was (R132). -/
theorem moved_calls (x : Site) (w : Warp) (w0 : DWord) {parts : List (Mask × Move)} {l : Nat} (hl : l < 32)
    (free : ∀ p ∈ parts, p.2 = .exit → p.1.getLsbD l = true → w.calls l = []) :
    (x.moved w w0 parts).calls l = w.calls l := by
  unfold Site.moved
  suffices h : ∀ v : Warp, v.calls l = w.calls l →
      (parts.foldl (fun w p => w.move x.g x.pc x.prio x.len w0 p.1 p.2) v).calls l = w.calls l from h _ rfl
  induction parts with
  | nil => exact fun _ h => h
  | cons p t ih =>
    intro v same
    refine ih (fun q hq => free q (List.mem_cons_of_mem _ hq)) _ ?_
    by_cases exits : p.2 = .exit
    · dsimp only
      rw [exits]
      unfold Warp.move
      split
      · exact same
      · refine (calls_csClear v p.1 hl).trans ?_
        split
        · next bit => exact (free p List.mem_cons_self exits bit).symm
        · exact same
    · exact (of_others (fun u => u.calls l) (move_others v x.g x.pc x.prio x.len w0 p.1 p.2 exits)).trans same

/- ### `ret` -/

/-- The call stack once the lanes of m have popped. -/
def Site.returned (x : Site) (m : Mask) : List CallEntry :=
  ((lanes.filter fun l => m.getLsbD l).foldl x.popStack x.w.cs).filter fun e => e.pend != 0

theorem callsIn_returned (x : Site) (m : Mask) {l : Nat} (hl : l < 32) : callsIn (x.returned m) l =
    if m.getLsbD l && (x.w.calls l).head?.any (fun r => x.g.legalPc (x.returnPc r.2)) then (x.w.calls l).tail
    else x.w.calls l := by
  have once : (lanes.filter fun l => m.getLsbD l).Nodup := List.nodup_range.filter _
  unfold Site.returned
  rw [callsIn_filter, callsIn_foldl_popStack x once hl]
  simp [lanes, hl, Warp.calls_eq]

/-- The pops of a `ret` where no entry is in the area. -/
theorem foldl_popLane_returns {x : Site} (m : Mask) (area : x.w.csM = 0) :
    (lanes.filter fun l => m.getLsbD l).foldl (fun r l =>
        let p := r.1.popLane l
        (p.1, r.2 ++ [(laneBit l, p.2)])) (x.stackReady, []) =
      (x.withW (x.w.withStack ((lanes.filter fun l => m.getLsbD l).foldl x.popStack x.w.cs)), x.returns m) := by
  have below : ∀ l ∈ lanes.filter fun l => m.getLsbD l, l < 32 := fun l hl => List.mem_range.1 (List.mem_of_mem_filter hl)
  rw [stackReady_of_empty area]
  exact foldl_popLane area (List.nodup_range.filter _) below x.w.cs [] fun _ _ => rfl

/-- How a `ret` leaves: with its calls popped (R131, R148). -/
def Site.retLeaves (x : Site) (w0 : DWord) (m : Mask) : State :=
  (x.withW (x.w.withStack (x.returned m))).leaveCommit false w0 (x.returnParts w0 m)

/-- The calls of the lanes decide how they return. -/
theorem returns_withW (x : Site) {w : Warp} (m : Mask) (cs : w.cs = x.w.cs) : (x.withW w).returns m = x.returns m := by
  unfold Site.returns
  simp only [Warp.calls_eq, show (x.withW w).w.cs = x.w.cs from cs]
  rfl

theorem retLeaves_afterLight (x : Site) (w0 : DWord) (m : Mask) : x.afterLight.retLeaves w0 m =
    (x.withW (x.afterLight.w.withStack (x.returned m))).leaveCommit false w0 (x.returnParts w0 m) := by
  have parts : x.afterLight.returnParts w0 m = x.returnParts w0 m := by
    have returns : x.afterLight.returns m = x.returns m := returns_withW x m (afterLight_cs x)
    unfold Site.returnParts Site.strayLanes
    rw [returns]
    rfl
  have stack : x.afterLight.returned m = x.returned m := by
    unfold Site.returned
    rw [afterLight_cs]
    rfl
  rw [← parts, ← stack]
  rfl

/-- A `ret` as it runs where no entry is in the area and not all of the warp's last lanes exit (R131, R148). -/
theorem retCommon_eq {i : Instr} {c : Ctl} {s : State} {x : Site} (h : Issues i s x) (light : x.light)
    (area : x.w.csM = 0) (stays : x.lastLanes (x.exiting (x.acting c)) = false) : retCommon i c s = .next
      ((x.afterLight.retLeaves (instrW0 i) (x.afterLight.acting c)).settle x.afterLight.b.key x.afterLight.w.num) := by
  unfold retCommon
  dsimp only
  rw [issueCommitWhen_light h light]
  · have area' := (afterLight_csM x).trans area
    generalize x.afterLight = y at area'
    rw [foldl_popLane_returns (y.acting c) area']
    dsimp only
    rw [trimArea_of_empty (by exact area')]
    rfl
  · let y := x.withW (x.w.lightCommit x.inRegion)
    have acting : y.acting c = x.acting c := acting_withW x c (lightCommit_p _ _)
    have y_area : y.w.csM = 0 := by
      refine Eq.trans ?_ area
      show (x.w.lightCommit x.inRegion).csM = _
      cases x.inRegion <;> rfl
    have y_returns : y.returns (x.acting c) = x.returns (x.acting c) := by
      refine returns_withW x _ ?_
      cases x.inRegion <;> rfl
    have y_last (m : Mask) : y.lastLanes m = x.lastLanes m := by
      show (liveLanes (x.w.lightCommit x.inRegion).frontier &&& ~~~m == 0) = _
      rw [lightCommit_frontier]
      rfl
    show (_ != 0 && y.lastLanes _ && y.transfersOut) = false
    rw [foldl_popLane_returns (y.acting c) y_area, acting]
    dsimp only
    rw [y_returns, y_last]
    show (_ && x.lastLanes (x.exiting (x.acting c)) && _) = false
    rw [stays, Bool.and_false, Bool.false_and]

/-- What a `ret` leaves: its lanes have returned, and the region has committed (R131, R148). -/
def Site.pops (x : Site) (w' : Warp) (m : Mask) : Prop :=
  (∀ l, l < 32 → x.mask.getLsbD l = true → w'.stands l =
    if m.getLsbD l then x.returnStand (x.w.calls l).head? else x.landing .next) ∧
  x.w.standKept w' x.mask ∧ x.committed w' (some x.after) ∧
  w'.base = { x.w with cs := w'.cs, exited := w'.exited }.base ∧
  (∀ l, l < 32 → w'.exited.getLsbD l = (x.w.exited.getLsbD l || (m.getLsbD l && (x.w.calls l).isEmpty))) ∧
  ∀ l, l < 32 → w'.calls l =
    if m.getLsbD l && (x.w.calls l).head?.any (fun r => x.g.legalPc (x.returnPc r.2)) then (x.w.calls l).tail
    else x.w.calls l

/-- No entry is in the area, and a live lane remains that does not wait in `waitv`. -/
def Site.retRoom (x : Site) (m : Mask) : Prop := x.light ∧ x.w.csM = 0 ∧ x.w.waits = [] ∧
  ∃ l r, l < 32 ∧ x.w.stands l = some r ∧ r.2 ≠ 3 ∧ (m.getLsbD l = true → x.w.calls l ≠ [])

/-- The commit point of a `ret` leaves its lanes returned. -/
theorem leaveCommit_pops {s : State} {len : Nat} {x : Site} {m : Mask} (hx : s.site len = some x) (hh : x.handler = false)
    (sub : ∀ l, m.getLsbD l = true → x.mask.getLsbD l = true) (w0 : DWord) :
    let t := (x.withW (x.afterLight.w.withStack (x.returned m))).leaveCommit false w0 (x.returnParts w0 m)
    ∃ w', t.warpAt s.cur = some w' ∧ x.pops w' m ∧ OthersKept s t := by
  intro t
  let w : Warp := x.afterLight.w.withStack (x.returned m)
  obtain ⟨w', warp, begun, kept⟩ := leaveCommit_begins (w := w) hx hh rfl w0 (x.returnParts w0 m)
  have outside {l : Nat} (hl : l < 32) (out : x.mask.getLsbD l = false) :
      ∀ p ∈ x.returnParts w0 m, p.1.getLsbD l = false := by
    have idle : m.getLsbD l = false := by
      rw [← Bool.not_eq_true]
      exact fun bit => absurd (out.symm.trans (sub l bit)) Bool.false_ne_true
    intro p mem
    rcases List.mem_cons.1 mem with rfl | mem
    · rw [not_taken_bit, out, Bool.false_and]
    rcases List.mem_cons.1 mem with rfl | mem
    · rw [← Bool.not_eq_true, strayLanes_bit x m hl, idle]
      simp
    · rw [← Bool.not_eq_true]
      intro bit
      have := (exists_keptReturns hl (q := fun _ => True)).1 ⟨p, mem, trivial, bit⟩
      rw [idle] at this
      exact Bool.false_ne_true this.1.2
  have exits {l : Nat} (hl : l < 32) : (∃ p ∈ x.returnParts w0 m, p.2 = .exit ∧ p.1.getLsbD l = true) ↔
      x.w.calls l = [] ∧ m.getLsbD l = true := by
    have stray : ∀ {o}, x.returnMove o = .exit → ¬ x.strays (x.returnMove o) = true := fun exits => by
      rw [exits]
      exact Bool.false_ne_true
    have exit_iff : x.returnMove (x.w.calls l).head? = .exit ↔ x.w.calls l = [] := by
      cases x.w.calls l <;> simp [Site.returnMove]
    unfold Site.returnParts
    rw [List.exists_mem_cons_iff, List.exists_mem_cons_iff, exists_keptReturns hl (q := fun mv => mv = .exit), ← exit_iff,
      ← Bool.not_eq_true, strayLanes_bit x m hl]
    simp
    tauto
  refine ⟨w', warp, ⟨fun l hl entry => ?_, fun l hl out => ?_, begun.committed, begun.base_kept rfl, fun l hl => ?_,
    fun l hl => ?_⟩, kept⟩
  · exact (begun.stands l).trans (moved_stands hl entry (returnParts_lands w0 m hl entry))
  · refine (begun.stands l).trans ((moved_stands_out hl out (outside hl out)).trans ?_)
    exact congrArg (standsIn · l) (afterLight_frontier x)
  · rw [begun.exited, Bool.eq_iff_iff, moved_exited, exits hl, show w.exited = x.w.exited from afterLight_exited x]
    simp [and_comm]
  · have calls : w.calls l = _ := callsIn_returned x m hl
    refine (congrArg (callsIn · l) begun.cs).trans ((moved_calls x w w0 hl fun p mem exit bit => ?_).trans calls)
    rw [calls, ((exits hl).1 ⟨p, mem, exit, bit⟩).1]
    simp

theorem retCommon_pops {i : Instr} {c : Ctl} {s : State} {x : Site} (h : Issues i s x) (hi : handlerIllegal i = true)
    (room : x.retRoom (x.acting c)) :
    ∃ t w', retCommon i c s = .next t ∧ t.warpAt s.cur = some w' ∧ x.pops w' (x.acting c) ∧ OthersKept s t := by
  obtain ⟨light, area, waits, l, r, hl, stands, awake, held⟩ := room
  obtain ⟨-, -, -, -, key, num, -⟩ := site_spec h.site
  obtain ⟨w', warp, pops, kept⟩ := leaveCommit_pops h.site (notHandler h hi) (fun k => acting_sub x c (l := k)) (instrW0 i)
  obtain ⟨inEntry, outEntry, -, base, -⟩ := id pops
  have stays : (x.exiting (x.acting c)).getLsbD l = false := by
    rw [← Bool.not_eq_true, exiting_bit x _ hl]
    exact fun ⟨none_held, acts⟩ => held acts none_held
  have stays_awake : ∃ e ∈ w'.frontier, e.park ≠ 3 := by
    obtain ⟨r', there, awake'⟩ : ∃ r', w'.stands l = some r' ∧ r'.2 ≠ 3 := by
      cases entry : x.mask.getLsbD l with
      | false => exact ⟨r, (outEntry l hl entry).trans stands, awake⟩
      | true =>
        rw [inEntry l hl entry]
        split
        · next acts =>
          obtain ⟨q, t, calls⟩ := List.exists_cons_of_ne_nil (held acts)
          refine ⟨_, by rw [calls]; rfl, ?_⟩
          dsimp only
          split
          · simp
          · simp
        · unfold Site.landing
          dsimp only
          split
          · exact ⟨_, rfl, by simp⟩
          · exact ⟨_, rfl, by simp⟩
    obtain ⟨e, he, -, rfl⟩ := Warp.stands_mem there
    exact ⟨e, he, awake'⟩
  have still := State.settle_still (k := x.b.key) (n := x.w.num) (w := w') (by
      rw [← warp, ← Prod.mk.eta (p := s.cur), ← key, ← num])
    ((congrArg Warp.csM base).trans area) ((congrArg Warp.waits base).trans waits) stays_awake
  refine ⟨_, w', ?_, warp, pops, kept⟩
  rw [retCommon_eq h light area (Site.lastLanes_eq_false hl stands stays), afterLight_acting x c, retLeaves_afterLight,
    afterLight_num]
  exact congrArg _ still

/-- The second part of O14: `ret` with and without a guard. -/
theorem returnsPop : Claims.ReturnsPop := fun c =>
  ⟨fun _ _ h room => retCommon_pops (c := Ctl.none) h rfl room, fun _ _ h room => retCommon_pops (c := c) h rfl room⟩

/-- Settles O14: a call and a `ret` are commit points, and each lane's calls are the entries that hold it. -/
theorem callsAndReturns : Obligations.CallsAndReturns := ⟨callsPush, returnsPop⟩

end Sys2Proof.Machine
end

section
/-! SUPPORT. Loads and stores of exposed code (R122, R217, R242, R244): what an access leaves of a site beside memory and
registers, where the lanes that fail the checks park, and the statement about them. -/

namespace Sys2Proof.Machine

/- ### What an access leaves of its site -/

/-- y is site x with memory, registers and outstanding accesses changed: the blocks, the warps of its block, its place and
the frontier are those of x. -/
structure Site.accessed (x y : Site) : Prop where
  blocks : y.s.blocks = x.s.blocks
  key : y.b.key = x.b.key
  warps : y.b.warps = x.b.warps
  num : y.w.num = x.w.num
  frontier : y.w.frontier = x.w.frontier
  place : { y with s := x.s, b := x.b, w := x.w } = x

theorem Site.accessed.refl (x : Site) : x.accessed x := ⟨rfl, rfl, rfl, rfl, rfl, rfl⟩

theorem Site.accessed.trans {x y z : Site} (h : x.accessed y) (k : y.accessed z) : x.accessed z where
  blocks := k.blocks.trans h.blocks
  key := k.key.trans h.key
  warps := k.warps.trans h.warps
  num := k.num.trans h.num
  frontier := k.frontier.trans h.frontier
  place := (congrArg (fun u : Site => { u with s := x.s, b := x.b, w := x.w }) k.place).trans h.place

/-- One access after the other. -/
theorem Site.accessed.foldl {α : Type} {f : Site → α → Site} (step : ∀ (y : Site) (a : α), y.accessed (f y a))
    (as : List α) (x : Site) : x.accessed (as.foldl f x) := by
  induction as generalizing x with
  | nil => exact .refl x
  | cons a t ih => exact (step x a).trans (ih _)

theorem Site.accessed.ofState (x : Site) {s : State} (h : s.blocks = x.s.blocks) : x.accessed { x with s := s } :=
  ⟨h, rfl, rfl, rfl, rfl, rfl⟩

theorem Site.accessed.ofWarp (x : Site) {w : Warp} (num : w.num = x.w.num) (frontier : w.frontier = x.w.frontier) :
    x.accessed (x.withW w) := ⟨rfl, rfl, rfl, num, frontier, rfl⟩

theorem accessed_issued (x : Site) (i : Instr) : x.accessed (x.issued i) :=
  ⟨rfl, rfl, rfl, num_of_others (issued_others x i), issued_frontier x i, rfl⟩

theorem State.writeLocs_blocks (s : State) (ls : List Loc) (bs : List Byte) : (s.writeLocs ls bs).blocks = s.blocks := by
  obtain ⟨d, lp, hm, ps, eq⟩ := s.writeLocs_rest ls bs
  rw [eq]

theorem State.wakeStore_blocks (s : State) (ls : List Loc) (bs : List Byte) : (s.wakeStore ls bs).blocks = s.blocks := by
  unfold State.wakeStore
  split
  · rfl
  · rfl

theorem accessed_writeLocs (x : Site) (ls : List Loc) (bs : List Byte) : x.accessed (x.writeLocs ls bs) := by
  unfold Site.writeLocs
  split
  · exact ⟨rfl, rfl, rfl, rfl, rfl, rfl⟩
  · exact .ofState x (State.wakeStore_blocks ..)
  · exact .ofState x (State.writeLocs_blocks ..)

/-- One lane's store changes memory, what is sent and what is awaited (R225, R236, R244). -/
theorem accessed_storeLane (x : Site) (c : Ctx) (st : StoreLane) (ls : List Loc) : x.accessed (x.storeLane c st ls) := by
  unfold Site.storeLane
  split
  · exact ⟨rfl, rfl, rfl, rfl, rfl, rfl⟩
  · exact accessed_writeLocs ..

theorem foldl_vset_place (l : Nat) (at_ : Nat → Nat) (v : Nat → Word) (ks : List Nat) (w : Warp) :
    (ks.foldl (fun w k => w.vset (at_ k) l (v k)) w).num = w.num ∧
      (ks.foldl (fun w k => w.vset (at_ k) l (v k)) w).frontier = w.frontier := by
  induction ks generalizing w with
  | nil => exact ⟨rfl, rfl⟩
  | cons k t ih => exact ih _

/-- A value that lands moves no lane. -/
theorem land_place (w : Warp) (l : Nat) (d : LoadDst) (bytes : List Byte) :
    (w.land l d bytes).num = w.num ∧ (w.land l d bytes).frontier = w.frontier := by
  cases d with
  | vec r sz => exact foldl_vset_place l (fun k => r.toNat + k + 1) _ _ _
  | sca r sz => exact ⟨rfl, rfl⟩
  | old r w64 =>
    unfold Warp.land
    cases w64 <;> exact ⟨rfl, rfl⟩

/-- One lane's load changes its registers, or is outstanding (R236, R244). -/
theorem accessed_loadLane (x : Site) (k : Ctx) (l : Nat) (sp : Bool) (addr : DWord) (n : Nat) (d : LoadDst) (ls : List Loc)
    (bytes : List Byte) (held : List (Option Byte)) : x.accessed (x.loadLane k l sp addr n d ls bytes held) := by
  unfold Site.loadLane
  dsimp only
  split
  · exact ⟨rfl, rfl, rfl, rfl, rfl, rfl⟩
  · split
    · exact ⟨rfl, rfl, rfl, rfl, rfl, rfl⟩
    · obtain ⟨num, frontier⟩ := land_place x.w l d bytes
      exact .ofWarp x num frontier

/- ### Requests and records of failing lanes -/

theorem State.writeLocs_clean {s : State} (clean : s.poison = []) (ls : List Loc) (bs : List Byte) :
    (s.writeLocs ls bs).poison = [] := by
  obtain ⟨d, lp, hm, written⟩ := foldl_writeMem_rest (ls.zip bs) s
  unfold State.writeLocs
  rw [written, clean]
  rfl

theorem State.writeVa_clean {s t : State} {c : Ctx} {va : Nat} {bs : List Byte} (clean : s.poison = [])
    (h : s.writeVa c va bs = .ok t) : t.poison = [] := by
  unfold State.writeVa State.writeOn at h
  dsimp only at h
  split at h
  · cases h
  · cases h
    exact State.writeLocs_clean clean _ _

/-- A record of a context's log poisons nothing. -/
theorem State.logCtxRec_clean {s : State} (clean : s.poison = []) (n : Nat) (r : LogRec) :
    (s.logCtxRec n r).poison = [] := by
  unfold State.logCtxRec
  split
  · exact clean
  · dsimp only
    split
    · exact clean
    · split
      · exact clean
      · next first =>
        split
        · exact clean
        · next second =>
          have both := State.writeVa_clean (State.writeVa_clean clean first) second
          exact both

theorem State.request_blocks (s : State) (n : Nat) (agent : Bool) (b : Bad) : (s.request n agent b).blocks = s.blocks := by
  unfold State.request
  split
  · split
    · rfl
    · rfl
  · rfl

theorem State.request_poison (s : State) (n : Nat) (agent : Bool) (b : Bad) : (s.request n agent b).poison = s.poison := by
  unfold State.request
  split
  · split
    · rfl
    · rfl
  · rfl

theorem State.countWake_blocks (s : State) (n : Nat) (b : Bad) : (s.countWake n b).blocks = s.blocks := by
  unfold State.countWake
  split
  · next va =>
    split
    · obtain ⟨d, lp, hm, ps, cs, f, logged, -⟩ := s.logCtxRec_rest n
        ⟨kDenied, TrapCode.page.num, BitVec.ofNat 16 ((va - wakeBase) / 64), BitVec.ofNat 64 va, n, 1⟩
      rw [State.logCtx, logged]
    · rfl
  · rfl

theorem State.countWake_clean {s : State} (clean : s.poison = []) (n : Nat) (b : Bad) : (s.countWake n b).poison = [] := by
  unfold State.countWake
  split
  · split
    · exact State.logCtxRec_clean clean _ _
    · exact clean
  · exact clean

/-- What the failing lanes ask for and what is counted leaves blocks alone and poisons nothing (R31, R218). -/
theorem requests_keeps (x : Site) (k : Ctx) (a : Accs) :
    (x.requests k a).s.blocks = x.s.blocks ∧ (x.s.poison = [] → (x.requests k a).s.poison = []) := by
  unfold Site.requests
  dsimp only
  generalize x.s = s
  induction a generalizing s with
  | nil => exact ⟨rfl, id⟩
  | cons p t ih =>
    obtain ⟨blocks, clean⟩ := ih (match p.2 with
      | .bad b => (s.request k.num false b).countWake k.num b
      | _ => s)
    refine ⟨blocks.trans ?_, fun h => clean ?_⟩
    · split
      · rw [State.countWake_blocks, State.request_blocks]
      · rfl
    · split
      · exact State.countWake_clean ((State.request_poison ..).trans h) _ _
      · exact h

/- ### How an access leaves -/

/-- An access outside a handler leaves with its lanes moved from where they stood. -/
theorem leave_accessed {s : State} {len : Nat} {x y : Site} (hx : s.site len = some x) (hh : x.handler = false)
    (same : x.accessed y) (w0 : DWord) (parts : List (Mask × Move)) :
    ∃ w', (y.leave w0 parts).warpAt s.cur = some w' ∧ ∀ l, w'.stands l = (x.moved y.w w0 parts).stands l := by
  obtain ⟨hs, -, block, warp, key, num, -, -⟩ := site_spec hx
  have handler : y.handler = false := (congrArg Site.handler same.place).trans hh
  have moves (w : Warp) : y.moved w w0 parts = x.moved w w0 parts :=
    (congrArg (fun u : Site => u.moved w w0 parts) same.place : { y with s := x.s, b := x.b, w := x.w }.moved w w0 parts = _)
  have v_num : (y.moved y.w w0 parts).num = x.w.num := (moved_num ..).trans same.num
  have y_block : y.s.block? y.b.key = some x.b := by
    unfold State.block? at block ⊢
    rw [same.blocks, same.key, hs]
    exact block
  have y_warp : y.b.warp? (y.moved y.w w0 parts).num = some x.w := by
    unfold Block.warp? at warp ⊢
    rw [same.warps, v_num]
    exact warp
  have back := (putBack_putWarp y.g y_block y_warp).warp
  rw [v_num, same.key, key, num] at back
  refine ⟨(y.moved y.w w0 parts).takeTrap y.g.img.desc.trapent, ?_, fun l => ?_⟩
  · unfold Site.leave
    rw [handler]
    exact back
  · rw [← moves]
    exact congrArg (standsIn · l) (takeTrap_frontier _ _)

/-- The lanes that leave in the parts of the checks. -/
def Accs.partLanes (a : Accs) (replay : Bool) : Mask := (a.parts replay ++ [eccuPart []]).foldl (fun m q => m ||| q.1) 0

/-- An access of exposed code that meets neither a strongly ordered page nor poison performs its good lanes and leaves in
the parts of its checks (R217). -/
theorem accessAll_exposed {x : Site} {i : Instr} {k : Ctx} {addr : Nat → DWord} {a : Accs} {reads : Option Block}
    {replay : Bool} {go : Site → List (Nat × List Loc) → Site} (exposed : x.inRegion = false) (calm : a.strong = false)
    (clean : x.s.poison = []) (spad : ∀ b, reads = some b → b.spadPoison = []) : ∃ good,
      x.accessAll i k addr a reads replay go =
        (go (x.requests k a) good).leave (instrW0 i) (a.parts replay ++ [eccuPart []] ++
          [(x.mask &&& ~~~a.partLanes replay, .next)]) := by
  have outside : (x.requests k a).inRegion = false := exposed
  have clean' : (x.requests k a).s.poison = [] := (requests_keeps x k a).2 clean
  have unpoisoned (b : Block) (hb : reads = some b) : (x.requests k a).poisonedLanes b k addr a.good = [] := by
    simp [Site.poisonedLanes, Site.poisonedByte, clean', spad b hb]
  refine ⟨a.good.filter fun q => !(consumedMask []).getLsbD q.1, ?_⟩
  unfold Site.accessAll
  simp only [outside, calm, Bool.false_and, Bool.false_eq_true, if_false]
  cases reads with
  | none => cases a.badCause <;> rfl
  | some b =>
    simp only [unpoisoned b rfl]
    cases a.badCause <;> rfl

/- ### The parts of the checks -/

/-- Where a lane comes to stand after its checks: parked at the instruction where they fail, else at the next
instruction (R122, R217). -/
def Site.accessStand (x : Site) (bad : BitVec 4) : LaneAcc → Option (DWord × BitVec 4)
  | .trap _ => some (x.pc, 1)
  | .bad _ => some (x.pc, bad)
  | .good _ _ => x.landing .next

theorem exists_accsOf {m : Mask} {f : Nat → LaneAcc} {q : Nat → LaneAcc → Prop} :
    (∃ p ∈ accsOf m f, q p.1 p.2) ↔ ∃ l, l < 32 ∧ m.getLsbD l = true ∧ q l (f l) := by
  unfold accsOf
  simp [lanes, and_assoc]

/-- The lanes of m whose checks come to what c says. -/
theorem accsOf_mask_bit (m : Mask) (f : Nat → LaneAcc) (c : LaneAcc → Bool) {l : Nat} (hl : l < 32) :
    ((accsOf m f).mask c).getLsbD l = (m.getLsbD l && c (f l)) := by
  unfold Accs.mask
  rw [Bool.eq_iff_iff, Bool.and_eq_true, foldl_or_bit (c := fun p : Nat × LaneAcc => c p.2 = true)
    (g := fun p => laneBit p.1), exists_accsOf (q := fun k a => c a = true ∧ (laneBit k).getLsbD l = true)]
  constructor
  · rintro (zero | ⟨k, -, bit, holds, at_l⟩)
    · simp at zero
    · obtain rfl : l = k := by simpa [laneBit_bit k l hl] using at_l
      exact ⟨bit, holds⟩
  · rintro ⟨bit, holds⟩
    exact .inr ⟨l, hl, bit, holds, by simp [laneBit_bit l l hl]⟩

/-- The lanes of a trap's part park with its code. -/
theorem trapPart_lands (x : Site) {a : Accs} {t : TrapCode} (some_lane : ∃ p ∈ a, p.2.isTrap t = true) :
    x.landing (a.trapPart t).2 = some (x.pc, t.park) := by
  unfold Accs.trapPart
  dsimp only
  cases found : a.find? fun p => p.2.isTrap t with
  | none =>
    obtain ⟨p, mem, trapped⟩ := some_lane
    exact absurd trapped (List.find?_eq_none.1 found p mem)
  | some p =>
    obtain ⟨l, acc⟩ := p
    have trapped : acc.isTrap t = true := List.find?_some (p := fun p : Nat × LaneAcc => p.2.isTrap t) found
    cases acc with
    | trap c => exact congrArg (fun k : TrapCode => some (x.pc, k.park)) (beq_iff_eq.1 trapped)
    | good ls ord => cases trapped
    | bad b => cases trapped

/-- The cause of lanes that do not translate is a PAGE (R213). -/
theorem badCause_page {a : Accs} (some_lane : ∃ p ∈ a, p.2.isBad = true) :
    ∃ c, a.badCause = some c ∧ c.code = .page := by
  unfold Accs.badCause
  induction a with
  | nil => simp at some_lane
  | cons p t ih =>
    obtain ⟨l, acc⟩ := p
    rw [List.findSome?_cons]
    cases acc with
    | bad b => cases b <;> exact ⟨_, rfl, rfl⟩
    | good ls ord => exact ih (by simpa [LaneAcc.isBad] using some_lane)
    | trap c => exact ih (by simpa [LaneAcc.isBad] using some_lane)

/-- The park code of lanes that do not translate: a load's await its replay (R122, R217). -/
def badPark (replay : Bool) : BitVec 4 := if replay then 6 else 2

/-- The checks of a lane raise SPAD or ALIGN alone (R242). -/
def LaneAcc.checked : LaneAcc → Prop
  | .trap c => c.code = .spad ∨ c.code = .align
  | _ => True

theorem access_checked (x : Site) (k : Ctx) (sp : Bool) (addr : DWord) (n : Nat) (acc : Access) (aligned : Bool) :
    (x.access k sp addr n acc aligned).checked := by
  unfold Site.access
  dsimp only
  split
  · exact .inl rfl
  · split
    · exact .inr rfl
    · split
      · trivial
      · trivial

/-- The part of the lanes that do not translate. -/
def Accs.badPart (a : Accs) (replay : Bool) : Mask × Move :=
  (a.mask LaneAcc.isBad, match a.badCause with
    | some c => if replay then .replay c else .trap c
    | none => .next)

theorem Accs.parts_eq (a : Accs) (replay : Bool) :
    a.parts replay = [a.trapPart .spad, a.trapPart .align, a.badPart replay] := rfl

theorem badPart_lands (x : Site) {a : Accs} (replay : Bool) (some_lane : ∃ p ∈ a, p.2.isBad = true) :
    x.landing (a.badPart replay).2 = some (x.pc, badPark replay) := by
  obtain ⟨c, cause, page⟩ := badCause_page some_lane
  unfold Accs.badPart
  rw [cause]
  cases replay with
  | true => rfl
  | false => exact congrArg (fun k : TrapCode => some (x.pc, k.park)) page

/-- The parts of an access: those of the failing lanes, none for poison, and the other lanes of the entry. -/
def Site.accessParts (x : Site) (a : Accs) (replay : Bool) : List (Mask × Move) :=
  a.parts replay ++ [eccuPart []] ++ [(x.mask &&& ~~~a.partLanes replay, .next)]

theorem eccuPart_nil : (eccuPart []).1 = 0 := rfl

theorem partLanes_bit (a : Accs) (replay : Bool) (l : Nat) : (a.partLanes replay).getLsbD l =
    ((a.mask (LaneAcc.isTrap .spad)).getLsbD l || (a.mask (LaneAcc.isTrap .align)).getLsbD l ||
      (a.mask LaneAcc.isBad).getLsbD l) := by
  unfold Accs.partLanes
  rw [Accs.parts_eq]
  simp [eccuPart_nil, Accs.trapPart, Accs.badPart]

/-- Where the parts of an access land a lane of the entry: where its own checks say, if it acts. -/
theorem accessParts_land {x : Site} {m : Mask} {f : Nat → LaneAcc} (replay : Bool) {l : Nat} (hl : l < 32)
    (entry : x.mask.getLsbD l = true) (checked : (f l).checked) (r : DWord × BitVec 4) :
    (∃ p ∈ x.accessParts (accsOf m f) replay, p.1.getLsbD l = true ∧ x.landing p.2 = some r) ↔
      (if m.getLsbD l then x.accessStand (badPark replay) (f l) else x.landing .next) = some r := by
  have has (c : LaneAcc → Bool) := accsOf_mask_bit m f c hl
  have member (acts : m.getLsbD l = true) {c : LaneAcc → Bool} (holds : c (f l) = true) :
      ∃ p ∈ accsOf m f, c p.2 = true := (exists_accsOf (q := fun _ a => c a = true)).2 ⟨l, hl, acts, holds⟩
  have spad_bit : ((accsOf m f).trapPart .spad).1.getLsbD l = (m.getLsbD l && LaneAcc.isTrap .spad (f l)) := has _
  have align_bit : ((accsOf m f).trapPart .align).1.getLsbD l = (m.getLsbD l && LaneAcc.isTrap .align (f l)) := has _
  have bad_bit : ((accsOf m f).badPart replay).1.getLsbD l = (m.getLsbD l && LaneAcc.isBad (f l)) := has _
  have rest := not_taken_bit x ((accsOf m f).partLanes replay) l
  rw [partLanes_bit, has, has, has, entry, Bool.true_and] at rest
  unfold Site.accessParts
  simp only [Accs.parts_eq, List.cons_append, List.nil_append, List.exists_mem_cons_iff, rest, spad_bit, align_bit,
    bad_bit, eccuPart_nil]
  cases acts : m.getLsbD l with
  | false => simp
  | true =>
    cases fl : f l with
    | good ls ord => simp [LaneAcc.isTrap, LaneAcc.isBad, Site.accessStand]
    | bad b =>
      have lands := badPart_lands x replay (member acts (c := LaneAcc.isBad) (by rw [fl]; rfl))
      simp [LaneAcc.isTrap, LaneAcc.isBad, Site.accessStand, lands]
    | trap c =>
      rw [fl] at checked
      rcases checked with code | code
      · have lands := trapPart_lands x (member acts (c := LaneAcc.isTrap .spad) (by simp [fl, LaneAcc.isTrap, code]))
        simp [LaneAcc.isTrap, LaneAcc.isBad, Site.accessStand, code, lands, TrapCode.park]
      · have lands := trapPart_lands x (member acts (c := LaneAcc.isTrap .align) (by simp [fl, LaneAcc.isTrap, code]))
        simp [LaneAcc.isTrap, LaneAcc.isBad, Site.accessStand, code, lands, TrapCode.park]

/-- The parts of an access hold lanes of the entry alone. -/
theorem accessParts_out {x : Site} {m : Mask} {f : Nat → LaneAcc} {replay : Bool} {l : Nat} (hl : l < 32)
    (sub : m.getLsbD l = true → x.mask.getLsbD l = true) (out : x.mask.getLsbD l = false) :
    ∀ p ∈ x.accessParts (accsOf m f) replay, p.1.getLsbD l = false := by
  have still : m.getLsbD l = false := Bool.eq_false_iff.2 fun acts => by simp [sub acts] at out
  have has (c : LaneAcc → Bool) : ((accsOf m f).mask c).getLsbD l = false := by
    rw [accsOf_mask_bit m f c hl, still, Bool.false_and]
  have rest := not_taken_bit x ((accsOf m f).partLanes replay) l
  rw [out, Bool.false_and] at rest
  intro p mem
  simp only [Site.accessParts, Accs.parts_eq, List.cons_append, List.nil_append, List.mem_cons, List.not_mem_nil,
    or_false] at mem
  rcases mem with rfl | rfl | rfl | rfl | rfl
  · exact has _
  · exact has _
  · exact has _
  · simp [eccuPart_nil]
  · exact rest

/-- No lane touches a strongly ordered page where none of the good ones does. -/
theorem not_strong {m : Mask} {f : Nat → LaneAcc}
    (calm : ∀ l ls ord, m.getLsbD l = true → f l = .good ls ord → ord ≠ 1) : (accsOf m f).strong = false := by
  refine Bool.eq_false_iff.2 fun strong => ?_
  unfold Accs.strong at strong
  rw [List.any_eq_true] at strong
  obtain ⟨l, -, acts, ordered⟩ := (exists_accsOf (q := fun _ a => (match a with
    | .good _ ord => ord == 1
    | _ => false) = true)).1 strong
  cases fl : f l with
  | good ls ord =>
    rw [fl] at ordered
    exact calm l ls ord acts fl (beq_iff_eq.1 ordered)
  | bad b => simp [fl] at ordered
  | trap c => simp [fl] at ordered

/-- An access of exposed code parks the lanes that fail its checks and moves the others on (R122, R217). -/
theorem accessAll_parks {s : State} {len : Nat} {x y : Site} {i : Instr} {k : Ctx} {addr : Nat → DWord} {m : Mask}
    {f : Nat → LaneAcc} {reads : Option Block} {replay : Bool} {go : Site → List (Nat × List Loc) → Site}
    (hx : s.site len = some x) (hh : x.handler = false) (same : x.accessed y) (exposed : y.inRegion = false)
    (sub : ∀ l, m.getLsbD l = true → x.mask.getLsbD l = true) (checked : ∀ l, (f l).checked)
    (calm : ∀ l ls ord, m.getLsbD l = true → f l = .good ls ord → ord ≠ 1) (clean : y.s.poison = [])
    (spad : ∀ b, reads = some b → b.spadPoison = [])
    (goes : ∀ (z : Site) (good : List (Nat × List Loc)), z.accessed (go z good)) :
    ∃ w', (y.accessAll i k addr (accsOf m f) reads replay go).warpAt s.cur = some w' ∧ x.w.standKept w' x.mask ∧
      ∀ l, l < 32 → x.mask.getLsbD l = true →
        w'.stands l = if m.getLsbD l then x.accessStand (badPark replay) (f l) else x.landing .next := by
  obtain ⟨good, run⟩ := accessAll_exposed (i := i) (k := k) (addr := addr) (replay := replay) (go := go) exposed
    (not_strong calm) clean spad
  have asked : y.accessed (y.requests k (accsOf m f)) := .ofState y (requests_keeps ..).1
  have all := (same.trans asked).trans (goes _ good)
  have mask : y.mask = x.mask := (congrArg Site.mask same.place :)
  obtain ⟨w', warp, stands⟩ := leave_accessed hx hh all (instrW0 i) (x.accessParts (accsOf m f) replay)
  refine ⟨w', ?_, fun l hl out => ?_, fun l hl entry => ?_⟩
  · rw [run, mask]
    exact warp
  · exact (stands l).trans ((moved_stands_out hl out (accessParts_out hl (sub l) out)).trans
      (congrArg (standsIn · l) all.frontier))
  · exact (stands l).trans (moved_stands hl entry (accessParts_land replay hl entry (checked l)))

/- ### Loads and stores -/

theorem issued_ctx (x : Site) (i : Instr) : (x.issued i).ctx? = x.ctx? := rfl

/-- An instruction that issues checks the accesses that the site shows. -/
theorem access_issued (x : Site) (i : Instr) (k : Ctx) (sp : Bool) (addr : Addr) (n : Nat) (acc : Access) (l : Nat) :
    (x.issued i).access k sp ((x.issued i).w.addr sp addr l) n acc false =
      x.access k sp (x.w.addr sp addr l) n acc false :=
  congrArg (x.access k sp · n acc false) (of_others (fun w => w.addr sp addr l) (issued_others x i))

/-- Settles O21: the failing lanes of an access have parts of their own, and the rest of the entry moves on. -/
theorem accessFaultsPark : Obligations.AccessFaultsPark := by
  unfold Obligations.AccessFaultsPark
  intro c d addr sp ann lz sz cx x went free ctx exposed handler
  have lane (acc : Nat → LaneAcc) (w' : Warp) (bad : Bool) (kept : x.w.standKept w' x.mask)
      (stand : ∀ l, l < 32 → x.mask.getLsbD l = true → w'.stands l =
        if (x.acting c).getLsbD l then x.accessStand (badPark bad) (acc l) else x.landing .next) :
      went w' acc (badPark bad) := by
    refine ⟨kept, fun l hl entry => (stand l hl entry).trans ?_⟩
    cases acc l <;> rfl
  refine ⟨fun s h hfree => ?_, fun s h hfree => ?_⟩
  · obtain ⟨clean, spad, calm⟩ := hfree
    let i := Instr.ld c d addr sp ann lz
    obtain ⟨w', warp, kept, stand⟩ := accessAll_parks (i := i) (k := cx) (y := x.issued i)
      (addr := (x.issued i).w.addr sp addr) (m := x.acting c)
      (f := fun l => x.access cx sp (x.w.addr sp addr l) (ldBytes lz) .load false) (reads := some x.b) (replay := true)
      (go := fun y good => good.foldl (fun y p => y.loadLane cx p.1 sp ((x.issued i).w.addr sp addr p.1) (ldBytes lz)
        (.vec d lz) p.2 (y.readLocs cx p.2) (y.heldBytes cx p.2)) y)
      h.site handler (accessed_issued x i) ((inRegion_issued x i).trans exposed) (fun l => acting_sub x c)
      (fun l => access_checked ..) calm clean (fun b hb => by cases hb; exact spad)
      (fun z good => .foldl (fun y p => accessed_loadLane ..) good z)
    refine ⟨_, w', ?_, warp, lane _ w' true kept stand⟩
    show execLd c d addr sp ann lz s = _
    unfold execLd
    rw [issue_of_issues h, issued_ctx, ctx]
    dsimp only [Site.loadLanes]
    simp only [access_issued, acting_issued]
    rfl
  · obtain ⟨clean, spad, calm⟩ := hfree
    let i := Instr.st c d addr sp .relaxed sz
    obtain ⟨w', warp, kept, stand⟩ := accessAll_parks (i := i) (k := cx) (y := x.issued i)
      (addr := (x.issued i).w.addr sp addr) (m := x.acting c)
      (f := fun l => x.access cx sp (x.w.addr sp addr l) (stBytes sz) .store false) (reads := none) (replay := false)
      (go := fun y good =>
        let lane (l : Nat) : StoreLane := ⟨l, sp, (x.issued i).w.addr sp addr l, (x.issued i).w.storeBytes d sz l⟩
        if y.inRegion then y.withW { y.w with stores := y.w.stores ++ [good.map fun p => lane p.1] }
        else good.foldl (fun y p => y.storeLane cx (lane p.1) p.2) y)
      h.site handler (accessed_issued x i) ((inRegion_issued x i).trans exposed) (fun l => acting_sub x c)
      (fun l => access_checked ..) calm clean (fun b hb => by cases hb)
      (fun z good => by
        dsimp only
        split
        · exact .ofWarp z rfl rfl
        · exact .foldl (fun y p => accessed_storeLane ..) good z)
    refine ⟨_, w', ?_, warp, lane _ w' false kept stand⟩
    show execSt c d addr sp .relaxed sz s = _
    unfold execSt
    dsimp only
    rw [issue_of_issues h, issued_ctx, ctx]
    dsimp only [Site.storeLanes]
    simp only [access_issued, acting_issued, inRegion_issued, exposed, Bool.false_and, Bool.false_eq_true, if_false]
    rfl

end Sys2Proof.Machine
end

section
/-! SUPPORT. The supervisor's actions (R342): a state in which the statement about them fails. -/

namespace Sys2Proof.Machine

/-- A lane beyond the mask of every entry stands nowhere. -/
theorem Warp.stands_beyond (w : Warp) {l : Nat} (hl : 32 ≤ l) : w.stands l = none := by
  refine Option.eq_none_iff_forall_ne_some.2 fun r stands => ?_
  obtain ⟨e, -, bit, -⟩ := placed_of_stands stands
  exact absurd (BitVec.lt_of_getLsbD bit) (Nat.not_lt.2 hl)

/-- Refutes O40: of the lanes that have exited after KILL the statement says `l < 32 → exited ↔ …`, which reads
`(l < 32 → exited) ↔ …`. For l = 32 the left side holds trivially and the right side fails: no mask has a bit
32, and no entry holds such a lane. The state is that of the statement's own witness, lanes 0 to 15 parked with PARK 2 and
the others with PARK 7, and KILL selects lane 0. -/
theorem not_supervisorActions : ¬ Obligations.SupervisorActions := by
  unfold Obligations.SupervisorActions
  intro h
  obtain ⟨-, -, kill, -⟩ := h 0 1 0
  obtain ⟨b, w, g, picks, ⟨going, utraps, waits, area, -, lane0, lane31⟩, alone⟩ := Tests.witness_SupervisorActions.1
  have once (l : Nat) (hl : l < 32) : w.once l := fun e mem bit => by
    have here := List.all_eq_true.1 (List.all_eq_true.1 alone l (List.mem_range.2 hl)) e mem
    simpa [bit] using here
  have chosen : ((1 : Mask) = 0 ∨ (1 : Mask).getLsbD 0 = true) ∧
      ∃ k : BitVec 4, (k = 2 ∨ k = 6 ∨ k = 7) ∧ w.stands 0 = some (0x100, k) := ⟨.inr rfl, 2, .inl rfl, lane0⟩
  have spared (p : DWord) : ¬ (((1 : Mask) = 0 ∨ (1 : Mask).getLsbD 31 = true) ∧
      ∃ k : BitVec 4, (k = 2 ∨ k = 6 ∨ k = 7) ∧ w.stands 31 = some (p, k)) := fun sel => absurd sel.1 (by decide)
  obtain ⟨t, -, w', -, ⟨-, -, exited, -⟩, -⟩ := kill b w g Tests.tSup ⟨picks, going, once, utraps, waits, area,
    ⟨0, 0x100, by decide, chosen⟩, 31, _, by decide, lane31, by decide, spared⟩
  rcases (exited 32).1 fun lane => absurd lane (Nat.lt_irrefl 32) with bit | ⟨p, -, k, -, stands⟩
  · exact absurd (BitVec.lt_of_getLsbD bit) (Nat.lt_irrefl 32)
  · rw [w.stands_beyond (Nat.le_refl 32)] at stands
    cases stands

end Sys2Proof.Machine
end
